-- ==== Sys2Proof/Word.lean ====
section
/-! DEFINITION. The widths of the W3 (rules R4, R5, R215) and the plainest arithmetic on them. -/

namespace Sys2Proof

/-- A byte of memory. -/
abbrev Byte := BitVec 8
/-- A scalar register, and every 64-bit system register (rules R215, R11). -/
abbrev Word := BitVec 64
/-- A vector register: 256 bytes, byte 0 in bits [7:0] (rule R263). -/
abbrev Vec := BitVec 2048
/-- A 32-bit word of the instruction stream (rules R209, R211). -/
abbrev Word32 := BitVec 32
/-- A bundle address in IMEM: a byte address of 18 bits (rules R18, R215). -/
abbrev CodeAddr := BitVec 18

/-- The number of cores, tiles, blocks and reticles (rule R1). -/
def numCores : Nat := 49152
def numTiles : Nat := 24576
def numBlocks : Nat := 768
def numReticles : Nat := 48
def numRegions : Nat := 16

end Sys2Proof
end

