-- ==== Sys2Proof/Syntax.lean ====
section
/-! DEFINITION. The instruction set: one constructor for each row of the opcode table. The rows with an encoding are slot
instructions (rules R211, R222 to R231); their operands are the fields of their form, each with the guard G. The
other rows are the events of the part, each whole and indivisible; which agent an event concerns and, for an input from
outside, what arrives, stands in the state's field `arg` (log entry 8). -/

namespace Sys2Proof

/-- The slots of a bundle, in SP order (rule R209). -/
inductive Slot where
  | sa | sb | lm | va | vm | mx | xc | lp
  deriving DecidableEq, Repr

namespace Slot
/-- The bit of SP, and the slot number of TCAUSE.SLOT (rules R209, R355). -/
def num : Slot → Nat
  | .sa => 0 | .sb => 1 | .lm => 2 | .va => 3 | .vm => 4 | .mx => 5 | .xc => 6 | .lp => 7

/-- Every slot, in SP order. -/
def all : List Slot := [.sa, .sb, .lm, .va, .vm, .mx, .xc, .lp]
end Slot

/-- Form R3 with x = 0 (rule R222). -/
structure R3Ops where
  g : BitVec 4
  d : BitVec 6
  a : BitVec 6
  b : BitVec 6
  deriving DecidableEq, Repr

/-- Form R3 with its x field (rule R222). -/
structure R3xOps where
  g : BitVec 4
  d : BitVec 6
  a : BitVec 6
  b : BitVec 6
  x : BitVec 2
  deriving DecidableEq, Repr

/-- Form RIS (rule R222). -/
structure RisOps where
  g : BitVec 4
  d : BitVec 6
  a : BitVec 6
  imm : BitVec 8
  deriving DecidableEq, Repr

/-- Form RI (rule R222). -/
structure RiOps where
  g : BitVec 4
  d : BitVec 6
  imm : BitVec 14
  deriving DecidableEq, Repr

/-- Form PC (rule R222). -/
structure PcOps where
  g : BitVec 4
  pd : BitVec 4
  cc : BitVec 3
  a : BitVec 6
  b : BitVec 6
  deriving DecidableEq, Repr

/-- Form PCI (rule R222). -/
structure PciOps where
  g : BitVec 4
  pd : BitVec 4
  cc : BitVec 3
  a : BitVec 6
  imm : BitVec 7
  deriving DecidableEq, Repr

/-- Form B (rule R222). -/
structure BOps where
  g : BitVec 4
  off : BitVec 20
  deriving DecidableEq, Repr

/-- Form BL (rule R222). -/
structure BlOps where
  g : BitVec 4
  d : BitVec 6
  off : BitVec 14
  deriving DecidableEq, Repr

/-- Form R1A, and form RF with its sc bit fixed by the row (rule R222). -/
structure R1aOps where
  g : BitVec 4
  a : BitVec 6
  deriving DecidableEq, Repr

/-- Form R1D (rule R222). -/
structure R1dOps where
  g : BitVec 4
  d : BitVec 6
  deriving DecidableEq, Repr

/-- Form Z (rule R222). -/
structure ZOps where
  g : BitVec 4
  deriving DecidableEq, Repr

/-- Form T (rule R222). -/
structure TOps where
  g : BitVec 4
  code : BitVec 16
  deriving DecidableEq, Repr

/-- Form SYR (rule R222). -/
structure SyrOps where
  g : BitVec 4
  d : BitVec 6
  n : BitVec 12
  deriving DecidableEq, Repr

/-- Form SYW (rule R222). -/
structure SywOps where
  g : BitVec 4
  a : BitVec 6
  n : BitVec 12
  deriving DecidableEq, Repr

/-- Form FW (rule R222). -/
structure FwOps where
  g : BitVec 4
  f : BitVec 4
  a : BitVec 6
  deriving DecidableEq, Repr

/-- Form R2 (rule R222). -/
structure R2Ops where
  g : BitVec 4
  a : BitVec 6
  b : BitVec 6
  deriving DecidableEq, Repr

/-- Form R3 with b = 0 and x = 0 (rule R222). -/
structure DaOps where
  g : BitVec 4
  d : BitVec 6
  a : BitVec 6
  deriving DecidableEq, Repr

/-- Form CV with f = 0 (rule R222). -/
structure CvOps where
  g : BitVec 4
  d : BitVec 6
  a : BitVec 6
  m : BitVec 3
  deriving DecidableEq, Repr

/-- Form CV (rule R222). -/
structure CvfOps where
  g : BitVec 4
  d : BitVec 6
  a : BitVec 6
  m : BitVec 3
  f : BitVec 4
  deriving DecidableEq, Repr

/-- Form CS (rule R222). -/
structure CsOps where
  g : BitVec 4
  d : BitVec 6
  a : BitVec 6
  b : BitVec 6
  f : BitVec 2
  deriving DecidableEq, Repr

/-- Form MS with lt = 0 (rule R222). -/
structure MsOps where
  g : BitVec 4
  a : BitVec 6
  acc : BitVec 3
  fa : BitVec 4
  fb : BitVec 4
  deriving DecidableEq, Repr

/-- Form MS with lt = 1 and fb = 0 (rule R222). -/
structure MslOps where
  g : BitVec 4
  a : BitVec 6
  acc : BitVec 3
  fa : BitVec 4
  deriving DecidableEq, Repr

/-- Form MB (rule R222). -/
structure MbOps where
  g : BitVec 4
  a : BitVec 6
  fb : BitVec 4
  deriving DecidableEq, Repr

/-- Form MQ (rule R222). -/
structure MqOps where
  g : BitVec 4
  a : BitVec 6
  q : BitVec 2
  deriving DecidableEq, Repr

/-- Form MD (rule R222). -/
structure MdOps where
  g : BitVec 4
  a : BitVec 6
  acc : BitVec 3
  f : BitVec 4
  m : BitVec 3
  zr : BitVec 1
  deriving DecidableEq, Repr

/-- Forms MZ, KM and LE (rule R222). -/
structure MaskOps where
  g : BitVec 4
  mask : BitVec 8
  deriving DecidableEq, Repr

/-- Form XA (rule R222). -/
structure XaOps where
  g : BitVec 4
  a : BitVec 6
  imm : BitVec 14
  deriving DecidableEq, Repr

/-- Form SW (rule R222). -/
structure SwOps where
  g : BitVec 4
  m : BitVec 4
  n : BitVec 16
  deriving DecidableEq, Repr

/-- Form LK (rule R222). -/
structure LkOps where
  g : BitVec 4
  a : BitVec 6
  b : BitVec 6
  m : BitVec 4
  deriving DecidableEq, Repr

/-- Form LS with its rot bit fixed by the row (rule R222). -/
structure LsOps where
  g : BitVec 4
  l : BitVec 3
  a : BitVec 6
  len : BitVec 8
  deriving DecidableEq, Repr

/-- Form LQ (rule R222). -/
structure LqOps where
  g : BitVec 4
  l : BitVec 3
  j : BitVec 2
  s : BitVec 6
  b : BitVec 6
  deriving DecidableEq, Repr

/-- Form PR (rule R222). -/
structure PrOps where
  g : BitVec 4
  p : BitVec 4
  n : BitVec 8
  deriving DecidableEq, Repr

/-- Form P3 (rule R222). -/
structure P3Ops where
  g : BitVec 4
  pd : BitVec 4
  pa : BitVec 4
  pb : BitVec 4
  deriving DecidableEq, Repr

/-- Form PS (rule R222). -/
structure PsOps where
  g : BitVec 4
  pd : BitVec 4
  v : BitVec 1
  deriving DecidableEq, Repr

/-- One row of the opcode table. A row that both SA and SB assign carries `sb`, true when it stands in SB. -/
inductive Instr where
  /-- Scalar wrapping add. (rule R240) -/
  | add (sb : Bool) (o : R3Ops)
  /-- Scalar wrapping subtract. (rule R240) -/
  | sub (sb : Bool) (o : R3Ops)
  /-- Scalar bitwise AND. (rule R240) -/
  | and (sb : Bool) (o : R3Ops)
  /-- Scalar bitwise OR. (rule R240) -/
  | or (sb : Bool) (o : R3Ops)
  /-- Scalar bitwise XOR. (rule R240) -/
  | xor (sb : Bool) (o : R3Ops)
  /-- Scalar a AND NOT b. (rule R240) -/
  | andn (sb : Bool) (o : R3Ops)
  /-- Scalar shift left by a register amount. (rule R240) -/
  | shl (sb : Bool) (o : R3Ops)
  /-- Scalar logical shift right. (rule R240) -/
  | shr (sb : Bool) (o : R3Ops)
  /-- Scalar arithmetic shift right. (rule R240) -/
  | sra (sb : Bool) (o : R3Ops)
  /-- Signed scalar minimum. (rule R240) -/
  | min (sb : Bool) (o : R3Ops)
  /-- Signed scalar maximum. (rule R240) -/
  | max (sb : Bool) (o : R3Ops)
  /-- Unsigned scalar minimum. (rule R240) -/
  | minn (sb : Bool) (o : R3Ops)
  /-- Unsigned scalar maximum. (rule R240) -/
  | maxn (sb : Bool) (o : R3Ops)
  /-- Low 64 bits of the product. (rule R240) -/
  | mul (o : R3Ops)
  /-- High 64 bits of the signed product. (rule R240) -/
  | mulh (o : R3Ops)
  /-- High 64 bits of the unsigned product. (rule R240) -/
  | mulhn (o : R3Ops)
  /-- a plus b shifted left by 0, 2, 3 or 8. (rule R240) -/
  | addsh (o : R3xOps)
  /-- Add a sign-extended 8-bit immediate. (rule R241) -/
  | addi (sb : Bool) (o : RisOps)
  /-- AND with a sign-extended immediate. (rule R241) -/
  | andi (sb : Bool) (o : RisOps)
  /-- OR with a sign-extended immediate. (rule R241) -/
  | ori (sb : Bool) (o : RisOps)
  /-- Shift left by an immediate of 0–63. (rule R241) -/
  | shli (sb : Bool) (o : RisOps)
  /-- Logical shift right by an immediate. (rule R241) -/
  | shri (sb : Bool) (o : RisOps)
  /-- Arithmetic shift right by an immediate. (rule R241) -/
  | srai (sb : Bool) (o : RisOps)
  /-- Load a sign-extended 14-bit immediate. (rule R242) -/
  | movi (sb : Bool) (o : RiOps)
  /-- Shift d left by 14 and insert a 14-bit immediate. (rule R242) -/
  | movis (sb : Bool) (o : RiOps)
  /-- Compare two registers under a condition into a predicate. (rule R243) -/
  | cmp (sb : Bool) (o : PcOps)
  /-- Compare a register with a 7-bit immediate into a predicate. (rule R243) -/
  | cmpi (sb : Bool) (o : PciOps)
  /-- Relative branch with two delay bundles. (rule R245) -/
  | br (o : BOps)
  /-- Relative branch that writes the return address. (rule R245) -/
  | brL (o : BlOps)
  /-- Indirect branch to the address in a register. (rule R245) -/
  | brInd (o : R1aOps)
  /-- Stop issuing until the next bind; arrive at every barrier and post the trigger. (rule R253) -/
  | halt (o : ZOps)
  /-- Take a breakpoint trap with a code after the bundle issues. (rule R254) -/
  | trap (o : TOps)
  /-- Leave trap mode once the handler's events have landed. (rule R255) -/
  | tret (o : ZOps)
  /-- Read a system register, clearing its RC fields. (rule R256) -/
  | sysRd (o : SyrOps)
  /-- Write a system register under the field access rules. (rule R257) -/
  | sysWr (o : SywOps)
  /-- Write a format register. (rule R258) -/
  | fmtWr (o : FwOps)
  /-- Start a self-test of a unit, an IMEM quarter, the array or a router port. (rule R260) -/
  | sysBist (o : R2Ops)
  /-- Set a region's voltage margin offset and hold until it settles. (rule R261) -/
  | margV (o : R2Ops)
  /-- Sweep the eye of a weft or Uller receiver. (rule R262) -/
  | margL (o : R2Ops)
  /-- Load a byte, sign-extended. (rule R267) -/
  | ldI8 (o : RisOps)
  /-- Load a byte, zero-extended. (rule R267) -/
  | ldN8 (o : RisOps)
  /-- Load 2 bytes, sign-extended. (rule R267) -/
  | ldI16 (o : RisOps)
  /-- Load 2 bytes, zero-extended. (rule R267) -/
  | ldN16 (o : RisOps)
  /-- Load 4 bytes, sign-extended. (rule R267) -/
  | ldI32 (o : RisOps)
  /-- Load 4 bytes, zero-extended. (rule R267) -/
  | ldN32 (o : RisOps)
  /-- Load 8 bytes. (rule R267) -/
  | ldI64 (o : RisOps)
  /-- Store the low byte. (rule R268) -/
  | stB (o : RisOps)
  /-- Store the low 2 bytes. (rule R268) -/
  | stH (o : RisOps)
  /-- Store the low 4 bytes. (rule R268) -/
  | stW (o : RisOps)
  /-- Store 8 bytes. (rule R268) -/
  | stD (o : RisOps)
  /-- Load 256 bytes into a vector register. (rule R269) -/
  | vld (o : RisOps)
  /-- Store a vector register's 256 bytes. (rule R269) -/
  | vst (o : RisOps)
  /-- Vector load at a register-plus-register address. (rule R269) -/
  | vldx (o : R3Ops)
  /-- Vector store at a register-plus-register address. (rule R269) -/
  | vstx (o : R3Ops)
  /-- Broadcast a 4-byte word into all 64 lanes. (rule R270) -/
  | vbcastW (o : RisOps)
  /-- Gather 4-byte elements by lane index. (rule R271) -/
  | vgatherW (o : R3Ops)
  /-- Gather 2-byte elements by lane index. (rule R271) -/
  | vgatherH (o : R3Ops)
  /-- Scatter 4-byte elements by lane index. (rule R271) -/
  | vscatterW (o : R3Ops)
  /-- Scatter 2-byte elements by lane index. (rule R271) -/
  | vscatterH (o : R3Ops)
  /-- Lane-wise FP32 add in the named rounding mode. (rule R273) -/
  | vaddF32 (o : R3xOps)
  /-- Lane-wise FP16 add. (rule R273) -/
  | vaddF16 (o : R3xOps)
  /-- Lane-wise BF16 add. (rule R273) -/
  | vaddBf16 (o : R3xOps)
  /-- Lane-wise FP32 subtract. (rule R273) -/
  | vsubF32 (o : R3xOps)
  /-- Lane-wise FP16 subtract. (rule R273) -/
  | vsubF16 (o : R3xOps)
  /-- Lane-wise BF16 subtract. (rule R273) -/
  | vsubBf16 (o : R3xOps)
  /-- FP32 minimum, NaN-propagating. (rule R273) -/
  | vminF32 (o : R3Ops)
  /-- FP16 minimum, NaN-propagating. (rule R273) -/
  | vminF16 (o : R3Ops)
  /-- BF16 minimum, NaN-propagating. (rule R273) -/
  | vminBf16 (o : R3Ops)
  /-- FP32 maximum, NaN-propagating. (rule R273) -/
  | vmaxF32 (o : R3Ops)
  /-- FP16 maximum, NaN-propagating. (rule R273) -/
  | vmaxF16 (o : R3Ops)
  /-- BF16 maximum, NaN-propagating. (rule R273) -/
  | vmaxBf16 (o : R3Ops)
  /-- FP32 minimum ignoring a NaN operand. (rule R273) -/
  | vminnF32 (o : R3Ops)
  /-- FP16 minimum ignoring a NaN operand. (rule R273) -/
  | vminnF16 (o : R3Ops)
  /-- BF16 minimum ignoring a NaN operand. (rule R273) -/
  | vminnBf16 (o : R3Ops)
  /-- FP32 maximum ignoring a NaN operand. (rule R273) -/
  | vmaxnF32 (o : R3Ops)
  /-- FP16 maximum ignoring a NaN operand. (rule R273) -/
  | vmaxnF16 (o : R3Ops)
  /-- BF16 maximum ignoring a NaN operand. (rule R273) -/
  | vmaxnBf16 (o : R3Ops)
  /-- FP32 lane compare into an all-ones or all-zeros mask. (rule R274) -/
  | vcmpF32 (o : R3xOps)
  /-- FP16 lane compare into a mask. (rule R274) -/
  | vcmpF16 (o : R3xOps)
  /-- BF16 lane compare into a mask. (rule R274) -/
  | vcmpBf16 (o : R3xOps)
  /-- Wrapping 8-bit lane add. (rule R275) -/
  | viaddI8 (o : R3Ops)
  /-- Wrapping 16-bit lane add. (rule R275) -/
  | viaddI16 (o : R3Ops)
  /-- Wrapping 32-bit lane add. (rule R275) -/
  | viaddI32 (o : R3Ops)
  /-- Wrapping 64-bit lane add. (rule R275) -/
  | viaddI64 (o : R3Ops)
  /-- Wrapping 8-bit lane subtract. (rule R275) -/
  | visubI8 (o : R3Ops)
  /-- Wrapping 16-bit lane subtract. (rule R275) -/
  | visubI16 (o : R3Ops)
  /-- Wrapping 32-bit lane subtract. (rule R275) -/
  | visubI32 (o : R3Ops)
  /-- Wrapping 64-bit lane subtract. (rule R275) -/
  | visubI64 (o : R3Ops)
  /-- Signed saturating 8-bit add. (rule R275) -/
  | viaddsI8 (o : R3Ops)
  /-- Signed saturating 16-bit add. (rule R275) -/
  | viaddsI16 (o : R3Ops)
  /-- Signed saturating 32-bit add. (rule R275) -/
  | viaddsI32 (o : R3Ops)
  /-- Signed saturating 64-bit add. (rule R275) -/
  | viaddsI64 (o : R3Ops)
  /-- Unsigned saturating 8-bit add. (rule R275) -/
  | viaddsN8 (o : R3Ops)
  /-- Unsigned saturating 16-bit add. (rule R275) -/
  | viaddsN16 (o : R3Ops)
  /-- Unsigned saturating 32-bit add. (rule R275) -/
  | viaddsN32 (o : R3Ops)
  /-- Unsigned saturating 64-bit add. (rule R275) -/
  | viaddsN64 (o : R3Ops)
  /-- Signed saturating 8-bit subtract. (rule R275) -/
  | visubsI8 (o : R3Ops)
  /-- Signed saturating 16-bit subtract. (rule R275) -/
  | visubsI16 (o : R3Ops)
  /-- Signed saturating 32-bit subtract. (rule R275) -/
  | visubsI32 (o : R3Ops)
  /-- Signed saturating 64-bit subtract. (rule R275) -/
  | visubsI64 (o : R3Ops)
  /-- Unsigned saturating 8-bit subtract. (rule R275) -/
  | visubsN8 (o : R3Ops)
  /-- Unsigned saturating 16-bit subtract. (rule R275) -/
  | visubsN16 (o : R3Ops)
  /-- Unsigned saturating 32-bit subtract. (rule R275) -/
  | visubsN32 (o : R3Ops)
  /-- Unsigned saturating 64-bit subtract. (rule R275) -/
  | visubsN64 (o : R3Ops)
  /-- Signed 8-bit lane minimum. (rule R275) -/
  | viminI8 (o : R3Ops)
  /-- Signed 16-bit lane minimum. (rule R275) -/
  | viminI16 (o : R3Ops)
  /-- Signed 32-bit lane minimum. (rule R275) -/
  | viminI32 (o : R3Ops)
  /-- Signed 64-bit lane minimum. (rule R275) -/
  | viminI64 (o : R3Ops)
  /-- Unsigned 8-bit lane minimum. (rule R275) -/
  | viminN8 (o : R3Ops)
  /-- Unsigned 16-bit lane minimum. (rule R275) -/
  | viminN16 (o : R3Ops)
  /-- Unsigned 32-bit lane minimum. (rule R275) -/
  | viminN32 (o : R3Ops)
  /-- Unsigned 64-bit lane minimum. (rule R275) -/
  | viminN64 (o : R3Ops)
  /-- Signed 8-bit lane maximum. (rule R275) -/
  | vimaxI8 (o : R3Ops)
  /-- Signed 16-bit lane maximum. (rule R275) -/
  | vimaxI16 (o : R3Ops)
  /-- Signed 32-bit lane maximum. (rule R275) -/
  | vimaxI32 (o : R3Ops)
  /-- Signed 64-bit lane maximum. (rule R275) -/
  | vimaxI64 (o : R3Ops)
  /-- Unsigned 8-bit lane maximum. (rule R275) -/
  | vimaxN8 (o : R3Ops)
  /-- Unsigned 16-bit lane maximum. (rule R275) -/
  | vimaxN16 (o : R3Ops)
  /-- Unsigned 32-bit lane maximum. (rule R275) -/
  | vimaxN32 (o : R3Ops)
  /-- Unsigned 64-bit lane maximum. (rule R275) -/
  | vimaxN64 (o : R3Ops)
  /-- Signed 8-bit lane compare into a mask. (rule R275) -/
  | vicmpI8 (o : R3xOps)
  /-- Signed 16-bit lane compare into a mask. (rule R275) -/
  | vicmpI16 (o : R3xOps)
  /-- Signed 32-bit lane compare into a mask. (rule R275) -/
  | vicmpI32 (o : R3xOps)
  /-- Signed 64-bit lane compare into a mask. (rule R275) -/
  | vicmpI64 (o : R3xOps)
  /-- Unsigned 8-bit lane compare into a mask. (rule R275) -/
  | vicmpN8 (o : R3xOps)
  /-- Unsigned 16-bit lane compare into a mask. (rule R275) -/
  | vicmpN16 (o : R3xOps)
  /-- Unsigned 32-bit lane compare into a mask. (rule R275) -/
  | vicmpN32 (o : R3xOps)
  /-- Unsigned 64-bit lane compare into a mask. (rule R275) -/
  | vicmpN64 (o : R3xOps)
  /-- Bitwise AND of 2,048 bits. (rule R276) -/
  | vand (o : R3Ops)
  /-- Bitwise OR of 2,048 bits. (rule R276) -/
  | vor (o : R3Ops)
  /-- Bitwise XOR of 2,048 bits. (rule R276) -/
  | vxor (o : R3Ops)
  /-- 8-bit lane shift left. (rule R276) -/
  | vshl8 (o : R3Ops)
  /-- 16-bit lane shift left. (rule R276) -/
  | vshl16 (o : R3Ops)
  /-- 32-bit lane shift left. (rule R276) -/
  | vshl32 (o : R3Ops)
  /-- 64-bit lane shift left. (rule R276) -/
  | vshl64 (o : R3Ops)
  /-- 8-bit lane logical shift right. (rule R276) -/
  | vshr8 (o : R3Ops)
  /-- 16-bit lane logical shift right. (rule R276) -/
  | vshr16 (o : R3Ops)
  /-- 32-bit lane logical shift right. (rule R276) -/
  | vshr32 (o : R3Ops)
  /-- 64-bit lane logical shift right. (rule R276) -/
  | vshr64 (o : R3Ops)
  /-- 8-bit lane arithmetic shift right. (rule R276) -/
  | vsra8 (o : R3Ops)
  /-- 16-bit lane arithmetic shift right. (rule R276) -/
  | vsra16 (o : R3Ops)
  /-- 32-bit lane arithmetic shift right. (rule R276) -/
  | vsra32 (o : R3Ops)
  /-- 64-bit lane arithmetic shift right. (rule R276) -/
  | vsra64 (o : R3Ops)
  /-- Bitwise select between a and b under the mask held in d. (rule R277) -/
  | vsel (o : R3Ops)
  /-- Byte-lane permutation by index. (rule R278) -/
  | vshufB (o : R3Ops)
  /-- 16-bit-lane permutation by index. (rule R278) -/
  | vshufH (o : R3Ops)
  /-- 32-bit-lane permutation by index. (rule R278) -/
  | vshufW (o : R3Ops)
  /-- Splat a scalar's low 16 bits into every lane. (rule R279) -/
  | vsplatH (o : DaOps)
  /-- Splat a scalar's low 32 bits into every lane. (rule R279) -/
  | vsplatW (o : DaOps)
  /-- Splat a 64-bit scalar into every lane. (rule R279) -/
  | vsplatD (o : DaOps)
  /-- Extract one 64-bit lane into a scalar register. (rule R279) -/
  | vextD (o : RisOps)
  /-- Masked FP32 tree sum broadcast to every lane. (rule R280) -/
  | vredF32 (o : R3xOps)
  /-- Masked FP16 tree sum. (rule R280) -/
  | vredF16 (o : R3xOps)
  /-- Masked BF16 tree sum. (rule R280) -/
  | vredBf16 (o : R3xOps)
  /-- Masked wrapping 8-bit sum. (rule R280) -/
  | viredI8 (o : R3Ops)
  /-- Masked wrapping 16-bit sum. (rule R280) -/
  | viredI16 (o : R3Ops)
  /-- Masked wrapping 32-bit sum. (rule R280) -/
  | viredI32 (o : R3Ops)
  /-- Masked wrapping 64-bit sum. (rule R280) -/
  | viredI64 (o : R3Ops)
  /-- Paired carry-less 64 × 64 multiplies XORed into 128-bit results. (rule R281) -/
  | vclmul (o : R3Ops)
  /-- Lane-wise FP32 multiply. (rule R282) -/
  | vmulF32 (o : R3xOps)
  /-- Lane-wise FP16 multiply. (rule R282) -/
  | vmulF16 (o : R3xOps)
  /-- Lane-wise BF16 multiply. (rule R282) -/
  | vmulBf16 (o : R3xOps)
  /-- Fused a × b + d in FP32. (rule R282) -/
  | vfmaF32 (o : R3xOps)
  /-- Fused a × b + d in FP16. (rule R282) -/
  | vfmaF16 (o : R3xOps)
  /-- Fused a × b + d in BF16. (rule R282) -/
  | vfmaBf16 (o : R3xOps)
  /-- Fused d − a × b in FP32. (rule R282) -/
  | vfmsF32 (o : R3xOps)
  /-- Fused d − a × b in FP16. (rule R282) -/
  | vfmsF16 (o : R3xOps)
  /-- Fused d − a × b in BF16. (rule R282) -/
  | vfmsBf16 (o : R3xOps)
  /-- Convert 64 FP32 lanes to FP16. (rule R283) -/
  | vcvtF16F32 (o : CvOps)
  /-- Convert 64 FP32 lanes to BF16. (rule R283) -/
  | vcvtBf16F32 (o : CvOps)
  /-- Convert 64 FP16 lanes exactly to FP32. (rule R283) -/
  | vcvtF32F16 (o : CvOps)
  /-- Convert 64 BF16 lanes exactly to FP32. (rule R283) -/
  | vcvtF32Bf16 (o : CvOps)
  /-- Convert FP32 to the narrow format of a format register. (rule R283) -/
  | vcvtNfF32 (o : CvfOps)
  /-- Convert narrow elements to FP32. (rule R283) -/
  | vcvtF32Nf (o : CvfOps)
  /-- Convert FP32 to clamped I32. (rule R283) -/
  | vcvtI32F32 (o : CvOps)
  /-- Convert I32 to FP32. (rule R283) -/
  | vcvtF32I32 (o : CvOps)
  /-- Convert FP32 to clamped N32. (rule R283) -/
  | vcvtN32F32 (o : CvOps)
  /-- Convert N32 to FP32. (rule R283) -/
  | vcvtF32N32 (o : CvOps)
  /-- Stochastically rounded FP32 to FP16 conversion, with random words from b. (rule R285) -/
  | vcvtsF16F32 (o : R3Ops)
  /-- Stochastically rounded FP32 to BF16 conversion. (rule R285) -/
  | vcvtsBf16F32 (o : R3Ops)
  /-- Stochastically rounded FP32 to narrow conversion via f0–f3. (rule R285) -/
  | vcvtsNfF32 (o : CsOps)
  /-- Correctly rounded FP32 reciprocal. (rule R286) -/
  | vrcpF32 (o : DaOps)
  /-- FP16 reciprocal. (rule R286) -/
  | vrcpF16 (o : DaOps)
  /-- BF16 reciprocal. (rule R286) -/
  | vrcpBf16 (o : DaOps)
  /-- FP32 reciprocal square root. (rule R286) -/
  | vrsqF32 (o : DaOps)
  /-- FP16 reciprocal square root. (rule R286) -/
  | vrsqF16 (o : DaOps)
  /-- BF16 reciprocal square root. (rule R286) -/
  | vrsqBf16 (o : DaOps)
  /-- FP32 base-2 exponential. (rule R286) -/
  | vexp2F32 (o : DaOps)
  /-- FP16 base-2 exponential. (rule R286) -/
  | vexp2F16 (o : DaOps)
  /-- BF16 base-2 exponential. (rule R286) -/
  | vexp2Bf16 (o : DaOps)
  /-- FP32 base-2 logarithm. (rule R286) -/
  | vlog2F32 (o : DaOps)
  /-- FP16 base-2 logarithm. (rule R286) -/
  | vlog2F16 (o : DaOps)
  /-- BF16 base-2 logarithm. (rule R286) -/
  | vlog2Bf16 (o : DaOps)
  /-- Fill 64 lanes with rand32 of a seed and consecutive counters. (rule R287) -/
  | vrand (o : R3Ops)
  /-- One matrix step with B read from scratchpad, accumulating into a set. (rule R295) -/
  | mmStart (o : MsOps)
  /-- One matrix step with B taken from the weight latch. (rule R295) -/
  | mmStartLt (o : MslOps)
  /-- Load 768 bytes of B rows and their format into the weight latch. (rule R296) -/
  | mmLdb (o : MbOps)
  /-- Load 64 scale bytes into a scale register. (rule R297) -/
  | mmScl (o : MqOps)
  /-- Convert an accumulator set into scratchpad, optionally zeroing it. (rule R298) -/
  | mmDrain (o : MdOps)
  /-- Zero the accumulator sets named by a mask. (rule R299) -/
  | mmZero (o : MaskOps)
  /-- Write MXCFG pitches and scale selection. (rule R300) -/
  | mmCfg (o : R1aOps)
  /-- Inject a 256-byte local row onto the exchange plane. (rule R305) -/
  | xsend (o : XaOps)
  /-- Store the word ejected two cycles earlier. (rule R306) -/
  | xrecv (o : XaOps)
  /-- Add the ejected word into local FP32 lanes. (rule R307) -/
  | xraddF32 (o : XaOps)
  /-- Add the ejected word into local FP16 lanes. (rule R307) -/
  | xraddF16 (o : XaOps)
  /-- Add the ejected word into local BF16 lanes. (rule R307) -/
  | xraddBf16 (o : XaOps)
  /-- Add the ejected word into local I32 lanes. (rule R307) -/
  | xraddI32 (o : XaOps)
  /-- Arrive at barrier m and wait for X0. (rule R309) -/
  | phaseEnd (o : R1aOps)
  /-- Read the loom count. (rule R310) -/
  | gclkRd (o : R1dOps)
  /-- Hold until the loom count reaches a target. (rule R311) -/
  | gclkWait (o : R1aOps)
  /-- Request an extra loom alignment round. (rule R312) -/
  | gclkAln (o : ZOps)
  /-- Release the next deck stage's cards. (rule R314) -/
  | cardAdv (o : ZOps)
  /-- Release one template card with starts taken from registers. (rule R315) -/
  | cardIssue (o : R2Ops)
  /-- Remove a record-cache entry from the core's own engine. (rule R316) -/
  | recfl (o : R1aOps)
  /-- Remove a record-cache entry from every engine of the partition, holding the core for BLAT. (rule R316) -/
  | recflPart (o : R1aOps)
  /-- Return done or error tokens to idle. (rule R317) -/
  | tokClr (o : MaskOps)
  /-- Hold until a semaphore reaches n, then subtract n. (rule R318) -/
  | semWait (o : SwOps)
  /-- Send local bytes over a weft port with a tag. (rule R323) -/
  | lnkSend (o : LkOps)
  /-- Post a receive of link bytes into local space. (rule R323) -/
  | lnkRecv (o : LkOps)
  /-- Post a receive that adds FP32 elements. (rule R323) -/
  | lnkRaddF32 (o : LkOps)
  /-- Post a receive that adds BF16 elements. (rule R323) -/
  | lnkRaddBf16 (o : LkOps)
  /-- Post a receive that adds FP16 elements. (rule R323) -/
  | lnkRaddF16 (o : LkOps)
  /-- Post a receive that adds I32 elements. (rule R323) -/
  | lnkRaddI32 (o : LkOps)
  /-- Post the core's dependent-launch trigger. (rule R320) -/
  | trig (o : ZOps)
  /-- Hold until earlier cards and links end, then report a recorded error precisely. (rule R319) -/
  | fenceErr (o : ZOps)
  /-- Arm a hardware loop level with a count and body length. (rule R248) -/
  | loopSet (o : LsOps)
  /-- Arm a rotating hardware loop level. (rule R248) -/
  | loopSetRot (o : LsOps)
  /-- Set a stride-add pair of a loop level. (rule R249) -/
  | loopPair (o : LqOps)
  /-- Set the epilogue count. (rule R249) -/
  | loopEc (o : MaskOps)
  /-- Clear the rotation bases. (rule R249) -/
  | rotClr (o : ZOps)
  /-- Guard the next n bundles by a predicate. (rule R252) -/
  | predRegion (o : PrOps)
  /-- Predicate AND. (rule R244) -/
  | predAnd (o : P3Ops)
  /-- Predicate OR. (rule R244) -/
  | predOr (o : P3Ops)
  /-- Predicate XOR. (rule R244) -/
  | predXor (o : P3Ops)
  /-- Predicate a AND NOT b. (rule R244) -/
  | predAndn (o : P3Ops)
  /-- Set a predicate to a constant. (rule R244) -/
  | predSet (o : PsOps)
  /-- A bundle comes due: its head word is decoded, its wait mask and pre-issue causes are examined, and its slots issue together,
  followed by IDLE empty core cycles. (rule R209) -/
  | bundleIssue
  /-- A head word with no slots and a nonzero IDLE spends IDLE core cycles; its wait mask and SAFE bit keep their meaning. (rule R210) -/
  | pureDelay
  /-- Instruction fetch reads a 64-byte IMEM line ahead into the four-line fetch buffer, and marks the line poisoned on an
  uncorrectable error. (rule R63) -/
  | fetchLine
  /-- The reload of a poisoned IMEM line from the code object's bytes in HBM ends, which lets a FETCH_POISON return proceed. (rule
  R370) -/
  | imemLineReload
  /-- Exposed results and loop back-edge effects due on a core cycle land, in the fixed order of back-edges first and then
  producers by issue cycle. (rule R221) -/
  | resultLanding
  /-- A recorded claim reads or writes its storage unit on its claim cycle; in exchange phase, conflicting claims are settled by
  rank. (rule R49) -/
  | unitClaim
  /-- The handler's in-flight events after TRET have landed; trap state is restored and the interrupted context resumes on a cycle
  of matching parity. (rule R362) -/
  | trapResume
  /-- A unit's scrubber reads its next word on a claim-free cycle, at most one word per 64 core cycles. (rule R68) -/
  | scrubRead
  /-- A corrected word is written back on a free cycle unless some agent wrote the word first. (rule R58) -/
  | scrubWriteback
  /-- A card release hold ends; deck, records and pages have been fetched and translated, token states are sampled, and the
  release takes effect or is refused. (rule R116) -/
  | releaseHoldEnd
  /-- After a successful release, the engine fetches the header, stage entry and cards of the core's next stage. (rule R120) -/
  | deckPrefetch
  /-- A 64-byte granule of a card is read or written at its memory or home as one indivisible access, including an atomic
  read-modify-write. (rule R97) -/
  | cardGranule
  /-- A card performs its last byte or stops in error; once every card of the group has ended, the token leaves pending and the
  cards retire. (rule R122) -/
  | cardEnd
  /-- Every token named by a held bundle's wait mask has left pending, and the bundle issues after an even-length hold. (rule R125) -/
  | tokenWaitEnd
  /-- A waited semaphore reaches at least n; the waiting bundle issues and subtracts n. (rule R133) -/
  | semWaitEnd
  /-- The loom count reaches the GCLK.WAIT target at an even-length boundary, and the hold ends. (rule R311) -/
  | gclkWaitEnd
  /-- A partition-scope RECFL hold of BLAT cycles ends, and the record entry is gone from every engine. (rule R112) -/
  | recflHoldEnd
  /-- Every earlier card and link instruction of the core has ended; FENCE.ERR issues, or traps if CARDERR.V is set. (rule R319) -/
  | fenceErrHoldEnd
  /-- A SYS.BIST procedure ends; its results land in BISTRES, BISTADR and BISTXOR, and the core's hold ends. (rule R405) -/
  | bistEnd
  /-- The region's regulator reports the margined voltage settled; VMRES is written and the hold ends. (rule R261) -/
  | margVSettled
  /-- A link eye sweep ends; EYE and EYEERR are written and the hold ends. (rule R408) -/
  | margLSweepEnd
  /-- A link send and the matching receive with the same port and tag pair up in order, and bytes start to move. (rule R322) -/
  | linkPair
  /-- A link instruction ends, normally or in error; its semaphore is signalled, and a core held for a link slot may proceed.
  (rule R324) -/
  | linkEnd
  /-- On an exchange-phase cycle, a router switches arriving words to the output ports of its active heddle entries. (rule R77) -/
  | routerSwitch
  /-- At X0 + XLEN, words still in flight are discarded as late, PHNUM.N increments and compute phase n + 1 begins. (rule R167) -/
  | exchangePhaseEnd
  /-- On X0(n), the least even cycle at or after the last arrival plus BLAT, the barrier completes and every waiting core resumes.
  (rule R168) -/
  | barrierComplete
  /-- A pending loom repair is applied at the partition's barrier completion or at unbind: the reticle copy jumps forward or
  stands still. (rule R84) -/
  | loomRepair
  /-- On each count with bits [15:0] = 0, or on a requested [11:0] boundary, reticles exchange loom samples and classify the δ
  values. (rule R82) -/
  | loomSampleRound
  /-- The compute-phase budget expires before the barrier's last arrival, and the partition acts on its REPORT, TRAP or LOSE
  policy. (rule R171) -/
  | stragglerEvent
  /-- After clearing and loading, the sequencer chooses the even start cycle S0 of the launch. (rule R164) -/
  | launchStart
  /-- On S_r = S0 + 320 × STAG × i, the RUN cores of region i issue their entry bundles. (rule R404) -/
  | regionStart
  /-- A pending loss takes effect at the replay boundary: issue stops, the context is evicted, the queue is frozen and a final
  record is written. (rule R374) -/
  | contextLoss
  /-- A TINVCTL GO with scope 0 invalidates a context's entries that intersect a page range. (rule R42) -/
  | tinvRange
  /-- A TINVCTL GO with scope 1 invalidates every entry of one context tag. (rule R42) -/
  | tinvContext
  /-- A TINVCTL GO with scope 2 invalidates every translation entry. (rule R42) -/
  | tinvAll
  /-- No dying entry of an invalidation remains; GO reads 0 and DONE increments, or the broadcast request completes in every
  reticle. (rule R42) -/
  | tinvComplete
  /-- The last translation entry of a finished context's tag disappears, and the tag becomes free for a bind. (rule R40) -/
  | tagFreed
  /-- An HBMRCMD GO starts retiring one HBM channel, whose pages are unbacked for walks from then on. (rule R91) -/
  | hbmChannelRetire
  /-- No card or dying entry of the channel remains; the HBMRET bit and RADV.HBMCH set, and GO reads 0. (rule R91) -/
  | hbmRetireComplete
  /-- A CXL port trains and declares its backed and persistent ranges in CXLP. (rule R93) -/
  | cxlLinkTrain
  /-- A trained CXL port goes down; its cards in flight end in error and its pages stay unbacked until reset. (rule R92) -/
  | cxlPortDown
  /-- A CKPTCTL GO with OP 1 starts writing all backed HBM and core local space to the checkpoint region. (rule R94) -/
  | checkpointSave
  /-- A CKPTCTL GO with OP 2 starts restoring module state from a valid checkpoint header. (rule R94) -/
  | checkpointRestore
  /-- A save ends by writing its header last, which sets CKPTST.SEQ, or fails. (rule R94) -/
  | checkpointSaveEnd
  /-- A restore ends, or fails with ERR set. (rule R94) -/
  | checkpointRestoreEnd
  /-- An Uller link goes down; its quadrant's class 0x2 traffic moves to the next live link. (rule R95) -/
  | ullerLinkDown
  /-- A weft port goes down; granules routed to it end their cards in error. (rule R325) -/
  | weftPortDown
  /-- A weft port trains, and RADV.WEFT sets if it trains below its full lane count. (rule R397) -/
  | weftLinkTrain
  /-- System software writes a weft route entry; an invalid span or port, or the module's own entry, is ignored. (rule R325) -/
  | wrouteWrite
  /-- A 4,096-cycle shuttle period begins, and accepted slot-map writes take effect. (rule R87) -/
  | shuttlePeriodStart
  /-- A write to a region's slot map is accepted for the next period, or refused with SHSTAT.REFUSED. (rule R88) -/
  | shmapWrite
  /-- A shuttle flit leaves a router in a slot of its own class. (rule R89) -/
  | shuttleFlitHop
  /-- A window write to HTAB or HDIR is stored while the tile's partition is halted or the tile is unbound, and is ignored
  otherwise. (rule R75) -/
  | heddleTableWrite
  /-- At an epoch end, firmware chooses block moves by the atomic counters and halves the counters. (rule R135) -/
  | migrationEpoch
  /-- A block's move to or from an atomic unit begins once no unretired card has the block in its extent. (rule R134) -/
  | homeMove
  /-- A block move ends, and releases held for the block proceed. (rule R134) -/
  | homeMoveEnd
  /-- A write of MIGCTL.HOME returns every block to its controller. (rule R135) -/
  | migrateHomeAll
  /-- A posted trigger's earlier cards have ended and their writes are performed at module scope, so the trigger is delivered.
  (rule R153) -/
  | triggerDelivered
  /-- Every wait of a bound dependant closes and its producers have halted, and its code starts. (rule R336) -/
  | waitClosedStart
  /-- Every core is halted and every card has ended; DONE is written, PSIG is set and the partition unbinds. (rule R334) -/
  | launchEnd
  /-- An IMGCMD GO with OP 1 checks an image's format and signatures and assigns it a handle. (rule R327) -/
  | imageLoad
  /-- An image load's checks end; IMGST takes the handle or an error, and GO reads 0. (rule R327) -/
  | imageLoadEnd
  /-- An IMGCMD GO with OP 2 frees a handle, or is refused with IMAGE_BUSY while a context holds the image. (rule R328) -/
  | imageUnload
  /-- An IMGCMD GO with OP 3 loses every context that holds the image with IMAGE_GONE, then frees the handle. (rule R328) -/
  | imageForcedUnload
  /-- A write defines or changes a partition rectangle, or is ignored with ERR set. (rule R329) -/
  | pdefWrite
  /-- A QCFG write of EN from 0 to 1 creates a host queue if its revision, size and bases are valid. (rule R330) -/
  | queueCreate
  /-- A QCFG write of EN = 0 drops unread records and sets HEAD to TAIL, unless a context is bound or saved. (rule R330) -/
  | queueDisable
  /-- A write of 1 to QCFG.FROZEN thaws a queue frozen by a context loss. (rule R330) -/
  | queueThaw
  /-- System software submits launch records by advancing TAIL; a write that would overfill the ring is ignored. (rule R330) -/
  | qtailWrite
  /-- The sequencer reads a new head record and checks it, completing refused records with their codes. (rule R333) -/
  | queueHeadRead
  /-- A completion record is written into a free completion slot and CTAIL advances. (rule R331) -/
  | completionRecordWrite
  /-- An unbound partition with candidates selects one by priority and round robin, with a fresh SSEQ. (rule R338) -/
  | sequencerSelect
  /-- A selected context is given a tag, registers and fences, clearing, code and heddle loads, and its phase table. (rule R339) -/
  | bind
  /-- A running context's quantum expires while a candidate of equal or higher priority stands, and a pre-emption request is made.
  (rule R340) -/
  | quantumExpiry
  /-- A PREQ write of REQ = 1 requests pre-emption at the next safe barrier. (rule R341) -/
  | preemptRequest
  /-- A PREQ write of REQ = 2 makes a KILLED loss pending. (rule R341) -/
  | killRequest
  /-- A PREQ write of 0 withdraws a pending pre-emption request. (rule R341) -/
  | preemptWithdraw
  /-- At a safe barrier with a request pending, once cards are done and the context area has room, the PREEMPTED record and the
  context image are written. (rule R343) -/
  | contextSave
  /-- The save ends; the partition unbinds and the queue gains a resume entry. (rule R343) -/
  | contextSaveEnd
  /-- A resumed context's restore ends; RESUMED is written and the cores stand in the barrier wait with a common arrival. (rule R345) -/
  | restoreEnd
  /-- A write defines the context area, and is ignored while contexts are saved or when it is invalid. (rule R344) -/
  | ctxareaWrite
  /-- A write of TSTOP.CMD = 1 resumes every frozen core of a stopped partition. (rule R365) -/
  | tstopResume
  /-- Power-good starts each reticle's boot counter and its B1 self-test stage. (rule R379) -/
  | powerGood
  /-- At 40 ms, each reticle probes its selvedges and sets SELDLY. (rule R381) -/
  | b2LinkTest
  /-- At 42 ms, election rounds begin. (rule R382) -/
  | b3Election
  /-- Every 20 µs, a reticle sends ELECT on each healthy selvedge. (rule R382) -/
  | electionRound
  /-- At 43 ms, the leader starts tree enumeration with ENUM at depth 0. (rule R383) -/
  | b4Enumeration
  /-- At the end of B4, the leader starts the loom count, writes the topology registers and presents the module. (rule R384) -/
  | b5Start
  /-- A received link probe is echoed 16 cycles later. (rule R381) -/
  | lprobe
  /-- A received probe echo counts toward judging the selvedge OK. (rule R381) -/
  | lecho
  /-- A received election message merges UL and the least rank pair. (rule R382) -/
  | elect
  /-- A received ENUM sets the parent, which is answered with ACCEPT, or is refused. (rule R383) -/
  | enum
  /-- A neighbour takes the receiver as its parent and becomes its child. (rule R383) -/
  | accept
  /-- A neighbour reports that it already has a parent. (rule R383) -/
  | refuse
  /-- One piece of a subtree report is received from a child. (rule R383) -/
  | report
  /-- A reticle sets its loom copy from the sample plus SELDLY, and forwards LSTART. (rule R384) -/
  | lstart
  /-- The enumeration-done message from the leader moves the reticle to running. (rule R384) -/
  | done
  /-- A child gives no answer within 100 µs, or a report gap exceeds 1 ms, and the subtree is timed out. (rule R383) -/
  | enumTimeout
  /-- A live reticle reaches 93 ms without DONE and enters WITHHELD. (rule R383) -/
  | enumerationDeadline
  /-- The Uller endpoint grants the module to the lowest rank claimed within 500 µs, and the refused component is withheld. (rule R384) -/
  | ullerClaimGrant
  /-- A PLCMD GO starts the placement service re-timing an image for the masked origins. (rule R395) -/
  | placementRun
  /-- Placement ends: the per-part image is written and signed, or PLST.ERR and PLROUTE are set. (rule R395) -/
  | placementEnd
  /-- A write-once installer key hash slot is written. (rule R396) -/
  | instkeyWrite
  /-- A 320-cycle step boundary passes ACT to PREV and applies accepted power-register writes. (rule R399) -/
  | activityStep
  /-- On an even compute-phase cycle, a region whose activity has reached its allowance, or that a condition holds, is gated for
  the pair. (rule R400) -/
  | issueGatePair
  /-- A region's supply falls below the alarm level: half gate in compute phase, XDROOP counted in exchange phase. (rule R402) -/
  | droopAlarm
  /-- A supply falls below XFLOOR; in exchange phase this is a machine check with a DROOP_X loss. (rule R402) -/
  | droopBelowFloor
  /-- A region's temperature reaches THOT, and its compute issue is half-gated. (rule R402) -/
  | thermalHot
  /-- A region's temperature reaches TCRIT, and every compute pair is gated. (rule R402) -/
  | thermalCrit
  /-- A temperature of 125 °C or more powers the whole module off with no record. (rule R402) -/
  | overtempPowerOff
  /-- Module power reaches PLIM; all regions are half-gated and PWRG is set. (rule R402) -/
  | powerLimitGate
  /-- A write to the region's power control takes effect at the next step, or is refused with REFUSED. (rule R401) -/
  | rpctlWrite
  /-- A write of the thermal thresholds takes effect at the next step, or is refused. (rule R403) -/
  | rthermWrite
  /-- A write of PLIM and STAG is accepted for the next step boundary, or ignored when PLIM is out of range. (rule R404) -/
  | mstagWrite
  /-- A write of DSTOP.REQ = 1 asks every core of the partition to freeze at its next empty boundary. (rule R409) -/
  | debugStopRequest
  /-- A write of REQ = 0 before DONE withdraws a debug stop. (rule R409) -/
  | debugStopWithdraw
  /-- A core reaches an empty boundary, a PHASE.END or HALT and freezes; DONE sets when the last core stops. (rule R409) -/
  | debugStopFreeze
  /-- A loom count multiple of 256 × PER emits a SAMPLE trace record. (rule R412) -/
  | traceSample
  /-- A queued trace record reaches the region's trace ring and HEAD advances. (rule R413) -/
  | traceRecordWrite
  /-- A write of the trace ring descriptor is ignored when LOG2 lies outside 7–24. (rule R413) -/
  | trringWrite
  /-- A read of a register with RC fields returns them and clears them, keeping events of the same cycle. (rule R11) -/
  | rcRead
  /-- A write to a register without a row of its own applies the RW, W1C, RO and reserved rules of its fields. (rule R11) -/
  | registerWrite
  /-- The module's supply is lost from outside; only card writes whose tokens were done keep their new bytes in persistent CXL
  ranges. (rule R93) -/
  | powerLoss
  /-- An Uller link trains, setting the corner reticle's UL bit and taking the companion's declared backed ranges. (rule R382) -/
  | ullerLinkTrain
  /-- An access by the companion processor or a peer module to a class 0x0 or 0x1 block is performed at the block's home, for
  example a page-table write that a later walk must see. (rule R134) -/
  | homeAccess
  /-- System software writes IMEM, local space or core state of a halted or stopped partition through the core's management
  window. (rule R19) -/
  | managementWindowWrite
  deriving DecidableEq, Repr

end Sys2Proof
end

