-- ==== Sys2Proof/WellFormed.lean ====
section
/-! DEFINITION. The operand limits of the spec (rules R219, R223, R265, R304) as one check of an instruction. -/

namespace Sys2Proof

/-- The ranges of system-register numbers that are assigned (rules R219, R355, R356, R360, R361, R367, R406 to
R408, R411, R415, R417). -/
def sysRanges : List (Nat × Nat) :=
  [(0x000, 0x004),
   (0x010, 0x013),
   (0x018, 0x01C),
   (0x020, 0x027),
   (0x030, 0x031),
   (0x040, 0x040),
   (0x048, 0x04D),
   (0x050, 0x067),
   (0x070, 0x080),
   (0x100, 0x105),
   (0x108, 0x109),
   (0x10C, 0x10D),
   (0x110, 0x11B),
   (0x140, 0x140),
   (0x148, 0x14D),
   (0x150, 0x151),
   (0x200, 0x202),
   (0x208, 0x208),
   (0x210, 0x211)]

/-- SYS.RD may name the number (rule R219). -/
def sysReadable (n : BitVec 12) : Bool := sysRanges.any (fun r => r.1 ≤ n.toNat && n.toNat ≤ r.2)

/-- SYS.WR may name the number: some field of the register is RW or W1C to the program (rule R219). These are MEMERR,
MXCFG, TVEC, TCTL, BKPT0 and 1, TSCR0 to 7, the watchpoint registers, TRCTL and SIGCTL. -/
def sysWritable (n : BitVec 12) : Bool :=
  n == 0x031 || n == 0x080 || n == 0x108 || n == 0x109 || n == 0x10C || n == 0x10D ||
    (0x110 ≤ n.toNat && n.toNat ≤ 0x11B) || n == 0x140 || n == 0x150

/-- The operand fields keep the limits of rule R223. The events of the table have no encoding and
no operand field. -/
def Instr.wf : Instr → Bool
  | .add _ _ => true
  | .sub _ _ => true
  | .and _ _ => true
  | .or _ _ => true
  | .xor _ _ => true
  | .andn _ _ => true
  | .shl _ _ => true
  | .shr _ _ => true
  | .sra _ _ => true
  | .min _ _ => true
  | .max _ _ => true
  | .minn _ _ => true
  | .maxn _ _ => true
  | .mul _ => true
  | .mulh _ => true
  | .mulhn _ => true
  | .addsh _ => true
  | .addi _ _ => true
  | .andi _ _ => true
  | .ori _ _ => true
  | .shli _ o => o.imm.toNat ≤ 63
  | .shri _ o => o.imm.toNat ≤ 63
  | .srai _ o => o.imm.toNat ≤ 63
  | .movi _ _ => true
  | .movis _ _ => true
  | .cmp _ o => o.cc.toNat ≤ 5
  | .cmpi _ o => o.cc.toNat ≤ 5
  | .br _ => true
  | .brL _ => true
  | .brInd _ => true
  | .halt _ => true
  | .trap _ => true
  | .tret _ => true
  | .sysRd o => sysReadable o.n
  | .sysWr o => sysWritable o.n
  | .fmtWr _ => true
  | .sysBist _ => true
  | .margV _ => true
  | .margL _ => true
  | .ldI8 _ => true
  | .ldN8 _ => true
  | .ldI16 _ => true
  | .ldN16 _ => true
  | .ldI32 _ => true
  | .ldN32 _ => true
  | .ldI64 _ => true
  | .stB _ => true
  | .stH _ => true
  | .stW _ => true
  | .stD _ => true
  | .vld _ => true
  | .vst _ => true
  | .vldx _ => true
  | .vstx _ => true
  | .vbcastW _ => true
  | .vgatherW _ => true
  | .vgatherH _ => true
  | .vscatterW _ => true
  | .vscatterH _ => true
  | .vaddF32 _ => true
  | .vaddF16 _ => true
  | .vaddBf16 _ => true
  | .vsubF32 _ => true
  | .vsubF16 _ => true
  | .vsubBf16 _ => true
  | .vminF32 _ => true
  | .vminF16 _ => true
  | .vminBf16 _ => true
  | .vmaxF32 _ => true
  | .vmaxF16 _ => true
  | .vmaxBf16 _ => true
  | .vminnF32 _ => true
  | .vminnF16 _ => true
  | .vminnBf16 _ => true
  | .vmaxnF32 _ => true
  | .vmaxnF16 _ => true
  | .vmaxnBf16 _ => true
  | .vcmpF32 _ => true
  | .vcmpF16 _ => true
  | .vcmpBf16 _ => true
  | .viaddI8 _ => true
  | .viaddI16 _ => true
  | .viaddI32 _ => true
  | .viaddI64 _ => true
  | .visubI8 _ => true
  | .visubI16 _ => true
  | .visubI32 _ => true
  | .visubI64 _ => true
  | .viaddsI8 _ => true
  | .viaddsI16 _ => true
  | .viaddsI32 _ => true
  | .viaddsI64 _ => true
  | .viaddsN8 _ => true
  | .viaddsN16 _ => true
  | .viaddsN32 _ => true
  | .viaddsN64 _ => true
  | .visubsI8 _ => true
  | .visubsI16 _ => true
  | .visubsI32 _ => true
  | .visubsI64 _ => true
  | .visubsN8 _ => true
  | .visubsN16 _ => true
  | .visubsN32 _ => true
  | .visubsN64 _ => true
  | .viminI8 _ => true
  | .viminI16 _ => true
  | .viminI32 _ => true
  | .viminI64 _ => true
  | .viminN8 _ => true
  | .viminN16 _ => true
  | .viminN32 _ => true
  | .viminN64 _ => true
  | .vimaxI8 _ => true
  | .vimaxI16 _ => true
  | .vimaxI32 _ => true
  | .vimaxI64 _ => true
  | .vimaxN8 _ => true
  | .vimaxN16 _ => true
  | .vimaxN32 _ => true
  | .vimaxN64 _ => true
  | .vicmpI8 _ => true
  | .vicmpI16 _ => true
  | .vicmpI32 _ => true
  | .vicmpI64 _ => true
  | .vicmpN8 _ => true
  | .vicmpN16 _ => true
  | .vicmpN32 _ => true
  | .vicmpN64 _ => true
  | .vand _ => true
  | .vor _ => true
  | .vxor _ => true
  | .vshl8 _ => true
  | .vshl16 _ => true
  | .vshl32 _ => true
  | .vshl64 _ => true
  | .vshr8 _ => true
  | .vshr16 _ => true
  | .vshr32 _ => true
  | .vshr64 _ => true
  | .vsra8 _ => true
  | .vsra16 _ => true
  | .vsra32 _ => true
  | .vsra64 _ => true
  | .vsel _ => true
  | .vshufB _ => true
  | .vshufH _ => true
  | .vshufW _ => true
  | .vsplatH _ => true
  | .vsplatW _ => true
  | .vsplatD _ => true
  | .vextD o => o.imm.toNat ≤ 31
  | .vredF32 _ => true
  | .vredF16 _ => true
  | .vredBf16 _ => true
  | .viredI8 _ => true
  | .viredI16 _ => true
  | .viredI32 _ => true
  | .viredI64 _ => true
  | .vclmul _ => true
  | .vmulF32 _ => true
  | .vmulF16 _ => true
  | .vmulBf16 _ => true
  | .vfmaF32 _ => true
  | .vfmaF16 _ => true
  | .vfmaBf16 _ => true
  | .vfmsF32 _ => true
  | .vfmsF16 _ => true
  | .vfmsBf16 _ => true
  | .vcvtF16F32 o => o.m.toNat ≤ 3
  | .vcvtBf16F32 o => o.m.toNat ≤ 3
  | .vcvtF32F16 o => o.m.toNat ≤ 3
  | .vcvtF32Bf16 o => o.m.toNat ≤ 3
  | .vcvtNfF32 o => o.m.toNat ≤ 3
  | .vcvtF32Nf o => o.m.toNat ≤ 3
  | .vcvtI32F32 o => o.m.toNat ≤ 3
  | .vcvtF32I32 o => o.m.toNat ≤ 3
  | .vcvtN32F32 o => o.m.toNat ≤ 3
  | .vcvtF32N32 o => o.m.toNat ≤ 3
  | .vcvtsF16F32 _ => true
  | .vcvtsBf16F32 _ => true
  | .vcvtsNfF32 _ => true
  | .vrcpF32 _ => true
  | .vrcpF16 _ => true
  | .vrcpBf16 _ => true
  | .vrsqF32 _ => true
  | .vrsqF16 _ => true
  | .vrsqBf16 _ => true
  | .vexp2F32 _ => true
  | .vexp2F16 _ => true
  | .vexp2Bf16 _ => true
  | .vlog2F32 _ => true
  | .vlog2F16 _ => true
  | .vlog2Bf16 _ => true
  | .vrand _ => true
  | .mmStart _ => true
  | .mmStartLt _ => true
  | .mmLdb _ => true
  | .mmScl _ => true
  | .mmDrain o => o.m.toNat ≤ 3
  | .mmZero o => o.mask != 0
  | .mmCfg _ => true
  | .xsend _ => true
  | .xrecv _ => true
  | .xraddF32 _ => true
  | .xraddF16 _ => true
  | .xraddBf16 _ => true
  | .xraddI32 _ => true
  | .phaseEnd _ => true
  | .gclkRd _ => true
  | .gclkWait _ => true
  | .gclkAln _ => true
  | .cardAdv _ => true
  | .cardIssue o => o.b.toNat ≤ 61
  | .recfl _ => true
  | .recflPart _ => true
  | .tokClr o => o.mask != 0
  | .semWait o => o.n != 0
  | .lnkSend _ => true
  | .lnkRecv _ => true
  | .lnkRaddF32 _ => true
  | .lnkRaddBf16 _ => true
  | .lnkRaddF16 _ => true
  | .lnkRaddI32 _ => true
  | .trig _ => true
  | .fenceErr _ => true
  | .loopSet o => o.l.toNat ≤ 5 && o.len != 0
  | .loopSetRot o => o.l.toNat ≤ 5 && o.len != 0
  | .loopPair o => o.l.toNat ≤ 5
  | .loopEc _ => true
  | .rotClr _ => true
  | .predRegion o => o.n != 0
  | .predAnd _ => true
  | .predOr _ => true
  | .predXor _ => true
  | .predAndn _ => true
  | .predSet _ => true
  | .bundleIssue => true
  | .pureDelay => true
  | .fetchLine => true
  | .imemLineReload => true
  | .resultLanding => true
  | .unitClaim => true
  | .trapResume => true
  | .scrubRead => true
  | .scrubWriteback => true
  | .releaseHoldEnd => true
  | .deckPrefetch => true
  | .cardGranule => true
  | .cardEnd => true
  | .tokenWaitEnd => true
  | .semWaitEnd => true
  | .gclkWaitEnd => true
  | .recflHoldEnd => true
  | .fenceErrHoldEnd => true
  | .bistEnd => true
  | .margVSettled => true
  | .margLSweepEnd => true
  | .linkPair => true
  | .linkEnd => true
  | .routerSwitch => true
  | .exchangePhaseEnd => true
  | .barrierComplete => true
  | .loomRepair => true
  | .loomSampleRound => true
  | .stragglerEvent => true
  | .launchStart => true
  | .regionStart => true
  | .contextLoss => true
  | .tinvRange => true
  | .tinvContext => true
  | .tinvAll => true
  | .tinvComplete => true
  | .tagFreed => true
  | .hbmChannelRetire => true
  | .hbmRetireComplete => true
  | .cxlLinkTrain => true
  | .cxlPortDown => true
  | .checkpointSave => true
  | .checkpointRestore => true
  | .checkpointSaveEnd => true
  | .checkpointRestoreEnd => true
  | .ullerLinkDown => true
  | .weftPortDown => true
  | .weftLinkTrain => true
  | .wrouteWrite => true
  | .shuttlePeriodStart => true
  | .shmapWrite => true
  | .shuttleFlitHop => true
  | .heddleTableWrite => true
  | .migrationEpoch => true
  | .homeMove => true
  | .homeMoveEnd => true
  | .migrateHomeAll => true
  | .triggerDelivered => true
  | .waitClosedStart => true
  | .launchEnd => true
  | .imageLoad => true
  | .imageLoadEnd => true
  | .imageUnload => true
  | .imageForcedUnload => true
  | .pdefWrite => true
  | .queueCreate => true
  | .queueDisable => true
  | .queueThaw => true
  | .qtailWrite => true
  | .queueHeadRead => true
  | .completionRecordWrite => true
  | .sequencerSelect => true
  | .bind => true
  | .quantumExpiry => true
  | .preemptRequest => true
  | .killRequest => true
  | .preemptWithdraw => true
  | .contextSave => true
  | .contextSaveEnd => true
  | .restoreEnd => true
  | .ctxareaWrite => true
  | .tstopResume => true
  | .powerGood => true
  | .b2LinkTest => true
  | .b3Election => true
  | .electionRound => true
  | .b4Enumeration => true
  | .b5Start => true
  | .lprobe => true
  | .lecho => true
  | .elect => true
  | .enum => true
  | .accept => true
  | .refuse => true
  | .report => true
  | .lstart => true
  | .done => true
  | .enumTimeout => true
  | .enumerationDeadline => true
  | .ullerClaimGrant => true
  | .placementRun => true
  | .placementEnd => true
  | .instkeyWrite => true
  | .activityStep => true
  | .issueGatePair => true
  | .droopAlarm => true
  | .droopBelowFloor => true
  | .thermalHot => true
  | .thermalCrit => true
  | .overtempPowerOff => true
  | .powerLimitGate => true
  | .rpctlWrite => true
  | .rthermWrite => true
  | .mstagWrite => true
  | .debugStopRequest => true
  | .debugStopWithdraw => true
  | .debugStopFreeze => true
  | .traceSample => true
  | .traceRecordWrite => true
  | .trringWrite => true
  | .rcRead => true
  | .registerWrite => true
  | .powerLoss => true
  | .ullerLinkTrain => true
  | .homeAccess => true
  | .managementWindowWrite => true

/-- Whether the row has an encoding: it is an instruction of a slot and not an event. -/
def Instr.isSlot : Instr → Bool
  | .add _ _ => true
  | .sub _ _ => true
  | .and _ _ => true
  | .or _ _ => true
  | .xor _ _ => true
  | .andn _ _ => true
  | .shl _ _ => true
  | .shr _ _ => true
  | .sra _ _ => true
  | .min _ _ => true
  | .max _ _ => true
  | .minn _ _ => true
  | .maxn _ _ => true
  | .mul _ => true
  | .mulh _ => true
  | .mulhn _ => true
  | .addsh _ => true
  | .addi _ _ => true
  | .andi _ _ => true
  | .ori _ _ => true
  | .shli _ _ => true
  | .shri _ _ => true
  | .srai _ _ => true
  | .movi _ _ => true
  | .movis _ _ => true
  | .cmp _ _ => true
  | .cmpi _ _ => true
  | .br _ => true
  | .brL _ => true
  | .brInd _ => true
  | .halt _ => true
  | .trap _ => true
  | .tret _ => true
  | .sysRd _ => true
  | .sysWr _ => true
  | .fmtWr _ => true
  | .sysBist _ => true
  | .margV _ => true
  | .margL _ => true
  | .ldI8 _ => true
  | .ldN8 _ => true
  | .ldI16 _ => true
  | .ldN16 _ => true
  | .ldI32 _ => true
  | .ldN32 _ => true
  | .ldI64 _ => true
  | .stB _ => true
  | .stH _ => true
  | .stW _ => true
  | .stD _ => true
  | .vld _ => true
  | .vst _ => true
  | .vldx _ => true
  | .vstx _ => true
  | .vbcastW _ => true
  | .vgatherW _ => true
  | .vgatherH _ => true
  | .vscatterW _ => true
  | .vscatterH _ => true
  | .vaddF32 _ => true
  | .vaddF16 _ => true
  | .vaddBf16 _ => true
  | .vsubF32 _ => true
  | .vsubF16 _ => true
  | .vsubBf16 _ => true
  | .vminF32 _ => true
  | .vminF16 _ => true
  | .vminBf16 _ => true
  | .vmaxF32 _ => true
  | .vmaxF16 _ => true
  | .vmaxBf16 _ => true
  | .vminnF32 _ => true
  | .vminnF16 _ => true
  | .vminnBf16 _ => true
  | .vmaxnF32 _ => true
  | .vmaxnF16 _ => true
  | .vmaxnBf16 _ => true
  | .vcmpF32 _ => true
  | .vcmpF16 _ => true
  | .vcmpBf16 _ => true
  | .viaddI8 _ => true
  | .viaddI16 _ => true
  | .viaddI32 _ => true
  | .viaddI64 _ => true
  | .visubI8 _ => true
  | .visubI16 _ => true
  | .visubI32 _ => true
  | .visubI64 _ => true
  | .viaddsI8 _ => true
  | .viaddsI16 _ => true
  | .viaddsI32 _ => true
  | .viaddsI64 _ => true
  | .viaddsN8 _ => true
  | .viaddsN16 _ => true
  | .viaddsN32 _ => true
  | .viaddsN64 _ => true
  | .visubsI8 _ => true
  | .visubsI16 _ => true
  | .visubsI32 _ => true
  | .visubsI64 _ => true
  | .visubsN8 _ => true
  | .visubsN16 _ => true
  | .visubsN32 _ => true
  | .visubsN64 _ => true
  | .viminI8 _ => true
  | .viminI16 _ => true
  | .viminI32 _ => true
  | .viminI64 _ => true
  | .viminN8 _ => true
  | .viminN16 _ => true
  | .viminN32 _ => true
  | .viminN64 _ => true
  | .vimaxI8 _ => true
  | .vimaxI16 _ => true
  | .vimaxI32 _ => true
  | .vimaxI64 _ => true
  | .vimaxN8 _ => true
  | .vimaxN16 _ => true
  | .vimaxN32 _ => true
  | .vimaxN64 _ => true
  | .vicmpI8 _ => true
  | .vicmpI16 _ => true
  | .vicmpI32 _ => true
  | .vicmpI64 _ => true
  | .vicmpN8 _ => true
  | .vicmpN16 _ => true
  | .vicmpN32 _ => true
  | .vicmpN64 _ => true
  | .vand _ => true
  | .vor _ => true
  | .vxor _ => true
  | .vshl8 _ => true
  | .vshl16 _ => true
  | .vshl32 _ => true
  | .vshl64 _ => true
  | .vshr8 _ => true
  | .vshr16 _ => true
  | .vshr32 _ => true
  | .vshr64 _ => true
  | .vsra8 _ => true
  | .vsra16 _ => true
  | .vsra32 _ => true
  | .vsra64 _ => true
  | .vsel _ => true
  | .vshufB _ => true
  | .vshufH _ => true
  | .vshufW _ => true
  | .vsplatH _ => true
  | .vsplatW _ => true
  | .vsplatD _ => true
  | .vextD _ => true
  | .vredF32 _ => true
  | .vredF16 _ => true
  | .vredBf16 _ => true
  | .viredI8 _ => true
  | .viredI16 _ => true
  | .viredI32 _ => true
  | .viredI64 _ => true
  | .vclmul _ => true
  | .vmulF32 _ => true
  | .vmulF16 _ => true
  | .vmulBf16 _ => true
  | .vfmaF32 _ => true
  | .vfmaF16 _ => true
  | .vfmaBf16 _ => true
  | .vfmsF32 _ => true
  | .vfmsF16 _ => true
  | .vfmsBf16 _ => true
  | .vcvtF16F32 _ => true
  | .vcvtBf16F32 _ => true
  | .vcvtF32F16 _ => true
  | .vcvtF32Bf16 _ => true
  | .vcvtNfF32 _ => true
  | .vcvtF32Nf _ => true
  | .vcvtI32F32 _ => true
  | .vcvtF32I32 _ => true
  | .vcvtN32F32 _ => true
  | .vcvtF32N32 _ => true
  | .vcvtsF16F32 _ => true
  | .vcvtsBf16F32 _ => true
  | .vcvtsNfF32 _ => true
  | .vrcpF32 _ => true
  | .vrcpF16 _ => true
  | .vrcpBf16 _ => true
  | .vrsqF32 _ => true
  | .vrsqF16 _ => true
  | .vrsqBf16 _ => true
  | .vexp2F32 _ => true
  | .vexp2F16 _ => true
  | .vexp2Bf16 _ => true
  | .vlog2F32 _ => true
  | .vlog2F16 _ => true
  | .vlog2Bf16 _ => true
  | .vrand _ => true
  | .mmStart _ => true
  | .mmStartLt _ => true
  | .mmLdb _ => true
  | .mmScl _ => true
  | .mmDrain _ => true
  | .mmZero _ => true
  | .mmCfg _ => true
  | .xsend _ => true
  | .xrecv _ => true
  | .xraddF32 _ => true
  | .xraddF16 _ => true
  | .xraddBf16 _ => true
  | .xraddI32 _ => true
  | .phaseEnd _ => true
  | .gclkRd _ => true
  | .gclkWait _ => true
  | .gclkAln _ => true
  | .cardAdv _ => true
  | .cardIssue _ => true
  | .recfl _ => true
  | .recflPart _ => true
  | .tokClr _ => true
  | .semWait _ => true
  | .lnkSend _ => true
  | .lnkRecv _ => true
  | .lnkRaddF32 _ => true
  | .lnkRaddBf16 _ => true
  | .lnkRaddF16 _ => true
  | .lnkRaddI32 _ => true
  | .trig _ => true
  | .fenceErr _ => true
  | .loopSet _ => true
  | .loopSetRot _ => true
  | .loopPair _ => true
  | .loopEc _ => true
  | .rotClr _ => true
  | .predRegion _ => true
  | .predAnd _ => true
  | .predOr _ => true
  | .predXor _ => true
  | .predAndn _ => true
  | .predSet _ => true
  | .bundleIssue => false
  | .pureDelay => false
  | .fetchLine => false
  | .imemLineReload => false
  | .resultLanding => false
  | .unitClaim => false
  | .trapResume => false
  | .scrubRead => false
  | .scrubWriteback => false
  | .releaseHoldEnd => false
  | .deckPrefetch => false
  | .cardGranule => false
  | .cardEnd => false
  | .tokenWaitEnd => false
  | .semWaitEnd => false
  | .gclkWaitEnd => false
  | .recflHoldEnd => false
  | .fenceErrHoldEnd => false
  | .bistEnd => false
  | .margVSettled => false
  | .margLSweepEnd => false
  | .linkPair => false
  | .linkEnd => false
  | .routerSwitch => false
  | .exchangePhaseEnd => false
  | .barrierComplete => false
  | .loomRepair => false
  | .loomSampleRound => false
  | .stragglerEvent => false
  | .launchStart => false
  | .regionStart => false
  | .contextLoss => false
  | .tinvRange => false
  | .tinvContext => false
  | .tinvAll => false
  | .tinvComplete => false
  | .tagFreed => false
  | .hbmChannelRetire => false
  | .hbmRetireComplete => false
  | .cxlLinkTrain => false
  | .cxlPortDown => false
  | .checkpointSave => false
  | .checkpointRestore => false
  | .checkpointSaveEnd => false
  | .checkpointRestoreEnd => false
  | .ullerLinkDown => false
  | .weftPortDown => false
  | .weftLinkTrain => false
  | .wrouteWrite => false
  | .shuttlePeriodStart => false
  | .shmapWrite => false
  | .shuttleFlitHop => false
  | .heddleTableWrite => false
  | .migrationEpoch => false
  | .homeMove => false
  | .homeMoveEnd => false
  | .migrateHomeAll => false
  | .triggerDelivered => false
  | .waitClosedStart => false
  | .launchEnd => false
  | .imageLoad => false
  | .imageLoadEnd => false
  | .imageUnload => false
  | .imageForcedUnload => false
  | .pdefWrite => false
  | .queueCreate => false
  | .queueDisable => false
  | .queueThaw => false
  | .qtailWrite => false
  | .queueHeadRead => false
  | .completionRecordWrite => false
  | .sequencerSelect => false
  | .bind => false
  | .quantumExpiry => false
  | .preemptRequest => false
  | .killRequest => false
  | .preemptWithdraw => false
  | .contextSave => false
  | .contextSaveEnd => false
  | .restoreEnd => false
  | .ctxareaWrite => false
  | .tstopResume => false
  | .powerGood => false
  | .b2LinkTest => false
  | .b3Election => false
  | .electionRound => false
  | .b4Enumeration => false
  | .b5Start => false
  | .lprobe => false
  | .lecho => false
  | .elect => false
  | .enum => false
  | .accept => false
  | .refuse => false
  | .report => false
  | .lstart => false
  | .done => false
  | .enumTimeout => false
  | .enumerationDeadline => false
  | .ullerClaimGrant => false
  | .placementRun => false
  | .placementEnd => false
  | .instkeyWrite => false
  | .activityStep => false
  | .issueGatePair => false
  | .droopAlarm => false
  | .droopBelowFloor => false
  | .thermalHot => false
  | .thermalCrit => false
  | .overtempPowerOff => false
  | .powerLimitGate => false
  | .rpctlWrite => false
  | .rthermWrite => false
  | .mstagWrite => false
  | .debugStopRequest => false
  | .debugStopWithdraw => false
  | .debugStopFreeze => false
  | .traceSample => false
  | .traceRecordWrite => false
  | .trringWrite => false
  | .rcRead => false
  | .registerWrite => false
  | .powerLoss => false
  | .ullerLinkTrain => false
  | .homeAccess => false
  | .managementWindowWrite => false

end Sys2Proof
end

