-- ==== Sys2Proof/Decode.lean ====
section
/-! DEFINITION. The encoding: head words (rules R209, R210), slot words in the forms of rule R222 under the opcode map of
rules R224 to R232, and the encoder from the same tables. Decoding is total and rejects by name. -/

namespace Sys2Proof

/-- Why a slot word is no instruction (rule R213). -/
inductive DecodeError where
  /-- The slot's map leaves the opcode unassigned (rule R232). -/
  | illegalOpcode
  /-- A field outside its limits, or a nonzero bit that the form requires to be 0 (rules R222, R223). -/
  | illegalEncoding
  deriving DecidableEq, Repr

/-- The outcome of decoding one slot word. -/
inductive Decoded where
  | ok (i : Instr)
  | bad (e : DecodeError)
  deriving DecidableEq, Repr

/-! ### Forms -/

/-- A slot word of the form: guard, opcode and fields, with the bits of `fixed` in the positions that no field holds. -/
def R3Ops.word (op : BitVec 8) (fixed : BitVec 20) (o : R3Ops) : Word32 :=
  o.g ++ op ++ o.d ++ o.a ++ o.b ++ (fixed.extractLsb' 0 2)

/-- The fields of a slot word of the form. -/
def R3Ops.read (w : Word32) : R3Ops :=
  { g := w.extractLsb' 28 4, d := w.extractLsb' 14 6, a := w.extractLsb' 8 6, b := w.extractLsb' 2 6 }

/-- A slot word of the form: guard, opcode and fields, with the bits of `_fixed` in the positions that no field holds. -/
def R3xOps.word (op : BitVec 8) (_fixed : BitVec 20) (o : R3xOps) : Word32 :=
  o.g ++ op ++ o.d ++ o.a ++ o.b ++ o.x

/-- The fields of a slot word of the form. -/
def R3xOps.read (w : Word32) : R3xOps :=
  { g := w.extractLsb' 28 4, d := w.extractLsb' 14 6, a := w.extractLsb' 8 6, b := w.extractLsb' 2 6, x := w.extractLsb' 0 2 }

/-- A slot word of the form: guard, opcode and fields, with the bits of `_fixed` in the positions that no field holds. -/
def RisOps.word (op : BitVec 8) (_fixed : BitVec 20) (o : RisOps) : Word32 :=
  o.g ++ op ++ o.d ++ o.a ++ o.imm

/-- The fields of a slot word of the form. -/
def RisOps.read (w : Word32) : RisOps :=
  { g := w.extractLsb' 28 4, d := w.extractLsb' 14 6, a := w.extractLsb' 8 6, imm := w.extractLsb' 0 8 }

/-- A slot word of the form: guard, opcode and fields, with the bits of `_fixed` in the positions that no field holds. -/
def RiOps.word (op : BitVec 8) (_fixed : BitVec 20) (o : RiOps) : Word32 :=
  o.g ++ op ++ o.d ++ o.imm

/-- The fields of a slot word of the form. -/
def RiOps.read (w : Word32) : RiOps :=
  { g := w.extractLsb' 28 4, d := w.extractLsb' 14 6, imm := w.extractLsb' 0 14 }

/-- A slot word of the form: guard, opcode and fields, with the bits of `fixed` in the positions that no field holds. -/
def PcOps.word (op : BitVec 8) (fixed : BitVec 20) (o : PcOps) : Word32 :=
  o.g ++ op ++ o.pd ++ o.cc ++ o.a ++ o.b ++ (fixed.extractLsb' 0 1)

/-- The fields of a slot word of the form. -/
def PcOps.read (w : Word32) : PcOps :=
  { g := w.extractLsb' 28 4, pd := w.extractLsb' 16 4, cc := w.extractLsb' 13 3, a := w.extractLsb' 7 6, b := w.extractLsb' 1 6 }

/-- A slot word of the form: guard, opcode and fields, with the bits of `_fixed` in the positions that no field holds. -/
def PciOps.word (op : BitVec 8) (_fixed : BitVec 20) (o : PciOps) : Word32 :=
  o.g ++ op ++ o.pd ++ o.cc ++ o.a ++ o.imm

/-- The fields of a slot word of the form. -/
def PciOps.read (w : Word32) : PciOps :=
  { g := w.extractLsb' 28 4, pd := w.extractLsb' 16 4, cc := w.extractLsb' 13 3, a := w.extractLsb' 7 6, imm := w.extractLsb' 0 7 }

/-- A slot word of the form: guard, opcode and fields, with the bits of `_fixed` in the positions that no field holds. -/
def BOps.word (op : BitVec 8) (_fixed : BitVec 20) (o : BOps) : Word32 :=
  o.g ++ op ++ o.off

/-- The fields of a slot word of the form. -/
def BOps.read (w : Word32) : BOps :=
  { g := w.extractLsb' 28 4, off := w.extractLsb' 0 20 }

/-- A slot word of the form: guard, opcode and fields, with the bits of `_fixed` in the positions that no field holds. -/
def BlOps.word (op : BitVec 8) (_fixed : BitVec 20) (o : BlOps) : Word32 :=
  o.g ++ op ++ o.d ++ o.off

/-- The fields of a slot word of the form. -/
def BlOps.read (w : Word32) : BlOps :=
  { g := w.extractLsb' 28 4, d := w.extractLsb' 14 6, off := w.extractLsb' 0 14 }

/-- A slot word of the form: guard, opcode and fields, with the bits of `fixed` in the positions that no field holds. -/
def R1aOps.word (op : BitVec 8) (fixed : BitVec 20) (o : R1aOps) : Word32 :=
  o.g ++ op ++ o.a ++ (fixed.extractLsb' 0 14)

/-- The fields of a slot word of the form. -/
def R1aOps.read (w : Word32) : R1aOps :=
  { g := w.extractLsb' 28 4, a := w.extractLsb' 14 6 }

/-- A slot word of the form: guard, opcode and fields, with the bits of `fixed` in the positions that no field holds. -/
def R1dOps.word (op : BitVec 8) (fixed : BitVec 20) (o : R1dOps) : Word32 :=
  o.g ++ op ++ o.d ++ (fixed.extractLsb' 0 14)

/-- The fields of a slot word of the form. -/
def R1dOps.read (w : Word32) : R1dOps :=
  { g := w.extractLsb' 28 4, d := w.extractLsb' 14 6 }

/-- A slot word of the form: guard, opcode and fields, with the bits of `fixed` in the positions that no field holds. -/
def ZOps.word (op : BitVec 8) (fixed : BitVec 20) (o : ZOps) : Word32 :=
  o.g ++ op ++ (fixed.extractLsb' 0 20)

/-- The fields of a slot word of the form. -/
def ZOps.read (w : Word32) : ZOps :=
  { g := w.extractLsb' 28 4 }

/-- A slot word of the form: guard, opcode and fields, with the bits of `fixed` in the positions that no field holds. -/
def TOps.word (op : BitVec 8) (fixed : BitVec 20) (o : TOps) : Word32 :=
  o.g ++ op ++ (fixed.extractLsb' 16 4) ++ o.code

/-- The fields of a slot word of the form. -/
def TOps.read (w : Word32) : TOps :=
  { g := w.extractLsb' 28 4, code := w.extractLsb' 0 16 }

/-- A slot word of the form: guard, opcode and fields, with the bits of `fixed` in the positions that no field holds. -/
def SyrOps.word (op : BitVec 8) (fixed : BitVec 20) (o : SyrOps) : Word32 :=
  o.g ++ op ++ o.d ++ o.n ++ (fixed.extractLsb' 0 2)

/-- The fields of a slot word of the form. -/
def SyrOps.read (w : Word32) : SyrOps :=
  { g := w.extractLsb' 28 4, d := w.extractLsb' 14 6, n := w.extractLsb' 2 12 }

/-- A slot word of the form: guard, opcode and fields, with the bits of `fixed` in the positions that no field holds. -/
def SywOps.word (op : BitVec 8) (fixed : BitVec 20) (o : SywOps) : Word32 :=
  o.g ++ op ++ o.a ++ o.n ++ (fixed.extractLsb' 0 2)

/-- The fields of a slot word of the form. -/
def SywOps.read (w : Word32) : SywOps :=
  { g := w.extractLsb' 28 4, a := w.extractLsb' 14 6, n := w.extractLsb' 2 12 }

/-- A slot word of the form: guard, opcode and fields, with the bits of `fixed` in the positions that no field holds. -/
def FwOps.word (op : BitVec 8) (fixed : BitVec 20) (o : FwOps) : Word32 :=
  o.g ++ op ++ o.f ++ o.a ++ (fixed.extractLsb' 0 10)

/-- The fields of a slot word of the form. -/
def FwOps.read (w : Word32) : FwOps :=
  { g := w.extractLsb' 28 4, f := w.extractLsb' 16 4, a := w.extractLsb' 10 6 }

/-- A slot word of the form: guard, opcode and fields, with the bits of `fixed` in the positions that no field holds. -/
def R2Ops.word (op : BitVec 8) (fixed : BitVec 20) (o : R2Ops) : Word32 :=
  o.g ++ op ++ o.a ++ o.b ++ (fixed.extractLsb' 0 8)

/-- The fields of a slot word of the form. -/
def R2Ops.read (w : Word32) : R2Ops :=
  { g := w.extractLsb' 28 4, a := w.extractLsb' 14 6, b := w.extractLsb' 8 6 }

/-- A slot word of the form: guard, opcode and fields, with the bits of `fixed` in the positions that no field holds. -/
def DaOps.word (op : BitVec 8) (fixed : BitVec 20) (o : DaOps) : Word32 :=
  o.g ++ op ++ o.d ++ o.a ++ (fixed.extractLsb' 0 8)

/-- The fields of a slot word of the form. -/
def DaOps.read (w : Word32) : DaOps :=
  { g := w.extractLsb' 28 4, d := w.extractLsb' 14 6, a := w.extractLsb' 8 6 }

/-- A slot word of the form: guard, opcode and fields, with the bits of `fixed` in the positions that no field holds. -/
def CvOps.word (op : BitVec 8) (fixed : BitVec 20) (o : CvOps) : Word32 :=
  o.g ++ op ++ o.d ++ o.a ++ o.m ++ (fixed.extractLsb' 0 5)

/-- The fields of a slot word of the form. -/
def CvOps.read (w : Word32) : CvOps :=
  { g := w.extractLsb' 28 4, d := w.extractLsb' 14 6, a := w.extractLsb' 8 6, m := w.extractLsb' 5 3 }

/-- A slot word of the form: guard, opcode and fields, with the bits of `fixed` in the positions that no field holds. -/
def CvfOps.word (op : BitVec 8) (fixed : BitVec 20) (o : CvfOps) : Word32 :=
  o.g ++ op ++ o.d ++ o.a ++ o.m ++ o.f ++ (fixed.extractLsb' 0 1)

/-- The fields of a slot word of the form. -/
def CvfOps.read (w : Word32) : CvfOps :=
  { g := w.extractLsb' 28 4, d := w.extractLsb' 14 6, a := w.extractLsb' 8 6, m := w.extractLsb' 5 3, f := w.extractLsb' 1 4 }

/-- A slot word of the form: guard, opcode and fields, with the bits of `_fixed` in the positions that no field holds. -/
def CsOps.word (op : BitVec 8) (_fixed : BitVec 20) (o : CsOps) : Word32 :=
  o.g ++ op ++ o.d ++ o.a ++ o.b ++ o.f

/-- The fields of a slot word of the form. -/
def CsOps.read (w : Word32) : CsOps :=
  { g := w.extractLsb' 28 4, d := w.extractLsb' 14 6, a := w.extractLsb' 8 6, b := w.extractLsb' 2 6, f := w.extractLsb' 0 2 }

/-- A slot word of the form: guard, opcode and fields, with the bits of `fixed` in the positions that no field holds. -/
def MsOps.word (op : BitVec 8) (fixed : BitVec 20) (o : MsOps) : Word32 :=
  o.g ++ op ++ o.a ++ o.acc ++ o.fa ++ o.fb ++ (fixed.extractLsb' 0 3)

/-- The fields of a slot word of the form. -/
def MsOps.read (w : Word32) : MsOps :=
  { g := w.extractLsb' 28 4, a := w.extractLsb' 14 6, acc := w.extractLsb' 11 3, fa := w.extractLsb' 7 4, fb := w.extractLsb' 3 4 }

/-- A slot word of the form: guard, opcode and fields, with the bits of `fixed` in the positions that no field holds. -/
def MslOps.word (op : BitVec 8) (fixed : BitVec 20) (o : MslOps) : Word32 :=
  o.g ++ op ++ o.a ++ o.acc ++ o.fa ++ (fixed.extractLsb' 0 7)

/-- The fields of a slot word of the form. -/
def MslOps.read (w : Word32) : MslOps :=
  { g := w.extractLsb' 28 4, a := w.extractLsb' 14 6, acc := w.extractLsb' 11 3, fa := w.extractLsb' 7 4 }

/-- A slot word of the form: guard, opcode and fields, with the bits of `fixed` in the positions that no field holds. -/
def MbOps.word (op : BitVec 8) (fixed : BitVec 20) (o : MbOps) : Word32 :=
  o.g ++ op ++ o.a ++ o.fb ++ (fixed.extractLsb' 0 10)

/-- The fields of a slot word of the form. -/
def MbOps.read (w : Word32) : MbOps :=
  { g := w.extractLsb' 28 4, a := w.extractLsb' 14 6, fb := w.extractLsb' 10 4 }

/-- A slot word of the form: guard, opcode and fields, with the bits of `fixed` in the positions that no field holds. -/
def MqOps.word (op : BitVec 8) (fixed : BitVec 20) (o : MqOps) : Word32 :=
  o.g ++ op ++ o.a ++ o.q ++ (fixed.extractLsb' 0 12)

/-- The fields of a slot word of the form. -/
def MqOps.read (w : Word32) : MqOps :=
  { g := w.extractLsb' 28 4, a := w.extractLsb' 14 6, q := w.extractLsb' 12 2 }

/-- A slot word of the form: guard, opcode and fields, with the bits of `fixed` in the positions that no field holds. -/
def MdOps.word (op : BitVec 8) (fixed : BitVec 20) (o : MdOps) : Word32 :=
  o.g ++ op ++ o.a ++ o.acc ++ o.f ++ o.m ++ o.zr ++ (fixed.extractLsb' 0 3)

/-- The fields of a slot word of the form. -/
def MdOps.read (w : Word32) : MdOps :=
  { g := w.extractLsb' 28 4, a := w.extractLsb' 14 6, acc := w.extractLsb' 11 3, f := w.extractLsb' 7 4, m := w.extractLsb' 4 3, zr := w.extractLsb' 3 1 }

/-- A slot word of the form: guard, opcode and fields, with the bits of `fixed` in the positions that no field holds. -/
def MaskOps.word (op : BitVec 8) (fixed : BitVec 20) (o : MaskOps) : Word32 :=
  o.g ++ op ++ o.mask ++ (fixed.extractLsb' 0 12)

/-- The fields of a slot word of the form. -/
def MaskOps.read (w : Word32) : MaskOps :=
  { g := w.extractLsb' 28 4, mask := w.extractLsb' 12 8 }

/-- A slot word of the form: guard, opcode and fields, with the bits of `_fixed` in the positions that no field holds. -/
def XaOps.word (op : BitVec 8) (_fixed : BitVec 20) (o : XaOps) : Word32 :=
  o.g ++ op ++ o.a ++ o.imm

/-- The fields of a slot word of the form. -/
def XaOps.read (w : Word32) : XaOps :=
  { g := w.extractLsb' 28 4, a := w.extractLsb' 14 6, imm := w.extractLsb' 0 14 }

/-- A slot word of the form: guard, opcode and fields, with the bits of `_fixed` in the positions that no field holds. -/
def SwOps.word (op : BitVec 8) (_fixed : BitVec 20) (o : SwOps) : Word32 :=
  o.g ++ op ++ o.m ++ o.n

/-- The fields of a slot word of the form. -/
def SwOps.read (w : Word32) : SwOps :=
  { g := w.extractLsb' 28 4, m := w.extractLsb' 16 4, n := w.extractLsb' 0 16 }

/-- A slot word of the form: guard, opcode and fields, with the bits of `fixed` in the positions that no field holds. -/
def LkOps.word (op : BitVec 8) (fixed : BitVec 20) (o : LkOps) : Word32 :=
  o.g ++ op ++ o.a ++ o.b ++ o.m ++ (fixed.extractLsb' 0 4)

/-- The fields of a slot word of the form. -/
def LkOps.read (w : Word32) : LkOps :=
  { g := w.extractLsb' 28 4, a := w.extractLsb' 14 6, b := w.extractLsb' 8 6, m := w.extractLsb' 4 4 }

/-- A slot word of the form: guard, opcode and fields, with the bits of `fixed` in the positions that no field holds. -/
def LsOps.word (op : BitVec 8) (fixed : BitVec 20) (o : LsOps) : Word32 :=
  o.g ++ op ++ o.l ++ o.a ++ o.len ++ (fixed.extractLsb' 0 3)

/-- The fields of a slot word of the form. -/
def LsOps.read (w : Word32) : LsOps :=
  { g := w.extractLsb' 28 4, l := w.extractLsb' 17 3, a := w.extractLsb' 11 6, len := w.extractLsb' 3 8 }

/-- A slot word of the form: guard, opcode and fields, with the bits of `fixed` in the positions that no field holds. -/
def LqOps.word (op : BitVec 8) (fixed : BitVec 20) (o : LqOps) : Word32 :=
  o.g ++ op ++ o.l ++ o.j ++ o.s ++ o.b ++ (fixed.extractLsb' 0 3)

/-- The fields of a slot word of the form. -/
def LqOps.read (w : Word32) : LqOps :=
  { g := w.extractLsb' 28 4, l := w.extractLsb' 17 3, j := w.extractLsb' 15 2, s := w.extractLsb' 9 6, b := w.extractLsb' 3 6 }

/-- A slot word of the form: guard, opcode and fields, with the bits of `fixed` in the positions that no field holds. -/
def PrOps.word (op : BitVec 8) (fixed : BitVec 20) (o : PrOps) : Word32 :=
  o.g ++ op ++ o.p ++ o.n ++ (fixed.extractLsb' 0 8)

/-- The fields of a slot word of the form. -/
def PrOps.read (w : Word32) : PrOps :=
  { g := w.extractLsb' 28 4, p := w.extractLsb' 16 4, n := w.extractLsb' 8 8 }

/-- A slot word of the form: guard, opcode and fields, with the bits of `fixed` in the positions that no field holds. -/
def P3Ops.word (op : BitVec 8) (fixed : BitVec 20) (o : P3Ops) : Word32 :=
  o.g ++ op ++ o.pd ++ o.pa ++ o.pb ++ (fixed.extractLsb' 0 8)

/-- The fields of a slot word of the form. -/
def P3Ops.read (w : Word32) : P3Ops :=
  { g := w.extractLsb' 28 4, pd := w.extractLsb' 16 4, pa := w.extractLsb' 12 4, pb := w.extractLsb' 8 4 }

/-- A slot word of the form: guard, opcode and fields, with the bits of `fixed` in the positions that no field holds. -/
def PsOps.word (op : BitVec 8) (fixed : BitVec 20) (o : PsOps) : Word32 :=
  o.g ++ op ++ o.pd ++ o.v ++ (fixed.extractLsb' 0 15)

/-- The fields of a slot word of the form. -/
def PsOps.read (w : Word32) : PsOps :=
  { g := w.extractLsb' 28 4, pd := w.extractLsb' 16 4, v := w.extractLsb' 15 1 }

/-- The opcode field of a slot word (rule R211). -/
def opcodeOf (w : Word32) : BitVec 8 := w.extractLsb' 20 8

/-- One row of an opcode map: the bits of `mask` must hold the bits of `want`, and the fields must keep their
limits. -/
def row (w : Word32) (mask want : BitVec 20) (i : Instr) : Decoded :=
  if w.extractLsb' 0 20 &&& mask = want then (if i.wf then .ok i else .bad .illegalEncoding)
  else .bad .illegalEncoding

/-! ### The opcode maps -/

/-- The SA slot (rules R224). -/
def decodeSa (w : Word32) : Decoded :=
  match (opcodeOf w).toNat with
  | 0x00 => row w 0x00003 0x00000 (.add false (R3Ops.read w))
  | 0x01 => row w 0x00003 0x00000 (.sub false (R3Ops.read w))
  | 0x02 => row w 0x00003 0x00000 (.and false (R3Ops.read w))
  | 0x03 => row w 0x00003 0x00000 (.or false (R3Ops.read w))
  | 0x04 => row w 0x00003 0x00000 (.xor false (R3Ops.read w))
  | 0x05 => row w 0x00003 0x00000 (.andn false (R3Ops.read w))
  | 0x06 => row w 0x00003 0x00000 (.shl false (R3Ops.read w))
  | 0x07 => row w 0x00003 0x00000 (.shr false (R3Ops.read w))
  | 0x08 => row w 0x00003 0x00000 (.sra false (R3Ops.read w))
  | 0x09 => row w 0x00003 0x00000 (.min false (R3Ops.read w))
  | 0x0A => row w 0x00003 0x00000 (.max false (R3Ops.read w))
  | 0x0B => row w 0x00003 0x00000 (.minn false (R3Ops.read w))
  | 0x0C => row w 0x00003 0x00000 (.maxn false (R3Ops.read w))
  | 0x10 => row w 0x00000 0x00000 (.addi false (RisOps.read w))
  | 0x11 => row w 0x00000 0x00000 (.andi false (RisOps.read w))
  | 0x12 => row w 0x00000 0x00000 (.ori false (RisOps.read w))
  | 0x13 => row w 0x00000 0x00000 (.shli false (RisOps.read w))
  | 0x14 => row w 0x00000 0x00000 (.shri false (RisOps.read w))
  | 0x15 => row w 0x00000 0x00000 (.srai false (RisOps.read w))
  | 0x18 => row w 0x00000 0x00000 (.movi false (RiOps.read w))
  | 0x19 => row w 0x00000 0x00000 (.movis false (RiOps.read w))
  | 0x20 => row w 0x00001 0x00000 (.cmp false (PcOps.read w))
  | 0x21 => row w 0x00000 0x00000 (.cmpi false (PciOps.read w))
  | 0x30 => row w 0x00003 0x00000 (.mul (R3Ops.read w))
  | 0x31 => row w 0x00003 0x00000 (.mulh (R3Ops.read w))
  | 0x32 => row w 0x00003 0x00000 (.mulhn (R3Ops.read w))
  | 0x38 => row w 0x00000 0x00000 (.addsh (R3xOps.read w))
  | _ => .bad .illegalOpcode

/-- The SB slot (rules R224, R225). -/
def decodeSb (w : Word32) : Decoded :=
  match (opcodeOf w).toNat with
  | 0x00 => row w 0x00003 0x00000 (.add true (R3Ops.read w))
  | 0x01 => row w 0x00003 0x00000 (.sub true (R3Ops.read w))
  | 0x02 => row w 0x00003 0x00000 (.and true (R3Ops.read w))
  | 0x03 => row w 0x00003 0x00000 (.or true (R3Ops.read w))
  | 0x04 => row w 0x00003 0x00000 (.xor true (R3Ops.read w))
  | 0x05 => row w 0x00003 0x00000 (.andn true (R3Ops.read w))
  | 0x06 => row w 0x00003 0x00000 (.shl true (R3Ops.read w))
  | 0x07 => row w 0x00003 0x00000 (.shr true (R3Ops.read w))
  | 0x08 => row w 0x00003 0x00000 (.sra true (R3Ops.read w))
  | 0x09 => row w 0x00003 0x00000 (.min true (R3Ops.read w))
  | 0x0A => row w 0x00003 0x00000 (.max true (R3Ops.read w))
  | 0x0B => row w 0x00003 0x00000 (.minn true (R3Ops.read w))
  | 0x0C => row w 0x00003 0x00000 (.maxn true (R3Ops.read w))
  | 0x10 => row w 0x00000 0x00000 (.addi true (RisOps.read w))
  | 0x11 => row w 0x00000 0x00000 (.andi true (RisOps.read w))
  | 0x12 => row w 0x00000 0x00000 (.ori true (RisOps.read w))
  | 0x13 => row w 0x00000 0x00000 (.shli true (RisOps.read w))
  | 0x14 => row w 0x00000 0x00000 (.shri true (RisOps.read w))
  | 0x15 => row w 0x00000 0x00000 (.srai true (RisOps.read w))
  | 0x18 => row w 0x00000 0x00000 (.movi true (RiOps.read w))
  | 0x19 => row w 0x00000 0x00000 (.movis true (RiOps.read w))
  | 0x20 => row w 0x00001 0x00000 (.cmp true (PcOps.read w))
  | 0x21 => row w 0x00000 0x00000 (.cmpi true (PciOps.read w))
  | 0x80 => row w 0x00000 0x00000 (.br (BOps.read w))
  | 0x81 => row w 0x00000 0x00000 (.brL (BlOps.read w))
  | 0x82 => row w 0x03FFF 0x00000 (.brInd (R1aOps.read w))
  | 0x88 => row w 0xFFFFF 0x00000 (.halt (ZOps.read w))
  | 0x89 => row w 0xF0000 0x00000 (.trap (TOps.read w))
  | 0x8A => row w 0xFFFFF 0x00000 (.tret (ZOps.read w))
  | 0x90 => row w 0x00003 0x00000 (.sysRd (SyrOps.read w))
  | 0x91 => row w 0x00003 0x00000 (.sysWr (SywOps.read w))
  | 0x92 => row w 0x003FF 0x00000 (.fmtWr (FwOps.read w))
  | 0x98 => row w 0x000FF 0x00000 (.sysBist (R2Ops.read w))
  | 0x99 => row w 0x000FF 0x00000 (.margV (R2Ops.read w))
  | 0x9A => row w 0x000FF 0x00000 (.margL (R2Ops.read w))
  | _ => .bad .illegalOpcode

/-- The LM slot (rules R226). -/
def decodeLm (w : Word32) : Decoded :=
  match (opcodeOf w).toNat with
  | 0x00 => row w 0x00000 0x00000 (.ldI8 (RisOps.read w))
  | 0x01 => row w 0x00000 0x00000 (.ldN8 (RisOps.read w))
  | 0x02 => row w 0x00000 0x00000 (.ldI16 (RisOps.read w))
  | 0x03 => row w 0x00000 0x00000 (.ldN16 (RisOps.read w))
  | 0x04 => row w 0x00000 0x00000 (.ldI32 (RisOps.read w))
  | 0x05 => row w 0x00000 0x00000 (.ldN32 (RisOps.read w))
  | 0x06 => row w 0x00000 0x00000 (.ldI64 (RisOps.read w))
  | 0x08 => row w 0x00000 0x00000 (.stB (RisOps.read w))
  | 0x09 => row w 0x00000 0x00000 (.stH (RisOps.read w))
  | 0x0A => row w 0x00000 0x00000 (.stW (RisOps.read w))
  | 0x0B => row w 0x00000 0x00000 (.stD (RisOps.read w))
  | 0x10 => row w 0x00000 0x00000 (.vld (RisOps.read w))
  | 0x11 => row w 0x00000 0x00000 (.vst (RisOps.read w))
  | 0x12 => row w 0x00003 0x00000 (.vldx (R3Ops.read w))
  | 0x13 => row w 0x00003 0x00000 (.vstx (R3Ops.read w))
  | 0x14 => row w 0x00000 0x00000 (.vbcastW (RisOps.read w))
  | 0x18 => row w 0x00003 0x00000 (.vgatherW (R3Ops.read w))
  | 0x19 => row w 0x00003 0x00000 (.vgatherH (R3Ops.read w))
  | 0x1A => row w 0x00003 0x00000 (.vscatterW (R3Ops.read w))
  | 0x1B => row w 0x00003 0x00000 (.vscatterH (R3Ops.read w))
  | _ => .bad .illegalOpcode

/-- The VA slot (rules R227). -/
def decodeVa (w : Word32) : Decoded :=
  match (opcodeOf w).toNat with
  | 0x00 => row w 0x00000 0x00000 (.vaddF32 (R3xOps.read w))
  | 0x01 => row w 0x00000 0x00000 (.vaddF16 (R3xOps.read w))
  | 0x02 => row w 0x00000 0x00000 (.vaddBf16 (R3xOps.read w))
  | 0x04 => row w 0x00000 0x00000 (.vsubF32 (R3xOps.read w))
  | 0x05 => row w 0x00000 0x00000 (.vsubF16 (R3xOps.read w))
  | 0x06 => row w 0x00000 0x00000 (.vsubBf16 (R3xOps.read w))
  | 0x08 => row w 0x00003 0x00000 (.vminF32 (R3Ops.read w))
  | 0x09 => row w 0x00003 0x00000 (.vminF16 (R3Ops.read w))
  | 0x0A => row w 0x00003 0x00000 (.vminBf16 (R3Ops.read w))
  | 0x0C => row w 0x00003 0x00000 (.vmaxF32 (R3Ops.read w))
  | 0x0D => row w 0x00003 0x00000 (.vmaxF16 (R3Ops.read w))
  | 0x0E => row w 0x00003 0x00000 (.vmaxBf16 (R3Ops.read w))
  | 0x10 => row w 0x00003 0x00000 (.vminnF32 (R3Ops.read w))
  | 0x11 => row w 0x00003 0x00000 (.vminnF16 (R3Ops.read w))
  | 0x12 => row w 0x00003 0x00000 (.vminnBf16 (R3Ops.read w))
  | 0x14 => row w 0x00003 0x00000 (.vmaxnF32 (R3Ops.read w))
  | 0x15 => row w 0x00003 0x00000 (.vmaxnF16 (R3Ops.read w))
  | 0x16 => row w 0x00003 0x00000 (.vmaxnBf16 (R3Ops.read w))
  | 0x18 => row w 0x00000 0x00000 (.vcmpF32 (R3xOps.read w))
  | 0x19 => row w 0x00000 0x00000 (.vcmpF16 (R3xOps.read w))
  | 0x1A => row w 0x00000 0x00000 (.vcmpBf16 (R3xOps.read w))
  | 0x20 => row w 0x00003 0x00000 (.viaddI8 (R3Ops.read w))
  | 0x21 => row w 0x00003 0x00000 (.viaddI16 (R3Ops.read w))
  | 0x22 => row w 0x00003 0x00000 (.viaddI32 (R3Ops.read w))
  | 0x23 => row w 0x00003 0x00000 (.viaddI64 (R3Ops.read w))
  | 0x24 => row w 0x00003 0x00000 (.visubI8 (R3Ops.read w))
  | 0x25 => row w 0x00003 0x00000 (.visubI16 (R3Ops.read w))
  | 0x26 => row w 0x00003 0x00000 (.visubI32 (R3Ops.read w))
  | 0x27 => row w 0x00003 0x00000 (.visubI64 (R3Ops.read w))
  | 0x28 => row w 0x00003 0x00000 (.viaddsI8 (R3Ops.read w))
  | 0x29 => row w 0x00003 0x00000 (.viaddsI16 (R3Ops.read w))
  | 0x2A => row w 0x00003 0x00000 (.viaddsI32 (R3Ops.read w))
  | 0x2B => row w 0x00003 0x00000 (.viaddsI64 (R3Ops.read w))
  | 0x2C => row w 0x00003 0x00000 (.viaddsN8 (R3Ops.read w))
  | 0x2D => row w 0x00003 0x00000 (.viaddsN16 (R3Ops.read w))
  | 0x2E => row w 0x00003 0x00000 (.viaddsN32 (R3Ops.read w))
  | 0x2F => row w 0x00003 0x00000 (.viaddsN64 (R3Ops.read w))
  | 0x30 => row w 0x00003 0x00000 (.visubsI8 (R3Ops.read w))
  | 0x31 => row w 0x00003 0x00000 (.visubsI16 (R3Ops.read w))
  | 0x32 => row w 0x00003 0x00000 (.visubsI32 (R3Ops.read w))
  | 0x33 => row w 0x00003 0x00000 (.visubsI64 (R3Ops.read w))
  | 0x34 => row w 0x00003 0x00000 (.visubsN8 (R3Ops.read w))
  | 0x35 => row w 0x00003 0x00000 (.visubsN16 (R3Ops.read w))
  | 0x36 => row w 0x00003 0x00000 (.visubsN32 (R3Ops.read w))
  | 0x37 => row w 0x00003 0x00000 (.visubsN64 (R3Ops.read w))
  | 0x38 => row w 0x00003 0x00000 (.viminI8 (R3Ops.read w))
  | 0x39 => row w 0x00003 0x00000 (.viminI16 (R3Ops.read w))
  | 0x3A => row w 0x00003 0x00000 (.viminI32 (R3Ops.read w))
  | 0x3B => row w 0x00003 0x00000 (.viminI64 (R3Ops.read w))
  | 0x3C => row w 0x00003 0x00000 (.viminN8 (R3Ops.read w))
  | 0x3D => row w 0x00003 0x00000 (.viminN16 (R3Ops.read w))
  | 0x3E => row w 0x00003 0x00000 (.viminN32 (R3Ops.read w))
  | 0x3F => row w 0x00003 0x00000 (.viminN64 (R3Ops.read w))
  | 0x40 => row w 0x00003 0x00000 (.vimaxI8 (R3Ops.read w))
  | 0x41 => row w 0x00003 0x00000 (.vimaxI16 (R3Ops.read w))
  | 0x42 => row w 0x00003 0x00000 (.vimaxI32 (R3Ops.read w))
  | 0x43 => row w 0x00003 0x00000 (.vimaxI64 (R3Ops.read w))
  | 0x44 => row w 0x00003 0x00000 (.vimaxN8 (R3Ops.read w))
  | 0x45 => row w 0x00003 0x00000 (.vimaxN16 (R3Ops.read w))
  | 0x46 => row w 0x00003 0x00000 (.vimaxN32 (R3Ops.read w))
  | 0x47 => row w 0x00003 0x00000 (.vimaxN64 (R3Ops.read w))
  | 0x48 => row w 0x00000 0x00000 (.vicmpI8 (R3xOps.read w))
  | 0x49 => row w 0x00000 0x00000 (.vicmpI16 (R3xOps.read w))
  | 0x4A => row w 0x00000 0x00000 (.vicmpI32 (R3xOps.read w))
  | 0x4B => row w 0x00000 0x00000 (.vicmpI64 (R3xOps.read w))
  | 0x4C => row w 0x00000 0x00000 (.vicmpN8 (R3xOps.read w))
  | 0x4D => row w 0x00000 0x00000 (.vicmpN16 (R3xOps.read w))
  | 0x4E => row w 0x00000 0x00000 (.vicmpN32 (R3xOps.read w))
  | 0x4F => row w 0x00000 0x00000 (.vicmpN64 (R3xOps.read w))
  | 0x50 => row w 0x00003 0x00000 (.vand (R3Ops.read w))
  | 0x51 => row w 0x00003 0x00000 (.vor (R3Ops.read w))
  | 0x52 => row w 0x00003 0x00000 (.vxor (R3Ops.read w))
  | 0x54 => row w 0x00003 0x00000 (.vshl8 (R3Ops.read w))
  | 0x55 => row w 0x00003 0x00000 (.vshl16 (R3Ops.read w))
  | 0x56 => row w 0x00003 0x00000 (.vshl32 (R3Ops.read w))
  | 0x57 => row w 0x00003 0x00000 (.vshl64 (R3Ops.read w))
  | 0x58 => row w 0x00003 0x00000 (.vshr8 (R3Ops.read w))
  | 0x59 => row w 0x00003 0x00000 (.vshr16 (R3Ops.read w))
  | 0x5A => row w 0x00003 0x00000 (.vshr32 (R3Ops.read w))
  | 0x5B => row w 0x00003 0x00000 (.vshr64 (R3Ops.read w))
  | 0x5C => row w 0x00003 0x00000 (.vsra8 (R3Ops.read w))
  | 0x5D => row w 0x00003 0x00000 (.vsra16 (R3Ops.read w))
  | 0x5E => row w 0x00003 0x00000 (.vsra32 (R3Ops.read w))
  | 0x5F => row w 0x00003 0x00000 (.vsra64 (R3Ops.read w))
  | 0x60 => row w 0x00003 0x00000 (.vsel (R3Ops.read w))
  | 0x61 => row w 0x00003 0x00000 (.vshufB (R3Ops.read w))
  | 0x62 => row w 0x00003 0x00000 (.vshufH (R3Ops.read w))
  | 0x63 => row w 0x00003 0x00000 (.vshufW (R3Ops.read w))
  | 0x64 => row w 0x000FF 0x00000 (.vsplatH (DaOps.read w))
  | 0x65 => row w 0x000FF 0x00000 (.vsplatW (DaOps.read w))
  | 0x66 => row w 0x000FF 0x00000 (.vsplatD (DaOps.read w))
  | 0x68 => row w 0x00000 0x00000 (.vextD (RisOps.read w))
  | 0x70 => row w 0x00000 0x00000 (.vredF32 (R3xOps.read w))
  | 0x71 => row w 0x00000 0x00000 (.vredF16 (R3xOps.read w))
  | 0x72 => row w 0x00000 0x00000 (.vredBf16 (R3xOps.read w))
  | 0x74 => row w 0x00003 0x00000 (.viredI8 (R3Ops.read w))
  | 0x75 => row w 0x00003 0x00000 (.viredI16 (R3Ops.read w))
  | 0x76 => row w 0x00003 0x00000 (.viredI32 (R3Ops.read w))
  | 0x77 => row w 0x00003 0x00000 (.viredI64 (R3Ops.read w))
  | 0x78 => row w 0x00003 0x00000 (.vclmul (R3Ops.read w))
  | _ => .bad .illegalOpcode

/-- The VM slot (rules R228). -/
def decodeVm (w : Word32) : Decoded :=
  match (opcodeOf w).toNat with
  | 0x00 => row w 0x00000 0x00000 (.vmulF32 (R3xOps.read w))
  | 0x01 => row w 0x00000 0x00000 (.vmulF16 (R3xOps.read w))
  | 0x02 => row w 0x00000 0x00000 (.vmulBf16 (R3xOps.read w))
  | 0x04 => row w 0x00000 0x00000 (.vfmaF32 (R3xOps.read w))
  | 0x05 => row w 0x00000 0x00000 (.vfmaF16 (R3xOps.read w))
  | 0x06 => row w 0x00000 0x00000 (.vfmaBf16 (R3xOps.read w))
  | 0x08 => row w 0x00000 0x00000 (.vfmsF32 (R3xOps.read w))
  | 0x09 => row w 0x00000 0x00000 (.vfmsF16 (R3xOps.read w))
  | 0x0A => row w 0x00000 0x00000 (.vfmsBf16 (R3xOps.read w))
  | 0x10 => row w 0x0001F 0x00000 (.vcvtF16F32 (CvOps.read w))
  | 0x11 => row w 0x0001F 0x00000 (.vcvtBf16F32 (CvOps.read w))
  | 0x12 => row w 0x0001F 0x00000 (.vcvtF32F16 (CvOps.read w))
  | 0x13 => row w 0x0001F 0x00000 (.vcvtF32Bf16 (CvOps.read w))
  | 0x14 => row w 0x00001 0x00000 (.vcvtNfF32 (CvfOps.read w))
  | 0x15 => row w 0x00001 0x00000 (.vcvtF32Nf (CvfOps.read w))
  | 0x16 => row w 0x0001F 0x00000 (.vcvtI32F32 (CvOps.read w))
  | 0x17 => row w 0x0001F 0x00000 (.vcvtF32I32 (CvOps.read w))
  | 0x18 => row w 0x0001F 0x00000 (.vcvtN32F32 (CvOps.read w))
  | 0x19 => row w 0x0001F 0x00000 (.vcvtF32N32 (CvOps.read w))
  | 0x20 => row w 0x00003 0x00000 (.vcvtsF16F32 (R3Ops.read w))
  | 0x21 => row w 0x00003 0x00000 (.vcvtsBf16F32 (R3Ops.read w))
  | 0x22 => row w 0x00000 0x00000 (.vcvtsNfF32 (CsOps.read w))
  | 0x30 => row w 0x000FF 0x00000 (.vrcpF32 (DaOps.read w))
  | 0x31 => row w 0x000FF 0x00000 (.vrcpF16 (DaOps.read w))
  | 0x32 => row w 0x000FF 0x00000 (.vrcpBf16 (DaOps.read w))
  | 0x34 => row w 0x000FF 0x00000 (.vrsqF32 (DaOps.read w))
  | 0x35 => row w 0x000FF 0x00000 (.vrsqF16 (DaOps.read w))
  | 0x36 => row w 0x000FF 0x00000 (.vrsqBf16 (DaOps.read w))
  | 0x38 => row w 0x000FF 0x00000 (.vexp2F32 (DaOps.read w))
  | 0x39 => row w 0x000FF 0x00000 (.vexp2F16 (DaOps.read w))
  | 0x3A => row w 0x000FF 0x00000 (.vexp2Bf16 (DaOps.read w))
  | 0x3C => row w 0x000FF 0x00000 (.vlog2F32 (DaOps.read w))
  | 0x3D => row w 0x000FF 0x00000 (.vlog2F16 (DaOps.read w))
  | 0x3E => row w 0x000FF 0x00000 (.vlog2Bf16 (DaOps.read w))
  | 0x40 => row w 0x00003 0x00000 (.vrand (R3Ops.read w))
  | _ => .bad .illegalOpcode

/-- The MX slot (rules R229). -/
def decodeMx (w : Word32) : Decoded :=
  match (opcodeOf w).toNat with
  | 0x00 => if w.getLsbD 2 then row w 0x0007F 0x00004 (.mmStartLt (MslOps.read w)) else row w 0x00007 0x00000 (.mmStart (MsOps.read w))
  | 0x01 => row w 0x003FF 0x00000 (.mmLdb (MbOps.read w))
  | 0x02 => row w 0x00FFF 0x00000 (.mmScl (MqOps.read w))
  | 0x03 => row w 0x00007 0x00000 (.mmDrain (MdOps.read w))
  | 0x04 => row w 0x00FFF 0x00000 (.mmZero (MaskOps.read w))
  | 0x05 => row w 0x03FFF 0x00000 (.mmCfg (R1aOps.read w))
  | _ => .bad .illegalOpcode

/-- The XC slot (rules R230). -/
def decodeXc (w : Word32) : Decoded :=
  match (opcodeOf w).toNat with
  | 0x00 => row w 0x00000 0x00000 (.xsend (XaOps.read w))
  | 0x01 => row w 0x00000 0x00000 (.xrecv (XaOps.read w))
  | 0x02 => row w 0x00000 0x00000 (.xraddF32 (XaOps.read w))
  | 0x03 => row w 0x00000 0x00000 (.xraddF16 (XaOps.read w))
  | 0x04 => row w 0x00000 0x00000 (.xraddBf16 (XaOps.read w))
  | 0x05 => row w 0x00000 0x00000 (.xraddI32 (XaOps.read w))
  | 0x10 => row w 0x03FFF 0x00000 (.phaseEnd (R1aOps.read w))
  | 0x11 => row w 0x03FFF 0x00000 (.gclkRd (R1dOps.read w))
  | 0x12 => row w 0x03FFF 0x00000 (.gclkWait (R1aOps.read w))
  | 0x13 => row w 0xFFFFF 0x00000 (.gclkAln (ZOps.read w))
  | 0x20 => row w 0xFFFFF 0x00000 (.cardAdv (ZOps.read w))
  | 0x21 => row w 0x000FF 0x00000 (.cardIssue (R2Ops.read w))
  | 0x22 => if w.getLsbD 13 then row w 0x03FFF 0x02000 (.recflPart (R1aOps.read w)) else row w 0x03FFF 0x00000 (.recfl (R1aOps.read w))
  | 0x30 => row w 0x00FFF 0x00000 (.tokClr (MaskOps.read w))
  | 0x31 => row w 0x00000 0x00000 (.semWait (SwOps.read w))
  | 0x40 => row w 0x0000F 0x00000 (.lnkSend (LkOps.read w))
  | 0x41 => row w 0x0000F 0x00000 (.lnkRecv (LkOps.read w))
  | 0x42 => row w 0x0000F 0x00000 (.lnkRaddF32 (LkOps.read w))
  | 0x43 => row w 0x0000F 0x00000 (.lnkRaddBf16 (LkOps.read w))
  | 0x44 => row w 0x0000F 0x00000 (.lnkRaddF16 (LkOps.read w))
  | 0x45 => row w 0x0000F 0x00000 (.lnkRaddI32 (LkOps.read w))
  | 0x50 => row w 0xFFFFF 0x00000 (.trig (ZOps.read w))
  | 0x51 => row w 0xFFFFF 0x00000 (.fenceErr (ZOps.read w))
  | _ => .bad .illegalOpcode

/-- The LP slot (rules R231). -/
def decodeLp (w : Word32) : Decoded :=
  match (opcodeOf w).toNat with
  | 0x00 => if w.getLsbD 2 then row w 0x00007 0x00004 (.loopSetRot (LsOps.read w)) else row w 0x00007 0x00000 (.loopSet (LsOps.read w))
  | 0x01 => row w 0x00007 0x00000 (.loopPair (LqOps.read w))
  | 0x02 => row w 0x00FFF 0x00000 (.loopEc (MaskOps.read w))
  | 0x03 => row w 0xFFFFF 0x00000 (.rotClr (ZOps.read w))
  | 0x08 => row w 0x000FF 0x00000 (.predRegion (PrOps.read w))
  | 0x10 => row w 0x000FF 0x00000 (.predAnd (P3Ops.read w))
  | 0x11 => row w 0x000FF 0x00000 (.predOr (P3Ops.read w))
  | 0x12 => row w 0x000FF 0x00000 (.predXor (P3Ops.read w))
  | 0x13 => row w 0x000FF 0x00000 (.predAndn (P3Ops.read w))
  | 0x14 => row w 0x07FFF 0x00000 (.predSet (PsOps.read w))
  | _ => .bad .illegalOpcode

/-- Decoding of the word that stands in a slot, total on every word. -/
def decodeSlot (sl : Slot) (w : Word32) : Decoded :=
  match sl with
  | .sa => decodeSa w
  | .sb => decodeSb w
  | .lm => decodeLm w
  | .va => decodeVa w
  | .vm => decodeVm w
  | .mx => decodeMx w
  | .xc => decodeXc w
  | .lp => decodeLp w

/-! ### The encoder -/

/-- The slot and the word of a slot instruction; an event has none. -/
def encode : Instr → Option (Slot × Word32)
  | .add sb o => some ((if sb then Slot.sb else Slot.sa), o.word 0x00 0x00000)
  | .sub sb o => some ((if sb then Slot.sb else Slot.sa), o.word 0x01 0x00000)
  | .and sb o => some ((if sb then Slot.sb else Slot.sa), o.word 0x02 0x00000)
  | .or sb o => some ((if sb then Slot.sb else Slot.sa), o.word 0x03 0x00000)
  | .xor sb o => some ((if sb then Slot.sb else Slot.sa), o.word 0x04 0x00000)
  | .andn sb o => some ((if sb then Slot.sb else Slot.sa), o.word 0x05 0x00000)
  | .shl sb o => some ((if sb then Slot.sb else Slot.sa), o.word 0x06 0x00000)
  | .shr sb o => some ((if sb then Slot.sb else Slot.sa), o.word 0x07 0x00000)
  | .sra sb o => some ((if sb then Slot.sb else Slot.sa), o.word 0x08 0x00000)
  | .min sb o => some ((if sb then Slot.sb else Slot.sa), o.word 0x09 0x00000)
  | .max sb o => some ((if sb then Slot.sb else Slot.sa), o.word 0x0A 0x00000)
  | .minn sb o => some ((if sb then Slot.sb else Slot.sa), o.word 0x0B 0x00000)
  | .maxn sb o => some ((if sb then Slot.sb else Slot.sa), o.word 0x0C 0x00000)
  | .mul o => some (Slot.sa, o.word 0x30 0x00000)
  | .mulh o => some (Slot.sa, o.word 0x31 0x00000)
  | .mulhn o => some (Slot.sa, o.word 0x32 0x00000)
  | .addsh o => some (Slot.sa, o.word 0x38 0x00000)
  | .addi sb o => some ((if sb then Slot.sb else Slot.sa), o.word 0x10 0x00000)
  | .andi sb o => some ((if sb then Slot.sb else Slot.sa), o.word 0x11 0x00000)
  | .ori sb o => some ((if sb then Slot.sb else Slot.sa), o.word 0x12 0x00000)
  | .shli sb o => some ((if sb then Slot.sb else Slot.sa), o.word 0x13 0x00000)
  | .shri sb o => some ((if sb then Slot.sb else Slot.sa), o.word 0x14 0x00000)
  | .srai sb o => some ((if sb then Slot.sb else Slot.sa), o.word 0x15 0x00000)
  | .movi sb o => some ((if sb then Slot.sb else Slot.sa), o.word 0x18 0x00000)
  | .movis sb o => some ((if sb then Slot.sb else Slot.sa), o.word 0x19 0x00000)
  | .cmp sb o => some ((if sb then Slot.sb else Slot.sa), o.word 0x20 0x00000)
  | .cmpi sb o => some ((if sb then Slot.sb else Slot.sa), o.word 0x21 0x00000)
  | .br o => some (Slot.sb, o.word 0x80 0x00000)
  | .brL o => some (Slot.sb, o.word 0x81 0x00000)
  | .brInd o => some (Slot.sb, o.word 0x82 0x00000)
  | .halt o => some (Slot.sb, o.word 0x88 0x00000)
  | .trap o => some (Slot.sb, o.word 0x89 0x00000)
  | .tret o => some (Slot.sb, o.word 0x8A 0x00000)
  | .sysRd o => some (Slot.sb, o.word 0x90 0x00000)
  | .sysWr o => some (Slot.sb, o.word 0x91 0x00000)
  | .fmtWr o => some (Slot.sb, o.word 0x92 0x00000)
  | .sysBist o => some (Slot.sb, o.word 0x98 0x00000)
  | .margV o => some (Slot.sb, o.word 0x99 0x00000)
  | .margL o => some (Slot.sb, o.word 0x9A 0x00000)
  | .ldI8 o => some (Slot.lm, o.word 0x00 0x00000)
  | .ldN8 o => some (Slot.lm, o.word 0x01 0x00000)
  | .ldI16 o => some (Slot.lm, o.word 0x02 0x00000)
  | .ldN16 o => some (Slot.lm, o.word 0x03 0x00000)
  | .ldI32 o => some (Slot.lm, o.word 0x04 0x00000)
  | .ldN32 o => some (Slot.lm, o.word 0x05 0x00000)
  | .ldI64 o => some (Slot.lm, o.word 0x06 0x00000)
  | .stB o => some (Slot.lm, o.word 0x08 0x00000)
  | .stH o => some (Slot.lm, o.word 0x09 0x00000)
  | .stW o => some (Slot.lm, o.word 0x0A 0x00000)
  | .stD o => some (Slot.lm, o.word 0x0B 0x00000)
  | .vld o => some (Slot.lm, o.word 0x10 0x00000)
  | .vst o => some (Slot.lm, o.word 0x11 0x00000)
  | .vldx o => some (Slot.lm, o.word 0x12 0x00000)
  | .vstx o => some (Slot.lm, o.word 0x13 0x00000)
  | .vbcastW o => some (Slot.lm, o.word 0x14 0x00000)
  | .vgatherW o => some (Slot.lm, o.word 0x18 0x00000)
  | .vgatherH o => some (Slot.lm, o.word 0x19 0x00000)
  | .vscatterW o => some (Slot.lm, o.word 0x1A 0x00000)
  | .vscatterH o => some (Slot.lm, o.word 0x1B 0x00000)
  | .vaddF32 o => some (Slot.va, o.word 0x00 0x00000)
  | .vaddF16 o => some (Slot.va, o.word 0x01 0x00000)
  | .vaddBf16 o => some (Slot.va, o.word 0x02 0x00000)
  | .vsubF32 o => some (Slot.va, o.word 0x04 0x00000)
  | .vsubF16 o => some (Slot.va, o.word 0x05 0x00000)
  | .vsubBf16 o => some (Slot.va, o.word 0x06 0x00000)
  | .vminF32 o => some (Slot.va, o.word 0x08 0x00000)
  | .vminF16 o => some (Slot.va, o.word 0x09 0x00000)
  | .vminBf16 o => some (Slot.va, o.word 0x0A 0x00000)
  | .vmaxF32 o => some (Slot.va, o.word 0x0C 0x00000)
  | .vmaxF16 o => some (Slot.va, o.word 0x0D 0x00000)
  | .vmaxBf16 o => some (Slot.va, o.word 0x0E 0x00000)
  | .vminnF32 o => some (Slot.va, o.word 0x10 0x00000)
  | .vminnF16 o => some (Slot.va, o.word 0x11 0x00000)
  | .vminnBf16 o => some (Slot.va, o.word 0x12 0x00000)
  | .vmaxnF32 o => some (Slot.va, o.word 0x14 0x00000)
  | .vmaxnF16 o => some (Slot.va, o.word 0x15 0x00000)
  | .vmaxnBf16 o => some (Slot.va, o.word 0x16 0x00000)
  | .vcmpF32 o => some (Slot.va, o.word 0x18 0x00000)
  | .vcmpF16 o => some (Slot.va, o.word 0x19 0x00000)
  | .vcmpBf16 o => some (Slot.va, o.word 0x1A 0x00000)
  | .viaddI8 o => some (Slot.va, o.word 0x20 0x00000)
  | .viaddI16 o => some (Slot.va, o.word 0x21 0x00000)
  | .viaddI32 o => some (Slot.va, o.word 0x22 0x00000)
  | .viaddI64 o => some (Slot.va, o.word 0x23 0x00000)
  | .visubI8 o => some (Slot.va, o.word 0x24 0x00000)
  | .visubI16 o => some (Slot.va, o.word 0x25 0x00000)
  | .visubI32 o => some (Slot.va, o.word 0x26 0x00000)
  | .visubI64 o => some (Slot.va, o.word 0x27 0x00000)
  | .viaddsI8 o => some (Slot.va, o.word 0x28 0x00000)
  | .viaddsI16 o => some (Slot.va, o.word 0x29 0x00000)
  | .viaddsI32 o => some (Slot.va, o.word 0x2A 0x00000)
  | .viaddsI64 o => some (Slot.va, o.word 0x2B 0x00000)
  | .viaddsN8 o => some (Slot.va, o.word 0x2C 0x00000)
  | .viaddsN16 o => some (Slot.va, o.word 0x2D 0x00000)
  | .viaddsN32 o => some (Slot.va, o.word 0x2E 0x00000)
  | .viaddsN64 o => some (Slot.va, o.word 0x2F 0x00000)
  | .visubsI8 o => some (Slot.va, o.word 0x30 0x00000)
  | .visubsI16 o => some (Slot.va, o.word 0x31 0x00000)
  | .visubsI32 o => some (Slot.va, o.word 0x32 0x00000)
  | .visubsI64 o => some (Slot.va, o.word 0x33 0x00000)
  | .visubsN8 o => some (Slot.va, o.word 0x34 0x00000)
  | .visubsN16 o => some (Slot.va, o.word 0x35 0x00000)
  | .visubsN32 o => some (Slot.va, o.word 0x36 0x00000)
  | .visubsN64 o => some (Slot.va, o.word 0x37 0x00000)
  | .viminI8 o => some (Slot.va, o.word 0x38 0x00000)
  | .viminI16 o => some (Slot.va, o.word 0x39 0x00000)
  | .viminI32 o => some (Slot.va, o.word 0x3A 0x00000)
  | .viminI64 o => some (Slot.va, o.word 0x3B 0x00000)
  | .viminN8 o => some (Slot.va, o.word 0x3C 0x00000)
  | .viminN16 o => some (Slot.va, o.word 0x3D 0x00000)
  | .viminN32 o => some (Slot.va, o.word 0x3E 0x00000)
  | .viminN64 o => some (Slot.va, o.word 0x3F 0x00000)
  | .vimaxI8 o => some (Slot.va, o.word 0x40 0x00000)
  | .vimaxI16 o => some (Slot.va, o.word 0x41 0x00000)
  | .vimaxI32 o => some (Slot.va, o.word 0x42 0x00000)
  | .vimaxI64 o => some (Slot.va, o.word 0x43 0x00000)
  | .vimaxN8 o => some (Slot.va, o.word 0x44 0x00000)
  | .vimaxN16 o => some (Slot.va, o.word 0x45 0x00000)
  | .vimaxN32 o => some (Slot.va, o.word 0x46 0x00000)
  | .vimaxN64 o => some (Slot.va, o.word 0x47 0x00000)
  | .vicmpI8 o => some (Slot.va, o.word 0x48 0x00000)
  | .vicmpI16 o => some (Slot.va, o.word 0x49 0x00000)
  | .vicmpI32 o => some (Slot.va, o.word 0x4A 0x00000)
  | .vicmpI64 o => some (Slot.va, o.word 0x4B 0x00000)
  | .vicmpN8 o => some (Slot.va, o.word 0x4C 0x00000)
  | .vicmpN16 o => some (Slot.va, o.word 0x4D 0x00000)
  | .vicmpN32 o => some (Slot.va, o.word 0x4E 0x00000)
  | .vicmpN64 o => some (Slot.va, o.word 0x4F 0x00000)
  | .vand o => some (Slot.va, o.word 0x50 0x00000)
  | .vor o => some (Slot.va, o.word 0x51 0x00000)
  | .vxor o => some (Slot.va, o.word 0x52 0x00000)
  | .vshl8 o => some (Slot.va, o.word 0x54 0x00000)
  | .vshl16 o => some (Slot.va, o.word 0x55 0x00000)
  | .vshl32 o => some (Slot.va, o.word 0x56 0x00000)
  | .vshl64 o => some (Slot.va, o.word 0x57 0x00000)
  | .vshr8 o => some (Slot.va, o.word 0x58 0x00000)
  | .vshr16 o => some (Slot.va, o.word 0x59 0x00000)
  | .vshr32 o => some (Slot.va, o.word 0x5A 0x00000)
  | .vshr64 o => some (Slot.va, o.word 0x5B 0x00000)
  | .vsra8 o => some (Slot.va, o.word 0x5C 0x00000)
  | .vsra16 o => some (Slot.va, o.word 0x5D 0x00000)
  | .vsra32 o => some (Slot.va, o.word 0x5E 0x00000)
  | .vsra64 o => some (Slot.va, o.word 0x5F 0x00000)
  | .vsel o => some (Slot.va, o.word 0x60 0x00000)
  | .vshufB o => some (Slot.va, o.word 0x61 0x00000)
  | .vshufH o => some (Slot.va, o.word 0x62 0x00000)
  | .vshufW o => some (Slot.va, o.word 0x63 0x00000)
  | .vsplatH o => some (Slot.va, o.word 0x64 0x00000)
  | .vsplatW o => some (Slot.va, o.word 0x65 0x00000)
  | .vsplatD o => some (Slot.va, o.word 0x66 0x00000)
  | .vextD o => some (Slot.va, o.word 0x68 0x00000)
  | .vredF32 o => some (Slot.va, o.word 0x70 0x00000)
  | .vredF16 o => some (Slot.va, o.word 0x71 0x00000)
  | .vredBf16 o => some (Slot.va, o.word 0x72 0x00000)
  | .viredI8 o => some (Slot.va, o.word 0x74 0x00000)
  | .viredI16 o => some (Slot.va, o.word 0x75 0x00000)
  | .viredI32 o => some (Slot.va, o.word 0x76 0x00000)
  | .viredI64 o => some (Slot.va, o.word 0x77 0x00000)
  | .vclmul o => some (Slot.va, o.word 0x78 0x00000)
  | .vmulF32 o => some (Slot.vm, o.word 0x00 0x00000)
  | .vmulF16 o => some (Slot.vm, o.word 0x01 0x00000)
  | .vmulBf16 o => some (Slot.vm, o.word 0x02 0x00000)
  | .vfmaF32 o => some (Slot.vm, o.word 0x04 0x00000)
  | .vfmaF16 o => some (Slot.vm, o.word 0x05 0x00000)
  | .vfmaBf16 o => some (Slot.vm, o.word 0x06 0x00000)
  | .vfmsF32 o => some (Slot.vm, o.word 0x08 0x00000)
  | .vfmsF16 o => some (Slot.vm, o.word 0x09 0x00000)
  | .vfmsBf16 o => some (Slot.vm, o.word 0x0A 0x00000)
  | .vcvtF16F32 o => some (Slot.vm, o.word 0x10 0x00000)
  | .vcvtBf16F32 o => some (Slot.vm, o.word 0x11 0x00000)
  | .vcvtF32F16 o => some (Slot.vm, o.word 0x12 0x00000)
  | .vcvtF32Bf16 o => some (Slot.vm, o.word 0x13 0x00000)
  | .vcvtNfF32 o => some (Slot.vm, o.word 0x14 0x00000)
  | .vcvtF32Nf o => some (Slot.vm, o.word 0x15 0x00000)
  | .vcvtI32F32 o => some (Slot.vm, o.word 0x16 0x00000)
  | .vcvtF32I32 o => some (Slot.vm, o.word 0x17 0x00000)
  | .vcvtN32F32 o => some (Slot.vm, o.word 0x18 0x00000)
  | .vcvtF32N32 o => some (Slot.vm, o.word 0x19 0x00000)
  | .vcvtsF16F32 o => some (Slot.vm, o.word 0x20 0x00000)
  | .vcvtsBf16F32 o => some (Slot.vm, o.word 0x21 0x00000)
  | .vcvtsNfF32 o => some (Slot.vm, o.word 0x22 0x00000)
  | .vrcpF32 o => some (Slot.vm, o.word 0x30 0x00000)
  | .vrcpF16 o => some (Slot.vm, o.word 0x31 0x00000)
  | .vrcpBf16 o => some (Slot.vm, o.word 0x32 0x00000)
  | .vrsqF32 o => some (Slot.vm, o.word 0x34 0x00000)
  | .vrsqF16 o => some (Slot.vm, o.word 0x35 0x00000)
  | .vrsqBf16 o => some (Slot.vm, o.word 0x36 0x00000)
  | .vexp2F32 o => some (Slot.vm, o.word 0x38 0x00000)
  | .vexp2F16 o => some (Slot.vm, o.word 0x39 0x00000)
  | .vexp2Bf16 o => some (Slot.vm, o.word 0x3A 0x00000)
  | .vlog2F32 o => some (Slot.vm, o.word 0x3C 0x00000)
  | .vlog2F16 o => some (Slot.vm, o.word 0x3D 0x00000)
  | .vlog2Bf16 o => some (Slot.vm, o.word 0x3E 0x00000)
  | .vrand o => some (Slot.vm, o.word 0x40 0x00000)
  | .mmStart o => some (Slot.mx, o.word 0x00 0x00000)
  | .mmStartLt o => some (Slot.mx, o.word 0x00 0x00004)
  | .mmLdb o => some (Slot.mx, o.word 0x01 0x00000)
  | .mmScl o => some (Slot.mx, o.word 0x02 0x00000)
  | .mmDrain o => some (Slot.mx, o.word 0x03 0x00000)
  | .mmZero o => some (Slot.mx, o.word 0x04 0x00000)
  | .mmCfg o => some (Slot.mx, o.word 0x05 0x00000)
  | .xsend o => some (Slot.xc, o.word 0x00 0x00000)
  | .xrecv o => some (Slot.xc, o.word 0x01 0x00000)
  | .xraddF32 o => some (Slot.xc, o.word 0x02 0x00000)
  | .xraddF16 o => some (Slot.xc, o.word 0x03 0x00000)
  | .xraddBf16 o => some (Slot.xc, o.word 0x04 0x00000)
  | .xraddI32 o => some (Slot.xc, o.word 0x05 0x00000)
  | .phaseEnd o => some (Slot.xc, o.word 0x10 0x00000)
  | .gclkRd o => some (Slot.xc, o.word 0x11 0x00000)
  | .gclkWait o => some (Slot.xc, o.word 0x12 0x00000)
  | .gclkAln o => some (Slot.xc, o.word 0x13 0x00000)
  | .cardAdv o => some (Slot.xc, o.word 0x20 0x00000)
  | .cardIssue o => some (Slot.xc, o.word 0x21 0x00000)
  | .recfl o => some (Slot.xc, o.word 0x22 0x00000)
  | .recflPart o => some (Slot.xc, o.word 0x22 0x02000)
  | .tokClr o => some (Slot.xc, o.word 0x30 0x00000)
  | .semWait o => some (Slot.xc, o.word 0x31 0x00000)
  | .lnkSend o => some (Slot.xc, o.word 0x40 0x00000)
  | .lnkRecv o => some (Slot.xc, o.word 0x41 0x00000)
  | .lnkRaddF32 o => some (Slot.xc, o.word 0x42 0x00000)
  | .lnkRaddBf16 o => some (Slot.xc, o.word 0x43 0x00000)
  | .lnkRaddF16 o => some (Slot.xc, o.word 0x44 0x00000)
  | .lnkRaddI32 o => some (Slot.xc, o.word 0x45 0x00000)
  | .trig o => some (Slot.xc, o.word 0x50 0x00000)
  | .fenceErr o => some (Slot.xc, o.word 0x51 0x00000)
  | .loopSet o => some (Slot.lp, o.word 0x00 0x00000)
  | .loopSetRot o => some (Slot.lp, o.word 0x00 0x00004)
  | .loopPair o => some (Slot.lp, o.word 0x01 0x00000)
  | .loopEc o => some (Slot.lp, o.word 0x02 0x00000)
  | .rotClr o => some (Slot.lp, o.word 0x03 0x00000)
  | .predRegion o => some (Slot.lp, o.word 0x08 0x00000)
  | .predAnd o => some (Slot.lp, o.word 0x10 0x00000)
  | .predOr o => some (Slot.lp, o.word 0x11 0x00000)
  | .predXor o => some (Slot.lp, o.word 0x12 0x00000)
  | .predAndn o => some (Slot.lp, o.word 0x13 0x00000)
  | .predSet o => some (Slot.lp, o.word 0x14 0x00000)
  | .bundleIssue => none
  | .pureDelay => none
  | .fetchLine => none
  | .imemLineReload => none
  | .resultLanding => none
  | .unitClaim => none
  | .trapResume => none
  | .scrubRead => none
  | .scrubWriteback => none
  | .releaseHoldEnd => none
  | .deckPrefetch => none
  | .cardGranule => none
  | .cardEnd => none
  | .tokenWaitEnd => none
  | .semWaitEnd => none
  | .gclkWaitEnd => none
  | .recflHoldEnd => none
  | .fenceErrHoldEnd => none
  | .bistEnd => none
  | .margVSettled => none
  | .margLSweepEnd => none
  | .linkPair => none
  | .linkEnd => none
  | .routerSwitch => none
  | .exchangePhaseEnd => none
  | .barrierComplete => none
  | .loomRepair => none
  | .loomSampleRound => none
  | .stragglerEvent => none
  | .launchStart => none
  | .regionStart => none
  | .contextLoss => none
  | .tinvRange => none
  | .tinvContext => none
  | .tinvAll => none
  | .tinvComplete => none
  | .tagFreed => none
  | .hbmChannelRetire => none
  | .hbmRetireComplete => none
  | .cxlLinkTrain => none
  | .cxlPortDown => none
  | .checkpointSave => none
  | .checkpointRestore => none
  | .checkpointSaveEnd => none
  | .checkpointRestoreEnd => none
  | .ullerLinkDown => none
  | .weftPortDown => none
  | .weftLinkTrain => none
  | .wrouteWrite => none
  | .shuttlePeriodStart => none
  | .shmapWrite => none
  | .shuttleFlitHop => none
  | .heddleTableWrite => none
  | .migrationEpoch => none
  | .homeMove => none
  | .homeMoveEnd => none
  | .migrateHomeAll => none
  | .triggerDelivered => none
  | .waitClosedStart => none
  | .launchEnd => none
  | .imageLoad => none
  | .imageLoadEnd => none
  | .imageUnload => none
  | .imageForcedUnload => none
  | .pdefWrite => none
  | .queueCreate => none
  | .queueDisable => none
  | .queueThaw => none
  | .qtailWrite => none
  | .queueHeadRead => none
  | .completionRecordWrite => none
  | .sequencerSelect => none
  | .bind => none
  | .quantumExpiry => none
  | .preemptRequest => none
  | .killRequest => none
  | .preemptWithdraw => none
  | .contextSave => none
  | .contextSaveEnd => none
  | .restoreEnd => none
  | .ctxareaWrite => none
  | .tstopResume => none
  | .powerGood => none
  | .b2LinkTest => none
  | .b3Election => none
  | .electionRound => none
  | .b4Enumeration => none
  | .b5Start => none
  | .lprobe => none
  | .lecho => none
  | .elect => none
  | .enum => none
  | .accept => none
  | .refuse => none
  | .report => none
  | .lstart => none
  | .done => none
  | .enumTimeout => none
  | .enumerationDeadline => none
  | .ullerClaimGrant => none
  | .placementRun => none
  | .placementEnd => none
  | .instkeyWrite => none
  | .activityStep => none
  | .issueGatePair => none
  | .droopAlarm => none
  | .droopBelowFloor => none
  | .thermalHot => none
  | .thermalCrit => none
  | .overtempPowerOff => none
  | .powerLimitGate => none
  | .rpctlWrite => none
  | .rthermWrite => none
  | .mstagWrite => none
  | .debugStopRequest => none
  | .debugStopWithdraw => none
  | .debugStopFreeze => none
  | .traceSample => none
  | .traceRecordWrite => none
  | .trringWrite => none
  | .rcRead => none
  | .registerWrite => none
  | .powerLoss => none
  | .ullerLinkTrain => none
  | .homeAccess => none
  | .managementWindowWrite => none

/-- The slot of a slot instruction. -/
def Instr.slot (i : Instr) : Option Slot := (encode i).map (·.1)
/-- The slot word of a slot instruction; 0 for an event. -/
def Instr.word (i : Instr) : Word32 := match encode i with | some (_, w) => w | none => 0
/-- The opcode of a slot instruction. -/
def Instr.op (i : Instr) : Nat := (opcodeOf i.word).toNat

/-! ### Head words and bundles -/

/-- The fields of a head word (rule R209). -/
structure Head where
  idle : BitVec 7
  safe : Bool
  wm : BitVec 8
  sp : BitVec 8
  deriving DecidableEq, Repr

namespace Head
/-- A head word with HV and bits [31:28] 0. -/
def word (h : Head) : Word32 := 0#8 ++ h.idle ++ BitVec.ofBool h.safe ++ h.wm ++ h.sp
/-- The fields of a word taken as a head word. -/
def read (w : Word32) : Head :=
  { idle := w.extractLsb' 17 7, safe := w.getLsbD 16, wm := w.extractLsb' 8 8, sp := w.extractLsb' 0 8 }
/-- The slots that SP names, in SP order. -/
def slots (h : Head) : List Slot := Slot.all.filter (fun s => h.sp.getLsbD s.num)
/-- The words that the bundle takes, its head word included. -/
def words (h : Head) : Nat := 1 + h.slots.length
end Head

/-- What a head word is (rule R210). -/
inductive HeadForm where
  | lineEnd
  | bundle (h : Head)
  | delay (h : Head)
  | malformed
  deriving DecidableEq, Repr

/-- The reading of a word at word index `w` of its line as a head word (rule R210). -/
def decodeHead (x : Word32) (w : Nat) : HeadForm :=
  if x = 0 then .lineEnd
  else if x.extractLsb' 24 8 ≠ 0 then .malformed
  else
    let h := Head.read x
    if h.sp = 0 then (if h.idle = 0 then .malformed else .delay h)
    else if w + h.words ≤ 16 then .bundle h
    else .malformed

/-- One slot of a bundle: its word and what the word decodes to. -/
structure SlotWord where
  slot : Slot
  word : Word32
  dec : Decoded
  deriving DecidableEq, Repr

/-- The slots of a bundle, from the words that follow its head word, in SP order. -/
def decodeSlots : List Slot → List Word32 → List SlotWord
  | s :: ss, w :: ws => { slot := s, word := w, dec := decodeSlot s w } :: decodeSlots ss ws
  | _, _ => []

/-- The decoder of an opcode-table word. A slot word says its opcode and fields but not its slot, which the head
word's SP gives; of the slots in which the word decodes, the first in SP order is answered (log entry 7). A word of more
or fewer than 32 bits is no slot word. -/
def decodeTableSlot (nbits w : Nat) : Option (Slot × Instr) :=
  if nbits = 32 then
    Slot.all.findSome? (fun s =>
      match decodeSlot s (BitVec.ofNat 32 w) with
      | .ok i => some (s, i)
      | .bad _ => none)
  else none

def decodeTableWord (nbits w : Nat) : Option Instr := (decodeTableSlot nbits w).map (·.2)

end Sys2Proof
end

