-- ==== Sys2Proof/Machine/Float.lean ====
section
/-! DEFINITION. Number formats, exact values and the one rounding helper (rules R182 to R197, R200, R201). -/

namespace Sys2Proof.Machine

/-- The special class of a format (rule R188, field CLS). -/
inductive Cls where
  | allFinite | ieee | singleNan | integer
  deriving DecidableEq, Repr

/-- A legal format: the fields `round_to` reads (rules R188, R194). The width of a code is `s + eb + mb`. -/
structure Fmt where
  cls : Cls
  signed : Bool
  eb : Nat
  mb : Nat
  bias : Int
  sat : Bool
  deriving DecidableEq, Repr

namespace Fmt
/-- The width W of a code (rule R190). -/
def width (f : Fmt) : Nat := f.signed.toNat + f.eb + f.mb
/-- The standard formats (rule R182), with SAT 0. -/
def f32 : Fmt := { cls := .ieee, signed := true, eb := 8, mb := 23, bias := 127, sat := false }
def f16 : Fmt := { cls := .ieee, signed := true, eb := 5, mb := 10, bias := 15, sat := false }
def bf16 : Fmt := { cls := .ieee, signed := true, eb := 8, mb := 7, bias := 127, sat := false }
/-- I8 to I64 as integer classes with BIAS 0 (rule R194). -/
def int (w : Nat) : Fmt := { cls := .integer, signed := true, eb := 0, mb := w - 1, bias := 0, sat := false }
/-- N8 to N64 as integer classes with BIAS 0 (rule R194). -/
def nat (w : Nat) : Fmt := { cls := .integer, signed := false, eb := 0, mb := w, bias := 0, sat := false }
end Fmt

/-- An exact real operand or result (rule R194): NaN, an infinity, or a sign with the magnitude `num / den`.
A zero keeps its sign (rule R184). -/
inductive Exact where
  | nan
  | inf (neg : Bool)
  | fin (neg : Bool) (num den : Nat)
  deriving DecidableEq, Repr

namespace Exact

def isNan : Exact → Bool
  | .nan => true
  | _ => false

def isInf : Exact → Bool
  | .inf _ => true
  | _ => false

def isZero : Exact → Bool
  | .fin _ n _ => n == 0
  | _ => false

/-- The sign bit; a NaN has none. -/
def neg : Exact → Bool
  | .nan => false
  | .inf n => n
  | .fin n _ _ => n

/-- The operand with its sign changed. -/
def negate : Exact → Exact
  | .nan => .nan
  | .inf n => .inf (!n)
  | .fin n a b => .fin (!n) a b

/-- `m * 2^k`, exactly. -/
def dyadic (neg : Bool) (m : Nat) (k : Int) : Exact :=
  if 0 ≤ k then .fin neg (m * 2 ^ k.toNat) 1 else .fin neg m (2 ^ (-k).toNat)

/-- An integer. -/
def ofInt (i : Int) : Exact := .fin (i < 0) i.natAbs 1

def one : Exact := .fin false 1 1
def zero : Exact := .fin false 0 1

/-- The exact product (rules R185, R197): 0 times an infinity is NaN, and the signs combine by XOR. -/
def mul : Exact → Exact → Exact
  | .nan, _ => .nan
  | _, .nan => .nan
  | .inf s, .inf t => .inf (s != t)
  | .inf s, .fin t n _ => if n = 0 then .nan else .inf (s != t)
  | .fin s n _, .inf t => if n = 0 then .nan else .inf (s != t)
  | .fin s n d, .fin t m e => .fin (s != t) (n * m) (d * e)

/-- The signed numerator over the denominator of a finite value; (0, 1) for the others. -/
def frac : Exact → Int × Nat
  | .fin s n d => (if s then -(n : Int) else n, d)
  | _ => (0, 1)

/-- The exact sum of the finite addends, as a fraction. -/
def fracSum : List Exact → Int × Nat
  | [] => (0, 1)
  | x :: xs =>
    let (a, b) := x.frac
    let (c, d) := fracSum xs
    if b = d then (a + c, b) else (a * d + c * b, b * d)

/-- The exact sum of a list of addends (rules R185, R197). `rdn` says that the rounding mode is RDN, which
gives an exact zero sum the sign minus unless every addend is +0. -/
def sum (rdn : Bool) (xs : List Exact) : Exact :=
  if xs.any isNan then .nan
  else if xs.any (fun x => x.isInf && x.neg) && xs.any (fun x => x.isInf && !x.neg) then .nan
  else if xs.any isInf then .inf (xs.any (fun x => x.isInf && x.neg))
  else
    let (n, d) := fracSum xs
    if n = 0 then
      let allNeg := xs.all (fun x => x.isZero && x.neg)
      let allPos := xs.all (fun x => x.isZero && !x.neg)
      .fin (allNeg || (rdn && !allPos)) 0 1
    else .fin (n < 0) n.natAbs d

/-- `x < y` of two operands that are not NaN, −0 and +0 being equal (rule R186). -/
def ltNum : Exact → Exact → Bool
  | .inf s, .inf t => s && !t
  | .inf s, _ => s
  | _, .inf t => !t
  | x, y =>
    let (a, b) := x.frac
    let (c, d) := y.frac
    decide (a * d < c * b)

/-- IEEE comparisons (rule R186): unordered operands make eq, lt and le false. -/
def lt (x y : Exact) : Bool := !x.isNan && !y.isNan && ltNum x y
def le (x y : Exact) : Bool := !x.isNan && !y.isNan && !ltNum y x
def eq (x y : Exact) : Bool := !x.isNan && !y.isNan && !ltNum x y && !ltNum y x

end Exact

/-- The rounding modes of rule R194. -/
inductive Mode where
  | rne | rtz | rup | rdn | sr
  deriving DecidableEq, Repr

namespace Mode
/-- The mode that a 2-bit field names (rule R223); SR has no code. -/
def ofCode (x : BitVec 2) : Mode :=
  if x = 0 then .rne else if x = 1 then .rtz else if x = 2 then .rup else .rdn

/-- The mode that acts on the magnitude of a value of the given sign (rule R194). -/
def reflect : Mode → Bool → Mode
  | .rup, true => .rdn
  | .rdn, true => .rup
  | m, _ => m
end Mode

/-- `rnd(n / d, m, rb)` of a magnitude (rules R194, R196). -/
def rndMag (n d : Nat) (m : Mode) (rb : Nat) : Nat :=
  let k := n / d
  let r := n % d
  match m with
  | .rne => if 2 * r < d then k else if d < 2 * r then k + 1 else k + k % 2
  | .rtz => k
  | .rdn => k
  | .rup => if r = 0 then k else k + 1
  | .sr => (n * 2 ^ 32 + rb * d) / (d * 2 ^ 32)

/-- `floor(log2(n / d))` of a nonzero magnitude. -/
def floorLog2 (n d : Nat) : Int :=
  let e : Int := (Nat.log2 n : Int) - (Nat.log2 d : Int)
  let fits := if 0 ≤ e then d * 2 ^ e.toNat ≤ n else d ≤ n * 2 ^ (-e).toNat
  if fits then e else e - 1

namespace Fmt

/-- The code of the largest finite magnitude, without its sign bit (rules R182, R191). -/
def maxCode (f : Fmt) : Nat :=
  match f.cls with
  | .allFinite => 2 ^ (f.eb + f.mb) - 1
  | .ieee => (2 ^ f.eb - 1) * 2 ^ f.mb - 1
  | .singleNan => 2 ^ (f.eb + f.mb) - 2
  | .integer => 2 ^ (f.eb + f.mb) - 1

/-- A magnitude code with a sign put above it; an unsigned format has no sign bit (rule R190). -/
def signCode (f : Fmt) (neg : Bool) (mag : Nat) : Nat :=
  if f.signed && neg then 2 ^ (f.eb + f.mb) + mag else mag

/-- The infinity code of an IEEE-like format. -/
def infCode (f : Fmt) (neg : Bool) : Nat := f.signCode neg ((2 ^ f.eb - 1) * 2 ^ f.mb)

/-- The canonical NaN of a format, or +0 where it has none (rules R182, R192). -/
def nanCode (f : Fmt) : Nat :=
  match f.cls with
  | .ieee => (2 ^ f.eb - 1) * 2 ^ f.mb + 2 ^ (f.mb - 1)
  | .singleNan => 2 ^ (f.eb + f.mb) - 1
  | _ => 0

/-- Whether a format has a NaN (rule R192). -/
def hasNan (f : Fmt) : Bool :=
  match f.cls with
  | .ieee => true
  | .singleNan => true
  | _ => false

/-- The least and greatest integer of an integer class (rules R182, R191). -/
def kmin (f : Fmt) : Int := if f.signed then -(2 ^ (f.width - 1) : Nat) else 0
def kmax (f : Fmt) : Int := if f.signed then (2 ^ (f.width - 1) : Nat) - 1 else (2 ^ f.width : Nat) - 1

/-- An integer clamped to the range of an integer class, in its two's complement code. -/
def encodeInt (f : Fmt) (k : Int) : Nat :=
  (max f.kmin (min f.kmax k)).emod (2 ^ f.width : Nat) |>.toNat

/-- Overflow (rule R195). -/
def ovf (f : Fmt) (neg : Bool) (m : Mode) (fromInf : Bool) : Nat :=
  let big := f.signCode neg f.maxCode
  match f.cls with
  | .ieee =>
    if f.sat then big
    else if fromInf then f.infCode neg
    else
      match m, neg with
      | .rtz, _ => big
      | .rup, true => big
      | .rdn, false => big
      | _, _ => f.infCode neg
  | .singleNan => if f.sat then big else f.nanCode
  | _ => big

end Fmt

/-- The magnitude code of `k` units in the last place at exponent `e` (rules R190, R194): subnormals and a
carry into the next exponent come out of the same sum. -/
def magCode (f : Fmt) (e : Int) (k : Nat) : Nat :=
  ((e + f.bias - 1) * (2 ^ f.mb : Nat)).toNat + k

/-- `rnd` of a nonzero finite magnitude at the exponent `e` of a floating-point format. -/
def roundMag (f : Fmt) (n d : Nat) (e : Int) (m : Mode) (rb : Nat) : Nat :=
  let q := e - f.mb
  if 0 ≤ q then rndMag n (d * 2 ^ q.toNat) m rb else rndMag (n * 2 ^ (-q).toNat) d m rb

/-- `round_to(x, F, mode, rb)` (rule R194). -/
def roundTo (x : Exact) (f : Fmt) (mode : Mode) (rb : Nat) : Nat :=
  match f.cls, x with
  | _, .nan => f.nanCode
  | .integer, .inf s => f.encodeInt (if s then f.kmin else f.kmax)
  | .integer, .fin s n d =>
    let k := if 0 ≤ f.bias then rndMag (n * 2 ^ f.bias.toNat) d (mode.reflect s) rb
      else rndMag n (d * 2 ^ (-f.bias).toNat) (mode.reflect s) rb
    f.encodeInt (if s then -(k : Int) else k)
  | _, .inf s => if s && !f.signed then 0 else f.ovf s mode true
  | _, .fin s n d =>
    if s && !f.signed then 0
    else if n = 0 then f.signCode s 0
    else
      let e := max (floorLog2 n d) (1 - f.bias)
      let k := roundMag f n d e (mode.reflect s) rb
      let c := magCode f e k
      if c > f.maxCode then f.ovf s mode false else f.signCode s c

/-- The integer significand magnitude, its sign and the shift E′ of a finite code (rule R190). -/
def significand (f : Fmt) (c : Nat) : Bool × Nat × Nat :=
  match f.cls with
  | .integer =>
    let c := c % 2 ^ f.width
    if f.signed && c ≥ 2 ^ (f.width - 1) then (true, 2 ^ f.width - c, 0) else (false, c, 0)
  | _ =>
    let m := c % 2 ^ f.mb
    let e := c / 2 ^ f.mb % 2 ^ f.eb
    let s := f.signed && c / 2 ^ (f.eb + f.mb) % 2 == 1
    if e = 0 then (s, m, 1) else (s, 2 ^ f.mb + m, e)

/-- C of rule R190: the value of a finite code is M × 2^(E′ − C). -/
def codeBias (f : Fmt) : Int :=
  match f.cls with
  | .integer => f.bias
  | _ => f.bias + f.mb

/-- The exact value of a code (rules R184, R190). -/
def decodeCode (f : Fmt) (c : Nat) : Exact :=
  let m := c % 2 ^ f.mb
  let e := c / 2 ^ f.mb % 2 ^ f.eb
  let s := f.signed && c / 2 ^ (f.eb + f.mb) % 2 == 1
  let special :=
    match f.cls with
    | .ieee => e == 2 ^ f.eb - 1
    | .singleNan => e == 2 ^ f.eb - 1 && m == 2 ^ f.mb - 1
    | _ => false
  if special then
    (if f.cls = .ieee && m == 0 then .inf s else .nan)
  else
    let (sg, mag, sh) := significand f c
    .dyadic sg mag ((sh : Int) - codeBias f)

/-- Values of the standard formats. -/
def ofF32 (c : Nat) : Exact := decodeCode .f32 c

/-- VMIN and VMAX, VMINN and VMAXN on two codes of a format (rule R187). `wantMax` picks the larger,
`num` the forms that return the other operand when one is NaN. -/
def minMax (f : Fmt) (wantMax num : Bool) (a b : Nat) : Nat :=
  let x := decodeCode f a
  let y := decodeCode f b
  match x.isNan, y.isNan with
  | true, true => f.nanCode
  | true, false => if num then b else f.nanCode
  | false, true => if num then a else f.nanCode
  | false, false =>
    let less := x.lt y || (x.isZero && y.isZero && x.neg && !y.neg)
    if wantMax then (if less then b else a) else (if less then a else
      if y.lt x || (y.isZero && x.isZero && y.neg && !x.neg) then b else a)

/-- One level of the pairwise tree: adjacent pairs are summed and rounded. -/
def pairSum (f : Fmt) (mode : Mode) : List Nat → List Nat
  | a :: b :: xs => roundTo (Exact.sum (mode = .rdn) [decodeCode f a, decodeCode f b]) f mode 0 :: pairSum f mode xs
  | xs => xs

/-- `tree_sum` of a list whose length is at most 2^fuel (rule R200). -/
def treeSum (f : Fmt) (mode : Mode) : Nat → List Nat → Nat
  | _, [] => 0
  | _, [x] => x
  | 0, x :: _ => x
  | k + 1, xs => treeSum f mode k (pairSum f mode xs)

/-- `fmix32` (rule R201). -/
def fmix32 (h : BitVec 32) : BitVec 32 :=
  let h := h ^^^ (h >>> 16)
  let h := h * 0x85EBCA6B#32
  let h := h ^^^ (h >>> 13)
  let h := h * 0xC2B2AE35#32
  h ^^^ (h >>> 16)

/-- `rand32(seed, ctr)` (rule R201). -/
def rand32 (seed ctr : BitVec 32) : BitVec 32 := fmix32 (seed ^^^ (ctr * 0x9E3779B9#32))

/-! Format registers -/

/-- Whether a format register holds a legal format (rules R188, R189). -/
def fmtLegal (r : BitVec 32) : Bool :=
  let ty := r.extractLsb' 0 3 |>.toNat
  let s := r.extractLsb' 6 1 |>.toNat
  let eb := r.extractLsb' 7 3 |>.toNat
  let mb := r.extractLsb' 10 3 |>.toNat
  let cls := r.extractLsb' 21 2 |>.toNat
  let pack := r.getLsbD 23
  let scf := r.extractLsb' 25 2 |>.toNat
  let w := s + eb + mb
  if ty = 1 || ty = 2 || ty = 3 then
    (r &&& 0x06FFFFC0#32) == 0
  else if ty ≠ 0 then false
  else if eb ≥ 6 then false
  else
    let tail := w ≤ 8 && scf ≠ 3 && (!pack || w ≤ 4)
    if cls = 3 then eb = 0 && 1 ≤ w && tail
    else if cls = 1 then 2 ≤ eb && mb ≥ 1 && tail
    else 1 ≤ eb && tail

/-- The TYPE field (rule R188). -/
def fmtType (r : BitVec 32) : Nat := (r.extractLsb' 0 3).toNat
/-- The PACK field (rule R188). -/
def fmtPack (r : BitVec 32) : Bool := r.getLsbD 23
/-- The SCF field (rule R188). -/
def fmtScf (r : BitVec 32) : Nat := (r.extractLsb' 25 2).toNat

/-- The format that a legal register describes (rules R188, R194). -/
def fmtOf (r : BitVec 32) : Fmt :=
  let sat := r.getLsbD 24
  match fmtType r with
  | 1 => { Fmt.f16 with sat := sat }
  | 2 => { Fmt.bf16 with sat := sat }
  | 3 => { Fmt.f32 with sat := sat }
  | _ =>
    { cls := match (r.extractLsb' 21 2).toNat with
        | 0 => .allFinite
        | 1 => .ieee
        | 2 => .singleNan
        | _ => .integer
      signed := r.getLsbD 6
      eb := (r.extractLsb' 7 3).toNat
      mb := (r.extractLsb' 10 3).toNat
      bias := (r.extractLsb' 13 8).toInt
      sat := sat }

/-- The value of a block-scale code (rule R193). -/
def scaleValue (scf : Nat) (c : Nat) : Exact :=
  match scf with
  | 1 => if c = 0xFF then .nan else .dyadic false 1 ((c : Int) - 127)
  | 2 =>
    if c = 0xFF then .nan
    else if c / 8 = 0 then .dyadic false (c % 8) (-17)
    else .dyadic false (8 + c % 8) ((c / 8 : Nat) - (18 : Int))
  | _ => .one

end Sys2Proof.Machine
end

