-- ==== Sys2Proof/Machine/Special.lean ====
section
/-! DEFINITION. The correctly rounded special functions (rule R199). Reciprocal and reciprocal square root are exact
up to the rounding. The exponential and the logarithm are irrational except in the cases answered exactly, and are
bracketed to far more bits than a format keeps (log entry 20). -/

namespace Sys2Proof.Machine

/-- The integer square root, by the bits from `2^k` down. -/
def isqrtFrom (n : Nat) : Nat → Nat → Nat
  | 0, r => r
  | k + 1, r =>
    let r' := r + 2 ^ k
    isqrtFrom n k (if r' * r' ≤ n then r' else r)

/-- floor(sqrt n). -/
def isqrt (n : Nat) : Nat := isqrtFrom n (Nat.log2 n / 2 + 1) 0

/-- `rcp_rn` as an exact value. -/
def rcpExact : Exact → Exact
  | .nan => .nan
  | .inf s => .fin s 0 1
  | .fin s n d => if n = 0 then .inf s else .fin s d n

/-- A value known to lie strictly inside `(lo, lo + 1) / 2^p`, or to equal `lo / 2^p` when exact: a representative
that every rounding to fewer than `p` bits treats alike. -/
def sticky (neg exact : Bool) (lo p : Nat) : Exact :=
  .fin neg (2 * lo + (if exact then 0 else 1)) (2 ^ (p + 1))

/-- `rsq_rn` as an exact or sticky value: the square root of `d / n` to 256 fraction bits. -/
def rsqExact : Exact → Exact
  | .nan => .nan
  | .inf s => if s then .nan else .fin false 0 1
  | .fin s n d =>
    if n = 0 then .inf s
    else if s then .nan
    else
      let p := 256
      let t := d * 2 ^ (2 * p) / n
      let r := isqrt t
      sticky false (r * r * n == d * 2 ^ (2 * p)) r p

/-- The bits of fraction that the exponential works to. -/
def expBits : Nat := 288

/-- The product of `2^(2^-i)` over the set bits of the fraction `f / 2^w`, bit `w - 1` first; `root` is
`2^(2^-i)` so far, both with `expBits` fraction bits. -/
def exp2Frac (f : Nat) : Nat → Nat → Nat → Nat
  | 0, _, acc => acc
  | i + 1, root, acc =>
    let root' := isqrt (root * 2 ^ expBits)
    let acc' := if f / 2 ^ i % 2 = 1 then acc * root' / 2 ^ expBits else acc
    exp2Frac f i root' acc'

/-- `exp2_rn` before rounding. An exponent of magnitude 2^10 or more is far outside every format, and one
below 2^-40 in magnitude rounds as any value on its side of 1.0 does. -/
def exp2Exact : Exact → Exact
  | .nan => .nan
  | .inf s => if s then .fin false 0 1 else .inf false
  | .fin s n d =>
    if n = 0 then .one
    else if n / d ≥ 1024 then .dyadic false 1 (if s then -1024 else 1024)
    else if n % d = 0 then .dyadic false 1 (if s then -(n / d : Nat) else (n / d : Nat))
    else if n * 2 ^ 40 < d then .fin false (if s then 2 ^ 48 - 1 else 2 ^ 48 + 1) (2 ^ 48)
    else
      let k : Int := if s then -((n / d + 1 : Nat) : Int) else (n / d : Nat)
      let rem := n % d
      let fnum := if s then d - rem else rem
      let w := Nat.log2 d
      let m := exp2Frac fnum w (2 ^ (expBits + 1)) (2 ^ expBits)
      let lo := m / 2 ^ 64
      match sticky false false lo (expBits - 64) with
      | .fin t a b => if 0 ≤ k then .fin t (a * 2 ^ k.toNat) b else .fin t a (b * 2 ^ (-k).toNat)
      | x => x

/-- The bits that the logarithm squares at. -/
def logBits : Nat := 512

/-- The next `k` fraction bits of the base-2 logarithm of `m / 2^logBits`, m in [1, 2), appended to `acc`. -/
def log2Frac : Nat → Nat → Nat → Nat
  | 0, _, acc => acc
  | k + 1, m, acc =>
    let q := m * m / 2 ^ logBits
    if q ≥ 2 ^ (logBits + 1) then log2Frac k (q / 2) (2 * acc + 1) else log2Frac k q (2 * acc)

/-- `log2_rn` before rounding; the logarithm of a power of two is exact. DESIGN CHOICE, unsafe (log entry 114): that of 1 is +0; rules R197
and R199 do not give the sign of that zero. -/
def log2Exact : Exact → Exact
  | .nan => .nan
  | .inf s => if s then .nan else .inf false
  | .fin s n d =>
    if n = 0 then .inf true
    else if s then .nan
    else
      let e := floorLog2 n d
      let m := if 0 ≤ e then n * 2 ^ logBits / (d * 2 ^ e.toNat) else n * 2 ^ (-e).toNat * 2 ^ logBits / d
      if m = 2 ^ logBits then .ofInt e
      else
        let p := 192
        let f := log2Frac p m 0
        if 0 ≤ e then sticky false false (e.toNat * 2 ^ p + f) p
        else sticky true false ((-e).toNat * 2 ^ p - f - 1) p

/-- The four special functions of a format's code (rules R199, R286). -/
def rcpRn (f : Fmt) (a : Nat) : Nat := roundTo (rcpExact (decodeCode f a)) f .rne 0
def rsqRn (f : Fmt) (a : Nat) : Nat := roundTo (rsqExact (decodeCode f a)) f .rne 0
def exp2Rn (f : Fmt) (a : Nat) : Nat := roundTo (exp2Exact (decodeCode f a)) f .rne 0
def log2Rn (f : Fmt) (a : Nat) : Nat := roundTo (log2Exact (decodeCode f a)) f .rne 0

end Sys2Proof.Machine
end

