-- ==== Sys2Proof/Machine/Lanes.lean ====
section
/-! DEFINITION. Vector registers as lanes, and every lane computation of the VA and VM slots (rules R263, R273 to
R288). -/

namespace Sys2Proof.Machine

/-- `lane(v, w, i)` read as an unsigned number (rule R263). -/
def lane (v : Vec) (w i : Nat) : Nat := (v.toNat >>> (w * i)) % 2 ^ w

/-- A number whose consecutive `w`-bit digits are the list, the first lowest. -/
def packLanes (w : Nat) : List Nat → Nat
  | [] => 0
  | x :: xs => x % 2 ^ w + 2 ^ w * packLanes w xs

/-- The register whose lane i is `f i`, for i below `n`; the bytes above are 0. -/
def ofLanes (w n : Nat) (f : Nat → Nat) : Vec := BitVec.ofNat 2048 (packLanes w ((List.range n).map f))

/-- The lanes of a register in ascending order. -/
def lanes (v : Vec) (w n : Nat) : List Nat := (List.range n).map (lane v w)

/-- `sx`: a `w`-bit number read as two's complement (rule R275). -/
def sx (w x : Nat) : Int := if x < 2 ^ (w - 1) then x else (x : Int) - (2 ^ w : Nat)

/-- `wrap(x, w)` (rule R182). -/
def wrap (x : Int) (w : Nat) : Nat := (x.emod (2 ^ w : Nat)).toNat
/-- `sat_i(x, w)` and `sat_n(x, w)` as codes (rule R182). -/
def satI (x : Int) (w : Nat) : Nat := (Fmt.int w).encodeInt x
def satN (x : Int) (w : Nat) : Nat := (Fmt.nat w).encodeInt x

/-- An elementwise operation of two registers of `w`-bit lanes. -/
def zipLanes (w : Nat) (f : Nat → Nat → Nat) (a b : Vec) : Vec :=
  ofLanes w (2048 / w) (fun i => f (lane a w i) (lane b w i))

/-- An elementwise operation of one register of `w`-bit lanes. -/
def mapLanes (w : Nat) (f : Nat → Nat) (a : Vec) : Vec :=
  ofLanes w (2048 / w) (fun i => f (lane a w i))

/-- All ones or all zeros (rule R274). -/
def maskLane (w : Nat) (b : Bool) : Nat := if b then 2 ^ w - 1 else 0

/-- The comparison that a 2-bit x field names: EQ, LT, LE, NE (rules R223, R274). -/
def pickCc (x : BitVec 2) (eq lt le : Bool) : Bool :=
  if x = 0 then eq else if x = 1 then lt else if x = 2 then le else !eq

/-! Floating-point lanes (rules R273, R274, R280, R282) -/

def fAdd (f : Fmt) (m : Mode) (a b : Nat) : Nat :=
  roundTo (.sum (m = .rdn) [decodeCode f a, decodeCode f b]) f m 0
def fSub (f : Fmt) (m : Mode) (a b : Nat) : Nat :=
  roundTo (.sum (m = .rdn) [decodeCode f a, (decodeCode f b).negate]) f m 0
def fMul (f : Fmt) (m : Mode) (a b : Nat) : Nat :=
  roundTo ((decodeCode f a).mul (decodeCode f b)) f m 0
/-- `a × b + c`, with one rounding. -/
def fFma (f : Fmt) (m : Mode) (a b c : Nat) : Nat :=
  roundTo (.sum (m = .rdn) [(decodeCode f a).mul (decodeCode f b), decodeCode f c]) f m 0
/-- `c − a × b`, with one rounding. -/
def fFms (f : Fmt) (m : Mode) (a b c : Nat) : Nat :=
  roundTo (.sum (m = .rdn) [decodeCode f c, ((decodeCode f a).mul (decodeCode f b)).negate]) f m 0
def fCmp (f : Fmt) (x : BitVec 2) (a b : Nat) : Nat :=
  let p := decodeCode f a
  let q := decodeCode f b
  maskLane f.width (pickCc x (p.eq q) (p.lt q) (p.le q))

def vFma (f : Fmt) (m : Mode) (a b d : Vec) : Vec :=
  ofLanes f.width (2048 / f.width) (fun i => fFma f m (lane a f.width i) (lane b f.width i) (lane d f.width i))
def vFms (f : Fmt) (m : Mode) (a b d : Vec) : Vec :=
  ofLanes f.width (2048 / f.width) (fun i => fFms f m (lane a f.width i) (lane b f.width i) (lane d f.width i))

/-- VRED (rule R280): an inactive lane enters the tree as −0. -/
def vRed (f : Fmt) (m : Mode) (a b : Vec) : Vec :=
  let w := f.width
  let xs := (List.range (2048 / w)).map (fun i => if lane b w i = 0 then f.signCode true 0 else lane a w i)
  let r := treeSum f m 7 xs
  ofLanes w (2048 / w) (fun _ => r)

/-! Integer and bit lanes (rules R275 to R281) -/

def iCmp (w : Nat) (x : BitVec 2) (a b : Int) : Nat :=
  maskLane w (pickCc x (a == b) (decide (a < b)) (decide (a ≤ b)))

/-- VIRED (rule R280). -/
def viRed (w : Nat) (a b : Vec) : Vec :=
  let t := (List.range (2048 / w)).foldl (fun acc i => if lane b w i = 0 then acc else acc + lane a w i) 0
  ofLanes w (2048 / w) (fun _ => t)

/-- The shifts of rule R276. -/
def shlLane (w a b : Nat) : Nat := if b < w then a * 2 ^ b else 0
def shrLane (w a b : Nat) : Nat := if b < w then a / 2 ^ b else 0
def sraLane (w a b : Nat) : Nat := wrap ((sx w a).fdiv (2 ^ min b (w - 1) : Nat)) w

/-- VSHUF (rule R278): lane i of the result is the lane of `a` that the low bits of lane i of `b` name. -/
def vShuf (w : Nat) (a b : Vec) : Vec :=
  let n := 2048 / w
  ofLanes w n (fun i => lane a w (lane b w i % n))

/-- The carry-less product of two 64-bit values, by bit k upward (rule R281). -/
def clmulFrom (p q : Nat) : Nat → Nat → Nat
  | 0, acc => acc
  | k + 1, acc => clmulFrom p q k (if q.testBit k then acc ^^^ (p <<< k) else acc)

def clmul (p q : Nat) : Nat := clmulFrom p q 64 0

/-- VCLMUL (rule R281). -/
def vClmul (a b : Vec) : Vec :=
  ofLanes 128 16 (fun j => clmul (lane a 64 (2 * j)) (lane b 64 (2 * j))
    ^^^ clmul (lane a 64 (2 * j + 1)) (lane b 64 (2 * j + 1)))

/-- VRAND (rule R287). -/
def vRand (seed ctr : BitVec 32) : Vec :=
  ofLanes 32 64 (fun i => (rand32 seed (ctr + BitVec.ofNat 32 i)).toNat)

/-! Conversions (rules R283 to R285) -/

/-- The bits of a register that one narrow element occupies (rule R284). -/
def narrowSlot (r : BitVec 32) : Nat := if fmtPack r then 4 else 8

/-- Element i of the narrow elements in a register. -/
def narrowElem (r : BitVec 32) (v : Vec) (i : Nat) : Nat :=
  lane v (narrowSlot r) i % 2 ^ (fmtOf r).width

/-- 64 FP32 lanes converted into the 16-bit format; bytes 128 to 255 are 0. -/
def cvtTo16 (f : Fmt) (m : Mode) (a : Vec) : Vec :=
  ofLanes 16 64 (fun i => roundTo (ofF32 (lane a 32 i)) f m 0)
/-- The low 64 lanes of 16 bits converted into FP32, exactly. -/
def cvtFrom16 (f : Fmt) (a : Vec) : Vec :=
  ofLanes 32 64 (fun i => roundTo (decodeCode f (lane a 16 i)) .f32 .rne 0)
def cvtToNf (r : BitVec 32) (m : Mode) (a : Vec) : Vec :=
  ofLanes (narrowSlot r) 64 (fun i => roundTo (ofF32 (lane a 32 i)) (fmtOf r) m 0)
def cvtFromNf (r : BitVec 32) (m : Mode) (a : Vec) : Vec :=
  ofLanes 32 64 (fun i => roundTo (decodeCode (fmtOf r) (narrowElem r a i)) .f32 m 0)
def cvtToInt (f : Fmt) (m : Mode) (a : Vec) : Vec :=
  ofLanes 32 64 (fun i => roundTo (ofF32 (lane a 32 i)) f m 0)
def cvtFromInt (signed : Bool) (m : Mode) (a : Vec) : Vec :=
  ofLanes 32 64 (fun i =>
    roundTo (.ofInt (if signed then sx 32 (lane a 32 i) else (lane a 32 i : Nat))) .f32 m 0)
/-- The stochastic conversions (rule R285): lane i of `b` is the random word of lane i. -/
def cvts (slot : Nat) (f : Fmt) (a b : Vec) : Vec :=
  ofLanes slot 64 (fun i => roundTo (ofF32 (lane a 32 i)) f .sr (lane b 32 i))

/-- The lowest lane below `n` that holds the canonical NaN `c` in its low `w` bits, lanes standing `slot` bits
apart (rule R288). -/
def nanLane (slot w n c : Nat) (v : Vec) : Option Nat :=
  (List.range n).find? (fun i => lane v slot i % 2 ^ w == c)

/-- The NaN that an instruction of format `f` and `n` lanes produces, if any (rules R185, R288). -/
def producedNan (f : Fmt) (slot n : Nat) (v : Vec) : Option Nat :=
  if f.hasNan then nanLane slot f.width n f.nanCode v else none

end Sys2Proof.Machine
end

