-- ==== Sys2Proof/Machine/MatrixMath.lean ====
section
/-! DEFINITION. The exact arithmetic of a matrix step and of a drain (rules R202 to R208, R292, R298). -/

namespace Sys2Proof.Machine

/-- The eight rows of 96 bytes of an operand, row i in bytes 96i to 96i + 95 (rule R291). -/
abbrev Rows := BitVec 6144

/-- The pair of format registers may be A and B of one step (rule R202). -/
def pairLegal (fa fb : BitVec 32) : Bool :=
  fmtLegal fa && fmtLegal fb &&
    ((1 ≤ fmtType fa && fmtType fa ≤ 2 && 1 ≤ fmtType fb && fmtType fb ≤ 2)
      || (fmtType fa == 0 && fmtType fb == 0 && fmtPack fa == fmtPack fb))

/-- The code of element k of row i (rule R292). -/
def rowElem (r : BitVec 32) (rows : Rows) (i k : Nat) : Nat :=
  let slot := if fmtType r = 0 then narrowSlot r else 16
  (rows.toNat >>> (768 * i + slot * k)) % 2 ^ (fmtOf r).width

/-- The scale code of row i, block b, of a scale register (rule R292). -/
def scaleCode (q : BitVec 512) (i b : Nat) : Nat := (q.toNat >>> (8 * (8 * i + b))) % 256

/-- The signed significand product times `2^(E′(a) + E′(b))` (rule R204). -/
def blockTerm (fa fb : Fmt) (a b : Nat) : Int :=
  let (sa, ma, ea) := significand fa a
  let (sb, mb, eb) := significand fb b
  let m : Int := (ma * mb * 2 ^ (ea + eb) : Nat)
  if sa != sb then -m else m

/-- S of rule R204: the exact fixed-point sum of a block. -/
def blockSum (fa fb : Fmt) (xs : List (Nat × Nat)) : Int :=
  xs.foldl (fun s p => s + blockTerm fa fb p.1 p.2) 0

/-- ρ of rule R205, formed without the powers of two. -/
def residue (fa fb : Fmt) (xs : List (Nat × Nat)) : Int :=
  xs.foldl (fun s p =>
    let (sa, ma, ea) := significand fa p.1
    let (sb, mb, eb) := significand fb p.2
    let m : Int := (ma * mb : Nat)
    let m := if sa != sb then -m else m
    s + (if (ea + eb) % 2 = 0 then m else -m)) 0

/-- `block_value` (rule R204), from the sum that the array has formed: `off` more than S. -/
def blockValue (fa fb : Fmt) (xs : List (Nat × Nat)) (off : Int) : Exact :=
  let ps := xs.map (fun p => (decodeCode fa p.1).mul (decodeCode fb p.2))
  if ps.any Exact.isNan then .nan
  else if ps.any (fun x => x.isInf && x.neg) && ps.any (fun x => x.isInf && !x.neg) then .nan
  else if ps.any Exact.isInf then .inf (ps.any (fun x => x.isInf && x.neg))
  else
    let s := blockSum fa fb xs + off
    .dyadic (s < 0) s.natAbs (-(codeBias fa + codeBias fb))

/-- The residue check of a finite block finds a mismatch: ρ is not the formed sum modulo 3 (rule R205). -/
def blockMismatch (fa fb : Fmt) (xs : List (Nat × Nat)) (off : Int) : Bool :=
  let ps := xs.map (fun p => (decodeCode fa p.1).mul (decodeCode fb p.2))
  !(ps.any Exact.isNan || ps.any Exact.isInf) && (blockSum fa fb xs + off) % 3 != residue fa fb xs % 3

/-- The pairs of codes of block `b` of element (i, j) of a narrow step. -/
def blockPairs (ra rb : BitVec 32) (A B : Rows) (i j b : Nat) : List (Nat × Nat) :=
  (List.range 32).map (fun k => (rowElem ra A i (32 * b + k), rowElem rb B j (32 * b + k)))

/-- One element of a narrow step: blocks b to nblk − 1, `n` of them left (rule R203); `off` says how far each formed sum is off. -/
def narrowBlocks (ra rb : BitVec 32) (qa qb : BitVec 512) (A B : Rows) (off : Nat → Int) (i j : Nat) : Nat → Nat → Nat → Nat
  | 0, _, acc => acc
  | n + 1, b, acc =>
    let sp := roundTo ((scaleValue (fmtScf ra) (scaleCode qa i b)).mul (scaleValue (fmtScf rb) (scaleCode qb j b)))
      .f32 .rne 0
    let v := blockValue (fmtOf ra) (fmtOf rb) (blockPairs ra rb A B i j b) (off b)
    let t := roundTo (v.mul (ofF32 sp)) .f32 .rne 0
    narrowBlocks ra rb qa qb A B off i j n (b + 1) (fAdd .f32 .rne acc t)

/-- One product of a 16-bit step: the formed significand product is `off` more than the product (rules R205, R206). -/
def wideProduct (fa fb : Fmt) (a b : Nat) (off : Int) : Exact :=
  let x := (decodeCode fa a).mul (decodeCode fb b)
  if off = 0 || x.isNan || x.isInf then x
  else
    let s := blockTerm fa fb a b + off * 2 ^ ((significand fa a).2.2 + (significand fb b).2.2)
    .dyadic (s < 0) s.natAbs (-(codeBias fa + codeBias fb))

/-- One element of a 16-bit step: 48 products and the accumulator, rounded once (rule R206). -/
def wideElem (ra rb : BitVec 32) (A B : Rows) (off : Nat → Int) (i j acc : Nat) : Nat :=
  roundTo (.sum false (ofF32 acc :: (List.range 48).map (fun k =>
    wideProduct (fmtOf ra) (fmtOf rb) (rowElem ra A i k) (rowElem rb B j k) (off k)))) .f32 .rne 0

/-- A hardware error in the array on one cycle (rule R205): for accumulator element `elem`, the fixed-point sum of a block of a narrow
step, or the significand product of that index of a 16-bit step, is formed `off` too large. -/
structure SumHit where
  elem : Nat
  block : Nat
  off : Int
  deriving DecidableEq, Repr

/-- How far the formed sum or product of an element is off. -/
def hitOff (hits : List SumHit) (elem block : Nat) : Int :=
  ((hits.find? (fun h => h.elem == elem && h.block == block)).map (·.off)).getD 0

/-- An accumulator set after one step, as the array forms it under errors (rules R202, R203, R205, R206, R208); element (i, j) is lane
8i + j. -/
def matrixStep (hits : List SumHit) (ra rb : BitVec 32) (qa qb : BitVec 512) (A B : Rows) (acc : Vec) : Vec :=
  ofLanes 32 64 (fun e =>
    if fmtType ra = 0 then
      narrowBlocks ra rb qa qb A B (hitOff hits e) (e / 8) (e % 8) (if fmtPack ra then 6 else 3) 0 (lane acc 32 e)
    else wideElem ra rb A B (hitOff hits e) (e / 8) (e % 8) (lane acc 32 e))

/-- The residue check of a step finds an error's sum or product wrong (rule R205). A sum that no error has struck agrees with ρ
(`blockSum_residue`), so only those struck are compared. -/
def hitFound (ra rb : BitVec 32) (A B : Rows) (h : SumHit) : Bool :=
  let i := h.elem / 8
  let j := h.elem % 8
  decide (h.elem < 64) &&
    (if fmtType ra = 0 then
      decide (h.block < if fmtPack ra then 6 else 3) && blockMismatch (fmtOf ra) (fmtOf rb) (blockPairs ra rb A B i j h.block) h.off
    else decide (h.block < 48) && h.off % 3 != 0)

/-- The errors that the residue check of a step reports, the lowest block first and then the lowest element (rules R205, R375; log
entry 93). -/
def residueFound (hits : List SumHit) (ra rb : BitVec 32) (A B : Rows) : Option SumHit :=
  (hits.filter (hitFound ra rb A B)).foldl (fun b h =>
    match b with
    | none => some h
    | some g => if h.block < g.block || (h.block == g.block && h.elem < g.elem) then some h else some g) none

/-- The bits that one drained element occupies, and the bytes of a drain (rule R298). -/
def drainSlot (r : BitVec 32) : Nat :=
  match fmtType r with
  | 1 => 16
  | 2 => 16
  | 3 => 32
  | _ => narrowSlot r
def drainBytes (r : BitVec 32) : Nat := 8 * drainSlot r

/-- The bytes that a drain writes, element e in slot e (rule R298). -/
def drainData (r : BitVec 32) (m : Mode) (acc : Vec) : Vec :=
  ofLanes (drainSlot r) 64 (fun e => roundTo (ofF32 (lane acc 32 e)) (fmtOf r) m 0)

end Sys2Proof.Machine
end

