-- ==== Sys2Proof/Machine/ReleaseState.lean ====
section
/-! DEFINITION. The data of a card release in preparation: records and cards as read, the pages found, and what the release
comes to once its hold ends (rules R31, R99, R113, R115, R116, R118). -/

namespace Sys2Proof.Machine

/-- One cause of a trap (rule R353). `nan` holds TNAN0 and TNAN1 of a NaN trap, `loom` the landing cycle that TLOOM
keeps for it. -/
structure Cause where
  code : Nat
  sub : Nat
  slot : Nat
  cba : CodeAddr
  info : Word
  nan : Option (Word × Word)
  loom : Option Nat
  /-- The keys by which the first NaN is chosen (rule R369): issue cycle and slot. -/
  key : Nat × Nat
  deriving DecidableEq, Repr

/-- A refused bundle: its cause, LOINFO and LOELEM of a layout overflow (rule R110), TFVA and TFINFO of a page fault (rule
R33). -/
structure Refuse where
  cause : Cause
  layout : Option (Word × Word)
  fault : Option (Word × Word)
  deriving DecidableEq, Repr

/-- A layout record (rule R99). -/
structure Rec where
  handle : Nat
  words : List Word
  deriving DecidableEq, Repr

/-- A card's four words (rule R115). -/
structure CardWords where
  w0 : Word
  w1 : Word
  w2 : Word
  w3 : Word
  deriving DecidableEq, Repr

/-- The fields of a deck's header (rule R118). -/
structure DeckHead where
  va : Nat
  nlev : Nat
  ntmpl : Nat
  nstage : Nat
  counts : List Nat
  deriving DecidableEq, Repr

/-- A leaf: its page's virtual address, log2 size, frame and permissions (rule R26). -/
structure Leaf where
  va : Nat
  size : Nat
  dpa : Nat
  perms : Nat
  deriving DecidableEq, Repr

/-- One card of a release: its place, its words, its records and their effective starts (rules R113, R117). -/
structure Pull where
  k : Nat
  card : CardWords
  recs : List (Rec × List Int)
  deriving DecidableEq, Repr

/-- A page of a release: the card's place, the leaf, and the TLB entry that holds it (rules R31, R38). -/
structure PageOf where
  k : Nat
  leaf : Leaf
  entry : Nat
  deriving DecidableEq, Repr

/-- What a release costs in time: pages, TLB misses, walks, and words fetched of the deck and records fetched (rules R35,
R109, R120). -/
structure Cost where
  pages : Nat
  misses : Nat
  walks : Nat
  deck : Nat
  recs : Nat
  deriving DecidableEq, Repr

/-- What a release has looked up (rules R31, R113, R116): the header of the deck when a stage is released, its cards once they
are fetched, their records, its pages as far as they are translated, and the check that failed. -/
structure ReleasePlan where
  head : Option DeckHead
  cards : List CardWords
  pulls : List Pull
  pages : List PageOf
  /-- Translation has stopped at a page for which the TLB has no entry to give (rule R37). -/
  short : Bool
  failed : Option Refuse
  /-- The pages and misses that its hold has counted (rule R35). -/
  cost : Cost
  /-- The length of its hold is odd before it is rounded up: a failed look-up ends one cycle earlier (rule R35). -/
  odd : Bool
  /-- Its translation has ended, and what the hold still waits for is room (rule R44). -/
  ended : Bool
  deriving DecidableEq, Repr

end Sys2Proof.Machine
end

