-- ==== Sys2Proof/Machine/CoreState.lean ====
section
/-! DEFINITION. The state of one core, as plain data: its register files, its control state, what it has in flight, its
trap state, its system registers and its local storage. -/

namespace Sys2Proof.Machine

/-! ### Memory -/

/-- A memory of bytes: cells at strictly rising addresses, none of them equal to what an unlisted address reads as,
which is 0 (rule R70 for local storage; log entry 4 for the off-wafer space). -/
structure Memory where
  cells : List Host.Cell
  deriving DecidableEq, Repr

namespace Memory
/-- A memory in which nothing is listed. -/
def empty : Memory := { cells := [] }

/-- Strictly rising addresses and no listed 0. -/
def wfCells : List Host.Cell → Bool
  | [] => true
  | [c] => c.2 != 0
  | c :: d :: cs => c.2 != 0 && c.1 < d.1 && wfCells (d :: cs)

/-- The canonical form. -/
def wf (m : Memory) : Bool := wfCells m.cells
end Memory

/-! ### Register files (rule R215) -/

/-- One hardware loop level: LOOPl and END (rules R218, R248). -/
structure Loop where
  act : Bool
  rot : Bool
  len : BitVec 8
  start : CodeAddr
  cnt : BitVec 32
  stop : CodeAddr
  deriving DecidableEq, Repr

/-- One stride-add pair LPAIRl.j (rule R218). -/
structure LPair where
  v : Bool
  reg : BitVec 6
  stride : BitVec 32
  deriving DecidableEq, Repr

/-- The rotation bases and the epilogue count: ROTB (rule R217). -/
structure Rotb where
  srb : BitVec 5
  vrb : BitVec 5
  prb : BitVec 3
  ec : BitVec 8
  deriving DecidableEq, Repr

/-- The state of a token (rule R122). -/
inductive Tok where
  | idle | pending | done | error
  deriving DecidableEq, Repr

/-- The register files of a core (rules R215, R188, R289). Registers stand at their physical numbers. -/
structure Regs where
  s : Vector Word 64
  v : Vector Vec 64
  p : BitVec 16
  a : Vector Vec 8
  q : Vector (BitVec 512) 4
  latch : Rows
  latchFmt : Word32
  mxcfg : Word
  f : Vector Word32 16
  tok : Vector Tok 8
  sem : Vector (BitVec 16) 16
  rotb : Rotb
  loops : Vector Loop 6
  pairs : Vector LPair 24
  deriving DecidableEq, Repr

/-! ### What a core has in flight -/

/-- What a NaN trap would report of an instruction (rules R356, R369): its unit, accumulator set, formats and, where
it is known at issue, the element. -/
structure NanInfo where
  unit : Nat
  acc : Nat
  fa : Word32
  fb : Word32
  elem : Option Nat
  deriving DecidableEq, Repr

/-- What an exposed result does to the core when it lands (rules R220, R221). Register numbers are physical. -/
inductive Effect where
  | sreg (r : BitVec 6) (x : Word)
  | vreg (r : BitVec 6) (x : Vec)
  | preg (r : BitVec 4) (x : Bool)
  | accZero (mask : BitVec 8)
  /-- Nothing: the landing cycle of a drain, kept for the NaN it may have produced (rule R301). -/
  | mark
  /-- A matrix step: it reads its set when it lands (rule R294). -/
  | step (acc : BitVec 3) (fa fb : Word32) (qa qb : BitVec 512) (A B : Rows)
  | latch (rows : Rows) (fmt : Word32)
  | scale (q : BitVec 2) (x : BitVec 512)
  | fmt (f : BitVec 4) (x : Word32)
  | sysw (n : BitVec 12) (x : Word)
  | loopSet (l : BitVec 3) (x : Loop)
  | loopPair (i : Nat) (x : LPair)
  | loopEc (ec : BitVec 8)
  | rotClr
  | tokClr (mask : BitVec 8)
  /-- A back-edge (rule R250): scalar registers written, each with its pair 4l + j, then the new loop levels, ROTB and, for each
  rotation step, the physical register that p8 then names, with its new value. -/
  | backEdge (regs : List (Nat × BitVec 6 × Word)) (levels : List (Nat × Loop)) (rotb : Rotb) (p8 : List (BitVec 4 × Bool))
  deriving DecidableEq, Repr

/-- An exposed result in flight: the core cycle on which consumers see it, and its producer. -/
structure Landing where
  due : Nat
  issued : Nat
  slot : Nat
  cba : CodeAddr
  op : Nat
  eff : Effect
  nan : Option NanInfo
  deriving DecidableEq, Repr

/-- Where an operand's rows lie (rule R291). -/
structure Operand where
  base : Nat
  pitch : Nat
  deriving DecidableEq, Repr

/-- The lanes of an XRADD (rule R307). -/
inductive RaddType where
  | f32 | f16 | bf16 | i32
  deriving DecidableEq, Repr

/-- A word of the exchange plane: its 256 bytes and which of its 16 groups of 128 bits are poisoned (rule R72). -/
abbrev XWord := Vec × BitVec 16

/-- What a claim does to local storage on its cycle (rules R49, R267 to R271, R295 to R298, R305 to R307). -/
inductive Action where
  | load (addr size : Nat) (signed : Bool) (d : BitVec 6)
  | vload (addr : Nat) (d : BitVec 6)
  | bcast (addr : Nat) (d : BitVec 6)
  | gather (ew : Nat) (addrs : List (Option Nat)) (d : BitVec 6)
  | store (addr : Nat) (data : List Byte)
  | scatter (lanes : List (Nat × List Byte))
  | step (acc : BitVec 3) (fa fb : Word32) (qa qb : BitVec 512) (A : Operand) (B : Option Operand) (latched : Rows)
  | ldb (src : Operand) (fmt : Word32)
  | scl (addr : Nat) (q : BitVec 2)
  | drain (addr : Nat) (data : List Byte)
  | xsend (addr : Nat)
  | xrecv (addr : Nat) (word : Vec) (poisoned : BitVec 16)
  | xradd (addr : Nat) (ty : RaddType) (word : Option XWord)
  deriving DecidableEq, Repr

/-- A recorded claim (rules R49, R52): the units with their user codes, and what it does. -/
structure Claim where
  due : Nat
  issued : Nat
  slot : Nat
  cba : CodeAddr
  op : Nat
  units : List (Nat × Nat)
  act : Action
  nan : Option NanInfo
  deriving DecidableEq, Repr

/-- A pending redirect (rule R246). -/
structure Redirect where
  left : Nat
  target : CodeAddr
  deriving DecidableEq, Repr

/-! ### Control state -/

/-- What holds a core in the sense of rule R34, and where the hold started. -/
inductive HoldKind where
  /-- A wait mask names a pending token (rule R125). -/
  | token
  /-- CARD.ADV or CARD.ISSUE (rule R116), with what the release has looked up. -/
  | release (p : ReleasePlan)
  | sem
  | gclk (target : Nat)
  /-- RECFL of partition scope (rule R112), with the handle. -/
  | recfl (handle : Nat)
  | fenceErr
  /-- A link instruction waits for a slot or for room at its port (rule R322). -/
  | link
  /-- A self-test of a target and unit, with its background (rule R260). -/
  | bist (target unit_ : Nat) (seed : Word)
  /-- A voltage margin of a region: the offset in steps (rule R261). -/
  | margV (region : Nat) (off : Int)
  /-- An eye sweep of a port: the port, the sweep and the dwell exponent (rule R262). -/
  | margL (port sweep dwell : Nat)
  deriving DecidableEq, Repr

/-- A hold: its kind, the fabric cycle on which it began and the earliest cycle on which it may end. -/
structure Hold where
  kind : HoldKind
  since : Nat
  till : Nat
  /-- Its end has fallen into a gated pair: it ends on the first cycle that is not gated (rule R400). -/
  late : Bool
  deriving DecidableEq, Repr

/-- Why a core is frozen (rules R364, R409). -/
inductive FreezeKind where
  | deferred | stop | debug
  deriving DecidableEq, Repr

/-- What a core is doing (rules R34, R164, R167, R253, R255, R352, R364). -/
inductive CoreMode where
  /-- Not bound to a launch. -/
  | unbound
  /-- Bound, not yet started. -/
  | bound
  | running
  /-- In the barrier wait of a PHASE.END. -/
  | barrier
  | halted
  | frozen (why : FreezeKind)
  deriving DecidableEq, Repr

/-- A fetched line: its number, its 16 words and its poison mark (rules R63, R65). -/
structure Line where
  num : Nat
  words : List Word32
  poison : Bool
  deriving DecidableEq, Repr

/-- A bundle in the loop buffer (rules R63, R218): its address, its head word and slot words, the bundle that follows it in
sequential decoding, and the loop level in whose body it was captured. -/
structure Captured where
  addr : CodeAddr
  words : List Word32
  next : CodeAddr
  level : Nat
  deriving DecidableEq, Repr

/-- The control state of a core. -/
structure Ctl where
  /-- The bundle address of the next bundle (rule R215). -/
  pc : CodeAddr
  mode : CoreMode
  hold : Option Hold
  /-- No core cycle elapses before this fabric cycle (rules R164, R167, R360, R362). -/
  wake : Nat
  /-- The model's core-cycle count, against which latencies are counted (rule R220). -/
  cc : Nat
  /-- Empty core cycles still to elapse before the next bundle (rules R210, R246). -/
  idle : Nat
  redirects : List Redirect
  /-- Exchange-phase bundles of a skipped region or loop body still to issue suppressed (rules R177, R248). -/
  redo : Nat
  lands : List Landing
  claims : List Claim
  /-- The units of G0 to G8 that core claims have used on the present fabric cycle (rules R48, R58). -/
  claimed : List Nat
  /-- The fetch buffer (rule R63). -/
  fbuf : List Line
  /-- A line has been read through the fetch port on the present fabric cycle (rule R62). -/
  fetched : Bool
  /-- The loop buffer (rules R63, R218). -/
  lbuf : List Captured
  /-- A hold of the bundle about to issue has ended, so that it issues now. -/
  passed : Bool
  /-- The target of a branch taken by the bundle now issuing (rule R245). -/
  taken : Option CodeAddr
  /-- The number of bundles that the bundle now issuing skips (rules R246, R252). -/
  skip : Option Nat
  /-- The fabric cycle on which the bundle about to issue first became due (rules R34, R362). -/
  dueAt : Option Nat
  /-- A core cycle of this core elapses on the present fabric cycle. -/
  active : Bool
  /-- A bundle has issued on the present core cycle. -/
  issued : Bool
  /-- The bundle that has issued on the present fabric cycle (rule R412). -/
  sent : Option CodeAddr
  /-- What SYS.RD of a releasing bundle read on its issue cycle (rules R11, R34, R256). -/
  rdLatch : Option Word
  deriving DecidableEq, Repr

/-! ### Traps -/

/-- The control state that a trap entry copies, and the flight records of the frozen context (rules R357, R360). -/
structure Shadow where
  rotb : Rotb
  loops : Vector Loop 6
  pairs : Vector LPair 24
  redirects : List Redirect
  redo : Nat
  lands : List Landing
  claims : List Claim
  /-- The core-cycle count at the boundary c. -/
  base : Nat
  /-- The parity on which the context resumes (rule R362). -/
  parity : Nat
  /-- The trap was taken after a bundle that holds PHASE.END: the core goes back to its barrier wait (rules R167, R254). -/
  waits : Bool
  /-- The bundle of that PHASE.END makes the barrier safe on the core's side (rule R342). -/
  safe : Bool
  /-- The idle core cycles that TEPC.IDLE has no room for (rules R254, R357). -/
  more : Nat
  /-- The words of control-page offsets 0x620 to 0x7CF as they stood (rule R359). -/
  page : List Word
  deriving DecidableEq, Repr

/-- The trap state of a core (rules R355, R356, R360, R361, R367). -/
structure TrapRegs where
  tcause : Word
  tepc : Word
  tloom : Word
  tinfo : Word
  tnan0 : Word
  tnan1 : Word
  tvec : Word
  tctl : Word
  bkpt : Vector Word 2
  wptb : Vector Word 2
  wptm : Vector Word 2
  tscr : Vector Word 8
  shadow : Option Shadow
  /-- After-issue and boundary causes that wait for their turn (rule R354). -/
  pend : List Cause
  /-- The NaN that has landed and is not yet reported (rule R369). -/
  nanPend : Option Cause
  /-- The next issue at this bundle is exempt from its breakpoint (rule R367). -/
  exempt : Option CodeAddr
  /-- TRET has issued and the handler's events are still landing (rule R255). -/
  returning : Bool
  deriving DecidableEq, Repr

/-! ### System registers and core hardware -/

/-- A trace record of four words (rule R412). -/
structure TraceRec where
  w0 : Word
  w1 : Word
  w2 : Word
  w3 : Word
  deriving DecidableEq, Repr

/-- A cached translation in a TLB: the context tag, the page and its attributes, and the in-flight counter (rules R36,
R38). -/
structure TlbEntry where
  /-- The model's own name of the entry (log entry 77). -/
  id : Nat
  tag : Nat
  va : Nat
  size : Nat
  dpa : Nat
  rd : Bool
  wr : Bool
  at_ : Bool
  cd : Bool
  nm : Bool
  /-- Invalidated while in use; it is freed when its counter falls to 0 (rules R38, R42). -/
  dying : Bool
  count : Nat
  /-- The pages of the core's release under way that it translates: they keep the entry, and an invalidation waits for them
  (rules R37, R44). -/
  pins : Nat
  /-- A stamp of its last use (rule R37). -/
  used : Nat
  deriving DecidableEq, Repr

/-- The system registers of a core that are no view of other state (rule R219), in number order. -/
structure SysRegs where
  phnum : Word
  xzero : Word
  pinfo : Word
  ctxrev : Word
  troot : Word
  tctx : Word
  tfva : Word
  tfinfo : Word
  rtbase : Word
  rtlim : Word
  deckbase : Word
  cardpos0 : Word
  cardpos1 : Word
  carderr : Word
  loinfo : Word
  loelem : Word
  bcinfo : Word
  memerr : Word
  trctl : Word
  mxacc : Vector Word 5
  mxchg : Word
  sigctl : Word
  sig : Word
  bistres : Word
  bistadr : Word
  bistxor : Word
  vmres : Word
  eye : Word
  eyeerr : Word
  deriving DecidableEq, Repr

/-- What a comparison of a self-test finds (rule R405): its number in the procedure, the bits that it sees, and whether the check that
goes with it fails: the check bits of a march, the residue of an array step, the lock of a loopback. -/
structure BistHit where
  at_ : Nat
  seen : BitVec 128
  check : Bool
  deriving DecidableEq, Repr

/-- A corrected word that waits for the write-back of its scrubber (rules R66, R68): the unit, 10 for IMEM, the word and the data as they
were read. -/
structure Fix where
  unit : Nat
  word : Nat
  data : BitVec 128
  deriving DecidableEq, Repr

/-- The rest of a core's hardware and bookkeeping. -/
structure Aux where
  /-- The self-test grant of the context (rule R259). -/
  grant : Bool
  /-- The barrier number arrived at and the arrival cycle (rules R167, R168). -/
  arrived : Option (Nat × Nat)
  /-- The arrival was at a safe point (rule R342). -/
  safe : Bool
  /-- The trigger has been posted, the cards and links it waits for, and it has been delivered (rule R153). -/
  trigger : Option (List Nat)
  delivered : Bool
  /-- INH of the bound start-vector entry (rule R158). -/
  inherits : Bool
  /-- The deck words that the engine has read since the bind, by virtual address (rule R120). -/
  deck : List (Nat × Word)
  tlb : List TlbEntry
  /-- Accounting (rules R414 to R416): the five counts, whether the array's cycles are being counted, the last cycle
  of the drain class and the class of an MX issue on this cycle. -/
  acct : Vector (BitVec 16) 5
  counting : Bool
  /-- The tag of a launch that is over while its final completion record has not been written: the counting goes on (rule R414). -/
  owed : Option Nat
  drainTo : Nat
  mxNow : Option Nat
  /-- HALT has issued: later cycles enter the totals alone (rule R416). -/
  acctOff : Bool
  /-- The loom count of the last cycle that the counts cover, and whether they close with the present cycle, since the core stops on
  it (rule R416). -/
  acctAt : Word
  acctEnd : Bool
  /-- The queue of trace records and whether one was dropped (rules R412, R413). -/
  traceQ : List TraceRec
  lost : Bool
  /-- The records dropped at this queue on the present fabric cycle (rule R413). -/
  drops : Nat
  /-- Scrubber positions of the ten units and IMEM, their pass flags, cycles to the next read, and corrected words that
  wait for their write-back (rules R58, R68, R69). -/
  scrub : Vector Nat 11
  scrubDone : BitVec 11
  scrubWait : Vector Nat 11
  fixes : List Fix
  /-- MEMERR as it stood when the present fabric cycle began: a read that clears RC fields returns and clears these values
  (rule R11). -/
  memerr0 : Word
  /-- The events of the present fabric cycle, or since SYS.RD of a releasing bundle has read, counted as a cleared MEMERR would
  count them (rule R11). -/
  memNew : Word
  /-- Hardware errors that strike the array on this cycle (rule R205). -/
  sumHits : List SumHit
  /-- What comparisons of the self-test under way have seen differ (rules R405, R406). -/
  bistHits : List BistHit
  deriving DecidableEq, Repr

/-- The local storage of a core (rules R16 to R18, R46, R66). A word is named by its address / 16. -/
structure Store where
  loc : Memory
  imem : Memory
  /-- Words of local space and of IMEM with an uncorrectable error, and with a single-bit error. -/
  bad : List Nat
  imemBad : List Nat
  soft : List Nat
  imemSoft : List Nat
  /-- IMEM lines last written by a code-load card, and lines being reloaded with the end of the reload (rule R370). -/
  codeLines : List Nat
  reload : List (Nat × Nat)
  /-- The word presented at the injection port for the next cycle, with its poison (rule R305), and the word switched
  onto the ejection port, with the loom cycle of the switch (rule R306). -/
  inject : Option XWord
  ejected : List (Nat × XWord)
  deriving DecidableEq, Repr

/-- One core. -/
structure Core where
  /-- The flat logical index (rule R5). -/
  idx : Nat
  reg : Regs
  ctl : Ctl
  trap : TrapRegs
  sys : SysRegs
  aux : Aux
  mem : Store
  deriving DecidableEq, Repr

/-! ### Reset -/

def Loop.reset : Loop := { act := false, rot := false, len := 0, start := 0, cnt := 0, stop := 0 }
def LPair.reset : LPair := { v := false, reg := 0, stride := 0 }
def Rotb.reset : Rotb := { srb := 0, vrb := 0, prb := 0, ec := 0 }

def Regs.reset : Regs :=
  { s := Vector.replicate 64 0, v := Vector.replicate 64 0, p := 0, a := Vector.replicate 8 0
    q := Vector.replicate 4 0, latch := 0, latchFmt := 0, mxcfg := 0, f := Vector.replicate 16 0
    tok := Vector.replicate 8 .idle, sem := Vector.replicate 16 0, rotb := .reset
    loops := Vector.replicate 6 .reset, pairs := Vector.replicate 24 .reset }

def Ctl.reset : Ctl :=
  { pc := 0, mode := .unbound, hold := none, wake := 0, cc := 0, idle := 0, redirects := [], redo := 0, lands := []
    claims := [], claimed := [], fbuf := [], fetched := false, lbuf := [], passed := false, taken := none, skip := none
    dueAt := none, active := false, issued := false, sent := none, rdLatch := none }

def TrapRegs.reset : TrapRegs :=
  { tcause := 0, tepc := 0, tloom := 0, tinfo := 0, tnan0 := 0, tnan1 := 0, tvec := 0, tctl := 0
    bkpt := Vector.replicate 2 0, wptb := Vector.replicate 2 0, wptm := Vector.replicate 2 0
    tscr := Vector.replicate 8 0, shadow := none, pend := [], nanPend := none, exempt := none, returning := false }

def SysRegs.reset : SysRegs :=
  { phnum := 0, xzero := 0, pinfo := 0, ctxrev := 0, troot := 0, tctx := 0, tfva := 0, tfinfo := 0, rtbase := 0
    rtlim := 0, deckbase := 0, cardpos0 := 0, cardpos1 := 0, carderr := 0, loinfo := 0, loelem := 0, bcinfo := 0
    memerr := 0, trctl := 0, mxacc := Vector.replicate 5 0, mxchg := 0, sigctl := 0, sig := 0, bistres := 0
    bistadr := 0, bistxor := 0, vmres := 0, eye := 0, eyeerr := 0 }

def Aux.reset : Aux :=
  { grant := false, arrived := none, safe := false, trigger := none, delivered := false, inherits := false, deck := [], tlb := []
    acct := Vector.replicate 5 0, counting := false, owed := none, drainTo := 0, mxNow := none, acctOff := false, acctAt := 0, acctEnd := false, traceQ := [], lost := false, drops := 0
    scrub := Vector.replicate 11 0, scrubDone := 0, scrubWait := Vector.replicate 11 0, fixes := [], memerr0 := 0, memNew := 0, sumHits := [], bistHits := [] }

def Store.reset : Store :=
  { loc := .empty, imem := .empty, bad := [], imemBad := [], soft := [], imemSoft := [], codeLines := [], reload := []
    inject := none, ejected := [] }

/-- A core after module reset (rules R70, R215). -/
def Core.reset (idx : Nat) : Core :=
  { idx := idx, reg := .reset, ctl := .reset, trap := .reset, sys := .reset, aux := .reset, mem := .reset }

end Sys2Proof.Machine
end

