-- ==== Sys2Proof/Machine/CoreOps.lean ====
section
/-! DEFINITION. The named operations on one core: bytes of memory, the register files through rotation, and the
scheduling of results and claims. -/

namespace Sys2Proof.Machine

/-! ### Bytes -/

/-- The value of bytes, the first lowest (rule R9). -/
def ofBytes : List Byte → Nat
  | [] => 0
  | b :: bs => b.toNat + 256 * ofBytes bs

/-- The `n` low bytes of a value, the lowest first (rule R9). -/
def toBytes : Nat → Nat → List Byte
  | 0, _ => []
  | n + 1, x => BitVec.ofNat 8 x :: toBytes n (x / 256)

/-- The bytes of a vector register. -/
def vecBytes (v : Vec) : List Byte := toBytes 256 v.toNat

/-- A range of bits of a word as a number: `hi` down to `lo`. -/
def bits (x : Word) (hi lo : Nat) : Nat := (x.toNat >>> lo) % 2 ^ (hi + 1 - lo)

/-- A number placed at bit `lo` of a word. -/
def atBit (x lo : Nat) : Word := BitVec.ofNat 64 x <<< lo

/-- A word with its bits `hi` down to `lo` replaced. -/
def setBits (w : Word) (hi lo x : Nat) : Word :=
  let m : Word := atBit (2 ^ (hi + 1 - lo) - 1) lo
  (w &&& ~~~m) ||| (atBit x lo &&& m)

namespace Memory

/-- One byte. -/
def read (m : Memory) (a : Nat) : Byte :=
  match m.cells.find? (fun c => c.1 == a) with
  | some c => c.2
  | none => 0

/-- `n` bytes from `a` upward. -/
def readN (m : Memory) (a n : Nat) : List Byte := (List.range n).map (fun i => m.read (a + i))

/-- A value of `n` bytes. -/
def readNat (m : Memory) (a n : Nat) : Nat := ofBytes (m.readN a n)

/-- The cells that bytes at rising addresses make: those that differ from the unlisted value. -/
def cellsOf : Nat → List Byte → List Host.Cell
  | _, [] => []
  | a, b :: bs => if b = 0 then cellsOf (a + 1) bs else (a, b) :: cellsOf (a + 1) bs

/-- Bytes written from `a` upward, in the canonical form. -/
def write (m : Memory) (a : Nat) (bs : List Byte) : Memory :=
  { cells := m.cells.filter (fun c => decide (c.1 < a)) ++ cellsOf a bs
      ++ m.cells.filter (fun c => decide (a + bs.length ≤ c.1)) }

/-- Single bytes written in the order of a list. -/
def writeAll (m : Memory) (ws : List (Nat × Byte)) : Memory := ws.foldl (fun m w => m.write w.1 [w.2]) m

end Memory

/-! ### Local addresses and units -/

/-- The canonical local address (rules R16, R17). -/
def canon (a : Nat) : Nat :=
  let a := a % 2 ^ 22
  if a < 2 ^ 21 then a else 2 ^ 21 + a % 2 ^ 18

/-- The unit code of a local address (rule R46). -/
def unitOf (a : Nat) : Nat :=
  let a := canon a
  if a < 2 ^ 21 then a / 2 ^ 18 else 8 + a / 2 ^ 17 % 2

/-- An address with its bits below the access size taken as 0 (rule R47). -/
def alignTo (a size : Nat) : Nat := a / size * size

/-! ### Register files -/

/-- The physical number of a rotating register (rule R217). -/
def physS (r : Rotb) (n : BitVec 6) : BitVec 6 :=
  if n.getLsbD 5 then 1#1 ++ (n.extractLsb' 0 5 + r.srb) else n
def physV (r : Rotb) (n : BitVec 6) : BitVec 6 :=
  if n.getLsbD 5 then 1#1 ++ (n.extractLsb' 0 5 + r.vrb) else n
def physP (r : Rotb) (n : BitVec 4) : BitVec 4 :=
  if n.getLsbD 3 then 1#1 ++ (n.extractLsb' 0 3 + r.prb) else n

namespace Regs

/-- A scalar register by its physical number; s0 reads 0 (rule R216). -/
def getS (r : Regs) (n : BitVec 6) : Word := if n = 0 then 0 else r.s[n.toNat]'n.isLt
/-- A write of a scalar register by its physical number; s0 discards it (rule R216). -/
def setS (r : Regs) (n : BitVec 6) (x : Word) : Regs :=
  if n = 0 then r else { r with s := r.s.set n.toNat x n.isLt }
def getV (r : Regs) (n : BitVec 6) : Vec := r.v[n.toNat]'n.isLt
def setV (r : Regs) (n : BitVec 6) (x : Vec) : Regs := { r with v := r.v.set n.toNat x n.isLt }
/-- A predicate by its physical number; p0 reads 1 (rule R216). -/
def getP (r : Regs) (n : BitVec 4) : Bool := n == 0 || r.p.getLsbD n.toNat
/-- A write of a predicate by its physical number; p0 discards it (rule R216). -/
def setP (r : Regs) (n : BitVec 4) (x : Bool) : Regs :=
  if n = 0 then r
  else { r with p := (r.p &&& ~~~(1#16 <<< n.toNat)) ||| (if x then 1#16 <<< n.toNat else 0) }
def getA (r : Regs) (n : BitVec 3) : Vec := r.a[n.toNat]'n.isLt
def setA (r : Regs) (n : BitVec 3) (x : Vec) : Regs := { r with a := r.a.set n.toNat x n.isLt }
def getQ (r : Regs) (n : BitVec 2) : BitVec 512 := r.q[n.toNat]'n.isLt
def setQ (r : Regs) (n : BitVec 2) (x : BitVec 512) : Regs := { r with q := r.q.set n.toNat x n.isLt }
def getF (r : Regs) (n : BitVec 4) : Word32 := r.f[n.toNat]'n.isLt
def setF (r : Regs) (n : BitVec 4) (x : Word32) : Regs := { r with f := r.f.set n.toNat x n.isLt }
def getTok (r : Regs) (k : Nat) : Tok := if h : k < 8 then r.tok[k] else .idle
def setTok (r : Regs) (k : Nat) (x : Tok) : Regs := { r with tok := r.tok.setIfInBounds k x }
def getSem (r : Regs) (m : BitVec 4) : BitVec 16 := r.sem[m.toNat]'m.isLt
def setSem (r : Regs) (m : BitVec 4) (x : BitVec 16) : Regs := { r with sem := r.sem.set m.toNat x m.isLt }
def getLoop (r : Regs) (l : Nat) : Loop := if h : l < 6 then r.loops[l] else .reset
def setLoop (r : Regs) (l : Nat) (x : Loop) : Regs := { r with loops := r.loops.setIfInBounds l x }
def getPair (r : Regs) (i : Nat) : LPair := if h : i < 24 then r.pairs[i] else .reset
def setPair (r : Regs) (i : Nat) (x : LPair) : Regs := { r with pairs := r.pairs.setIfInBounds i x }

/-- Every element of the named sets becomes +0 (rule R299). -/
def zeroSets (r : Regs) (mask : BitVec 8) : Regs :=
  { r with a := Vector.ofFn (fun (i : Fin 8) => if mask.getLsbD i then 0 else r.a[i]) }

/-- Tokens in done or error become idle (rule R317). -/
def clearToks (r : Regs) (mask : BitVec 8) : Regs :=
  { r with tok := Vector.ofFn (fun (i : Fin 8) =>
      if mask.getLsbD i && r.tok[i] != .pending then .idle else r.tok[i]) }

end Regs

namespace Core

/-- Scalar, vector and predicate operands by their logical numbers (rules R212, R217). -/
def rs (c : Core) (n : BitVec 6) : Word := c.reg.getS (physS c.reg.rotb n)
def rv (c : Core) (n : BitVec 6) : Vec := c.reg.getV (physV c.reg.rotb n)
def rp (c : Core) (n : BitVec 4) : Bool := c.reg.getP (physP c.reg.rotb n)
def rf (c : Core) (n : BitVec 4) : Word32 := c.reg.getF n

/-- The core is in exchange phase (rule R165). -/
def inX (c : Core) : Bool := c.sys.phnum.getLsbD 32
/-- The core is in trap mode (rule R355, field INTRAP). -/
def inTrap (c : Core) : Bool := c.trap.tcause.getLsbD 63
/-- The side of the core's tile, its tile, reticle, block and region (rules R4, R5, R7). -/
def side (c : Core) : Nat := c.idx % 2

/-! ### Scheduling -/

/-- An exposed result of an instruction issued now in slot `slot`, seen by consumers issued `lat` core cycles later
(rule R220). -/
def land (c : Core) (slot : Slot) (op lat : Nat) (eff : Effect) (nan : Option NanInfo := none) : Core :=
  { c with ctl := { c.ctl with lands := c.ctl.lands ++
      [{ due := c.ctl.cc + lat, issued := c.ctl.cc, slot := slot.num, cba := c.ctl.pc, op := op, eff := eff, nan := nan }] } }

/-- A claim of an instruction issued now, on the core cycle `off` later (rules R49, R52). -/
def claim (c : Core) (slot : Slot) (op off : Nat) (units : List (Nat × Nat)) (act : Action)
    (nan : Option NanInfo := none) : Core :=
  { c with ctl := { c.ctl with claims := c.ctl.claims ++
      [{ due := c.ctl.cc + off, issued := c.ctl.cc, slot := slot.num, cba := c.ctl.pc, op := op, units := units
         act := act, nan := nan }] } }

end Core

/-- The reticle, block, tile and region of a flat core index (rules R4, R5, R7). -/
def reticleOf (i : Nat) : Nat := i / 1024
def blockOf (i : Nat) : Nat := i / 64
def tileOf (i : Nat) : Nat := i / 2
def regionOfReticle (r : Nat) : Nat := r % 8 * 2 + r / 8 / 3
def regionOf (i : Nat) : Nat := regionOfReticle (reticleOf i)
/-- The logical tile coordinates (rule R5). -/
def tileX (i : Nat) : Nat := reticleOf i % 8 * 32 + i / 64 % 16 % 4 * 8 + i % 64 / 2 % 8
def tileY (i : Nat) : Nat := reticleOf i / 8 * 16 + i / 64 % 16 / 4 * 4 + i % 64 / 2 / 8

/-- The flat index of side A of the tile at (x, y). -/
def coreAt (x y : Nat) : Nat :=
  (y / 16 * 8 + x / 32) * 1024 + (y % 16 / 4 * 4 + x % 32 / 8) * 64 + (y % 4 * 8 + x % 8) * 2

/-- The next multiple of 2 at or above `n`: every hold is rounded up to an even length (rule R34). -/
def roundEven (n : Nat) : Nat := n + n % 2

end Sys2Proof.Machine
end

