-- ==== Sys2Proof/Machine/Flags.lean ====
section
/-! DEFINITION. The comparisons that set predicates, and the system registers with their access rules (rules R11, R12,
R219, R243, R256, R257). The part has no arithmetic flags (rules R183, R239). -/

namespace Sys2Proof.Machine

/-- The condition that cc names (rule R243). -/
def ccHolds (cc : BitVec 3) (a b : Word) : Bool :=
  match cc.toNat with
  | 0 => a == b
  | 1 => a != b
  | 2 => a.slt b
  | 3 => a.sle b
  | 4 => a.ult b
  | _ => a.ule b

/-! ### System registers that are views of other state -/

/-- ROTB (rule R217). -/
def Rotb.word (r : Rotb) : Word := atBit r.ec.toNat 40 ||| atBit r.srb.toNat 16 ||| atBit r.vrb.toNat 8 ||| atBit r.prb.toNat 0
/-- LOOPl (rule R218). -/
def Loop.word (l : Loop) : Word :=
  atBit l.act.toNat 63 ||| atBit l.rot.toNat 62 ||| atBit l.len.toNat 50 ||| atBit l.start.toNat 32 ||| atBit l.cnt.toNat 0
/-- LPAIRl.j (rule R218). -/
def LPair.word (p : LPair) : Word := atBit p.v.toNat 63 ||| atBit p.reg.toNat 32 ||| atBit p.stride.toNat 0

/-- The code of a token state in TOKST (rule R128). -/
def Tok.code : Tok → Nat
  | .idle => 0 | .pending => 1 | .done => 2 | .error => 3

/-- TOKST (rule R128). -/
def Regs.tokst (r : Regs) : Word := (List.range 8).foldl (fun w k => w ||| atBit (r.getTok k).code (2 * k)) 0
/-- SEMSTn (rule R133). -/
def Regs.semst (r : Regs) (n : Nat) : Word :=
  (List.range 4).foldl (fun w i => w ||| atBit (r.getSem (BitVec.ofNat 4 (4 * n + i))).toNat (16 * i)) 0

/-- What SYS.RD returns of register `n` (rules R219, R256); `arr` is ARRMODE of the tile. -/
def Core.sysRead (c : Core) (arr : Nat) (n : BitVec 12) : Word :=
  let k := n.toNat
  if 0x024 ≤ k && k ≤ 0x027 then c.reg.semst (k - 0x024)
  else if 0x048 ≤ k && k ≤ 0x04D then (c.reg.getLoop (k - 0x048)).word
  else if 0x050 ≤ k && k ≤ 0x067 then (c.reg.getPair (k - 0x050)).word
  else if 0x070 ≤ k && k ≤ 0x07F then (c.reg.getF (BitVec.ofNat 4 k)).setWidth 64
  else if 0x110 ≤ k && k ≤ 0x117 then c.trap.tscr.getD (k - 0x110) 0
  else if 0x148 ≤ k && k ≤ 0x14C then c.sys.mxacc.getD (k - 0x148) 0
  else
    match k with
    | 0x000 => c.sys.phnum | 0x001 => c.sys.xzero | 0x002 => c.sys.pinfo | 0x003 => atBit arr 0
    | 0x004 => c.sys.ctxrev | 0x010 => c.sys.troot | 0x011 => c.sys.tctx | 0x012 => c.sys.tfva
    | 0x013 => c.sys.tfinfo | 0x018 => c.sys.rtbase | 0x019 => c.sys.rtlim | 0x01A => c.sys.deckbase
    | 0x01B => c.sys.cardpos0 | 0x01C => c.sys.cardpos1 | 0x020 => c.reg.tokst | 0x021 => c.sys.carderr
    | 0x022 => c.sys.loinfo | 0x023 => c.sys.loelem | 0x030 => c.sys.bcinfo | 0x031 => c.sys.memerr
    | 0x040 => c.reg.rotb.word | 0x080 => c.reg.mxcfg
    | 0x100 => c.trap.tcause | 0x101 => c.trap.tepc | 0x102 => c.trap.tloom | 0x103 => c.trap.tinfo
    | 0x104 => c.trap.tnan0 | 0x105 => c.trap.tnan1 | 0x108 => c.trap.tvec | 0x109 => c.trap.tctl
    | 0x10C => c.trap.bkpt[0] | 0x10D => c.trap.bkpt[1]
    | 0x118 => c.trap.wptb[0] | 0x119 => c.trap.wptm[0] | 0x11A => c.trap.wptb[1] | 0x11B => c.trap.wptm[1]
    | 0x140 => c.sys.trctl | 0x14D => c.sys.mxchg | 0x150 => c.sys.sigctl | 0x151 => c.sys.sig
    | 0x200 => c.sys.bistres | 0x201 => c.sys.bistadr | 0x202 => c.sys.bistxor | 0x208 => c.sys.vmres
    | 0x210 => c.sys.eye | 0x211 => c.sys.eyeerr
    | _ => 0

/-- MEMERR as a read returns it on a cycle that began with the value `old`: its RC fields CECNT and UECNT are those of `old`,
the others those of now (rules R11, R69). -/
def rcRead (now old : Word) : Word := (now &&& 0xFF000000FFFFFFFF#64) ||| (old &&& 0x00FFFFFF00000000#64)

/-- What the read leaves of MEMERR: CECNT and UECNT hold what the events that it did not return make of cleared fields (rules R11,
R69). -/
def rcLeft (now fresh : Word) : Word := rcRead now fresh

/-- What SYS.RD of register `n` reads now (rules R11, R256). -/
def Core.sysReadNow (c : Core) (arr : Nat) (n : BitVec 12) : Word :=
  if n = 0x031 then rcRead c.sys.memerr c.aux.memerr0 else c.sysRead arr n

/-- The RC fields that a read of register `n` clears: CECNT and UECNT of MEMERR, which keep the events of the read's own cycle
(rules R11, R69). -/
def Core.sysClear (c : Core) (n : BitVec 12) : Core :=
  if n = 0x031 then
    { c with sys := { c.sys with memerr := rcLeft c.sys.memerr c.aux.memNew }, aux := { c.aux with memerr0 := rcLeft c.aux.memerr0 0 } }
  else c

/-- The RW bits of the registers that SYS.WR may name; reserved bits are not among them (rules R12, R290, R356,
R360, R361, R367, R411, R417). -/
def rwMask (n : Nat) : Word :=
  match n with
  | 0x080 => 0x0000000000FFFF0F#64
  | 0x108 => 0x800000000003FFFF#64
  | 0x109 => 1#64
  | 0x10C => 0x800000000003FFFF#64
  | 0x10D => 0x800000000003FFFF#64
  | 0x118 => 0x01FFFFFFFFFFFFFF#64
  | 0x119 => 0xF80000000000003F#64
  | 0x11A => 0x01FFFFFFFFFFFFFF#64
  | 0x11B => 0xF80000000000003F#64
  | 0x140 => 0x00000000FFFF001E#64
  | 0x150 => 1#64
  | _ => if 0x110 ≤ n && n ≤ 0x117 then BitVec.allOnes 64 else 0

/-- The effect of SYS.WR when it lands (rules R11, R257): RW fields store, the W1C field UEV of MEMERR clears where the
operand holds 1, and everything else is unchanged. -/
def Core.sysWrite (c : Core) (n : BitVec 12) (x : Word) : Core :=
  let k := n.toNat
  let y := x &&& rwMask k
  if k = 0x031 then { c with sys := { c.sys with memerr := c.sys.memerr &&& ~~~(x &&& 0x80000000#64) } }
  else if k = 0x080 then { c with reg := { c.reg with mxcfg := y } }
  else if k = 0x108 then { c with trap := { c.trap with tvec := y } }
  else if k = 0x109 then { c with trap := { c.trap with tctl := y } }
  else if k = 0x10C then { c with trap := { c.trap with bkpt := c.trap.bkpt.set 0 y } }
  else if k = 0x10D then { c with trap := { c.trap with bkpt := c.trap.bkpt.set 1 y } }
  else if 0x110 ≤ k && k ≤ 0x117 then { c with trap := { c.trap with tscr := c.trap.tscr.setIfInBounds (k - 0x110) y } }
  else if k = 0x118 then { c with trap := { c.trap with wptb := c.trap.wptb.set 0 y } }
  else if k = 0x119 then { c with trap := { c.trap with wptm := c.trap.wptm.set 0 y } }
  else if k = 0x11A then { c with trap := { c.trap with wptb := c.trap.wptb.set 1 y } }
  else if k = 0x11B then { c with trap := { c.trap with wptm := c.trap.wptm.set 1 y } }
  else if k = 0x140 then { c with sys := { c.sys with trctl := y } }
  else if k = 0x150 then { c with sys := { c.sys with sigctl := y } }
  else c

/-! ### Registers that record errors -/

/-- The first-error rule of CARDERR (rule R127): the fields describe the first error while V is 1, and COUNT counts
them all, saturating. -/
def cardErrAdd (w : Word) (op kind tok handle : Nat) : Word :=
  let n := min 0xFFFF (bits w 15 0 + 1)
  if w.getLsbD 63 then setBits w 15 0 n
  else atBit 1 63 ||| atBit op 60 ||| atBit kind 56 ||| atBit tok 53 ||| atBit handle 32 ||| atBit n 0

/-- V and COUNT are cleared on the trap entry that reports the error (rule R127). -/
def cardErrClear (w : Word) : Word := setBits (setBits w 63 63 0) 15 0 0

/-- One uncorrectable error in MEMERR (rule R69). -/
def memErrUe (w : Word) (agent : Nat) (im : Bool) (word : Nat) : Word :=
  let n := min 0xFF (bits w 39 32 + 1)
  setBits (setBits (setBits (setBits (setBits w 39 32 n) 31 31 1) 30 28 agent) 27 27 im.toNat) 21 4 word

/-- One corrected single-bit error in MEMERR (rule R69). -/
def memErrCe (w : Word) : Word := setBits w 55 40 (min 0xFFFF (bits w 55 40 + 1))

/-- An uncorrectable error, or a corrected one, is counted (rules R11, R69). -/
def Core.memUe (c : Core) (agent : Nat) (im : Bool) (word : Nat) : Core :=
  { c with
    sys := { c.sys with memerr := memErrUe c.sys.memerr agent im word }
    aux := { c.aux with memNew := memErrUe c.aux.memNew agent im word } }
def Core.memCe (c : Core) : Core :=
  { c with
    sys := { c.sys with memerr := memErrCe c.sys.memerr }, aux := { c.aux with memNew := memErrCe c.aux.memNew } }

/-- BCINFO (rule R55); FIRSTOFF saturates as a signed byte. -/
def bcWord (kind unit first second delta : Nat) (firstOff : Int) : Word :=
  let o := (max (-128) (min 127 firstOff)).emod 256 |>.toNat
  atBit kind 28 ||| atBit unit 24 ||| atBit first 20 ||| atBit second 16 ||| atBit (delta % 256) 8 ||| atBit o 0

/-- What an operation on a core reports beyond the core. -/
inductive Note where
  /-- A context loss becomes pending with this cause; the bundle address and the low field of DETAIL (rules R373,
  R375). -/
  | loss (cause : Nat) (core : Nat) (cba : CodeAddr) (val : Nat)
  /-- An entry of the module's error log: its word 1 (rule R378). -/
  | log (w1 : Word)
  deriving DecidableEq, Repr

/-- Word 1 of an error-log entry for a local or IMEM error (rule R378). -/
def logLocal (consumed : Bool) (core agent : Nat) (im : Bool) (word : Nat) : Word :=
  atBit 1 60 ||| atBit consumed.toNat 59 ||| atBit core 40 ||| atBit agent 37 ||| atBit im.toNat 36 ||| atBit (word % 2 ^ 18) 0

end Sys2Proof.Machine
end

