-- ==== Sys2Proof/Machine/Operands.lean ====
section
/-! DEFINITION. The operand forms that name local storage: their addresses, the units they claim and the placement of
matrix operands (rules R47, R49 to R51, R266, R271, R291, R295 to R298, R305). -/

namespace Sys2Proof.Machine

/-- A sign-extended immediate as a 64-bit word. -/
def sext {n : Nat} (x : BitVec n) : Word := x.signExtend 64

/-- What one slot would claim: the offset of the claim cycle, the units with user codes and the action. -/
structure Access where
  off : Nat
  units : List (Nat × Nat)
  act : Action
  nan : Option NanInfo
  deriving DecidableEq, Repr

/-! ### LM -/

/-- The RIS address, aligned to the access size (rules R47, R266). -/
def risAddr (c : Core) (o : RisOps) (size : Nat) : Nat :=
  canon (alignTo ((c.rs o.a + sext o.imm * BitVec.ofNat 64 size).toNat % 2 ^ 22) size)

/-- The address of VLDX and VSTX (rule R266). -/
def idxAddr (c : Core) (o : R3Ops) : Nat := canon (alignTo ((c.rs o.a + c.rs o.b).toNat % 2 ^ 22) 256)

/-- The element addresses of a gather or scatter, lane by lane; an inactive lane has none (rule R271). -/
def laneAddrs (c : Core) (o : R3Ops) (ew : Nat) : List (Option Nat) :=
  let ix := c.rv o.b
  let base := (c.rs o.a).toNat
  (List.range (256 / ew)).map (fun i =>
    let x := lane ix (8 * ew) i
    if x.testBit (8 * ew - 1) then none else some (canon (alignTo ((base + ew * x) % 2 ^ 22) ew)))

/-- The units that active lanes name, each once (rule R50). -/
def laneUnits (as : List (Option Nat)) : List Nat :=
  (as.filterMap id).map unitOf |>.eraseDups

def ldAccess (size : Nat) (signed : Bool) (c : Core) (o : RisOps) : Access :=
  let a := risAddr c o size
  { off := 1, units := [(unitOf a, 1)], act := .load a size signed (physS c.reg.rotb o.d), nan := none }
def stAccess (size : Nat) (c : Core) (o : RisOps) : Access :=
  let a := risAddr c o size
  { off := 1, units := [(unitOf a, 1)], act := .store a (toBytes size (c.rs o.d).toNat), nan := none }
def vldAt (a : Nat) (c : Core) (d : BitVec 6) : Access :=
  { off := 1, units := [(unitOf a, 2)], act := .vload a (physV c.reg.rotb d), nan := none }
def vstAt (a : Nat) (c : Core) (d : BitVec 6) : Access :=
  { off := 1, units := [(unitOf a, 2)], act := .store a (vecBytes (c.rv d)), nan := none }
def bcastAccess (c : Core) (o : RisOps) : Access :=
  let a := risAddr c o 4
  { off := 1, units := [(unitOf a, 12)], act := .bcast a (physV c.reg.rotb o.d), nan := none }
def gatherAccess (ew : Nat) (c : Core) (o : R3Ops) : Access :=
  let as := laneAddrs c o ew
  { off := 1, units := (laneUnits as).map (·, 3), act := .gather ew as (physV c.reg.rotb o.d), nan := none }
def scatterAccess (ew : Nat) (c : Core) (o : R3Ops) : Access :=
  let as := laneAddrs c o ew
  let v := c.rv o.d
  let ws := (List.range as.length).filterMap (fun i =>
    (as.getD i none).map (fun a => (a, toBytes ew (lane v (8 * ew) i))))
  { off := 1, units := (laneUnits as).map (·, 3), act := .scatter ws, nan := none }

/-! ### MX -/

/-- The operand that a local address and a pitch field name (rule R291). -/
def operandOf (addr pf : Nat) : Operand :=
  { base := alignTo addr 32, pitch := if pf = 0 then 96 else 32 * pf }

/-- The address of byte j of row i. -/
def Operand.addr (o : Operand) (i j : Nat) : Nat := canon (o.base + i * o.pitch + j)

/-- The units that an operand touches: a row of 96 bytes lies in the units of its first and last byte. -/
def Operand.units (o : Operand) : List Nat :=
  ((List.range 8).map (fun i => [unitOf (o.addr i 0), unitOf (o.addr i 95)])).flatten.eraseDups

/-- PA, PB, QA and QB of MXCFG (rule R290). -/
def pitchA (c : Core) : Nat := bits c.reg.mxcfg 15 8
def pitchB (c : Core) : Nat := bits c.reg.mxcfg 23 16
def scaleA (c : Core) : BitVec 512 := c.reg.getQ (c.reg.mxcfg.extractLsb' 0 2)
def scaleB (c : Core) : BitVec 512 := c.reg.getQ (c.reg.mxcfg.extractLsb' 2 2)

/-- The operands of a step (rule R295). -/
def stepA (c : Core) (a : BitVec 6) : Operand := operandOf (bits (c.rs a) 21 0) (pitchA c)
def stepB (c : Core) (a : BitVec 6) : Operand := operandOf (bits (c.rs a) 53 32) (pitchB c)

/-- The lowest unit of a list. -/
def lowest (us : List Nat) : Nat := us.foldl min (us.headD 0)

def startAccess (c : Core) (o : MsOps) : Access :=
  let A := stepA c o.a
  let B := stepB c o.a
  let fa := c.rf o.fa
  let fb := c.rf o.fb
  { off := 1, units := [(lowest A.units, 4), (lowest B.units, 5)]
    act := .step o.acc fa fb (scaleA c) (scaleB c) A (some B) 0
    nan := some { unit := 2, acc := o.acc.toNat, fa := fa, fb := fb, elem := none } }
def startLtAccess (c : Core) (o : MslOps) : Access :=
  let A := stepA c o.a
  let fa := c.rf o.fa
  let fb := c.reg.latchFmt
  { off := 1, units := [(lowest A.units, 4)]
    act := .step o.acc fa fb (scaleA c) (scaleB c) A none c.reg.latch
    nan := some { unit := 2, acc := o.acc.toNat, fa := fa, fb := fb, elem := none } }
def ldbAccess (c : Core) (o : MbOps) : Access :=
  let B := operandOf (bits (c.rs o.a) 21 0) (pitchB c)
  { off := 1, units := [(lowest B.units, 6)], act := .ldb B (c.rf o.fb), nan := none }
def sclAccess (c : Core) (o : MqOps) : Access :=
  let a := canon (alignTo (bits (c.rs o.a) 21 0) 64)
  { off := 1, units := [(unitOf a, 7)], act := .scl a o.q, nan := none }
/-- The NaN that a drain produces: the lowest element whose code is the canonical NaN of its format (rule R301). -/
def drainNan (r : Word32) (d : Vec) : Option Nat := producedNan (fmtOf r) (drainSlot r) 64 d
def drainAccess (c : Core) (o : MdOps) : Access :=
  let f := c.rf o.f
  let d := drainData f (Mode.ofCode (o.m.setWidth 2)) (c.reg.getA o.acc)
  let n := drainBytes f
  let a := canon (alignTo (bits (c.rs o.a) 21 0) n)
  { off := 10, units := [(unitOf a, 8)], act := .drain a (toBytes n d.toNat)
    nan := (drainNan f d).map (fun e => { unit := 3, acc := o.acc.toNat, fa := 3, fb := f, elem := some e }) }

/-- A placement error of a matrix operand: KIND, UNIT, FIRST and SECOND of BCINFO (rules R51, R55). -/
structure Misplaced where
  kind : Nat
  unit : Nat
  first : Nat
  second : Nat
  deriving DecidableEq, Repr

/-- The placement tests of a step in their order (rule R51); `B` is absent when it comes from the latch. -/
def placeStep (A : Operand) (B : Option Operand) : Option Misplaced :=
  if A.units.length > 1 then some { kind := 4, unit := lowest A.units, first := 0, second := 4 }
  else if 8 ≤ lowest A.units then some { kind := 2, unit := lowest A.units, first := 0, second := 4 }
  else
    match B with
    | none => none
    | some B =>
      if B.units.length > 1 then some { kind := 4, unit := lowest B.units, first := 0, second := 5 }
      else if lowest B.units = lowest A.units then
        some { kind := 3, unit := lowest A.units, first := 4, second := 5 }
      else none

/-- The placement test of MM.LDB (rule R51). -/
def placeLdb (B : Operand) : Option Misplaced :=
  if B.units.length > 1 then some { kind := 4, unit := lowest B.units, first := 0, second := 6 } else none

/-! ### XC -/

/-- The address of a word on the exchange plane (rules R230, R305). -/
def xaAddr (c : Core) (o : XaOps) : Nat :=
  canon (alignTo ((c.rs o.a + sext o.imm * 256).toNat % 2 ^ 22) 256)

def xsendAccess (c : Core) (o : XaOps) : Access :=
  let a := xaAddr c o
  { off := 1, units := [(unitOf a, 9)], act := .xsend a, nan := none }
/-- The word switched onto the core's ejection port on a fabric cycle (rule R306). -/
def ejectedAt (c : Core) (cycle : Nat) : Option XWord :=
  (c.mem.ejected.find? (fun e => e.1 == cycle)).map (·.2)
def xrecvAccess (now : Nat) (c : Core) (o : XaOps) : Access :=
  let a := xaAddr c o
  let w := (ejectedAt c (now - 2)).getD (0, 0)
  { off := 1, units := [(unitOf a, 10)], act := .xrecv a w.1 w.2, nan := none }
def xraddAccess (ty : RaddType) (now : Nat) (c : Core) (o : XaOps) : Access :=
  let a := xaAddr c o
  { off := 1, units := [(unitOf a, 11)], act := .xradd a ty (ejectedAt c (now - 2)), nan := none }

/-! ### Every claiming instruction -/

/-- The access of an instruction that claims storage, at fabric cycle `now`; the others have none (rule R49). -/
def accessOf (now : Nat) (c : Core) (i : Instr) : Option Access :=
  match i with
  | .ldI8 o => some (ldAccess 1 true c o)
  | .ldN8 o => some (ldAccess 1 false c o)
  | .ldI16 o => some (ldAccess 2 true c o)
  | .ldN16 o => some (ldAccess 2 false c o)
  | .ldI32 o => some (ldAccess 4 true c o)
  | .ldN32 o => some (ldAccess 4 false c o)
  | .ldI64 o => some (ldAccess 8 false c o)
  | .stB o => some (stAccess 1 c o)
  | .stH o => some (stAccess 2 c o)
  | .stW o => some (stAccess 4 c o)
  | .stD o => some (stAccess 8 c o)
  | .vld o => some (vldAt (risAddr c o 256) c o.d)
  | .vst o => some (vstAt (risAddr c o 256) c o.d)
  | .vldx o => some (vldAt (idxAddr c o) c o.d)
  | .vstx o => some (vstAt (idxAddr c o) c o.d)
  | .vbcastW o => some (bcastAccess c o)
  | .vgatherW o => some (gatherAccess 4 c o)
  | .vgatherH o => some (gatherAccess 2 c o)
  | .vscatterW o => some (scatterAccess 4 c o)
  | .vscatterH o => some (scatterAccess 2 c o)
  | .mmStart o => some (startAccess c o)
  | .mmStartLt o => some (startLtAccess c o)
  | .mmLdb o => some (ldbAccess c o)
  | .mmScl o => some (sclAccess c o)
  | .mmDrain o => some (drainAccess c o)
  | .xsend o => some (xsendAccess c o)
  | .xrecv o => some (xrecvAccess now c o)
  | .xraddF32 o => some (xraddAccess .f32 now c o)
  | .xraddF16 o => some (xraddAccess .f16 now c o)
  | .xraddBf16 o => some (xraddAccess .bf16 now c o)
  | .xraddI32 o => some (xraddAccess .i32 now c o)
  | _ => none

/-- The placement error of an instruction, if any (rule R51). -/
def placementOf (c : Core) (i : Instr) : Option Misplaced :=
  match i with
  | .mmStart o => placeStep (stepA c o.a) (some (stepB c o.a))
  | .mmStartLt o => placeStep (stepA c o.a) none
  | .mmLdb o => placeLdb (operandOf (bits (c.rs o.a) 21 0) (pitchB c))
  | _ => none

end Sys2Proof.Machine
end

