-- ==== Sys2Proof/Machine/Flight.lean ====
section
/-! DEFINITION. What a core has in flight: results that land (rules R220, R221, R250, R294), claims that reach local
storage (rules R49, R50, R56, R66, R67, R267 to R271, R295 to R298, R305 to R307) and the run signature of writes
(rule R417). -/

namespace Sys2Proof.Machine

/-! ### Signatures (rule R417) -/

/-- `sig_term(sp, addr, mask, val)`. -/
def sigTerm (sp addr mask : Nat) (val : Word) : Word :=
  let w0 := BitVec.ofNat 32 (addr >>> 3)
  let w1 := BitVec.ofNat 32 ((addr >>> 35) % 2 ^ 22) ||| BitVec.ofNat 32 (sp * 2 ^ 22) ||| BitVec.ofNat 32 (mask * 2 ^ 24)
  let h := fmix32 (fmix32 w0 ^^^ w1)
  let lo := fmix32 (h ^^^ val.extractLsb' 0 32)
  let hi := fmix32 (lo ^^^ val.extractLsb' 32 32)
  hi ++ lo

/-- The term of the doubleword at `d` under a set of written bytes; the last byte written at an address counts. -/
def sigDword (sp d : Nat) (ws : List (Nat × Byte)) : Word :=
  let bs := (List.range 8).map (fun i => (ws.reverse.find? (fun w => w.1 == d + i)).map (·.2))
  let mask := (List.range 8).foldl (fun m i => if (bs.getD i none).isSome then m + 2 ^ i else m) 0
  sigTerm sp d mask (BitVec.ofNat 64 (ofBytes (bs.map (·.getD 0))))

/-- The sum of the terms of the doublewords that a write touches. -/
def sigSum (sp : Nat) (ws : List (Nat × Byte)) : Word :=
  ((ws.map (fun w => alignTo w.1 8)).eraseDups).foldl (fun s d => s + sigDword sp d ws) 0

/-- Bytes paired with their rising addresses. -/
def placed : Nat → List Byte → List (Nat × Byte)
  | _, [] => []
  | a, b :: bs => (a, b) :: placed (a + 1) bs

/-- The local words under the poisoned groups of an exchange word written at an address (rules R72, R306). -/
def groupWords (a : Nat) (p : BitVec 16) : List Nat := ((List.range 16).filter (fun i => p.getLsbD i)).map (a / 16 + ·)

namespace Core

/-- A write's terms join the signature while SIGCTL[0] is 1. -/
def sign (c : Core) (sp : Nat) (ws : List (Nat × Byte)) : Core :=
  if c.sys.sigctl.getLsbD 0 then { c with sys := { c.sys with sig := c.sys.sig + sigSum sp ws } } else c

/-! ### Error checks of local words (rules R66, R67, R69, R371) -/

/-- A corrected word waits for the write-back of its scrubber, once (rules R66, R68); scrubber 10 is that of IMEM. -/
def addFix (c : Core) (u w : Nat) : Core :=
  if c.aux.fixes.any (fun f => f.unit == u && f.word == w) then c
  else
    let x := (if u = 10 then c.mem.imem else c.mem.loc).readNat (16 * w) 16
    { c with aux := { c.aux with fixes := c.aux.fixes ++ [{ unit := u, word := w, data := BitVec.ofNat 128 x }] } }

/-- Write-backs of words that an agent has written are abandoned (rule R68). -/
def dropFixes (c : Core) (im : Bool) (ws : List Nat) : Core :=
  { c with aux := { c.aux with fixes := c.aux.fixes.filter (fun f => (f.unit == 10) != im || !ws.contains f.word) } }

/-- A core claim reads word `w`: a single-bit error is corrected and queued for the scrubber, an uncorrectable error is
consumed. -/
def checkWord (cba : CodeAddr) (st : Core × List Note) (w : Nat) : Core × List Note :=
  let (c, ns) := st
  if c.mem.bad.contains w then
    let d := c.memUe 0 false w
    ({ d with sys := { d.sys with carderr := cardErrAdd d.sys.carderr 6 8 0 0 } },
     ns ++ [.log (logLocal true c.idx 0 false w), .loss 0x01 c.idx cba (unitOf (16 * w) * 2 ^ 26 + w)])
  else if c.mem.soft.contains w then
    (c.memCe.addFix (unitOf (16 * w)) w, ns)
  else st

/-- The words that a range of bytes touches. -/
def wordsOf (a n : Nat) : List Nat :=
  if n = 0 then [] else (List.range ((a + n - 1) / 16 + 1 - a / 16)).map (· + a / 16)

/-- A core claim reads a range of bytes: the bytes, whether any word was poisoned, and the consequences. -/
def claimRead (c : Core) (cba : CodeAddr) (a n : Nat) : List Byte × Bool × Core × List Note :=
  let ws := wordsOf a n
  let (c', ns) := ws.foldl (checkWord cba) (c, [])
  (c.mem.loc.readN a n, ws.any c.mem.bad.contains, c', ns)

/-- A write of bytes into local space by any agent: words covered whole take fresh check bits, or poisoned ones when
their data are poisoned, as those of the words `sick` are; a word covered in part keeps its poison, which is logged (rule R67). -/
def storeBytes (c : Core) (agent a : Nat) (bs : List Byte) (sick : List Nat) : Core × List Note :=
  let ws := wordsOf a bs.length
  let whole := ws.filter (fun w => decide (a ≤ 16 * w) && decide (16 * w + 16 ≤ a + bs.length))
  let part := ws.filter (fun w => !whole.contains w)
  let kept := c.mem.bad.filter (fun w => !whole.contains w)
  let bad := kept ++ ws.filter (fun w => sick.contains w && !kept.contains w)
  ({ c with
      mem := { c.mem with
        loc := c.mem.loc.write a bs
        bad := bad
        soft := c.mem.soft.filter (fun w => !ws.contains w) }
      aux := (c.dropFixes false ws).aux },
   (part.filter c.mem.bad.contains).map (fun w => Note.log (logLocal false c.idx agent false w)))

/-- The partial-word writes that the lanes of a scatter make in one cycle, the last one at an address counting: a poisoned word
stays poisoned whatever lanes cover it, and is logged (rules R50, R67, R271). -/
def storeScattered (c : Core) (agent : Nat) (bs : List (Nat × Byte)) : Core × List Note :=
  let ws := (bs.map (fun b => b.1 / 16)).eraseDups
  ({ c with
      mem := { c.mem with
        loc := c.mem.loc.writeAll bs, soft := c.mem.soft.filter (fun w => !ws.contains w) }
      aux := (c.dropFixes false ws).aux },
   (ws.filter c.mem.bad.contains).map (fun w => Note.log (logLocal false c.idx agent false w)))

/-- A core claim writes a range of bytes. -/
def claimWrite (c : Core) (a : Nat) (bs : List Byte) (sick : List Nat) : Core × List Note :=
  (c.sign 0 (placed a bs)).storeBytes 0 a bs sick

/-- The groups of the 256 bytes at an address that hold an uncorrectable error (rules R72, R305). -/
def badGroups (c : Core) (a : Nat) : BitVec 16 :=
  (List.range 16).foldl (fun m i => if c.mem.bad.contains (a / 16 + i) then m ||| (1#16 <<< i) else m) 0

/-- The rows of an operand, in row order (rule R291). -/
def operandRows (c : Core) (o : Operand) : Rows :=
  BitVec.ofNat 6144 (ofBytes ((List.range 768).map (fun x => c.mem.loc.read (o.addr (x / 96) (x % 96)))))

/-- A core claim reads an operand: every word that one of its bytes touches is checked once. -/
def claimRows (c : Core) (cba : CodeAddr) (o : Operand) : Rows × Core × List Note :=
  let ws := ((List.range 8).map (fun i =>
    (List.range 7).map (fun k => o.addr i (min 95 (16 * k)) / 16) ++ [o.addr i 95 / 16])).flatten.eraseDups
  let (c', ns) := ws.foldl (checkWord cba) (c, [])
  (c.operandRows o, c', ns)

end Core

/-! ### Claims -/

/-- XRADD's lanes (rule R307). -/
def xraddLanes (ty : RaddType) (old new : Vec) : Vec :=
  match ty with
  | .f32 => zipLanes 32 (fAdd .f32 .rne) old new
  | .f16 => zipLanes 16 (fAdd .f16 .rne) old new
  | .bf16 => zipLanes 16 (fAdd .bf16 .rne) old new
  | .i32 => zipLanes 32 (fun a b => (a + b) % 2 ^ 32) old new

/-- The vector of bytes. -/
def vecOf (bs : List Byte) : Vec := BitVec.ofNat 2048 (ofBytes bs)

/-- The units that a claim names. -/
def Claim.unitCodes (x : Claim) : List Nat := x.units.map (fun u => u.1)

namespace Core

/-- A result of a claim's instruction, whose value the claim has formed; it lands `lat` core cycles after issue. -/
def landOf (c : Core) (cl : Claim) (lat : Nat) (eff : Effect) (nan : Option NanInfo := none) : Core :=
  { c with ctl := { c.ctl with lands := c.ctl.lands ++
      [{ due := cl.issued + lat, issued := cl.issued, slot := cl.slot, cba := cl.cba, op := cl.op, eff := eff, nan := nan }] } }

/-- The latency of a read of a unit: one core cycle more from G8 (rules R49, R220). -/
def loadLat (unit : Nat) : Nat := if 8 ≤ unit then 5 else 4

/-- A claim reaches its storage. `sup` lists the units whose access an exchange-phase conflict suppresses: a read of
one delivers zeros and a write of one is dropped (rule R56). -/
def runClaim (c : Core) (sup : List Nat) (cl : Claim) : Core × List Note :=
  let off := fun (a : Nat) => sup.contains (unitOf a)
  match cl.act with
  | .load a n sg d =>
    let (bs, _, c', ns) := if off a then (List.replicate n 0, false, c, []) else c.claimRead cl.cba a n
    let x := ofBytes bs
    let y : Word := if sg then BitVec.ofInt 64 (sx (8 * n) x) else BitVec.ofNat 64 x
    (c'.landOf cl (loadLat (unitOf a)) (.sreg d y), ns)
  | .vload a d =>
    let (bs, _, c', ns) := if off a then ([], false, c, []) else c.claimRead cl.cba a 256
    (c'.landOf cl (loadLat (unitOf a)) (.vreg d (vecOf bs)), ns)
  | .bcast a d =>
    let (bs, _, c', ns) := if off a then ([], false, c, []) else c.claimRead cl.cba a 4
    (c'.landOf cl (loadLat (unitOf a)) (.vreg d (ofLanes 32 64 (fun _ => ofBytes bs))), ns)
  | .gather ew as d =>
    let live := as.map (fun a => a.bind (fun a => if off a then none else some a))
    let ws := ((live.filterMap id).map (· / 16)).eraseDups
    let (c', ns) := ws.foldl (checkWord cl.cba) (c, [])
    let v := ofLanes (8 * ew) (256 / ew) (fun i =>
      match live.getD i none with
      | some a => c.mem.loc.readNat a ew
      | none => 0)
    let lat := if (as.filterMap id).any (fun a => 8 ≤ unitOf a) then 5 else 4
    (c'.landOf cl lat (.vreg d v), ns)
  | .store a bs => if off a then (c, []) else c.claimWrite a bs []
  | .scatter ls =>
    let live := ((ls.filter (fun l => !off l.1)).map (fun l => placed l.1 l.2)).flatten
    (c.sign 0 live).storeScattered 0 live
  | .step acc fa fb qa qb A B latched =>
    let (ra, c1, n1) := if off (A.addr 0 0) then (0, c, []) else c.claimRows cl.cba A
    let (rb, c2, n2) :=
      match B with
      | none => (latched, c1, [])
      | some B => if off (B.addr 0 0) then (0, c1, []) else c1.claimRows cl.cba B
    (c2.landOf cl 12 (.step acc fa fb qa qb ra rb) cl.nan, n1 ++ n2)
  | .ldb B f =>
    let (rb, c', ns) := if off (B.addr 0 0) then (0, c, []) else c.claimRows cl.cba B
    (c'.landOf cl 2 (.latch rb f), ns)
  | .scl a q =>
    let (bs, _, c', ns) := if off a then ([], false, c, []) else c.claimRead cl.cba a 64
    (c'.landOf cl 6 (.scale q (BitVec.ofNat 512 (ofBytes bs))), ns)
  | .drain a bs => if off a then (c, []) else c.claimWrite a bs []
  | .xsend a =>
    let (bs, p, c', ns) := if off a then ([], false, c, []) else c.claimRead cl.cba a 256
    ({ c' with mem := { c'.mem with inject := some (vecOf bs, if p then c.badGroups a else 0) } }, ns)
  | .xrecv a w p => if off a then (c, []) else c.claimWrite a (vecBytes w) (groupWords a p)
  | .xradd a ty w =>
    match w with
    | none => (c, [])
    | some (w, p) =>
      if off a then (c, [])
      else
        let (bs, q, c1, n1) := c.claimRead cl.cba a 256
        let (c2, n2) := c1.claimWrite a (vecBytes (xraddLanes ty (vecOf bs) w)) (if p != 0 || q then wordsOf a 256 else [])
        (c2, n1 ++ n2)

/-- The rank of a user code in exchange phase (rule R56). -/
def userRank (u : Nat) : Nat :=
  if u = 10 || u = 11 then 0 else if u = 9 then 1 else if 4 ≤ u && u ≤ 8 then 2
  else if u = 2 || u = 3 || u = 12 then 3 else 4

/-- The claims on one unit among those of a cycle, in recorded order: position, user code and claim. -/
def usersOf (cls : List Claim) (unit : Nat) : List (Nat × Nat × Claim) :=
  ((List.range cls.length).zip cls).filterMap (fun p =>
    (p.2.units.find? (fun u => u.1 == unit)).map (fun u => (p.1, u.2, p.2)))

/-- The user that a unit serves: the highest rank, then the earliest recorded (rule R56). -/
def served (us : List (Nat × Nat × Claim)) : Option (Nat × Nat × Claim) :=
  us.foldl (fun best u =>
    match best with
    | none => some u
    | some b => if userRank u.2.1 < userRank b.2.1 then some u else some b) none

/-- The suppressed user that BCINFO names: the highest rank, then the latest recorded (rule R55). -/
def firstLost (us : List (Nat × Nat × Claim)) : Option (Nat × Nat × Claim) :=
  us.foldl (fun best u =>
    match best with
    | none => some u
    | some b => if userRank u.2.1 ≤ userRank b.2.1 then some u else some b) none

/-- The conflicts of a cycle's claims: for each claim the units it loses, BCINFO and what is reported (rules R55,
R56). DEDUCED, unsafe (log entry 37): where claims meet on several units of one cycle, the units are settled in ascending order,
so BCINFO keeps the details of the highest. -/
def settle (c : Core) (cls : List Claim) : List (List Nat) × Core × List Note :=
  (List.range 10).foldl (fun st unit =>
    let us := usersOf cls unit
    match served us with
    | none => st
    | some w =>
      let lost := us.filter (fun u => u.1 != w.1)
      match firstLost lost with
      | none => st
      | some l =>
        let (sups, c, ns) := st
        let sups' := ((List.range cls.length).zip sups).map (fun p =>
          if lost.any (fun u => u.1 == p.1) then unit :: p.2 else p.2)
        let bc := bcWord 1 unit w.2.1 l.2.1 (c.ctl.cc - l.2.2.issued) ((l.2.2.issued : Int) - w.2.2.issued)
        (sups', { c with sys := { c.sys with bcinfo := bc } }, ns ++ [.loss 0x05 c.idx l.2.2.cba 0]))
    (cls.map (fun _ => []), c, [])

/-- The claims of the present core cycle reach their storage (rules R49, R56). -/
def runClaims (c : Core) : Core × List Note :=
  let now := c.ctl.claims.filter (fun x => x.due == c.ctl.cc)
  let rest := c.ctl.claims.filter (fun x => x.due != c.ctl.cc)
  let c0 := { c with ctl := { c.ctl with
    claims := rest, claimed := c.ctl.claimed ++ (now.map Claim.unitCodes).flatten } }
  let (sups, c1, n1) := c0.settle now
  (now.zip sups).foldl (fun st p => let (c2, ns) := st.1.runClaim p.2 p.1; (c2, st.2 ++ ns)) (c1, n1)

/-! ### Landings -/

/-- The effect of one result on the core (rules R220, R248, R249, R250, R257, R258, R294 to R300, R317). -/
def applyEffect (c : Core) (e : Effect) : Core :=
  match e with
  | .sreg r x => { c with reg := c.reg.setS r x }
  | .vreg r x => { c with reg := c.reg.setV r x }
  | .preg r x => { c with reg := c.reg.setP r x }
  | .accZero m => { c with reg := c.reg.zeroSets m }
  | .mark => c
  | .step acc fa fb qa qb A B => { c with reg := c.reg.setA acc (matrixStep c.aux.sumHits fa fb qa qb A B (c.reg.getA acc)) }
  | .latch rows f => { c with reg := { c.reg with latch := rows, latchFmt := f } }
  | .scale q x => { c with reg := c.reg.setQ q x }
  | .fmt f x => { c with reg := c.reg.setF f x }
  | .sysw n x => c.sysWrite n x
  | .loopSet l x => { c with reg := c.reg.setLoop l.toNat x }
  | .loopPair i x => { c with reg := c.reg.setPair i x }
  | .loopEc e => { c with reg := { c.reg with rotb := { c.reg.rotb with ec := e } } }
  | .rotClr => { c with reg := { c.reg with rotb := { c.reg.rotb with srb := 0, vrb := 0, prb := 0 } } }
  | .tokClr m => { c with reg := c.reg.clearToks m }
  | .backEdge rs ls r p =>
    let g := rs.foldl (fun g w => g.setS w.2.1 w.2.2) c.reg
    let g := ls.foldl (fun g l => g.setLoop l.1 l.2) g
    let g := { g with rotb := r }
    let g := p.foldl (fun g w => g.setP w.1 w.2) g
    { c with reg := g }

/-- Whether an effect is a back-edge, which lands before every result (rule R221). -/
def isBack : Effect → Bool
  | .backEdge .. => true
  | _ => false

/-- `a` lands no later than `b` among the results of one core cycle (rule R221). -/
def landsBefore (a b : Landing) : Bool :=
  (isBack a.eff && !isBack b.eff) || ((isBack a.eff == isBack b.eff) &&
    (decide (a.issued < b.issued) || (a.issued == b.issued && decide (a.slot ≤ b.slot))))

/-- Insertion into a list that is in landing order. -/
def insertLanding (x : Landing) : List Landing → List Landing
  | [] => [x]
  | y :: ys => if landsBefore y x then y :: insertLanding x ys else x :: y :: ys

/-- The results of one core cycle in landing order. -/
def landingOrder (ls : List Landing) : List Landing := ls.foldl (fun acc x => insertLanding x acc) []

/-- TNAN0 and TNAN1 (rule R356). -/
def tnan0 (n : NanInfo) : Word := n.fa ++ n.fb
def tnan1 (idx : Nat) (n : NanInfo) (elem : Nat) : Word :=
  atBit idx 48 ||| atBit (tileX idx) 40 ||| atBit (tileY idx) 32 ||| atBit (reticleOf idx) 26
    ||| atBit (idx / 64 % 16) 22 ||| atBit (idx % 64) 16 ||| atBit n.unit 14 ||| atBit n.acc 11 ||| atBit elem 0

/-- The NaN that a result has produced once it has landed on `c`; a step's element is read from its set (rules R288,
R301). -/
def landedNan (c : Core) (l : Landing) : Option (NanInfo × Nat) :=
  match l.nan with
  | none => none
  | some n =>
    match n.elem, l.eff with
    | some e, _ => some (n, e)
    | none, .step acc .. => (nanLane 32 32 64 0x7FC00000 (c.reg.getA acc)).map (fun e => (n, e))
    | none, _ => none

/-- The cause of a NaN trap (rules R353, R369). -/
def nanCause (c : Core) (loom : Nat) (l : Landing) (n : NanInfo) (e : Nat) : Cause :=
  { code := 0x0D, sub := 0, slot := l.slot, cba := l.cba, info := 0, nan := some (tnan0 n, tnan1 c.idx n e)
    loom := some loom, key := (l.issued, l.slot) }

/-- One result lands; a NaN is recorded when NANEN is 1, none is recorded yet and the core is not in trap mode (rule
R369). -/
def landOne (loom : Nat) (c : Core) (l : Landing) : Core :=
  let c' := c.applyEffect l.eff
  match c'.landedNan l with
  | none => c'
  | some (n, e) =>
    if c'.trap.tctl.getLsbD 0 && !c'.inTrap && c'.trap.nanPend.isNone then
      { c' with trap := { c'.trap with nanPend := some (c'.nanCause loom l n e) } }
    else c'

/-- The results due on the present core cycle land (rule R221). -/
def landDue (c : Core) (loom : Nat) : Core :=
  let now := c.ctl.lands.filter (fun x => x.due == c.ctl.cc)
  let rest := c.ctl.lands.filter (fun x => x.due != c.ctl.cc)
  (landingOrder now).foldl (landOne loom) { c with ctl := { c.ctl with lands := rest } }

/-- The residue errors of the steps that land on the present core cycle: the block, the set and the element of each (rules R205,
R375). A 16-bit step has no blocks and reports 0 (log entry 93). -/
def residueErrors (c : Core) : List (Nat × Nat × Nat) :=
  if c.aux.sumHits.isEmpty then []
  else (landingOrder (c.ctl.lands.filter (fun x => x.due == c.ctl.cc))).filterMap (fun l =>
    match l.eff with
    | .step acc fa fb _ _ A B => (residueFound c.aux.sumHits fa fb A B).map (fun h => (if fmtType fa = 0 then h.block else 0, acc.toNat, h.elem))
    | _ => none)

end Core

end Sys2Proof.Machine
end

