-- ==== Sys2Proof/Machine/Bundle.lean ====
section
/-! DEFINITION. A bundle on its way to issue, as far as one core decides it: fetch (rules R62 to R65, R210), the causes
found before issue (rules R54, R172, R173, R175, R189, R202, R213, R214, R255, R265, R293, R304, R354, R361, R367),
and the choice of the next bundle (rules R246 to R251). -/

namespace Sys2Proof.Machine

/-! ### Fetch -/

namespace Core

/-- The 16 words of an IMEM line as it stands, with its poison mark (rules R62, R65). -/
def imemLine (c : Core) (n : Nat) : Line :=
  { num := n
    words := (List.range 16).map (fun i => BitVec.ofNat 32 (c.mem.imem.readNat (64 * n + 4 * i) 4))
    poison := (List.range 4).any (fun i => c.mem.imemBad.contains (4 * n + i)) }

/-- A line as fetch has it: from the fetch buffer while it stays there, else from IMEM (rule R63). -/
def lineAt (c : Core) (n : Nat) : Line :=
  match c.ctl.fbuf.find? (fun l => l.num == n) with
  | some l => l
  | none => c.imemLine n

/-- The line and the word index of a bundle address; its bits [1:0] are ignored (rule R210). -/
def lineOf (a : CodeAddr) : Nat := a.toNat / 64
def wordOf (a : CodeAddr) : Nat := a.toNat / 4 % 16

/-- The word at a bundle address. -/
def codeWord (c : Core) (a : CodeAddr) : Word32 := (c.lineAt (lineOf a)).words.getD (wordOf a) 0

/-- A bundle in the loop buffer: the body of its level holds it and the level is active (rules R63, R218). -/
def holdsBundle (c : Core) (e : Captured) : Bool :=
  let x := c.reg.getLoop e.level
  x.act && decide (x.start ≤ e.addr) && decide (e.addr ≤ x.stop)

/-- What the loop buffer holds for a bundle address. -/
def captured (c : Core) (a : CodeAddr) : Option Captured := c.ctl.lbuf.find? (fun e => e.addr == a && c.holdsBundle e)

/-- The head word of the bundle at an address, from the loop buffer when it holds the bundle (rule R63). -/
def bundleHead (c : Core) (a : CodeAddr) : Word32 := ((c.captured a).bind (·.words.head?)).getD (c.codeWord a)

/-- The head word at a bundle address, decoded. -/
def headAt (c : Core) (a : CodeAddr) : HeadForm := decodeHead (c.bundleHead a) (wordOf a)

/-- Word 0 of the next line. -/
def nextLine (a : CodeAddr) : CodeAddr := BitVec.ofNat 18 ((lineOf a + 1) * 64)

/-- The bundle due at an address comes from a poisoned line, which replaces its decoding (rules R354, R370). -/
def unsound (c : Core) (a : CodeAddr) : Bool := (c.captured a).isNone && (c.lineAt (lineOf a)).poison

/-- The first head word at or after an address that is no line end, or whose line is poisoned (rules R210, R370). After `fuel` line
ends the search stops at the last of them, and the flag says so. -/
def skipEnds (c : Core) : Nat → CodeAddr → CodeAddr × Bool
  | 0, a => (a, true)
  | k + 1, a =>
    if c.unsound a then (a, false)
    else
      match c.headAt a with
      | .lineEnd => if k = 0 then (a, true) else c.skipEnds k (nextLine a)
      | _ => (a, false)

/-- The bundle address of the bundle due at `a`, line ends skipped, and whether it is the 4,096th line end in a
row. -/
def locate (c : Core) (a : CodeAddr) : CodeAddr × Bool := c.skipEnds 4096 a

/-- The address after the head word at `a`: past the bundle or the delay, or word 0 of the next line after a malformed
head word (rules R210, R213). A replayed bundle's successor is the one captured with it (rule R63). -/
def past (c : Core) (a : CodeAddr) : CodeAddr :=
  match c.captured a with
  | some e => e.next
  | none =>
    match c.headAt a with
    | .bundle h => a + BitVec.ofNat 18 (4 * h.words)
    | .delay _ => a + 4
    | _ => nextLine a

/-- `seq(A, k)`: the k-th head word after A in sequential decoding (rule R246). -/
def seq (c : Core) : Nat → CodeAddr → CodeAddr
  | 0, a => a
  | k + 1, a => c.seq k (c.locate (c.past a)).1

/-- The address of the bundle due: line ends are skipped, unless 4,096 of them follow one another (rule R210). -/
def nextBundle (c : Core) : CodeAddr := let (a, lost) := c.locate c.ctl.pc; if lost then c.ctl.pc else a

/-- The `n` words after the head word of the bundle at an address, from the loop buffer when it holds the bundle. -/
def bundleWords (c : Core) (a : CodeAddr) (n : Nat) : List Word32 :=
  match c.captured a with
  | some e => e.words.drop 1
  | none => (List.range n).map (fun i => c.codeWord (a + BitVec.ofNat 18 (4 * (i + 1))))

/-- The innermost active level whose body holds the bundle at `a`. -/
def bodyLevel (c : Core) (a : CodeAddr) : Option Nat :=
  (List.range 6).find? (fun l =>
    let x := c.reg.getLoop l
    x.act && decide (x.start ≤ a) && decide (a ≤ x.stop))

/-- The loop buffer captures a bundle of the body of the innermost active level, when the body has at most 32 bundles
(rules R63, R218). -/
def capture (c : Core) (a : CodeAddr) (ws : List Word32) : Core :=
  match c.bodyLevel a with
  | none => c
  | some l =>
    if (c.reg.getLoop l).len.toNat ≤ 32 && (c.captured a).isNone then
      let e : Captured := { addr := a, words := ws, next := (c.locate (c.past a)).1, level := l }
      { c with ctl := { c.ctl with lbuf := (c.ctl.lbuf.filter c.holdsBundle ++ [e]).take 32 } }
    else c

/-- The fetch buffer is discarded, and the loop buffer with it (rule R63). -/
def discardFetch (c : Core) : Core := { c with ctl := { c.ctl with fbuf := [], lbuf := [] } }

/-- The four 128-bit words of an IMEM line, by number. -/
def lineWords (n : Nat) : List Nat := (List.range 4).map (4 * n + ·)

/-- The fetch port reads a line (rules R62, R65, R66, R69): a single-bit error is counted and queued for its write-back, and
an uncorrectable one is described in MEMERR. -/
def checkLine (c : Core) (n : Nat) : Core :=
  let soft := (lineWords n).filter c.mem.imemSoft.contains
  let bad := (lineWords n).filter c.mem.imemBad.contains
  let d := bad.foldl (fun c w => c.memUe 4 true w) (soft.foldl (fun c w => c.memCe.addFix 10 w) c)
  { d with ctl := { d.ctl with fetched := true } }

/-- Fetch reads a line into the buffer, which holds at most four lines from the present one upward (rule R63). -/
def fetchInto (c : Core) (n : Nat) : Core :=
  if c.ctl.fbuf.any (fun l => l.num == n) then c
  else { c.checkLine n with ctl := { (c.checkLine n).ctl with fbuf := (c.ctl.fbuf ++ [c.imemLine n]).take 4 } }

/-- Lines leave the buffer as fetch advances past them (rule R63). -/
def dropPassed (c : Core) : Core :=
  { c with ctl := { c.ctl with fbuf := c.ctl.fbuf.dropWhile (fun l => l.num != lineOf c.ctl.pc) } }

end Core

/-! ### Causes found before issue -/

/-- The phase class of an opcode (rules R172, R238, R264, R303). -/
inductive PhaseClass where
  | both | compute | exchange
  deriving DecidableEq, Repr

def phaseClass (sl : Slot) (op : Nat) : PhaseClass :=
  match sl with
  | .sa => .both
  | .sb => if 0x88 ≤ op && op != 0x90 then .compute else .both
  | .lm => .both
  | .va => .compute
  | .vm => .compute
  | .mx => .compute
  | .xc => if op ≤ 0x05 then .exchange else if op = 0x11 then .both else .compute
  | .lp => .both

/-- The opcode may issue in trap mode (rules R303, R361), and TRET only there (rule R255). -/
def trapLegal (inTrap : Bool) (sl : Slot) (op : Nat) : Bool :=
  if inTrap then
    match sl with
    | .mx => false
    | .xc => op == 0x11 || op == 0x22 || op == 0x30
    | _ => true
  else !(sl = .sb && op == 0x8A)

/-- A result's destination (rule R214). -/
inductive Dest where
  | s (n : Nat) | v (n : Nat) | p (n : Nat) | sys (n : Nat) | fmt
  deriving DecidableEq, Repr

/-- The destination that a slot word names; s0 and p0 are none (rules R214, R216). -/
def destOf (sl : Slot) (w : Word32) : Option Dest :=
  let op := (opcodeOf w).toNat
  let d := (w.extractLsb' 14 6).toNat
  let pd := (w.extractLsb' 16 4).toNat
  let sreg := if d = 0 then none else some (Dest.s d)
  let preg := if pd = 0 then none else some (Dest.p pd)
  match sl with
  | .sa => if op = 0x20 || op = 0x21 then preg else sreg
  | .sb =>
    if op = 0x20 || op = 0x21 then preg
    else if op < 0x20 || op = 0x81 || op = 0x90 then sreg
    else if op = 0x91 then some (.sys (w.extractLsb' 2 12).toNat)
    else if op = 0x92 then some .fmt
    else none
  | .lm =>
    if op ≤ 0x06 then sreg
    else if op = 0x10 || op = 0x12 || op = 0x14 || op = 0x18 || op = 0x19 then some (.v d)
    else none
  | .va => if op = 0x68 then sreg else some (.v d)
  | .vm => some (.v d)
  | .mx => if op = 0x05 then some (.sys 0x080) else none
  | .xc => if op = 0x11 then sreg else none
  | .lp => if 0x10 ≤ op then preg else none

/-- Two results have one destination (rule R214). -/
def Dest.clash : Dest → Dest → Bool
  | .fmt, .sys _ => true
  | .sys _, .fmt => true
  | a, b => a == b

namespace Core

/-- The formats that a compute-phase instruction names are legal for it (rules R189, R202, R265, R293). -/
def formatsOk (c : Core) (i : Instr) : Bool :=
  let nf := fun (f : BitVec 4) => fmtLegal (c.rf f) && fmtType (c.rf f) == 0
  match i with
  | .vcvtNfF32 o => nf o.f
  | .vcvtF32Nf o => nf o.f
  | .vcvtsNfF32 o => nf (o.f.setWidth 4)
  | .mmStart o => pairLegal (c.rf o.fa) (c.rf o.fb)
  | .mmStartLt o => pairLegal (c.rf o.fa) c.reg.latchFmt
  | .mmLdb o => fmtLegal (c.rf o.fb) && fmtType (c.rf o.fb) != 3
  | .mmDrain o => fmtLegal (c.rf o.f)
  | _ => true

/-- The encoding fault of one slot: its code, if any (rules R213, R255, R304, R361). The format test of rule R189 belongs to
compute phase: in exchange phase every instruction that names a format is phase-illegal. DESIGN CHOICE, unsafe (log entry 109): TRET
outside trap mode is an encoding fault in exchange phase too, by rule R255, where rules R173 and R238 would make it phase-illegal. -/
def slotFault (c : Core) (x : SlotWord) : Option Nat :=
  match x.dec with
  | .bad .illegalOpcode => some 0x01
  | .bad .illegalEncoding => some 0x02
  | .ok i =>
    if !trapLegal c.inTrap x.slot (opcodeOf x.word).toNat then some 0x02
    else if !c.inX && !c.formatsOk i then some 0x02
    else none

/-- The slot is outside the phase class of its instruction (rule R173). -/
def slotPhaseBad (c : Core) (x : SlotWord) : Bool :=
  match phaseClass x.slot (opcodeOf x.word).toNat with
  | .both => false
  | .compute => c.inX
  | .exchange => !c.inX

/-- The guard of a slot (rules R211, R212). -/
def guard (c : Core) (x : SlotWord) : Bool := c.rp (x.word.extractLsb' 28 4)

/-- The slots that name one destination with another slot of the bundle (rules R213, R214). -/
def clashing (xs : List SlotWord) : List Slot :=
  (xs.filter (fun x => xs.any (fun y => y.slot != x.slot &&
    match destOf x.slot x.word, destOf y.slot y.word with
    | some a, some b => a.clash b
    | _, _ => false))).map (·.slot)

/-- The slots whose destinations can be compared: those without a fault of their own. -/
def sound (c : Core) (xs : List SlotWord) : List SlotWord := xs.filter (fun x => (c.slotFault x).isNone)

/-- A cause of a bundle that has not issued. -/
def cause (c : Core) (code sub slot : Nat) (info : Word) : Cause :=
  { code := code, sub := sub, slot := slot, cba := c.ctl.pc, info := info, nan := none, loom := none, key := (0, 0) }

/-- The first encoding fault of the slots (rule R213). -/
def encodingCause (c : Core) (xs : List SlotWord) : Option Cause :=
  match xs.findSome? (fun x => (c.slotFault x).map (fun code => c.cause code 0 x.slot.num (x.word.setWidth 64))) with
  | some k => some k
  | none => if (clashing xs).isEmpty then none else some (c.cause 0x02 0 8 0)

/-- The first slot outside its phase class, or a PHASE.END that names the wrong phase (rules R167, R173). -/
def phaseCause (c : Core) (xs : List SlotWord) : Option Cause :=
  xs.findSome? (fun x =>
    if c.slotPhaseBad x then some (c.cause 0x03 1 x.slot.num 0)
    else
      match x.dec with
      | .ok (.phaseEnd o) =>
        let m := (c.rs o.a).extractLsb' 0 32
        let n := c.sys.phnum.extractLsb' 0 32
        if c.guard x && m != n then some (c.cause 0x03 2 x.slot.num (n ++ m)) else none
      | _ => none)

/-- The core may issue MX slots on a fabric cycle of this loom count (rule R175). -/
def inWindow (c : Core) (arr loom : Nat) : Bool :=
  match arr with
  | 1 => c.side == 0
  | 2 => c.side == 1
  | _ => loom % 2 == c.side

/-- An MX slot outside the core's window (rule R175). -/
def windowCause (c : Core) (arr loom : Nat) (xs : List SlotWord) : Option Cause :=
  xs.findSome? (fun x =>
    if x.slot = .mx && c.guard x && !c.inWindow arr loom then some (c.cause 0x04 0 5 (atBit (loom % 2) 0)) else none)

/-- A conflict or placement error: the cause and BCINFO (rules R51, R53, R55). -/
structure BankFault where
  slot : Slot
  bcinfo : Word
  deriving DecidableEq, Repr

/-- The claims of the slots whose guards read true. -/
def newClaims (c : Core) (now : Nat) (xs : List SlotWord) : List (Slot × Nat × List (Nat × Nat)) :=
  xs.filterMap (fun x =>
    match x.dec with
    | .ok i => if c.guard x then (accessOf now c i).map (fun a => (x.slot, a.off, a.units)) else none
    | .bad _ => none)

/-- The unit on which two claims meet: its code and their user codes. -/
def meet (earlier later : List (Nat × Nat)) : Option (Nat × Nat × Nat) :=
  later.findSome? (fun u => (earlier.find? (fun v => v.1 == u.1)).map (fun v => (u.1, v.2, u.2)))

/-- The conflict of one slot's claims: with the earliest recorded claim that they meet, else with those of the slots before it
(rule R55). -/
def conflictOf (c : Core) (before : List (Slot × Nat × List (Nat × Nat))) (x : Slot × Nat × List (Nat × Nat)) :
    Option BankFault :=
  let (sl, off, units) := x
  (c.ctl.claims.findSome? (fun k =>
    if k.due = c.ctl.cc + off then (meet k.units units).map (fun m =>
      { slot := sl, bcinfo := bcWord 1 m.1 m.2.1 m.2.2 off ((c.ctl.cc : Int) - k.issued) }) else none)).or
  (before.findSome? (fun y =>
    if y.2.1 = off then (meet y.2.2 units).map (fun m =>
      { slot := sl, bcinfo := bcWord 1 m.1 m.2.1 m.2.2 off 0 }) else none))

/-- The conflict that a bundle reports, where several claims meet others (rule R55): that of the first slot in SP order, on the first
unit in the order of its claim. DESIGN CHOICE, unsafe (log entry 103): the rule orders neither. -/
def conflicts (c : Core) : List (Slot × Nat × List (Nat × Nat)) → List (Slot × Nat × List (Nat × Nat)) → Option BankFault
  | _, [] => none
  | before, x :: xs =>
    match c.conflictOf before x with
    | some f => some f
    | none => c.conflicts (before ++ [x]) xs

/-- The placement error of the bundle, then its first conflict (rules R51, R53). -/
def bankFault (c : Core) (now : Nat) (xs : List SlotWord) : Option BankFault :=
  let place := xs.findSome? (fun x =>
    match x.dec with
    | .ok i =>
      if c.guard x then (placementOf c i).map (fun m =>
        ({ slot := x.slot, bcinfo := bcWord m.kind m.unit m.first m.second 1 0 } : BankFault)) else none
    | .bad _ => none)
  match place with
  | some f => some f
  | none => c.conflicts [] (c.newClaims now xs)

/-- A breakpoint that matches the bundle about to issue (rule R367). -/
def bkptCause (c : Core) : Option Cause :=
  if c.inX || c.inTrap || c.trap.exempt == some c.ctl.pc then none
  else
    let hit := fun (b : Word) => b.getLsbD 63 && bits b 17 2 == c.ctl.pc.toNat / 4
    if hit c.trap.bkpt[0] then some (c.cause 0x06 1 8 0)
    else if hit c.trap.bkpt[1] then some (c.cause 0x06 2 8 0)
    else none

/-- Token misuse found before issue: an idle token in the wait mask (code 1), a pending token in TOK.CLR (code 4); the
lowest token is reported, with the lower code (rule R124). -/
def tokenCause (c : Core) (wm : BitVec 8) (xs : List SlotWord) : Option Cause :=
  let clr : BitVec 8 := xs.foldl (fun m x =>
    match x.dec with
    | .ok (.tokClr o) => if c.guard x then o.mask else m
    | _ => m) 0
  (List.range 8).findSome? (fun k =>
    if wm.getLsbD k && c.reg.getTok k == .idle then some (c.cause 0x07 1 8 (atBit k 0))
    else if clr.getLsbD k && c.reg.getTok k == .pending then some (c.cause 0x07 4 6 (atBit k 0))
    else none)

/-! ### The next bundle -/

/-- What one back-edge does, on the state that the back-edges of lower levels have left (rule R250): the registers it
adds to, the new levels, the rotation, the p8 of each rotation step and whether it jumps. -/
structure Edge where
  regs : Regs
  writes : List (Nat × BitVec 6 × Word)
  levels : List (Nat × Loop)
  p8 : List (BitVec 4 × Bool)
  jump : Option CodeAddr
  exits : Bool
  deriving DecidableEq, Repr

/-- The stride-adds of level l, pair j upward (rule R250). -/
def strideAdds (l : Nat) : Nat → Nat → Edge → Edge
  | 0, _, e => e
  | k + 1, j, e =>
    let p := e.regs.getPair (4 * l + j)
    let e' :=
      if p.v then
        let n := physS e.regs.rotb p.reg
        let x := e.regs.getS n + sext p.stride
        { e with regs := e.regs.setS n x, writes := e.writes ++ [(4 * l + j, n, x)] }
      else e
    strideAdds l k (j + 1) e'

/-- `back_edge(l)` (rule R250). -/
def backEdge (l : Nat) (e0 : Edge) : Edge :=
  let e := strideAdds l 4 0 e0
  let lp := e.regs.getLoop l
  let more := decide (1 < lp.cnt.toNat)
  let again := more || (lp.rot && decide (0 < e.regs.rotb.ec.toNat))
  let lp' : Loop :=
    if more then { lp with cnt := lp.cnt - 1 }
    else if again then lp
    else { lp with cnt := 0, act := false }
  let e := { e with
    regs := e.regs.setLoop l lp', levels := e.levels ++ [(l, lp')]
    jump := if again then some lp.start else none, exits := e.exits || !again }
  if lp.rot then
    let r := e.regs.rotb
    let ec := if more then r.ec else if again then r.ec - 1 else r.ec
    let r' : Rotb := { srb := r.srb - 1, vrb := r.vrb - 1, prb := r.prb - 1, ec := ec }
    let n := physP r' 8
    { e with regs := { e.regs with rotb := r' }.setP n more, p8 := e.p8 ++ [(n, more)] }
  else e

/-- The levels whose END is `a`, in ascending order, until one jumps (rules R246, R250). -/
def backEdges (a : CodeAddr) : List Nat → Edge → Edge
  | [], e => e
  | l :: ls, e =>
    let lp := e.regs.getLoop l
    if lp.act && lp.stop == a then
      let e' := backEdge l e
      if e'.jump.isSome then e' else backEdges a ls e'
    else backEdges a ls e

/-- The back-edges of the bundle at `a` on the state as read on its issue cycle. -/
def edgesAt (c : Core) (a : CodeAddr) : Edge :=
  backEdges a (List.range 6) { regs := c.reg, writes := [], levels := [], p8 := [], jump := none, exits := false }

/-- Every pending redirect counts one bundle. -/
def countDown (rs : List Redirect) : List Redirect := rs.map (fun r => { r with left := r.left - 1 })

/-- `next_address` after the bundle at the pc has issued (rule R246): back-edges unless the bundle was suppressed, the
redirect that falls due, and a branch taken by the bundle. `len` empty cycles of the bundle follow, and one more when
a region or body is skipped. A skip that a back-edge or a redirect overrides declares nothing (rule R252). Bundles of a skipped
region or body that come due in exchange phase, behind PHASE.END too, issue suppressed (rules R177, R248). A level that exits
gives up what the loop buffer holds for it (rule R63). -/
def advance (c : Core) (suppressed : Bool) (len : Nat) : Core :=
  let a := c.ctl.pc
  let e := if suppressed then { regs := c.reg, writes := [], levels := [], p8 := [], jump := none, exits := false }
    else c.edgesAt a
  let rs := countDown c.ctl.redirects
  let due := rs.find? (fun r => r.left == 0)
  let rest := rs.filter (fun r => r.left != 0)
  let new := match c.ctl.taken with | none => [] | some t => [{ left := 2, target := t : Redirect }]
  let plain := due.isNone && e.jump.isNone
  let later := c.inX || c.ctl.mode == .barrier
  let skipped := if plain && !later then c.ctl.skip else none
  let pc' :=
    match due, e.jump, skipped with
    | some r, _, _ => r.target
    | none, some t, _ => t
    | none, none, some n => c.seq (n + 1) a
    | none, none, none => c.past a
  let edge : List Landing :=
    if e.levels.isEmpty then []
    else [{ due := c.ctl.cc + 1, issued := c.ctl.cc, slot := 0, cba := a, op := 0
            eff := .backEdge e.writes e.levels e.regs.rotb e.p8, nan := none }]
  let redo := if due.isSome then 0 else if c.ctl.redo > 0 then c.ctl.redo - 1
    else if plain && later then c.ctl.skip.getD 0 else 0
  let c' := { c with ctl := { c.ctl with
    pc := pc', idle := len + (if skipped.isSome then 1 else 0), redirects := rest ++ new, redo := redo
    lands := c.ctl.lands ++ edge
    lbuf := c.ctl.lbuf.filter (fun x => !e.exits || !e.levels.any (fun l => l.1 == x.level && !l.2.act))
    taken := none, skip := none, passed := false, dueAt := none, rdLatch := none, issued := true, sent := some a } }
  if due.isSome then c'.discardFetch else c'.dropPassed

end Core

end Sys2Proof.Machine
end

