-- ==== Sys2Proof/Machine/ControlPage.lean ====
section
/-! DEFINITION. The control page, in which a context image, the trap shadow and the core's management window present the
control state of a core (rules R349, R359). -/

namespace Sys2Proof.Machine

/-- 64 bits of a wider value. -/
def word64 {n : Nat} (x : BitVec n) (j : Nat) : Word := x.extractLsb' (64 * j) 64
/-- A wider value with 64 of its bits replaced. -/
def putWord64 {n : Nat} (x : BitVec n) (j : Nat) (w : Word) : BitVec n :=
  (x &&& ~~~((BitVec.allOnes 64).setWidth n <<< (64 * j))) ||| (w.setWidth n <<< (64 * j))

def Loop.ofWord (w : Word) (stop : CodeAddr) : Loop :=
  { act := w.getLsbD 63, rot := w.getLsbD 62, len := w.extractLsb' 50 8, start := w.extractLsb' 32 18
    cnt := w.extractLsb' 0 32, stop := stop }
def LPair.ofWord (w : Word) : LPair := { v := w.getLsbD 63, reg := w.extractLsb' 32 6, stride := w.extractLsb' 0 32 }
def Rotb.ofWord (w : Word) : Rotb :=
  { ec := w.extractLsb' 40 8, srb := w.extractLsb' 16 5, vrb := w.extractLsb' 8 5, prb := w.extractLsb' 0 3 }
def Tok.ofCode (n : Nat) : Tok := match n with | 0 => .idle | 1 => .pending | 2 => .done | _ => .error

/-- A pending redirect as a word of the control page (rule R349). -/
def Redirect.word (r : Redirect) : Word := atBit 1 63 ||| atBit r.left 32 ||| atBit r.target.toNat 0
def Redirect.ofWord (w : Word) : Option Redirect :=
  if w.getLsbD 63 then some { left := bits w 33 32, target := w.extractLsb' 0 18 } else none
def redirectWord (rs : List Redirect) (i : Nat) : Word := match rs[i]? with | some r => r.word | none => 0

/-- The END addresses of levels 3w to 3w + 2 (rule R349). -/
def loopEnds (ls : Vector Loop 6) (w : Nat) : Word :=
  (List.range 3).foldl (fun x i => x ||| atBit (ls.getD (3 * w + i) .reset).stop.toNat (18 * i)) 0

namespace Core

/-- A word of the control page (rule R349; 0x7D0 to 0x7EF by rules R356, R360 and R417). -/
def ctlWord (c : Core) (k : Nat) : Word :=
  if k < 0x200 then if k = 0 then 0 else c.reg.s.getD (k / 8) 0
  else if k < 0x300 then word64 (c.reg.q.getD ((k - 0x200) / 64) 0) ((k - 0x200) % 64 / 8)
  else if k < 0x600 then word64 c.reg.latch ((k - 0x300) / 8)
  else if 0x630 ≤ k && k < 0x650 then c.reg.semst ((k - 0x630) / 8)
  else if 0x680 ≤ k && k < 0x6C0 then
    (c.reg.f.getD ((k - 0x680) / 4) 0).setWidth 64 ||| ((c.reg.f.getD ((k - 0x680) / 4 + 1) 0).setWidth 64 <<< 32)
  else if 0x6C0 ≤ k && k < 0x6F0 then (c.reg.getLoop ((k - 0x6C0) / 8)).word
  else if 0x6F0 ≤ k && k < 0x700 then loopEnds c.reg.loops ((k - 0x6F0) / 8)
  else if 0x700 ≤ k && k < 0x7C0 then (c.reg.getPair ((k - 0x700) / 8)).word
  else
    match k with
    | 0x600 => c.reg.latchFmt.setWidth 64
    | 0x608 => (c.reg.p ||| 1).setWidth 64
    | 0x610 => c.reg.tokst
    | 0x618 => c.sys.carderr
    | 0x620 => c.sys.cardpos0
    | 0x628 => c.sys.cardpos1
    | 0x650 => c.sys.phnum
    | 0x658 => c.sys.xzero
    | 0x660 => c.reg.rotb.word
    | 0x668 => c.reg.mxcfg
    | 0x670 => atBit (c.ctl.mode == .halted).toNat 0 ||| atBit c.aux.trigger.isSome.toNat 1
    | 0x678 => c.ctl.pc.setWidth 64
    | 0x7C0 => redirectWord c.ctl.redirects 0
    | 0x7C8 => redirectWord c.ctl.redirects 1
    | 0x7D0 => c.trap.tvec
    | 0x7D8 => c.trap.tctl
    | 0x7E0 => c.sys.sig
    | 0x7E8 => c.sys.sigctl
    | _ => 0

/-- Bits of a format register that are not reserved (rule R188). -/
def fmtBits : Word32 := 0x07FFFFC7

/-- A core with a word of its control page written; reserved bits stay 0 (rule R12). -/
def putCtlWord (c : Core) (k : Nat) (w : Word) : Core :=
  let reg := fun (r : Regs) => { c with reg := r }
  let lo := fun (n : Nat) => w.extractLsb' 0 n
  if k < 0x200 then reg (c.reg.setS (BitVec.ofNat 6 (k / 8)) w)
  else if k < 0x300 then
    let i := (k - 0x200) / 64
    reg { c.reg with q := c.reg.q.setIfInBounds i (putWord64 (c.reg.q.getD i 0) ((k - 0x200) % 64 / 8) w) }
  else if k < 0x600 then reg { c.reg with latch := putWord64 c.reg.latch ((k - 0x300) / 8) w }
  else if 0x630 ≤ k && k < 0x650 then
    reg ((List.range 4).foldl (fun r i =>
      { r with sem := r.sem.setIfInBounds ((k - 0x630) / 2 + i) (w.extractLsb' (16 * i) 16) }) c.reg)
  else if 0x680 ≤ k && k < 0x6C0 then
    let i := (k - 0x680) / 4
    reg { c.reg with f := (c.reg.f.setIfInBounds i (lo 32 &&& fmtBits)).setIfInBounds (i + 1) (w.extractLsb' 32 32 &&& fmtBits) }
  else if 0x6C0 ≤ k && k < 0x6F0 then
    let i := (k - 0x6C0) / 8
    reg (c.reg.setLoop i (Loop.ofWord w (c.reg.getLoop i).stop))
  else if 0x6F0 ≤ k && k < 0x700 then
    let j := (k - 0x6F0) / 8
    reg ((List.range 3).foldl (fun r i =>
      r.setLoop (3 * j + i) { r.getLoop (3 * j + i) with stop := w.extractLsb' (18 * i) 18 }) c.reg)
  else if 0x700 ≤ k && k < 0x7C0 then reg (c.reg.setPair ((k - 0x700) / 8) (LPair.ofWord w))
  else
    match k with
    | 0x600 => reg { c.reg with latchFmt := lo 32 }
    | 0x608 => reg { c.reg with p := lo 16 }
    | 0x610 => reg ((List.range 8).foldl (fun r i => r.setTok i (Tok.ofCode (bits w (2 * i + 1) (2 * i)))) c.reg)
    | 0x618 => { c with sys := { c.sys with carderr := w &&& 0xFFE0FFFF0000FFFF#64 } }
    | 0x620 => { c with sys := { c.sys with cardpos0 := w &&& 0xFFFFFFFF0001FFFF#64 } }
    | 0x628 => { c with sys := { c.sys with cardpos1 := w } }
    | 0x650 => { c with sys := { c.sys with phnum := lo 33 |>.setWidth 64 } }
    | 0x658 => { c with sys := { c.sys with xzero := w } }
    | 0x660 => reg { c.reg with rotb := Rotb.ofWord w }
    | 0x668 => reg { c.reg with mxcfg := w &&& rwMask 0x080 }
    | 0x670 => { c with aux := { c.aux with
        trigger := if w.getLsbD 1 then some (c.aux.trigger.getD []) else none } }
    | 0x678 => { c with ctl := { c.ctl with pc := lo 18 } }
    | 0x7C0 => { c with ctl := { c.ctl with redirects := (Redirect.ofWord w).toList ++ c.ctl.redirects.drop 1 } }
    | 0x7C8 => { c with ctl := { c.ctl with redirects := c.ctl.redirects.take 1 ++ (Redirect.ofWord w).toList } }
    | 0x7D0 => { c with trap := { c.trap with tvec := w &&& rwMask 0x108 } }
    | 0x7D8 => { c with trap := { c.trap with tctl := w &&& rwMask 0x109 } }
    | 0x7E0 => { c with sys := { c.sys with sig := w } }
    | 0x7E8 => { c with sys := { c.sys with sigctl := w &&& rwMask 0x150 } }
    | _ => c

end Core

end Sys2Proof.Machine
end

