-- ==== Sys2Proof/Config.lean ====
section
/-! DEFINITION. What the spec leaves open, as constants without a body: nothing in Lean can evaluate them or prove a
value of them, so a statement holds whatever they are. -/

namespace Sys2Proof.Config

/-- The free values: the n-th open pick of a run, where the spec names a result, a time or an order and does not fix
it. The argument is the state's counter `seed` (log entry 3). -/
opaque freeNat : Nat → Nat

/-- This module's number in its load-store domain, taken modulo 64 (rule R24). -/
opaque moduleNumber : Nat

/-- The nominal supply of a region in mV (rules R401, R407). -/
opaque nominalMv : Nat

/-- The ranges of offsets that a peer module backs, by module number and tier (rule R23). -/
opaque peerRanges : Nat → Nat → List (Nat × Nat)

/-- The cycles a message takes over a selvedge, in either direction: the reticle on its north or west side, and its selvedge there (rules
R380, R381). -/
opaque selvedgeDelay : Nat → Nat → Nat

/-- How many cycles after the module a reticle reaches power-good, taken modulo 160,001: at most 100 µs (rule R379). -/
opaque bootSkew : Nat → Nat

/-- B1 finds a reticle's ROM sound (rule R379). -/
opaque romSound : Nat → Bool

/-- B1's self-test finds the tile at a reticle, block, row and physical column defective (rules R379, R389). -/
opaque selfTestFails : Nat → Nat → Nat → Nat → Bool

/-- Verification of a signature by a public key over a message, under Ed25519 and under ML-DSA-65 (rule R2). -/
opaque ed25519 : List Byte → List Byte → List Byte → Bool
opaque mldsa65 : List Byte → List Byte → List Byte → Bool

/-- The signatures of the module identity key over a message (rules R2, R396): 64 and 3,309 bytes are taken of them. -/
opaque signEd25519 : List Byte → List Byte
opaque signMldsa65 : List Byte → List Byte

/-- SHA3-256 (rule R396). -/
opaque sha3 : List Byte → BitVec 256

/-- The bytes of the module identity key's public halves, by offset from 0x7400 (rule R396). -/
opaque identityKey : Nat → Byte

/-- Which bundle of an image's code the placement service finds to issue a receive, by the image's address, the core's relative index,
the phase code and the cycle offset: its address and that of the bundle before it (rule R394). -/
opaque receiveOf : Nat → Nat → Nat → Nat → Option (Nat × Nat)

/-- A branch to an address in a register leads, in a core's code of an image, to the bundle at an address (rules R245, R394). -/
opaque indirectTarget : Nat → Nat → Nat → Bool

/-- The claim of a receive moved by so many cycles meets another claim of its core (rules R56, R394). -/
opaque movedClaimMeets : Nat → Nat → Nat → Nat → Nat → Bool

/-- The check code of a checkpoint header over given bytes (rule R94). -/
opaque headerCheck : List Byte → Word

end Sys2Proof.Config
end

