-- ==== Sys2Proof/Machine/WaferState.lean ====
section
/-! DEFINITION. The state of tiles, the exchange plane, the loom copies, the shuttle slot maps, and of launch scheduling:
images, partitions, queues and dependence counters. -/

namespace Sys2Proof.Machine

/-! ### Tiles and the exchange plane (rules R71 to R80, R174) -/

/-- A sparse table of words by index, in ascending order; an unlisted entry is 0. -/
abbrev Table := List (Nat × Word)

/-- One tile: its router's tables and counters, and the array mode. -/
structure Tile where
  /-- The tile's number: flat core index of side A / 2. -/
  idx : Nat
  htab : Table
  hdir : Table
  xstat : Word
  arrmode : Nat
  /-- DLY.PAD and the detour of a borrowed router (rules R388, R392). -/
  pad : Nat
  detour : Nat
  deriving DecidableEq, Repr

def Tile.reset (i : Nat) : Tile := { idx := i, htab := [], hdir := [], xstat := 0, arrmode := 0, pad := 0, detour := 0 }

/-- A word on its way over a link: the tile and input port it arrives at, the fabric cycle of its arrival, the tile that
sent it, and its data with the poison mark (rules R72, R73). -/
structure Flit where
  tile : Nat
  port : Nat
  arrive : Nat
  sender : Nat
  word : Vec
  /-- The groups that are poisoned (rule R72). -/
  poison : BitVec 16
  deriving DecidableEq, Repr

/-- An error on the link into a router's port (rule R72): the group that it strikes, whether it is uncorrectable, and the bits that it
changes. -/
structure FlitHit where
  tile : Nat
  port : Nat
  group : Nat
  double : Bool
  flip : BitVec 128
  deriving DecidableEq, Repr

/-- A loom sample on its way (rule R82): the receiving reticle and its selvedge, the fabric cycle of its arrival, and the sender's
count. -/
structure Sample where
  ret : Nat
  sel : Nat
  arrive : Nat
  count : Word
  deriving DecidableEq, Repr

/-- What a hit shuttle flit belongs to (rule R89): a card or link instruction, a trace record, or a window access. -/
inductive ShuttleHit where
  | work (id : Nat)
  | trace
  | management
  deriving DecidableEq, Repr

/-! ### Pending losses (rules R373 to R376) -/

/-- A detected error that will lose a context: its cause, the core (0xFFFF when none), the bundle address, the value of
DETAIL[29:0], the loom cycle on which it was detected and the superstep. -/
structure Loss where
  cause : Nat
  core : Nat
  cba : Nat
  val : Nat
  loom : Nat
  step : Nat
  /-- The event fell in an exchange phase (rule R373). -/
  inX : Bool
  deriving DecidableEq, Repr

/-! ### Launch scheduling -/

/-- A loaded image: its handle, where its bytes stand in class 0x0, its size and its shape (rules R156, R327). -/
structure Image where
  handle : Nat
  dpa : Nat
  size : Nat
  rev : Nat
  pwid : Nat
  pht : Nat
  deriving DecidableEq, Repr

/-- One entry of a phase table (rule R166). -/
structure PhaseEntry where
  xlen : Nat
  pcode : Nat
  budget : Nat
  deriving DecidableEq, Repr

/-- The launch record as the sequencer read it: the slot it stood in and its 16 words (rule R332). -/
structure Launch where
  queue : Nat
  slot : Nat
  words : List Word
  sseq : Nat
  deriving DecidableEq, Repr

/-- What a bound context is doing (rules R164, R336, R343, R345). -/
inductive Stage where
  /-- Clearing, loads and the phase table; not over before the given fabric cycle. -/
  | binding (till : Nat)
  /-- The restore of a resumed context. -/
  | restoring (till : Nat)
  /-- Bound; some wait is not closed. -/
  | waiting
  /-- S0 has been chosen and the regions start on their own cycles. -/
  | starting
  | running
  /-- At a safe barrier with a pre-emption acted on: cards are ending, then the image is written. -/
  | draining
  | saving (till : Nat)
  /-- A loss has taken effect: no core issues again, and cards and link instructions are ending (rule R374). -/
  | lost
  deriving DecidableEq, Repr

/-- A context bound to a partition. -/
structure Context where
  tag : Nat
  launch : Launch
  image : Image
  stage : Stage
  phases : List PhaseEntry
  /-- S_r of every region that has not started yet, and the latest S_r of all, as fabric cycles (rules R164, R171). -/
  starts : List (Nat × Nat)
  lastStart : Nat
  /-- The open barrier, the latest arrival, the end of a loom repair at this barrier (0 none), and X0 once it is fixed, as
  fabric cycles (rule R168). -/
  step : Nat
  lastArrival : Nat
  repairEnd : Nat
  x0 : Option Nat
  /-- The exchange phase under way: its X0 as a fabric cycle, its length and its phase code. -/
  xphase : Option (Nat × Nat × Nat)
  /-- The start of the open compute phase and the cycles by which stops have moved its deadline (rules R171, R364). -/
  start : Nat
  moved : Nat
  /-- The straggler event of the open barrier has fired, and a loss was pending then (rules R171, R373). -/
  fired : Bool
  cut : Bool
  /-- The signalling launch's TRG has been counted (rule R335). -/
  trgDone : Bool
  /-- Cycle on which its code began or resumed, and whether its quantum has brought a request since (rule R340). -/
  began : Option Nat
  asked : Bool
  losses : List Loss
  /-- The 128 KiB blocks that will be retired if the context is lost (rule R374). -/
  badBlocks : List Nat
  /-- The cores whose stage 0 the sequencer has still to release early (rule R155). -/
  early : List Nat
  deriving DecidableEq, Repr

/-- A resume entry and the context image it stands for (rules R343, R345): where the image lies in the context area. -/
structure Saved where
  queue : Nat
  tag : Nat
  launch : Launch
  image : Image
  step : Nat
  pwid : Nat
  pht : Nat
  /-- The partition on which it was saved (rule R155), and the blocks that will be retired if the context is lost (rule R374). -/
  part : Nat
  badBlocks : List Nat
  /-- First area page and the number of pages (rule R344). -/
  page : Nat
  pages : Nat
  /-- The save has ended and the queue holds the entry. -/
  ready : Bool
  /-- The poison marks of saved words and the lines that code-load cards wrote, each with the core's relative index (rules
  R343, R370). -/
  bad : List (Nat × Nat)
  imemBad : List (Nat × Nat)
  codeLines : List (Nat × Nat)
  deriving DecidableEq, Repr

/-- One sequencer: the partition whose top-left region has its number. -/
structure Part where
  pdef : Word
  preq : Word
  pbar : Word
  pstart : Word
  tstop : Word
  dstop : Word
  psig : Word
  last : Vector Nat 8
  sseq : Nat
  /-- The dependence counter this partition is marked for (rule R336). -/
  marked : Option Nat
  /-- The selected candidate that is to be bound, and whether it is a resume entry (rule R338). -/
  chosen : Option (Launch × Bool)
  ctx : Option Context
  /-- The first and last cycles of the exchange phases that have ended, as far back as a round's window may reach (rule R85). -/
  past : List (Nat × Nat)
  deriving DecidableEq, Repr

def Part.reset : Part :=
  { pdef := 0, preq := 0, pbar := 0, pstart := 0, tstop := 0, dstop := 0, psig := 0
    last := Vector.replicate 8 0, sseq := 0, marked := none, chosen := none, ctx := none, past := [] }

/-- What stands at a queue's head (rule R333). -/
inductive HeadRec where
  | unread
  /-- The record has been read and has passed checks 1 to 3. -/
  | read (words : List Word)
  /-- The record has passed every check. -/
  | checked (words : List Word)
  deriving DecidableEq, Repr

/-- A completion record that waits for a free slot (rule R331). A final record of a context names the tag and the image
that the context holds until it is written (rules R40, R328); 0 names none. The counter is the one whose END counts when DONE is
written (rule R335). -/
structure PendingRec where
  words : List Word
  tag : Nat
  image : Nat
  counter : Option Nat
  deriving DecidableEq, Repr

/-- One host queue (rule R330). -/
structure Queue where
  qcfg : Word
  qbase : Word
  qcbase : Word
  qtail : Word
  qhead : Word
  qctail : Word
  qchead : Word
  qstat : Word
  head : HeadRec
  /-- PRI has been written since the last selection (rule R338). -/
  changed : Bool
  /-- Completion records that wait for a free slot (rule R331). -/
  pending : List PendingRec
  deriving DecidableEq, Repr

def Queue.reset : Queue :=
  { qcfg := 0, qbase := 0, qcbase := 0, qtail := 0, qhead := 0, qctail := 0, qchead := 0, qstat := 0
    head := .unread, changed := false, pending := [] }

/-- Launch scheduling of the module (rules R327 to R345). -/
structure Sched where
  imgcmd : Word
  imgarg : Word
  imgsize : Word
  imgst : Word
  images : List Image
  /-- The end of the image operation under way, and its outcome in IMGST. -/
  imgEnd : Option Nat
  quant : Vector Word 8
  ctxarea : Word
  queues : Vector Queue 64
  dtrg : Vector Word 256
  dend : Vector Word 256
  /-- The partitions of the launches that have counted in a counter's TRG since system software last wrote it (rule R155). -/
  dsrc : Vector (List Nat) 256
  saved : List Saved
  /-- Tags in use: by a context, or until the last translation entry of an ended one disappears (rule R40). -/
  tags : List Nat
  deriving DecidableEq, Repr

def Sched.reset : Sched :=
  { imgcmd := 0, imgarg := 0, imgsize := 0, imgst := 0, images := [], imgEnd := none
    quant := Vector.replicate 8 0, ctxarea := 0, queues := Vector.replicate 64 .reset
    dtrg := Vector.replicate 256 0, dend := Vector.replicate 256 0, dsrc := Vector.replicate 256 [], saved := [], tags := [] }

end Sys2Proof.Machine
end

