-- ==== Sys2Proof/Machine/MemState.lean ====
section
/-! DEFINITION. The state of the memory system: record caches, cards and link transfers in flight, translation caches and
the module registers of the memory tiers. -/

namespace Sys2Proof.Machine

/-- One entry of a record cache: 24 words of the record (rules R99, R112). -/
structure RecEntry where
  tag : Nat
  handle : Nat
  words : List Word
  used : Nat
  deriving DecidableEq, Repr

/-- The shuttle engine of one block (rules R96, R112). -/
structure Block where
  idx : Nat
  recs : List RecEntry
  deriving DecidableEq, Repr

/-- A leaf in a reticle's translation cache (rule R36). -/
structure CacheLeaf where
  tag : Nat
  va : Nat
  size : Nat
  dpa : Nat
  perms : Nat
  used : Nat
  deriving DecidableEq, Repr

/-- The operation of a card (rule R115). -/
inductive CardOp where
  | read | write | atomic | code | weft
  deriving DecidableEq, Repr

/-- Where a byte that a card writes comes from (rules R103 to R108). -/
inductive ByteSrc where
  /-- An off-wafer byte that the engine has read, or what an atomic unit returned (`retKey`). -/
  | mem (key : Nat)
  /-- FILL stands for it. -/
  | fill (b : Byte)
  /-- A byte of dense unit `i` of a group (rules R61, R108): where its metadata byte and that byte of its two stored units
  lie. -/
  | pair (md i first second : Nat)
  deriving DecidableEq, Repr

/-- One byte of a card's work: its source and its local byte. -/
structure ByteMove where
  src : ByteSrc
  loc : Nat
  deriving DecidableEq, Repr

/-- One unit of an atomic card: the home bytes, the image position of its operand, and the first byte of the return image that it
fills (rules R130, R131). -/
structure AtomUnit where
  dpa : Nat
  va : Nat
  size : Nat
  loc : Nat
  ret : Option Nat
  deriving DecidableEq, Repr

/-- One indivisible piece of a card's work (rules R97, R107, R131). -/
inductive Granule where
  /-- The bytes that the card needs of one off-wafer granule are read, once, into the engine. -/
  | fetch (dpas : List Nat)
  /-- Bytes of one 64-byte local granule are written. -/
  | fill (moves : List ByteMove)
  /-- Bytes of one 64-byte local granule are read, once, into the engine: the source of a write card (rules R57, R58, R60). -/
  | take (locs : List Nat)
  /-- Bytes that the engine has read into the off-wafer bytes of one granule (rules R97, R132): source, DPA, and virtual address for
  the signature. -/
  | put (moves : List (ByteSrc × Nat × Nat))
  | atom (u : AtomUnit)
  deriving DecidableEq, Repr

/-- The engine's name of byte `i` of an atomic card's return image. -/
def retKey (i : Nat) : Nat := 2 ^ 60 + i
/-- The engine's name of a local byte that a write card carries. -/
def localKey (a : Nat) : Nat := 2 ^ 61 + a

/-- A card in flight, from its release to its retirement (rules R115, R122, R123, R142). -/
structure Card where
  id : Nat
  core : Nat
  op : CardOp
  handle : Nat
  pt : Nat
  scope : Nat
  rel : Bool
  acq : Bool
  /-- The atomic operation and the element format (rule R130). -/
  atop : Nat
  fmt : Nat
  /-- The group: the number of the release that made its token pending (rule R122). -/
  group : Nat
  /-- Groups that must leave pending before it performs a byte (rule R123). -/
  edges : List Nat
  /-- Groups it depends on through any chain of edges (rule R142). -/
  ancestors : List Nat
  granules : List Granule
  /-- The off-wafer granules that it reads and writes, by number (rules R92, R95). -/
  reach : List Nat
  /-- The bytes that the engine has read for it and not yet dropped, by DPA, each with its poison mark (rule R97). -/
  buf : List (Nat × Byte × Bool)
  /-- The first error it met, as CARDERR.KIND; 0 none (rule R127). -/
  err : Nat
  /-- Its performance is over; its token may still wait for the rest of its group. -/
  ended : Bool
  /-- No byte is performed and it does not end before this fabric cycle (rules R107, R129). -/
  notBefore : Nat
  /-- The fabric cycle of its end once its last byte is performed, a free pick within rule R129. -/
  endAt : Option Nat
  /-- The TLB entries it counts in, one for each of its pages (rule R38). -/
  pages : List Nat
  /-- The 128 KiB blocks that it has written poisoned or found uncorrectable, by number (rule R374). -/
  poisonedBlocks : List Nat
  /-- The fabric cycle on which its last edge was satisfied and its bound begins to count (rule R129). -/
  startAt : Option Nat
  /-- The terms of the bound of rule R129: for the class of each leg, the factor of G_c and the constant for each target. -/
  legs : List (Nat × List (Nat × Nat))
  /-- The bound B, over the slot maps in effect since the release, with the cycles on which its source unit was claimed. -/
  bound : Nat
  /-- The cycles on which its source unit was claimed (rules R59, R129). -/
  blocked : Nat
  released : Nat
  deriving DecidableEq, Repr

/-- The operation of a link instruction (rules R321, R323). -/
inductive LinkOp where
  | send | recv | radd (ty : RaddType)
  deriving DecidableEq, Repr

/-- What the paired side of a link instruction posted: its length, and for a send its bytes and those of its 16-byte words that
arrive poisoned (rules R322, R324). -/
structure LinkPost where
  len : Nat
  bytes : List Byte
  bad : List Nat
  deriving DecidableEq, Repr

/-- A link instruction that has not ended (rules R321 to R324). -/
structure LinkXfer where
  id : Nat
  core : Nat
  op : LinkOp
  port : Nat
  tag : Nat
  addr : Nat
  len : Nat
  sem : BitVec 4
  /-- Once paired, what the paired side posted: a receive's bytes come from the peer. -/
  paired : Option LinkPost
  /-- Bytes moved so far. -/
  moved : Nat
  err : Nat
  endAt : Option Nat
  issued : Nat
  deriving DecidableEq, Repr

/-- A write that a card has made and that is not yet performed at every scope (rules R139, R143): the card, its core, group and
SCOPE, the granule; for classes 0x2 and 0x4 the link that has accepted it, with the bytes, while they have still to reach
their home; with `none`, only copies outside the module remain to be invalidated. -/
structure LateWrite where
  card : Nat
  core : Nat
  group : Nat
  scope : Nat
  granule : Nat
  link : Option Nat
  bytes : List (Nat × Byte)
  /-- The poison mark that the granule takes at its home, where the write sets one. -/
  poison : Option Bool
  /-- The cores and groups whose reads have taken it on its link, before it is at its home (rules R139, R141, R150). -/
  seenBy : List (Nat × Nat)
  /-- The bytes that join its core's signature, by virtual address, once it is performed at its SCOPE (rules R140, R417). -/
  terms : List (Nat × Byte)
  deriving DecidableEq, Repr

/-- A write of a granule in a persistent range: its card, or none for an outside agent; its bytes by address, as they were and as
it leaves them; the granule's poison mark as it was, and the mark that the write sets, if any (rule R93). -/
structure GranuleLog where
  card : Option Nat
  granule : Nat
  bytes : List (Nat × Byte × Byte)
  was : Bool
  mark : Option Bool
  deriving DecidableEq, Repr

/-- A weft port, an Uller link or a CXL port (rules R92, R95, R397). -/
inductive PortState where
  /-- Untrained: no link. -/
  | untrained
  | up
  | down
  deriving DecidableEq, Repr

/-- Where a block of memory has its home (rules R134, R135): the block's number and the atomic unit, 11 standing for the
block's own controller; the unit it is to move to; and, once the move has begun, the fabric cycle of its end. -/
structure HomeEntry where
  block : Nat
  unit : Nat
  want : Option Nat
  moving : Option Nat
  deriving DecidableEq, Repr

end Sys2Proof.Machine
end

