-- ==== Sys2Proof/Machine/ModuleState.lean ====
section
/-! DEFINITION. The state of reticles, regions and the module: loom copies, translation caches, boot, slot maps, power,
trace, memory tiers, homes, ports and placement. -/

namespace Sys2Proof.Machine

/-! ### Boot (rules R379 to R386) -/

/-- The stage a reticle service core is in (rules R379, R386). -/
inductive BootStage where
  | b1 | b2 | b3 | b4 | running | withheld | isolated | dead
  deriving DecidableEq, Repr

/-- A boot message on its way (rule R380): the fabric cycle of its arrival, the receiving reticle, the receiver's
selvedge (0 N, 1 E, 2 S, 3 W) and its 16 bytes. -/
structure BootMsg where
  arrive : Nat
  ret : Nat
  sel : Nat
  bytes : List Byte
  deriving DecidableEq, Repr

/-- A child of the tree that a reticle waits for (rule R383): its selvedge, whether it has accepted, the cycle of the
last message from it, the pieces it has reported and whether its report is whole. -/
structure Child where
  sel : Nat
  accepted : Bool
  heard : Nat
  pieces : List Word
  whole : Bool
  deriving DecidableEq, Repr

/-- Fabric cycles of 0.625 ns in a millisecond and a microsecond (rule R1), and the end of B1 on a boot counter (rule R379). -/
def cyclesPerMs : Nat := 1600000
def cyclesPerUs : Nat := 1600
def linkTestAt : Nat := 40 * cyclesPerMs

/-- The service core's boot state. -/
structure Boot where
  stage : BootStage
  /-- The fabric cycle on which the reticle reached power-good and its boot counter read 0 (rule R379). -/
  start : Nat
  /-- 1 = the reticle's Uller link trained in B1; the OR and the least pair seen so far (rule R382). -/
  ul : Bool
  anyUl : Bool
  best : Nat × Nat
  /-- The rounds of B3 that have been sent. -/
  round : Nat
  /-- The selvedges this end judges OK, and those the other end has called OK (rule R381). -/
  judged : BitVec 4
  called : BitVec 4
  /-- The probes of B2 that have been sent, the cycles on which they left, by selvedge, and the round trips of the echoes that matched
  in time. -/
  probes : Nat
  sent : Vector (List Nat) 4
  echoes : Vector (List Nat) 4
  parent : Option Nat
  depth : Nat
  inTree : Bool
  children : List Child
  reported : Bool
  /-- DONE has been received, or sent by the leader. -/
  finished : Bool
  /-- The fabric cycle from which each selvedge's management sideband is free again (rule R380). -/
  sideband : Vector Nat 4
  deriving DecidableEq, Repr

def Boot.reset : Boot :=
  { stage := .b1, start := 0, ul := false, anyUl := false, best := (0, 0), round := 0, judged := 0, called := 0
    probes := 0, sent := Vector.replicate 4 [], echoes := Vector.replicate 4 [], parent := none, depth := 0, inTree := false, children := [], reported := false
    finished := false, sideband := Vector.replicate 4 0 }

/-! ### Reticles -/

/-- An invalidation request in progress (rules R41, R42): its scope, tag and range of virtual addresses. -/
structure TInv where
  scope : Nat
  tag : Nat
  lo : Nat
  hi : Nat
  /-- The cores whose releases were translating when it was accepted: it acts once their translations have ended (rule R44). -/
  waits : List Nat
  deriving DecidableEq, Repr

/-- One reticle. -/
structure Reticle where
  /-- The loom copy (rule R81): whether it has been started, the fabric cycle on which it read 0 (modulo 2^64), and the
  cycles it still stands still under a repair (rule R84). -/
  loomOn : Bool
  loomBase : Word
  stall : Nat
  /-- The pending repair of δ (rule R83), and the selvedges that showed a nonzero δ in the last round. -/
  repair : Option Int
  nonzero : BitVec 4
  /-- GCLK.ALN has asked for an extra round (rule R312). -/
  aln : Bool
  /-- A slip of 4,096 or more that awaits realignment by system software (rule R85). -/
  realign : Option Int
  /-- The count did not advance onto this cycle (rule R84). -/
  held : Bool
  /-- The count with which the copy has opened a round that is not classified yet, the fabric cycles on which the latest round and the
  one before it fell, and what the samples of the latest gave: the selvedge and δ, or none for a bad sample (rules R82, R83, R85). -/
  round : Option Word
  opened : Nat
  before : Nat
  deltas : List (Nat × Option Int)
  loomst : Word
  seldly : Word
  xfence : BitVec 4
  bootst : Word
  tinvctl : Word
  tinvva : Word
  tinvst : Word
  tinv : Option TInv
  cache : List CacheLeaf
  fused : List Word
  live : List Word
  boot : Boot
  deriving DecidableEq, Repr

/-! ### Regions (rules R88, R89, R399 to R404, R407, R413) -/

/-- A trace record on its way to its region's ring (rules R86, R87, R413): the block whose shuttle router holds it, the fabric
cycle from which it may leave, and the record. -/
structure TraceFlit where
  block : Nat
  ready : Nat
  record : TraceRec
  deriving DecidableEq, Repr

/-- One region. -/
structure Region where
  shmap : Vector Word 4
  /-- SHMAP values that take effect at the next period (rule R88). -/
  shnext : Vector Word 4
  shstat : Word
  rpctl : Word
  rtherm : Word
  /-- RPCTL and RTHERM values that take effect at the next step boundary (rules R401, R403). -/
  rpnext : Option Word
  rthnext : Option Word
  rpst : Word
  /-- ACT and PREV of RACT (rule R401), and the numbers of the step and the period under way, once the count has started (rules R87,
  R399). -/
  act : Nat
  prev : Nat
  step : Option Nat
  period : Option Nat
  /-- The supply's distance below nominal in mV and the hottest sensor in 1/16 °C, as last sensed. -/
  below : Int
  temp : Nat
  /-- VOFF of RVOLT (rule R407). -/
  voff : Int
  trring : Word
  trdrop : Nat
  trhead : BitVec 32
  flits : List TraceFlit
  /-- The present pair of fabric cycles is gated (rules R400, R402). -/
  gated : Bool
  deriving DecidableEq, Repr

def Region.reset : Region :=
  { shmap := Vector.replicate 4 0x3410205104102010, shnext := Vector.replicate 4 0x3410205104102010, shstat := 0
    rpctl := 0x000C060000040000, rtherm := 0x0000695F00000000, rpnext := none, rthnext := none, rpst := 0
    act := 0, prev := 0, step := none, period := none, below := 0, temp := 0, voff := 0, trring := 0, trdrop := 0, trhead := 0
    flits := [], gated := false }

/-! ### The module -/

/-- The counters of a block's controller (rule R135). -/
structure HomeCount where
  block : Nat
  counts : List Nat
  /-- A card with NM has touched it: it goes home and stays there. -/
  pinned : Bool
  /-- The cycle of its last use at an atomic unit. -/
  used : Nat
  deriving DecidableEq, Repr

/-- A link send or receive of the peer that has reached the port joined to this module's port, in the order of
arrival (rule R322): its tag, whether it is a send, and what it posts. -/
structure PeerPost where
  port : Nat
  tag : Nat
  sends : Bool
  post : LinkPost
  deriving DecidableEq, Repr

/-- The registers of the module window and what they control. -/
structure Module where
  hbmret : Vector (BitVec 32) 24
  hbmrcmd : Word
  /-- The channel whose retirement is under way. -/
  retiring : Option (Nat × Nat)
  cxlp : Vector Word 16
  cxl : Vector PortState 16
  ckptctl : Word
  ckptst : Word
  /-- The fabric cycle on which the checkpoint operation ends. -/
  ckptEnd : Option Nat
  /-- The poison marks of local words that the last checkpoint saved: core and word (rule R94). -/
  ckptBad : List (Nat × Nat)
  migctl : Word
  homes : List HomeEntry
  counts : List HomeCount
  wroute : Vector Word 64
  weft : Vector PortState 36
  peers : List PeerPost
  uller : Vector PortState 4
  ullerRanges : List (Nat × Nat)
  plcmd : Word
  plsrc : Word
  pldst : Word
  plst : Word
  plroute : Word
  plEnd : Option Nat
  /-- PLCMD, PLSRC and PLDST as they stood when the operation under way was started (rules R395, R398). -/
  placing : Word × Word × Word
  /-- The words of INSTKEY0 to INSTKEY3; an unwritten word is none (rule R396). -/
  instkey : Vector (Option Word) 16
  radv : Word
  topo : Vector Word 4
  /-- The leader's 93 ms are over and the module has been granted (rule R384). -/
  granted : Bool
  /-- The claims of leaders, and the cycle on which the first arrived (rule R384). -/
  claims : List (Nat × Nat)
  claimAt : Option Nat
  mstag : Word
  mstagNext : Option Word
  /-- Module power in W, averaged (rule R404). -/
  watts : Nat
  /-- The error log: the entries that are still in the ring, oldest first, and ELOGST.COUNT (rule R378). -/
  elog : List (Word × Word)
  elogCount : BitVec 32
  deriving DecidableEq, Repr

def Module.reset : Module :=
  { hbmret := Vector.replicate 24 0, hbmrcmd := 0, retiring := none, cxlp := Vector.replicate 16 0
    cxl := Vector.replicate 16 .untrained, ckptctl := 0, ckptst := 0, ckptEnd := none, ckptBad := [], migctl := 0x40100001
    homes := [], counts := [], wroute := Vector.replicate 64 0, weft := Vector.replicate 36 .untrained, peers := []
    uller := Vector.replicate 4 .untrained, ullerRanges := [], plcmd := 0, plsrc := 0, pldst := 0, plst := 0
    plroute := 0, plEnd := none, placing := (0, 0, 0), instkey := Vector.replicate 16 none, radv := 0, topo := Vector.replicate 4 0
    granted := false, claims := [], claimAt := none, mstag := 0x0000000CB2000001, mstagNext := none, watts := 0, elog := []
    elogCount := 0 }

end Sys2Proof.Machine
end

