-- ==== Sys2Proof/Machine/State.lean ====
section
/-! DEFINITION. The state of the part, as plain data, and its state after reset. -/

namespace Sys2Proof.Machine

/-- A management window (rules R41, R75, R88, R350). -/
inductive Window where
  | module
  | region (r : Nat)
  | reticle (r : Nat)
  /-- The module-wide broadcast copy of the reticle windows (rule R41). -/
  | everyReticle
  | tile (t : Nat)
  | block (b : Nat)
  | core (c : Nat)
  deriving DecidableEq, Repr

/-- The operands of an event (log entry 8): the agents it concerns, numbers, and what arrives with it from outside.
For a slot instruction, `bundle` says that it issues as part of the bundle whose checks have passed, `last` that it is
the last of that bundle, and `idle` how many empty core cycles follow the bundle. -/
structure Arg where
  core : Nat
  part : Nat
  region : Nat
  ret : Nat
  sel : Nat
  n : Nat
  m : Nat
  win : Window
  off : Nat
  value : Word
  bytes : List Byte
  ranges : List (Nat × Nat)
  bundle : Bool
  last : Bool
  idle : Nat
  deriving DecidableEq, Repr

/-- No operands. -/
def Arg.none : Arg :=
  { core := 0, part := 0, region := 0, ret := 0, sel := 0, n := 0, m := 0, win := .module, off := 0, value := 0
    bytes := [], ranges := [], bundle := false, last := true, idle := 0 }

/-- What the world outside does to the part (INVENTORY, Host interface). -/
inductive Input where
  /-- An event of the opcode table with its operands. -/
  | event (i : Instr) (a : Arg)
  /-- Bits of a word of local space or of IMEM flip: one bit, or more than SEC-DED corrects (rule R66); `flip` says which stored
  data bits of an uncorrectable word differ from then on. -/
  | localError (core word : Nat) (imem double : Bool) (flip : BitVec 128)
  /-- A granule of off-wafer memory becomes uncorrectable (rule R97), with these stored bits changed. -/
  | granuleError (dpa : Nat) (flip : BitVec 512)
  /-- A flit group is hit on the link into a router's port on this cycle (rule R72); `flip` says which of its bits an uncorrectable
  group arrives with changed. -/
  | flitError (hit : FlitHit)
  /-- A shuttle flit group is hit in a region (rule R89). -/
  | shuttleError (region : Nat) (double : Bool) (flit : ShuttleHit)
  /-- The array of a core forms a sum or product wrongly on this cycle (rule R205). -/
  | sumError (core : Nat) (hit : SumHit)
  /-- A comparison of the self-test that a core runs does not find what it expects (rule R405). -/
  | bistHit (core : Nat) (hit : BistHit)
  /-- Sensors: the supply's distance below nominal in mV, the hottest sensor in 1/16 °C, module power in W. -/
  | supply (region : Nat) (below : Int)
  | heat (region temp : Nat)
  | watts (w : Nat)
  /-- A loom copy slips by δ (rule R83). -/
  | slip (ret : Nat) (delta : Int)
  /-- A sample's check fails on a selvedge in the next round (rule R82). -/
  | badSample (ret sel : Nat)
  /-- A peer's link send or receive reaches the port joined to this module's (rule R322). -/
  | peerPost (p : PeerPost)
  deriving DecidableEq, Repr

/-- The state of the part. -/
structure State where
  /-- The core that the step under way acts on, and every other core that has been acted on since reset, in ascending
  flat index; an unlisted core is as reset leaves it. -/
  core : Core
  others : List Core
  /-- Tiles and blocks that have been acted on since reset, in ascending number; the 48 reticles and 16 regions. -/
  tiles : List Tile
  blocks : List Block
  reticles : Vector Reticle 48
  regions : Vector Region 16
  parts : Vector Part 16
  sched : Sched
  module : Module
  /-- Off-wafer memory by device physical address; its poisoned granules and its retired 128 KiB blocks, by number
  (rules R22, R97, R374). -/
  mem : Memory
  poison : List Nat
  retired : List Nat
  /-- Words on the exchange plane's links, and flit errors that strike on this cycle. -/
  flits : List Flit
  hits : List FlitHit
  /-- Loom samples on their way, and the reticles and selvedges at which the next sample's check fails (rule R82). -/
  samples : List Sample
  badSamples : List (Nat × Nat)
  /-- Shuttle flit groups hit on this cycle, and the shuttle links that have carried a trace flit on it: the sending block and the
  block it leads to, or none for the rim port (rules R86, R87, R89). -/
  shuttleHits : List (Nat × Bool × ShuttleHit)
  hopped : List (Nat × Option Nat)
  cards : List Card
  /-- Writes of cards that are not yet performed at every scope, oldest first (rules R139, R143). -/
  late : List LateWrite
  /-- The writes of persistent granules that a loss of power may still undo, and those made after one of them, oldest first (rule
  R93). -/
  journal : List GranuleLog
  /-- The granules of which the companion processor holds a copy (rule R139). -/
  mirrored : List Nat
  links : List LinkXfer
  bootMsgs : List BootMsg
  /-- The next identifier of a card or link instruction. -/
  nextId : Nat
  /-- Fabric cycles since power-good. -/
  cycle : Nat
  /-- How far the present fabric cycle has come (the model's own; log entry 9): which stage of the cycle the agenda belongs
  to. -/
  stage : Nat
  /-- The module has power. -/
  power : Bool
  /-- The events of this fabric cycle that have still to happen, and the operands of the one under way. -/
  agenda : List (Instr × Arg)
  arg : Arg
  /-- What the outside will do: the fabric cycle and the input. -/
  inbox : List (Nat × Input)
  /-- What the last read of a management window returned. -/
  readback : Word
  /-- The number of free values drawn (log entry 3). -/
  seed : Nat
  deriving DecidableEq, Repr

/-- Why the machine stops with a fault. -/
inductive Fault where
  /-- Raised by `step` alone, when the module is without power and no input is left that could bring power back: a
  stuck state, since nothing can happen any more (rules R379, R402). Safe. -/
  | poweredOff
  deriving DecidableEq, Repr

/-- Why an instruction has no meaning. -/
inductive Refusal where
  /-- Raised by an arm of `exec` for an instruction that has no meaning in this model yet. Safe. -/
  | notModelled (mnemonic : String)
  deriving DecidableEq, Repr

/-- The outcome of a step. -/
abbrev Out := Host.Outcome State Fault Refusal

/-! ### Reset -/

/-- The CRC-32 (ISO-HDLC) of bytes (rules R380, R390). -/
def crcStep (c : BitVec 32) : BitVec 32 := if c.getLsbD 0 then (c >>> 1) ^^^ 0xEDB88320 else c >>> 1
def crcByte (c : BitVec 32) (b : Byte) : BitVec 32 :=
  let c := c ^^^ b.setWidth 32
  crcStep (crcStep (crcStep (crcStep (crcStep (crcStep (crcStep (crcStep c)))))))
def crc32 (bs : List Byte) : BitVec 32 := ~~~ (bs.foldl crcByte 0xFFFFFFFF)

/-- The selvedges of a reticle that face another reticle: bit 3 W, 2 S, 1 E, 0 N (rules R3, R386). -/
def selvedges (r : Nat) : BitVec 4 :=
  BitVec.ofNat 4 ((if r < 8 then 0 else 1) + (if r % 8 = 7 then 0 else 2) + (if 40 ≤ r then 0 else 4)
    + (if r % 8 = 0 then 0 else 8))

/-- The fused section of a reticle without a defect (rules R390, R391; log entry 5): rank and number r, and no bypassed
column in any row. Word 9 holds the check code. -/
def fusedWords (r : Nat) : List Word :=
  let head : Word := BitVec.ofNat 64 (r * 2 ^ 58 + r * 2 ^ 52 + (selvedges r).toNat * 2 ^ 48 + 2 ^ 40)
  let body := head :: List.replicate 8 0x0000FFFF0000FFFF#64
  let bytes := (body.map (fun w => (List.range 8).map (fun i => w.extractLsb' (8 * i) 8))).flatten
  body ++ [(crc32 bytes).setWidth 64]

/-- A reticle after reset. -/
def Reticle.reset (r : Nat) : Reticle :=
  { loomOn := false, loomBase := 0, stall := 0, repair := none, nonzero := 0, aln := false, realign := none, held := false, round := none, opened := 0, before := 0
    deltas := [], loomst := 0
    seldly := 0, xfence := 0xF, bootst := 0, tinvctl := 0, tinvva := 0, tinvst := 0, tinv := none, cache := []
    fused := fusedWords r, live := fusedWords r, boot := .reset }

/-- The part right after module reset: power is good, and the first event to happen is POWER_GOOD (rule R379). -/
def State.reset : State :=
  { core := .reset 0, others := [], tiles := [], blocks := []
    reticles := Vector.ofFn (fun i => Reticle.reset i.val), regions := Vector.replicate 16 .reset
    parts := Vector.replicate 16 .reset, sched := .reset, module := .reset, mem := .empty, poison := [], retired := []
    flits := [], hits := [], samples := [], badSamples := [], shuttleHits := [], hopped := [], cards := [], late := [], journal := [], mirrored := [], links := [], bootMsgs := [], nextId := 0, cycle := 0
    stage := 0, power := true, agenda := [(.powerGood, .none)], arg := .none, inbox := [], readback := 0, seed := 0 }

end Sys2Proof.Machine
end

