-- ==== Sys2Proof/Machine/Ops.lean ====
section
/-! DEFINITION. The named operations on the part: the core acted on, geometry of partitions, loom copies, errors and
losses, trace, taking a trap and the return from one, stops, and the gate through which every slot instruction issues. -/

namespace Sys2Proof.Machine

/-! ### Cores, tiles, blocks (sparse tables by number) -/

def insertCore (c : Core) : List Core → List Core
  | [] => [c]
  | d :: ds => if c.idx < d.idx then c :: d :: ds else if c.idx = d.idx then c :: ds else d :: insertCore c ds
def insertTile (t : Tile) : List Tile → List Tile
  | [] => [t]
  | d :: ds => if t.idx < d.idx then t :: d :: ds else if t.idx = d.idx then t :: ds else d :: insertTile t ds
def insertBlock (b : Block) : List Block → List Block
  | [] => [b]
  | d :: ds => if b.idx < d.idx then b :: d :: ds else if b.idx = d.idx then b :: ds else d :: insertBlock b ds

namespace State

/-- A core by its flat index. -/
def coreOf (s : State) (k : Nat) : Core :=
  if s.core.idx = k then s.core else (s.others.find? (fun c => c.idx == k)).getD (Core.reset k)
/-- A core replaced. -/
def putCore (s : State) (c : Core) : State :=
  if s.core.idx = c.idx then { s with core := c } else { s with others := insertCore c s.others }
/-- The core that the step acts on becomes core `k`. -/
def focus (s : State) (k : Nat) : State :=
  if s.core.idx = k then s
  else { s with core := s.coreOf k, others := insertCore s.core (s.others.filter (fun c => c.idx != k)) }
/-- A core changed in place. -/
def onCore (s : State) (k : Nat) (f : Core → Core) : State := s.putCore (f (s.coreOf k))
/-- The acting core changed. -/
def act (s : State) (f : Core → Core) : State := { s with core := f s.core }
/-- Every core that has been acted on since reset. -/
def allCores (s : State) : List Core := insertCore s.core s.others
/-- Every such core changed. -/
def mapCores (s : State) (f : Core → Core) : State := { s with core := f s.core, others := s.others.map f }

def tileAt (s : State) (k : Nat) : Tile := (s.tiles.find? (fun t => t.idx == k)).getD (Tile.reset k)
def putTile (s : State) (t : Tile) : State := { s with tiles := insertTile t s.tiles }
def blockAt (s : State) (k : Nat) : Block := (s.blocks.find? (fun b => b.idx == k)).getD { idx := k, recs := [] }
def putBlock (s : State) (b : Block) : State := { s with blocks := insertBlock b s.blocks }
def ret (s : State) (r : Nat) : Reticle := s.reticles.getD r (Reticle.reset r)
def putRet (s : State) (r : Nat) (x : Reticle) : State := { s with reticles := s.reticles.setIfInBounds r x }
def region (s : State) (r : Nat) : Region := s.regions.getD r .reset
def putRegion (s : State) (r : Nat) (x : Region) : State := { s with regions := s.regions.setIfInBounds r x }
def part (s : State) (p : Nat) : Part := s.parts.getD p .reset
def putPart (s : State) (p : Nat) (x : Part) : State := { s with parts := s.parts.setIfInBounds p x }

/-- ARRMODE of the acting core's tile (rule R174). -/
def arr (s : State) : Nat := (s.tileAt (tileOf s.core.idx)).arrmode

/-- The next free value, below `n`, and the state that has drawn it (log entry 3). -/
def free (s : State) (n : Nat) : Nat := if n = 0 then 0 else Config.freeNat s.seed % n
def drawn (s : State) : State := { s with seed := s.seed + 1 }

/-! ### The loom count (rule R81) -/

/-- A reticle's copy of the loom count on the present fabric cycle. -/
def loomOf (s : State) (r : Nat) : Word :=
  let x := s.ret r
  if x.loomOn then BitVec.ofNat 64 s.cycle - x.loomBase else 0
/-- The loom count that a core reads. -/
def loom (s : State) : Word := s.loomOf (reticleOf s.core.idx)

/-! ### Partitions (rules R7, R161, R162) -/

end State

/-- PWID, PHT and EN of a PDEF value (rule R329). -/
def pdefWid (w : Word) : Nat := bits w 15 12
def pdefHt (w : Word) : Nat := bits w 11 10
def pdefOn (w : Word) : Bool := w.getLsbD 0

/-- The regions of the rectangle whose top-left region is `p` (rule R161). -/
def rectRegions (p wid ht : Nat) : List Nat :=
  ((List.range wid).map (fun i => (List.range ht).map (fun j => (p / 2 + i) * 2 + (p % 2 + j)))).flatten

/-- The rectangle lies on the wafer. -/
def rectFits (p wid ht : Nat) : Bool :=
  decide (1 ≤ wid) && decide (1 ≤ ht) && decide (p / 2 + wid ≤ 8) && decide (p % 2 + ht ≤ 2)

/-- The barrier latency of a shape (rule R163). -/
def barrierLatency (wid ht : Nat) : Nat := 40 + 4 * (wid + 3 * ht)

/-- The reticles of a region, top to bottom (rule R7). -/
def regionReticles (r : Nat) : List Nat := (List.range 3).map (fun k => (r % 2 * 3 + k) * 8 + r / 2)

/-- The relative index of a core in the rectangle of partition `p` (rule R158). -/
def relIndex (p wid i : Nat) : Nat :=
  ((reticleOf i / 8 - p % 2 * 3) * wid + (reticleOf i % 8 - p / 2)) * 1024 + i % 1024

/-- The core of a relative index. -/
def coreOfRel (p wid n : Nat) : Nat :=
  ((p % 2 * 3 + n / 1024 / wid) * 8 + (p / 2 + n / 1024 % wid)) * 1024 + n % 1024

/-- The number of cores of a shape. -/
def shapeCores (wid ht : Nat) : Nat := wid * ht * 3072

namespace State

/-- The regions of partition `p`. -/
def partRegions (s : State) (p : Nat) : List Nat :=
  let d := (s.part p).pdef
  if pdefOn d then rectRegions p (pdefWid d) (pdefHt d) else []

/-- The partition that holds a region. -/
def partOfRegion (s : State) (r : Nat) : Option Nat := (List.range 16).find? (fun p => (s.partRegions p).contains r)
/-- The partition of a core. -/
def partOf (s : State) (k : Nat) : Option Nat := s.partOfRegion (regionOf k)
/-- The context that holds a core, with its partition. -/
def ctxOf (s : State) (k : Nat) : Option (Nat × Context) :=
  (s.partOf k).bind (fun p => (s.part p).ctx.map (fun x => (p, x)))
/-- The context of a partition changed. -/
def onCtx (s : State) (p : Nat) (f : Context → Context) : State :=
  let q := s.part p
  s.putPart p { q with ctx := q.ctx.map f }

/-- The cores of partition `p` that hold state. -/
def coresIn (s : State) (p : Nat) : List Core :=
  let rs := s.partRegions p
  s.allCores.filter (fun c => rs.contains (regionOf c.idx))
/-- Every core of partition `p` changed. -/
def mapPart (s : State) (p : Nat) (f : Core → Core) : State :=
  let rs := s.partRegions p
  s.mapCores (fun c => if rs.contains (regionOf c.idx) then f c else c)

end State

/-- How far a region's supply lies below nominal, its margin offset included, and the supply in mV (rules R261, R407; log entry 6). -/
def Region.supplyBelow (x : Region) : Int := x.below - 5 * x.voff
def Region.supplyMv (x : Region) : Nat := ((Config.nominalMv : Int) - x.supplyBelow).toNat % 2 ^ 16

namespace State

/-- The loom count of a partition's first reticle. -/
def partLoom (s : State) (p : Nat) : Word := s.loomOf (((regionReticles p).head?).getD 0)

/-- The partition is stopped (rule R365). -/
def stopped (s : State) (p : Nat) : Bool := (s.part p).tstop.getLsbD 63
/-- The context of the partition runs code, in a phase or at a barrier. -/
def runs (s : State) (p : Nat) : Bool :=
  match (s.part p).ctx with
  | some x => match x.stage with | .starting => true | .running => true | _ => false
  | none => false
/-- No context is bound to a partition, or a launch runs on it whose cores have all halted. -/
def atRest (s : State) (p : Nat) : Bool :=
  (s.part p).ctx.isNone || (s.runs p && (s.coresIn p).all (fun c => c.ctl.mode == .halted))
/-- A partition counts as halted (rules R18, R19, R75, R174, R350, R364): it is stopped, or no context is bound to it, or a launch
runs on it whose cores have all halted. DEDUCED, unsafe (log entry 72): the spec names the stop and leaves the rest to the word; a
context that is being bound, waits, drains, is saved, restored or lost is not halted. -/
def halted (s : State) (p : Nat) : Bool :=
  s.stopped p || s.atRest p

/-! ### Errors (rules R373 to R378) -/

/-- An entry of the error log (rule R378). -/
def logEntry (s : State) (loom w1 : Word) : State :=
  let e := s.module.elog ++ [(loom, w1)]
  { s with module := { s.module with
      elog := e.drop (e.length - 256), elogCount := s.module.elogCount + 1 } }

/-- The cycle offset from X0 of the exchange phase under way, in a context. -/
def offsetIn (s : State) (x : Context) : Nat :=
  match x.xphase with
  | some (x0, _, _) => s.cycle - x0
  | none => 0

/-- A loss becomes pending for a partition's context (rules R373, R376). -/
def addLoss (s : State) (p cause core cba val : Nat) : State :=
  s.onCtx p (fun x => { x with losses := x.losses ++
    [{ cause := cause, core := core, cba := cba, val := val, loom := s.cycle, step := x.step, inX := x.xphase.isSome }] })

/-- The causes whose DETAIL holds the cycle offset from X0 (rule R375). -/
def offsetCause (c : Nat) : Bool := (decide (4 ≤ c) && decide (c ≤ 0x0A)) || c == 0x12

/-- What an operation on a core reports takes effect on the part. -/
def note (s : State) (k : Nat) (n : Note) : State :=
  match n with
  | .log w => s.logEntry (s.loomOf (reticleOf k)) w
  | .loss cause core cba val =>
    match s.ctxOf k with
    | none => s
    | some (p, x) => s.addLoss p cause core cba.toNat (if offsetCause cause then s.offsetIn x % 2 ^ 24 else val)
def notes (s : State) (k : Nat) (ns : List Note) : State := ns.foldl (fun s n => s.note k n) s

/-- An error of the exchange plane at the acting core (rules R126, R173, R213, R370). -/
def xerror (s : State) (cause : Nat) : State := s.note s.core.idx (.loss cause s.core.idx s.core.ctl.pc 0)

end State

/-! ### Trace (rules R412, R413) -/

/-- A record of a core has been dropped behind its queue: the next one that it emits says so (rule R412). -/
def State.recordLost (s : State) (t : TraceRec) : State := s.onCore (bits t.w1 63 48) (fun c => { c with aux := { c.aux with lost := true } })

/-- A record enters the core's queue, or is dropped when the queue is full. -/
def Core.emit (c : Core) (loom : Word) (kind : Nat) (cba : CodeAddr) (w2 w3 : Word) : Core :=
  if 8 ≤ c.aux.traceQ.length then { c with aux := { c.aux with lost := true, drops := c.aux.drops + 1 } }
  else
    let w1 := atBit c.idx 48 ||| atBit kind 44 ||| atBit c.aux.lost.toNat 43 ||| atBit cba.toNat 0
    { c with aux := { c.aux with traceQ := c.aux.traceQ ++ [{ w0 := loom, w1 := w1, w2 := w2, w3 := w3 }], lost := false } }

/-! ### Taking a trap (rules R352 to R366) -/

/-- Where a trap falls (rule R357): the resume address, the idle core cycles left, the core cycle c, the parity of the
reference cycle, the loom count of TLOOM and the fabric cycle on which the trap is taken (rule R360). -/
structure TrapPoint where
  pc : CodeAddr
  idle : Nat
  base : Nat
  parity : Nat
  loom : Word
  taken : Nat
  deriving DecidableEq, Repr

/-- TCAUSE after an entry (rule R355). -/
def tcauseWord (intrap defer double : Bool) (k : Cause) : Word :=
  atBit intrap.toNat 63 ||| atBit defer.toNat 62 ||| atBit double.toNat 61 ||| atBit k.cba.toNat 32
    ||| atBit k.sub 16 ||| atBit k.slot 8 ||| atBit k.code 0

namespace Core

/-- The cause registers of an entry (rules R127, R355, R356). TEPC.IDLE has 7 bits: of 128 idle cycles, the 127 of a bundle and the one of
the region that it skips, it shows 127, and the return counts the other one as well (rule R254). DESIGN CHOICE, unsafe (log entry 95). -/
def writeCause (c : Core) (k : Cause) (pt : TrapPoint) (defer double : Bool) : Core :=
  let t := { c.trap with
    tcause := tcauseWord (double || !defer) defer double k
    tepc := if double then c.trap.tepc else atBit (min 127 pt.idle) 24 ||| atBit pt.pc.toNat 0
    tloom := match k.loom with | some l => BitVec.ofNat 64 l | none => pt.loom
    tinfo := if k.code = 0x0B then c.sys.carderr else k.info
    tnan0 := match k.nan with | some n => n.1 | none => c.trap.tnan0
    tnan1 := match k.nan with | some n => n.2 | none => c.trap.tnan1
    tctl := if k.code = 0x0D then c.trap.tctl &&& ~~~1#64 else c.trap.tctl }
  let sys := if k.code = 0x0B then { c.sys with carderr := cardErrClear c.sys.carderr } else c.sys
  let c := { c with trap := t, sys := sys }
  if c.sys.trctl.getLsbD 3 then c.emit pt.loom 4 k.cba c.trap.tcause c.trap.tinfo else c

/-- What the trap shadow and the flight records keep (rules R357, R360). -/
def shadowOf (c : Core) (pt : TrapPoint) : Shadow :=
  { rotb := c.reg.rotb, loops := c.reg.loops, pairs := c.reg.pairs, redirects := c.ctl.redirects, redo := c.ctl.redo
    lands := c.ctl.lands, claims := c.ctl.claims, base := pt.base, parity := pt.parity
    waits := c.ctl.mode == .barrier, safe := c.aux.safe, more := pt.idle - 127
    page := (List.range 54).map (fun i => c.ctlWord (0x620 + 8 * i)) }

/-- A trap is taken, and where it goes: into the handler at TVEC.ENTRY on the second fabric cycle after, or deferred
with the core frozen (rules R360, R364, R366); `stopped` defers it in any case. The flag says that it is
deferred. -/
def enterTrap (c : Core) (cycle : Nat) (stopped : Bool) (k : Cause) (pt : TrapPoint) : Core × Bool :=
  let double := c.inTrap
  let defer := double || stopped || !c.trap.tvec.getLsbD 63
  let sh := if double then c.trap.shadow else some (c.shadowOf pt)
  let c1 := c.writeCause k pt defer double
  let quiet := { c1.ctl with
    lands := [], claims := [], hold := none, passed := false, taken := none, skip := none, dueAt := none
    rdLatch := none, redirects := [], redo := 0, idle := 0, fbuf := [], lbuf := [], active := false, issued := false }
  if defer then
    ({ c1 with
        trap := { c1.trap with shadow := sh, returning := false }
        ctl := { quiet with mode := .frozen .deferred, pc := pt.pc } }, true)
  else
    ({ c1 with
        trap := { c1.trap with shadow := sh, returning := false }
        reg := { c1.reg with
          rotb := .reset, loops := c1.reg.loops.map (fun l => { l with act := false }) }
        ctl := { quiet with
          mode := .running, wake := cycle + 2
          pc := (c1.trap.tvec.extractLsb' 0 18) &&& 0x3FFFC } }, false)

/-- The return from a trap (rules R358, R362): the shadow is restored, the flight records count on from core cycle c,
and the core resumes on the first fabric cycle from `from_` whose parity is that of the reference cycle; a core that was
trapped behind PHASE.END goes back to its barrier wait, with the SAFE of that PHASE.END (rule R342; log entry 110). The exemption of a
breakpoint lasts until the bundle issues (rule R367). -/
def leaveTrap (c : Core) (from_ : Nat) : Core :=
  match c.trap.shadow with
  | none => { c with
      trap := { c.trap with tcause := c.trap.tcause &&& ~~~(1#64 <<< 63), returning := false }
      ctl := { c.ctl with mode := .running, wake := from_ } }
  | some sh =>
    let wake := if from_ % 2 = sh.parity then from_ else from_ + 1
    { c with
      reg := { c.reg with rotb := sh.rotb, loops := sh.loops, pairs := sh.pairs }
      trap := { c.trap with
        tcause := c.trap.tcause &&& ~~~(1#64 <<< 63), shadow := none, returning := false
        exempt := if c.trap.tcause.extractLsb' 0 8 = 6 && c.trap.tcause.extractLsb' 16 8 ≠ 0
          then some (c.trap.tepc.extractLsb' 0 18) else c.trap.exempt }
      ctl := { c.ctl with
        mode := if sh.waits then .barrier else .running, wake := wake, pc := c.trap.tepc.extractLsb' 0 18, idle := bits c.trap.tepc 30 24 + sh.more
        hold := none, passed := false, dueAt := none, redirects := sh.redirects, redo := sh.redo
        lands := sh.lands.map (fun l => { l with due := l.due - sh.base + c.ctl.cc, issued := l.issued + c.ctl.cc - sh.base })
        claims := sh.claims.map (fun l => { l with due := l.due - sh.base + c.ctl.cc, issued := l.issued + c.ctl.cc - sh.base })
        fbuf := [], lbuf := [] }
      aux := { c.aux with safe := sh.safe } }

end Core

namespace State

/-- The partition stops (rules R364, R365): TSTOP counts the deferred trap of core `k`. -/
def stopFor (s : State) (k : Nat) : State :=
  match s.partOf k with
  | none => s
  | some p =>
    let q := s.part p
    let rel := relIndex p (pdefWid q.pdef) k
    let n := min 0xFFFF (bits q.tstop 47 32 + 1)
    let first := if bits q.tstop 47 32 = 0 then rel else min rel (bits q.tstop 31 16)
    s.putPart p { q with tstop := atBit 1 63 ||| atBit n 32 ||| atBit first 16 }

/-- The acting core takes a trap; one that a hold ends in while the partition is stopped is deferred (rule R364). -/
def trapAt (s : State) (k : Cause) (pt : TrapPoint) : State :=
  let still := s.core.ctl.hold.isSome && (match s.partOf s.core.idx with | some p => s.stopped p | none => false)
  let (c, deferred) := s.core.enterTrap pt.taken still k pt
  if deferred then
    ({ s with core := { c with aux := { c.aux with acctEnd := true } } } : State).stopFor c.idx
  else { s with core := c }

/-- The point of a cause found before the bundle at the pc issues, or after its hold (rules R357, R362). -/
def beforeIssue (s : State) : TrapPoint :=
  { pc := s.core.ctl.pc, idle := 0, base := s.core.ctl.cc
    parity := (s.core.ctl.dueAt.getD s.cycle) % 2, loom := s.loom, taken := s.cycle }

/-- The bundle at the pc does not issue: its cause is taken as a trap. -/
def trapBefore (s : State) (k : Cause) : State := s.trapAt k s.beforeIssue

/-- The core may take a cause now: in trap mode what waits from before the trap is left until the return, and only a TRAP of the
handler is taken (rules R354, R366). -/
def mayTake (c : Core) (k : Cause) : Bool := !c.inTrap || k.code == 0x06

/-- The pending cause that is taken first: TRAP, watchpoint, NaN, straggler (rule R354). -/
def firstPending (c : Core) : Option Cause :=
  (c.trap.pend.filter (mayTake c)).foldl (fun best k =>
    match best with
    | none => some k
    | some b => if k.code < b.code then some k else some b) none

def dropPending (c : Core) (k : Cause) : Core :=
  { c with trap := { c.trap with pend := c.trap.pend.filter (fun x => x != k) } }

/-- An after-issue or boundary cause waits for its turn. -/
def pending (s : State) (k : Cause) : State :=
  s.act (fun c => { c with trap := { c.trap with pend := c.trap.pend ++ [k] } })

/-! ### Claims of the acting core -/

/-- The claims of the present core cycle reach their storage, and what they report takes effect (rule R49). -/
def claimNow (s : State) : State :=
  let (c, ns) := s.core.runClaims
  ({ s with core := c }).notes c.idx ns

/-- A residue mismatch of a step: a consumed data error (rules R205, R371, R375). DESIGN CHOICE, unsafe (log entry 115): the bundle address
of the loss is the core's PC as the step lands; rule R375 says "a bundle address, or 0" and not whose. -/
def residueError (s : State) (k block set elem : Nat) : State :=
  let s1 := s.onCore k (fun c => { c with sys := { c.sys with carderr := cardErrAdd c.sys.carderr 6 9 0 0 } })
  s1.notes k [.log (atBit 6 60 ||| atBit 1 59 ||| atBit k 40),
    .loss 0x02 k (s1.coreOf k).ctl.pc (block * 2 ^ 9 + set * 2 ^ 6 + elem)]

/-- The results due on the present core cycle land, and the array reports its residue errors (rules R205, R221). -/
def landNow (s : State) : State :=
  s.core.residueErrors.foldl (fun s e => s.residueError s.core.idx e.1 e.2.1 e.2.2) (s.act (fun c => c.landDue s.loom.toNat))

/-! ### The end of a bundle's issue -/

/-- A bundle's last slot has issued, before any trap: past the bundle, with the exemption of rule R367 over, unless a handler's
bundle issued. The IDLE of a PHASE.END bundle is ignored (rule R309). -/
def passed (s : State) : State :=
  s.act (fun c => { (c.advance false (if c.ctl.mode = .barrier then 0 else s.arg.idle)) with
    trap := { c.trap with exempt := if c.inTrap then c.trap.exempt else none } })

/-- Where a cause found after issue falls: at the end of the issue cycle, with the bundle's next address (rules R357, R360); after
a hold, on the boundary. -/
def passedPoint (held : Bool) (s : State) : TrapPoint :=
  { pc := s.core.nextBundle, idle := s.core.ctl.idle, base := s.core.ctl.cc + 1, parity := (s.cycle + 1) % 2
    loom := if held then s.loom + 1 else s.loom, taken := if held then s.cycle + 1 else s.cycle }

/-- The bundle has issued: the next address is chosen, and a cause found after issue is taken at the end of the cycle,
once its claims have been made (rules R246, R353, R357). A bundle that has been held dates its trap on the boundary; one that
still holds the core leaves its cause for the end of the hold (log entry 71). -/
def finish (s : State) : State :=
  let s1 := s.passed
  match firstPending s1.core with
  | none => s1
  | some k =>
    if s1.core.inX || s1.core.ctl.mode == .halted || s1.core.trap.returning || s1.core.ctl.hold.isSome || 0x0D ≤ k.code then s1
    else
      let s2 := s1.claimNow
      (s2.act (dropPending · k)).trapAt k (s2.passedPoint s.core.ctl.passed)

/-- A slot has issued; the last of its bundle ends the bundle's issue. -/
def close (s : State) : State := if s.arg.last || !s.arg.bundle then s.finish else s

end State

/-! ### Holds (rule R34) -/

/-- A hold begins: the bundle at the pc waits, and no core cycle elapses. -/
def State.holdBefore (s : State) (k : HoldKind) (len : Nat) : State :=
  s.act (fun c => { c with ctl := { c.ctl with
    hold := some { kind := k, since := s.cycle, till := s.cycle + roundEven len, late := false }
    dueAt := some (c.ctl.dueAt.getD s.cycle), active := false } })

/-- The bundle now issuing holds the core after its issue cycle for `len` cycles, rounded up to even. -/
def State.holdAfter (s : State) (k : HoldKind) (len : Nat) : State :=
  s.act (fun c => { c with ctl := { c.ctl with
    hold := some { kind := k, since := s.cycle + 1, till := s.cycle + 1 + roundEven len, late := false } } })

end Sys2Proof.Machine
end

