-- ==== Sys2Proof/Machine/Translate.lean ====
section
/-! DEFINITION. Off-wafer addresses: which bytes are backed (rules R22 to R24, R91, R92, R374), the page walk (rules R25
to R28), the TLB and the reticle cache (rules R36 to R38), and reads and writes of off-wafer bytes (rule R97). -/

namespace Sys2Proof.Machine

/-! ### Device physical addresses (rules R22, R23) -/

def dpaClass (a : Nat) : Nat := a / 2 ^ 52
def hbmStack (a : Nat) : Nat := a / 2 ^ 36 % 32
def hbmOffset (a : Nat) : Nat := a % 2 ^ 36
def hbmChannel (a : Nat) : Nat := a / 2 ^ 17 % 32
def cxlPort (a : Nat) : Nat := a / 2 ^ 41 % 16
def cxlOffset (a : Nat) : Nat := a % 2 ^ 41
/-- The module number, tier and offset of class 0x4. -/
def peerModule (a : Nat) : Nat := a / 2 ^ 46 % 64
def peerTier (a : Nat) : Nat := a / 2 ^ 45 % 2
def peerOffset (a : Nat) : Nat := a % 2 ^ 45

/-- A leaf's card permissions, as a mask: bit 0 RD, 1 WR, 2 AT, 3 CD, 4 NM (rule R26). -/
def permsOf (e : Word) : Nat := bits e 6 2
def allows (have_ need : Nat) : Bool := have_ &&& need == need

/-- The operation codes of TFINFO.OP and the permissions each needs (rules R28, R33). -/
def opNeeds (op : Nat) : Nat :=
  match op with
  | 0 => 1
  | 1 => 2
  | 2 => 7
  | 3 => 9
  | _ => 0

/-- Ranges of addresses cover every byte from `a` to `stop`, several of them one after another where they meet (rule R23). -/
def coveredBy (rs : List (Nat × Nat)) : Nat → Nat → Nat → Bool
  | 0, a, stop => decide (stop ≤ a)
  | fuel + 1, a, stop =>
    decide (stop ≤ a) ||
      (match rs.find? (fun r => decide (r.1 ≤ a) && decide (a < r.1 + r.2)) with
      | some r => coveredBy rs fuel (r.1 + r.2) stop
      | none => false)
def covered (rs : List (Nat × Nat)) (a n : Nat) : Bool := coveredBy rs (rs.length + 1) a (a + n)

namespace State

/-- A channel is retired, or its retirement has begun (rule R91). -/
def channelGone (s : State) (stack ch : Nat) : Bool :=
  (s.module.hbmret.getD stack 0).getLsbD ch || s.module.retiring == some (stack, ch)

/-- An address lies in a channel whose retirement has ended (rule R91). -/
def channelDead (s : State) (a : Nat) : Bool := dpaClass a == 0 && (s.module.hbmret.getD (hbmStack a) 0).getLsbD (hbmChannel a)

/-- A retired 128 KiB block lies in a range (rule R374). -/
def blockGone (s : State) (a n : Nat) : Bool := s.retired.any (fun b => decide (a / 2 ^ 17 ≤ b) && decide (b ≤ (a + n - 1) / 2 ^ 17))

/-- A range of device physical addresses, which lies within one page, is backed. -/
def backed (s : State) (a n : Nat) : Bool :=
  match dpaClass a with
  | 0 =>
    a / 2 ^ 41 % 2 ^ 11 == 0 && decide (hbmStack a < 24) && decide (hbmOffset a + n ≤ 0xEE6B20000)
      && !((List.range (min 32 ((a + n - 1) / 2 ^ 17 + 1 - a / 2 ^ 17))).any (fun i =>
        s.channelGone (hbmStack a) ((hbmChannel a + i) % 32)))
      && !s.blockGone a n
  | 1 =>
    a / 2 ^ 45 % 2 ^ 7 == 0 && decide (cxlOffset a + n ≤ 0x1DCD6500000)
      && s.module.cxl.getD (cxlPort a) .untrained == .up && !s.blockGone a n
  | 2 => a / 2 ^ 48 % 2 ^ 4 == 0 && covered s.module.ullerRanges (a % 2 ^ 48) n
  | 4 => covered (Config.peerRanges (peerModule a) (peerTier a)) (peerOffset a) n
  | _ => false

/-- The port that a granule of class 0x4 takes (rule R325). -/
def weftPortOf (s : State) (dpa : Nat) : Nat :=
  let w := s.module.wroute.getD (peerModule dpa) 0
  bits w 5 0 + dpa / 64 % 8 % max 1 (bits w 11 9)

/-- The module is reachable, and the port of the granule is up (rule R325). -/
def weftOpen (s : State) (dpa : Nat) : Bool :=
  (s.module.wroute.getD (peerModule dpa) 0).getLsbD 63 && s.module.weft.getD (s.weftPortOf dpa) .untrained == .up

/-- The way to an off-wafer byte is open: its CXL port, a live Uller link, or its weft port (rules R92, R95, R325). -/
def wayOpen (s : State) (dpa : Nat) : Bool :=
  match dpaClass dpa with
  | 1 => s.module.cxl.getD (cxlPort dpa) .untrained == .up
  | 2 => s.module.uller.toList.any (· == .up)
  | 4 => s.weftOpen dpa
  | _ => true

/-- The persistent ranges, as device physical addresses and lengths, in ascending port. -/
def persistent (s : State) : List (Nat × Nat) :=
  (List.range 16).filterMap (fun p =>
    let w := s.module.cxlp.getD p 0
    if w.getLsbD 63 then some (2 ^ 52 + p * 2 ^ 41 + bits w 27 14 * 2 ^ 27, bits w 13 0 * 2 ^ 27) else none)
def isPersistent (s : State) (a : Nat) : Bool := s.persistent.any (fun r => decide (r.1 ≤ a) && decide (a < r.1 + r.2))

/-- A leaf's page is of a class that no leaf may map (rule R24). -/
def unmappable (a : Nat) : Bool :=
  dpaClass a == 3 || decide (5 ≤ dpaClass a) || (dpaClass a == 4 && peerModule a == Config.moduleNumber % 64)

/-- The granule of an address is poisoned (rule R97). -/
def poisoned (s : State) (a : Nat) : Bool := s.poison.contains (a / 64)

/-- An uncorrectable read of a granule at its home is logged (rule R378). -/
def logHome (s : State) (granule : Nat) : State := s.logEntry (s.loomOf 0) (atBit 4 60 ||| atBit (64 * granule) 0)
/-- The poisoned granules that reads of byte ranges meet, ascending. -/
def sickIn (s : State) (ranges : List (Nat × Nat)) : List Nat :=
  (s.poison.filter (fun g => ranges.any (fun r => decide (64 * g < r.1 + r.2) && decide (r.1 < 64 * g + 64)))).mergeSort
/-- Reads of byte ranges at their homes: one entry for each granule beyond correction (rule R378). -/
def readHomes (s : State) (ranges : List (Nat × Nat)) : State := (s.sickIn ranges).foldl logHome s

/-- A 64-bit word of off-wafer memory. -/
def readWord (s : State) (a : Nat) : Word := BitVec.ofNat 64 (s.mem.readNat a 8)
def readWords (s : State) (a n : Nat) : List Word := (List.range n).map (fun i => s.readWord (a + 8 * i))
/-- Bytes are written, unless they lie in a retired channel, which no agent writes (rule R91). -/
def writeMem (s : State) (a : Nat) (bs : List Byte) : State := if s.channelDead a then s else { s with mem := s.mem.write a bs }

end State

/-! ### Links and the writes on their way (rules R95, R139) -/

namespace State

/-- The Uller link that the class 0x2 traffic of a block uses: that of its rim quadrant, or the live one with the next higher
number modulo 4 (rule R95). -/
def ullerOf (s : State) (block : Nat) : Option Nat :=
  let q := (if 24 ≤ block / 16 then 2 else 0) + (if 4 ≤ block / 16 % 8 then 1 else 0)
  ((List.range 4).map (fun i => (q + i) % 4)).find? (fun i => s.module.uller.getD i .untrained == .up)

/-- The link that a byte of class 0x2 or 0x4 takes from a block: an Uller link, or 64 and a weft port (rules R95, R325). -/
def linkOf (s : State) (block dpa : Nat) : Option Nat :=
  match dpaClass dpa with
  | 2 => s.ullerOf block
  | 4 => some (64 + s.weftPortOf dpa)
  | _ => none

/-- The bytes of a write reach their home, with the poison mark that it sets. -/
def atHome (s : State) (granule : Nat) (bytes : List (Nat × Byte)) (poison : Option Bool) : State :=
  { s with
    mem := s.mem.writeAll bytes
    poison := match poison with
      | none => s.poison
      | some p => (if p then [granule] else []) ++ s.poison.filter (· != granule) }

/-- The writes of one granule on links that have not reached its home. -/
def onLinks (s : State) (granule : Nat) : List LateWrite := s.late.filter (fun w => w.link.isSome && w.granule == granule)

/-- A late write reaches its next point: its home, and then every copy outside the module is invalidated. The companion's coherence
point needs no more (rule R139). Its bytes join the signature at the point at which it is performed at its SCOPE (rules R140, R417). -/
def performOne (s : State) (w : LateWrite) : State :=
  let signed := fun (s : State) => s.onCore w.core (fun c => c.sign 1 w.terms)
  let rest := s.late.erase w
  match w.link with
  | some _ =>
    let s1 := { s.atHome w.granule w.bytes w.poison with late := rest }
    if dpaClass (64 * w.granule) = 4 then
      let copy := { w with link := none, bytes := [], poison := none }
      if w.scope = 3 then { s1 with late := rest ++ [copy] } else signed { s1 with late := rest ++ [{ copy with terms := [] }] }
    else signed s1
  | none => signed { s with late := rest, mirrored := s.mirrored.filter (· != w.granule) }

/-- A late write is performed. What a read has already taken on another link goes first, so that all observers agree with one order of
the granule's writes (rule R141). -/
def performLate (s : State) (w : LateWrite) : State :=
  let s1 := if w.link.isSome then
      ((s.onLinks w.granule).filter (fun v => v.link != w.link && !v.seenBy.isEmpty)).foldl performOne s
    else s
  if s1.late.contains w then s1.performOne w else s1

end State

/-- The late writes that `p` names, each behind those before it of its granule on its link: writes of one granule leave a link in the order
in which it has accepted them (rules R139, R141). -/
def withEarlier (p : LateWrite → Bool) : List LateWrite → List LateWrite
  | [] => []
  | w :: ws =>
    let rest := withEarlier p ws
    if p w || (w.link.isSome && rest.any (fun v => v.link == w.link && v.granule == w.granule)) then w :: rest else rest

namespace State

/-- The late writes that `p` names reach their next points, oldest first. -/
def performAll (s : State) (p : LateWrite → Bool) : State := (withEarlier p s.late).foldl performLate s

/-- A late write of a granule is on the link that a core's accesses to the granule take. -/
def onMyLink (s : State) (core granule : Nat) (w : LateWrite) : Bool :=
  w.link.isSome && w.granule == granule && w.link == s.linkOf (blockOf core) (64 * granule)

/-- The writes of a granule that reads have taken on a link, performed: a write that reaches the home falls after them (rule R141). -/
def performSeen (s : State) (granule : Nat) : State :=
  s.performAll (fun w => w.link.isSome && w.granule == granule && !w.seenBy.isEmpty)

/-- The part as an access sees it that is behind writes to the same granule on the same link: those have reached their home (rule
R139). A read takes its value here and leaves the writes on their way; an atomic unit performs them. -/
def behind (s : State) (core granule : Nat) : State := s.performAll (s.onMyLink core granule)

/-- What a read by a core's group leaves of the late writes that it has taken on its link. Writes of SCOPE 1 or more are performed, since
no observer may take them before others do (rule R150); the others are marked as taken, once what reads have taken on other links is
performed (rule R141). -/
def readFrom (s : State) (core group granule : Nat) : State :=
  let mine := s.onMyLink core granule
  if !s.late.any mine then s
  else
    let s1 := s.performAll (fun w => mine w && decide (1 ≤ w.scope))
    if !s1.late.any mine then s1
    else
      let s2 := s1.performAll (fun w => w.link.isSome && w.granule == granule && !mine w && !w.seenBy.isEmpty)
      { s2 with late := s2.late.map (fun w => if mine w then { w with seenBy := (w.seenBy ++ [(core, group)]).eraseDups } else w) }

/-- The writes that a link has accepted and whose core's accesses now take another one are performed: what their core reads or writes
next of the granule falls after them (rules R95, R139, R141). -/
def rerouted (s : State) : State :=
  s.performAll (fun w => w.link.isSome && w.link != s.linkOf (blockOf w.core) (64 * w.granule))

end State

/-! ### Translation -/

/-- The device physical address of a byte of a leaf's page. -/
def Leaf.addr (l : Leaf) (a : Nat) : Nat := l.dpa + a % 2 ^ l.size

/-- How a leaf was found, for the hold of rule R35. -/
inductive Found where
  | tlb | cache | walk
  deriving DecidableEq, Repr

/-- A translation that has failed: the reason of rule R32, the level, the log2 size of the page where a leaf has been read and
of the smallest page where none has (log entry 78), how far the lookup went (rule R35), and the table entry last read. -/
structure Miss where
  reason : Nat
  level : Nat
  size : Nat
  found : Found
  entry : Nat
  deriving DecidableEq, Repr

/-- One level of the walk and the levels below it (rule R27). What the page needs is a function of its size (rule R28). -/
def walkFrom (s : State) (va : Nat) (need : Nat → Nat) : Nat → Nat → Nat → Except Miss Leaf
  | 0, _, _ => .error { reason := 2, level := 3, size := 17, found := .walk, entry := 0 }
  | fuel + 1, level, node =>
    let shift := 47 - 10 * level
    let at_ := node + va / 2 ^ shift % 1024 * 8
    let no := fun (reason size : Nat) => Except.error ({ reason, level, size, found := .walk, entry := at_ } : Miss)
    if 1 < dpaClass node || !s.backed node 8192 then no 5 17
    else
      let e := s.readWord at_
      if s.poisoned at_ then no 0x0A 17
      else if !e.getLsbD 0 then no 1 17
      else if bits e 63 60 != 0 || bits e 12 7 != 0 then no 3 17
      else if (level == 0 && e.getLsbD 1) || (level == 3 && !e.getLsbD 1) then no 2 17
      else
        let addr := bits e 55 13 * 2 ^ 13
        if e.getLsbD 1 then
          if addr % 2 ^ shift != 0 then no 4 shift
          else if State.unmappable addr then no 6 shift
          else if !s.backed addr (2 ^ shift) then no 7 shift
          else if !allows (permsOf e) (need shift) then no 8 shift
          else .ok { va := va / 2 ^ shift * 2 ^ shift, size := shift, dpa := addr, perms := permsOf e }
        else walkFrom s va need fuel (level + 1) addr

/-- The walk from a root. -/
def walk (s : State) (root va : Nat) (need : Nat → Nat) : Except Miss Leaf := walkFrom s va need 4 0 root

/-- The level at which a leaf of a given size stands. -/
def levelOf (size : Nat) : Nat := (47 - size) / 10

/-- An address lies in a page. -/
def inPage (va size a : Nat) : Bool := a / 2 ^ size == va / 2 ^ size

/-- The permission mask of a TLB entry. -/
def TlbEntry.perms (e : TlbEntry) : Nat :=
  e.rd.toNat + 2 * e.wr.toNat + 4 * e.at_.toNat + 8 * e.cd.toNat + 16 * e.nm.toNat
def TlbEntry.leaf (e : TlbEntry) : Leaf := { va := e.va, size := e.size, dpa := e.dpa, perms := e.perms }
def CacheLeaf.leaf (e : CacheLeaf) : Leaf := { va := e.va, size := e.size, dpa := e.dpa, perms := e.perms }

namespace State

/-- The context tag of the acting core (rule R29). -/
def tag (s : State) : Nat := bits s.core.sys.tctx 7 0

/-- The live TLB entry of the acting core that holds an address (rules R36, R42). -/
def tlbHit (s : State) (va : Nat) : Option TlbEntry :=
  s.core.aux.tlb.find? (fun e => e.tag == s.tag && !e.dying && inPage e.va e.size va)
/-- The entry of the core's reticle cache that holds an address. -/
def cacheHit (s : State) (va : Nat) : Option CacheLeaf :=
  (s.ret (reticleOf s.core.idx)).cache.find? (fun e => e.tag == s.tag && inPage e.va e.size va)

/-- The translation of an address, its page's need of permissions given by the page's size: the TLB, then the reticle cache,
then a walk (rule R36). -/
def translate (s : State) (va : Nat) (need : Nat → Nat) : Except Miss (Leaf × Found) :=
  if s.tag = 0 then .error { reason := 1, level := 0, size := 17, found := .tlb, entry := 0 }
  else
    let check := fun (l : Leaf) (f : Found) =>
      if allows l.perms (need l.size) then Except.ok (l, f)
      else .error ({ reason := 8, level := levelOf l.size, size := l.size, found := f, entry := 0 } : Miss)
    match s.tlbHit va with
    | some e => check e.leaf .tlb
    | none =>
      match s.cacheHit va with
      | some e => check e.leaf .cache
      | none => (walk s (bits s.core.sys.troot 55 13 * 2 ^ 13) va need).map (fun l => (l, .walk))

/-- A stamp later than every stamp of a list: uses are in the order in which they are made (rule R37). -/
def nextStamp {α : Type} (stamp : α → Nat) (xs : List α) : Nat := (xs.map stamp).foldl Nat.max 0 + 1

/-- The least recently used member of a list by a stamp. -/
def oldest {α : Type} (stamp : α → Nat) (xs : List α) : Option α :=
  xs.foldl (fun b x =>
    match b with
    | none => some x
    | some y => if stamp x < stamp y then some x else some y) none

/-- The reticle cache of the acting core takes a leaf (rules R36, R37). -/
def fillCache (s : State) (l : Leaf) : State :=
  let r := reticleOf s.core.idx
  let x := s.ret r
  let same := fun (e : CacheLeaf) => e.tag == s.tag && e.va == l.va && e.size == l.size
  let kept := x.cache.filter (fun e => !same e)
  let room := if kept.length < 4096 then kept
    else match oldest (·.used) kept with | some o => kept.erase o | none => kept
  s.putRet r { x with cache := room ++
    [{ tag := s.tag, va := l.va, size := l.size, dpa := l.dpa, perms := l.perms, used := nextStamp (·.used) x.cache }] }

/-- A use of the leaf of the acting core's reticle cache that holds an address (rule R37). -/
def touchCache (s : State) (va : Nat) : State :=
  let r := reticleOf s.core.idx
  let x := s.ret r
  s.putRet r { x with cache := x.cache.map (fun e =>
    if e.tag == s.tag && inPage e.va e.size va then { e with used := nextStamp (·.used) x.cache } else e) }

/-- The acting core's TLB takes a leaf, replacing the least recently used entry that nothing uses; `none` says that it has no
such entry (rule R37). -/
def fillTlb (s : State) (l : Leaf) (pins : Nat) : Option (State × Nat) :=
  let tlb := s.core.aux.tlb
  let room : Option (List TlbEntry) :=
    if tlb.length < 96 then some tlb
    else (oldest (·.used) (tlb.filter (fun e => e.count == 0 && e.pins == 0))).map tlb.erase
  room.map (fun t =>
    ({ s.act (fun c => { c with aux := { c.aux with tlb := t ++
      [{ id := s.nextId, tag := s.tag, va := l.va, size := l.size, dpa := l.dpa, rd := l.perms.testBit 0
         wr := l.perms.testBit 1, at_ := l.perms.testBit 2, cd := l.perms.testBit 3, nm := l.perms.testBit 4
         dying := false, count := 0, pins := pins, used := nextStamp (·.used) tlb }] } }) with nextId := s.nextId + 1 }, s.nextId))

/-- A use of a TLB entry of the acting core, with new pins. -/
def useTlb (s : State) (id pins : Nat) : State :=
  s.act (fun c => { c with aux := { c.aux with tlb := c.aux.tlb.map (fun e =>
    if e.id == id then { e with used := nextStamp (·.used) c.aux.tlb, pins := e.pins + pins } else e) } })

/-- The block of a byte is marked for retirement with the context of the acting core, which has read it beyond correction (rule
R374). -/
def markFor (s : State) (dpa : Nat) : State :=
  match s.partOf s.core.idx with
  | some p => s.onCtx p (fun x => { x with badBlocks := (x.badBlocks ++ [dpa / 2 ^ 17]).eraseDups })
  | none => s

/-- A fetch of the acting core's release reads a granule beyond correction at its home (rules R374, R378). -/
def fetchError (s : State) (dpa : Nat) : State :=
  (s.logHome (dpa / 64)).markFor dpa

/-- What a translation finds and what it leaves in the TLB and the reticle cache: the leaf, and the TLB entry where there is one
to give. Each takes `pins` (rules R36, R37, R44). A walk that meets an uncorrectable table entry logs it
and marks its block (rules R32, R374, R378). -/
def translateFill (s : State) (va : Nat) (need : Nat → Nat) (pins : Nat) :
    State × Except Miss (Leaf × Found × Option Nat) :=
  match s.translate va need with
  | .error m =>
    (if m.reason = 0x0A then (s.logEntry s.loom (atBit 2 60 ||| atBit m.entry 0)).markFor m.entry else s, .error m)
  | .ok (l, f) =>
    match f, s.tlbHit va with
    | .tlb, some e => (s.useTlb e.id pins, .ok (l, f, some e.id))
    | _, _ =>
      let t := if f == .walk then s.fillCache l else s.touchCache va
      match t.fillTlb l pins with
      | some (u, id) => (u, .ok (l, f, some id))
      | none => (t, .ok (l, f, none))

/-- The translation of a record or deck fetch, which fills the TLB where an entry is free and takes no count (rule
R98). -/
def translateFetch (s : State) (va : Nat) : State × Except Miss (Leaf × Found × Option Nat) :=
  s.translateFill va (fun _ => 1) 0

end State

end Sys2Proof.Machine
end

