-- ==== Sys2Proof/Machine/Layout.lean ====
section
/-! DEFINITION. Layout records and cards as data: their fields, their checks and the address formula (rules R99 to R108,
R115 to R117, R130, R132). -/

namespace Sys2Proof.Machine

/-! ### Records -/

/-- One dimension: byte stride, effective start, size and box extent. -/
structure Dim where
  stride : Int
  start : Int
  size : Nat
  box : Nat
  deriving DecidableEq, Repr

namespace Rec
def word (r : Rec) (i : Nat) : Word := r.words.getD i 0
def base (r : Rec) : Nat := bits (r.word 0) 56 0
def rev (r : Rec) : Nat := bits (r.word 1) 63 48
def scale (r : Rec) : Nat := bits (r.word 1) 47 32
def scv (r : Rec) : Bool := (r.word 1).getLsbD 23
def exp (r : Rec) : Bool := (r.word 1).getLsbD 22
/-- 0 CLIP, 1 STRICT, 2 WRAP. -/
def bounds (r : Rec) : Nat := bits (r.word 1) 21 20
def rank (r : Rec) : Nat := bits (r.word 1) 10 8
def fmt (r : Rec) : Nat := bits (r.word 1) 3 0
def fill (r : Rec) : Word := r.word 2
def meta_ (r : Rec) : Nat := bits (r.word 3) 56 0
def stride (r : Rec) (i : Nat) : Int := (r.word (6 + 3 * i)).toInt
def start (r : Rec) (i : Nat) : Int := ((r.word (7 + 3 * i)).extractLsb' 32 32).toInt
def size (r : Rec) (i : Nat) : Nat := bits (r.word (7 + 3 * i)) 31 0
def box (r : Rec) (i : Nat) : Nat := bits (r.word (8 + 3 * i)) 31 0

/-- The size U of the unit that FMT names (rule R100). -/
def unit (r : Rec) : Nat :=
  match r.fmt with
  | 0 => 1 | 1 => 1 | 2 => 2 | 3 => 2 | 4 => 2 | 5 => 4 | 6 => 4 | _ => 8

/-- CHECK holds (rule R101). -/
def sound (r : Rec) : Bool :=
  (List.range 24).foldl (fun x i => if i = 5 then x else x ^^^ r.word i) 0xA5A5A5A5A5A5A5A5 == r.word 5

/-- The dimensions with given effective starts. -/
def dims (r : Rec) (starts : List Int) : List Dim :=
  (List.range r.rank).map (fun i => { stride := r.stride i, start := starts.getD i (r.start i), size := r.size i, box := r.box i })

/-- The dimension at fault when the record is malformed for a use as (`read`) a read to bobbin or not; 0 where no
dimension is at fault (rule R102). Of several faults one without a dimension is reported first: DESIGN CHOICE, unsafe (log entry 91). -/
def malformed (r : Rec) (limit : Nat) (read : Bool) (starts : List Int) : Option Nat :=
  let live := List.range r.rank
  if bits (r.word 0) 63 57 != 0 || bits (r.word 1) 31 24 != 0 || bits (r.word 1) 19 11 != 0 || bits (r.word 1) 7 4 != 0
      || bits (r.word 3) 63 57 != 0 || r.word 4 != 0 || r.rank == 0 || r.rank == 7 || decide (8 ≤ r.fmt)
      || r.bounds == 3 || (r.scv && decide (limit ≤ r.scale)) then some 0
  else
    match live.find? (fun i => bits (r.word (8 + 3 * i)) 63 32 != 0 || decide (2 ^ 43 < (r.stride i).natAbs)
        || (r.bounds == 2 && r.size i == 0)) with
    | some i => some i
    | none =>
      if !r.exp then none
      else if r.fmt == 1 || r.stride 0 != (r.unit : Int) || r.size 0 % 4 != 0 || r.box 0 % 4 != 0
          || (starts.getD 0 (r.start 0)) % 4 != 0 || !read then some 0
      else live.find? (fun i => decide (1 ≤ i) && r.stride i % (2 * r.unit : Int) != 0)
end Rec

/-- The product of the box extents. -/
def boxUnits (ds : List Dim) : Nat := ds.foldl (fun n d => n * d.box) 1

/-- The coordinates of unit `n` (rule R103). -/
def coords (bounds : Nat) : List Dim → Nat → List Int
  | [], _ => []
  | d :: ds, n =>
    let c := d.start + (n % d.box : Nat)
    (if bounds = 2 then c % (d.size : Int) else c) :: coords bounds ds (n / d.box)

/-- The lowest dimension in which coordinates are out of bounds. -/
def outDim (ds : List Dim) (cs : List Int) : Option Nat :=
  (List.range ds.length).find? (fun i =>
    let c := cs.getD i 0
    decide (c < 0) || decide (((ds.map (·.size)).getD i 0 : Int) ≤ c))

/-- The address of coordinates, exact (rule R103). -/
def addrOf (base : Nat) (ds : List Dim) (cs : List Int) : Int :=
  (ds.zip cs).foldl (fun a p => a + p.2 * p.1.stride) (base : Int)

/-- A unit of an extent: its linear index and, in bounds, its address. -/
structure Unit_ where
  n : Nat
  addr : Option Int
  deriving DecidableEq, Repr

/-- Every unit of a record's box, in ascending linear index (rule R103). -/
def unitsOf (r : Rec) (starts : List Int) : List Unit_ :=
  let ds := r.dims starts
  (List.range (boxUnits ds)).map (fun n =>
    let cs := coords r.bounds ds n
    { n := n, addr := if (outDim ds cs).isSome then none else some (addrOf r.base ds cs) })

/-- A group of four dense units in bounds (rule R108): its first unit, the address of its first stored unit and of its
metadata byte. -/
structure Group where
  n : Nat
  q : Int
  md : Int
  deriving DecidableEq, Repr

def groupsOf (r : Rec) (starts : List Int) : List Group :=
  let ds := r.dims starts
  (List.range (boxUnits ds / 4)).filterMap (fun g =>
    let cs := coords r.bounds ds (4 * g)
    if (outDim ds cs).isSome then none
    else
      let c0 := cs.headD 0
      let q := addrOf r.base ds cs - c0 * r.unit + 2 * (c0 / 4) * r.unit
      some { n := 4 * g, q := q, md := (r.meta_ : Int) + (q - r.base) / (2 * r.unit : Int) })

/-- The byte ranges of an extent, each with the unit it belongs to (rules R30, R108). With EXP = 1 they are the stored units and their
metadata byte, and the ADDRESS test reads these: DESIGN CHOICE, unsafe (log entry 90). -/
def extentOf (r : Rec) (starts : List Int) : List (Int × Nat × Nat) :=
  if r.exp then (groupsOf r starts).flatMap (fun g => [(g.q, 2 * r.unit, g.n), (g.md, 1, g.n)])
  else (unitsOf r starts).filterMap (fun u => u.addr.map (fun a => (a, r.unit, u.n)))

/-- The lowest unit of an extent with a byte outside the virtual space (rule R106). -/
def badAddress (r : Rec) (starts : List Int) : Option Nat :=
  ((extentOf r starts).filter (fun x => decide (x.1 < 0) || decide ((2 : Int) ^ 57 < x.1 + x.2.1))).map (·.2.2)
    |>.foldl (fun b n => match b with | none => some n | some m => some (min m n)) none

/-- The lowest unit out of bounds and its lowest dimension (rule R110). -/
def firstOut (r : Rec) (starts : List Int) : Option (Nat × Nat) :=
  let ds := r.dims starts
  (List.range (boxUnits ds)).findSome? (fun n => (outDim ds (coords r.bounds ds n)).map (fun d => (n, d)))

/-! ### Cards (rule R115) -/

namespace CardWords
def rev (c : CardWords) : Nat := bits c.w0 47 32
def handle (c : CardWords) : Nat := bits c.w0 31 16
def acq (c : CardWords) : Bool := c.w0.getLsbD 11
def rel (c : CardWords) : Bool := c.w0.getLsbD 10
def scope (c : CardWords) : Nat := bits c.w0 9 8
def atop (c : CardWords) : Nat := bits c.w0 7 4
def op (c : CardWords) : Nat := bits c.w0 3 0
def pt (c : CardWords) : Nat := bits c.w1 34 32
/-- The consumed tokens. -/
def consumed (c : CardWords) : List Nat :=
  (if c.w1.getLsbD 39 then [bits c.w1 38 36] else []) ++ (if c.w1.getLsbD 43 then [bits c.w1 42 40] else [])
    ++ (if c.w1.getLsbD 47 then [bits c.w1 46 44] else [])
def laddr (c : CardWords) : Nat := bits c.w1 21 0
def stepDim (c : CardWords) (l : Nat) : Nat := bits c.w2 (20 * l + 19) (20 * l + 17)
def stepDelta (c : CardWords) (l : Nat) : Int := (c.w2.extractLsb' (20 * l) 17).toInt
def handle2 (c : CardWords) : Nat := bits c.w3 47 32
def ret (c : CardWords) : Bool := c.w3.getLsbD 22
def raddr (c : CardWords) : Nat := bits c.w3 21 0

/-- A field of the card itself breaks its rule (rule R116). A template whose word 2 has a reserved bit set is malformed too.
DESIGN CHOICE, unsafe (log entry 100): rule R116 counts any reserved field that is nonzero, and rule R117 says that a run-time
card ignores its word 2. -/
def malformed (c : CardWords) : Bool :=
  bits c.w0 63 48 != 0 || bits c.w0 15 12 != 0 || decide (5 ≤ c.op) || bits c.w1 63 48 != 0 || c.w1.getLsbD 35
    || bits c.w1 31 22 != 0 || bits c.w2 63 60 != 0 || bits c.w3 63 48 != 0 || bits c.w3 31 23 != 0
    || (c.atop != 0 && c.op != 2) || (c.op == 2 && decide (0xB ≤ c.atop))
    || (c.op == 3 && bits c.w1 21 18 != 0) || (c.op == 4 && c.laddr != 0)
    || (c.op != 4 && c.handle2 != 0) || (c.ret && c.op != 2) || (c.raddr != 0 && !(c.op == 2 && c.ret))

/-- The effective start of a deck card in dimension `i` (rule R117). -/
def startOf (c : CardWords) (nlev : Nat) (idx : List Nat) (r : Rec) (i : Nat) : Int :=
  (List.range (min nlev 3)).foldl (fun s l =>
    if c.stepDim l = i then s + ((idx.getD l 0 : Nat) : Int) * c.stepDelta l else s) (r.start i)
/-- A step that moves a dimension which the record does not have (rule R117). -/
def badStep (c : CardWords) (nlev : Nat) (r : Rec) : Bool :=
  (List.range (min nlev 3)).any (fun l => c.stepDelta l != 0 && decide (r.rank ≤ c.stepDim l))
end CardWords

/-- The bytes per unit of the operand image of an atomic card (rule R131). -/
def operandBytes (c : CardWords) (u : Nat) : Nat := if c.atop = 9 then 2 * u else u

/-- The FMT suits ATOP (rule R130). -/
def atomFmtOk (c : CardWords) (r : Rec) : Bool :=
  if c.atop = 0xA then r.fmt == 5 || r.fmt == 3 else r.fmt == 6 || r.fmt == 7

/-- The conditions of CARD_FORMAT on one record of a card, at step 5 of rule R109. -/
def recordUnfit (c : CardWords) (nlev : Nat) (deck : Bool) (r : Rec) : Bool :=
  (deck && c.badStep nlev r)
    || (c.op == 2 && (!atomFmtOk c r || r.exp || r.bounds == 1
      || (c.ret && decide (65536 < r.unit * boxUnits (r.dims [])))
      || decide ((if c.atop = 9 then 131072 else 65536) < operandBytes c r.unit * boxUnits (r.dims []))))
    || (c.op == 4 && decide (16777216 < r.unit * boxUnits (r.dims [])))

/-- The handle of the record at fault when a card does not suit its records, HANDLE before HANDLE2 (rules R109, R132). Records
that disagree fail with HANDLE. -/
def cardUnfit (c : CardWords) (nlev : Nat) (deck : Bool) (r : Rec) (r2 : Option Rec) : Option Nat :=
  if recordUnfit c nlev deck r then some r.handle
  else match r2 with
    | some x =>
      if c.op == 4 && (r.unit != x.unit || boxUnits (r.dims []) != boxUnits (x.dims [])) then some r.handle
      else if recordUnfit c nlev deck x then some x.handle else none
    | none => if c.op == 4 then some r.handle else none

/-- The limit of L (rule R104). -/
def imageLimit (op : Nat) : Nat :=
  match op with | 0 => 262144 | 1 => 2097152 | 3 => 262144 | _ => 16777216

/-- Where byte `i` of a read card's image lies in the bobbin (rule R104). -/
def bobbinAt (laddr i : Nat) : Nat := 0x200000 + (laddr / 64 * 64 + i) % 2 ^ 18
/-- Where byte `i` of a write card's image lies (rule R104). -/
def imageAt (laddr i : Nat) : Nat := canon (laddr / 64 * 64 + i)
/-- Where byte `i` of a code card's image lies in IMEM. -/
def codeAt (laddr i : Nat) : Nat := (laddr / 64 * 64 + i) % 2 ^ 18

/-- Byte `k` of the unit that FILL makes (rules R99, R105). -/
def fillByte (r : Rec) (k : Nat) : Byte :=
  if r.fmt = 1 then let x := r.fill.extractLsb' 0 4; x ++ x else r.fill.extractLsb' (8 * k) 8

end Sys2Proof.Machine
end

