-- ==== Sys2Proof/Machine/Release.lean ====
section
/-! DEFINITION. The release of cards (rules R30, R31, R35, R37, R98, R109, R110, R112, R113, R116 to R124, R129, R144,
R313 to R315, R367, R368): fetches, checks in their order, translation, and what a successful release does. -/

namespace Sys2Proof.Machine

def Cost.none : Cost := { pages := 0, misses := 0, walks := 0, deck := 0, recs := 0 }

/-- A release in preparation: the state with what it has fetched, and its cost so far. -/
structure Prep where
  s : State
  cost : Cost

/-- A step of a release's preparation: it goes on or fails, and keeps what it has fetched either way. -/
abbrev Try (α : Type) := ExceptT Refuse (StateM Prep) α

/-- LOINFO (rule R110). -/
def loWord (handle kind dim card freason : Nat) : Word :=
  atBit handle 48 ||| atBit kind 44 ||| atBit dim 41 ||| atBit card 35 ||| atBit freason 27
/-- TFINFO (rule R33). -/
def tfWord (reason level page op card ext : Nat) : Word :=
  atBit reason 24 ||| atBit level 22 ||| atBit page 16 ||| atBit op 13 ||| atBit card 7 ||| atBit ext 5

namespace State

/-- The late writes that a preparation has performed join their cores' signatures (rules R140, R417). -/
def signTaken (v s : State) : State :=
  (s.late.filter (fun w => !v.late.any (fun u => u.card == w.card && u.granule == w.granule && u.terms == w.terms))).foldl
    (fun s w => s.onCore w.core (fun c => c.sign 1 w.terms)) s

/-- What fetches have left in caches stays, whatever comes of the bundle (rule R31), and so does what their reads have taken of late
writes (rule R141). -/
def carry (v s : State) : State :=
  let s := v.signTaken s
  { s with
    mem := v.mem, poison := v.poison, late := v.late, mirrored := v.mirrored
    reticles := v.reticles, blocks := v.blocks, module := v.module, nextId := v.nextId, seed := v.seed
    core := { s.core with aux := { s.core.aux with tlb := v.core.aux.tlb, deck := v.core.aux.deck } }
    parts := Vector.ofFn (fun (i : Fin 16) => { s.parts[i] with
      ctx := s.parts[i].ctx.map (fun x => { x with badBlocks := (v.parts[i].ctx.map (·.badBlocks)).getD x.badBlocks }) }) }

/-- The registers that a refusal leaves (rules R33, R110). -/
def refused (s : State) (r : Refuse) : State :=
  s.act (fun c => { c with sys := { c.sys with
    loinfo := (r.layout.map (·.1)).getD c.sys.loinfo, loelem := (r.layout.map (·.2)).getD c.sys.loelem
    tfva := (r.fault.map (·.1)).getD c.sys.tfva, tfinfo := (r.fault.map (·.2)).getD c.sys.tfinfo } })

/-- A refusal with LAYOUT_OVERFLOW (rules R109, R110, R116). -/
def layoutRefuse (v : State) (kind handle dim card freason n : Nat) : Refuse :=
  { cause := v.core.cause 0x09 kind 6 0, layout := some (loWord handle kind dim card freason, BitVec.ofNat 64 n)
    fault := none }

/-- A refusal with PAGE_FAULT (rules R31 to R33). -/
def pageRefuse (v : State) (va : Nat) (reason level page op card ext : Nat) : Refuse :=
  { cause := v.core.cause 0x0A reason 6 0, layout := none
    fault := some (BitVec.ofNat 64 va, tfWord reason level page op card ext) }

/-- A refusal with TOKEN_MISUSE (rule R124). -/
def tokenRefuse (v : State) (code tok : Nat) : Refuse :=
  { cause := v.core.cause 0x07 code 6 (atBit tok 0), layout := none, fault := none }

end State

/-! ### Fetches -/

/-- A cost is added. -/
def spend (f : Cost → Cost) : Try Unit := modify (fun p => { p with cost := f p.cost })

/-- The state of the preparation changes. -/
def setState (s : State) : Try Unit := modify (fun p => { p with s := s })

/-- A lookup at a given depth adds a walk where it has walked. -/
def walked (f : Found) (c : Cost) : Cost := { c with walks := c.walks + (if f == .walk then 1 else 0) }

/-- One word of the deck: read once during a bind (rule R120). A failure is DECK_FETCH (rule R116); a word that cannot be read is not
kept, so that its bundle, executed again, reads it again. DESIGN CHOICE, unsafe (log entry 99): rule R120 says of words read that they
are never read again, and nothing of a read that fails. -/
def deckWord (va card : Nat) : Try Word := do
  let s := (← get).s
  match s.core.aux.deck.find? (fun e => e.1 == va) with
  | some e => pure e.2
  | none =>
    spend (fun c => { c with deck := c.deck + 1 })
    let (s, r) := s.translateFetch va
    setState s
    match r with
    | .error m => throw (s.layoutRefuse 10 0 0 card m.reason 0)
    | .ok (l, _, _) =>
      let a := l.addr va
      let v := s.behind s.core.idx (a / 64)
      if v.poisoned a then
        setState (s.fetchError a)
        throw (s.layoutRefuse 10 0 0 card 0xFF 0)
      else if !s.wayOpen a then throw (s.layoutRefuse 10 0 0 card 7 0)
      else
        let w := v.readWord a
        setState ((s.readFrom s.core.idx 0 (a / 64)).act (fun c => { c with aux := { c.aux with deck := (va, w) :: c.aux.deck } }))
        pure w

/-- Consecutive words of the deck. -/
def deckWords (card : Nat) : List Nat → Try (List Word)
  | [] => pure []
  | va :: vas => do
    let w ← deckWord va card
    let ws ← deckWords card vas
    pure (w :: ws)

/-- A record: the cached entry of its handle, or 192 bytes fetched into the cache (rules R98, R109, R112, R113). -/
def fetchRecord (card h : Nat) : Try Rec := do
  let s := (← get).s
  let b := s.blockAt (blockOf s.core.idx)
  match b.recs.find? (fun e => e.tag == s.tag && e.handle == h) with
  | some e =>
    setState (s.putBlock { b with recs := b.recs.map (fun x => if x == e then { x with used := State.nextStamp (·.used) b.recs } else x) })
    pure { handle := h, words := e.words }
  | none =>
    if bits s.core.sys.rtlim 16 0 ≤ h then throw (s.layoutRefuse 6 h 0 card 0 0)
    else
      spend (fun c => { c with recs := c.recs + 1 })
      let va := bits s.core.sys.rtbase 56 17 * 2 ^ 17 + 256 * h
      let (s, r) := s.translateFetch va
      setState s
      match r with
      | .error m => throw (s.layoutRefuse 6 h 0 card m.reason 0)
      | .ok (l, _, _) =>
        let a := l.addr va
        let seen := fun (i : Nat) => s.behind s.core.idx (a / 64 + i)
        let sick := (List.range 3).filter (fun i => (seen i).poisoned (a + 64 * i))
        if !sick.isEmpty then
          setState (sick.foldl (fun s i => s.fetchError (a + 64 * i)) s)
          throw (s.layoutRefuse 6 h 0 card 0xFF 0)
        else if !s.wayOpen a then throw (s.layoutRefuse 6 h 0 card 7 0)
        else
          let ws := (List.range 3).flatMap (fun i => (seen i).readWords (a + 64 * i) 8)
          let kept := if b.recs.length < 64 then b.recs
            else match State.oldest (·.used) b.recs with | some o => b.recs.erase o | none => b.recs
          setState (((List.range 3).foldl (fun s i => s.readFrom s.core.idx 0 (a / 64 + i)) s).putBlock { b with recs := kept ++ [{ tag := s.tag, handle := h, words := ws, used := State.nextStamp (·.used) b.recs }] })
          pure { handle := h, words := ws }

/-! ### The deck (rules R118, R119) -/

/-- The header's fields. -/
def deckFields (va : Nat) (ws : List Word) : DeckHead :=
  let w := fun i => ws.getD i 0
  { va := va, nlev := bits (w 0) 33 32, ntmpl := bits (w 0) 31 16, nstage := bits (w 0) 15 0
    counts := [bits (w 1) 31 0, bits (w 1) 63 32, bits (w 2) 31 0] }

/-- The header passes its constraints (rule R118). -/
def deckHeadOk (h : DeckHead) (rev : Nat) (ws : List Word) : Bool :=
  let w := fun i => ws.getD i 0
  !(bits (w 0) 63 48 != rev || bits (w 0) 47 34 != 0 || h.nstage == 0 || bits (w 2) 63 32 != 0
      || (List.range h.nlev).any (fun l => h.counts.getD l 0 == 0)
      || w 3 != w 0 ^^^ w 1 ^^^ w 2 ^^^ 0x5A5A5A5A5A5A5A5A)

/-- The card array: the first 32-byte boundary after the stage table. -/
def DeckHead.array (h : DeckHead) : Nat := (h.va + 0x20 + 8 * h.nstage + 31) / 32 * 32

/-- The deck's header, fetched: its fields, and whether it passes its constraints. -/
def fetchHead : Try (DeckHead × Bool) := do
  let s := (← get).s
  let va := bits s.core.sys.deckbase 56 5 * 32
  if va = 0 then throw (s.layoutRefuse 8 0 0 0 0 0)
  else
    let ws ← deckWords 0 ((List.range 4).map (fun i => va + 8 * i))
    let h := deckFields va ws
    pure (h, deckHeadOk h (bits s.core.sys.ctxrev 15 0) ws)

/-- The cards of a list of indices, fetched, each with its place in the release. -/
def fetchCards (h : DeckHead) : List (Nat × Nat) → Try (List CardWords)
  | [] => pure []
  | (k, c) :: rest => do
    let ws ← deckWords k ((List.range 4).map (fun i => h.array + 32 * c + 8 * i))
    let cs ← fetchCards h rest
    pure ({ w0 := ws.getD 0 0, w1 := ws.getD 1 0, w2 := ws.getD 2 0, w3 := ws.getD 3 0 } :: cs)

/-- A condition of CARD_FORMAT on the deck itself (rules R116, R118, R121). -/
def deckSound (ok : Bool) : Try Unit := do
  if ok then pure () else throw ((← get).s.layoutRefuse 8 0 0 0 0 0)

/-- The cards of the core's present stage (rules R118, R120, R314): every word is fetched before a header or a stage entry is
found bad (rule R116, step 2; log entry 79). -/
def fetchStage : Try (DeckHead × List CardWords) := do
  let (h, ok) ← fetchHead
  let stage := bits (← get).s.core.sys.cardpos0 15 0
  let e ← deckWord (h.va + 0x20 + 8 * stage) 0
  let n := bits e 35 32 + 1
  let cs ← fetchCards h ((List.range n).map (fun k => (k, bits e 31 0 + k)))
  deckSound (ok && bits e 63 36 == 0)
  pure (h, cs)

/-- The template that CARD.ISSUE names (rule R121): its words are fetched before the header is found bad (rule R116, step 2; log entry
79). -/
def fetchTemplate (t : Nat) : Try (DeckHead × List CardWords) := do
  let (h, ok) ← fetchHead
  let cs ← fetchCards h (if t < h.ntmpl then [(0, t)] else [])
  deckSound (ok && decide (t < h.ntmpl))
  pure (h, cs)

/-- CARDPOS0 and CARDPOS1 after a release of a stage (rule R119). -/
def advancePos (h : DeckHead) (p0 p1 : Word) : Word × Word :=
  let stage := bits p0 15 0 + 1
  let idx := [bits p0 63 32, bits p1 31 0, bits p1 63 32]
  if stage < h.nstage then (setBits p0 15 0 stage, p1)
  else
    let rec nest : Nat → Nat → List Nat → List Nat × Bool
      | 0, _, i => (i, true)
      | fuel + 1, l, i =>
        if l = h.nlev then (i, true)
        else
          let x := i.getD l 0 + 1
          if x < h.counts.getD l 0 then (i.set l x, false) else nest fuel (l + 1) (i.set l 0)
    let (i, ended) := nest 4 0 idx
    (atBit (i.getD 0 0) 32 ||| atBit ended.toNat 16, atBit (i.getD 2 0) 32 ||| atBit (i.getD 1 0) 0)

/-! ### Checks (rules R109, R116, R124) -/

/-- The token misuse of a release: the lowest token, with the lower code (rule R124). -/
def releaseMisuse (v : State) (cs : List CardWords) : Option (Nat × Nat) :=
  (List.range 8).findSome? (fun t =>
    if cs.any (fun c => c.pt == t) && v.core.reg.getTok t == .pending then some (2, t)
    else if cs.any (fun c => c.consumed.contains t) && v.core.reg.getTok t == .idle then some (3, t)
    else none)

/-- The records of every card, each card's own before the next (rule R109, check 1). -/
def fetchRecords : List (Nat × CardWords) → Try (List (Nat × CardWords × List Rec))
  | [] => pure []
  | (k, c) :: rest => do
    let r ← fetchRecord k c.handle
    let rs ← if c.op = 4 then do
        let r2 ← fetchRecord k c.handle2
        pure [r, r2]
      else pure [r]
    let xs ← fetchRecords rest
    pure ((k, c, rs) :: xs)

/-- The first failure of one check over every record of every card, in order. -/
def firstBad {α : Type} (xs : List Pull) (f : Pull → Rec → List Int → Option α) : Option (Pull × Rec × α) :=
  xs.findSome? (fun x => x.recs.findSome? (fun r => (f x r.1 r.2).map (fun a => (x, r.1, a))))

/-- The dimension of an effective start outside the signed 32-bit range (rule R117). -/
def badStart (r : Rec) (starts : List Int) : Option Nat :=
  (List.range r.rank).find? (fun i => let x := starts.getD i 0; decide (x < -(2 ^ 31)) || decide (2 ^ 31 ≤ x))

/-- Checks 2 to 10 of rule R109, in their order. -/
def recordChecks (s : State) (nlev : Nat) (deck : Bool) (xs : List Pull) : Option Refuse :=
  let rev := bits s.core.sys.ctxrev 15 0
  let limit := bits s.core.sys.rtlim 16 0
  let no := fun (kind : Nat) (x : Pull) (r : Rec) (dim n : Nat) => some (s.layoutRefuse kind r.handle dim x.k 0 n)
  match firstBad xs (fun _ r _ => if r.sound then none else some ()) with
  | some (x, r, _) => no 4 x r 0 0
  | none =>
  match firstBad xs (fun x r _ => if x.card.rev != rev || r.rev != rev then some () else none) with
  | some (x, r, _) => no 3 x r 0 0
  | none =>
  match firstBad xs (fun x r st => r.malformed limit (x.card.op == 0) st) with
  | some (x, r, d) => no 5 x r d 0
  | none =>
  match xs.findSome? (fun x => (match x.recs with
      | [a] => cardUnfit x.card nlev deck a.1 none
      | [a, b] => cardUnfit x.card nlev deck a.1 (some b.1)
      | _ => some x.card.handle).map (fun h => (x, h))) with
  | some (x, h) => some (s.layoutRefuse 8 h 0 x.k 0 0)
  | none =>
  match firstBad xs (fun x r st => if imageLimit x.card.op < r.unit * boxUnits (r.dims st) then some () else none) with
  | some (x, r, _) => no 7 x r 0 0
  | none =>
  match firstBad xs (fun _ r st => badStart r st) with
  | some (x, r, d) => no 1 x r d 0
  | none =>
  match firstBad xs (fun _ r st => if r.bounds = 1 then firstOut r st else none) with
  | some (x, r, n, d) => no 2 x r d n
  | none =>
  match firstBad xs (fun _ r st => badAddress r st) with
  | some (x, r, n) => no 1 x r 0 n
  | none =>
  match firstBad xs (fun x r st =>
      if x.card.op = 2 then
        (unitsOf r st).findSome? (fun u => u.addr.bind (fun a => if a % (r.unit : Int) != 0 then some u.n else none))
      else none) with
  | some (x, r, n) => no 8 x r 0 n
  | none => none

/-! ### Translation of a release (rules R30, R31, R132) -/

/-- The ranges of bytes that must be translated: first byte, length, and a mark of the extent they belong to (1 source, 2
destination). -/
def touched (x : Pull) : List (Nat × Nat × Nat) :=
  ((List.range x.recs.length).zip x.recs).flatMap (fun p =>
    (extentOf p.2.1 p.2.2).map (fun e => (e.1.toNat, e.2.1, p.1 + 1)))

/-- The lowest touched byte from `cur` upward. -/
def lowestFrom (ts : List (Nat × Nat × Nat)) (cur : Nat) : Option Nat :=
  ts.foldl (fun b t =>
    if t.1 + t.2.1 ≤ cur then b
    else match b with | none => some (max cur t.1) | some m => some (min m (max cur t.1))) none

/-- The extents that have a byte in the page of an address. -/
def extentsIn (ts : List (Nat × Nat × Nat)) (va size : Nat) : List Nat :=
  let lo := va / 2 ^ size * 2 ^ size
  ((ts.filter (fun t => decide (t.1 < lo + 2 ^ size) && decide (lo < t.1 + t.2.1))).map (·.2.2)).eraseDups

/-- The need of a page: for a weft transfer RD for a source byte and WR for a destination byte (rule R28). -/
def needOf (op : Nat) (exts : List Nat) : Nat :=
  if op = 4 then (if exts.contains 1 then 1 else 0) + (if exts.contains 2 then 2 else 0) else opNeeds op
def extOf (op : Nat) (exts : List Nat) : Nat :=
  if op = 4 then (if exts.contains 1 then 1 else 0) + (if exts.contains 2 then 2 else 0) else 0

/-- The pages of one card in ascending virtual address, from `cur` upward, after those found so far; pages that `known` holds
are not looked up again. It stops at a page for which the TLB has no entry to give, with `true` (rule R37). -/
def cardPages (x : Pull) (ts : List (Nat × Nat × Nat)) (known : List PageOf) : Nat → Nat → List PageOf → Try (List PageOf × Bool)
  | 0, _, ps => pure (ps, false)
  | fuel + 1, cur, ps => do
    let s := (← get).s
    match lowestFrom ts cur with
    | none => pure (ps, false)
    | some va =>
      match known.find? (fun p => p.k == x.k && inPage p.leaf.va p.leaf.size va) with
      | some p => cardPages x ts known fuel (p.leaf.va + 2 ^ p.leaf.size) (ps ++ [p])
      | none =>
        let page := ps.length
        if page = 64 then throw (s.pageRefuse 0 9 0 0 x.card.op x.k 0)
        else
          let (s, r) := s.translateFill va (fun size => needOf x.card.op (extentsIn ts va size)) 1
          setState s
          let f := match r with | .ok (_, f, _) => f | .error m => m.found
          let stops := match r with | .ok (_, _, none) => true | _ => false
          spend (fun c => walked f (if stops then c
            else { c with pages := c.pages + 1, misses := c.misses + (if f == .tlb then 0 else 1) }))
          match r with
          | .error m => throw (s.pageRefuse va m.reason m.level page x.card.op x.k (extOf x.card.op (extentsIn ts va m.size)))
          | .ok (_, _, none) => pure (ps, true)
          | .ok (l, _, some id) => cardPages x ts known fuel (l.va + 2 ^ l.size) (ps ++ [{ k := x.k, leaf := l, entry := id }])

/-- The pages of every card, in ascending card index. -/
def releasePages (known : List PageOf) : List Pull → List PageOf → Try (List PageOf × Bool)
  | [], ps => pure (ps, false)
  | x :: xs, ps => do
    let (ps, short) ← cardPages x (touched x) known 66 0 ps
    if short then pure (ps, true) else releasePages known xs ps

/-! ### The cards in flight -/

/-- The device physical address of a virtual byte under the pages of a card. -/
def dpaIn (pages : List Leaf) (va : Nat) : Nat :=
  match pages.find? (fun l => inPage l.va l.size va) with
  | some l => l.addr va
  | none => 0

/-- Consecutive items with one key, gathered. -/
def gather {α : Type} (key : α → Nat) : List α → List (List α)
  | [] => []
  | x :: xs =>
    match gather key xs with
    | [] => [[x]]
    | g :: gs => if (g.head?.map key) == some (key x) then (x :: g) :: gs else [x] :: g :: gs

/-- Items by the granule of their key, the items of one granule in their order. -/
def byGranule {α : Type} (key : α → Nat) (xs : List α) : List (List α) :=
  gather (fun x => key x / 64) (xs.mergeSort (fun a b => decide (key a / 64 ≤ key b / 64)))

/-- The bytes of a read or code card: in-bounds bytes from their addresses, the others from FILL (rules R103 to R107). -/
def readMoves (r : Rec) (st : List Int) (pages : List Leaf) (at_ : Nat → Nat) : List ByteMove :=
  (unitsOf r st).flatMap (fun u => (List.range r.unit).map (fun k =>
    { src := match u.addr with | some a => .mem (dpaIn pages (a.toNat + k)) | none => .fill (fillByte r k)
      loc := at_ (u.n * r.unit + k) }))

/-- The dense bytes of an expanding read card (rules R61, R108). -/
def expandMoves (r : Rec) (st : List Int) (pages : List Leaf) (at_ : Nat → Nat) : List ByteMove :=
  let u := r.unit
  (groupsOf r st).flatMap (fun g => (List.range (4 * u)).map (fun n =>
      let va := fun (o : Nat) => dpaIn pages (g.q.toNat + o + n % u)
      { src := .pair (dpaIn pages g.md.toNat) (n / u) (va 0) (va u), loc := at_ (g.n * u + n) }))
    ++ ((unitsOf r st).filter (fun n => n.addr.isNone)).flatMap (fun n => (List.range u).map (fun k =>
      { src := .fill (fillByte r k), loc := at_ (n.n * u + k) }))

/-- The off-wafer bytes that a source needs. -/
def ByteSrc.keys : ByteSrc → List Nat
  | .mem k => [k]
  | .fill _ => []
  | .pair m _ a b => [m, a, b]

/-- Each off-wafer granule is read once (rule R97). -/
def fetches (srcs : List ByteSrc) : List Granule :=
  (byGranule id (srcs.flatMap ByteSrc.keys)).map (fun ds => .fetch ds.eraseDups)

/-- Each local granule is written once (rule R107). -/
def fills (ms : List ByteMove) : List Granule := (byGranule (fun (m : ByteMove) => m.loc) ms).map .fill

/-- The granules of one card (rules R97, R103 to R108, R131, R132). A write or atomic card reads each local granule that it needs once,
whole 128-bit words at a time; it writes its off-wafer granules, or applies its units, from what it has read (rules R57, R58, R60). -/
def granulesOf (x : Pull) (pages : List Leaf) : List Granule :=
  let c := x.card
  let reads := fun (ms : List ByteMove) => fetches (ms.map (·.src)) ++ fills ms
  match x.recs with
  | [] => []
  | (r, st) :: rest =>
    match c.op with
    | 0 => reads (if r.exp then expandMoves r st pages (bobbinAt c.laddr) else readMoves r st pages (bobbinAt c.laddr))
    | 1 =>
      let ms : List (Nat × Nat × Nat) := (unitsOf r st).flatMap (fun u =>
        match u.addr with
        | none => []
        | some a => (List.range r.unit).map (fun k =>
          (imageAt c.laddr (u.n * r.unit + k), dpaIn pages (a.toNat + k), a.toNat + k)))
      (byGranule id (ms.map (·.1))).map (fun ls => .take ls.eraseDups)
        ++ (byGranule (fun (m : Nat × Nat × Nat) => m.2.1) ms).map (fun g => .put (g.map (fun m => (.mem (localKey m.1), m.2))))
    | 2 =>
      let ops := (unitsOf r st).flatMap (fun u => if u.addr.isNone then [] else
        (List.range (operandBytes c r.unit)).map (fun k => canon (imageAt c.laddr (u.n * operandBytes c r.unit) + k)))
      (byGranule id ops).map (fun ls => .take ls.eraseDups)
        ++ (unitsOf r st).filterMap (fun u => u.addr.map (fun a =>
          .atom { dpa := dpaIn pages a.toNat, va := a.toNat, size := r.unit
                  loc := imageAt c.laddr (u.n * operandBytes c r.unit)
                  ret := if c.ret then some (u.n * r.unit) else none }))
        ++ (if c.ret then fills ((unitsOf r st).flatMap (fun u => (List.range r.unit).map (fun k =>
            { src := if u.addr.isSome then .mem (retKey (u.n * r.unit + k)) else .fill (fillByte r k)
              loc := bobbinAt c.raddr (u.n * r.unit + k) })))
          else [])
    | 3 => reads (readMoves r st pages (codeAt c.laddr))
    | _ =>
      match rest with
      | [] => []
      | (r2, st2) :: _ =>
        let ms : List (ByteSrc × Nat × Nat) := ((unitsOf r st).zip (unitsOf r2 st2)).flatMap (fun p =>
          match p.2.addr with
          | none => []
          | some d => (List.range r.unit).map (fun k =>
            (match p.1.addr with | some a => .mem (dpaIn pages (a.toNat + k)) | none => .fill (fillByte r k),
              dpaIn pages (d.toNat + k), d.toNat + k)))
        fetches (ms.map (·.1)) ++ (byGranule (fun (m : ByteSrc × Nat × Nat) => m.2.1) ms).map .put

/-! ### The completion bound (rule R129) -/

/-- The largest gap of a class in a slot map, over 64 cyclic entries (rule R89); 64 where the class has one entry or none. -/
def gapOf (map : Vector Word 4) (cls : Nat) : Nat :=
  let es := (List.range 64).map (fun i => bits (map.getD (i / 16) 0) (i % 16 * 4 + 3) (i % 16 * 4))
  let run := (es ++ es).foldl (fun (st : Nat × Nat) e => if e = cls then (0, max st.2 (st.1 + 1)) else (st.1 + 1, st.2)) (0, 0)
  if es.contains cls then min 64 (max run.2 1) else 64

/-- G_c: the largest gap of a class among the slot maps of all 16 regions. DESIGN CHOICE, unsafe (log entry 98): rule R129 names the slot
map of rule R89 and not the region whose map it is, and a card's way may lead through several. -/
def State.gap (s : State) (cls : Nat) : Nat := (List.range 16).foldl (fun b r => max b (gapOf (s.region r).shmap cls)) 1

/-- The block column and row of a rim port's router, and M (rules R95, R129). DESIGN CHOICE, unsafe (log entry 97): rule R95 gives an
Uller link its corner reticle alone, and the model attaches it to the wafer's corner block; of the weft ports it gives no place, and the
model takes the corner of the wafer farthest from the block for each. -/
def State.rimOf (s : State) (a : Nat) (block : Nat) : Nat × Nat × Nat :=
  match dpaClass a with
  | 0 =>
    let t := hbmStack a
    let (x, y) := if t < 8 then (4 * t + 1, 0) else if t < 16 then (4 * (t - 8) + 1, 23)
      else if t < 20 then (0, 4 * (t - 15) + 1) else (31, 4 * (t - 19) + 1)
    (x, y, 1600)
  | 1 => (4 * (cxlPort a / 2) + 1, 23, if s.isPersistent a then 6400 else 3200)
  | 2 =>
    let q := (s.ullerOf block).getD 0
    (if q % 2 = 1 then 31 else 0, if 2 ≤ q then 23 else 0, 6400)
  | _ => (if 4 ≤ block / 16 % 8 then 0 else 31, if 24 ≤ block / 16 then 0 else 23, 12800)

/-- The column and the row of a block (rule R5), and the block there. -/
def blockX (b : Nat) : Nat := b / 16 % 8 * 4 + b % 4
def blockY (b : Nat) : Nat := b / 128 * 4 + b / 4 % 4
def blockXY (x y : Nat) : Nat := (y / 4 * 8 + x / 4) * 16 + y % 4 * 4 + x % 4

/-- The shuttle hops from a block to a rim port's router and the selvedge crossings among them (rule R129). -/
def hopsTo (block x y : Nat) : Nat × Nat :=
  let bx := blockX block
  let by_ := blockY block
  let d := fun (u v : Nat) => max u v - min u v
  (d bx x + d by_ y + 1, d (bx / 4) (x / 4) + d (by_ / 4) (y / 4))

/-! ### The way over the shuttle plane (rules R86, R87, R381) -/

/-- The class of a slot of a map. -/
def slotClass (m : Vector Word 4) (k : Nat) : Nat := bits (m.getD (k % 64 / 16) 0) (k % 16 * 4 + 3) (k % 16 * 4)

/-- The reticles on the way from a block to the router at (x, y): in x first, then in y (rule R86). -/
def wayReticles (b x y : Nat) : List Nat :=
  let c := blockX b / 4
  let r := blockY b / 4
  let upTo := fun (u v : Nat) => (List.range (max u v + 1)).filter (fun k => decide (min u v ≤ k))
  ((upTo c (x / 4)).map (8 * r + ·) ++ (upTo r (y / 4)).map (8 * · + x / 4)).eraseDups

namespace State

/-- A selvedge of a reticle is healthy: both ends judged it OK (rules R381, R386). -/
def selOk (s : State) (r sel : Nat) : Bool := (s.ret r).bootst.getLsbD (48 + sel)
/-- The way from a block to the router at (x, y), in x first and then in y, crosses no cut selvedge (rules R86, R381). -/
def wayWhole (s : State) (b x y : Nat) : Bool :=
  let c := blockX b / 4
  let r := blockY b / 4
  (List.range (max c (x / 4))).all (fun k => decide (k < min c (x / 4)) || s.selOk (8 * r + k) 1)
    && (List.range (max r (y / 4))).all (fun k => decide (k < min r (y / 4)) || s.selOk (8 * k + x / 4) 2)

/-- Every region on a way has slots of a class: a flit leaves a router in a slot of its own class alone (rule R87). -/
def classOn (s : State) (cls b x y : Nat) : Bool :=
  (wayReticles b x y).all (fun q => (List.range 64).any (fun k => slotClass (s.region (regionOfReticle q)).shmap k == cls))

/-- The shuttle carries traffic of a class between a block and the rim ports of given off-wafer bytes: the way crosses no cut selvedge,
and every region on it has slots of the class (rules R87, R381; log entry 86). -/
def carried (s : State) (block cls : Nat) (targets : List Nat) : Bool :=
  targets.all (fun a => let (x, y, _) := s.rimOf a block; s.wayWhole block x y && s.classOn cls block x y)

end State

/-- The granules of a class that a piece of work moves: reads 0, writes 1, atomics 2 (rule R88). -/
def Granule.cls : Granule → Option Nat
  | .fetch _ => some 0
  | .put _ => some 1
  | .atom _ => some 2
  | .take _ => none
  | .fill _ => none

/-- The off-wafer addresses that a granule reaches. -/
def Granule.targets : Granule → List Nat
  | .fetch ds => ds
  | .take _ => []
  | .fill _ => []
  | .put ms => ms.map (·.2.1)
  | .atom u => [u.dpa]

/-- The 64-byte granules that pieces of work of one class make up: the units of an atomic card in one granule count once (rules R97,
R129). -/
def granuleCount (gs : List Granule) : Nat :=
  let atoms := gs.filterMap (fun g => match g with | .atom u => some (u.dpa / 64) | _ => none)
  atoms.eraseDups.length + (gs.length - atoms.length)

/-- One leg of rule R129: for each target the factor of G_c and the constant; `n` granules behind `q` others. -/
def State.legOf (s : State) (block n q : Nat) (ts : List Nat) : List (Nat × Nat) :=
  (ts.map (fun a =>
    let (x, y, m) := s.rimOf a block
    let (h, k) := hopsTo block x y
    (8 * h + 4 * (q + n), 2 * h + 6 * k + m))).eraseDups

/-- The legs of a card: one for each class that it uses; with fills alone h, k and M are 0 and N and Q count local granules (rules
R107, R129). -/
def State.legsOf (s : State) (block op : Nat) (gs : List Granule) : List (Nat × List (Nat × Nat)) :=
  let others := s.cards.filter (fun c => blockOf c.core == block)
  let waiting := fun (p : Granule → Bool) => others.foldl (fun n c => n + granuleCount (c.granules.filter p)) 0
  let leg := fun (cls : Nat) =>
    let mine := gs.filter (fun g => g.cls == some cls)
    (cls, s.legOf block (granuleCount mine) (waiting (fun g => g.cls == some cls)) (mine.flatMap Granule.targets))
  let work := ([0, 1, 2].filter (fun cls => gs.any (fun g => g.cls == some cls))).map leg
  if work.isEmpty then [(if op = 2 then 2 else 0, [(4 * (waiting (fun g => g.cls.isNone) + gs.length), 0)])] else work

/-- B of a card from its legs, under the present slot maps: the sum over its legs of the largest over their targets. -/
def State.boundOf (s : State) (legs : List (Nat × List (Nat × Nat))) : Nat :=
  max 2 ((legs.map (fun l => (l.2.map (fun t => t.1 * s.gap l.1 + t.2)).foldl max 0)).foldl (· + ·) 0)

/-! ### The effect of a release -/

/-- The operation of a card (rule R115). -/
def cardOp (n : Nat) : CardOp :=
  match n with | 0 => .read | 1 => .write | 2 => .atomic | 3 => .code | _ => .weft

/-- A window of a watchpoint: its base and size, where it matches anything (rule R367). -/
def wptWindow (b m : Word) (width : Nat) : Option (Nat × Nat) :=
  let sz := bits m 5 0
  if 58 ≤ sz then none else some (alignTo (bits b (width - 1) 0) (2 ^ sz), 2 ^ sz)

/-- The lowest byte of ranges that lies in a window. -/
def lowestIn (w : Nat × Nat) (rs : List (Nat × Nat)) : Option Nat :=
  (rs.filterMap (fun r => if decide (0 < r.2) && r.1 < w.1 + w.2 && w.1 < r.1 + r.2 then some (max r.1 w.1) else none)).foldl
    (fun b a => match b with | none => some a | some x => some (min x a)) none

/-- The watchpoint that reads and writes of ranges match: its number and address (rule R367). `bit_` is CARD or LOCAL. -/
def watchHit (c : Core) (bit_ width : Nat) (reads writes : List (Nat × Nat)) : Option (Nat × Nat) :=
  if c.inX || c.inTrap then none
  else
    (List.range 2).findSome? (fun i =>
      let b := c.trap.wptb.getD i 0
      let m := c.trap.wptm.getD i 0
      if !m.getLsbD 63 || !m.getLsbD bit_ then none
      else
        (wptWindow b m width).bind (fun w =>
          (lowestIn w ((if m.getLsbD 60 then reads else []) ++ (if m.getLsbD 59 then writes else []))).map (fun a => (i, a))))

/-- A watchpoint trap waits to be taken after issue (rule R353). -/
def State.watched (s : State) (slot : Nat) (hit : Option (Nat × Nat)) : State :=
  match hit with
  | none => s
  | some (i, a) => s.pending (s.core.cause 0x0C i slot (BitVec.ofNat 64 a))

/-- The ranges that a card reads and writes off the wafer, for watchpoints (rule R367). -/
def cardRanges (x : Pull) : List (Nat × Nat) × List (Nat × Nat) :=
  let e := fun (r : Rec × List Int) => (extentOf r.1 r.2).map (fun t => (t.1.toNat, t.2.1))
  match x.card.op, x.recs with
  | 1, r :: _ => ([], e r)
  | 2, r :: _ => (e r, e r)
  | 4, [a, b] => (e a, e b)
  | _, r :: _ => (e r, [])
  | _, [] => ([], [])

/-- A write of a group that a release card of scope `S` waits for is still to be performed there (rules R139, R143). -/
def State.lateAt (s : State) (core scope : Nat) (groups : List Nat) : Bool :=
  s.late.any (fun w => w.core == core && groups.contains w.group && decide (1 ≤ scope) && (w.link.isSome || decide (3 ≤ scope)))

/-- A new card in flight (rules R107, R122, R123, R142, R143, R144). One without work whose edges are pending ends two cycles after
the last of them is satisfied (log entry 80). -/
def newCard (s : State) (pages : List PageOf) (x : Pull) : Card :=
  let c := x.card
  let mine := s.cards.filter (fun y => y.core == s.core.idx)
  let groupOf := fun (t : Nat) => (mine.find? (fun y => y.pt == t)).map (·.group)
  let pend := c.consumed.filter (fun t => s.core.reg.getTok t == .pending)
  let edges := ((pend.filterMap groupOf) ++ (mine.filter (·.acq)).map (·.group)).eraseDups
  let anc := (edges ++ (mine.filter (fun y => edges.contains y.group)).flatMap (·.ancestors)).eraseDups
  let mine := pages.filter (fun p => p.k == x.k)
  let dead := c.consumed.any (fun t => s.core.reg.getTok t == .error)
  let gs := if dead then [] else granulesOf x (mine.map (·.leaf))
  let legs := s.legsOf (blockOf s.core.idx) c.op gs
  { id := s.nextId + x.k, core := s.core.idx, op := cardOp c.op, handle := c.handle, pt := c.pt, scope := c.scope
    rel := c.rel, acq := c.acq, atop := c.atop, fmt := (x.recs.head?.map (fun r => r.1.fmt)).getD 0
    group := s.nextId + 64 + c.pt, edges := edges, ancestors := anc, granules := gs
    reach := ((gs.flatMap Granule.targets).map (· / 64)).eraseDups, buf := []
    err := if dead then 4 else 0, ended := false, notBefore := s.cycle + 2
    endAt := if dead || (edges.isEmpty && gs.isEmpty) then some (s.cycle + 2) else none
    pages := mine.map (·.entry), poisonedBlocks := []
    startAt := if edges.isEmpty then some s.cycle else none
    legs := legs, bound := s.boundOf legs, blocked := 0, released := s.cycle }

/-- The pins of a core's release become counts of its cards, or go; a dying entry that nothing uses is freed (rules R31, R38,
R42, R44). -/
def unpinned (count : Bool) (tlb : List TlbEntry) : List TlbEntry :=
  (tlb.map (fun e => { e with count := e.count + (if count then e.pins else 0), pins := 0 })).filter
    (fun e => !(e.dying && e.count == 0))
def State.unpin (s : State) (count : Bool) : State :=
  s.act (fun c => { c with aux := { c.aux with tlb := unpinned count c.aux.tlb } })

/-- A counter would pass 1,023 (rule R38). -/
def State.countsFull (s : State) : Bool := s.core.aux.tlb.any (fun e => decide (1023 < e.count + e.pins))

/-- A page of the release is in a block whose home is moving (rule R134). DESIGN CHOICE, unsafe (log entry 108): the pages are those of the
cards' own extents; the rule speaks of a release that would translate the block, and does not say whether the pages that its fetches of
records and of the deck translate count too. -/
def State.homeMoving (s : State) (ps : List PageOf) : Bool :=
  s.module.homes.any (fun h => h.moving.isSome && ps.any (fun p =>
    decide (p.leaf.dpa / 2 ^ 17 ≤ h.block) && decide (h.block < (p.leaf.dpa + 2 ^ p.leaf.size) / 2 ^ 17)))

/-- The blocks that cards touch under leaves with NM = 1 are pinned to their controllers (rule R135). -/
def State.pinBlocks (s : State) (cards : List Card) (ps : List PageOf) : State :=
  let nm := (ps.filter (fun p => p.leaf.perms.testBit 4)).map (·.leaf)
  if nm.isEmpty then s
  else
    let hit := (cards.flatMap (fun c => c.granules.flatMap Granule.targets)).filter (fun a =>
      decide (dpaClass a ≤ 1) && nm.any (fun l => inPage l.dpa l.size a))
    (hit.map (· / 2 ^ 17)).eraseDups.foldl (fun s b =>
      let old := (s.module.counts.find? (fun h => h.block == b)).getD
        { block := b, counts := List.replicate 11 0, pinned := false, used := s.cycle }
      let rest := s.module.counts.filter (fun h => h.block != b)
      { s with module := { s.module with counts := { old with pinned := true } :: rest } }) s

/-- The release takes effect (rules R119, R122, R123, R367, R412). -/
def effectRelease (s : State) (p : ReleasePlan) : State :=
  let xs := p.pulls
  let cards := xs.map (newCard s p.pages)
  let s1 := s.unpin true
  let s2 := ({ s1 with cards := s1.cards ++ cards, nextId := s1.nextId + 80 }).pinBlocks cards p.pages
  let pts := xs.map (fun x => x.card.pt)
  let s3 := s2.act (fun c => { c with
    reg := pts.foldl (fun r t => r.setTok t .pending) c.reg
    sys := match p.head with
      | none => c.sys
      | some h =>
        let n := advancePos h c.sys.cardpos0 c.sys.cardpos1
        { c.sys with cardpos0 := n.1, cardpos1 := n.2 }
    ctl := { c.ctl with passed := true } })
  let s4 := if s3.core.sys.trctl.getLsbD 2 then
      s3.act (fun c => c.emit s3.loom 3 c.ctl.pc
        (atBit ((xs.head?.map (fun x => x.card.handle)).getD 0) 0 ||| atBit (xs.length - 1) 16
          ||| atBit p.head.isNone.toNat 23)
        c.sys.cardpos0)
    else s3
  let rw := xs.map cardRanges
  s4.watched 6 (watchHit s4.core 62 57 (rw.flatMap (·.1)) (rw.flatMap (·.2)))

/-! ### Looking up, and what the look-up comes to -/

/-- The cards of a release as they are looked up: their records and effective starts (rules R117, R121). -/
def pullsOf (s : State) (h : DeckHead) (template : Option (Nat × List Int)) (rs : List (Nat × CardWords × List Rec)) : List Pull :=
  let idx := [bits s.core.sys.cardpos0 63 32, bits s.core.sys.cardpos1 31 0, bits s.core.sys.cardpos1 63 32]
  rs.map (fun x =>
    { k := x.1, card := x.2.1, recs := x.2.2.map (fun r => (r, (List.range r.rank).map (fun i =>
      match template with
      | none => x.2.1.startOf h.nlev idx r i
      | some (_, st) => st.getD i 0))) })

/-- A step of the look-up gives what has been found so far, with its failure where it fails. -/
def Try.upTo {α : Type} (x : Try α) (p : Prep) : Except Refuse α × Prep := x.run p

/-- What a release looks up (rules R109, R116, R314, R315), on a state whose due results have landed: `template` and `starts` are
those of CARD.ISSUE; a stage is released without them. The state keeps what has been fetched; it comes with its cost. -/
def planRelease (v : State) (template : Option (Nat × List Int)) : ReleasePlan × Prep :=
  let none_ : ReleasePlan := { head := none, cards := [], pulls := [], pages := [], short := false, failed := none, cost := .none
                               odd := false, ended := false }
  let deck : Try (DeckHead × List CardWords) :=
    match template with
    | none => if v.core.sys.cardpos0.getLsbD 16 then throw (v.layoutRefuse 9 0 0 0 0 0) else fetchStage
    | some (t, _) => fetchTemplate t
  match deck.upTo { s := v, cost := .none } with
  | (.error r, p) => ({ none_ with failed := some r }, p)
  | (.ok (h, cs), p) =>
    let plan : ReleasePlan := { none_ with head := if template.isNone then some h else none, cards := cs }
    let placed := (List.range cs.length).zip cs
    match placed.find? (fun x => x.2.malformed) with
    | some (k, c) => ({ plan with failed := some (p.s.layoutRefuse 8 c.handle 0 k 0 0) }, p)
    | none =>
    match (fetchRecords placed).upTo p with
    | (.error r, p) => ({ plan with failed := some r }, p)
    | (.ok rs, p) =>
      let plan := { plan with pulls := pullsOf p.s h template rs }
      match recordChecks p.s h.nlev template.isNone plan.pulls with
      | some r => ({ plan with failed := some r }, p)
      | none =>
        match (releasePages [] plan.pulls []).upTo p with
        | (.error r, p) => ({ plan with failed := some r }, p)
        | (.ok (ps, short), p) => ({ plan with pages := ps, short := short, cost := p.cost }, p)

/-- Translation goes on where the TLB had no entry to give (rule R37): pages and misses go on counting from those found so far (rule
R35). -/
def planOn (v : State) (plan : ReleasePlan) : ReleasePlan × Prep :=
  match (releasePages plan.pages plan.pulls []).upTo { s := v, cost := { plan.cost with walks := 0, deck := 0, recs := 0 } } with
  | (.error r, p) => ({ plan with failed := some r, short := false, cost := p.cost }, p)
  | (.ok (ps, short), p) => ({ plan with pages := ps, short := short, cost := p.cost }, p)

/-- What pages and TLB misses take (rule R35). -/
def pageTime (c : Cost) : Nat :=
  (if c.pages = 0 then 0 else (c.pages + 3) / 4 - 1) + (if c.misses = 0 then 0 else 24 + (c.misses - 1))

/-- The length of a release's hold: what its pages take beyond what has been counted before, and the free times of its fetches and
walks (rules R35, R109, R120). -/
def holdLength (s : State) (before c : Cost) : Nat :=
  let open_ := c.walks + c.deck + c.recs
  pageTime c - pageTime before + (if open_ = 0 then 0 else open_ + s.free (4096 * open_))

/-- What a release comes to at the end of its hold. -/
inductive Settled where
  | refused (r : Refuse)
  /-- It stays held, for so many cycles more (rules R37, R38, R96, R134). -/
  | wait (n : Nat) (p : ReleasePlan) (s : State)
  | released (s : State)

/-- A release whose look-up is complete (rules R37, R38, R96, R116, R123, R124, R134, R313): a check that has failed ends its hold; else
the hold goes on until there is room, and the tokens are sampled on its last cycle. -/
def settlePlan (v : State) (p : ReleasePlan) : Settled :=
  let inFlight := (v.cards.filter (fun c => c.core == v.core.idx)).length
  if p.failed.isNone && (p.short || v.countsFull || v.homeMoving p.pages || decide (16 < inFlight + p.pulls.length)) then
    .wait 2 { p with ended := !p.short } v
  else
    match releaseMisuse v p.cards, p.failed with
    | some (code, t), _ => .refused (v.tokenRefuse code t)
    | none, some r => .refused r
    | none, none => .released (effectRelease v p)

/-- A release at the end of its hold: one whose translation has stopped for want of a TLB entry goes on with it first (rule
R37). -/
def settleRelease (v : State) (p : ReleasePlan) : Settled :=
  if !p.short then settlePlan v p
  else
    let (q, r) := planOn v p
    let n := holdLength r.s p.cost r.cost
    if 0 < n then .wait (roundEven n) { q with odd := n % 2 == 1 } r.s.drawn
    else if q.short then .wait 2 q r.s
    else settlePlan r.s q

end Sys2Proof.Machine
end

