-- ==== Sys2Proof/Machine/CardWork.lean ====
section
/-! DEFINITION. Cards and link transfers at work: granules (rules R57, R58, R61, R66, R67, R97, R108, R131, R132, R140),
ends, tokens and retirement (rules R38, R93, R107, R122, R123, R127, R371), and link transfers (rules R133, R322 to
R324). -/

namespace Sys2Proof.Machine

/-- The card operation code of CARDERR.OP and TFINFO.OP. -/
def CardOp.num : CardOp → Nat
  | .read => 0 | .write => 1 | .atomic => 2 | .code => 3 | .weft => 4

/-- Consecutive local bytes, gathered into runs. -/
def byteRuns : List (Nat × Byte) → List (Nat × List Byte)
  | [] => []
  | (a, b) :: rest =>
    match byteRuns rest with
    | (a', bs) :: gs => if a + 1 = a' then (a, b :: bs) :: gs else (a, [b]) :: (a', bs) :: gs
    | [] => [(a, [b])]

/-- Bytes of a core's storage by 128-bit word, in ascending address: each word's first byte, its bytes, and whether one of them is
poisoned. -/
def wordRuns (ws : List (Nat × Byte × Bool)) : List (Nat × List Byte × Bool) :=
  (gather (fun w => w.1 / 16) (ws.mergeSort (fun a b => decide (a.1 ≤ b.1)))).flatMap (fun g =>
    (byteRuns (g.map (fun w => (w.1, w.2.1)))).map (fun r => (r.1, r.2, g.any (·.2.2))))

/-- MEMERR.AGENT of an engine that reads a word: the fill port in G8, else an engine access (rules R57, R69). -/
def readAgent (w : Nat) : Nat := if 2 ^ 17 ≤ w then 1 else 2

namespace State

/-- A card replaced by its identifier. -/
def putCard (s : State) (c : Card) : State := { s with cards := s.cards.map (fun x => if x.id == c.id then c else x) }
def cardAt (s : State) (id : Nat) : Option Card := s.cards.find? (fun c => c.id == id)

/-- The first error that a card meets stays (rule R127). -/
def cardFails (s : State) (id kind : Nat) : State :=
  match s.cardAt id with
  | none => s
  | some c => s.putCard { c with err := if c.err = 0 then kind else c.err }

/-- A block is marked for retirement with the context (rule R374). -/
def markBlock (s : State) (id dpa : Nat) : State :=
  match s.cardAt id with
  | none => s
  | some c => s.putCard { c with poisonedBlocks := (dpa / 2 ^ 17) :: c.poisonedBlocks }

/-- An engine writes bytes into a core's local space: they join the signature with sp 0 (rules R57, R417). Each 128-bit word is
written at once, poisoned where one of its bytes is (rules R60, R67, R97). -/
def engineWrite (s : State) (k : Nat) (ws : List (Nat × Byte × Bool)) : State :=
  let c0 := (s.coreOf k).sign 0 (ws.map (fun w => (w.1, w.2.1)))
  let (c, ns) := (wordRuns ws).foldl (fun (st : Core × List Note) r =>
    let (c, n) := st.1.storeBytes 1 r.1 r.2.1 (if r.2.2 then [r.1 / 16] else [])
    (c, st.2 ++ n)) (c0, [])
  (s.putCore c).notes k ns

/-- A code-load card writes bytes into IMEM; whole words take fresh check bits, a word that stays poisoned is logged, and the
lines are no longer those of the bind (rules R18, R67, R68, R370). -/
def codeWrite (s : State) (k : Nat) (ws : List (Nat × Byte × Bool)) : State :=
  let c := s.coreOf k
  let rs := wordRuns ws
  let words := rs.map (·.1 / 16)
  let whole := (rs.filter (fun r => r.2.1.length == 16)).map (·.1 / 16)
  let sick := (rs.filter (·.2.2)).map (·.1 / 16)
  let kept := c.mem.imemBad.filter (fun w => !whole.contains w)
  let c' := { c with
    mem := { c.mem with
      imem := c.mem.imem.writeAll (ws.map (fun w => (w.1, w.2.1)))
      imemBad := kept ++ sick.filter (fun w => !kept.contains w)
      imemSoft := c.mem.imemSoft.filter (fun w => !words.contains w)
      codeLines := (c.mem.codeLines ++ words.map (· / 4)).eraseDups }
    aux := (c.dropFixes true words).aux }
  (s.putCore c').notes k
    ((words.filter (fun w => kept.contains w)).map (fun w => .log (logLocal false k 1 true w)))

/-- An engine reads bytes of a core's local space; a touched uncorrectable word is counted (rules R58, R66, R69). -/
def engineRead (s : State) (k : Nat) (as : List Nat) : List Byte × Bool × State :=
  let c := s.coreOf k
  let words := (as.map (· / 16)).eraseDups
  let bad := words.filter c.mem.bad.contains
  let soft := words.filter c.mem.soft.contains
  let c' := soft.foldl (fun c w => c.memCe.addFix (unitOf (16 * w)) w) (bad.foldl (fun c w => c.memUe (readAgent w) false w) c)
  (as.map c.mem.loc.read, !bad.isEmpty,
    (s.putCore c').notes k (bad.map (fun w => .log (logLocal false k (readAgent w) false w))))

/-- An uncorrectable read at a home is logged (rule R378) and its block marked (rule R374). -/
def homeError (s : State) (id dpa : Nat) : State :=
  (s.logHome (dpa / 64)).markBlock id dpa

/-- An atomic granule of a unit's agents counts for that unit with its block, in classes 0x0 and 0x1 (rule R135). It alone counts
as a use of the block. DESIGN CHOICE, unsafe (log entry 101): the rule speaks of the least recently used block and not of what
uses one. -/
def countHome (s : State) (u dpa : Nat) : State :=
  if 1 < dpaClass dpa then s
  else
    let b := dpa / 2 ^ 17
    let m := s.module
    let old := (m.counts.find? (fun h => h.block == b)).getD
      { block := b, counts := List.replicate 11 0, pinned := false, used := 0 }
    let new := { old with counts := old.counts.set u (min 255 (old.counts.getD u 0 + 1)), used := s.cycle }
    { s with module := { m with counts := new :: m.counts.filter (fun h => h.block != b) } }

/-- The unit in a core's rim quadrant (rules R95, R134). -/
def rimUnit (core : Nat) : Nat := (if 24 ≤ reticleOf core then 2 else 0) + (if 4 ≤ reticleOf core % 8 then 1 else 0)

/-! ### Writes and the scopes at which they are performed (rules R139 to R143) -/

/-- The writes of persistent granules that no card in flight has made, with none before them that one has, can no longer be undone (rule
R93). -/
def pruned (s : State) (es : List GranuleLog) : List GranuleLog :=
  es.dropWhile (fun e => !s.cards.any (fun c => e.card == some c.id))

/-- A write of a granule is kept for a loss of power, where it lies in a persistent range (rule R93). -/
def logWrite (s : State) (card : Option Nat) (granule : Nat) (bytes : List (Nat × Byte)) (poison : Option Bool) : State :=
  if !s.isPersistent (64 * granule) then s
  else
    let e : GranuleLog := { card := card, granule := granule, bytes := bytes.map (fun b => (b.1, s.mem.read b.1, b.2))
                            was := s.poison.contains granule, mark := poison }
    { s with journal := s.pruned (s.journal ++ [e]) }

/-- A write that a new one on its link stands behind: it is of the same granule, and a read has taken it, or the card's own or one of its
ancestry's has made it (rules R139, R141, R142). -/
def standsBefore (c : Card) (w v : LateWrite) : Bool :=
  v.link == w.link && v.granule == w.granule
    && (!v.seenBy.isEmpty || v.card == c.id || (v.core == c.core && c.ancestors.contains v.group))

/-- A new write joins those on its link: behind all of them, or (`early`) ahead of those that it need not stand behind, since two writes
to one granule with no chain of edges between them fall in an order that no rule fixes (rule R141). -/
def joinLate (c : Card) (w : LateWrite) (early : Bool) (late : List LateWrite) : List LateWrite :=
  let free := (late.reverse.takeWhile (fun v => !standsBefore c w v)).length
  if early then late.take (late.length - free) ++ w :: late.drop (late.length - free) else late ++ [w]

/-- A card's write of a granule is performed at core scope (rule R139): it is written at the home, or accepted by its link; where
the companion holds a copy, the copy is still to be invalidated. A source byte in error poisons the granule that it is written into, by
rule R374's granule. DEDUCED, unsafe (log entry 104). The bytes of `terms` join the signature once the write is performed at the card's
SCOPE (rules R140, R417). -/
def acceptWrite (s : State) (c : Card) (granule : Nat) (bytes : List (Nat × Byte)) (poison : Option Bool)
    (terms : List (Nat × Byte)) : State :=
  let w : LateWrite := { card := c.id, core := c.core, group := c.group, scope := c.scope, granule := granule
                         link := s.linkOf (blockOf c.core) (64 * granule), bytes := bytes, poison := poison
                         seenBy := [], terms := [] }
  let signed := fun (s : State) => s.onCore c.core (fun k => k.sign 1 terms)
  if w.link.isSome then
    let put := fun (s : State) (w : LateWrite) => { s.drawn with late := joinLate c w (s.free 2 == 1) s.late }
    if c.scope = 0 then put (signed s) w else put s { w with terms := terms }
  else
    let s1 := (s.logWrite (some c.id) granule bytes poison).atHome granule bytes poison
    if !s.mirrored.contains granule then signed s1
    else
      let copy := { w with bytes := [], poison := none }
      if c.scope = 3 then { s1 with late := s1.late ++ [{ copy with terms := terms }] }
      else signed { s1 with late := s1.late ++ [copy] }

/-- The writes of a card are performed at a scope: those that reach their home first may still have copies to be invalidated (rules R139,
R140). -/
def lateOf (id scope : Nat) (w : LateWrite) : Bool := w.card == id && decide (1 ≤ scope) && (w.link.isSome || decide (3 ≤ scope))
def performAt (s : State) (id scope : Nat) : State := (s.performAll (lateOf id scope)).performAll (lateOf id scope)

/-- What reads of a release card's ancestry have taken on a link is performed before the card binds or writes, where its scope is wider
than the core: no later read of another observer misses it (rules R139, R143, R150). -/
def settleSeen (s : State) (c : Card) : State :=
  if c.rel && decide (1 ≤ c.scope) then
    s.performAll (fun w => w.link.isSome && w.seenBy.any (fun b => b.1 == c.core && c.ancestors.contains b.2))
  else s

end State

/-! ### Atomic operations (rule R130) -/

/-- The new value of an atomic unit of `u` bytes. -/
def atomNew (atop fmt u : Nat) (old x c : Nat) : Nat :=
  let w := 8 * u
  let s := fun (v : Nat) => sx w v
  match atop with
  | 0 => (old + x) % 2 ^ w
  | 1 => if s x < s old then x else old
  | 2 => if s old < s x then x else old
  | 3 => min old x
  | 4 => max old x
  | 5 => old &&& x
  | 6 => old ||| x
  | 7 => old ^^^ x
  | 8 => x
  | 9 => if old = c then x else old
  | _ => if fmt = 3 then fAdd .bf16 .rne old x else fAdd .f32 .rne old x

/-! ### Granules -/

/-- A byte that the engine has read, with its poison mark. -/
def heldByte (buf : List (Nat × Byte × Bool)) (key : Nat) : Byte × Bool :=
  ((buf.find? (fun b => b.1 == key)).map (·.2)).getD (0, false)

/-- The byte that a source gives (rules R61, R103 to R108): a dense unit is the second stored unit, the first, or zero, as its
metadata says. -/
def ByteSrc.value (buf : List (Nat × Byte × Bool)) : ByteSrc → Byte × Bool
  | .mem k => heldByte buf k
  | .fill b => (b, false)
  | .pair md i a b =>
    let m := (heldByte buf md).1.toNat
    let sick := (heldByte buf md).2 || (heldByte buf a).2 || (heldByte buf b).2
    (if m / 4 % 4 = i then (heldByte buf b).1 else if m % 4 = i then (heldByte buf a).1 else 0, sick)

/-- The local bytes of a unit's operands: x, or for CAS c and then x (rule R131). -/
def AtomUnit.operands (u : AtomUnit) (c : Card) : List Nat :=
  (List.range (if c.atop = 9 then 2 * u.size else u.size)).map (fun k => canon (u.loc + k))

/-- The units of a card that are still to be applied to a granule. -/
def unitsLeft (c : Card) (granule : Nat) : Nat :=
  (c.granules.filter (fun g => match g with | .atom u => u.dpa / 64 == granule | _ => false)).length

/-- The engine has read every byte that a piece of work needs. -/
def Granule.ready (c : Card) (g : Granule) : Bool :=
  let has := fun (x : ByteSrc) => x.keys.all (fun k => c.buf.any (fun b => b.1 == k))
  match g with
  | .fill ms => ms.all (fun m => has m.src)
  | .put ms => ms.all (fun m => has m.1)
  | .atom u => (u.operands c).all (fun a => has (.mem (localKey a)))
  | .fetch _ => true
  | .take _ => true

/-- The engine keeps bytes for a card. -/
def State.hold (s : State) (id : Nat) (bs : List (Nat × Byte × Bool)) : State :=
  match s.cardAt id with
  | none => s
  | some c => s.putCard { c with buf := c.buf ++ bs }

/-- One granule of a card is performed (rules R97, R131, R132, R139). -/
def performGranule (s : State) (c : Card) (g : Granule) : State :=
  match g with
  | .fetch ds =>
    if ds.any (fun a => !s.wayOpen a) then s.cardFails c.id 3
    else
      let a0 := ds.headD 0
      let v := s.behind c.core (a0 / 64)
      let bad := ds.any v.poisoned
      let s2 := (s.readFrom c.core c.group (a0 / 64)).hold c.id (ds.map (fun a => (a, v.mem.read a, bad)))
      if bad then (s2.cardFails c.id 1).homeError c.id a0 else s2
  | .fill ms =>
    let ws := ms.map (fun m => (m.loc, m.src.value c.buf))
    if c.op = .code then s.codeWrite c.core ws else s.engineWrite c.core ws
  | .take ls =>
    let (bs, bad, s1) := s.engineRead c.core ls
    let sick := fun (a : Nat) => (s.coreOf c.core).mem.bad.contains (a / 16)
    let s2 := s1.hold c.id ((ls.zip bs).map (fun x => (localKey x.1, x.2, sick x.1)))
    if bad && c.op != .atomic then s2.cardFails c.id 2 else s2
  | .atom u =>
    if !s.wayOpen u.dpa then s.cardFails c.id 3
    else
      let held := (u.operands c).map (fun a => heldByte c.buf (localKey a))
      let bs := held.map (·.1)
      let g := u.dpa / 64
      let v := (s.performSeen g).behind c.core g
      let old := v.mem.readN u.dpa u.size
      let sick := v.poisoned u.dpa || held.any (·.2)
      let s1 := if sick || unitsLeft c g ≤ 1 then v.countHome (State.rimUnit c.core) u.dpa else v
      let back := fun (s : State) (p : Bool) =>
        match u.ret with
        | none => s
        | some r => s.hold c.id ((List.range u.size).map (fun k => (retKey (r + k), old.getD k 0, p)))
      if v.poisoned u.dpa then ((back s1 true).cardFails c.id 1).homeError c.id u.dpa
      else if sick then s1.cardFails c.id 2
      else
        let x := ofBytes (if c.atop = 9 then bs.drop u.size else bs)
        let cmp := ofBytes (bs.take u.size)
        let new := toBytes u.size (atomNew c.atop c.fmt u.size (ofBytes old) x cmp)
        let s2 := s1.acceptWrite c g (placed u.dpa new) none (placed u.va new)
        back (s2.behind c.core g) false
  | .put ms =>
    let a0 := (ms.map (·.2.1)).headD 0
    if !s.wayOpen a0 then s.cardFails c.id 3
    else
      let vs := ms.map (fun m => m.1.value c.buf)
      let bad := vs.any (·.2)
      let whole := decide (64 ≤ (ms.map (·.2.1)).eraseDups.length)
      let s2 := s.acceptWrite c (a0 / 64) ((ms.map (·.2.1)).zip (vs.map (·.1)))
        (if bad then some true else if whole then some false else none) ((ms.map (·.2.2)).zip (vs.map (·.1)))
      if bad then s2.markBlock c.id a0 else s2

namespace State

/-- A data error of a card or link instruction enters CARDERR (rule R127). -/
def dataError (s : State) (k op kind tok handle : Nat) : State :=
  s.onCore k (fun c => { c with sys := { c.sys with carderr := cardErrAdd c.sys.carderr op kind tok handle } })

/-- TLB counters fall by the cards that count in them; a dying entry that nothing uses is freed (rules R38, R42). -/
def uncount (s : State) (k : Nat) (entries : List Nat) : State :=
  s.onCore k (fun c =>
    let less := c.aux.tlb.map (fun e => { e with count := e.count - (entries.filter (· == e.id)).length })
    { c with aux := { c.aux with tlb := less.filter (fun e => !(e.dying && e.count == 0 && e.pins == 0)) } })

/-- A card has ended: its error is recorded, and when it is the last of its group the token leaves pending and the cards
of the group retire (rules R38, R122, R127). -/
def endCard (s : State) (id : Nat) : State :=
  match s.cardAt id with
  | none => s
  | some c =>
    let s1 := s.putCard { c with ended := true }
    let s2 := if c.err = 0 then s1 else s1.dataError c.core c.op.num c.err c.pt c.handle
    let grp := s2.cards.filter (fun x => x.core == c.core && x.group == c.group)
    if grp.all (·.ended) then
      let tok := if grp.any (fun x => x.err != 0) then Tok.error else Tok.done
      let s3 := s2.onCore c.core (fun k => { k with reg := k.reg.setTok c.pt tok })
      let s4 := grp.foldl (fun s x => s.uncount c.core x.pages) s3
      let blocks := grp.flatMap (·.poisonedBlocks)
      let s5 := match s4.ctxOf c.core with
        | some (p, _) => s4.onCtx p (fun x => { x with badBlocks := (x.badBlocks ++ blocks).eraseDups })
        | none => s4
      let failed := tok == .error
      { s5 with cards := (s5.cards.filter (fun x => !(x.core == c.core && x.group == c.group))).map (fun x =>
        if x.core = c.core && x.edges.contains c.group then
          let es := x.edges.filter (· != c.group)
          let dead := failed && !x.ended
          { x with
            edges := es
            err := if dead && x.err = 0 then 4 else x.err
            granules := if dead then [] else x.granules
            startAt := if es.isEmpty || dead then some (x.startAt.getD s.cycle) else x.startAt
            endAt := if dead then some (x.endAt.getD (s.cycle + 2))
              else if es.isEmpty && x.granules.isEmpty then some (x.endAt.getD (s.cycle + 2)) else x.endAt }
        else x) }
    else s2

/-! ### Link transfers -/

/-- A semaphore takes a signal (rule R133). -/
def signal (s : State) (k : Nat) (m : BitVec 4) : State :=
  let n := (s.coreOf k).reg.getSem m
  if n = 0xFFFF then s.dataError k 7 6 0 0 else s.onCore k (fun c => { c with reg := c.reg.setSem m (n + 1) })

/-- The elements of a receive-and-add. -/
def raddElem (ty : RaddType) (old new : Nat) : Nat :=
  match ty with
  | .f32 => fAdd .f32 .rne old new
  | .f16 => fAdd .f16 .rne old new
  | .bf16 => fAdd .bf16 .rne old new
  | .i32 => (old + new) % 2 ^ 32
def raddSize : RaddType → Nat
  | .f32 => 4 | .i32 => 4 | .f16 => 2 | .bf16 => 2

/-- An error of a link instruction: its first one stays (rule R324). -/
def linkFails (s : State) (id kind : Nat) : State :=
  { s with links := s.links.map (fun x => if x.id == id && x.err == 0 then { x with err := kind } else x) }

/-- A link instruction whose flit is lost ends, paired or not (rules R89, R324). -/
def linkStops (s : State) (id : Nat) : State :=
  { s with links := s.links.map (fun x => if x.id == id then { x with endAt := some (x.endAt.getD (s.cycle + 1)) } else x) }

/-- Bytes of a transfer are moved, from `off` upward (rules R323, R324): a receive writes them, poisoned where they arrive so; a
receive-and-add adds them element by element, and no sum is made of an element of which not every byte arrives; a send reads its
source. -/
def linkMove (s : State) (l : LinkXfer) (off n : Nat) : State :=
  let data := match l.paired with | some p => (p.bytes.drop off).take n | none => []
  let sick := fun (i : Nat) => match l.paired with | some p => p.bad.contains ((off + i) / 16) | none => false
  let at_ := fun (i : Nat) => canon (l.addr / 64 * 64 + off + i)
  match l.op with
  | .send =>
    let (_, bad, s1) := s.engineRead l.core ((List.range n).map at_)
    if bad then s1.linkFails l.id 2 else s1
  | .recv => s.engineWrite l.core ((List.range n).map (fun i => (at_ i, data.getD i 0, sick i)))
  | .radd ty =>
    let w := raddSize ty
    let (old, bad, s1) := s.engineRead l.core ((List.range n).map at_)
    let spoilt := fun (i : Nat) => (s.coreOf l.core).mem.bad.contains (at_ i / 16)
    let whole := n / w * w
    let new := (List.range (n / w)).flatMap (fun i =>
      toBytes w (raddElem ty (ofBytes ((old.drop (i * w)).take w)) (ofBytes ((data.drop (i * w)).take w))))
    let s2 := s1.engineWrite l.core ((List.range whole).map (fun i => (at_ i, new.getD i 0, spoilt i || sick i)))
    if bad then s2.linkFails l.id 2 else s2

/-- A link instruction ends: its error is recorded and its semaphore signalled (rules R324, R133). -/
def endLink (s : State) (id : Nat) : State :=
  match s.links.find? (fun l => l.id == id) with
  | none => s
  | some l =>
    let s1 := { s with links := s.links.filter (fun x => x.id != id) }
    let s2 := if l.err = 0 then s1 else s1.dataError l.core 7 l.err 0 0
    s2.signal l.core l.sem

end State

end Sys2Proof.Machine
end

