-- ==== Sys2Proof/Machine/Issue.lean ====
section
/-! DEFINITION. The gate through which every slot instruction issues: the causes found before issue in their order
(rules R54, R125, R126, R173, R213, R259, R312, R313, R318, R319, R321, R322, R353, R354), holds before issue, and the
issue itself; and the issue of a bundle (rules R209, R210, R246). -/

namespace Sys2Proof.Machine

/-! ### Refusals of self-test and margining (rules R259 to R262, R312) -/

namespace State

/-- Another core runs a test that `f` recognises. -/
def underTest (s : State) (f : Nat → HoldKind → Bool) : Bool :=
  s.others.any (fun c => match c.ctl.hold with | some h => c.idx != s.core.idx && f c.idx h.kind | none => false)

/-- A link transfer into the acting core's local space has not ended. DESIGN CHOICE, unsafe (log entry 116): a posted receive counts from its
issue; rule R259 does not say whether one that has not paired is a transfer in progress. -/
def linkInto (s : State) (k : Nat) : Bool :=
  s.links.any (fun l => l.core == k && match l.op with | .send => false | _ => true)
/-- A token of a core is pending. -/
def tokPending (c : Core) : Bool := (List.range 8).any (fun t => c.reg.getTok t == .pending)

/-- A port that MARG.L names is trained: weft ports 0x00 to 0x23, Uller links 0x40 to 0x43. -/
def portUp (s : State) (p : Nat) : Bool :=
  if p < 36 then s.module.weft.getD p .untrained == .up else s.module.uller.getD (p - 0x40) .untrained == .up

/-- The refusal code of SYS.BIST. -/
def bistRefusal (s : State) (o : R2Ops) : Option Nat :=
  let a := s.core.rs o.a
  let target := bits a 7 0
  let unit := bits a 15 8
  let owns := (s.core.side == 0 && s.arr == 1) || (s.core.side == 1 && s.arr == 2)
  if !s.core.aux.grant then some 1
  else if bits a 63 16 != 0 || target == 0 || decide (4 < target) || (target == 1 && decide (9 < unit))
      || (target == 2 && decide (3 < unit)) || (target == 3 && unit != 0) || (target == 4 && decide (3 < unit)) then some 2
  else if (decide (target ≤ 2) && (tokPending s.core || s.linkInto s.core.idx)) ||
      (decide (3 ≤ target) && s.underTest (fun k h => tileOf k == tileOf s.core.idx &&
          match h with | .bist t _ _ => t == target | _ => false)) then some 3
  else if target = 3 && !owns then some 4
  else if target = 2 && s.core.ctl.pc.toNat / 0x10000 = unit then some 6
  else none

/-- The refusal code of MARG.V. -/
def margVRefusal (s : State) (o : R2Ops) : Option Nat :=
  let a := s.core.rs o.a
  let off := (s.core.rs o.b).toInt
  if !s.core.aux.grant then some 1
  else if bits a 63 4 != 0 then some 2
  else if s.underTest (fun _ h => match h with | .margV r _ => r == bits a 3 0 | _ => false) then some 3
  else if (s.partOf s.core.idx).all (fun p => !(s.partRegions p).contains (bits a 3 0)) then some 4
  else if off < -16 || 16 < off then some 5
  else none

/-- The refusal code of MARG.L. -/
def margLRefusal (s : State) (o : R2Ops) : Option Nat :=
  let a := s.core.rs o.a
  let b := s.core.rs o.b
  let port := bits a 7 0
  let e := bits b 5 0
  if !s.core.aux.grant then some 1
  else if !(decide (port < 36) || (decide (0x40 ≤ port) && decide (port ≤ 0x43))) || bits a 9 8 == 3 || bits a 63 10 != 0
      || bits b 63 6 != 0 then some 2
  else if !s.portUp port || s.underTest (fun _ h => match h with | .margL p _ _ => p == port | _ => false) then some 3
  else if e < 10 || 40 < e then some 5
  else none

/-- The refusal code of an instruction, whatever other cores are about to issue (rules R259, R312). -/
def ownRefusal (s : State) (i : Instr) : Option Nat :=
  match i with
  | .sysBist o => s.bistRefusal o
  | .margV o => s.margVRefusal o
  | .margL o => s.margLRefusal o
  | .gclkAln _ => if s.core.aux.grant then none else some 1
  | _ => none

/-- Two cores ask for one test: of their tile's array or router, of a region's voltage, of a port (rules R259 to R262). -/
def sameTest (c d : Core) (i j : Instr) : Bool :=
  match i, j with
  | .sysBist o, .sysBist p =>
    tileOf c.idx == tileOf d.idx && decide (3 ≤ bits (c.rs o.a) 7 0) && bits (c.rs o.a) 7 0 == bits (d.rs p.a) 7 0
  | .margV o, .margV p => c.rs o.a == d.rs p.a
  | .margL o, .margL p => bits (c.rs o.a) 7 0 == bits (d.rs p.a) 7 0
  | _, _ => false

/-- The first precise cause of a compute-phase bundle that is found before its tests are judged (rules R53 to R55, R354). -/
def earlyCause (v : State) (wm : BitVec 8) (xs : List SlotWord) : Option (Cause × Option Word) :=
  let c := v.core
  match (c.encodingCause xs).or ((c.phaseCause xs).or (c.windowCause v.arr v.loom.toNat xs)) with
  | some k => some (k, none)
  | none =>
    match c.bankFault v.cycle xs with
    | some b => some (c.cause 0x05 (bits b.bcinfo 31 28) b.slot.num 0, some b.bcinfo)
    | none => (c.bkptCause.or (c.tokenCause wm xs)).map (fun k => (k, none))

/-- A core's bundle may issue on this cycle: it is due, or a hold that it or the bundle before it has kept ends. -/
def mayIssue (s : State) (c : Core) : Bool :=
  c.ctl.mode == .running && c.ctl.idle == 0 && !c.trap.returning && s.agenda.any (fun e => e.2.core == c.idx &&
    (match e.1 with
      | .bundleIssue => true | .tokenWaitEnd => true | .semWaitEnd => true | .gclkWaitEnd => true | .recflHoldEnd => true
      | .bistEnd => true | .margVSettled => true | .margLSweepEnd => true
      | _ => false))

/-- The test that the bundle of another core which issues on this cycle asks for, on the state that it reads: the results due have
landed, and nothing stops it before its tests are judged (rules R259, R354). -/
def sbDue (s : State) (k : Nat) : Option (Core × Instr) :=
  let f := s.focus k
  let a := f.core.nextBundle
  if !s.mayIssue f.core then none
  else match decodeHead (f.core.bundleHead a) (Core.wordOf a) with
    | .bundle h =>
      let xs := decodeSlots (Slot.all.filter (fun sl => h.sp.getLsbD sl.num)) (f.core.bundleWords a (h.words - 1))
      let v := f.landNow
      if f.core.unsound a || v.core.inX || (v.earlyCause h.wm xs).isSome ||
          (List.range 8).any (fun t => h.wm.getLsbD t && v.core.reg.getTok t == .pending) ||
          (!v.core.inTrap && v.core.trap.nanPend.isSome) || (firstPending f.core).isSome then none
      else xs.findSome? (fun x =>
        match x.dec with
        | .ok i => if x.slot == .sb && v.core.guard x then some (v.core, i) else none
        | .bad _ => none)
    | _ => none

/-- Another core of lower flat index issues the same request on this cycle, and is not refused (rule R259). -/
def rivalTest (s : State) (i : Instr) : Bool :=
  s.others.any (fun c => decide (c.idx < s.core.idx) &&
    (s.sbDue c.idx).any (fun d => sameTest s.core d.1 i d.2 && ((s.focus c.idx).landNow.ownRefusal d.2).isNone))

/-- The BIST-refusal code of an instruction (rule R259). -/
def testRefusal (s : State) (i : Instr) : Option Nat :=
  match s.ownRefusal i with
  | some k => if 3 < k && s.rivalTest i then some 3 else some k
  | none => if s.rivalTest i then some 3 else none

/-- The first refusal among the slots of a bundle. -/
def testCause (s : State) (xs : List SlotWord) : Option Cause :=
  xs.findSome? (fun x =>
    match x.dec with
    | .ok i => if s.core.guard x then (s.testRefusal i).map (fun c => s.core.cause 0x08 c x.slot.num 0) else none
    | .bad _ => none)

/-! ### Holds before issue -/

/-- What stands between an XC instruction and its issue. -/
inductive Ready where
  | go (s : State)
  | hold (kind : HoldKind) (len : Nat) (s : State)
  | refuse (r : Refuse) (s : State)

/-- The template index and starts of CARD.ISSUE (rule R315). -/
def issueArgs (s : State) (a b : BitVec 6) : Nat × List Int :=
  let pair := fun (w : Word) => [(w.extractLsb' 0 32).toInt, (w.extractLsb' 32 32).toInt]
  (bits (s.core.rs a) 15 0, pair (s.core.rs b) ++ pair (s.core.rs (b + 1)) ++ pair (s.core.rs (b + 2)))

/-- A release: it is looked up, and made once its hold has ended, or at once when it has none (rules R35, R313). -/
def readyRelease (s : State) (t : Option (Nat × List Int)) : Ready :=
  if s.core.ctl.passed then .go s
  else
    let (p, r) := planRelease s t
    let n := holdLength r.s .none r.cost
    if 0 < n then .hold (.release { p with odd := n % 2 == 1 }) n r.s.drawn
    else
      match settlePlan r.s p with
      | .refused x => .refuse x (r.s.unpin false)
      | .wait n q w => .hold (.release q) n w
      | .released w => .go w

/-- A card or link instruction of the core, released or issued on an earlier fabric cycle, has not ended (rule R319). -/
def unfinished (s : State) (k : Nat) : Bool :=
  s.cards.any (fun c => c.core == k && decide (c.released < s.cycle)) ||
    s.links.any (fun l => l.core == k && decide (l.issued < s.cycle))

/-- FENCE.ERR, once nothing is in flight: it passes, or reports the recorded error (rule R319). -/
def fenceReady (s : State) : Ready :=
  if s.core.sys.carderr.getLsbD 63 then
    .refuse { cause := s.core.cause 0x0B (bits s.core.sys.carderr 59 56) 6 s.core.sys.carderr, layout := none, fault := none } s
  else .go (s.act (fun c => { c with ctl := { c.ctl with passed := true } }))

/-- The operand fault of a link instruction: DIM of LOINFO (rule R321). -/
def linkFault (s : State) (elem : Nat) (o : LkOps) : Option Nat :=
  let a := s.core.rs o.a
  let b := s.core.rs o.b
  let len := bits b 31 0
  if 35 < bits a 37 32 then some 1
  else if 2097152 < bits b 21 0 then some 2
  else if bits b 21 0 % elem != 0 then some 3
  else if bits a 31 22 != 0 || bits a 63 38 != 0 || len != bits b 21 0 || bits b 63 48 != 0 then some 4
  else none

/-- A link instruction waits for one of the core's eight slots, and a receive for room at its port (rule R322). -/
def readyLink (s : State) (recv : Bool) (elem : Nat) (o : LkOps) : Ready :=
  match s.linkFault elem o with
  | some d => .refuse (s.layoutRefuse 11 0 d 0 0 0) s
  | none =>
    let port := bits (s.core.rs o.a) 37 32
    let mine := (s.links.filter (fun l => l.core == s.core.idx)).length
    let posted := (s.links.filter (fun l => l.port == port && l.paired.isNone &&
      match l.op with | .send => false | _ => true)).length
    if 8 ≤ mine || (recv && decide (256 ≤ posted)) then .hold .link 2 s else .go s

/-- What stands between an instruction and its issue. -/
def ready (s : State) (i : Instr) : Ready :=
  match i with
  | .cardAdv _ => s.readyRelease none
  | .cardIssue o => s.readyRelease (some (s.issueArgs o.a o.b))
  | .semWait o => if o.n.toNat ≤ (s.core.reg.getSem o.m).toNat then .go s else .hold .sem 2 s
  | .fenceErr _ =>
    if s.core.ctl.passed then .go s
    else if s.unfinished s.core.idx then .hold .fenceErr 2 s
    else s.fenceReady
  | .lnkSend o => s.readyLink false 1 o
  | .lnkRecv o => s.readyLink true 1 o
  | .lnkRaddF32 o => s.readyLink true 4 o
  | .lnkRaddBf16 o => s.readyLink true 2 o
  | .lnkRaddF16 o => s.readyLink true 2 o
  | .lnkRaddI32 o => s.readyLink true 4 o
  | _ => .go s

/-! ### Admission -/

/-- What comes of a bundle that is about to issue. -/
inductive Admit where
  /-- It does not issue now: a trap has been taken, or a hold has begun. -/
  | stop (s : State)
  /-- It issues: the due results have landed, and these of its slots are not suppressed. -/
  | go (s : State) (xs : List SlotWord)

/-- The NaN that has landed is taken out: what lands with it on this core cycle reports none any more (rule R369). -/
def dropNan (s : State) : State :=
  s.act (fun c => { c with
    trap := { c.trap with nanPend := none }
    ctl := { c.ctl with lands := c.ctl.lands.map (fun l => if l.due = c.ctl.cc then { l with nan := none } else l) } })

/-- The cause that falls at the boundary before this core cycle (rules R354, R357, R369): an after-issue cause that waits, then a
NaN that lands on it, then, where a bundle would issue, a straggler. -/
def boundaryCause (s v : State) (bundle : Bool) : Option (Cause × State) :=
  if s.core.inX || s.core.ctl.passed || s.core.ctl.mode != .running then none
  else
    let wait := firstPending s.core
    match wait.filter (fun k => decide (k.code < 0x0D)), (if s.core.inTrap then none else v.core.trap.nanPend), wait with
    | some k, _, _ => some (k, s.act (dropPending · k))
    | none, some k, _ => some (k, s.dropNan)
    | none, none, some k => if bundle then some (k, s.act (dropPending · k)) else none
    | none, none, none => none

/-- The boundary trap taken before a core cycle with `idle` empty cycles left. -/
def trapBoundary (s : State) (k : Cause) : State :=
  s.trapAt k
    { pc := s.core.ctl.pc, idle := s.core.ctl.idle, base := s.core.ctl.cc, loom := s.loom
      parity := (s.core.ctl.dueAt.getD s.cycle) % 2, taken := s.cycle }

/-- The slots of an exchange-phase bundle that are not suppressed, with the errors of the others (rules R56, R126, R133,
R173, R213, R251). A bundle has one encoding fault, the first that applies: slots with one destination are suppressed where no slot is
faulty by itself. DESIGN CHOICE, unsafe (log entry 109): a slot that is suppressed for an encoding fault reports ENCODING_X alone, though
it may be phase-illegal too; rules R173 and R213 do not say which of the two a slot reports that both apply to. -/
def admitX (v : State) (wm : BitVec 8) (xs : List SlotWord) : State × List SlotWord :=
  let broken := fun (x : SlotWord) => (v.core.slotFault x).isSome
  let clash := if xs.any broken then [] else Core.clashing xs
  let faulty := fun (x : SlotWord) => broken x || clash.contains x.slot
  let sem := fun (x : SlotWord) => match x.dec with | .ok (.semWait _) => true | _ => false
  let illegal := fun (x : SlotWord) => !faulty x && v.core.slotPhaseBad x
  let waits := (List.range 8).any (fun k => wm.getLsbD k &&
    (v.core.reg.getTok k == .pending || v.core.reg.getTok k == .idle))
  let v1 := if xs.any faulty then v.xerror 0x0A else v
  let v2 := if waits || xs.any (fun x => illegal x && sem x && v.core.guard x) then v1.xerror 0x08 else v1
  let v3 := if xs.any illegal then v2.xerror 0x09 else v2
  (v3, xs.filter (fun x => !faulty x && !illegal x))

/-- The first precise cause of a compute-phase bundle, with what it leaves in BCINFO (rules R53 to R55, R354). -/
def preciseCause (v : State) (wm : BitVec 8) (xs : List SlotWord) : Option (Cause × Option Word) :=
  (v.earlyCause wm xs).or ((v.testCause xs).map (fun k => (k, none)))

/-- A bundle's XC slot is made ready. -/
def readyAll (v : State) (xs : List SlotWord) : Ready :=
  match xs.find? (fun x => x.slot == .xc) with
  | none => .go v
  | some x =>
    match x.dec with
    | .ok i => if v.core.guard x then v.ready i else .go v
    | .bad _ => .go v

/-- What SYS.RD of a releasing bundle reads on its issue cycle, before its hold and before its release (rules R34, R256,
R314). -/
def latchRd (s v : State) (xs : List SlotWord) : State :=
  match xs.findSome? (fun x => match x.dec with | .ok (.sysRd o) => some o.n | _ => none) with
  | none => s
  | some n => s.act (fun c => { c with ctl := { c.ctl with
      rdLatch := some (c.ctl.rdLatch.getD (v.core.sysReadNow v.arr n)) } })

/-- A slot makes a card release (rule R116). -/
def releases (xs : List SlotWord) : Bool :=
  xs.any (fun x => match x.dec with | .ok (.cardAdv _) => true | .ok (.cardIssue _) => true | _ => false)

/-- A precise cause is taken before issue, with what it leaves in BCINFO (rules R53 to R55, R354). -/
def trapPrecise (s : State) (k : Cause × Option Word) : State :=
  (match k.2 with
    | none => s
    | some w => s.act (fun c => { c with sys := { c.sys with bcinfo := w } })).trapBefore k.1

/-- A bundle with these slots and wait mask comes to issue (rules R125, R126, R313, R354). -/
def vet (s : State) (wm : BitVec 8) (xs : List SlotWord) : Admit :=
  let v := s.landNow
  match s.boundaryCause v true with
  | some (k, s') => .stop (s'.trapBoundary k)
  | none =>
    if v.core.inX then let (v', ys) := v.admitX wm xs; .go v' ys
    else if v.core.ctl.passed then .go v xs
    else
      match v.preciseCause wm xs with
      | some k => .stop (s.trapPrecise k)
      | none =>
        if (List.range 8).any (fun k => wm.getLsbD k && v.core.reg.getTok k == .pending) then .stop (s.holdBefore .token 2)
        else
          match v.readyAll xs with
          | .refuse r w => .stop (((w.carry s).refused r).trapBefore r.cause)
          | .hold kind len w =>
            let s1 := w.carry s
            .stop ((if releases xs then s1.latchRd v xs else s1).holdBefore kind len)
          | .go v' => .go (if releases xs then v'.latchRd v xs else v') xs

end State

/-! ### The gate -/

/-- A slot instruction as a slot word. -/
def slotWordOf (i : Instr) : SlotWord := { slot := i.slot.getD .sa, word := i.word, dec := .ok i }

/-- The state in which a slot that does not end its bundle's issue has its effect. -/
def State.asSlot (v : State) : State := { v with arg := { v.arg with bundle := true, last := false } }

/-- A slot instruction issues. As part of a bundle whose checks have passed, it has its effect when its guard reads true
(rule R212), and the last slot ends the bundle's issue. On its own it is a bundle of one slot, which is admitted
first: it runs as a slot of that bundle, and the bundle's issue then ends. -/
def issue (i : Instr) (g : BitVec 4) (eff : State → State) (s : State) : Out :=
  if s.arg.bundle then .next (if s.core.rp g then eff s else s).close
  else
    match s.vet 0 [slotWordOf i] with
    | .stop s' => .next s'
    | .go v xs => .next (if xs.isEmpty then v.act (fun c => c.advance true v.arg.idle)
        else { (if v.core.rp g then eff v.asSlot else v) with arg := v.arg }.finish)

/-! ### Activity (rule R399) -/

/-- The weight of a slot. -/
def weight (x : SlotWord) : Nat :=
  let op := (opcodeOf x.word).toNat
  match x.slot with
  | .mx => if op ≤ 0x00 then 16 else 2
  | .vm => 4
  | .va => 2
  | .lm => if 0x10 ≤ op then 1 else 0
  | _ => 0

/-! ### The issue of a bundle -/

/-! ### Matrix-cycle accounting (rules R414 to R416) -/

namespace Core

/-- Nothing is in flight and no redirect is pending, in the context that a trap has frozen as well (rule R409). -/
def quiet (c : Core) : Bool :=
  c.ctl.lands.isEmpty && c.ctl.claims.isEmpty && c.ctl.redirects.isEmpty &&
    (match c.trap.shadow with
      | some sh => sh.lands.isEmpty && sh.claims.isEmpty && sh.redirects.isEmpty
      | none => true)

/-- The class of a fabric cycle for its owner (rule R414). -/
def acctClass (c : Core) (cycle : Nat) : Nat :=
  match c.aux.mxNow with
  | some 0 => 0
  | some 1 => 1
  | some 2 => 1
  | _ =>
    if decide (cycle < c.aux.drainTo) then 2
    else match c.ctl.hold with
      | some h => (match h.kind with | .token => 3 | .sem => 3 | _ => 4)
      | none => 4

/-- The ACCT record of the charge address, with the loom count of the last cycle that it covers; the counts are cleared (rule R416). -/
def acctFlush (c : Core) : Core :=
  let n := fun (i : Nat) => (c.aux.acct.getD i 0).toNat
  let c1 := if c.sys.trctl.getLsbD 4 then
      c.emit c.aux.acctAt 6 (c.sys.mxchg.setWidth 18) (atBit (n 3) 48 ||| atBit (n 2) 32 ||| atBit (n 1) 16 ||| atBit (n 0) 0)
        (atBit (n 4) 0)
    else c
  { c1 with aux := { c1.aux with acct := Vector.replicate 5 0 } }

/-- One cycle of a class in the counts of the charge address, while ACCT is 1. -/
def acctAdd (c : Core) (k : Nat) : Core :=
  if !c.sys.trctl.getLsbD 4 || c.aux.acctOff then c
  else
    let n := c.aux.acct.getD k 0 + 1
    let c1 := { c with aux := { c.aux with acct := c.aux.acct.setIfInBounds k n } }
    if n = 0xFFFF then c1.acctFlush else c1

/-- The counts cover the present cycle, whoever owns it: a record that closes them names it (rule R416). -/
def acctCover (c : Core) (loom : Word) : Core :=
  if c.aux.acctOff then c else { c with aux := { c.aux with acctAt := loom } }

/-- The array's present cycle is counted for its owner, in its class (rule R414). -/
def acctCycle (c : Core) (arr cycle : Nat) (loom : Word) : Core :=
  if !c.aux.counting then c
  else if !c.inWindow arr loom.toNat then c.acctCover loom
  else
    let k := c.acctClass cycle
    let c := c.acctCover loom
    let c1 := { c with sys := { c.sys with mxacc := c.sys.mxacc.setIfInBounds k (c.sys.mxacc.getD k 0 + 1) } }
    c1.acctAdd k

/-- HALT closes the counts with the present cycle (rule R416). -/
def acctHalt (c : Core) (arr cycle : Nat) (loom : Word) : Core :=
  if c.aux.acctOff || !c.aux.counting then c
  else
    let c0 := c.acctCover loom
    let c1 := if c.inWindow arr loom.toNat then c0.acctAdd (c.acctClass cycle) else c0
    let c2 := c1.acctFlush
    { c2 with aux := { c2.aux with acctOff := true } }

/-- The counts of a core that stops before the present cycle close (rule R416). -/
def acctStop (c : Core) : Core := if c.aux.acctOff || !c.aux.counting then c else c.acctFlush

/-- The counts close with the present cycle, on which the core has stopped (rule R416). -/
def acctClose (c : Core) : Core :=
  if !c.aux.acctEnd then c
  else
    let c1 := c.acctStop
    { c1 with aux := { c1.aux with acctEnd := false } }

/-- A bundle with an MX slot issues: its address is the charge address from this cycle on (rules R415, R416). -/
def charge (c : Core) : Core :=
  let a : Word := c.ctl.pc.setWidth 64
  let c1 := if c.sys.mxchg = a || !c.aux.counting || c.aux.acctOff then c else c.acctFlush
  { c1 with sys := { c1.sys with mxchg := a } }

end Core

namespace State

/-- Fetch reads a line into the buffer of the acting core (rules R62, R63, R65, R66, R370): an uncorrectable line is logged, and
reloaded unless a code-load card wrote it last. -/
def readLine (s : State) (n : Nat) : State :=
  let c := s.core
  if c.ctl.fbuf.any (fun l => l.num == n) then s
  else
    let s1 := s.act (fun c => c.fetchInto n)
    match (Core.lineWords n).find? c.mem.imemBad.contains with
    | none => s1
    | some w =>
      let known := c.mem.codeLines.contains n || c.mem.reload.any (fun r => r.1 == n)
      let more := if known then [] else [(n, s.cycle + 1 + s.free 4096)]
      let s2 := s1.act (fun c => { c with mem := { c.mem with reload := c.mem.reload ++ more } })
      s2.drawn.note c.idx (.log (logLocal false c.idx 4 true w))

/-- The line that a bundle due at `a` needs is in the fetch buffer; a replay of the loop buffer fetches nothing (rule R63). -/
def fetchFor (s : State) (a : CodeAddr) : State :=
  if (s.core.captured a).isSome then s else s.readLine (Core.lineOf a)

/-- The MX slot of a bundle for the accounting of the array (rules R414, R415): the charge address, which a suppressed slot sets too,
and the class. -/
def chargeMx (s : State) (all live : List SlotWord) : State :=
  match all.find? (fun x => x.slot == .mx) with
  | none => s
  | some x =>
    let op := (opcodeOf x.word).toNat
    let on := live.any (fun y => y.slot == .mx)
    (s.act Core.charge).act (fun c => { c with
      aux := { c.aux with
        mxNow := if on then some op else none
        drainTo := if on && op == 3 then s.cycle + 11 else c.aux.drainTo } })

/-- The slots of an admitted bundle go onto the agenda, to issue together; without any the bundle's issue ends here. A bundle
whose every slot is suppressed takes no back-edge (rules R173, R213, R246). `calm` says that nothing was in flight as the bundle came
due, which makes an arrival with SAFE a safe point (rule R342). -/
def issueSlots (v : State) (calm : Bool) (h : Head) (ws : List Word32) (all xs : List SlotWord) : State :=
  let live := xs.filter v.core.guard
  let r := regionOf v.core.idx
  let reg := v.region r
  let v1 := (v.putRegion r { reg with act := reg.act + live.foldl (fun n x => n + weight x) 0 }).chargeMx all live
  let v2 := v1.act (fun c => let d := c.capture c.ctl.pc ws; { d with aux := { d.aux with safe := h.safe && calm } })
  let is := live.filterMap (fun x => match x.dec with | .ok i => some i | .bad _ => none)
  let a := { v.arg with bundle := true, last := false, idle := h.idle.toNat }
  match is.reverse with
  | [] => if xs.isEmpty then v2.act (fun c => c.advance true h.idle.toNat) else { v2 with arg := { a with last := true } }.finish
  | l :: rest => { v2 with agenda := rest.reverse.map (fun i => (i, a)) ++ (l, { a with last := true }) :: v2.agenda }

/-- The bundle due is suppressed: it issues on its cycle with no slot, and the next address follows (rules R173, R177,
R210, R213, R370). -/
def issueSuppressed (s : State) (idle : Nat) : State :=
  s.landNow.act (fun c => c.advance true idle)

/-- A head word that is malformed, or the 4,096th line end in a row (rules R210, R213). -/
def issueMalformed (s : State) (x : Word32) : State :=
  if s.core.inX then (s.xerror 0x0A).issueSuppressed 0
  else
    let v := s.landNow
    match s.boundaryCause v true with
    | some (k, s') => s'.trapBoundary k
    | none => s.trapBefore (s.core.cause 0x02 0 8 (x.setWidth 64))

/-- A pure delay: its wait mask and SAFE keep their meaning, and it takes IDLE core cycles (rule R210). -/
def issueDelay (s : State) (x : Word32) (h : Head) : State :=
  match s.vet h.wm [] with
  | .stop s' => s'
  | .go v _ =>
    let v1 := v.act (fun c => c.capture c.ctl.pc [x])
    { v1 with arg := { v.arg with bundle := true, last := true, idle := h.idle.toNat - 1 } }.finish

/-- A bundle due from a poisoned line (rules R65, R370). -/
def issuePoisoned (s : State) (line : Nat) : State :=
  let lost := s.core.mem.codeLines.contains line
  let s1 := if lost then s.note s.core.idx (.loss 0x13 s.core.idx (BitVec.ofNat 18 (64 * line)) 0) else s
  if s1.core.inX then (s1.xerror 0x12).issueSuppressed 0
  else
    let v := s1.landNow
    match s1.boundaryCause v true with
    | some (k, s') => s'.trapBoundary k
    | none => s1.trapBefore (s1.core.cause 0x0F 0 8 (atBit (64 * line) 0))

/-- What stands at the acting core's pc once its line has been fetched (rules R209, R210, R354, R370). -/
inductive Due where
  | poisoned (line : Nat)
  | malformed (x : Word32)
  | delay (x : Word32) (h : Head)
  | bundle (x : Word32) (h : Head) (ws : List Word32) (xs : List SlotWord)

/-- The bundle due, decoded; `lost` marks the 4,096th line end in a row. -/
def comingUp (s : State) (lost : Bool) : Due :=
  let a := s.core.ctl.pc
  let x := s.core.bundleHead a
  if s.core.unsound a then .poisoned (Core.lineOf a)
  else if lost then .malformed x
  else
    match decodeHead x (Core.wordOf a) with
    | .lineEnd => .malformed x
    | .malformed => .malformed x
    | .delay h => .delay x h
    | .bundle h =>
      let ws := s.core.bundleWords a (h.words - 1)
      .bundle x h ws (decodeSlots (Slot.all.filter (fun sl => h.sp.getLsbD sl.num)) ws)

/-- The acting core comes to its next bundle: line ends are passed and its line is fetched (rules R62, R63, R210). -/
def atBundle (s : State) : State × Bool :=
  let (a, lost) := s.core.locate s.core.ctl.pc
  ((s.act (fun c => { c with ctl := { c.ctl with
    pc := a, dueAt := some (c.ctl.dueAt.getD s.cycle), hold := none, active := true } })).fetchFor a, lost)

/-- A bundle of a skipped region or body that comes due in exchange phase (rules R177, R248, R415). -/
def issueSkipped (s : State) (d : Due) : State :=
  match d with
  | .delay _ h => s.issueSuppressed (h.idle.toNat - 1)
  | .bundle _ h _ xs => (s.chargeMx xs []).issueSuppressed h.idle.toNat
  | _ => s.issueSuppressed 0

/-- The bundle due at the acting core's pc issues, or what stands in its way happens (rules R209, R210, R354). -/
def issueBundle (s0 : State) : State :=
  let (s, lost) := s0.atBundle
  match s.comingUp lost with
  | .poisoned line => s.issuePoisoned line
  | d =>
    if 0 < s.core.ctl.redo && s.core.inX then s.issueSkipped d
    else match d with
      | .poisoned line => s.issuePoisoned line
      | .malformed x => s.issueMalformed x
      | .delay x h => s.issueDelay x h
      | .bundle x h ws xs =>
        match s.vet h.wm xs with
        | .stop s' => s'
        | .go v ys => v.issueSlots s.core.quiet h (x :: ws) xs ys

/-- The trap that is due before the bundle at the acting core's pc issues in compute phase, if any, a refusal without a hold among them:
a debug stop gives way to it (rule R410). -/
def trapDue (s0 : State) : Option State :=
  let (s, lost) := s0.atBundle
  let v := s.landNow
  let precise := fun (wm : BitVec 8) (xs : List SlotWord) =>
    match v.preciseCause wm xs with
    | some k => some (s.trapPrecise k)
    | none =>
      if (List.range 8).any (fun k => wm.getLsbD k && v.core.reg.getTok k == .pending) then none
      else match v.readyAll xs with
        | .refuse r w => some (((w.carry s).refused r).trapBefore r.cause)
        | _ => none
  if s.core.inX then none
  else match s.comingUp lost with
    | .poisoned line => some (s.issuePoisoned line)
    | .malformed x => some (s.issueMalformed x)
    | .delay _ h => precise h.wm []
    | .bundle _ h _ xs => precise h.wm xs

end State

end Sys2Proof.Machine
end

