-- ==== Sys2Proof/Machine/Scalar.lean ====
section
/-! DEFINITION. Scalar integer arithmetic and compares of SA and SB (rules R239 to R243). -/

namespace Sys2Proof.Machine

/-- The slot of a row that both SA and SB assign. -/
def sideSlot (sb : Bool) : Slot := if sb then .sb else .sa

/-- A scalar result written to `d`, seen `lat` core cycles later (rules R217, R220). -/
def putS (sl : Slot) (op lat : Nat) (d : BitVec 6) (x : Word) (s : State) : State :=
  s.act (fun c => c.land sl op lat (.sreg (physS c.reg.rotb d) x))

/-- A predicate result written to `pd` (rules R217, R220). -/
def putP (sl : Slot) (op : Nat) (pd : BitVec 4) (x : Bool) (s : State) : State :=
  s.act (fun c => c.land sl op 1 (.preg (physP c.reg.rotb pd) x))

/-! The results of rule R240 -/

/-- The shifts read the whole amount as unsigned. -/
def shlWord (a : Word) (n : Nat) : Word := if n < 64 then a <<< n else 0
def shrWord (a : Word) (n : Nat) : Word := if n < 64 then a >>> n else 0
def sraWord (a : Word) (n : Nat) : Word := a.sshiftRight (if n < 63 then n else 63)
def minWord (a b : Word) : Word := if b.slt a then b else a
def maxWord (a b : Word) : Word := if a.slt b then b else a
def minnWord (a b : Word) : Word := if b.ult a then b else a
def maxnWord (a b : Word) : Word := if a.ult b then b else a
def mulhWord (a b : Word) : Word := BitVec.ofInt 64 ((a.toInt * b.toInt).fdiv (2 ^ 64))
def mulhnWord (a b : Word) : Word := BitVec.ofNat 64 (a.toNat * b.toNat / 2 ^ 64)
/-- The shift of ADDSH that x names. -/
def addshAmount (x : BitVec 2) : Nat := if x = 0 then 0 else if x = 1 then 2 else if x = 2 then 3 else 8

/-- A three-register scalar instruction. -/
def scalar3 (sl : Slot) (op lat : Nat) (o : R3Ops) (f : Word → Word → Word) (s : State) : State :=
  putS sl op lat o.d (f (s.core.rs o.a) (s.core.rs o.b)) s

/-- A scalar instruction with an 8-bit immediate. -/
def scalarImm (sl : Slot) (op : Nat) (o : RisOps) (f : Word → BitVec 8 → Word) (s : State) : State :=
  putS sl op 1 o.d (f (s.core.rs o.a) o.imm) s

/-- Scalar wrapping add (rule R240). -/
def execAdd (sb : Bool) (o : R3Ops) (s : State) : Out :=
  issue (.add sb o) o.g
    (scalar3 (sideSlot sb) 0x00 1 o (fun a b => a + b)) s

/-- Scalar wrapping subtract (rule R240). -/
def execSub (sb : Bool) (o : R3Ops) (s : State) : Out :=
  issue (.sub sb o) o.g
    (scalar3 (sideSlot sb) 0x01 1 o (fun a b => a - b)) s

/-- Scalar bitwise AND (rule R240). -/
def execAnd (sb : Bool) (o : R3Ops) (s : State) : Out :=
  issue (.and sb o) o.g
    (scalar3 (sideSlot sb) 0x02 1 o (fun a b => a &&& b)) s

/-- Scalar bitwise OR (rule R240). -/
def execOr (sb : Bool) (o : R3Ops) (s : State) : Out :=
  issue (.or sb o) o.g
    (scalar3 (sideSlot sb) 0x03 1 o (fun a b => a ||| b)) s

/-- Scalar bitwise XOR (rule R240). -/
def execXor (sb : Bool) (o : R3Ops) (s : State) : Out :=
  issue (.xor sb o) o.g
    (scalar3 (sideSlot sb) 0x04 1 o (fun a b => a ^^^ b)) s

/-- Scalar a AND NOT b (rule R240). -/
def execAndn (sb : Bool) (o : R3Ops) (s : State) : Out :=
  issue (.andn sb o) o.g
    (scalar3 (sideSlot sb) 0x05 1 o (fun a b => a &&& ~~~b)) s

/-- Scalar shift left by a register amount (rule R240). -/
def execShl (sb : Bool) (o : R3Ops) (s : State) : Out :=
  issue (.shl sb o) o.g
    (scalar3 (sideSlot sb) 0x06 1 o (fun a b => shlWord a b.toNat)) s

/-- Scalar logical shift right (rule R240). -/
def execShr (sb : Bool) (o : R3Ops) (s : State) : Out :=
  issue (.shr sb o) o.g
    (scalar3 (sideSlot sb) 0x07 1 o (fun a b => shrWord a b.toNat)) s

/-- Scalar arithmetic shift right (rule R240). -/
def execSra (sb : Bool) (o : R3Ops) (s : State) : Out :=
  issue (.sra sb o) o.g
    (scalar3 (sideSlot sb) 0x08 1 o (fun a b => sraWord a b.toNat)) s

/-- Signed scalar minimum (rule R240). -/
def execMin (sb : Bool) (o : R3Ops) (s : State) : Out :=
  issue (.min sb o) o.g
    (scalar3 (sideSlot sb) 0x09 1 o minWord) s

/-- Signed scalar maximum (rule R240). -/
def execMax (sb : Bool) (o : R3Ops) (s : State) : Out :=
  issue (.max sb o) o.g
    (scalar3 (sideSlot sb) 0x0A 1 o maxWord) s

/-- Unsigned scalar minimum (rule R240). -/
def execMinn (sb : Bool) (o : R3Ops) (s : State) : Out :=
  issue (.minn sb o) o.g
    (scalar3 (sideSlot sb) 0x0B 1 o minnWord) s

/-- Unsigned scalar maximum (rule R240). -/
def execMaxn (sb : Bool) (o : R3Ops) (s : State) : Out :=
  issue (.maxn sb o) o.g
    (scalar3 (sideSlot sb) 0x0C 1 o maxnWord) s

/-- Low 64 bits of the product (rule R240). -/
def execMul (o : R3Ops) (s : State) : Out :=
  issue (.mul o) o.g
    (scalar3 .sa 0x30 3 o (fun a b => a * b)) s

/-- High 64 bits of the signed product (rule R240). -/
def execMulh (o : R3Ops) (s : State) : Out :=
  issue (.mulh o) o.g
    (scalar3 .sa 0x31 3 o mulhWord) s

/-- High 64 bits of the unsigned product (rule R240). -/
def execMulhn (o : R3Ops) (s : State) : Out :=
  issue (.mulhn o) o.g
    (scalar3 .sa 0x32 3 o mulhnWord) s

/-- a plus b shifted left by 0, 2, 3 or 8 (rule R240). -/
def execAddsh (o : R3xOps) (s : State) : Out :=
  issue (.addsh o) o.g
    (fun s => putS .sa 0x38 1 o.d (s.core.rs o.a + s.core.rs o.b <<< addshAmount o.x) s) s

/-- Add a sign-extended 8-bit immediate (rule R241). -/
def execAddi (sb : Bool) (o : RisOps) (s : State) : Out :=
  issue (.addi sb o) o.g
    (scalarImm (sideSlot sb) 0x10 o (fun a i => a + sext i)) s

/-- AND with a sign-extended immediate (rule R241). -/
def execAndi (sb : Bool) (o : RisOps) (s : State) : Out :=
  issue (.andi sb o) o.g
    (scalarImm (sideSlot sb) 0x11 o (fun a i => a &&& sext i)) s

/-- OR with a sign-extended immediate (rule R241). -/
def execOri (sb : Bool) (o : RisOps) (s : State) : Out :=
  issue (.ori sb o) o.g
    (scalarImm (sideSlot sb) 0x12 o (fun a i => a ||| sext i)) s

/-- Shift left by an immediate of 0–63 (rule R241). -/
def execShli (sb : Bool) (o : RisOps) (s : State) : Out :=
  issue (.shli sb o) o.g
    (scalarImm (sideSlot sb) 0x13 o (fun a i => shlWord a i.toNat)) s

/-- Logical shift right by an immediate (rule R241). -/
def execShri (sb : Bool) (o : RisOps) (s : State) : Out :=
  issue (.shri sb o) o.g
    (scalarImm (sideSlot sb) 0x14 o (fun a i => shrWord a i.toNat)) s

/-- Arithmetic shift right by an immediate (rule R241). -/
def execSrai (sb : Bool) (o : RisOps) (s : State) : Out :=
  issue (.srai sb o) o.g
    (scalarImm (sideSlot sb) 0x15 o (fun a i => sraWord a i.toNat)) s

/-- Load a sign-extended 14-bit immediate (rule R242). -/
def execMovi (sb : Bool) (o : RiOps) (s : State) : Out :=
  issue (.movi sb o) o.g
    (putS (sideSlot sb) 0x18 1 o.d (sext o.imm)) s

/-- Shift d left by 14 and insert a 14-bit immediate (rule R242). -/
def execMovis (sb : Bool) (o : RiOps) (s : State) : Out :=
  issue (.movis sb o) o.g
    (fun s => putS (sideSlot sb) 0x19 1 o.d ((s.core.rs o.d <<< 14) + o.imm.setWidth 64) s) s

/-- Compare two registers under a condition into a predicate (rule R243). -/
def execCmp (sb : Bool) (o : PcOps) (s : State) : Out :=
  issue (.cmp sb o) o.g
    (fun s => putP (sideSlot sb) 0x20 o.pd (ccHolds o.cc (s.core.rs o.a) (s.core.rs o.b)) s) s

/-- Compare a register with a 7-bit immediate into a predicate (rule R243). -/
def execCmpi (sb : Bool) (o : PciOps) (s : State) : Out :=
  issue (.cmpi sb o) o.g
    (fun s => putP (sideSlot sb) 0x21 o.pd (ccHolds o.cc (s.core.rs o.a) (sext o.imm)) s) s

end Sys2Proof.Machine
end

