-- ==== Sys2Proof/Machine/Control.lean ====
section
/-! DEFINITION. Control in SB: branches, HALT, TRAP and TRET, system and format registers, self-test and margining (rules
R245 to R247, R253 to R262, R363, R405 to R408). -/

namespace Sys2Proof.Machine

/-! ### Branches (rule R245) -/

/-- A branch is taken: its target issues after the two delay bundles (rule R246). -/
def takeBranch (target : Core → CodeAddr) (s : State) : State :=
  s.act (fun c => { c with ctl := { c.ctl with taken := some (target c) } })

/-- The return address: the third bundle after the branch in sequential decoding. -/
def returnAddress (c : Core) : Word := (c.seq 3 c.ctl.pc).setWidth 64

/-- Relative branch with two delay bundles (rule R245). -/
def execBr (o : BOps) (s : State) : Out :=
  issue (.br o) o.g (takeBranch (fun c => c.ctl.pc + (o.off.setWidth 18 <<< 2))) s

/-- Relative branch that writes the return address (rule R245). -/
def execBrL (o : BlOps) (s : State) : Out :=
  issue (.brL o) o.g (fun s => takeBranch (fun c => c.ctl.pc + (o.off.signExtend 18 <<< 2))
    (putS .sb 0x81 1 o.d (returnAddress s.core) s)) s

/-- Indirect branch to the address in a register (rule R245). -/
def execBrInd (o : R1aOps) (s : State) : Out :=
  issue (.brInd o) o.g (takeBranch (fun c => (c.rs o.a).setWidth 18 &&& 0x3FFFC)) s

/-! ### HALT, TRAP and TRET -/

/-- The core has arrived at its barrier on this cycle (rules R167, R168): the latest arrival of its context moves. -/
def State.arrive (s : State) : State :=
  let s1 := s.act (fun c => { c with aux := { c.aux with
    arrived := some ((c.sys.phnum.extractLsb' 0 32).toNat, s.cycle) } })
  match s1.ctxOf s1.core.idx with
  | some (p, _) => s1.onCtx p (fun x => { x with lastArrival := Nat.max x.lastArrival s.cycle })
  | none => s1

/-- The core arrives by PHASE.END: with a link instruction that has not ended its barrier is not safe (rule R342; log entry 110). -/
def State.arriveCalm (s : State) : State :=
  let linked := s.links.any (fun l => l.core == s.core.idx)
  s.arrive.act (fun c => { c with aux := { c.aux with safe := c.aux.safe && !linked } })

/-- The core posts its trigger, once in a launch (rules R153, R320): it waits for the cards released on earlier cycles, those among them
that have ended and whose writes are still on their way. -/
def State.postTrigger (s : State) : State :=
  match s.core.aux.trigger with
  | some _ => s
  | none =>
    let ids := (s.cards.filter (fun c => c.core == s.core.idx && decide (c.released < s.cycle))).map (·.id)
      ++ ((s.late.filter (fun w => w.core == s.core.idx)).map (·.card)).eraseDups
    s.act (fun c => { c with aux := { c.aux with trigger := some ids } })

/-- HALT (rules R253, R363): no later bundle issues and pending redirects go; what is in flight takes effect on its
cycles. In trap mode trap mode ends, the flight records of the context count on from the next fabric cycle, and pending
causes are discarded. -/
def haltCore (c : Core) : Core :=
  let c1 := { c with ctl := { c.ctl with mode := .halted, redirects := [], redo := 0, taken := none, skip := none } }
  if !c.inTrap then c1
  else
    let t := { c1.trap with
      tcause := c1.trap.tcause &&& ~~~(1#64 <<< 63), pend := [], nanPend := none, shadow := none, returning := false }
    match c.trap.shadow with
    | none => { c1 with trap := t }
    | some sh =>
      { c1 with
        trap := t
        ctl := { c1.ctl with
          lands := c1.ctl.lands ++ sh.lands.map (fun l => { l with
            due := l.due - sh.base + c.ctl.cc + 1, issued := l.issued + c.ctl.cc + 1 - sh.base })
          claims := c1.ctl.claims ++ sh.claims.map (fun l => { l with
            due := l.due - sh.base + c.ctl.cc + 1, issued := l.issued + c.ctl.cc + 1 - sh.base }) } }

/-- HALT arrives at every open and later barrier, posts the trigger and closes the accounting counts (rules R153, R168,
R253, R416). -/
def haltEffect (s : State) : State :=
  (s.arrive.postTrigger).act (fun c => (haltCore c).acctHalt s.arr s.cycle s.loom)

/-- Stop issuing until the next bind (rule R253). -/
def execHalt (o : ZOps) (s : State) : Out := issue (.halt o) o.g haltEffect s

/-- Take a breakpoint trap with a code after the bundle issues (rule R254). -/
def execTrap (o : TOps) (s : State) : Out :=
  issue (.trap o) o.g (fun s => s.pending (s.core.cause 0x06 0 1 (o.code.setWidth 64))) s

/-- Leave trap mode once the handler's events have landed (rules R255, R362). -/
def tretEffect (s : State) : State :=
  s.act (fun c => { c with
    trap := { c.trap with returning := true }
    ctl := { c.ctl with redirects := [], taken := none, skip := none } })

/-- TRET (rule R255); outside trap mode its bundle is refused before it issues. -/
def execTret (o : ZOps) (s : State) : Out := issue (.tret o) o.g tretEffect s

/-! ### System and format registers -/

/-- SYS.RD reads a register as it stands on the issue cycle and clears its RC fields (rule R256). -/
def sysRdEffect (o : SyrOps) (s : State) : State :=
  let x := s.core.ctl.rdLatch.getD (s.core.sysReadNow s.arr o.n)
  (putS .sb 0x90 2 o.d x s).act (·.sysClear o.n)

/-- Read a system register, clearing its RC fields (rule R256). -/
def execSysRd (o : SyrOps) (s : State) : Out := issue (.sysRd o) o.g (sysRdEffect o) s

/-- Write a system register under the field access rules (rule R257). -/
def execSysWr (o : SywOps) (s : State) : Out :=
  issue (.sysWr o) o.g (fun s => s.act (fun c => c.land .sb 0x91 1 (.sysw o.n (c.rs o.a)))) s

/-- Write a format register, bits [31:27] and [5:3] stored as 0 (rule R258). -/
def execFmtWr (o : FwOps) (s : State) : Out :=
  issue (.fmtWr o) o.g (fun s => s.act (fun c =>
    c.land .sb 0x92 1 (.fmt o.f ((c.rs o.a).setWidth 32 &&& 0x07FFFFC7)))) s

/-! ### Self-test and margining -/

/-- The longest a self-test of a target lasts, in core cycles (rule R405). -/
def bistBound (target unit : Nat) : Nat :=
  match target with
  | 1 => if unit < 8 then 180288 else 90176
  | 2 => 45120
  | 3 => 2112
  | _ => 4160

/-- A hold of an even length of at least 2 and at most about `n`, a free pick. -/
def State.holdFree (s : State) (k : HoldKind) (n : Nat) : State :=
  s.drawn.holdAfter k (2 + 2 * s.free (n / 2))

/-- SYS.BIST starts the test and holds the core until it ends (rules R259, R260, R405). -/
def bistEffect (o : R2Ops) (s : State) : State :=
  let a := s.core.rs o.a
  s.holdFree (.bist (bits a 7 0) (bits a 15 8) (s.core.rs o.b)) (bistBound (bits a 7 0) (bits a 15 8))

/-- Start a self-test of a unit, an IMEM quarter, the array or a router port (rule R260). -/
def execSysBist (o : R2Ops) (s : State) : Out := issue (.sysBist o) o.g (bistEffect o) s

/-- MARG.V sets the region's offset and holds the core until the regulator has settled (rule R261). -/
def margVEffect (o : R2Ops) (s : State) : State :=
  let r := bits (s.core.rs o.a) 3 0
  let off := (s.core.rs o.b).toInt
  let s1 := s.putRegion r { s.region r with voff := off }
  s1.holdFree (.margV r off) (2 ^ 32)

/-- Set a region's voltage margin offset and hold until it settles (rule R261). -/
def execMargV (o : R2Ops) (s : State) : Out := issue (.margV o) o.g (margVEffect o) s

/-- MARG.L sweeps the eye of a receiver and holds the core until the sweep ends (rule R262). -/
def margLEffect (o : R2Ops) (s : State) : State :=
  let a := s.core.rs o.a
  s.holdFree (.margL (bits a 7 0) (bits a 9 8) (bits (s.core.rs o.b) 5 0)) (2 ^ 52)

/-- Sweep the eye of a weft or Uller receiver (rule R262). -/
def execMargL (o : R2Ops) (s : State) : Out := issue (.margL o) o.g (margLEffect o) s

end Sys2Proof.Machine
end

