-- ==== Sys2Proof/Machine/Exchange.lean ====
section
/-! DEFINITION. The XC slot: words on the exchange plane, the phase barrier, the loom count, card releases, the record
cache, tokens, semaphores, weft links, the trigger and the error fence (rules R303 to R326). -/

namespace Sys2Proof.Machine

/-! ### Words on the exchange plane (rules R305 to R308) -/

/-- An exchange instruction claims its unit on the next core cycle. -/
def xcClaim (op : Nat) (x : Access) (s : State) : State :=
  s.act (fun c => c.claim .xc op x.off x.units x.act x.nan)

/-- XSTAT.EMPTY counts a receive that the ejection port serves empty (rules R78, R80). -/
def countEmpty (s : State) : State :=
  match ejectedAt s.core (s.cycle - 2) with
  | some _ => s
  | none =>
    let t := s.tileAt (tileOf s.core.idx)
    s.putTile { t with xstat := setBits t.xstat 39 32 (Nat.min 0xFF (bits t.xstat 39 32 + 1)) }

/-- A receive takes the word of its ejection cycle. -/
def receive (op : Nat) (f : Nat → Core → Access) (s : State) : State :=
  countEmpty (xcClaim op (f s.cycle s.core) s)

/-- Send one word onto the exchange plane (rule R305). -/
def execXsend (o : XaOps) (s : State) : Out := issue (.xsend o) o.g (fun s => xcClaim 0x00 (xsendAccess s.core o) s) s
/-- Receive one word from the exchange plane (rule R306). -/
def execXrecv (o : XaOps) (s : State) : Out := issue (.xrecv o) o.g (receive 0x01 (fun n c => xrecvAccess n c o)) s
/-- Receive and add FP32 lanes (rule R307). -/
def execXraddF32 (o : XaOps) (s : State) : Out :=
  issue (.xraddF32 o) o.g (receive 0x02 (fun n c => xraddAccess .f32 n c o)) s
/-- Receive and add FP16 lanes (rule R307). -/
def execXraddF16 (o : XaOps) (s : State) : Out :=
  issue (.xraddF16 o) o.g (receive 0x03 (fun n c => xraddAccess .f16 n c o)) s
/-- Receive and add BF16 lanes (rule R307). -/
def execXraddBf16 (o : XaOps) (s : State) : Out :=
  issue (.xraddBf16 o) o.g (receive 0x04 (fun n c => xraddAccess .bf16 n c o)) s
/-- Receive and add I32 lanes (rule R307). -/
def execXraddI32 (o : XaOps) (s : State) : Out :=
  issue (.xraddI32 o) o.g (receive 0x05 (fun n c => xraddAccess .i32 n c o)) s

/-! ### The phase barrier and the loom count (rules R309 to R312) -/

/-- PHASE.END: the core arrives at its barrier and waits (rules R167, R309, R412); a core that HALT of the same bundle has
halted stays halted (rule R253). DESIGN CHOICE, unsafe (log entry 116): a self-test of the same bundle may hold the core past X0, into the
exchange phase; rule R259 bounds its hold by the straggler budget alone and does not speak of that barrier. -/
def phaseEndEffect (o : R1aOps) (s : State) : State :=
  let s1 := s.arriveCalm.act (fun c => { c with
    ctl := { c.ctl with mode := if c.ctl.mode = .halted then .halted else .barrier } })
  if s1.core.sys.trctl.getLsbD 1 then
    s1.act (fun c => c.emit s.loom 2 c.ctl.pc ((c.rs o.a).extractLsb' 0 32 |>.setWidth 64) 0)
  else s1

/-- Arrive at the phase barrier (rules R167, R309). -/
def execPhaseEnd (o : R1aOps) (s : State) : Out := issue (.phaseEnd o) o.g (phaseEndEffect o) s

/-- Read the loom count (rule R310). -/
def execGclkRd (o : R1dOps) (s : State) : Out := issue (.gclkRd o) o.g (fun s => putS .xc 0x11 1 o.d s.loom s) s

/-- GCLK.WAIT holds the core until the loom count reaches its target (rule R311). -/
def gclkWaitEffect (o : R1aOps) (s : State) : State :=
  let t := (s.core.rs o.a).toNat
  let h := t - s.loom.toNat - 1
  if h = 0 then s else s.holdAfter (.gclk t) h

/-- Hold the core until the loom count reaches a target (rule R311). -/
def execGclkWait (o : R1aOps) (s : State) : Out := issue (.gclkWait o) o.g (gclkWaitEffect o) s

/-- GCLK.ALN asks every reticle of the partition for an alignment round (rule R312). -/
def gclkAlnEffect (s : State) : State :=
  match s.partOf s.core.idx with
  | none => s
  | some p => ((s.partRegions p).flatMap regionReticles).foldl (fun s r => s.putRet r { s.ret r with aln := true }) s

/-- Ask for an extra alignment round (rule R312). -/
def execGclkAln (o : ZOps) (s : State) : Out := issue (.gclkAln o) o.g gclkAlnEffect s

/-! ### Card releases (rules R313 to R315) and the record cache (rules R112, R316) -/

/-- Release the cards of the core's stage (rule R314); the release has been made when the bundle issues. -/
def execCardAdv (o : ZOps) (s : State) : Out := issue (.cardAdv o) o.g (fun s => s) s
/-- Release one template card (rule R315). -/
def execCardIssue (o : R2Ops) (s : State) : Out := issue (.cardIssue o) o.g (fun s => s) s

/-- An engine's entry of a handle goes. -/
def dropRecord (tag h : Nat) (b : Block) : Block := { b with recs := b.recs.filter (fun e => !(e.tag == tag && e.handle == h)) }

/-- RECFL at core scope (rules R112, R316). -/
def recflEffect (o : R1aOps) (s : State) : State :=
  s.putBlock (dropRecord s.tag (bits (s.core.rs o.a) 15 0) (s.blockAt (blockOf s.core.idx)))

/-- Remove a record entry from the core's own engine (rule R316). -/
def execRecfl (o : R1aOps) (s : State) : Out := issue (.recfl o) o.g (recflEffect o) s

/-- RECFL at partition scope (rules R112, R316): an engine loses its entry now or by the end of the hold, a free pick for
each. -/
def recflPartEffect (o : R1aOps) (s : State) : State :=
  let h := bits (s.core.rs o.a) 15 0
  let rs := match s.partOf s.core.idx with | some p => s.partRegions p | none => [regionOf s.core.idx]
  let blocks := s.blocks.map (fun b =>
    if rs.contains (regionOf (64 * b.idx)) && Config.freeNat (s.seed + b.idx) % 2 = 1 then dropRecord s.tag h b else b)
  { s with blocks := blocks, seed := s.seed + 768 }.holdAfter (.recfl h) (bits s.core.sys.pinfo 39 32)

/-- Remove a record entry from every engine of the partition, holding the core (rule R316). -/
def execRecflPart (o : R1aOps) (s : State) : Out := issue (.recflPart o) o.g (recflPartEffect o) s

/-! ### Tokens, semaphores, trigger and error fence (rules R317 to R320) -/

/-- Clear tokens (rule R317). -/
def execTokClr (o : MaskOps) (s : State) : Out :=
  issue (.tokClr o) o.g (fun s => s.act (fun c => c.land .xc 0x30 1 (.tokClr o.mask))) s

/-- SEM.WAIT subtracts on its issue cycle (rules R133, R318). -/
def semWaitEffect (o : SwOps) (s : State) : State :=
  s.act (fun c => { c with reg := c.reg.setSem o.m (c.reg.getSem o.m - o.n) })

/-- Wait for a semaphore and subtract (rule R318). -/
def execSemWait (o : SwOps) (s : State) : Out := issue (.semWait o) o.g (semWaitEffect o) s

/-- Post the core's trigger (rule R320). -/
def execTrig (o : ZOps) (s : State) : Out := issue (.trig o) o.g State.postTrigger s

/-- The error fence: it issues once everything has ended and no error is recorded (rule R319). -/
def execFenceErr (o : ZOps) (s : State) : Out := issue (.fenceErr o) o.g (fun s => s) s

/-! ### Weft links (rules R321 to R324) -/

/-- A link instruction starts; it pairs, moves and ends on its own (rules R321, R322). -/
def linkStart (op : LinkOp) (o : LkOps) (s : State) : State :=
  let a := s.core.rs o.a
  let b := s.core.rs o.b
  let l : LinkXfer :=
    { id := s.nextId, core := s.core.idx, op := op, port := bits a 37 32, tag := bits b 47 32, addr := bits a 21 0
      len := bits b 21 0, sem := o.m, paired := none, moved := 0, err := 0, endAt := none, issued := s.cycle }
  { s with links := s.links ++ [l], nextId := s.nextId + 1 }

/-- Send bytes over a weft port (rule R323). -/
def execLnkSend (o : LkOps) (s : State) : Out := issue (.lnkSend o) o.g (linkStart .send o) s
/-- Receive bytes over a weft port (rule R323). -/
def execLnkRecv (o : LkOps) (s : State) : Out := issue (.lnkRecv o) o.g (linkStart .recv o) s
/-- Receive and add FP32 elements (rule R323). -/
def execLnkRaddF32 (o : LkOps) (s : State) : Out := issue (.lnkRaddF32 o) o.g (linkStart (.radd .f32) o) s
/-- Receive and add BF16 elements (rule R323). -/
def execLnkRaddBf16 (o : LkOps) (s : State) : Out := issue (.lnkRaddBf16 o) o.g (linkStart (.radd .bf16) o) s
/-- Receive and add FP16 elements (rule R323). -/
def execLnkRaddF16 (o : LkOps) (s : State) : Out := issue (.lnkRaddF16 o) o.g (linkStart (.radd .f16) o) s
/-- Receive and add I32 elements (rule R323). -/
def execLnkRaddI32 (o : LkOps) (s : State) : Out := issue (.lnkRaddI32 o) o.g (linkStart (.radd .i32) o) s

end Sys2Proof.Machine
end

