-- ==== Sys2Proof/Machine/CoreCycle.lean ====
section
/-! DEFINITION. The core's part in a fabric cycle: which events are due for it (rules R34, R125, R165, R255, R364, R400,
R409), and the events themselves: bundles, delays, fetch, landings, claims, the ends of holds, the return from a trap,
scrubbing, prefetch, debug stops and samples. -/

namespace Sys2Proof.Machine

/-- The operand of an event of one core. -/
def coreArg (k : Nat) : Arg := { Arg.none with core := k }

namespace Core

/-- The wait mask of the bundle at the pc. -/
def heldMask (c : Core) : BitVec 8 :=
  match decodeHead (c.bundleHead c.ctl.pc) (wordOf c.ctl.pc) with
  | .bundle h => h.wm
  | .delay h => h.wm
  | _ => 0

/-- The XC instruction of the bundle at an address. -/
def xcAt (c : Core) (a : CodeAddr) : Option Instr :=
  match decodeHead (c.bundleHead a) (wordOf a) with
  | .bundle h =>
    let xs := decodeSlots (Slot.all.filter (fun sl => h.sp.getLsbD sl.num)) (c.bundleWords a (h.words - 1))
    (xs.find? (fun x => x.slot == .xc)).bind (fun x => match x.dec with | .ok i => some i | .bad _ => none)
  | _ => none

/-- The XC instruction of the bundle at the pc, which holds the core. -/
def heldXc (c : Core) : Option Instr := c.xcAt c.ctl.pc

/-- The head word due is a pure delay. -/
def delayDue (c : Core) : Bool :=
  let a := (c.locate c.ctl.pc).1
  match decodeHead (c.bundleHead a) (wordOf a) with | .delay _ => true | _ => false

/-- A cause waits to be taken at a boundary. -/
def hasPending (c : Core) : Bool := c.trap.pend.any (State.mayTake c)

/-- A cause waits that is taken before the next core cycle, a bundle's or not (rules R354, R362, R369). -/
def urgent (c : Core) : Bool :=
  !c.inX && (c.trap.pend.any (fun k => State.mayTake c k && decide (k.code < 0x0D)) || (!c.inTrap && c.trap.nanPend.isSome))

end Core

namespace State

/-- A free value that belongs to this stage of the cycle and to an agent (log entry 3). -/
def pick (s : State) (agent n : Nat) : Nat := if n = 0 then 0 else Config.freeNat (s.seed + agent) % n

/-- The partition of a core is stopped (rule R365). -/
def coreStopped (s : State) (k : Nat) : Bool := match s.partOf k with | some p => s.stopped p | none => false
/-- A debug stop of the core's partition has been requested and has not ended (rule R409). -/
def coreDebug (s : State) (k : Nat) : Bool :=
  match s.partOf k with | some p => (s.part p).dstop.getLsbD 0 | none => false

/-- The core may have a core cycle on this fabric cycle, as far as its wake-up, its partition and its region's gate say
(rules R360, R362, R364, R400). -/
def awake (s : State) (c : Core) : Bool :=
  decide (c.ctl.wake ≤ s.cycle) && (c.inX || !(s.region (regionOf c.idx)).gated)

/-- The core freezes at this boundary because its partition is stopped (rule R364). -/
def freezesNow (s : State) (c : Core) : Bool :=
  c.ctl.mode == .running && c.ctl.hold.isNone && !c.ctl.passed && s.awake c && s.coreStopped c.idx

/-- The core freezes at this boundary for a debug stop (rules R409, R410). -/
def debugNow (s : State) (c : Core) : Bool :=
  c.ctl.mode == .running && c.ctl.hold.isNone && !c.ctl.passed && s.awake c && !c.inX && c.quiet && !c.hasPending
    && c.trap.nanPend.isNone && !c.trap.returning && s.coreDebug c.idx

/-- Landings and claims due on the present core cycle; a waiting cause is found where results land. -/
def flightEvents (c : Core) (landing : Bool) : List (Instr × Arg) :=
  (if landing && (c.ctl.lands.any (fun l => l.due == c.ctl.cc) || c.urgent) then [(.resultLanding, coreArg c.idx)] else [])
    ++ (if c.ctl.claims.any (fun l => l.due == c.ctl.cc) then [(.unitClaim, coreArg c.idx)] else [])

/-- Everything that a handler has issued takes effect on this core cycle or has done so (rule R255). -/
def returnDone (c : Core) : Bool := c.ctl.lands.all (fun l => l.due == c.ctl.cc) && c.ctl.claims.isEmpty

/-- The hold of a core ends on this cycle, as far as one can tell before it is tried (rules R34, R35, R112, R125, R133,
R311, R319, R322). -/
def holdEvents (s : State) (c : Core) (h : Hold) : List (Instr × Arg) :=
  let a := coreArg c.idx
  let n := s.cycle
  let whole := h.late || (decide (h.since ≤ n) && (n - h.since) % 2 == 0)
  let later := whole && decide (h.since < n)
  let expired := whole && decide (h.till ≤ n)
  match h.kind with
  | .token =>
    if later && c.hasPending then [(.bundleIssue, a)]
    else if later && (List.range 8).all (fun k => !(c.heldMask.getLsbD k && c.reg.getTok k == .pending)) then
      [(.tokenWaitEnd, a)] else []
  | .sem =>
    if later && c.hasPending then [(.bundleIssue, a)]
    else if later && (match c.heldXc with | some (.semWait o) => decide (o.n.toNat ≤ (c.reg.getSem o.m).toNat) | _ => true) then
      [(.semWaitEnd, a)] else []
  | .release p =>
    if expired then [(.releaseHoldEnd, a)]
    else if n + 1 = h.till && p.failed.isSome && p.odd then [(.releaseHoldEnd, { a with n := 1 })]
    else []
  | .gclk t => if whole && decide (t ≤ (s.loomOf (reticleOf c.idx)).toNat) then [(.gclkWaitEnd, a)] else []
  | .recfl _ => if expired then [(.recflHoldEnd, a)] else []
  | .fenceErr => if later && !s.unfinished c.idx then [(.fenceErrHoldEnd, a)] else []
  | .link => if later then [(.bundleIssue, a)] else []
  | .bist _ _ _ => if expired then [(.bistEnd, a)] else []
  | .margV _ _ => if expired then [(.margVSettled, a)] else []
  | .margL _ _ _ => if expired then [(.margLSweepEnd, a)] else []

/-- The events of a core on this fabric cycle. -/
def coreEvents (s : State) (c : Core) : List (Instr × Arg) :=
  let a := coreArg c.idx
  match c.ctl.mode with
  | .running =>
    if !s.awake c || s.freezesNow c then []
    else if s.debugNow c then [(.debugStopFreeze, a)]
    else
      match c.ctl.hold with
      | some h => s.holdEvents c h
      | none =>
        if c.trap.returning then
          if returnDone c then flightEvents c true ++ [(.trapResume, a)] else flightEvents c true
        else if 0 < c.ctl.idle then flightEvents c true
        else (if c.delayDue then .pureDelay else .bundleIssue, a) :: flightEvents c false
  | .halted =>
    if s.cycle < c.ctl.wake then []
    else
      match c.ctl.hold with
      | some h => s.holdEvents c h
      | none => flightEvents c true
  | _ => []

/-- A hold whose end falls into a gated pair ends on the first cycle that is not gated (rule R400). -/
def delayedHold (s : State) (c : Core) : Option Hold :=
  c.ctl.hold.map (fun h =>
    { h with late := h.late || (!s.awake c && decide (c.ctl.wake ≤ s.cycle) && !(s.holdEvents c h).isEmpty) })

/-- What a fabric cycle does to a core before its events: a core cycle elapses where no bundle is due and nothing holds
the core, and a core of a stopped partition freezes, which closes its accounting counts (rules R364, R416). The gate leaves a halted
core alone (rules R253, R400). -/
def readyCore (s : State) (c : Core) : Core :=
  match c.ctl.mode with
  | .running =>
    if s.freezesNow c then
      let d := c.acctStop
      { d with ctl := { d.ctl with mode := .frozen .stop, wake := s.cycle } }
    else
      { c with ctl := { c.ctl with
        active := s.awake c && !s.debugNow c && c.ctl.hold.isNone && (decide (0 < c.ctl.idle) || c.trap.returning)
        hold := s.delayedHold c } }
  | .halted => { c with ctl := { c.ctl with
      active := decide (c.ctl.wake ≤ s.cycle) && c.ctl.hold.isNone && (!c.ctl.lands.isEmpty || !c.ctl.claims.isEmpty) } }
  | _ => { c with ctl := { c.ctl with active := false } }

/-- A core's due bundle holds RECFL, which goes before the releases of its block (rule R114); a core that returns from a trap comes to
the bundle at TEPC. -/
def recflDue (c : Core) : Bool :=
  let d := if c.trap.returning then { c with ctl := { c.ctl with pc := c.trap.tepc.setWidth 18 } } else c
  match d.xcAt d.nextBundle with
  | some (.recfl _) => true
  | some (.recflPart _) => true
  | _ => false

/-- The acting core goes on within this cycle: its hold has ended, or it has resumed. -/
def proceed (s : State) : State :=
  let s1 := s.act (readyCore s)
  { s1 with agenda := s.coreEvents s.core ++ s1.agenda }

/-- The hold of the acting core ends. -/
def endHold (s : State) : State := s.act (fun c => { c with ctl := { c.ctl with hold := none } })

/-- The event's core becomes the acting core. -/
def ownCore (s : State) : State := s.focus s.arg.core

end State

/-! ### Bundles, delays and fetch -/

/-- The next bundle of a core issues all its slots (rules R209, R246). -/
def execBundleIssue (s : State) : Out := .next s.ownCore.issueBundle

/-- A pure delay takes its IDLE core cycles (rule R210). -/
def execPureDelay (s : State) : Out := .next s.ownCore.issueBundle

/-- Fetch reads a line ahead while the buffer has room (rule R63). -/
def fetchLine (s : State) (n : Nat) : State := if 4 ≤ s.core.ctl.fbuf.length then s else s.readLine n

/-- Fetch reads one IMEM line ahead (rule R63); the line's number is in the event. -/
def execFetchLine (s : State) : Out := .next (fetchLine s.ownCore s.arg.n)

/-! ### Landings and claims -/

/-- Results land on a core cycle without a bundle, or the trap of a landing NaN is taken first (rules R221, R369). -/
def landEvent (s : State) : State :=
  match s.boundaryCause s.landNow false with
  | some (k, s') => s'.trapBoundary k
  | none => s.landNow

/-- Exposed results reach their registers (rules R220, R221). -/
def execResultLanding (s : State) : Out :=
  .next (if s.ownCore.core.ctl.active then landEvent s.ownCore else s.ownCore)

/-- The claims of a core cycle read and write local storage (rules R49, R53, R56). -/
def execUnitClaim (s : State) : Out :=
  .next (if s.ownCore.core.ctl.active then s.ownCore.claimNow else s.ownCore)

/-! ### The return from a trap -/

/-- The earliest cycle on which the return from a FETCH_POISON trap may resume: the bundle's line is whole again (rule R370); other
returns wait for no reload. -/
def reloadEnd (c : Core) : Nat :=
  if bits c.trap.tcause 7 0 ≠ 0x0F then 0
  else ((c.mem.reload.filter (fun r => r.1 == Core.lineOf (c.trap.tepc.setWidth 18))).map (·.2)).foldl Nat.max 0

/-- A core that has been trapped behind PHASE.END is back in its barrier wait: it arrives, unless a further cause is taken first
(rules R254, R354, R362; log entry 71). -/
def State.rejoin (s : State) : State :=
  if s.core.ctl.mode != .barrier then s
  else
    match (firstPending s.core).filter (fun k => decide (k.code < 0x0D)) with
    | some k => (s.act (dropPending · k)).trapBoundary k
    | none => s.arriveCalm

/-- The core leaves trap mode and resumes the interrupted context (rules R255, R362). -/
def trapResume (s : State) : State :=
  let s1 := s.act (fun c => c.leaveTrap (Nat.max s.cycle (reloadEnd c)))
  let s2 := (s1.act (fun c => { c with ctl := { c.ctl with active := false } })).rejoin
  if s2.core.ctl.wake ≤ s.cycle then s2.proceed else s2

/-- The handler's events have landed, and the core resumes (rule R362). -/
def execTrapResume (s : State) : Out := .next (trapResume s.ownCore)

/-! ### Holds that end -/

/-- Every token of a held bundle's wait mask has left pending (rule R125). -/
def execTokenWaitEnd (s : State) : Out := .next s.ownCore.endHold.proceed

/-- A waited semaphore has reached its count (rule R133). -/
def execSemWaitEnd (s : State) : Out := .next s.ownCore.endHold.proceed

/-- The loom count has reached a target (rule R311). -/
def execGclkWaitEnd (s : State) : Out := .next s.ownCore.endHold.proceed

/-- The bundle whose hold has ended issues now, at the head of what is still due. -/
def State.issueHeld (s : State) : State :=
  let s1 := s.endHold
  { s1 with agenda := (.bundleIssue, coreArg s.core.idx) :: State.flightEvents s1.core false ++ s1.agenda }

/-- A release that a hold has been kept for. -/
def heldPlan (c : Core) : Option ReleasePlan :=
  match c.ctl.hold with
  | some h => (match h.kind with | .release p => some p | _ => none)
  | none => none

/-- The release is made, and its bundle issues (rule R313): what the release changes, among what the results that land on this
cycle change, is kept. -/
def releaseMade (s v : State) : State :=
  let out := v.carry s
  let c := v.core
  ({ out with
    cards := v.cards
    core := { out.core with
      reg := { out.core.reg with tok := c.reg.tok }
      sys := { out.core.sys with cardpos0 := c.sys.cardpos0, cardpos1 := c.sys.cardpos1 }
      aux := { out.core.aux with traceQ := c.aux.traceQ, lost := c.aux.lost, drops := c.aux.drops }
      trap := { out.core.trap with pend := c.trap.pend }
      ctl := { out.core.ctl with passed := true } } }).issueHeld

/-- A release hold ends (rules R30, R31, R35, R116, R313): the release takes effect and its bundle issues, or it is refused and
traps, or it still waits for room. `early` marks the end of a hold of odd length, where a failed look-up is refused. -/
def releaseHoldEnd (s : State) (early : Bool) : State :=
  match heldPlan s.core with
  | none => s
  | some p =>
    if early && p.failed.isNone then s
    else
      match settleRelease s.landNow p with
      | .refused r => (((s.landNow.unpin false).carry s).refused r).trapBefore r.cause
      | .wait n q w => (w.carry s).act (fun c => { c with ctl := { c.ctl with
          hold := c.ctl.hold.map (fun h =>
            { h with kind := .release q, since := if h.late then s.cycle else h.since, till := s.cycle + n, late := false }) } })
      | .released v => releaseMade s v

/-- A release hold ends (rule R35). -/
def execReleaseHoldEnd (s : State) : Out := .next (releaseHoldEnd s.ownCore (s.arg.n == 1))

/-- An event of this cycle that goes before what a core does next: a partition-scope RECFL ends, or, where the core's own next bundle
does not hold RECFL, another core's does (rules R112, R114). -/
def recflFirst (s : State) (c : Core) (e : Instr × Arg) : Bool :=
  e.1 == .recflHoldEnd || (!State.recflDue c && State.recflDue (s.coreOf e.2.core))

/-- The acting core goes on within this cycle, behind the events that go before it. -/
def proceedAfter (s : State) : State :=
  let s1 := s.act (State.readyCore s)
  let first := recflFirst s1 s1.core
  { s1 with agenda := s1.agenda.takeWhile first ++ s.coreEvents s.core ++ s1.agenda.dropWhile first }

/-- A partition-scope RECFL ends: the entry is gone from every engine of the partition (rule R112). -/
def recflHoldEnd (s : State) : State :=
  match s.core.ctl.hold with
  | some h =>
    proceedAfter (match h.kind with
      | .recfl x =>
        let rs := match s.partOf s.core.idx with | some p => s.partRegions p | none => [regionOf s.core.idx]
        { s with blocks := s.blocks.map (fun (b : Block) =>
            if rs.contains (regionOf (64 * b.idx)) then dropRecord s.tag x b else b) }
      | _ => s).endHold
  | none => s

/-- A partition-scope RECFL's hold ends (rule R112). -/
def execRecflHoldEnd (s : State) : Out := .next (recflHoldEnd s.ownCore)

/-- FENCE.ERR's hold ends: it passes, or it traps with the recorded error (rule R319). -/
def fenceErrHoldEnd (s : State) : State :=
  match s.landNow.fenceReady with
  | .refuse r _ => (s.refused r).trapBefore r.cause
  | _ => (s.act (fun c => { c with ctl := { c.ctl with passed := true } })).issueHeld

/-- Every earlier card and link instruction of the core has ended (rule R319). -/
def execFenceErrHoldEnd (s : State) : Out := .next (fenceErrHoldEnd s.ownCore)

/-! ### Self-test and margining results (rules R405 to R408) -/

/-- A memory without the listed bytes of a range. -/
def Memory.clearRange (m : Memory) (a n : Nat) : Memory :=
  { cells := m.cells.filter (fun c => decide (c.1 < a) || decide (a + n ≤ c.1)) }

/-- The words of a range leave a list of marked words. -/
def dropWords (a n : Nat) (ws : List Nat) : List Nat := ws.filter (fun w => decide (16 * w < a) || decide (a + n ≤ 16 * w))

/-- The first byte and the length of a unit (rule R46). -/
def unitRange (u : Nat) : Nat × Nat := if u < 8 then (u * 2 ^ 18, 2 ^ 18) else (2 ^ 21 + (u - 8) * 2 ^ 17, 2 ^ 17)

/-- What a self-test leaves of the object under test (rule R260); the write-backs of a scrubber are overtaken (rule R68). -/
def bistLeaves (target unit : Nat) (c : Core) : Core :=
  match target with
  | 1 =>
    let (a, n) := unitRange unit
    { c with
      mem := { c.mem with
        loc := c.mem.loc.clearRange a n, bad := dropWords a n c.mem.bad, soft := dropWords a n c.mem.soft }
      aux := { c.aux with fixes := c.aux.fixes.filter (fun f => f.unit != unit) } }
  | 2 =>
    let a := unit * 2 ^ 16
    let n := 2 ^ 16
    { c with
      mem := { c.mem with
        imem := c.mem.imem.clearRange a n, imemBad := dropWords a n c.mem.imemBad
        imemSoft := dropWords a n c.mem.imemSoft }
      aux := { c.aux with fixes := c.aux.fixes.filter (fun f => f.unit != 10 || f.word * 16 < a || a + n ≤ f.word * 16) } }
  | 3 => { c with reg := { c.reg with latch := 0, latchFmt := 0 } }
  | _ => c

/-- A comparison of a self-test: the march element it belongs to, the address, step or flit that it concerns, the value it
expects, and the failure code of another value (rules R405, R406). -/
structure BistCheck where
  elem : Nat
  place : Nat
  expect : BitVec 128
  code : Nat
  deriving DecidableEq, Repr

/-- Where each march element begins among the 11 operations that the march makes for a word, and whether it goes downward (rule R405). -/
def marchStarts : List (Nat × Bool) := [(0, false), (1, false), (3, false), (5, true), (7, true), (9, false), (10, false)]

/-- Operation `n` of a march over so many words from an address, when it reads: the elements that write after each read take two
operations a word (rule R405). -/
def marchCheck (base words : Nat) (bg : BitVec 128) (n : Nat) : Option BistCheck :=
  ((List.range 7).zip marchStarts).reverse.findSome? (fun e =>
    let (k, at_, down) := e
    if n < at_ * words then none
    else
      let m := n - at_ * words
      let pair := decide (1 ≤ k) && decide (k ≤ 4)
      let i := if pair then m / 2 else m
      some (if k == 0 || k == 6 || (pair && m % 2 == 1) || words ≤ i then none
        else some { elem := k, place := base + 16 * (if down then words - 1 - i else i)
                    expect := if k == 2 || k == 4 then ~~~bg else bg, code := 1 : BistCheck })) |>.join

/-- The format register of signed 8-bit integers (rules R188, R190). -/
def int8Format : Word32 := 0x00601C40

/-- The operand rows of step `k` of the array's self-test: the bytes of rand32 in turn. DESIGN CHOICE, unsafe (log entry 94): the spec
gives the generator and not how its words are laid out. -/
def bistRows (seed : BitVec 32) (k : Nat) : Rows :=
  let w := rand32 seed (BitVec.ofNat 32 k)
  BitVec.ofNat 6144 (ofBytes ((List.range 768).map (fun j => w.extractLsb' (8 * (j % 4)) 8)))

/-- The 64 accumulators after so many steps of the array's self-test, from zero (rules R203, R405; log entry 94). -/
def bistAcc (seed : BitVec 32) : Nat → Vec
  | 0 => 0
  | k + 1 => matrixStep [] int8Format int8Format 0 0 (bistRows seed k) (bistRows seed k) (bistAcc seed k)

/-- The comparisons of one step: the residue of each of the three blocks of each of the 64 elements, and then the accumulators, four by
four (rules R203, R205, R405). -/
def bistBlocks : Nat := 192
def bistPerStep : Nat := bistBlocks + 16

/-- Comparison `j` of step `k`: ρ of block j / 64 of element j mod 64, or four accumulators. -/
def arrayCheck (seed : BitVec 32) (k j : Nat) : BistCheck :=
  if j < bistBlocks then
    let e := j % 64
    let rows := bistRows seed k
    let f := fmtOf int8Format
    { elem := 0, place := k, code := 3
      expect := BitVec.ofInt 128 (residue f f (blockPairs int8Format int8Format rows rows (e / 8) (e % 8) (j / 64)) % 3) }
  else { elem := 0, place := k, code := 4, expect := (bistAcc seed (k + 1)).extractLsb' (128 * (j - bistBlocks)) 128 }

/-- Comparison `n` of a self-test (rules R405, R406). Each step of the array checks every block's residue and compares every accumulator;
flit n carries rand32 in each of its 32-bit lanes (log entry 94). -/
def bistCheck (target unit : Nat) (seed : Word) (n : Nat) : Option BistCheck :=
  let w := seed.extractLsb' 0 32
  match target with
  | 1 => let (a, len) := unitRange unit; marchCheck a (len / 16) (seed ++ seed) n
  | 2 => marchCheck (unit * 2 ^ 16) 4096 (seed ++ seed) n
  | 3 =>
    if 1024 * bistPerStep ≤ n then none else some (arrayCheck w (n / bistPerStep) (n % bistPerStep))
  | _ =>
    let r := rand32 w (BitVec.ofNat 32 n)
    if 4096 ≤ n then none else some { elem := 0, place := n, expect := r ++ r ++ r ++ r, code := 5 }

/-- The failure code of the check that goes with the words or the flits of a target; the array's comparisons have none (rule R406). -/
def checkCode (target : Nat) : Option Nat :=
  match target with | 1 => some 2 | 2 => some 2 | 3 => none | _ => some 6

/-- The comparisons of a self-test that fail, in its order: what was expected, what was seen, and whether the check that goes with it
failed. -/
def bistFailures (target unit : Nat) (seed : Word) (hits : List BistHit) : List (BistCheck × BistHit) :=
  (hits.filterMap (fun h => (bistCheck target unit seed h.at_).bind (fun k =>
    if k.expect != h.seen || (h.check && (checkCode target).isSome) then some (k, h) else none))).mergeSort (fun a b => decide (a.2.at_ ≤ b.2.at_))

/-- The 64-bit half of expected XOR observed that holds the lowest bit of 1 (rule R406). -/
def lowestHalf (x : BitVec 128) : Word := if x.extractLsb' 0 64 = 0#64 then x.extractLsb' 64 64 else x.extractLsb' 0 64

/-- The results of a self-test (rules R405, R406): it passes unless a comparison has failed. -/
def bistResults (target unit : Nat) (seed : Word) (c : Core) : Core :=
  let head := atBit target 24 ||| atBit unit 16
  let d := { c with aux := { c.aux with bistHits := [] } }
  let fails := bistFailures target unit seed c.aux.bistHits
  match fails with
  | [] => { d with sys := { d.sys with bistres := head, bistadr := 0, bistxor := 0 } }
  | (k, h) :: _ =>
    let code := if k.expect != h.seen then k.code else (checkCode target).getD k.code
    { d with sys := { d.sys with
        bistres := atBit (min 0xFFFF (fails.map (·.2.at_)).eraseDups.length) 48 ||| atBit k.elem 32 ||| head ||| atBit code 0
        bistadr := BitVec.ofNat 64 k.place, bistxor := lowestHalf (k.expect ^^^ h.seen) } }

/-- The core runs a self-test (rule R405). -/
def Core.underBist (c : Core) : Bool :=
  match c.ctl.hold with
  | some h => (match h.kind with | .bist _ _ _ => true | _ => false)
  | none => false

/-- A self-test ends (rules R260, R405, R406). -/
def bistEnd (s : State) : State :=
  match s.core.ctl.hold with
  | some h =>
    (match h.kind with
      | .bist t u seed => s.act (fun c => bistResults t u seed (bistLeaves t u c))
      | _ => s).endHold.proceed
  | none => s

/-- A SYS.BIST procedure ends (rule R405). -/
def execBistEnd (s : State) : Out := .next (bistEnd s.ownCore)

/-- A region's regulator has settled: VMRES holds the supply as it stands now (rule R407; log entry 6). -/
def margVSettled (s : State) : State :=
  match s.core.ctl.hold with
  | some h =>
    (match h.kind with
      | .margV r off =>
        s.act (fun c => { c with sys := { c.sys with
          vmres := atBit (s.region r).supplyMv 32 ||| atBit r 8 ||| atBit (off.emod 256).toNat 0 } })
      | _ => s).endHold.proceed
  | none => s

/-- A margined voltage has settled (rule R261). -/
def execMargVSettled (s : State) : Out := .next (margVSettled s.ownCore)

/-- One axis of an eye: the open steps of `n`, and the centre of the open ones, a free value each (rule R408). An eye without an open
step has its centre anywhere. -/
def State.eyeAxis (s : State) (agent n : Nat) (isOpen : Bool) : Nat × Nat :=
  if isOpen then
    let w := 1 + s.pick agent n
    (w, s.pick (agent + 1) (n + 1 - w) + (w - s.pick (agent + 2) 2) / 2)
  else (0, s.pick (agent + 1) n)

/-- A sweep ends: the eye that it finds is a free value within the ranges of rule R408; its centre shows no error where it is open,
and else at least one in the 2^e bits of the sweep. -/
def margLSweepEnd (s : State) : State :=
  match s.core.ctl.hold with
  | some h =>
    (match h.kind with
      | .margL port sweep dwell =>
        let isOpen := s.pick 0 2 == 1
        let (width, phase) := if sweep = 1 then (0, 0) else s.eyeAxis 1 64 isOpen
        let (height, volt) := if sweep = 0 then (0, 0) else s.eyeAxis 4 32 isOpen
        let s1 := s.act (fun c => { c with sys := { c.sys with
          eye := atBit port 56 ||| atBit sweep 54 ||| atBit width 40 ||| atBit height 32 ||| atBit phase 24 ||| atBit volt 16
          eyeerr := if isOpen then 0 else BitVec.ofNat 64 (1 + s.pick 7 (2 ^ dwell)) } })
        { s1 with seed := s.seed + 8 }
      | _ => s).endHold.proceed
  | none => s

/-- A link eye sweep ends (rule R408). -/
def execMargLSweepEnd (s : State) : Out := .next (margLSweepEnd s.ownCore)

/-! ### Prefetch -/

/-- The engine reads the header, the stage entry and the cards of the core's next stage into its deck buffer (rule
R120); a read that fails is left to the release that needs it, and words read are never read again. -/
def deckPrefetch (s : State) : State :=
  if s.core.sys.cardpos0.getLsbD 16 then s else ((fetchStage.upTo { s := s, cost := .none }).2.s).carry s

/-- The engine fetches the core's next stage (rule R120). -/
def execDeckPrefetch (s : State) : Out := .next (deckPrefetch s.ownCore)

/-! ### Scrubbing (rules R58, R68, R69) -/

/-- The number of words of a scrubber's unit, 10 standing for IMEM, and its first word. -/
def scrubWords (u : Nat) : Nat := if u < 8 then 16384 else if u < 10 then 8192 else 16384
def scrubBase (u : Nat) : Nat := if u < 10 then (unitRange u).1 / 16 else 0

/-- A pass of one scrubber ends; PASS counts when all eleven have finished theirs. -/
def scrubPass (c : Core) (u : Nat) : Core :=
  let d := c.aux.scrubDone ||| (1 <<< u)
  if d = BitVec.allOnes 11 then
    { c with
      aux := { c.aux with scrubDone := 0 }
      sys := { c.sys with memerr := setBits c.sys.memerr 63 56 ((bits c.sys.memerr 63 56 + 1) % 256) } }
  else { c with aux := { c.aux with scrubDone := d } }

/-- A scrubber reads its next word: errors are counted, and a single-bit error is queued for its write-back. -/
def scrubRead (s : State) (u : Nat) : State :=
  let c := s.core
  let pos := c.aux.scrub.getD u 0
  let w := scrubBase u + pos
  let im := u == 10
  let bad := if im then c.mem.imemBad.contains w else c.mem.bad.contains w
  let soft := if im then c.mem.imemSoft.contains w else c.mem.soft.contains w
  let ce := if bad then c.memUe 3 im w else if soft then c.memCe else c
  let c0 := if soft then ce.addFix u w else ce
  let c1 := { c0 with
    aux := { c0.aux with
      scrub := c.aux.scrub.setIfInBounds u ((pos + 1) % scrubWords u)
      scrubWait := c.aux.scrubWait.setIfInBounds u (s.cycle + 64) } }
  let c2 := if pos + 1 = scrubWords u then scrubPass c1 u else c1
  let s1 := { s with core := c2 }
  if bad then s1.note c.idx (.log (logLocal false c.idx 3 im w)) else s1

/-- A scrubber reads a word (rule R68); the unit is in the event. -/
def execScrubRead (s : State) : Out := .next (scrubRead s.ownCore s.arg.n)

/-- A corrected word is written back with fresh check bits, unless some agent wrote it since (rules R58, R66, R68): also one that a
second error has made uncorrectable meanwhile holds the corrected data again. -/
def scrubWriteback (u : Nat) (c : Core) : Core :=
  match c.aux.fixes.find? (fun f => f.unit == u) with
  | none => c
  | some f =>
    let bs := toBytes 16 f.data.toNat
    { c with
      aux := { c.aux with fixes := c.aux.fixes.erase f }
      mem := if u = 10 then { c.mem with
          imem := c.mem.imem.write (16 * f.word) bs, imemSoft := c.mem.imemSoft.filter (· != f.word)
          imemBad := c.mem.imemBad.filter (· != f.word) }
        else { c.mem with
          loc := c.mem.loc.write (16 * f.word) bs, soft := c.mem.soft.filter (· != f.word), bad := c.mem.bad.filter (· != f.word) } }

/-- A scrubber writes a corrected word back (rule R68); the unit is in the event. -/
def execScrubWriteback (s : State) : Out := .next (s.ownCore.act (scrubWriteback s.arg.n))

/-! ### Debug stops and samples -/

/-- A core freezes for a debug stop (rule R409): its accounting counts close, and it leaves a STOP record, which names TEPC.PC as it
stands (rules R412, R416; log entry 96). -/
def freezeDebug (s : State) : State :=
  s.act (fun c =>
    let c1 := { c with ctl := { c.ctl with mode := .frozen .debug, wake := s.cycle, active := false } }
    let c2 := c1.acctStop
    if c2.sys.trctl.getLsbD 3 then c2.emit s.loom 5 (c2.trap.tepc.setWidth 18) (atBit c2.quiet.toNat 0) 0 else c2)

/-- A core comes to an empty boundary under a debug stop: a trap due on it is taken, else the core freezes (rules R409, R410). -/
def debugFreeze (s : State) : State :=
  if 0 < s.core.ctl.idle then freezeDebug s else s.trapDue.getD (freezeDebug s)

/-- A core stops for a debug stop (rule R409). -/
def execDebugStopFreeze (s : State) : Out := .next (debugFreeze s.ownCore)

/-- The state code of a SAMPLE record (rule R412). -/
def sampleState (s : State) (c : Core) : Nat :=
  if c.ctl.sent.isSome then 0
  else match c.ctl.mode with
    | .barrier => 2
    | .frozen _ => 3
    | .halted => 4
    | _ => if c.ctl.hold.isSome then 1 else if !c.inX && (s.region (regionOf c.idx)).gated then 5 else 0

/-- A SAMPLE record, of the bundle that has issued on this cycle, or of the next to issue (rule R412). -/
def execTraceSample (s : State) : Out :=
  let v := s.ownCore
  .next (v.act (fun c => c.emit v.loom 1 (c.ctl.sent.getD c.nextBundle) c.sys.phnum (atBit (sampleState v c) 0)))

end Sys2Proof.Machine
end

