-- ==== Sys2Proof/Machine/CardEvents.lean ====
section
/-! DEFINITION. The events of cards in flight and of link transfers (rules R97, R107, R122, R123, R129, R322 to R324). -/

namespace Sys2Proof.Machine

/-- How many pieces of a card's work `p` names. -/
def Card.pieces (c : Card) (p : Granule → Bool) : Nat := (c.granules.filter p).length
def Granule.isTake (g : Granule) : Bool := match g with | .take _ => true | _ => false
def Granule.isUnit (g : Granule) : Bool := match g with | .atom _ => true | _ => false
def Granule.isFill (g : Granule) : Bool := match g with | .fill _ => true | _ => false

/-- The cycles that an engine takes for the rest of a card's work at least, and with one piece of it at a time. Units of an atomic card
take none of their own: many are applied on one cycle (rules R97, R129; log entry 30). -/
def Card.shortest (c : Card) : Nat :=
  if c.op = .atomic then max (c.pieces Granule.isTake) (c.pieces Granule.isFill) + 2 else c.granules.length
def Card.workCycles (c : Card) : Nat :=
  if c.op = .atomic then c.pieces Granule.isTake + c.pieces Granule.isFill + 2 else c.granules.length

namespace State

/-- A release card waits until every write of its ancestry is performed at its scope (rule R143). -/
def relWaits (s : State) (c : Card) : Bool := c.rel && s.lateAt c.core c.scope c.ancestors

/-- A card whose edges are satisfied and whose time has come may move bytes (rules R107, R123, R143). -/
def cardOpen (s : State) (c : Card) : Bool :=
  c.edges.isEmpty && !s.relWaits c && !c.ended && decide (c.notBefore ≤ s.cycle) && c.startAt.any (fun t => decide (t < s.cycle))

/-- A card ends on this cycle (rules R107, R129): its bytes are done and its end has come. Its writes are then performed at its
scope (rule R140). -/
def cardDue (s : State) (c : Card) : Bool :=
  !c.ended && c.granules.isEmpty && c.endAt.any (fun t => decide (t ≤ s.cycle))

/-- What an atomic card that stops still has to write: the bytes of its return image that it holds (rule R131). -/
def returned (c : Card) : Granule → Option Granule
  | .fill ms =>
    let kept := ms.filter (fun m => (Granule.fill [m]).ready c)
    if kept.isEmpty then none else some (.fill kept)
  | _ => none

/-- The place of the unit that an atomic card applies next: its units keep their order (rule R131). -/
def nextUnit (c : Card) : Nat := c.granules.findIdx Granule.isUnit

/-- One granule of a card's work: that at place `k`, or (`unit`) the next unit of an atomic card (rules R97, R131). A card that meets a
dead way or a bad atomic unit stops; after another error it goes on, since what it has read poisoned is written poisoned (rule R97). -/
def cardGranule (s : State) (id k : Nat) (unit : Bool) : State :=
  match s.cardAt id with
  | none => s
  | some c =>
    let i := if unit then nextUnit c else k
    match c.granules[i]? with
    | none => s
    | some g =>
      if !s.cardOpen c || !g.ready c || (g.isUnit && i != nextUnit c) then s
      else
        let s1 := performGranule ((s.settleSeen c).putCard { c with granules := c.granules.eraseIdx i }) c g
        match s1.cardAt id with
        | none => s1
        | some d =>
          if d.err = 0 || c.err != 0 then s1
          else if c.op = .atomic then s1.putCard { d with granules := d.granules.filterMap (returned d) }
          else if d.err = 3 then s1.putCard { d with granules := [] }
          else s1

end State

/-- One granule of a card is read or written (rule R97): the card in `n`, the place of the granule in `m`; with 1 in `sel`, the next
unit of an atomic card. -/
def execCardGranule (s : State) : Out := .next (s.cardGranule s.arg.n s.arg.m (s.arg.sel == 1))

/-- A card ends, and with the last of its group the token leaves pending (rules R38, R122, R127). -/
def execCardEnd (s : State) : Out :=
  .next (match s.cardAt s.arg.n with
    | some c => if s.cardDue c then (s.performAt c.id c.scope).endCard c.id else s
    | none => s)

/-! ### Link transfers -/

namespace State

/-- The bound on a link instruction once it has paired (rules R129, R324), over the hops from its block to the rim of class
0x4: its `len` bytes stand behind the granules of the engine's link instructions issued before it. -/
def linkBound (s : State) (l : LinkXfer) (len : Nat) : Nat :=
  let block := blockOf l.core
  let (x, y, m) := s.rimOf (4 * 2 ^ 52) block
  let (h, k) := hopsTo block x y
  let g := max (s.gap 0) (s.gap 1)
  let before := s.links.filter (fun x => blockOf x.core == block && decide (x.id < l.id))
  let queued := before.foldl (fun n x => n + (x.len - x.moved + 63) / 64) 0
  2 * (h * (4 * g + 1) + 3 * k) + 4 * g * (queued + (len + 63) / 64) + m

/-- A link instruction of this module that still waits for its pair: a send, or a receive. -/
def openLink (port tag : Nat) (sends : Bool) (l : LinkXfer) : Bool :=
  l.port == port && l.tag == tag && l.paired.isNone && l.err == 0 && (match l.op with | .send => sends | _ => !sends)

/-- The first waiting instruction of a port and tag pairs with the first post of the peer (rule R322). A zero-length
instruction ends on the next cycle; different lengths are an error of both sides (rule R324). -/
def linkPair (s : State) (port tag : Nat) (sends : Bool) : State :=
  match s.links.find? (openLink port tag sends),
      s.module.peers.find? (fun p => p.port == port && p.tag == tag && p.sends != sends) with
  | some l, some p =>
    let n := (min l.len p.post.len + 63) / 64
    let till := if l.len = 0 then s.cycle + 1 else s.cycle + 1 + n + s.free (s.linkBound l (64 * n) - n)
    let l' := { l with
      paired := some p.post, err := if l.len = p.post.len then 0 else 7, endAt := some till }
    { s.drawn with
      links := s.links.map (fun x => if x.id == l.id then l' else x)
      module := { s.module with peers := s.module.peers.erase p } }
  | _, _ => s

/-- The bytes that a paired transfer moves. -/
def linkLen (l : LinkXfer) : Nat := match l.paired with | some p => min l.len p.len | none => 0

/-- What is left of a transfer does not move: its port is not up, or an uncorrectable flit has struck it (rules R89, R324). -/
def linkHalted (s : State) (l : LinkXfer) : Bool :=
  l.err == 3 || l.err == 5 || s.module.weft.getD l.port .untrained != .up

/-- The next bytes of a transfer move: at most one 64-byte granule. -/
def linkGranule (s : State) (id : Nat) : State :=
  match s.links.find? (fun l => l.id == id) with
  | none => s
  | some l =>
    let n := min 64 (linkLen l - l.moved)
    if n = 0 || s.linkHalted l then s
    else
      let s1 := s.linkMove l l.moved n
      { s1 with links := s1.links.map (fun x => if x.id == id then { x with moved := l.moved + n } else x) }

/-- A link instruction ends (rules R133, R323, R324) once its time has come and every byte has moved that still moves. -/
def linkDue (s : State) (l : LinkXfer) : Bool :=
  l.endAt.any (fun t => decide (t ≤ s.cycle)) && (s.linkHalted l || decide (linkLen l ≤ l.moved))
def linkEnd (s : State) (id : Nat) : State :=
  match s.links.find? (fun l => l.id == id) with
  | none => s
  | some l => if s.linkDue l then s.endLink id else s

end State

/-- A send and a receive with one port and tag pair up (rule R322): the port in `n`, the tag in `m`, and in `sel` 0 for a send
of this module, 1 for a receive. -/
def execLinkPair (s : State) : Out := .next (s.linkPair s.arg.n s.arg.m (s.arg.sel == 0))

/-- A link instruction ends and signals its semaphore (rule R324): its identifier is in `n`. -/
def execLinkEnd (s : State) : Out := .next (s.linkEnd s.arg.n)

end Sys2Proof.Machine
end

