-- ==== Sys2Proof/Machine/Tiers.lean ====
section
/-! DEFINITION. The events of the memory system: invalidations and tags (rules R39 to R42), channels, expanders, checkpoints
and links (rules R91 to R95, R325, R397), and homes (rules R134, R135). -/

namespace Sys2Proof.Machine

/-- A register after a write, by the access of its fields: RW bits are stored, W1C bits are cleared by 1, the rest stays
(rules R11, R12). -/
def fieldWrite (old new rw w1c : Word) : Word := ((old &&& ~~~rw) ||| (new &&& rw)) &&& ~~~(new &&& w1c)

/-! ### Invalidation (rules R41, R42) -/

/-- Matching TLB entries are invalidated: one in use is dying, another goes at once (rules R38, R42). One that a release under
way translates with counts as in use, so that the invalidation waits for that release (rule R44). -/
def invalidateTlb (p : TlbEntry → Bool) (c : Core) : Core :=
  { c with aux := { c.aux with tlb := c.aux.tlb.filterMap (fun e =>
    if !p e then some e else if e.count = 0 && e.pins = 0 then none else some { e with dying := true }) } }

/-- A page meets a range of addresses. -/
def pageMeets (va size lo hi : Nat) : Bool := decide (va < hi) && decide (lo < va + 2 ^ size)

/-- The request that TINVCTL and TINVVA describe: its range is aligned to its size. -/
def tinvOf (ctl va : Word) : TInv :=
  let size := match bits ctl 11 10 with | 0 => 17 | 1 => 27 | _ => 37
  let lo := bits va 56 17 * 2 ^ 17 / 2 ^ size * 2 ^ size
  { scope := bits ctl 9 8, tag := bits ctl 23 16, lo := lo, hi := lo + 2 ^ size, waits := [] }

/-- A request matches an entry of a tag and page. -/
def TInv.hits (q : TInv) (tag va size : Nat) : Bool :=
  match q.scope with
  | 0 => q.tag == tag && pageMeets va size q.lo q.hi
  | 1 => q.tag == tag
  | _ => true

namespace State

/-- The matching entries of a reticle's cache and of its cores' TLBs are invalidated. -/
def invalidate (s : State) (r : Nat) (q : TInv) : State :=
  let x := s.ret r
  let kept := x.cache.filter (fun e => !q.hits e.tag e.va e.size)
  let s1 := s.putRet r { x with tinv := some q, cache := kept }
  s1.mapCores (fun c => if reticleOf c.idx = r then invalidateTlb (fun e => q.hits e.tag e.va e.size) c else c)

/-- A core's release is translating (rule R44). -/
def translating (c : Core) : Bool :=
  match c.ctl.hold with
  | some h => (match h.kind with | .release p => !p.ended | _ => false)
  | none => false
/-- The cores of a reticle whose releases are translating. -/
def translatingIn (s : State) (r : Nat) : List Nat :=
  (s.allCores.filter (fun c => reticleOf c.idx == r && translating c)).map (·.idx)

/-- A request is accepted: it acts at once, or waits for the releases that are translating (rules R42, R44). -/
def acceptTinv (s : State) (r : Nat) (q : TInv) : State :=
  let ws := s.translatingIn r
  if ws.isEmpty then s.invalidate r q else s.putRet r { s.ret r with tinv := some { q with waits := ws } }

/-- A write of TINVCTL in one reticle (rules R41, R44): a GO while busy is ignored but for BUSYERR; one with SIZE or SCOPE 3 is
refused; without GO the fields are stored. -/
def tinvWrite (s : State) (r : Nat) (w : Word) : State :=
  let x := s.ret r
  let old := x.tinvctl
  let put := fun (v : Word) => s.putRet r { x with tinvctl := v }
  let v := fieldWrite old w 0xFF0F00 0x6
  if !w.getLsbD 0 then put v
  else if old.getLsbD 0 then put (old ||| 4)
  else if bits w 9 8 = 3 || bits w 11 10 = 3 then put (v ||| 2)
  else (put (v ||| 1)).acceptTinv r (tinvOf v x.tinvva)

/-- The reticles that a write names: one, or all through the broadcast copy (rule R41). -/
def winReticles (a : Arg) : List Nat :=
  match a.win with
  | .everyReticle => List.range 48
  | .reticle r => [r]
  | _ => [a.ret]

/-- A GO of a given scope, in every reticle that the write names. -/
def tinvGo (s : State) (scope : Nat) : State :=
  (winReticles s.arg).foldl (fun s r => s.tinvWrite r (setBits (s.arg.value ||| 1) 9 8 scope)) s

/-- The TLB entries of a reticle's cores that `p` names. -/
def entriesIn (s : State) (r : Nat) (p : TlbEntry → Bool) : Nat :=
  (s.allCores.filter (fun c => reticleOf c.idx == r)).foldl (fun n c => n + (c.aux.tlb.filter p).length) 0

/-- Dying entries in the TLBs of a reticle, and those whose counter is nonzero (rule R41, field HELD). -/
def dyingIn (s : State) (r : Nat) : Nat := s.entriesIn r (·.dying)
def heldIn (s : State) (r : Nat) : Nat := s.entriesIn r (fun e => e.dying && e.count != 0)

/-- A request has something to do: it acts, since the translations that it has waited for have ended, or it ends, since no dying entry
remains (rules R42, R44). -/
def tinvDue (s : State) (r : Nat) : Bool :=
  (s.ret r).tinv.any (fun q => if q.waits.isEmpty then s.dyingIn r == 0 else !q.waits.any (s.translatingIn r).contains)

/-- A request goes on: one that has waited acts, and one that has acted ends once no dying entry remains (rules R42, R44). -/
def tinvComplete (s : State) (r : Nat) : State :=
  let x := s.ret r
  match x.tinv with
  | none => s
  | some q =>
    if !s.tinvDue r then s
    else if !q.waits.isEmpty then s.invalidate r { q with waits := [] }
    else s.putRet r { x with
      tinv := none, tinvctl := x.tinvctl &&& ~~~1, tinvst := setBits x.tinvst 31 0 ((bits x.tinvst 31 0 + 1) % 2 ^ 32) }

/-- Every translation entry of a tag is removed or dying (rule R40). -/
def dropTag (s : State) (tag : Nat) : State :=
  let s1 := { s with reticles := s.reticles.map (fun (x : Reticle) => { x with cache := x.cache.filter (fun e => e.tag != tag) }) }
  s1.mapCores (invalidateTlb (fun e => e.tag == tag))

/-- No translation entry of a tag remains (rule R40). -/
def tagClear (s : State) (tag : Nat) : Bool :=
  s.allCores.all (fun c => c.aux.tlb.all (fun e => e.tag != tag)) &&
    s.reticles.toList.all (fun x => x.cache.all (fun e => e.tag != tag))

/-- A tag belongs to a bound or saved context, or to one whose final record is still to be written (rules R40, R339). -/
def tagHeld (s : State) (tag : Nat) : Bool :=
  s.parts.toList.any (fun p => match p.ctx with | some x => x.tag == tag | none => false) ||
    s.sched.saved.any (fun v => v.tag == tag) ||
    s.sched.queues.toList.any (fun q => q.pending.any (fun r => r.tag == tag))

/-- A finished context's tag becomes free once no entry of it remains (rule R40). -/
def tagFreed (s : State) (tag : Nat) : State :=
  if s.tagHeld tag || !s.tagClear tag then s
  else
    let rest := s.sched.tags.filter (· != tag)
    { s with sched := { s.sched with tags := rest } }

/-! ### Retirement of HBM channels (rule R91) -/

/-- A frame of a given size meets a channel of a stack. -/
def frameInChannel (stack ch dpa size : Nat) : Bool :=
  dpaClass dpa == 0 && decide (dpa / 2 ^ 36 ≤ stack) && decide (stack ≤ (dpa + 2 ^ size - 1) / 2 ^ 36)
    && (decide (17 < size) || hbmChannel dpa == ch)

/-- The context area holds a page of every channel of a stack (rule R344). -/
def areaNames (s : State) (stack : Nat) : Bool :=
  s.sched.ctxarea.getLsbD (40 + stack) && bits s.sched.ctxarea 5 0 != 0

/-- A replacement bit becomes set: an entry with SRC 7 is logged (rule R397). -/
def advise (s : State) (b : Nat) : State :=
  if s.module.radv.getLsbD b then s
  else ({ s with module := { s.module with radv := s.module.radv ||| (1 <<< b) } }).logEntry (s.loomOf 0)
    (atBit 7 60 ||| atBit b 0)

/-- A write of HBMRCMD (rule R91). Where a GO is ignored because GO reads 1, STACK and CHAN are stored all the same (log entry
81). -/
def hbmWrite (s : State) (w : Word) : State :=
  let m := s.module
  let v := fieldWrite m.hbmrcmd w 0xFFC0 0x2
  let put := fun (v : Word) => { s with module := { m with hbmrcmd := v } }
  if !w.getLsbD 0 || m.hbmrcmd.getLsbD 0 then put v
  else
    let st := bits v 15 11
    let ch := bits v 10 6
    if 23 < st || s.channelGone st ch || s.areaNames st then put (v ||| 2)
    else
      let s1 := { s with module := { m with hbmrcmd := v ||| 1, retiring := some (st, ch) } }
      let s2 := { s1 with reticles := s1.reticles.map (fun (x : Reticle) =>
        { x with cache := x.cache.filter (fun e => !frameInChannel st ch e.dpa e.size) }) }
      s2.mapCores (invalidateTlb (fun e => frameInChannel st ch e.dpa e.size))

/-- No card or dying entry of the retiring channel remains: each card of the channel counts in an entry of its page (rule
R38). -/
def channelQuiet (s : State) (st ch : Nat) : Bool :=
  s.allCores.all (fun c => c.aux.tlb.all (fun e => !(e.dying && frameInChannel st ch e.dpa e.size)))

/-- A block of class 0x0 lies in a channel. -/
def blockIn (st ch b : Nat) : Bool := frameInChannel st ch (b * 2 ^ 17) 17

/-- HOME reads 0 once every block is at its controller (rule R135). -/
def homeSettled (s : State) : State :=
  if s.module.homes.isEmpty then { s with module := { s.module with migctl := s.module.migctl &&& ~~~2 } } else s

/-- The retirement ends: no agent reads or writes the channel's bytes again (rule R91; log entry 82). -/
def hbmRetireEnd (s : State) : State :=
  match s.module.retiring with
  | none => s
  | some (st, ch) =>
    if !s.channelQuiet st ch then s
    else
      let m := s.module
      ({ s with
        mem := { cells := s.mem.cells.filter (fun c => !blockIn st ch (c.1 / 2 ^ 17)) }
        poison := s.poison.filter (fun g => !blockIn st ch (g / 2 ^ 11))
        module := { m with
          retiring := none, hbmrcmd := m.hbmrcmd &&& ~~~1
          hbmret := m.hbmret.setIfInBounds st (m.hbmret.getD st 0 ||| (1 <<< ch))
          homes := m.homes.filter (fun h => !blockIn st ch h.block) } }).homeSettled.advise 9

/-! ### Expanders, Uller links and weft ports (rules R92, R93, R95, R325, R397) -/

/-- Cards that have not ended and that `p` names end in error with KIND 3 (rules R92, R95, R325). -/
def killCards (s : State) (p : Card → Bool) : State :=
  { s with cards := s.cards.map (fun c =>
    if c.ended || !p c then c
    else { c with
      err := if c.err = 0 then 3 else c.err
      granules := [], endAt := some (min (c.endAt.getD (s.cycle + 2)) (max c.notBefore (s.cycle + 2))) }) }

/-- A card reaches an off-wafer address that `p` names; it has still to reach one. -/
def reaches (p : Nat → Bool) (c : Card) : Bool := c.reach.any (fun g => p (64 * g))
def stillReaches (p : Nat → Bool) (c : Card) : Bool := c.granules.any (fun g => g.targets.any (fun a => decide (a < 2 ^ 56) && p a))

/-- A CXL port trains and declares its persistent range (rules R92, R93). -/
def cxlTrain (s : State) (p : Nat) (w : Word) : State :=
  let m := s.module
  if m.cxl.getD p .untrained != .untrained then s
  else { s with module := { m with
    cxl := m.cxl.setIfInBounds p .up, cxlp := m.cxlp.setIfInBounds p (w &&& 0x800000000FFFFFFF) } }

/-- A trained CXL port goes down: every card in flight to it ends in error (rule R92). -/
def cxlDown (s : State) (p : Nat) : State :=
  let m := s.module
  if m.cxl.getD p .untrained != .up then s
  else ({ s with module := { m with cxl := m.cxl.setIfInBounds p .down } }).killCards
    (reaches (fun a => dpaClass a == 1 && cxlPort a == p))

/-- The reticle beside an Uller link (rule R95). -/
def ullerCorner (q : Nat) : Nat := [0, 7, 40, 47].getD q 0

/-- An Uller link trains: the corner reticle's UL bit is set, and the companion's ranges become backed (rules R23, R382). -/
def ullerTrain (s : State) (q : Nat) (ranges : List (Nat × Nat)) : State :=
  let m := s.module
  if m.uller.getD q .untrained != .untrained then s
  else
    let r := ullerCorner q
    let x := s.ret r
    ({ s with module := { m with
        uller := m.uller.setIfInBounds q .up, ullerRanges := m.ullerRanges ++ ranges } }).rerouted.putRet r
      { x with boot := { x.boot with ul := x.boot.ul || (x.boot.stage == BootStage.b1 && decide (s.cycle < x.boot.start + linkTestAt)) } }

/-- An Uller link goes down: class 0x2 uses the next live link, and with none left its cards end in error (rule R95). -/
def ullerDown (s : State) (q : Nat) : State :=
  let m := s.module
  if m.uller.getD q .untrained != .up then s
  else
    let s1 := ({ s with module := { m with uller := m.uller.setIfInBounds q .down } }).rerouted
    if s1.module.uller.toList.any (· == .up) then s1 else s1.killCards (reaches (fun a => dpaClass a == 2))

/-- A weft port trains; one below its full lane count is reported (rule R397). -/
def weftTrain (s : State) (p : Nat) (short : Bool) : State :=
  let m := s.module
  if m.weft.getD p .untrained != .untrained then s
  else
    let s1 := { s with module := { m with weft := m.weft.setIfInBounds p .up } }
    if short then s1.advise 8 else s1

/-- A weft port goes down: its link instructions end in error, and so do the cards whose granules it has still to carry (rules
R324, R325). -/
def weftDown (s : State) (p : Nat) : State :=
  let m := s.module
  if m.weft.getD p .untrained != .up then s
  else
    let s1 := ({ s with module := { m with weft := m.weft.setIfInBounds p .down } }).killCards
      (stillReaches (fun a => dpaClass a == 4 && s.weftPortOf a == p))
    { s1 with links := s1.links.map (fun l => if l.port == p then
        { l with err := if l.err = 0 then 3 else l.err, endAt := some (s.cycle + 1) } else l) }

/-- A write of a weft route entry (rule R325). -/
def wrouteSet (s : State) (n : Nat) (w : Word) : State :=
  let v := w &&& 0x8000000000000E3F
  if (v.getLsbD 63 && (bits v 11 9 == 0 || bits v 11 9 == 7)) || decide (36 < bits v 5 0 + bits v 11 9)
      || n == Config.moduleNumber % 64 then s
  else ({ s with module := { s.module with wroute := s.module.wroute.setIfInBounds n v } }).rerouted

/-! ### Module checkpoints (rules R93, R94) -/

end State

/-- Byte `i` of the checkpoint region. -/
def regionAt : List (Nat × Nat) → Nat → Option Nat
  | [], _ => none
  | (a, n) :: rs, i => if i < n then some (a + i) else regionAt rs (i - n)
/-- The place in the region of an address. -/
def regionOf_ : List (Nat × Nat) → Nat → Option Nat
  | [], _ => none
  | (a, n) :: rs, d => if a ≤ d && d < a + n then some (d - a) else (regionOf_ rs d).map (· + n)

/-- The bytes of one stack and of one core's local space with its IMEM, and the places of both in the region (log entry 21): the
header, the stacks in ascending number, the cores in ascending index. -/
def stackBytes : Nat := 0xEE6B20000
def localBytes : Nat := 2 ^ 21 + 2 ^ 18
def coreBytes : Nat := localBytes + 2 ^ 18
def ckptStack (st : Nat) : Nat := 4096 + st * stackBytes
def ckptCore (k : Nat) : Nat := ckptStack 24 + k * coreBytes
def ckptSize : Nat := ckptCore 49152

/-- The place in the region of a byte of HBM. -/
def ckptOfDpa (a : Nat) : Option Nat :=
  if dpaClass a = 0 && hbmStack a < 24 && a / 2 ^ 41 % 2 ^ 11 = 0 && hbmOffset a < stackBytes
  then some (ckptStack (hbmStack a) + hbmOffset a) else none

/-- Cells sorted into the canonical form: later cells of one address win, and 0 is not listed. -/
def Memory.ofCells (cs : List Host.Cell) : Memory := Memory.empty.writeAll cs

namespace State

/-- A checkpoint operation is refused (rule R94). -/
def ckptRefused (s : State) (w : Word) : Bool :=
  s.parts.toList.any (·.ctx.isSome) || !(bits w 7 4 == 1 || bits w 7 4 == 2) ||
    decide ((s.persistent.map (·.2)).foldl (· + ·) 0 < ckptSize)

/-- A write of CKPTCTL (rule R94). Where a GO is ignored because GO reads 1, OP is stored all the same (log entry 81). -/
def ckptWrite (s : State) (w : Word) : State :=
  let m := s.module
  let v := fieldWrite m.ckptctl w 0xF0 0x8
  let put := fun (v : Word) => { s with module := { m with ckptctl := v } }
  if !w.getLsbD 0 || m.ckptctl.getLsbD 0 then put v
  else if s.ckptRefused v then put (v ||| 8)
  else { s.drawn with module := { m with
    ckptctl := v ||| 1, ckptst := setBits m.ckptst 7 0 (bits v 7 4), ckptEnd := some (s.cycle + 1 + s.free 3199999999) } }

/-- The operation ends with an error code: 0 none (rule R94). -/
def ckptDone (s : State) (err : Nat) : State :=
  let m := s.module
  { s with module := { m with
    ckptctl := m.ckptctl &&& ~~~1, ckptEnd := none
    ckptst := setBits m.ckptst 7 0 (err * 16 + if err = 0 then 0 else 3) } }

/-- A port of the region is down. -/
def ckptPortDown (s : State) : Bool :=
  (List.range 16).any (fun p => (s.module.cxlp.getD p 0).getLsbD 63 && s.module.cxl.getD p .untrained != .up)

/-- The header of a save: its sequence number and check code, in the first two words (log entry 21). -/
def headerBytes (seq : Nat) : List Byte := toBytes 8 seq ++ toBytes 8 (Config.headerCheck (toBytes 8 seq)).toNat

/-- A save ends: the bytes of HBM, of every local space and of every IMEM stand in the region, with their poison marks, and its header is
written last (rule R94). A granule that is read beyond correction is logged (rule R378). -/
def ckptSaveEnd (s : State) : State :=
  if s.module.ckptEnd.all (fun t => decide (s.cycle < t)) || bits s.module.ckptst 3 0 != 1 then s
  else if s.ckptPortDown then s.ckptDone 2
  else
    let rs := s.persistent
    let live := fun (a : Nat) => !s.channelGone (hbmStack a) (hbmChannel a)
    let at_ := fun (i : Nat) => (regionAt rs i).getD 0
    let kept := s.mem.cells.filter (fun c =>
      match regionOf_ rs c.1 with | some i => decide (ckptSize ≤ i) | none => true)
    let hbm := s.mem.cells.filterMap (fun c => if live c.1 then (ckptOfDpa c.1).map (fun i => (at_ i, c.2)) else none)
    let loc := s.allCores.flatMap (fun c => c.mem.loc.cells.map (fun x => (at_ (ckptCore c.idx + x.1), x.2))
      ++ c.mem.imem.cells.map (fun x => (at_ (ckptCore c.idx + localBytes + x.1), x.2)))
    let seq := (bits s.module.ckptst 63 32 + 1) % 2 ^ 32
    let head := (List.range 16).zip (headerBytes seq) |>.map (fun x => (at_ x.1, x.2))
    let sick := s.poison.filter (fun g => live (64 * g) && (ckptOfDpa (64 * g)).isSome)
    let marks := sick.filterMap (fun g => (ckptOfDpa (64 * g)).map (fun i => at_ i / 64))
    let old := s.poison.filter (fun g => match regionOf_ rs (64 * g) with | some i => decide (ckptSize ≤ i) | none => true)
    let bad := s.allCores.flatMap (fun c => c.mem.bad.map (fun w => (c.idx, w))
      ++ c.mem.imemBad.map (fun w => (c.idx, localBytes / 16 + w)))
    ({ sick.foldl logHome s with
        mem := Memory.ofCells (kept ++ hbm ++ loc ++ head), poison := old ++ marks
        module := { (sick.foldl logHome s).module with ckptBad := bad, ckptst := setBits s.module.ckptst 63 32 seq } }).ckptDone 0

/-- A restore ends: HBM, every local space and every IMEM take the saved bytes and marks; an invalid header changes nothing (rule
R94). -/
def ckptRestoreEnd (s : State) : State :=
  if s.module.ckptEnd.all (fun t => decide (s.cycle < t)) || bits s.module.ckptst 3 0 != 2 then s
  else if s.ckptPortDown then s.ckptDone 2
  else
    let rs := s.persistent
    let h := (regionAt rs 0).getD 0
    if s.poisoned h then (s.logHome (h / 64)).ckptDone 1
    else if s.mem.readN h 16 != headerBytes (s.mem.readNat h 8) then s.ckptDone 3
    else
      let saved := s.mem.cells.filterMap (fun c => (regionOf_ rs c.1).map (fun i => (i, c.2)))
      let live := fun (a : Nat) => !s.channelGone (hbmStack a) (hbmChannel a)
      let dpaAt := fun (i : Nat) => (i - 4096) / stackBytes * 2 ^ 36 + (i - 4096) % stackBytes
      let hbm := saved.filterMap (fun x =>
        if 4096 ≤ x.1 && x.1 < ckptCore 0 && live (dpaAt x.1) then some (dpaAt x.1, x.2) else none)
      let marks := s.poison.filterMap (fun g => (regionOf_ rs (64 * g)).bind (fun i =>
        if 4096 ≤ i && i < ckptCore 0 && live (dpaAt i) then some (dpaAt i / 64) else none))
      let locs := saved.filterMap (fun x =>
        if ckptCore 0 ≤ x.1 && x.1 < ckptSize then
          some ((x.1 - ckptCore 0) / coreBytes, ((x.1 - ckptCore 0) % coreBytes, x.2)) else none)
      let ids := (locs.map (·.1) ++ s.module.ckptBad.map (·.1)).eraseDups
      let sick := s.poison.filter (fun g => match regionOf_ rs (64 * g) with | some i => decide (i < ckptSize) | none => false)
      let s1 := { sick.foldl logHome s with
        mem := Memory.ofCells (s.mem.cells.filter (fun (c : Host.Cell) => dpaClass c.1 != 0 || !live c.1) ++ hbm)
        poison := s.poison.filter (fun g => dpaClass (64 * g) != 0) ++ marks }
      let s2 := ids.foldl (fun s k => s.onCore k (fun c => c)) s1
      (s2.mapCores (fun c =>
        let mine := (locs.filter (fun (x : Nat × Nat × Byte) => x.1 == c.idx)).map (·.2)
        let bad := (s.module.ckptBad.filter (fun (x : Nat × Nat) => x.1 == c.idx)).map (·.2)
        { c with aux := { c.aux with fixes := [] }, mem := { c.mem with
          loc := Memory.ofCells (mine.filter (fun (x : Nat × Byte) => decide (x.1 < localBytes))), soft := []
          imem := Memory.ofCells (mine.filterMap (fun (x : Nat × Byte) =>
            if localBytes ≤ x.1 then some (x.1 - localBytes, x.2) else none)), imemSoft := []
          bad := bad.filter (fun (w : Nat) => decide (w < localBytes / 16))
          imemBad := (bad.filter (fun (w : Nat) => decide (localBytes / 16 ≤ w))).map (fun (w : Nat) => w - localBytes / 16) } })).ckptDone 0

/-! ### Homes (rules R134, R135) -/

/-- The unit that a block is homed at; 11 is its controller. -/
def homeOf (s : State) (b : Nat) : Nat := ((s.module.homes.find? (fun h => h.block == b)).map (·.unit)).getD 11

/-- A block is wanted at another home; a move that has begun goes on to its end. -/
def wantHome (s : State) (b u : Nat) : State :=
  let m := s.module
  match m.homes.find? (fun h => h.block == b) with
  | some _ => { s with module := { m with homes := m.homes.map (fun h =>
      if h.block == b && h.moving.isNone then { h with want := some u } else h) } }
  | none => { s with module := { m with homes := m.homes ++ [{ block := b, unit := 11, want := some u, moving := none }] } }

/-- A block at its controller stays there: a move that has not begun is given up (rule R135). -/
def unwant (s : State) (b : Nat) : State :=
  { s with module := { s.module with homes := s.module.homes.filter (fun h =>
      !(h.block == b && h.unit == 11 && h.moving.isNone)) } }

/-- A translation in use covers a block, so that some released card that has not retired may have it in its extent (rules
R38, R44, R134). -/
def blockInUse (s : State) (b : Nat) : Bool :=
  s.allCores.any (fun c => c.aux.tlb.any (fun e =>
    decide (0 < e.count + e.pins) && decide (e.dpa / 2 ^ 17 ≤ b) && decide (b < (e.dpa + 2 ^ e.size) / 2 ^ 17)))

/-- The blocks that a unit holds or that are on their way to it (rule R134). -/
def heldAt (s : State) (u : Nat) : Nat :=
  (s.module.homes.filter (fun h => h.unit == u || (h.want == some u && h.moving.isSome))).length

/-- The router at a block's home: that of its rim port for its controller, else one at the atomic unit. DESIGN CHOICE, unsafe (log entry
97): rule R134 names the side of the wafer or the quadrant that a unit is in, and no router. -/
def homeRouter (s : State) (b u : Nat) : Nat × Nat :=
  if u = 11 then (let (x, y, _) := s.rimOf (b * 2 ^ 17) 0; (x, y))
  else if u < 4 then (if u % 2 = 1 then 31 else 0, if 2 ≤ u then 23 else 0)
  else if u = 4 then (0, 0)
  else (31, 23)

/-- The way of a move carries migration: it crosses no cut selvedge, and its regions have slots of class 0x3 (rules R87, R134, R381). -/
def moveCarried (s : State) (b from_ to_ : Nat) : Bool :=
  let (x, y) := s.homeRouter b from_
  let (x', y') := s.homeRouter b to_
  s.wayWhole (blockXY x y) x' y' && s.classOn 3 (blockXY x y) x' y'

/-- A wanted move may begin (rules R134, R135): no card has the block in its extent, its new unit has room, and the shuttle plane carries
it. -/
def mayMove (s : State) (h : HomeEntry) : Bool :=
  h.moving.isNone && !s.blockInUse h.block && s.moveCarried h.block h.unit (h.want.getD 11) &&
    (match h.want with
      | some u => u == 11 || (decide (s.heldAt u < 32) && !s.module.counts.any (fun k => k.block == h.block && k.pinned))
      | none => false)

/-- A move begins (rule R134); it takes a free time. -/
def homeStart (s : State) (b : Nat) : State :=
  match s.module.homes.find? (fun h => h.block == b) with
  | none => s
  | some h =>
    if !s.mayMove h then s
    else
      let till := s.cycle + 1 + s.free (2 ^ 24)
      { s.drawn with module := { s.module with homes := s.module.homes.map (fun h =>
        if h.block == b then { h with moving := some till } else h) } }

/-- A move ends (rule R134): MOVES counts it, and held releases go on. While HOME reads 1, a block that has come to a unit is
wanted back (rule R135). -/
def homeFinish (s : State) (b : Nat) : State :=
  match s.module.homes.find? (fun h => h.block == b && h.moving.any (fun t => decide (t ≤ s.cycle))) with
  | none => s
  | some h =>
    let m := s.module
    let u := h.want.getD 11
    let rest := m.homes.filter (fun x => x.block != b)
    let back := if m.migctl.getLsbD 1 then some 11 else none
    let homes := if u = 11 then rest else rest ++ [{ block := b, unit := u, want := back, moving := none }]
    ({ s with module := { m with
        homes := homes, migctl := setBits m.migctl 63 48 ((bits m.migctl 63 48 + 1) % 2 ^ 16) } }).homeSettled

/-- The unit with the highest counter, the lowest of equal ones. -/
def bestUnit (cs : List Nat) : Nat × Nat :=
  ((List.range cs.length).zip cs).foldl (fun b x => if b.2 < x.2 then x else b) (0, 0)

/-- Firmware's choice for one block at the end of an epoch (rule R135): its unit with the highest counter, where that is at least
THRESH and more than twice the counter of its home. A unit that is full first returns its least recently used block that
stays there. DESIGN CHOICE, unsafe (log entry 112): a block's controller has none of the eleven counters, and the counter of a home there
is taken as 0. -/
def epochMove (s : State) (h : HomeCount) : State :=
  let home := s.homeOf h.block
  if h.pinned then (if home = 11 then s.unwant h.block else s.wantHome h.block 11)
  else
    let (u, n) := bestUnit h.counts
    if decide (n < bits s.module.migctl 31 24) || decide (n ≤ 2 * h.counts.getD home 0) || u == home then s
    else
      let there := s.module.homes.filter (fun x => (x.unit == u && (x.want.isNone || x.want == some u)) || x.want == some u)
      if there.length < 32 then s.wantHome h.block u
      else
        let used := fun (x : HomeEntry) => ((s.module.counts.find? (fun k => k.block == x.block)).map (·.used)).getD 0
        match oldest used (there.filter (fun x => x.want.isNone && x.moving.isNone)) with
        | some o => (s.wantHome o.block 11).wantHome h.block u
        | none => s

/-- An epoch ends: where it may move blocks and none are being sent home, firmware chooses moves by the counters; it halves them (rule
R135). DESIGN CHOICE, unsafe (log entry 112): it takes the blocks in the order in which they were counted last, the latest first; the rule
gives none for those that compete for a unit's places. -/
def epochEnd (s : State) : State :=
  let s1 := if s.module.migctl.getLsbD 0 && !s.module.migctl.getLsbD 1 then s.module.counts.foldl epochMove s else s
  { s1 with module := { s1.module with counts := s1.module.counts.map (fun h =>
    { h with counts := h.counts.map (· / 2) }) } }

/-- A write of MIGCTL; one with EPOCH 0 is ignored (rule R135). -/
def migWrite (s : State) (w : Word) : State :=
  if bits w 23 16 = 0 then s
  else
    let m := s.module
    let s1 := { s with module := { m with migctl := fieldWrite m.migctl w 0xFFFF0001 0 } }
    if !w.getLsbD 1 then s1
    else
      let homes := s1.module.homes.filter (fun h => h.unit != 11 || h.moving.isSome)
      let s2 := { s1 with module := { s1.module with migctl := s1.module.migctl ||| 2, homes := homes } }
      (homes.foldl (fun s h => s.wantHome h.block 11) s2).homeSettled

/-- An outside agent's write of consecutive bytes, kept for a loss of power where a card's write before it is (rule R93). -/
def logWrites (s : State) (a : Nat) (bs : List Byte) : State :=
  let cells := placed a bs
  ((cells.map (fun c => c.1 / 64)).eraseDups).foldl (fun s g =>
    let mine := cells.filter (fun c => c.1 / 64 == g)
    s.logWrite none g mine (if mine.length = 64 then some false else none)) s

/-- An atomic access of an outside agent at a block's home (rules R130, R134, R135): its operand bytes are x, or for CAS c and
then x; it gives the old value, and counts for the agent's unit. One that reads beyond correction leaves memory unchanged (rule R131). -/
def homeAtomic (s : State) (a atop unit : Nat) (bs : List Byte) : State :=
  let u := if atop = 9 then bs.length / 2 else bs.length
  let s := (s.performSeen (a / 64)).readHomes [(a, u)]
  let old := s.mem.readNat a u
  let new := atomNew atop (if u = 2 then 3 else 5) u old (ofBytes (if atop = 9 then bs.drop u else bs)) (ofBytes (bs.take u))
  let s1 := s.countHome unit a
  { (if s.poisoned a then s1 else (s1.logWrites a (toBytes u new)).writeMem a (toBytes u new)) with readback := BitVec.ofNat 64 old }

/-- An access by the companion processor or a peer module is performed at the block's home, or at its own memory for classes 0x2
and 0x4 (rules R134, R136, R151): `how` is 0 for a read of a word, 1 for a write of bytes, else 2 and the atomic operation;
`unit` is 4 for the companion, 5 to 10 for a peer's weft port group. A whole granule written loses its poison; what the
companion reads of classes 0x0 and 0x1 it may keep as a copy (rule R139). -/
def homeUse (s : State) (a how unit : Nat) (bs : List Byte) : State :=
  if !(dpaClass a ≤ 2 || dpaClass a = 4) then s
  else
    match how with
    | 0 => { s.readHomes [(a, 8)] with
        readback := s.readWord a
        mirrored := if unit = 4 && dpaClass a ≤ 1 && !s.mirrored.contains (a / 64) then (a / 64) :: s.mirrored else s.mirrored }
    | 1 =>
      let whole := fun (g : Nat) => decide (a ≤ 64 * g) && decide (64 * g + 64 ≤ a + bs.length)
      let s := (((placed a bs).map (fun c => c.1 / 64)).eraseDups).foldl performSeen s
      { (s.logWrites a bs).writeMem a bs with poison := s.poison.filter (fun g => !whole g) }
    | n + 2 => s.homeAtomic a n unit bs

end State

/-! ### The events -/

/-- TINVCTL GO with scope 0: one context's entries that meet a range (rule R42). -/
def execTinvRange (s : State) : Out := .next (s.tinvGo 0)
/-- TINVCTL GO with scope 1: every entry of a tag (rule R42). -/
def execTinvContext (s : State) : Out := .next (s.tinvGo 1)
/-- TINVCTL GO with scope 2: every entry (rule R42). -/
def execTinvAll (s : State) : Out := .next (s.tinvGo 2)
/-- An invalidation ends (rule R42). -/
def execTinvComplete (s : State) : Out := .next ((State.winReticles s.arg).foldl (fun s r => s.tinvComplete r) s)
/-- A tag becomes free (rule R40): it is in `n`. -/
def execTagFreed (s : State) : Out := .next (s.tagFreed s.arg.n)

/-- HBMRCMD GO (rule R91). -/
def execHbmChannelRetire (s : State) : Out := .next (s.hbmWrite (s.arg.value ||| 1))
/-- The retirement of a channel ends (rule R91). -/
def execHbmRetireComplete (s : State) : Out := .next s.hbmRetireEnd

/-- A CXL port trains (rules R92, R93): the port in `n`, its CXLP value with it. -/
def execCxlLinkTrain (s : State) : Out := .next (s.cxlTrain s.arg.n s.arg.value)
/-- A CXL port goes down (rule R92). -/
def execCxlPortDown (s : State) : Out := .next (s.cxlDown s.arg.n)
/-- CKPTCTL GO with OP 1 (rule R94). -/
def execCheckpointSave (s : State) : Out := .next (s.ckptWrite (setBits (s.arg.value ||| 1) 7 4 1))
/-- CKPTCTL GO with OP 2 (rule R94). -/
def execCheckpointRestore (s : State) : Out := .next (s.ckptWrite (setBits (s.arg.value ||| 1) 7 4 2))
/-- A save ends (rule R94). -/
def execCheckpointSaveEnd (s : State) : Out := .next s.ckptSaveEnd
/-- A restore ends (rule R94). -/
def execCheckpointRestoreEnd (s : State) : Out := .next s.ckptRestoreEnd
/-- An Uller link trains (rule R382): the link in `n`, the companion's backed ranges with it. -/
def execUllerLinkTrain (s : State) : Out := .next (s.ullerTrain s.arg.n s.arg.ranges)
/-- An Uller link goes down (rule R95). -/
def execUllerLinkDown (s : State) : Out := .next (s.ullerDown s.arg.n)
/-- A weft port trains (rule R397): the port in `n`, and in `m` 1 when below its full lane count. -/
def execWeftLinkTrain (s : State) : Out := .next (s.weftTrain s.arg.n (s.arg.m == 1))
/-- A weft port goes down (rule R325). -/
def execWeftPortDown (s : State) : Out := .next (s.weftDown s.arg.n)
/-- A write of a weft route entry (rule R325): the module number in `n`. -/
def execWrouteWrite (s : State) : Out := .next (s.wrouteSet s.arg.n s.arg.value)

/-- An epoch of page migration ends (rule R135). -/
def execMigrationEpoch (s : State) : Out := .next s.epochEnd
/-- A block's move begins (rule R134): the block is in `n`. -/
def execHomeMove (s : State) : Out := .next (s.homeStart s.arg.n)
/-- A block's move ends (rule R134). -/
def execHomeMoveEnd (s : State) : Out := .next (s.homeFinish s.arg.n)
/-- MIGCTL.HOME (rule R135). -/
def execMigrateHomeAll (s : State) : Out := .next (s.migWrite (s.arg.value ||| 2))
/-- An access of the companion processor or a peer module (rule R134): the address in `n`, the kind in `m`, the agent's unit in
`sel`. -/
def execHomeAccess (s : State) : Out := .next (s.homeUse s.arg.n s.arg.m s.arg.sel s.arg.bytes)

end Sys2Proof.Machine
end

