-- ==== Sys2Proof/Machine/CoreBlock.lean ====
section
/-! DEFINITION. The core block, in which a context image and the core's management window present a core (rules R348 to
R350), and the trap area of the window (rule R359). -/

namespace Sys2Proof.Machine

namespace Core

/-- A word of the core block (rule R348). -/
def blockWord (c : Core) (o : Nat) : Word :=
  if o < 0x240000 then BitVec.ofNat 64 (c.mem.loc.readNat o 8)
  else if o < 0x280000 then BitVec.ofNat 64 (c.mem.imem.readNat (o - 0x240000) 8)
  else if o < 0x284000 then word64 (c.reg.v.getD ((o - 0x280000) / 256) 0) (o % 256 / 8)
  else if o < 0x284800 then word64 (c.reg.a.getD ((o - 0x284000) / 256) 0) (o % 256 / 8)
  else c.ctlWord (o - 0x284800)

/-- A core with a word of its core block written. -/
def putBlockWord (c : Core) (o : Nat) (w : Word) : Core :=
  if o < 0x240000 then { c with mem := { c.mem with loc := c.mem.loc.write o (toBytes 8 w.toNat) } }
  else if o < 0x280000 then { c with mem := { c.mem with imem := c.mem.imem.write (o - 0x240000) (toBytes 8 w.toNat) } }
  else if o < 0x284000 then
    let i := (o - 0x280000) / 256
    { c with reg := { c.reg with v := c.reg.v.setIfInBounds i (putWord64 (c.reg.v.getD i 0) (o % 256 / 8) w) } }
  else if o < 0x284800 then
    let i := (o - 0x284000) / 256
    { c with reg := { c.reg with a := c.reg.a.setIfInBounds i (putWord64 (c.reg.a.getD i 0) (o % 256 / 8) w) } }
  else c.putCtlWord (o - 0x284800) w

/-- The cells of a core block, in rising offset (rule R348). -/
def blockCells (c : Core) : List Host.Cell :=
  c.mem.loc.cells ++ c.mem.imem.cells.map (fun x => (x.1 + 0x240000, x.2))
    ++ (List.range 2560).flatMap (fun i =>
      let o := 0x280000 + 8 * i
      let w := c.blockWord o
      if w = 0 then [] else Memory.cellsOf o (toBytes 8 w.toNat))

/-- The core with the state of a core block: local space and IMEM, and every register (rules R345, R348). -/
def ofBlock (c : Core) (m : Memory) : Core :=
  let loc := { cells := m.cells.filter (fun x => decide (x.1 < 0x240000)) : Memory }
  let imem := { cells := (m.cells.filter (fun x => decide (0x240000 ≤ x.1) && decide (x.1 < 0x280000))).map (fun x =>
    (x.1 - 0x240000, x.2)) : Memory }
  let c1 := { c with mem := { c.mem with loc := loc, imem := imem } }
  (List.range 2560).foldl (fun c i =>
    let o := 0x280000 + 8 * i
    c.putBlockWord o (BitVec.ofNat 64 (m.readNat o 8))) c1

end Core

/-! ### The trap area of the window (rules R357, R359) -/

/-- The file and the physical number of a landing's destination, and the bytes that will land as far as they are formed. A clear of several
accumulator sets shows the lowest of them. DESIGN CHOICE, unsafe (log entry 111): rule R359 has room for one register number. -/
def Effect.dest : Effect → Nat × Nat
  | .sreg r _ => (0, r.toNat)
  | .vreg r _ => (1, r.toNat)
  | .preg r _ => (2, r.toNat)
  | .accZero m => (3, ((List.range 8).find? m.getLsbD).getD 0)
  | .step a _ _ _ _ _ _ => (3, a.toNat)
  | .latch _ _ => (3, 8)
  | .scale q _ => (4, q.toNat)
  | .fmt f _ => (4, f.toNat)
  | .sysw n _ => (4, n.toNat % 512)
  | .tokClr m => (4, m.toNat)
  | .loopSet l _ => (4, 0x048 + l.toNat)
  | .loopPair i _ => (4, 0x050 + i)
  | .loopEc _ => (4, 0x040)
  | .rotClr => (4, 0x040)
  | _ => (4, 0)
def Effect.payload : Effect → List Word
  | .sreg _ x => [x]
  | .vreg _ x => (List.range 32).map (word64 x)
  | .preg _ x => [atBit x.toNat 0]
  | .latch x _ => (List.range 96).map (word64 x)
  | .scale _ x => (List.range 8).map (word64 x)
  | .fmt _ x => [x.setWidth 64]
  | .sysw _ x => [x]
  | .loopSet _ x => [x.word]
  | .loopPair _ x => [x.word]
  | _ => []

/-- The local address and the written bytes of a claim, where it has them. -/
def Action.addr : Action → Nat
  | .load a _ _ _ => a | .vload a _ => a | .bcast a _ => a | .store a _ => a | .scl a _ => a | .drain a _ => a
  | .step _ _ _ _ _ A _ _ => canon A.base | .ldb A _ => canon A.base
  | .xsend a => a | .xrecv a _ _ => a | .xradd a _ _ => a
  | .gather _ as _ => (as.filterMap id).headD 0
  | .scatter ls => (ls.map (·.1)).headD 0
def Action.bytes : Action → List Byte
  | .store _ bs => bs
  | .drain _ bs => bs
  | .xrecv _ w _ => vecBytes w
  | _ => []

/-- Words from bytes. -/
def wordsFrom (bs : List Byte) : List Word :=
  (List.range ((bs.length + 7) / 8)).map (fun i => BitVec.ofNat 64 (ofBytes ((bs.drop (8 * i)).take 8)))

/-- The record number REM of an item due on a core cycle, counted from the boundary (rule R357). -/
def remOf (base due : Nat) : Nat := due - base
/-- AGE of rule R359: c - 1 less the producer's issue cycle. -/
def ageOf (base issued : Nat) : Nat := base - 1 - issued

def landEntry (base : Nat) (l : Landing) : Word :=
  atBit 1 63 ||| atBit (l.op % 256) 55 ||| atBit (ageOf base l.issued % 16) 51 ||| atBit l.eff.dest.1 48
    ||| atBit l.eff.dest.2 39
def claimEntry (base : Nat) (l : Claim) : Word :=
  let u := l.units.headD (0, 0)
  atBit 1 63 ||| atBit (l.op % 256) 55 ||| atBit (ageOf base l.issued % 16) 51 ||| atBit u.1 47 ||| atBit u.2 43
    ||| atBit l.act.addr 0

/-- The value that a back-edge's pair j of level l writes, 0 where the pair is off. -/
def strideValue (regs : List (Nat × BitVec 6 × Word)) (l j : Nat) : Word :=
  match regs.find? (fun w => w.1 == 4 * l + j) with | some w => w.2.2 | none => 0

/-- A back-edge's levels, as a mask, and its payload: 64 bytes for each level it examined, in ascending order, of which LOOPl and the
four stride-added values fill five words; then ROTB and p8. -/
def backEdgeOf : Effect → Option (Nat × List Word)
  | .backEdge regs levels rotb p8 =>
    some (levels.foldl (fun m l => m ||| 2 ^ l.1) 0,
      levels.flatMap (fun l => l.2.word :: ((List.range 4).map (strideValue regs l.1) ++ [0, 0, 0]))
        ++ [rotb.word, atBit (match p8.getLast? with | some (_, b) => b.toNat | none => 0) 0])
  | _ => none

/-- The result that a claim still due will bring: it lands as many core cycles after issue as the claim's kind says, and its value is
not formed yet (rules R49, R220, R358). -/
def Claim.landing (l : Claim) : Option Landing :=
  let at_ := fun (lat : Nat) (e : Effect) =>
    some ({ due := l.issued + lat, issued := l.issued, slot := l.slot, cba := l.cba, op := l.op, eff := e, nan := none } : Landing)
  match l.act with
  | .load a _ _ d => at_ (Core.loadLat (unitOf a)) (.sreg d 0)
  | .vload a d => at_ (Core.loadLat (unitOf a)) (.vreg d 0)
  | .bcast a d => at_ (Core.loadLat (unitOf a)) (.vreg d 0)
  | .gather _ as d => at_ (if (as.filterMap id).any (fun a => 8 ≤ unitOf a) then 5 else 4) (.vreg d 0)
  | .step acc .. => at_ 12 (.step acc 0 0 0 0 0 0)
  | .ldb .. => at_ 2 (.latch 0 0)
  | .scl _ q => at_ 6 (.scale q 0)
  | _ => none

/-- A landing is a result: the mark of a drain is none. -/
def isResult (l : Landing) : Bool := match l.eff with | .mark => false | _ => true

/-- The results and back-edges of a record (rule R357), and those of claims still due. -/
def landsOf (sh : Shadow) (r : Nat) : List Landing × List Landing :=
  let mine := fun (l : Landing) => remOf sh.base l.due == r && isResult l
  (sh.lands.filter mine, (sh.claims.filterMap Claim.landing).filter mine)

/-- The accumulator set that a step leaves when it lands: what lands before it in the frozen context comes first (rules R221, R294,
R358). -/
def formedSet (c : Core) (sh : Shadow) (l : Landing) (acc : BitVec 3) : Vec :=
  let first := (List.range 13).flatMap (fun r => Core.landingOrder (sh.lands.filter (fun x =>
    remOf sh.base x.due == r && x != l && (decide (x.due < l.due) || (x.due == l.due && Core.landsBefore x l)))))
  (((first.foldl (fun c x => c.applyEffect x.eff) c).applyEffect l.eff).reg).getA acc

/-- The payload of a landing: the value that will land; LOOP.EC and ROT.CLR land in ROTB as the frozen context holds it. -/
def flightPayload (c : Core) (sh : Shadow) (l : Landing) : List Word :=
  match l.eff with
  | .loopEc e => [({ sh.rotb with ec := e } : Rotb).word]
  | .rotClr => [({ sh.rotb with srb := 0, vrb := 0, prb := 0 } : Rotb).word]
  | .step acc .. => (List.range 32).map (word64 (formedSet c sh l acc))
  | e => e.payload

/-- Word `i` of landing record REM `r`, and of its payload. -/
def landRecord (sh : Shadow) (r i : Nat) : Word :=
  let ls := (landsOf sh r).1 ++ (landsOf sh r).2
  let plain := ls.filter (fun l => (backEdgeOf l.eff).isNone)
  match i with
  | 0 => if ls.isEmpty then 0 else
      atBit 1 63 ||| atBit r 56 ||| atBit (plain.foldl (fun m l => m ||| 2 ^ l.slot) 0) 0
  | 9 => match ls.findSome? (fun l => backEdgeOf l.eff) with | some (m, _) => atBit 1 63 ||| atBit m 0 | none => 0
  | _ => match plain.find? (fun l => l.slot + 1 == i) with | some l => landEntry sh.base l | none => 0
def landPayload (c : Core) (sh : Shadow) (r o : Nat) : Word :=
  let ls := (landsOf sh r).1
  if o < 0x800 then
    match ls.find? (fun l => l.slot == o / 0x100 && (backEdgeOf l.eff).isNone) with
    | some l => (flightPayload c sh l).getD (o % 0x100 / 8) 0
    | none => 0
  else match ls.findSome? (fun l => backEdgeOf l.eff) with
    | some (_, ws) => ws.getD ((o - 0x800) / 8) 0
    | none => 0

/-- Word `i` of claim record REM `r`, and of its payload. -/
def claimRecord (sh : Shadow) (r i : Nat) : Word :=
  let ls := sh.claims.filter (fun l => remOf sh.base l.due == r)
  match i with
  | 0 => if ls.isEmpty then 0 else
      atBit 1 63 ||| atBit r 56 ||| atBit (ls.foldl (fun m l => m ||| 2 ^ l.slot) 0) 0
  | _ => match ls.find? (fun l => l.slot + 1 == i) with | some l => claimEntry sh.base l | none => 0
def claimPayload (sh : Shadow) (r o : Nat) : Word :=
  let ls := sh.claims.filter (fun l => remOf sh.base l.due == r)
  if o < 0x800 then
    match ls.find? (fun l => l.slot == o / 0x100) with
    | some l => (wordsFrom l.act.bytes).getD (o % 0x100 / 8) 0
    | none => 0
  else if o < 0xC00 then 0
  else match ls.findSome? (fun l => match l.act with
      | .step _ fa fb qa qb _ _ rows => some ([fa.setWidth 64 ||| (fb.setWidth 64 <<< 32)]
          ++ (List.range 8).map (word64 qa) ++ (List.range 8).map (word64 qb) ++ (List.range 96).map (word64 rows))
      | _ => none) with
    | some ws => ws.getD ((o - 0xC00) / 8) 0
    | none => 0

/-- The flight records of a core: those of the context that a trap froze, else what the core has in flight now, as a stop leaves it
(rules R357, R359, R364). -/
def Core.flights (c : Core) : Shadow :=
  match c.trap.shadow with
  | some sh => sh
  | none => c.shadowOf { pc := c.ctl.pc, idle := c.ctl.idle, base := c.ctl.cc, parity := 0, loom := 0, taken := 0 }

/-- A word of the window's trap area (rule R359). -/
def Core.trapWord (c : Core) (o : Nat) : Word :=
  let t := c.trap
  let sh := c.flights
  if o < 0x285040 then
    [t.tcause, t.tepc, t.tloom, t.tinfo, t.tnan0, t.tnan1, t.tvec, t.tctl].getD ((o - 0x285000) / 8) 0
  else if o < 0x285070 then
    [t.bkpt[0], t.bkpt[1], t.wptb[0], t.wptm[0], t.wptb[1], t.wptm[1]].getD ((o - 0x285040) / 8) 0
  else if 0x285100 ≤ o && o < 0x2852B0 then
    match t.shadow with | some x => x.page.getD ((o - 0x285100) / 8) 0 | none => 0
  else if 0x285300 ≤ o && o < 0x285900 then landRecord sh ((o - 0x285300) / 0x80) ((o - 0x285300) % 0x80 / 8)
  else if 0x285900 ≤ o && o < 0x285F00 then claimRecord sh ((o - 0x285900) / 0x80) ((o - 0x285900) % 0x80 / 8)
  else if 0x288000 ≤ o && o < 0x294000 then landPayload c sh ((o - 0x288000) / 0x1000) (o % 0x1000)
  else if 0x294000 ≤ o && o < 0x2A0000 then claimPayload sh ((o - 0x294000) / 0x1000) (o % 0x1000)
  else 0

/-- A breakpoint or watchpoint register written through the window (rule R367), by its offset in the trap area. -/
def Core.putDebugWord (c : Core) (o : Nat) (w : Word) : Core :=
  match o with
  | 0x285040 => c.sysWrite 0x10C w
  | 0x285048 => c.sysWrite 0x10D w
  | 0x285050 => c.sysWrite 0x118 w
  | 0x285058 => c.sysWrite 0x119 w
  | 0x285060 => c.sysWrite 0x11A w
  | 0x285068 => c.sysWrite 0x11B w
  | _ => c

end Sys2Proof.Machine
end

