-- ==== Sys2Proof/Machine/Images.lean ====
section
/-! DEFINITION. Images: their sections, the load checks and signatures, and the registers that load and unload them (rules R2,
R156 to R158, R160, R166, R327, R328, R393); and the reload of a poisoned line (rule R370). -/

namespace Sys2Proof.Machine

/-- One directory entry (rule R156). -/
structure Section_ where
  kind : Nat
  load : Nat
  off : Nat
  size : Nat
  va : Nat
  /-- The reserved bits of the entry are 0. -/
  clean : Bool
  deriving DecidableEq, Repr

namespace State

/-- A word of an image. -/
def imgWord (s : State) (base off : Nat) : Word := s.readWord (base + off)

/-- The directory of an image. -/
def sections (s : State) (base : Nat) : List Section_ :=
  (List.range (bits (s.imgWord base 8) 15 0)).map (fun i =>
    let w := fun (k : Nat) => s.imgWord base (16 + 32 * i + 8 * k)
    { kind := bits (w 0) 63 56, load := bits (w 0) 17 0, off := (w 1).toNat, size := (w 2).toNat, va := (w 3).toNat
      clean := bits (w 0) 55 18 == 0 })

/-- A section's entry breaks its rule (rule R156); `size` is the image's. -/
def badSection (size : Nat) (x : Section_) : Bool :=
  !x.clean || x.kind == 0 || decide (8 < x.kind) || (x.kind != 1 && x.load != 0)
    || ((x.kind == 1 || x.kind == 4) && x.va != 0) || decide (size < x.off + x.size)
    || (x.kind == 1 && decide (2 ^ 18 < x.load + x.size))
    || (x.kind == 3 && (x.size % 256 != 0 || decide (16777216 < x.size) || x.va % 2 ^ 17 != 0))

/-- How many sections of a kind an image has. -/
def countKind (xs : List Section_) (k : Nat) : Nat := (xs.filter (fun x => x.kind == k)).length

/-- The signature section is laid out as rule R157 says: the last of the image, with zero padding. -/
def sigOk (s : State) (base size : Nat) (xs : List Section_) : Bool :=
  match xs.find? (fun x => x.kind == 8) with
  | none => false
  | some x => x.size == 5376 && x.off + x.size == size &&
      (s.mem.readN (base + x.off + 0x14ED) 19).all (· == 0)

/-- An image at `base` of `size` bytes passes the format checks (rules R156, R157). -/
def imageSound (s : State) (base size : Nat) : Bool :=
  let w1 := s.imgWord base 8
  let n := bits w1 15 0
  let xs := s.sections base
  decide (16 ≤ size) && s.imgWord base 0 == 0x574F56454E330001 && decide (1 ≤ bits w1 47 44) && decide (bits w1 47 44 ≤ 8)
    && decide (1 ≤ bits w1 43 42) && decide (bits w1 43 42 ≤ 2) && bits w1 41 16 == 0
    && decide (1 ≤ n) && decide (n ≤ 4096) && decide (16 + 32 * n ≤ size)
    && xs.all (fun x => !badSection size x)
    && decide (1 ≤ countKind xs 1) && decide (countKind xs 3 ≤ 1) && countKind xs 4 == 1 && countKind xs 5 == 1
    && decide (countKind xs 6 ≤ 1) && countKind xs 7 == 1 && countKind xs 8 == 1
    && s.sigOk base size xs

/-- Both signatures of an image verify under a pair of public keys (rules R2, R157). -/
def signedBy (s : State) (base : Nat) (ed ml : List Byte) : Bool :=
  match (s.sections base).find? (fun x => x.kind == 8) with
  | none => false
  | some x =>
    let msg := s.mem.readN base x.off
    Config.ed25519 ed (s.mem.readN (base + x.off + 0x7C0) 64) msg &&
      Config.mldsa65 ml (s.mem.readN (base + x.off + 0x800) 3309) msg

/-- The public keys that stand in an image's signature section. -/
def imageKeys (s : State) (base : Nat) : List Byte × List Byte :=
  match (s.sections base).find? (fun x => x.kind == 8) with
  | none => ([], [])
  | some x => (s.mem.readN (base + x.off) 32, s.mem.readN (base + x.off + 0x20) 1952)

end State

/-- The public halves of the module identity key (rule R396). -/
def identityEd : List Byte := (List.range 32).map Config.identityKey
def identityMl : List Byte := (List.range 1952).map (fun i => Config.identityKey (0x20 + i))

namespace State

/-- A range of off-wafer bytes lies wholly in backed class 0x0 (rule R327): page by page. -/
def backedRange (s : State) (a n : Nat) : Bool :=
  dpaClass a == 0 && (List.range ((a % 2 ^ 17 + n + 2 ^ 17 - 1) / 2 ^ 17)).all (fun i =>
    let p := a / 2 ^ 17 * 2 ^ 17 + i * 2 ^ 17
    s.backed p (min (2 ^ 17) (a + n - p)))

/-- The error of a load (rule R327), in the model's order: UNBACKED, FORMAT, SIGNATURE, NO_HANDLE; 0 is none. -/
def loadError (s : State) (base size : Nat) : Nat :=
  let keys := s.imageKeys base
  if !s.backedRange base size then 7
  else if !s.imageSound base size then 2
  else if keys != (identityEd, identityMl) || !s.signedBy base keys.1 keys.2 then 3
  else if (List.range 255).all (fun i => s.sched.images.any (fun x => x.handle == i + 1)) then 4
  else 0

/-- The contexts that hold an image (rule R328): bound, saved, or with a final record still to be written, each once. -/
def holders (s : State) (h : Nat) : Nat :=
  (s.parts.toList.filterMap (fun p => p.ctx.bind (fun x => if x.image.handle = h then some x.tag else none))
    ++ (s.sched.saved.filter (fun v => v.image.handle == h)).map (·.tag)
    ++ s.sched.queues.toList.flatMap (fun q => (q.pending.filter (fun r => r.image == h)).map (·.tag))).eraseDups.length

def imgError (s : State) (err nbusy : Nat) : State :=
  { s with sched := { s.sched with imgst := setBits (setBits s.sched.imgst 31 24 err) 23 16 (min 0xFF nbusy) } }

/-- A context is to be lost with reason IMAGE_GONE (rules R328, R375). -/
def loseImage (s : State) (h : Nat) : State :=
  (List.range 16).foldl (fun s p =>
    match (s.part p).ctx with
    | some x => if x.image.handle == h then s.addLoss p 0x10 0xFFFF 0 0 else s
    | none => s) s

/-- The counter that a launch signals (rule R332). -/
def signalled (l : Launch) : Option Nat :=
  let w := l.words.getD 2 0
  if w.getLsbD 23 then some (bits w 31 24) else none

/-- A completion record joins those that wait for a slot of its queue (rules R331, R334). -/
def complete (s : State) (q code cause slot lid sseq step : Nat) (loom detail : Word) (tag image : Nat)
    (counter : Option Nat) : State :=
  let x := s.sched.queues.getD q .reset
  let ws := [atBit code 56 ||| atBit cause 48 ||| atBit slot 32 ||| atBit lid 0, atBit sseq 32 ||| atBit step 0, loom, detail]
  let x' := { x with pending := x.pending ++ [{ words := ws, tag := tag, image := image, counter := counter }] }
  { s with sched := { s.sched with queues := s.sched.queues.setIfInBounds q x' } }

/-- A completion record of a launch; DONE brings the count in END (rule R335). -/
def completeLaunch (s : State) (l : Launch) (code cause step : Nat) (detail : Word) (tag image : Nat) : State :=
  s.complete l.queue code cause l.slot (bits (l.words.getD 0 0) 31 0) l.sseq step (s.loomOf 0) detail tag image
    (if code = 0 then signalled l else none)

/-- FROZEN of a queue is set by a context loss (rule R330). -/
def freezeQueue (s : State) (q : Nat) : State :=
  let x := s.sched.queues.getD q .reset
  { s with sched := { s.sched with queues := s.sched.queues.setIfInBounds q { x with qcfg := x.qcfg ||| 4 } } }

/-- A dependence counter takes FAIL (rule R335). -/
def failCounter (s : State) (l : Launch) : State :=
  let w := l.words.getD 2 0
  if !w.getLsbD 23 then s
  else
    let c := bits w 31 24
    { s with sched := { s.sched with dtrg := s.sched.dtrg.setIfInBounds c (s.sched.dtrg.getD c 0 ||| (1 <<< 63)) } }

/-- Blocks of classes 0x0 and 0x1 are retired, with an entry each (rules R374, R378). -/
def retire (s : State) (bs : List Nat) : State :=
  bs.foldl (fun s b =>
    if 1 < dpaClass (b * 2 ^ 17) || s.retired.contains b then s
    else ({ s with retired := b :: s.retired }).logEntry (s.loomOf 0) (atBit 5 60 ||| atBit (b * 2 ^ 17) 0)) s

/-- Saved contexts that hold an image are lost (rule R328): the blocks that they have spoiled are retired (rule R374), their records
follow, and their space is free. One whose save has not
ended or whose restore has begun is resident, and its loss comes from there (rule R346). -/
def dropSaved (s : State) (h : Nat) : State :=
  let gone := s.sched.saved.filter (fun v => v.image.handle == h && v.ready)
  let rest := s.sched.saved.filter (fun v => !(v.image.handle == h && v.ready))
  let s1 := { s with sched := { s.sched with saved := rest } }
  gone.foldl (fun s v =>
    ((((s.retire v.badBlocks).freezeQueue v.queue).failCounter v.launch).completeLaunch v.launch 0x09 0 v.step 0 v.tag 0).dropTag
      v.tag) s1

/-- A freed handle names no image any more: what holds the unloaded image holds none of a later load's (rule R328). -/
def forgetHandle (s : State) (h : Nat) : State :=
  let img := fun (x : Image) => if x.handle = h then { x with handle := 0 } else x
  { s with
    parts := s.parts.map (fun (q : Part) => { q with ctx := q.ctx.map (fun x => { x with image := img x.image }) })
    sched := { s.sched with
      saved := s.sched.saved.map (fun v => { v with image := img v.image })
      queues := s.sched.queues.map (fun (x : Queue) => { x with pending := x.pending.map (fun r =>
        { r with image := if r.image = h then 0 else r.image }) }) } }

/-- A write of IMGCMD (rules R327, R328). -/
def imgWrite (s : State) (w : Word) : State :=
  let q := s.sched
  let v := fieldWrite q.imgcmd w 0xFFF0 0
  let put := fun (s : State) (v : Word) => { s with sched := { s.sched with imgcmd := v } }
  if !w.getLsbD 0 || q.imgcmd.getLsbD 0 then put s v
  else
    let h := bits v 15 8
    let known := q.images.any (fun x => x.handle == h)
    let free := fun (s : State) =>
      let rest := s.sched.images.filter (fun x => x.handle != h)
      { s with sched := { s.sched with images := rest } }
    match bits v 7 4 with
    | 1 => put ({ s.drawn with sched := { q with imgEnd := some (s.cycle + 1 + s.free (2 ^ 32)) } }) (v ||| 1)
    | 2 =>
      if !known then (put s v).imgError 6 0
      else if 0 < s.holders h then (put s v).imgError 5 (s.holders h)
      else (free (put s v)).imgError 0 0
    | 3 =>
      if !known then (put s v).imgError 6 0
      else
        let n := s.holders h
        (free ((((put s v).loseImage h).dropSaved h).forgetHandle h)).imgError 0 n
    | _ => (put s v).imgError 1 0

/-- The end of a load's checks (rule R327): the lowest free handle, or an error. -/
def imgLoadEnd (s : State) : State :=
  if s.sched.imgEnd.all (fun t => decide (s.cycle < t)) then s
  else
    let q := s.sched
    let base := bits q.imgarg 55 6 * 64
    let size := bits q.imgsize 39 0
    let err := s.loadError base size
    let s1 := { s.readHomes [(base, size)] with sched := { q with imgEnd := none, imgcmd := q.imgcmd &&& ~~~1 } }
    if err != 0 then s1.imgError err 0
    else
      let h := ((List.range 255).map (· + 1)).find? (fun h => !q.images.any (fun x => x.handle == h)) |>.getD 0
      let w1 := s.imgWord base 8
      let img : Image := { handle := h, dpa := base, size := size, rev := bits w1 63 48, pwid := bits w1 47 44, pht := bits w1 43 42 }
      let s2 := s1.imgError 0 0
      { s2 with sched := { s2.sched with
        images := s2.sched.images ++ [img], imgst := setBits s2.sched.imgst 47 40 h } }

/-! ### Sections by kind -/

/-- The only section of a kind. -/
def sectionOf (s : State) (img : Image) (k : Nat) : Option Section_ := (s.sections img.dpa).find? (fun x => x.kind == k)
/-- The byte offset of a section in its image. -/
def offsetOf (s : State) (img : Image) (k : Nat) : Nat := ((s.sectionOf img k).map (·.off)).getD 0

/-- The start-vector entry of a relative index: its two words (rule R158). -/
def startEntry (s : State) (img : Image) (n : Nat) : Word × Word :=
  let o := s.offsetOf img 7 + 32 + 16 * n
  (s.imgWord img.dpa o, s.imgWord img.dpa (o + 8))

/-- The cells of a range of off-wafer memory, moved to `at_`. -/
def cellsFrom (s : State) (base n at_ : Nat) : List Host.Cell :=
  (s.mem.cells.filter (fun c => decide (base ≤ c.1) && decide (c.1 < base + n))).map (fun c => (c.1 - base + at_, c.2))

/-- The nonzero words of a range of off-wafer memory, by index, of `u` bytes each. -/
def wordsIn (s : State) (base n u : Nat) : Table :=
  let ks := ((s.mem.cells.filter (fun c => decide (base ≤ c.1) && decide (c.1 < base + n))).map (fun c => (c.1 - base) / u)).eraseDups
  ks.map (fun k => (k, BitVec.ofNat 64 (s.mem.readNat (base + u * k) u)))

/-- The code section of a core's start-vector entry (rule R158). -/
def codeSection (s : State) (img : Image) (n : Nat) : Option Section_ :=
  match (s.sections img.dpa)[bits (s.startEntry img n).2 43 32]? with
  | some x => if x.kind = 1 then some x else none
  | none => none

/-- Words of IMEM that take poison with the bytes of a range. -/
def poisonWords (s : State) (base n at_ : Nat) : List Nat :=
  ((List.range ((n + 15) / 16)).filter (fun i => s.poisoned (base + 16 * i))).map (fun i => at_ / 16 + i)

/-- The HTAB and HDIR of a tile of the heddle set (rules R75, R393; log entry 22): after the pad list, one tile after the
other in ascending relative tile index, each as its window presents it. -/
def padCount (s : State) (img : Image) : Nat := bits (s.imgWord img.dpa (s.offsetOf img 4)) 6 0
def padList (s : State) (img : Image) : List Nat :=
  (List.range (s.padCount img)).map (fun i => bits (s.imgWord img.dpa (s.offsetOf img 4 + 8 + 8 * i)) 17 0)
def heddleBase (s : State) (img : Image) : Nat := img.dpa + s.offsetOf img 4 + 8 + 8 * s.padCount img
def heddleOf (s : State) (img : Image) (t : Nat) : Table × Table :=
  let b := s.heddleBase img + 0x8400 * t
  (s.wordsIn b 0x8000 8, (s.wordsIn (b + 0x8000) 0x400 4).map (fun e => (e.1, e.2 &&& 0x1FFFFFF)))

/-! ### The reload of a line (rule R370) -/

/-- A line takes its bytes from the code object again; a source that is itself uncorrectable leaves it lost, is logged, and its block
is marked (rules R374, R378). -/
def lineReload (s : State) (k line : Nat) : State :=
  match (s.coreOf k).mem.reload.find? (fun r => r.1 == line && decide (r.2 ≤ s.cycle)), s.ctxOf k with
  | some e, some (p, x) =>
    let src := s.codeSection x.image (relIndex p (pdefWid (s.part p).pdef) k)
    let from_ := fun (i : Nat) => match src with | some y => x.image.dpa + y.off + (64 * line + i - y.load) | none => 0
    let inside := fun (i : Nat) => match src with
      | some y => decide (y.load ≤ 64 * line + i) && decide (64 * line + i < y.load + y.size)
      | none => false
    let lost := (((List.range 64).filter (fun i => inside i && s.poisoned (from_ i))).map (fun i => from_ i / 64)).eraseDups
    let bad := !lost.isEmpty
    let s := lost.foldl (fun s g => s.logEntry (s.loomOf (reticleOf k)) (atBit 4 60 ||| atBit (64 * g) 0)) s
    let s := if lost.isEmpty then s else s.onCtx p (fun y => { y with
      badBlocks := (y.badBlocks ++ lost.map (fun g => 64 * g / 2 ^ 17)).eraseDups })
    let bs := (List.range 64).map (fun i => if inside i then s.mem.read (from_ i) else 0)
    let words := (List.range 4).map (4 * line + ·)
    s.onCore k (fun c => { (if bad then c else c.dropFixes true words) with mem := { c.mem with
      reload := c.mem.reload.erase e
      imem := if bad then c.mem.imem else c.mem.imem.write (64 * line) bs
      imemBad := if bad then c.mem.imemBad else c.mem.imemBad.filter (fun w => !words.contains w)
      imemSoft := if bad then c.mem.imemSoft else c.mem.imemSoft.filter (fun w => !words.contains w)
      codeLines := if bad then (line :: c.mem.codeLines).eraseDups else c.mem.codeLines } })
  | _, _ => s

end State

/-! ### The events -/

/-- A poisoned line is reloaded (rule R370): the core, and the line in `n`. -/
def execImemLineReload (s : State) : Out := .next (s.lineReload s.arg.core s.arg.n)
/-- IMGCMD GO with OP 1 (rule R327). -/
def execImageLoad (s : State) : Out := .next (s.imgWrite (setBits (s.arg.value ||| 1) 7 4 1))
/-- A load's checks end (rule R327). -/
def execImageLoadEnd (s : State) : Out := .next s.imgLoadEnd
/-- IMGCMD GO with OP 2 (rule R328). -/
def execImageUnload (s : State) : Out := .next (s.imgWrite (setBits (s.arg.value ||| 1) 7 4 2))
/-- IMGCMD GO with OP 3 (rule R328). -/
def execImageForcedUnload (s : State) : Out := .next (s.imgWrite (setBits (s.arg.value ||| 1) 7 4 3))

end Sys2Proof.Machine
end

