-- ==== Sys2Proof/Machine/Supersteps.lean ====
section
/-! DEFINITION. A launch on its partition: starts, barriers, exchange phases, stragglers, losses, stops, triggers and the end
(rules R153, R155, R164 to R171, R334 to R336, R364, R365, R372 to R376, R418). -/

namespace Sys2Proof.Machine

namespace State

/-- The least fabric cycle from `t` on which the loom count of a partition is even, as its first reticle counts. -/
def evenFrom (s : State) (p t : Nat) : Nat := if ((s.partLoom p).toNat + (t - s.cycle)) % 2 = 0 then t else t + 1

/-- The shape and the number of cores of a partition. -/
def widOf (s : State) (p : Nat) : Nat := pdefWid (s.part p).pdef
def htOf (s : State) (p : Nat) : Nat := pdefHt (s.part p).pdef
def coreCount (s : State) (p : Nat) : Nat := shapeCores (s.widOf p) (s.htOf p)
/-- The relative index of a core of a partition. -/
def rel (s : State) (p k : Nat) : Nat := relIndex p (s.widOf p) k

/-- A core has arrived at the open barrier (rules R167, R168). -/
def coreArrived (c : Core) : Bool := c.ctl.mode == .barrier || c.ctl.mode == .halted
/-- The cores of a partition that have arrived (rule R170, field ARRIVED). -/
def arrivedCount (s : State) (p : Nat) : Nat := ((s.coresIn p).filter coreArrived).length
def allArrived (s : State) (p : Nat) : Bool := (s.coresIn p).all coreArrived
def allHalted (s : State) (p : Nat) : Bool := (s.coresIn p).all (fun c => c.ctl.mode == .halted)
/-- The lowest relative index that has not arrived (rules R171, R334). -/
def firstMissing (s : State) (p : Nat) : Nat :=
  (((s.coresIn p).filter (fun c => !coreArrived c)).map (fun c => s.rel p c.idx)).foldl min 0xFFFF

/-- The flat index of the core at a relative index of a partition. -/
def coreByRel (s : State) (p n : Nat) : Nat :=
  match (s.coresIn p).find? (fun c => s.rel p c.idx == n) with
  | some c => c.idx
  | none => 0xFFFF

/-- No card or link instruction of a partition's cores is in flight. -/
def cardsEnded (s : State) (p : Nat) : Bool :=
  let rs := s.partRegions p
  s.cards.all (fun c => !rs.contains (regionOf c.core))
def linksEnded (s : State) (p : Nat) (sends : Bool) : Bool :=
  let rs := s.partRegions p
  s.links.all (fun l => !(rs.contains (regionOf l.core) && (sends || match l.op with | .send => false | _ => true)))

/-- Every write of a partition's cards is performed at partition scope (rules R139, R148). -/
def writesHome (s : State) (p : Nat) : Bool :=
  let rs := s.partRegions p
  s.late.all (fun w => w.link.isNone || !rs.contains (regionOf w.core))
/-- The cards and link instructions of a partition have ended, and their writes are performed at partition scope (rules R148, R343). -/
def drained (s : State) (p : Nat) : Bool := s.cardsEnded p && s.linksEnded p true && s.writesHome p

/-- The reticles of a partition. -/
def partReticles (s : State) (p : Nat) : List Nat := (s.partRegions p).flatMap regionReticles

/-- The phase-table entry of a superstep (rule R166). -/
def phaseOf (x : Context) : PhaseEntry := x.phases.getD (x.step % x.phases.length) { xlen := 0, pcode := 0, budget := 0 }

/-- The reticles of a partition have no repair pending or under way (rule R84). -/
def loomQuiet (s : State) (p : Nat) : Bool :=
  (s.partReticles p).all (fun r => (s.ret r).repair.isNone && (s.ret r).stall == 0)

/-- PBAR's stored fields. -/
def onPart (s : State) (p : Nat) (f : Part → Part) : State := s.putPart p (f (s.part p))

/-! ### Fences and the end of a binding (rules R29, R39, R79) -/

/-- The reticle beside an edge: 0 N, 1 E, 2 S, 3 W. -/
def neighbour (r e : Nat) : Option Nat :=
  match e with
  | 0 => if r < 8 then none else some (r - 8)
  | 1 => if r % 8 = 7 then none else some (r + 1)
  | 2 => if 40 ≤ r then none else some (r + 8)
  | _ => if r % 8 = 0 then none else some (r - 1)

/-- The cycles that a message takes from a reticle over a selvedge: as many as the other way, so that the delay that rule R381 computes from
round trips leaves every δ of the tree 0 from the start (rule R384). -/
def crossing (r e : Nat) : Nat :=
  match e with
  | 0 => Config.selvedgeDelay (r - 8) 2
  | 3 => Config.selvedgeDelay (r - 1) 1
  | _ => Config.selvedgeDelay r e

/-- XFENCE of a reticle whose partition consists of given reticles: the wafer edge, the partition's boundary and cut
selvedges are fenced (rules R79, R381). -/
def fenceOf (s : State) (inside : List Nat) (r : Nat) : BitVec 4 :=
  BitVec.ofNat 4 ((List.range 4).foldl (fun m e =>
    let open_ := match neighbour r e with
      | some n => inside.contains r && inside.contains n && (s.ret r).bootst.getLsbD (48 + e)
      | none => false
    if open_ then m else m + 2 ^ e) 0)

def setFences (s : State) (inside rs : List Nat) : State :=
  rs.foldl (fun s r => s.putRet r { s.ret r with xfence := s.fenceOf inside r }) s

/-- A core without a context: nothing is in flight, and its tag is 0 (rules R29, R39). Where the launch is over, its array's cycles are
counted on until the final completion record is written (rule R414). -/
def freeCore (tag : Nat) (ended : Bool) (c : Core) : Core :=
  let c1 := invalidateTlb (fun e => e.tag == tag) { c with aux := { c.aux with tlb := unpinned false c.aux.tlb } }
  { c1 with
    ctl := { Ctl.reset with pc := c1.ctl.pc, cc := c1.ctl.cc }
    trap := { c1.trap with pend := [], nanPend := none, shadow := none, exempt := none, returning := false }
    sys := { c1.sys with tctx := 0 }
    aux := { c1.aux with counting := ended && c1.aux.counting, owed := if ended && c1.aux.counting then some tag else none } }

/-- The partition becomes unbound: a pending request lapses, and its regions' voltage offsets return to 0 (rules R39, R79, R261,
R341, R365): its launch is over, or its context has been saved. -/
def unbind (s : State) (p : Nat) (ended : Bool) : State :=
  match (s.part p).ctx with
  | none => s
  | some x =>
    let s1 := s.mapPart p (freeCore x.tag ended)
    let s2 := s1.setFences [] (s1.partReticles p)
    let s2 := (s2.partRegions p).foldl (fun s r => s.putRegion r { s.region r with voff := 0 }) s2
    s2.onPart p (fun q => { q with ctx := none, tstop := 0, dstop := 0, preq := q.preq &&& ~~~3 })

/-! ### Dependence counters (rules R335, R336) -/

/-- Wait `k` of a launch is in use. -/
def waitUsed (ws : List Word) (k : Nat) : Bool := (ws.getD (3 + k) 0).getLsbD 63
def waitCounter (ws : List Word) (k : Nat) : Nat := bits (ws.getD (3 + k) 0) 47 40
def waitOpen (s : State) (ws : List Word) (k : Nat) : Bool :=
  decide (bits (ws.getD (3 + k) 0) 31 0 ≤ bits (s.sched.dtrg.getD (waitCounter ws k) 0) 31 0)
def waitClosed (s : State) (ws : List Word) (k : Nat) : Bool :=
  decide (bits (ws.getD (3 + k) 0) 31 0 ≤ bits (s.sched.dend.getD (waitCounter ws k) 0) 31 0)
def waitFailed (s : State) (ws : List Word) (k : Nat) : Bool :=
  (s.sched.dtrg.getD (waitCounter ws k) 0).getLsbD 63 && !s.waitClosed ws k

def allOpen (s : State) (ws : List Word) : Bool := (List.range 2).all (fun k => !waitUsed ws k || s.waitOpen ws k)
def allClosed (s : State) (ws : List Word) : Bool := (List.range 2).all (fun k => !waitUsed ws k || s.waitClosed ws k)
def anyFailed (s : State) (ws : List Word) : Bool := (List.range 2).any (fun k => waitUsed ws k && s.waitFailed ws k)

/-- A counter's value plus 1, modulo 2^32. -/
def bump (w : Word) : Word := setBits w 31 0 ((bits w 31 0 + 1) % 2 ^ 32)

/-- The used waits of a launch whose counters have counted launches of a partition: that partition is one of its producers' (rule
R155; log entry 92). -/
def producedOn (s : State) (p : Nat) (ws : List Word) : List Nat :=
  (List.range 2).filter (fun k => waitUsed ws k && (s.sched.dsrc.getD (waitCounter ws k) []).contains p)

/-! ### Launch start (rules R164, R404) -/

/-- The sequencer chooses S0, a free even cycle, and with it every S_r (rules R164, R404). -/
def chooseStart (s : State) (p : Nat) : State :=
  let s0 := s.evenFrom p (s.cycle + 1 + s.free (2 ^ 16))
  let stag := bits s.module.mstag 3 0
  let rs := (s.partRegions p).mergeSort (fun a b => decide (a ≤ b))
  let starts := (List.range rs.length).zip rs |>.map (fun x => (x.2, s0 + 320 * stag * x.1))
  let last := (starts.map (·.2)).foldl max s0
  s.drawn.onCtx p (fun x => { x with
    stage := .starting, starts := starts, lastStart := last, start := last, began := some s0 })

/-- A region starts (rule R164): its RUN cores issue their entry bundles on this cycle, and its arrays are counted from it (rule
R414). -/
def regionStart (s : State) (p r : Nat) : State :=
  match (s.part p).ctx with
  | none => s
  | some x =>
    if !x.starts.any (fun e => e.1 == r && decide (e.2 ≤ s.cycle)) then s
    else
      let s1 := s.mapCores (fun c =>
        if regionOf c.idx != r then c
        else { c with
          ctl := if c.ctl.mode = .bound then { c.ctl with mode := .running, wake := s.cycle } else c.ctl
          aux := { c.aux with counting := true } })
      let rest := x.starts.filter (fun e => e.1 != r)
      let s2 := s1.onCtx p (fun y => { y with starts := rest, stage := if rest.isEmpty then .running else .starting })
      if rest.isEmpty then s2.onPart p (fun q => { q with pstart := s2.partLoom p }) else s2

/-! ### Losses (rules R371 to R376) -/

/-- The error that is reported: the earliest, then the lowest core, then the lowest cause (rule R376). -/
def firstLoss (ls : List Loss) : Option Loss :=
  ls.foldl (fun b l =>
    match b with
    | none => some l
    | some a =>
      if l.loom < a.loom || (l.loom == a.loom && (l.core < a.core || (l.core == a.core && l.cause < a.cause))) then some l
      else some a) none

/-- DETAIL of a CONTEXT_LOST record (rule R375). -/
def Loss.detail (l : Loss) : Word := atBit l.core 48 ||| atBit l.cba 30 ||| atBit (l.val % 2 ^ 30) 0

/-- Every core with CARDERR.V makes a loss pending (rule R372). -/
def cardErrors (s : State) (p : Nat) : State :=
  (s.coresIn p).foldl (fun s c =>
    let w := c.sys.carderr
    if w.getLsbD 63 then
      s.addLoss p 3 c.idx 0 (bits w 62 60 * 2 ^ 23 + bits w 59 56 * 2 ^ 19 + bits w 55 53 * 2 ^ 16 + bits w 47 32)
    else s) s

/-- The blocks that a lost context's cards have spoiled (rule R374). -/
def spoiled (s : State) (p : Nat) (x : Context) : List Nat :=
  let rs := s.partRegions p
  (x.badBlocks ++ (s.cards.filter (fun c => rs.contains (regionOf c.core))).flatMap (·.poisonedBlocks)).eraseDups

/-- A loss takes effect: no core issues again, and unpaired posts go (rule R374, steps 1 and 2). Accounting counts close (rule
R416). -/
def lossBegins (s : State) (p : Nat) (x : Context) : State :=
  let rs := s.partRegions p
  let s1 := s.mapPart p (fun c =>
    let c1 := c.acctStop
    { c1 with
      ctl := { Ctl.reset with pc := c1.ctl.pc, cc := c1.ctl.cc }
      trap := { c1.trap with pend := [], nanPend := none, shadow := none, exempt := none, returning := false }
      aux := { c1.aux with acctOff := true, tlb := unpinned false c1.aux.tlb } })
  let kept := s1.links.filter (fun l => !(rs.contains (regionOf l.core) && l.paired.isNone && l.err == 0))
  ({ s1 with links := kept }).onCtx p (fun y => { y with stage := .lost, xphase := none, x0 := none, badBlocks := s.spoiled p x })

/-- The saved image of the context in a save that a loss has overtaken is dropped (rule R346). -/
def dropImage (s : State) (tag : Nat) : State :=
  let rest := s.sched.saved.filter (fun v => v.tag != tag)
  { s with sched := { s.sched with saved := rest } }

/-- The loss is over: blocks are retired, the queue is frozen, the context is evicted and its final record is due (rule R374,
steps 3 to 5). -/
def lossEnds (s : State) (p : Nat) (x : Context) : State :=
  match firstLoss x.losses with
  | none => s
  | some l =>
    let s1 := s.retire (s.spoiled p x)
    let s2 := (s1.freezeQueue x.launch.queue).failCounter x.launch
    let gone := l.cause == 0x10
    let s3 := s2.completeLaunch x.launch (if gone then 9 else 8) (if gone then 0 else l.cause) l.step (if gone then 0 else Loss.detail l)
      x.tag x.image.handle
    ((s3.dropImage x.tag).unbind p true).onPart p (fun q => { q with psig := 0 })

/-- A pending loss takes effect at once: every core is halted, it was pending when the straggler event fired, the partition is
stopped, or the cause acts at once. A kill ends a save; any other loss waits for the end of the save (rules R373, R346). -/
def lossNow (s : State) (p : Nat) (x : Context) : Bool :=
  !x.losses.isEmpty && (s.stopped p || x.cut || x.losses.any (fun l => l.cause == 0x0D || l.cause == 0x0F)
    || (match x.stage with
      | .running => s.allHalted p
      | .draining => true
      | .saving t => decide (t ≤ s.cycle) || x.losses.any (fun l => l.cause == 0x0E)
      | _ => false))

/-- CONTEXT_LOSS: the loss begins at its replay boundary, and ends once the context's cards and link instructions have ended. -/
def contextLoss (s : State) (p : Nat) : State :=
  match (s.part p).ctx with
  | none => s
  | some x =>
    if x.losses.isEmpty then s
    else
      match x.stage with
      | .lost => if s.cardsEnded p && s.linksEnded p true then s.lossEnds p x else s
      | _ => if s.lossNow p x then s.lossBegins p x else s

/-! ### Barriers (rules R167, R168, R342, R343) -/

/-- Barrier n is safe (rule R342): a core is halted once no token of it is pending and no link transfer into its local space is in
progress (rule R153). -/
def safeBarrier (s : State) (p : Nat) : Bool :=
  (s.coresIn p).all (fun c =>
    (c.ctl.mode == .halted && !tokPending c && !s.linkInto c.idx) || (c.ctl.mode != .halted && c.aux.safe && c.quiet))

/-- Compute phase n + 1 begins on this cycle (rules R165, R167, R171); a halted core takes no part (rule R169). -/
def nextSuperstep (s : State) (p : Nat) : State :=
  let s1 := s.mapPart p (fun c => if c.ctl.mode = .halted then c else { c with sys := { c.sys with
    phnum := ((c.sys.phnum.extractLsb' 0 32) + 1).setWidth 64 } })
  let s2 := s1.onCtx p (fun x => { x with
    step := (x.step + 1) % 2 ^ 32, start := s.cycle, moved := 0, fired := false, cut := false, xphase := none, x0 := none, repairEnd := 0 })
  s2.onPart p (fun q => { q with pstart := s.partLoom p })

/-- The waiting cores go on. -/
def resumeBarrier (c : Core) (cycle : Nat) : Core :=
  if c.ctl.mode = .barrier then { c with ctl := { c.ctl with mode := .running, wake := cycle, dueAt := none } } else c

/-- The bundles of a false region or a skipped loop body that are still to come in compute phase are skipped at fetch and cost
one core cycle together (rule R177). -/
def skipRedo (c : Core) : Core :=
  if c.ctl.redo = 0 then c
  else { c with ctl := { c.ctl with pc := c.seq c.ctl.redo c.ctl.pc, idle := c.ctl.idle + 1, redo := 0 } }

/-- A core on X0 (rules R165, R167): it leaves its barrier wait, and its exchange phase of `xlen` cycles begins; after an empty one a
skipped region or body is skipped at fetch (rule R177). A halted core takes no part (rule R169). -/
def coreAtX0 (xlen cycle : Nat) (loom : Word) (c : Core) : Core :=
  let c0 := { c with mem := { c.mem with inject := none, ejected := [] } }
  if c.ctl.mode = .halted then c0
  else
    let c1 := resumeBarrier c0 cycle
    let c2 := { c1 with sys := { c1.sys with
      xzero := loom, phnum := if xlen = 0 then c1.sys.phnum else c1.sys.phnum ||| (1 <<< 32) } }
    if xlen = 0 then skipRedo c2 else c2

/-- Exchange phase n begins on X0 (rules R165, R168); an empty one is over at once. -/
def beginExchange (s : State) (p : Nat) (x : Context) : State :=
  let e := phaseOf x
  let s1 := (s.mapPart p (fun c => coreAtX0 e.xlen s.cycle (s.loomOf (reticleOf c.idx)) c)).onCtx p (fun y => { y with
    began := y.began.or (some s.cycle) })
  if e.xlen = 0 then s1.nextSuperstep p
  else s1.onCtx p (fun y => { y with xphase := some (s.cycle, e.xlen, e.pcode), x0 := none })

/-- The barrier completes (rules R168, R343, R372, R373): a pending loss, then a pre-emption at a safe barrier, then X0. -/
def barrierComplete (s : State) (p : Nat) : State :=
  match (s.part p).ctx with
  | none => s
  | some x =>
    if !x.x0.any (fun t => decide (t ≤ s.cycle)) || s.stopped p then s
    else
      let s1 := s.cardErrors p
      match (s1.part p).ctx with
      | none => s1
      | some y =>
        if !y.losses.isEmpty then s1.lossBegins p y
        else if bits (s1.part p).preq 1 0 = 1 && s1.safeBarrier p then s1.onCtx p (fun z => { z with stage := .draining, x0 := none })
        else s1.beginExchange p y

/-- A word is discarded at X0 + XLEN, and the router that holds it counts it (rule R78). -/
def countLate (s : State) (t : Nat) : State :=
  let x := s.tileAt t
  s.putTile { x with xstat := setBits x.xstat 31 24 (min 0xFF (bits x.xstat 31 24 + 1)) }

/-- The router of a core once for each of its words that is still in it when the phase ends: a word that waits for injection, and words
in the output delay of the ejection port (rules R78, R392). -/
def wordsLeft (end_ : Nat) (c : Core) : List Nat :=
  List.replicate (c.mem.inject.toList.length + (c.mem.ejected.filter (fun e => decide (end_ ≤ e.1))).length) (tileOf c.idx)

/-- The exchange phase ends (rules R78, R167, R373). -/
def exchangePhaseEnd (s : State) (p : Nat) : State :=
  match (s.part p).ctx with
  | none => s
  | some x =>
    match x.xphase with
    | none => s
    | some (x0, n, _) =>
      if s.cycle < x0 + n then s
      else
        let rs := s.partRegions p
        let mine := fun (f : Flit) => rs.contains (regionOf (2 * f.tile))
        let s1 := (s.flits.filter mine).foldl (fun s f => s.countLate f.sender) s
        let s2 := ((s1.coresIn p).flatMap (wordsLeft (x0 + n))).foldl (fun s t => s.countLate t) s1
        let rest := s2.flits.filter (fun f => !mine f)
        let s3 := ({ s2 with flits := rest }).mapPart p (fun c =>
          skipRedo { c with mem := { c.mem with inject := none, ejected := c.mem.ejected.filter (fun e => decide (e.1 < x0 + n)) } })
        let s4 := (s3.nextSuperstep p).onPart p (fun q => { q with
          past := (x0, x0 + n - 1) :: q.past.filter (fun e => decide (s.cycle < e.2 + 2 ^ 18)) })
        if x.losses.isEmpty then s4 else s4.lossBegins p x

/-! ### The straggler budget (rule R171) -/

/-- The budget of the open barrier has run out. -/
def stragglerDue (s : State) (p : Nat) (x : Context) : Bool :=
  let b := (phaseOf x).budget
  (match x.stage with | .running => true | _ => false) && x.xphase.isNone && !x.fired && b != 0
    && decide (x.start + b + x.moved < s.cycle) && !s.allArrived p

/-- The straggler event; a loss that is pending, or that LOSE brings, takes effect at once (rules R171, R373). -/
def straggler (s : State) (p : Nat) : State :=
  match (s.part p).ctx with
  | none => s
  | some x =>
    if !s.stragglerDue p x then s
    else
      let pol := bits (s.part p).pbar 7 6
      let n := s.firstMissing p
      let s1 := (s.onPart p (fun q => { q with
        pbar := setBits q.pbar 15 8 (min 0xFF (bits q.pbar 15 8 + 1)) ||| 2 })).onCtx p (fun y => { y with
        fired := true, cut := !x.losses.isEmpty })
      let s2 := if 2 ≤ pol then s1.addLoss p 0x0D (s.coreByRel p n) 0 n
        else
          let s2 := s1.completeLaunch x.launch 0x10 0 x.step (BitVec.ofNat 64 n) 0 0
          if pol = 0 then s2
          else s2.mapPart p (fun c =>
            if coreArrived c then c
            else { c with trap := { c.trap with pend := c.trap.pend ++ [c.cause 0x0E 0 8 (atBit x.step 0)] } })
      s2.contextLoss p

/-! ### The end of a launch (rules R334, R335, R418) -/

/-- PSIG: the signatures of every core, in a sum that forgets their order (rule R418). -/
def psigOf (s : State) (p : Nat) : Word :=
  (s.coresIn p).foldl (fun w c => w + sigTerm 2 (8 * s.rel p c.idx) 0xFF c.sys.sig) 0

/-- Every core has halted, what they had in flight has landed, every card has ended and every trigger has been delivered (rules R153,
R334; log entry 55). -/
def launchOver (s : State) (p : Nat) (x : Context) : Bool :=
  (match x.stage with | .running => true | _ => false) && s.allHalted p && s.cardsEnded p && s.linksEnded p false
    && (s.coresIn p).all (fun c => c.ctl.lands.isEmpty && c.ctl.claims.isEmpty && c.ctl.hold.isNone
      && (c.aux.trigger.isNone || c.aux.delivered))

/-- The launch ends: a recorded card error is a loss; otherwise DONE is due, and the partition is unbound (rules R334 to R336,
R372, R418). -/
def launchEnd (s : State) (p : Nat) : State :=
  match (s.part p).ctx with
  | none => s
  | some x =>
    if !s.launchOver p x then s
    else
      let s1 := s.cardErrors p
      match (s1.part p).ctx with
      | none => s1
      | some y =>
        if !y.losses.isEmpty then s1.lossBegins p y
        else
          let sig := s1.psigOf p
          let s2 := s1.completeLaunch x.launch 0 0 0 0 x.tag x.image.handle
          (s2.unbind p true).onPart p (fun q => { q with
            psig := sig, marked := (signalled x.launch).or q.marked })

/-! ### Triggers (rules R153, R155, R335) -/

/-- A trigger waits for the cards released before it to end, and for their writes to be performed at module scope (rule R153). -/
def trigWaits (s : State) (ids : List Nat) : Bool :=
  ids.any (fun i => s.cards.any (fun x => x.id == i) || s.late.any (lateOf i 1))

/-- A core's trigger is delivered once the cards released before it have ended (rule R153). When the last of a launch is
delivered, the launch's counter counts (rule R335). -/
def deliver (s : State) (k : Nat) : State :=
  let c := s.coreOf k
  match c.aux.trigger with
  | none => s
  | some ids =>
    if c.aux.delivered || s.trigWaits ids then s
    else
      let s1 := s.onCore k (fun c => { c with aux := { c.aux with delivered := true } })
      match s1.ctxOf k with
      | none => s1
      | some (p, x) =>
        if x.trgDone || (match x.stage with | .lost => true | _ => false) || !(s1.coresIn p).all (fun c => c.aux.delivered) then s1
        else
          let s2 := s1.onCtx p (fun y => { y with trgDone := true })
          match signalled x.launch with
          | none => s2
          | some n => { s2 with sched := { s2.sched with
              dtrg := s2.sched.dtrg.setIfInBounds n (bump (s2.sched.dtrg.getD n 0))
              dsrc := s2.sched.dsrc.setIfInBounds n ((s2.sched.dsrc.getD n []).insert p) } }

/-- Stage 0 of a bound core is released early, when it would pass every check now and consumes no token (rule R155). The flag says that
it still waits for room or for a home that moves, which is no wait on a token. -/
def earlyRelease (s : State) (k : Nat) : State × Bool :=
  let v := s.focus k
  if v.core.sys.cardpos0.getLsbD 16 then (s, false)
  else
    let (p, r) := planRelease v none
    let back := ((r.s.unpin false).carry v).focus s.core.idx
    if p.cards.any (fun c => !c.consumed.isEmpty) then (back, false)
    else
      match settlePlan r.s p with
      | .released w => ((w.act (fun c => { c with ctl := { c.ctl with passed := false } })).focus s.core.idx, false)
      | .wait _ _ _ => (back, true)
      | .refused _ => (back, false)

/-- Stage 0 of given cores is released early; those that still wait stay in the list (rule R155). -/
def earlyCores (s : State) (p : Nat) (ks : List Nat) : State :=
  let (t, rest) := ks.foldl (fun (x : State × List Nat) k =>
    let (u, more) := x.1.earlyRelease k
    (u, if more then x.2 ++ [k] else x.2)) (s, [])
  t.onCtx p (fun y => { y with early := rest })

/-- The bound dependant's stage 0 is released on its cores (rule R155). -/
def earlyReleases (s : State) (p : Nat) : State :=
  match (s.part p).ctx with
  | none => s
  | some x =>
    if (x.launch.words.getD 2 0).getLsbD 8 then s
    else s.earlyCores p ((s.coresIn p).filter (fun c => c.ctl.mode == .bound) |>.map (·.idx))

/-- Early releases that still wait are tried again, until their cores start (rule R155). -/
def retryEarly (s : State) (p : Nat) : State :=
  match (s.part p).ctx with
  | some x => if x.early.isEmpty then s else s.earlyCores p (x.early.filter (fun k => (s.coreOf k).ctl.mode == .bound))
  | none => s

/-- The bind of a dependant has ended: where it is not on its producers' partition, its stage 0 is released early (rules R155, R336). -/
def bindOver (s : State) (p : Nat) : State :=
  match (s.part p).ctx with
  | some x =>
    let ws := x.launch.words
    if (waitUsed ws 0 || waitUsed ws 1) && (s.producedOn p ws).isEmpty then s.earlyReleases p else s
  | none => s

/-- A bound launch whose bind has ended and whose waits are closed gets its start (rules R155, R336), once no repair of its loom copies is
under way (rule R84). -/
def launchStart (s : State) (p : Nat) : State :=
  match (s.part p).ctx with
  | some x =>
    (match x.stage with
      | .binding t => if decide (t ≤ s.cycle) && s.allClosed x.launch.words && s.loomQuiet p then (s.bindOver p).chooseStart p else s
      | .waiting => if s.allClosed x.launch.words && s.loomQuiet p then s.chooseStart p else s
      | _ => s)
  | none => s

/-! ### The end of a stop (rules R362, R364 to R366) -/

/-- A core of a stopped partition resumes. -/
def resumeCore (cycle : Nat) (c : Core) : Core :=
  match c.ctl.mode with
  | .frozen .deferred => c.leaveTrap (max cycle (reloadEnd c))
  | .frozen _ => { c with ctl := { c.ctl with
      mode := .running, wake := if cycle % 2 = c.ctl.wake % 2 then cycle else cycle + 1 } }
  | _ => c

/-- Core `k` of a stopped partition resumes; one that was trapped behind PHASE.END is back in its barrier wait (rule R362). -/
def resumeFrozen (s : State) (k : Nat) : State :=
  match (s.coreOf k).ctl.mode with
  | .frozen _ => (((s.focus k).act (resumeCore s.cycle)).rejoin).focus s.core.idx
  | _ => s

/-- A core holds a double trap (rule R366). -/
def holdsDouble (c : Core) : Bool := c.ctl.mode == .frozen .deferred && c.trap.tcause.getLsbD 61

/-- A write of TSTOP (rules R365, R409): CMD 1 resumes a stopped partition and ends a debug stop, unless a core holds a double
trap. -/
def tstopWrite (s : State) (p : Nat) (w : Word) : State :=
  if bits w 1 0 != 1 || !s.stopped p then s
  else
    match (s.coresIn p).find? holdsDouble with
    | some c => s.addLoss p 0x11 c.idx 0 (bits c.trap.tcause 7 0)
    | none =>
      let s1 := s.onPart p (fun q => { q with tstop := 0, dstop := 0 })
      ((s1.coresIn p).map (·.idx)).eraseDups.foldl resumeFrozen s1

/-- The bound dependant whose waits fail is discarded once its early cards have ended (rule R336); a loss that is pending comes first
(rule R328). -/
def discardBound (s : State) (p : Nat) : State :=
  match (s.part p).ctx with
  | none => s
  | some x =>
    if !(match x.stage with | .waiting => true | _ => false) || !s.anyFailed x.launch.words || !s.cardsEnded p then s
    else if !x.losses.isEmpty then s.lossBegins p x
    else (s.completeLaunch x.launch 6 0 0 0 x.tag x.image.handle).unbind p true

/-- The waits of a bound launch: closed, its code gets its start; failed, it is discarded (rule R336). -/
def waitsSettled (s : State) (p : Nat) : State :=
  match (s.part p).ctx with
  | some x => if s.anyFailed x.launch.words then s.discardBound p else s.launchStart p
  | none => s

end State

/-! ### The events, with their partition in `part` -/

/-- A barrier completes (rule R168). -/
def execBarrierComplete (s : State) : Out := .next (s.barrierComplete s.arg.part)
/-- An exchange phase ends (rule R167). -/
def execExchangePhaseEnd (s : State) : Out := .next (s.exchangePhaseEnd s.arg.part)
/-- The straggler event; a loss that is pending, or that LOSE brings, takes effect at once (rules R171, R373). -/
def execStragglerEvent (s : State) : Out := .next (s.straggler s.arg.part)
/-- S0 is chosen (rule R164). -/
def execLaunchStart (s : State) : Out := .next (s.launchStart s.arg.part)
/-- A region starts (rule R404): it is in `region`. -/
def execRegionStart (s : State) : Out := .next (s.regionStart s.arg.part s.arg.region)
/-- A loss takes effect (rule R374). -/
def execContextLoss (s : State) : Out := .next (s.contextLoss s.arg.part)
/-- A trigger is delivered (rule R153): of `core`. -/
def execTriggerDelivered (s : State) : Out := .next (s.deliver s.arg.core)
/-- The waits of a bound dependant close (rule R336). -/
def execWaitClosedStart (s : State) : Out := .next (s.waitsSettled s.arg.part)
/-- A launch ends (rule R334). -/
def execLaunchEnd (s : State) : Out := .next (s.launchEnd s.arg.part)
/-- A stopped partition resumes (rule R365). -/
def execTstopResume (s : State) : Out := .next (s.tstopWrite s.arg.part s.arg.value)

end Sys2Proof.Machine
end

