-- ==== Sys2Proof/Machine/Sequencer.lean ====
section
/-! DEFINITION. Launch scheduling: partitions, host queues, selection, bind, pre-emption, and context images (rules R70, R158 to
R166, R174, R329 to R348, R393). -/

namespace Sys2Proof.Machine

namespace State

/-! ### Partitions and queues (rules R329 to R331) -/

/-- A region that boot has withheld (rules R385, R386). -/
def withheld (s : State) (r : Nat) : Bool := (s.module.topo.getD 1 0).getLsbD r
/-- A cut selvedge lies between two regions of a set (rule R385). -/
def cutInside (s : State) (rs : List Nat) : Bool :=
  let t2 := s.module.topo.getD 2 0
  let t3 := s.module.topo.getD 3 0
  (List.range 48).any (fun r => rs.contains (regionOfReticle r) &&
    ((decide (r % 8 < 7) && rs.contains (regionOfReticle (r + 1)) && t2.getLsbD (7 * (r / 8) + r % 8))
      || (decide (r < 40) && rs.contains (regionOfReticle (r + 8)) && t3.getLsbD r)))

/-- A write of PDEF (rules R161, R329, R385). -/
def pdefWrite (s : State) (p : Nat) (w : Word) : State :=
  let q := s.part p
  let old := q.pdef
  let v := fieldWrite old w 0xFC01 0x2
  let refuse := s.putPart p { q with pdef := fieldWrite old w 0 0x2 ||| 2 }
  let fields := fun (x : Word) => x &&& 0xFC01
  if fields v = fields old then s.putPart p { q with pdef := v }
  else if q.ctx.isSome || q.chosen.isSome then refuse
  else if !pdefOn v then s.putPart p { q with pdef := v }
  else
    let rs := rectRegions p (pdefWid v) (pdefHt v)
    let clash := (List.range 16).any (fun r => r != p && (s.partRegions r).any rs.contains)
    if !rectFits p (pdefWid v) (pdefHt v) || clash || rs.any s.withheld || s.cutInside rs then refuse
    else s.putPart p { q with pdef := v }

def queue (s : State) (q : Nat) : Queue := s.sched.queues.getD q .reset
def putQueue (s : State) (q : Nat) (x : Queue) : State :=
  { s with sched := { s.sched with queues := s.sched.queues.setIfInBounds q x } }

end State

namespace Queue
def on (x : Queue) : Bool := x.qcfg.getLsbD 0
def frozen (x : Queue) : Bool := x.qcfg.getLsbD 2
def pri (x : Queue) : Nat := bits x.qcfg 10 8
def log2n (x : Queue) : Nat := bits x.qcfg 35 32
def part (x : Queue) : Nat := bits x.qcfg 43 40
def rev (x : Queue) : Nat := bits x.qcfg 63 48
def base (x : Queue) : Nat := bits x.qbase 55 7 * 128
def cbase (x : Queue) : Nat := bits x.qcbase 55 5 * 32
def tail (x : Queue) : Nat := bits x.qtail 15 0
def hd (x : Queue) : Nat := bits x.qhead 15 0
def ctail (x : Queue) : Nat := bits x.qctail 15 0
def chead (x : Queue) : Nat := bits x.qchead 15 0
def epri (x : Queue) : Nat := bits x.qstat 10 8
/-- The launch ring holds an unread record. -/
def hasHead (x : Queue) : Bool := x.hd != x.tail
/-- A completion slot is free (rule R331). -/
def room (x : Queue) : Bool := decide ((x.ctail + 2 ^ 16 - x.chead) % 2 ^ 16 < 2 ^ x.log2n)
/-- The next record becomes the head. -/
def nextHead (x : Queue) : Queue := { x with qhead := atBit ((x.hd + 1) % 2 ^ 16) 0, head := .unread }
end Queue

namespace State

/-- The base of a ring is backed in an allowed class (rule R330). -/
def baseOk (s : State) (a : Nat) : Bool := (dpaClass a == 0 || dpaClass a == 2) && s.backed a 1

/-- A context of a queue is bound, chosen or saved (rule R330). -/
def queueBusy (s : State) (q : Nat) : Bool :=
  s.sched.saved.any (fun v => v.queue == q) ||
    s.parts.toList.any (fun p =>
      (match p.ctx with | some x => x.launch.queue == q | none => false) ||
      (match p.chosen with | some (l, _) => l.queue == q | none => false))

/-- A write of QCFG (rule R330): it creates, changes, thaws or disables the queue. -/
def qcfgWrite (s : State) (q : Nat) (w : Word) : State :=
  let x := s.queue q
  let old := x.qcfg
  let cleared := fieldWrite old w 0 0x6
  let shape : Word := 0xFFFF0F0F00000000
  let pri : Word := 0x700
  if !x.on then
    let v := fieldWrite cleared w (shape ||| pri) 0
    let y := { x with qcfg := v, changed := true }
    if !w.getLsbD 0 then s.putQueue q y
    else
      if y.rev = 1 && 4 ≤ y.log2n && y.log2n ≤ 12 && s.baseOk y.base && s.baseOk y.cbase
      then s.putQueue q { y with qcfg := v ||| 1 }
      else s.putQueue q { y with qcfg := v ||| 2 }
  else
    let moved := (old &&& shape) != (w &&& shape)
    let v := fieldWrite cleared w pri 0 ||| (if moved then 2 else 0)
    let y := { x with qcfg := v, changed := true }
    if w.getLsbD 0 then s.putQueue q y
    else if s.queueBusy q then s.putQueue q { y with qcfg := v ||| 2 }
    else s.putQueue q { y with qcfg := v &&& ~~~1, qhead := y.qtail, head := .unread }

/-- A write of a base register: ignored with ERR while the queue exists (rule R330). -/
def qbaseWrite (s : State) (q : Nat) (w : Word) (completion : Bool) : State :=
  let x := s.queue q
  if x.on then s.putQueue q { x with qcfg := x.qcfg ||| 2 }
  else if completion then s.putQueue q { x with qcbase := w &&& 0x00FFFFFFFFFFFFE0 }
  else s.putQueue q { x with qbase := w &&& 0x00FFFFFFFFFFFF80 }

/-- A write of QTAIL: one that would overfill the ring is ignored (rule R330). -/
def qtailSet (s : State) (q : Nat) (w : Word) : State :=
  let x := s.queue q
  if 2 ^ x.log2n < (bits w 15 0 + 2 ^ 16 - x.hd) % 2 ^ 16 then s.putQueue q { x with qcfg := x.qcfg ||| 2 }
  else s.putQueue q { x with qtail := w &&& 0xFFFF }

/-! ### Launch records (rules R332, R333) -/

/-- Check 1: CHECK, reserved fields, INH with wait 0 unused. -/
def recordSound (ws : List Word) : Bool :=
  let w := fun i => ws.getD i 0
  w 15 == ((List.range 15).foldl (fun x i => x ^^^ w i) 0x9696969696969696)
    && bits (w 0) 39 32 == 0 && bits (w 1) 63 56 == 0 && bits (w 1) 12 0 == 0
    && bits (w 2) 63 32 == 0 && bits (w 2) 22 9 == 0 && bits (w 2) 4 0 == 0
    && (List.range 2).all (fun k => bits (w (3 + k)) 62 48 == 0 && bits (w (3 + k)) 39 32 == 0)
    && (List.range 10).all (fun i => w (5 + i) == 0)
    && !((w 2).getLsbD 8 && !waitUsed ws 0)

/-- The image that a record names. -/
def recordImage (s : State) (ws : List Word) : Option Image :=
  s.sched.images.find? (fun x => x.handle == bits (ws.getD 0 0) 47 40)

/-- The head record is refused with a code, and the next one becomes the head (rule R333). -/
def refuseHead (s : State) (q code : Nat) (ws : List Word) : State :=
  let x := s.queue q
  (s.putQueue q x.nextHead).complete q code 0 x.hd (bits (ws.getD 0 0) 31 0) 0 0 (s.loomOf 0) 0 0 0 none

/-- An image has the shape of a defined partition (rules R159, R333). -/
def shapeOk (s : State) (p : Nat) (i : Image) : Bool := i.pwid == pdefWid (s.part p).pdef && i.pht == pdefHt (s.part p).pdef

/-- The sequencer reads and checks a head record (rule R333); check 4 waits for the queue's partition to be defined. -/
def headRead (s : State) (q : Nat) : State :=
  let x := s.queue q
  let shape := fun (s : State) (ws : List Word) =>
    let d := (s.part x.part).pdef
    if !pdefOn d then s.putQueue q { x with head := .read ws }
    else
      match s.recordImage ws with
      | none => s.refuseHead q 3 ws
      | some i =>
        if !s.shapeOk x.part i then s.refuseHead q 4 ws
        else s.putQueue q { x with head := .checked ws }
  if !x.on || !x.hasHead then s
  else
    match x.head with
    | .unread =>
      let at_ := x.base + 128 * (x.hd % 2 ^ x.log2n)
      let ws := s.readWords at_ 16
      let s := s.readHomes [(at_, 128)]
      if !recordSound ws then s.refuseHead q 1 ws
      else if bits (ws.getD 0 0) 63 48 != x.rev then s.refuseHead q 2 ws
      else if (s.recordImage ws).isNone then s.refuseHead q 3 ws
      else shape s ws
    | .read ws => shape s ws
    | .checked ws => if (s.recordImage ws).isNone then s.refuseHead q 3 ws else shape s ws

/-- The final completion record of a tag's launch is written: the arrays' cycles are no longer counted for it (rule R414). -/
def acctOver (tag : Nat) (c : Core) : Core :=
  if c.aux.owed == some tag then { c with aux := { c.aux with counting := false, owed := none } } else c

/-- A completion record is written into a free slot (rules R331, R334), and DONE counts in END (rule R335). The final record of a
context ends its hold on its image and begins the removal of its tag (rules R40, R328). -/
def recordWrite (s : State) (q : Nat) : State :=
  let x := s.queue q
  match x.pending with
  | [] => s
  | r :: rest =>
    if !x.room then s
    else
      let ws := r.words.set 2 (s.loomOf 0)
      let at_ := x.cbase + 32 * (x.ctail % 2 ^ x.log2n)
      let s1 := s.writeMem at_ (ws.flatMap (fun w => toBytes 8 w.toNat))
      let s2 := s1.putQueue q { x with pending := rest, qctail := atBit ((x.ctail + 1) % 2 ^ 16) 0 }
      let s3 := match r.counter with
        | some c => { s2 with sched := { s2.sched with dend := s2.sched.dend.setIfInBounds c (bump (s2.sched.dend.getD c 0)) } }
        | none => s2
      if r.tag = 0 then s3 else (s3.mapCores (acctOver r.tag)).dropTag r.tag

/-! ### Selection (rules R336 to R338) -/

/-- The head record of a queue that has passed every check. -/
def headRecord (x : Queue) : Option (List Word) := match x.head with | .checked ws => some ws | _ => none

/-- A partition is marked for a record's wait-0 counter (rule R336). -/
def markedFor (s : State) (p : Nat) (ws : List Word) : Bool := (s.part p).marked == some (waitCounter ws 0)

/-- The code with which a head completes without being selected: DEPENDENCY_FAILED or INHERIT_LOST (rule R336). -/
def headFails (s : State) (p : Nat) (ws : List Word) : Option Nat :=
  if s.anyFailed ws then some 6
  else if (ws.getD 2 0).getLsbD 8 && s.waitClosed ws 0 && !s.markedFor p ws then some 7
  else none

/-- A record is ready (rules R336, R337): its waits are open, and on the partition of one of its producers closed (rule R155). -/
def headReady (s : State) (p : Nat) (ws : List Word) : Bool :=
  s.allOpen ws && ((s.producedOn p ws).isEmpty || s.allClosed ws) && (!(ws.getD 2 0).getLsbD 8 || s.markedFor p ws)

/-- The resume entry of a queue that a partition can take (rule R345). -/
def resumeOf (s : State) (p q : Nat) : Option Saved :=
  s.sched.saved.find? (fun v => v.queue == q && v.ready && v.pwid == s.widOf p && v.pht == s.htOf p)
/-- A queue that has a resume entry offers it and no head. -/
def hasResume (s : State) (q : Nat) : Bool := s.sched.saved.any (fun v => v.queue == q && v.ready)

/-- A tag for a fresh context. -/
def freeTag (s : State) : Option Nat := ((List.range 255).map (· + 1)).find? (fun t => !s.sched.tags.contains t)

/-- What a queue offers a partition: a resume entry, or its head (rules R331, R337, R338). -/
def offers (s : State) (p q : Nat) : Bool :=
  let x := s.queue q
  x.on && x.part == p && !x.frozen && x.room && x.pending.isEmpty &&
    (if s.hasResume q then (s.resumeOf p q).isSome
     else match headRecord x with
      | some ws => s.headReady p ws && s.freeTag.isSome && (s.recordImage ws).any (s.shapeOk p)
      | none => false)

/-- The queues of a partition whose head fails at the ready test. -/
def failing (s : State) (p : Nat) : List Nat :=
  (List.range 64).filter (fun q =>
    let x := s.queue q
    x.on && x.part == p && !x.frozen && (match headRecord x with | some ws => (s.headFails p ws).isSome | none => false))

/-- A partition may select (rule R338). -/
def idlePart (s : State) (p : Nat) : Bool := pdefOn (s.part p).pdef && (s.part p).ctx.isNone && (s.part p).chosen.isNone
def mayOffer (s : State) (p : Nat) : Bool := (List.range 64).any (fun q => s.offers p q)

/-- PRI writes take effect at a selection (rule R338). -/
def takePri (s : State) (p sseq : Nat) : State :=
  (List.range 64).foldl (fun s q =>
    let x := s.queue q
    if x.on && x.part == p && x.changed then
      s.putQueue q { x with changed := false, qstat := atBit sseq 32 ||| atBit x.pri 8 }
    else s) s

/-- The queue that the scan picks: priorities from the top, round robin within one (rule R338). -/
def scan (s : State) (p : Nat) : Option (Nat × Nat) :=
  (List.range 8).findSome? (fun i =>
    let pr := 7 - i
    let last := (s.part p).last.getD pr 0
    ((List.range 64).map (fun j => (last + j + 1) % 64)).findSome? (fun q =>
      if s.offers p q && (s.queue q).epri == pr then some (pr, q) else none))

/-- A partition resolves its failing heads, and selects when it is unbound and has a candidate (rules R336, R338). -/
def select (s : State) (p : Nat) : State :=
  let s := (s.failing p).foldl (fun s q =>
    match headRecord (s.queue q) with
    | some ws => s.refuseHead q ((s.headFails p ws).getD 6) ws
    | none => s) s
  if !s.idlePart p || !s.mayOffer p then s
  else
    let n := ((s.part p).sseq + 1) % 2 ^ 32
    let s1 := s.takePri p n
    match s1.scan p with
    | none => s1
    | some (pr, q) =>
      let x := s1.queue q
      let fin := fun (s : State) (l : Launch) (resume : Bool) =>
        s.onPart p (fun y => { y with sseq := n, last := y.last.setIfInBounds pr q, chosen := some (l, resume) })
      match s1.resumeOf p q, headRecord x with
      | some v, _ => fin s1 { v.launch with sseq := n } true
      | none, some ws => fin (s1.putQueue q x.nextHead) { queue := q, slot := x.hd, words := ws, sseq := n } false
      | none, none => s1

/-! ### Bind: the checks of the start vector, loop table, phase table and pad list (rules R158, R160, R166, R393) -/

/-- The first failing field of the start vector's header: its byte offset in the image. -/
def headerFault (s : State) (img : Image) (rev : Nat) : Option Nat :=
  let o := s.offsetOf img 7
  let w := fun (i : Nat) => s.imgWord img.dpa (o + 8 * i)
  if img.rev != rev then some 8
  else if bits (w 0) 63 48 != img.rev || bits (w 0) 47 44 != img.pwid || bits (w 0) 43 42 != img.pht || bits (w 0) 31 13 != 0
      || bits (w 0) 12 0 == 0 || decide (4096 < bits (w 0) 12 0) then some o
  else if bits (w 1) 63 57 != 0 || bits (w 1) 3 0 != 0 then some (o + 8)
  else if bits (w 2) 63 57 != 0 || bits (w 2) 3 0 != 0 || (bits (w 0) 41 32 == 0 && w 2 != 0) then some (o + 16)
  else if w 3 != w 0 ^^^ w 1 ^^^ w 2 ^^^ 0x3C3C3C3C3C3C3C3C then some (o + 24)
  else none

/-- A failing entry. -/
def entryFault (s : State) (img : Image) (mayInherit : Bool) (n : Nat) : Option Nat :=
  let o := s.offsetOf img 7 + 32 + 16 * n
  let (a, b) := s.startEntry img n
  if bits a 63 57 != 0 || bits a 4 0 != 0 then some o
  else if bits b 63 44 != 0 || bits b 31 24 != 0 || bits b 19 18 != 0 || (s.codeSection img n).isNone
      || (b.getLsbD 23 && !mayInherit)
      || (n % 2 == 0 && bits b 21 20 == 3) || (n % 2 == 1 && bits b 21 20 != 0) then some (o + 8)
  else none

/-- A chain of PARENT indices from `j` reaches an entry (rule R160). -/
def parentReaches (parents : List Nat) (i : Nat) : Nat → Nat → Bool
  | 0, _ => false
  | fuel + 1, j => j == i || (j != 0xFFFF && parentReaches parents i fuel (parents.getD j 0xFFFF))

/-- The first failing field of the loop table (rule R160), or the lowest entry on a cycle of PARENT chains (rule R334). A TRIP of 0
breaks its rule. DESIGN CHOICE, unsafe (log entry 113): an image whose start vector names loops and that has no loop table is refused at its
start vector; the spec does not speak of one. -/
def loopFault (s : State) (img : Image) : Option Nat :=
  let n := bits (s.imgWord img.dpa (s.offsetOf img 7)) 41 32
  match s.sectionOf img 6 with
  | none => if n = 0 then none else some (s.offsetOf img 7)
  | some x =>
    let w := fun (i k : Nat) => s.imgWord img.dpa (x.off + 16 * i + 8 * k)
    let parents := (List.range n).map (fun i => bits (w i 0) 63 48)
    let one := fun (i : Nat) =>
      let a := w i 0
      let b := w i 1
      let kind := bits a 39 32
      if bits a 47 40 != 0 || decide (2 < kind) || bits a 31 0 == 0
          || (decide (n ≤ bits a 63 48) && bits a 63 48 != 0xFFFF) then some (x.off + 16 * i)
      else if bits b 63 21 != 0 || (kind == 0 && decide (5 < bits b 20 18)) || (kind != 0 && bits b 20 18 != 0)
          || (kind != 0 && bits b 17 0 == 0) || (kind == 2 && decide (48 < bits b 17 0)) then some (x.off + 16 * i + 8)
      else none
    let cyc := fun (i : Nat) => if parentReaches parents i (n + 1) (parents.getD i 0xFFFF) then some (x.off + 16 * i) else none
    let big := fun (i : Nat) =>
      let k := bits (w i 0) 39 32
      let all := shapeCores img.pwid img.pht
      let m := bits (w i 0) 31 0 * bits (w i 1) 17 0
      if (k == 1 && decide (all < m)) || (k == 2 && decide (all / 1024 < m)) then some (x.off + 16 * i) else none
    ((List.range n).findSome? one).or (((List.range n).findSome? cyc).or ((List.range n).findSome? big))

/-- The phase table, and its first failing word (rule R166). -/
def phaseWords (s : State) (img : Image) : List (Word × Word) :=
  (List.range (bits (s.imgWord img.dpa (s.offsetOf img 7)) 12 0)).map (fun i =>
    (s.imgWord img.dpa (s.offsetOf img 5 + 16 * i), s.imgWord img.dpa (s.offsetOf img 5 + 16 * i + 8)))
def phaseFault (s : State) (img : Image) : Option Nat :=
  let ws := s.phaseWords img
  ((List.range ws.length).find? (fun i =>
    let a := (ws.getD i (0, 0)).1
    bits a 63 56 != 0 || bits a 31 8 != 0)).map (fun i => s.offsetOf img 5 + 16 * i)
def phaseTable (s : State) (img : Image) : List PhaseEntry :=
  (s.phaseWords img).map (fun w => { xlen := bits w.1 55 32, pcode := bits w.1 7 0, budget := w.2.toNat })

/-- The relative index of a tile of a partition (rule R393). -/
def relTile (s : State) (p t : Nat) : Nat :=
  let r := t / 512
  ((r / 8 - p % 2 * 3) * s.widOf p + (r % 8 - p / 2)) * 512 + t % 512

/-- A pad list that breaks its layout, or leaves out a borrowed router of the partition (rule R393). -/
def padFault (s : State) (p : Nat) (img : Image) : Option Nat :=
  let o := s.offsetOf img 4
  let w0 := s.imgWord img.dpa o
  let rs := s.partRegions p
  let missing := s.tiles.any (fun t => t.detour != 0 && rs.contains (regionOf (2 * t.idx)) &&
    !(s.padList img).contains (s.relTile p t.idx))
  if bits w0 63 7 != 0 || decide (64 < bits w0 6 0) || missing
      || (List.range (s.padCount img)).any (fun i => bits (s.imgWord img.dpa (o + 8 + 8 * i)) 63 18 != 0) then some o
  else none

/-- The byte offset that START_VECTOR reports, when the bind is refused (rules R158, R160, R166, R334, R393). -/
def bindFault (s : State) (p : Nat) (l : Launch) (img : Image) : Option Nat :=
  let n := s.coreCount p
  let inh := (l.words.getD 2 0).getLsbD 8
  let may := inh && s.markedFor p l.words
  let anyInh := (List.range n).any (fun i => (s.startEntry img i).2.getLsbD 23)
  (s.headerFault img (s.queue l.queue).rev).or (((List.range n).findSome? (s.entryFault img may)).or
    ((if anyInh != inh then some (s.offsetOf img 7) else none).or
      ((s.loopFault img).or ((s.phaseFault img).or (s.padFault p img)))))

/-- The code and DETAIL with which a bind is refused: another shape than the partition's, or START_VECTOR (rules R159, R333). -/
def bindRefusal (s : State) (p : Nat) (l : Launch) (img : Image) : Option (Nat × Nat) :=
  if s.shapeOk p img then (s.bindFault p l img).map (fun o => (5, o)) else some (4, 0)

/-! ### Bind: the state of cores, tiles and reticles (rule R339) -/

/-- PINFO (rule R162). -/
def pinfoOf (p wid ht : Nat) : Word :=
  atBit (barrierLatency wid ht) 32 ||| atBit wid 12 ||| atBit ht 10 ||| atBit (p / 2) 7 ||| atBit (p % 2) 6 ||| atBit p 0

/-- What a bind sets in the system registers of every core, of a new launch or a resumed one (rules R29, R98, R111, R118,
R162). Core hardware that belongs to no context keeps its values (rules R349, R361). -/
def bindSys (s : State) (p tag : Nat) (l : Launch) (img : Image) (n : Nat) (c : Core) : SysRegs :=
  let table := s.sectionOf img 3
  { SysRegs.reset with
    pinfo := pinfoOf p (s.widOf p) (s.htOf p), ctxrev := atBit (s.queue l.queue).rev 0
    troot := l.words.getD 1 0 &&& 0x00FFFFFFFFFFE000, tctx := atBit tag 0
    rtbase := match table with | some x => atBit (bits (BitVec.ofNat 64 x.va) 56 17) 17 | none => 0
    rtlim := match table with | some x => atBit (x.size / 256) 0 | none => 0
    deckbase := (s.startEntry img n).1
    tfva := c.sys.tfva, tfinfo := c.sys.tfinfo, loinfo := c.sys.loinfo, loelem := c.sys.loelem, bcinfo := c.sys.bcinfo
    memerr := c.sys.memerr, bistres := c.sys.bistres, bistadr := c.sys.bistadr, bistxor := c.sys.bistxor
    vmres := c.sys.vmres, eye := c.sys.eye, eyeerr := c.sys.eyeerr }

/-- A core bound to a new launch (rules R70, R158, R215, R339). -/
def bindCore (s : State) (p tag : Nat) (l : Launch) (img : Image) (c : Core) : Core :=
  let n := s.rel p c.idx
  let e := s.startEntry img n
  let entry : CodeAddr := e.2.extractLsb' 0 18 &&& 0x3FFFC
  let run := e.2.getLsbD 22
  let inh := e.2.getLsbD 23
  let sys := s.bindSys p tag l img n c
  let code := s.codeSection img n
  let imem := match code with
    | some x => (s.cellsFrom (img.dpa + x.off) x.size x.load)
    | none => []
  { idx := c.idx, reg := .reset
    ctl := { Ctl.reset with pc := entry, mode := if run then .bound else .halted, cc := c.ctl.cc }
    trap := TrapRegs.reset
    sys := { sys with
      bistres := 0, bistadr := 0, bistxor := 0, vmres := 0, eye := 0, eyeerr := 0
      cardpos0 := if sys.deckbase = 0 then atBit 1 16 else 0, mxchg := entry.setWidth 64 }
    aux := { Aux.reset with
      grant := (l.words.getD 2 0).getLsbD 7, inherits := inh, tlb := c.aux.tlb, traceQ := c.aux.traceQ, lost := c.aux.lost, drops := c.aux.drops
      arrived := if run then none else some (0, s.cycle), trigger := if run then none else some []
      fixes := if inh then c.aux.fixes.filter (fun f => f.unit != 10) else []
      scrub := c.aux.scrub, scrubDone := c.aux.scrubDone, scrubWait := c.aux.scrubWait }
    mem := { Store.reset with
      loc := if inh then c.mem.loc else .empty
      bad := if inh then c.mem.bad else []
      soft := if inh then c.mem.soft else []
      imem := { cells := imem }
      imemBad := match code with | some x => s.poisonWords (img.dpa + x.off) x.size x.load | none => [] } }

/-- The flat indices of a partition's cores, ascending. -/
def partCores (s : State) (p : Nat) : List Nat :=
  ((s.partReticles p).mergeSort (fun a b => decide (a ≤ b))).flatMap (fun r => (List.range 1024).map (fun i => r * 1024 + i))

/-- The cores of a partition take new states. -/
def replaceCores (s : State) (cs : List Core) : State :=
  let ids := fun (k : Nat) => cs.any (fun c => c.idx == k)
  let core := (cs.find? (fun c => c.idx == s.core.idx)).getD s.core
  let rest := s.others.filter (fun c => !ids c.idx)
  { s with core := core, others := (rest ++ cs.filter (fun c => c.idx != core.idx)).mergeSort (fun a b => decide (a.idx ≤ b.idx)) }

/-- The tiles of a partition take the heddle set, the array mode and the pads of an image (rules R75, R174, R393). -/
def bindTiles (s : State) (p : Nat) (img : Image) : State :=
  let ks := (s.partReticles p).flatMap (fun r => (List.range 512).map (fun t => r * 512 + t))
  let pads := s.padList img
  ks.foldl (fun s t =>
    let n := s.relTile p t
    let x := s.tileAt t
    let (h, d) := s.heddleOf img n
    s.putTile { x with
      htab := h, hdir := d, arrmode := bits (s.startEntry img (s.rel p (2 * t))).2 21 20
      pad := if pads.contains n then 4 - x.detour else 0 }) s

/-- Record-cache entries of a tag leave the engines of a partition (rule R112). -/
def dropRecords (s : State) (p tag : Nat) : State :=
  let rs := s.partRegions p
  { s with blocks := s.blocks.map (fun (b : Block) =>
    if rs.contains (regionOf (64 * b.idx)) then { b with recs := b.recs.filter (fun e => e.tag != tag) } else b) }

/-- The byte ranges of an image that the bind of a partition reads: its header and section table, its heddle set, phase table, loop
table and start vector, and the code sections that its start vector names (rules R158, R160, R166, R339, R393). -/
def bindReads (s : State) (p : Nat) (img : Image) : List (Nat × Nat) :=
  let xs := s.sections img.dpa
  let tables := (xs.filter (fun x => decide (4 ≤ x.kind) && decide (x.kind ≤ 7))).eraseDups
  let codes := ((List.range (s.coreCount p)).filterMap (s.codeSection img)).eraseDups
  (img.dpa, 16 + 32 * xs.length) :: (tables ++ codes).map (fun x => (img.dpa + x.off, x.size))

/-- The context of a bind. -/
def newContext (s : State) (tag : Nat) (l : Launch) (img : Image) (stage : Stage) : Context :=
  { tag := tag, launch := l, image := img, stage := stage, phases := s.phaseTable img, starts := [], lastStart := 0
    step := 0, lastArrival := s.cycle, repairEnd := 0, x0 := none, xphase := none, start := 0, moved := 0, fired := false
    cut := false, trgDone := false, began := none, asked := false, losses := [], badBlocks := [], early := [] }

/-- System software has realigned the reticles whose slips were too large to repair (rule R85; log entry 23). -/
def realigned (s : State) (rs : List Nat) : State :=
  rs.foldl (fun s r =>
    let x := s.ret r
    match x.realign with
    | some d => s.putRet r { x with realign := none, deltas := [], loomBase := x.loomBase + BitVec.ofInt 64 d }
    | none => s) s

/-- The parts of a bind that a new launch and a resumed one share: fences, tiles, record caches and PBAR. -/
def bindCommon (s : State) (p tag : Nat) (l : Launch) (img : Image) (strags : Nat) : State :=
  let s1 := ((s.bindTiles p img).dropRecords p tag).realigned (s.partReticles p)
  let s2 := s1.setFences (s1.partReticles p) (s1.partReticles p)
  s2.onPart p (fun q => { q with
    chosen := none, marked := none, psig := 0
    pbar := (q.pbar &&& 2) ||| atBit strags 8 ||| atBit (bits (l.words.getD 2 0) 6 5) 6 })

/-- A selected record is bound, or refused with SHAPE, START_VECTOR or IMAGE_ABSENT (rules R333, R339). -/
def bindFresh (s : State) (p : Nat) (l : Launch) : State :=
  let out := s.onPart p (fun q => { q with chosen := none, marked := none })
  match s.recordImage l.words, s.freeTag with
  | none, _ => out.completeLaunch l 3 0 0 0 0 0
  | _, none => s
  | some img, some tag =>
    match s.bindRefusal p l img with
    | some (code, o) => out.completeLaunch l code 0 0 (BitVec.ofNat 64 o) 0 0
    | none =>
      let cs := (s.partCores p).map (fun k => s.bindCore p tag l img (s.coreOf k))
      let s1 := ((s.replaceCores cs).bindCommon p tag l img 0).readHomes (s.bindReads p img)
      let till := s.cycle + 16384 + s.free (2 ^ 26)
      let sick := ((s.sickIn (s.bindReads p img)).map (· / 2 ^ 11)).eraseDups
      let x := { s.newContext tag l img (.binding till) with badBlocks := sick }
      let s2 := { s1.drawn with sched := { s1.sched with tags := tag :: s1.sched.tags } }
      s2.onPart p (fun q => { q with ctx := some x })

/-! ### The context area (rule R344) -/

/-- The stacks that hold a piece, ascending. -/
def areaStacks (s : State) : List Nat := (List.range 24).filter (fun i => s.sched.ctxarea.getLsbD (40 + i))
def areaOff (s : State) : Nat := bits s.sched.ctxarea 21 16
def areaSize (s : State) : Nat := bits s.sched.ctxarea 5 0
def areaPages (s : State) : Nat := s.areaStacks.length * s.areaSize * 2 ^ 13

/-- The device physical address of a byte of the area. -/
def areaDpa (s : State) (a : Nat) : Nat :=
  let ns := max 1 s.areaStacks.length
  let p := a / 2 ^ 17
  s.areaStacks.getD (p % ns) 0 * 2 ^ 36 + s.areaOff * 2 ^ 30 + p / ns * 2 ^ 17 + a % 2 ^ 17
/-- The place in the area of a byte of HBM. -/
def areaOf (s : State) (d : Nat) : Option Nat :=
  let ns := s.areaStacks.length
  let off := hbmOffset d
  match s.areaStacks.findIdx? (fun i => i == hbmStack d) with
  | some i =>
    if dpaClass d = 0 && s.areaOff * 2 ^ 30 ≤ off && off < (s.areaOff + s.areaSize) * 2 ^ 30 then
      some (((off - s.areaOff * 2 ^ 30) / 2 ^ 17 * ns + i) * 2 ^ 17 + d % 2 ^ 17)
    else none
  | none => none

/-- The pages of a context of `n` cores. -/
def imagePages (n : Nat) : Nat := (0x1000 + n * 0x285000 + 2 ^ 17 - 1) / 2 ^ 17
/-- The lowest place where a run of pages fits, of at most 64 contexts. -/
def areaPlace (s : State) (n : Nat) : Option Nat :=
  let fits := fun (a : Nat) => decide (a + n ≤ s.areaPages) &&
    s.sched.saved.all (fun v => decide (a + n ≤ v.page) || decide (v.page + v.pages ≤ a))
  if 64 ≤ s.sched.saved.length then none
  else ((0 :: s.sched.saved.map (fun v => v.page + v.pages)).filter fits).foldl
    (fun b a => match b with | none => some a | some x => some (min a x)) none

/-- A write of CTXAREA (rule R344). -/
def ctxareaSet (s : State) (w : Word) : State :=
  let v := w &&& 0xFFFFFF00003F003F
  let gone := (List.range 24).any (fun i => v.getLsbD (40 + i) && bits v 5 0 != 0 && s.module.hbmret.getD i 0 != 0)
  if !s.sched.saved.isEmpty || 59 < bits v 21 16 + bits v 5 0 || gone then s
  else { s with sched := { s.sched with ctxarea := v } }

/-! ### Save (rules R343, R347) -/

/-- The XOR of the 8-byte words that cells make. -/
def xorCells (cs : List Host.Cell) : Word := 
  cs.foldl (fun (x : Word) (c : Host.Cell) => x ^^^ ((c.2.setWidth 64 : Word) <<< (8 * (c.1 % 8)))) 0

/-- The cells of a context image, by offset in the image (rules R347, R348). -/
def imageCells (s : State) (p : Nat) (x : Context) : List Host.Cell :=
  let blocks := (s.coresIn p).flatMap (fun c =>
    let o := 0x1000 + s.rel p c.idx * 0x285000
    c.blockCells.map (fun e => (o + e.1, e.2)))
  let word := fun (o : Nat) (w : Word) => Memory.cellsOf o (toBytes 8 w.toNat)
  word 0 0x434F4E5445580001 ++ word 8 (atBit x.launch.queue 56 ||| atBit x.tag 48 ||| atBit x.step 0)
    ++ word 0x10 (s.partLoom p) ++ word 0x18 (atBit (bits (s.part p).pbar 15 8) 0) ++ word 0x20 (xorCells blocks)
    ++ (List.range 16).flatMap (fun i => word (0x80 + 8 * i) (x.launch.words.getD i 0)) ++ blocks

/-- A run of the area takes the cells of an image; everything else of the run becomes 0. -/
def writeArea (s : State) (page pages : Nat) (cs : List Host.Cell) : State :=
  let inside := fun (d : Nat) => match s.areaOf d with
    | some a => decide (page * 2 ^ 17 ≤ a) && decide (a < (page + pages) * 2 ^ 17)
    | none => false
  let kept := s.mem.cells.filter (fun (c : Host.Cell) => !inside c.1)
  { s with
    mem := Memory.ofCells (kept ++ cs.map (fun c => (s.areaDpa (page * 2 ^ 17 + c.1), c.2)))
    poison := s.poison.filter (fun g => !inside (64 * g)) }

/-- The context's cards have ended and the area has room: PREEMPTED is due and the image is written (rule R343). -/
def contextSave (s : State) (p : Nat) : State :=
  match (s.part p).ctx with
  | none => s
  | some x =>
    let n := imagePages (s.coreCount p)
    match x.stage, s.areaPlace n with
    | .draining, some page =>
      if !s.drained p then s
      else
        let cs := s.coresIn p
        let v : Saved := {
          queue := x.launch.queue, tag := x.tag, launch := x.launch, image := x.image, step := x.step
          pwid := s.widOf p, pht := s.htOf p, part := p, badBlocks := s.spoiled p x, page := page, pages := n, ready := false
          bad := cs.flatMap (fun c => c.mem.bad.map (fun w => (s.rel p c.idx, w)))
          imemBad := cs.flatMap (fun c => c.mem.imemBad.map (fun w => (s.rel p c.idx, w)))
          codeLines := cs.flatMap (fun c => c.mem.codeLines.map (fun w => (s.rel p c.idx, w))) }
        let s1 := s.completeLaunch x.launch 0x11 0 x.step 0 0 0
        let s2 := s1.writeArea page n (s.imageCells p x)
        let till := s.cycle + 1 + s.free (2 ^ 28)
        ({ s2.drawn with sched := { s2.sched with saved := s2.sched.saved ++ [v] } }).onCtx p (fun y =>
          { y with stage := .saving till })
    | _, _ => s

/-- The save ends: the partition is unbound and the queue has its resume entry (rule R343); a context that has been lost meanwhile
is lost now (rule R346). -/
def contextSaveEnd (s : State) (p : Nat) : State :=
  match (s.part p).ctx with
  | none => s
  | some x =>
    match x.stage with
    | .saving t =>
      if s.cycle < t || !x.losses.isEmpty then s
      else
        let saved := s.sched.saved.map (fun v => if v.tag == x.tag then { v with ready := true } else v)
        ({ s with sched := { s.sched with saved := saved } }).unbind p false
    | _ => s

/-! ### Resume (rule R345) -/

/-- The memory of a saved image, by offset in the image. -/
def savedMemory (s : State) (v : Saved) : Memory :=
  Memory.ofCells (s.mem.cells.filterMap (fun c => (s.areaOf c.1).bind (fun a =>
    if v.page * 2 ^ 17 ≤ a && a < (v.page + v.pages) * 2 ^ 17 then some (a - v.page * 2 ^ 17, c.2) else none)))

/-- A core restored from its block (rules R345, R349). DESIGN CHOICE, unsafe (log entry 102): the image has no word for a
false region that the bundle of the barrier declared, so that none is open after the resume. -/
def restoreCore (s : State) (p : Nat) (l : Launch) (v : Saved) (m : Memory) (c : Core) : Core :=
  let n := s.rel p c.idx
  let o := 0x1000 + n * 0x285000
  let block : Memory := { cells := (m.cells.filter (fun x => decide (o ≤ x.1) && decide (x.1 < o + 0x285000))).map (fun x =>
    (x.1 - o, x.2)) }
  let halted := (m.readNat (o + 0x284E70) 8) % 2 == 1
  let mine := fun (xs : List (Nat × Nat)) => (xs.filter (fun x => x.1 == n)).map (·.2)
  let c1 : Core := {
    idx := c.idx, reg := .reset
    ctl := { Ctl.reset with mode := if halted then .halted else .bound, cc := c.ctl.cc }
    trap := { TrapRegs.reset with tscr := c.trap.tscr }
    sys := { s.bindSys p v.tag l v.image n c with mxacc := c.sys.mxacc, mxchg := c.sys.mxchg }
    aux := { Aux.reset with
      grant := (l.words.getD 2 0).getLsbD 7, tlb := c.aux.tlb, delivered := halted, traceQ := c.aux.traceQ, lost := c.aux.lost, drops := c.aux.drops
      scrub := c.aux.scrub, scrubDone := c.aux.scrubDone, scrubWait := c.aux.scrubWait }
    mem := Store.reset }
  let c2 := c1.ofBlock block
  { c2 with
    aux := { c2.aux with delivered := c2.aux.trigger.isSome }
    mem := { c2.mem with bad := mine v.bad, imemBad := mine v.imemBad, codeLines := mine v.codeLines } }

/-- A resume entry is bound: every core is restored from the context image (rule R345). An image whose XOR does not match loses
the context (rule R347). -/
def bindResume (s : State) (p : Nat) (l : Launch) : State :=
  match s.sched.saved.find? (fun v => v.queue == l.queue && v.ready) with
  | none => s.onPart p (fun q => { q with chosen := none })
  | some v =>
    let m := s.savedMemory v
    let strags := m.readNat 0x18 1
    let good := xorCells (m.cells.filter (fun c => decide (0x1000 ≤ c.1))) == BitVec.ofNat 64 (m.readNat 0x20 8)
    let cs := (s.partCores p).map (fun k => s.restoreCore p l v m (s.coreOf k))
    let s1 := (s.replaceCores cs).bindCommon p v.tag l v.image strags
    let saved := s1.sched.saved.map (fun u => if u.tag == v.tag then { u with ready := false } else u)
    let till := s.evenFrom p (s.cycle + 1 + s.free (2 ^ 28))
    let area := (List.range v.pages).map (fun i => (s.areaDpa ((v.page + i) * 2 ^ 17), 2 ^ 17))
    let sick := (s.sickIn area).map (· / 2 ^ 11)
    let x := { s.newContext v.tag l v.image (.restoring till) with
      step := v.step, trgDone := true, badBlocks := (v.badBlocks ++ sick).eraseDups }
    let s2 := { (s1.readHomes area).drawn with sched := { s1.sched with saved := saved } }
    let s3 := s2.onPart p (fun q => { q with ctx := some { x with trgDone := cs.all (fun c => c.aux.delivered) } })
    if good then s3 else s3.addLoss p 0x0F 0xFFFF 0 0

/-- The restore ends on S: RESUMED is due, the saved space is free, and the cores stand in the barrier wait with the common
arrival S (rule R345). Another loss than RESTORE takes effect at the completion of that barrier (rule R373). -/
def restoreEnd (s : State) (p : Nat) : State :=
  match (s.part p).ctx with
  | none => s
  | some x =>
    match x.stage with
    | .restoring t =>
      if s.cycle < t || x.losses.any (fun l => l.cause == 0x0F) then s
      else
        let s1 := (s.dropImage x.tag).completeLaunch x.launch 0x12 0 x.step 0 0 0
        let s2 := s1.mapPart p (fun c => { c with
          ctl := if c.ctl.mode = .bound then { c.ctl with mode := .barrier } else c.ctl
          aux := { c.aux with counting := true, safe := true, arrived := some (x.step, s.cycle) } })
        s2.onCtx p (fun y => { y with stage := .running, lastArrival := s.cycle })
    | _ => s

/-- BIND: a selected candidate is bound; and once the bind of a launch whose waits are not closed has ended, its cores stand bound
and their stage 0 is released early where it can be (rules R155, R336, R339). -/
def bind_ (s : State) (p : Nat) : State :=
  match (s.part p).ctx, (s.part p).chosen with
  | none, some (l, false) => s.bindFresh p l
  | none, some (l, true) => s.bindResume p l
  | some x, _ =>
    (match x.stage with
      | .binding t =>
        if decide (t ≤ s.cycle) && !s.allClosed x.launch.words then
          (s.onCtx p (fun y => { y with stage := .waiting })).bindOver p
        else s
      | _ => s)
  | none, none => s

/-! ### Pre-emption requests (rules R340, R341) -/

/-- A write of PREQ (rule R341). -/
def preqWrite (s : State) (p : Nat) (w : Word) : State :=
  let q := s.part p
  let old := q.preq
  let v := fieldWrite old w 0 0x4
  let req := bits w 1 0
  if q.ctx.isNone then s.putPart p { q with preq := if req = 0 then v else v ||| 4 }
  else if bits old 1 0 = 2 || req = 3 then s.putPart p { q with preq := v }
  else
    let s1 := s.putPart p { q with preq := setBits v 1 0 req }
    if req = 2 then s1.addLoss p 0x0E 0xFFFF 0 0 else s1

/-- A candidate of priority `px` or more stands (rule R340). -/
def rivalOf (s : State) (p px : Nat) : Bool := (List.range 64).any (fun q => s.offers p q && decide (px ≤ (s.queue q).epri))

/-- The quantum of a running context has expired and a rival stands, for the first time since its code began or resumed (rule R340). -/
def quantumDue (s : State) (p : Nat) : Bool :=
  match (s.part p).ctx with
  | none => false
  | some x =>
    let px := (s.queue x.launch.queue).epri
    let n := bits (s.sched.quant.getD px 0) 31 0
    (match x.stage with | .running => true | .starting => true | _ => false) && n != 0
      && x.began.any (fun b => decide (b + 4096 * n ≤ s.cycle)) && !x.asked && s.rivalOf p px

/-- The quantum brings a request (rule R340). -/
def quantumRequest (s : State) (p : Nat) : State :=
  if s.quantumDue p then (s.preqWrite p 1).onCtx p (fun x => { x with asked := true }) else s

end State

/-! ### The events -/

/-- A write of PDEF (rule R329): the partition in `part`. -/
def execPdefWrite (s : State) : Out := .next (s.pdefWrite s.arg.part s.arg.value)
/-- QCFG.EN from 0 to 1 (rule R330): the queue in `n`. -/
def execQueueCreate (s : State) : Out := .next (s.qcfgWrite s.arg.n (s.arg.value ||| 1))
/-- QCFG.EN = 0 (rule R330). -/
def execQueueDisable (s : State) : Out := .next (s.qcfgWrite s.arg.n (s.arg.value &&& ~~~1))
/-- QCFG.FROZEN (rule R330). -/
def execQueueThaw (s : State) : Out := .next (s.qcfgWrite s.arg.n (s.arg.value ||| 4))
/-- A write of QTAIL (rule R330). -/
def execQtailWrite (s : State) : Out := .next (s.qtailSet s.arg.n s.arg.value)
/-- A head record is read and checked (rule R333). -/
def execQueueHeadRead (s : State) : Out := .next (s.headRead s.arg.n)
/-- A completion record is written (rule R331). -/
def execCompletionRecordWrite (s : State) : Out := .next (s.recordWrite s.arg.n)
/-- A selection (rule R338). -/
def execSequencerSelect (s : State) : Out := .next (s.select s.arg.part)
/-- A bind (rule R339). -/
def execBind (s : State) : Out := .next (s.bind_ s.arg.part)
/-- The quantum of a running context expires (rule R340). -/
def execQuantumExpiry (s : State) : Out :=
  .next (s.quantumRequest s.arg.part)
/-- PREQ.REQ = 1 (rule R341). -/
def execPreemptRequest (s : State) : Out := .next (s.preqWrite s.arg.part (setBits s.arg.value 1 0 1))
/-- PREQ.REQ = 2 (rule R341). -/
def execKillRequest (s : State) : Out := .next (s.preqWrite s.arg.part (setBits s.arg.value 1 0 2))
/-- PREQ.REQ = 0 (rule R341). -/
def execPreemptWithdraw (s : State) : Out := .next (s.preqWrite s.arg.part (setBits s.arg.value 1 0 0))
/-- A context image is written (rule R343). -/
def execContextSave (s : State) : Out := .next (s.contextSave s.arg.part)
/-- A save ends (rule R343). -/
def execContextSaveEnd (s : State) : Out := .next (s.contextSaveEnd s.arg.part)
/-- A restore ends (rule R345). -/
def execRestoreEnd (s : State) : Out := .next (s.restoreEnd s.arg.part)
/-- A write of CTXAREA (rule R344). -/
def execCtxareaWrite (s : State) : Out := .next (s.ctxareaSet s.arg.value)

end Sys2Proof.Machine
end

