-- ==== Sys2Proof/Machine/Fabric.lean ====
section
/-! DEFINITION. The fabric: routers of the exchange plane, loom alignment and repair, slot maps of the shuttle plane, and trace
flits (rules R71 to R89, R392, R413). -/

namespace Sys2Proof.Machine

/-! ### Routers (rules R71 to R80, R392) -/

/-- An entry of a sparse table. -/
def tableGet (t : Table) (i : Nat) : Word := ((t.find? (fun e => e.1 == i)).map (·.2)).getD 0
/-- A sparse table with an entry written. -/
def tablePut (i : Nat) (w : Word) : Table → Table
  | [] => if w = 0 then [] else [(i, w)]
  | e :: es =>
    if i < e.1 then (if w = 0 then e :: es else (i, w) :: e :: es)
    else if i = e.1 then (if w = 0 then es else (i, w) :: es)
    else e :: tablePut i w es

/-- An HTAB entry is active at an offset from X0 (rule R77). -/
def entryActive (e : Word) (o : Nat) : Bool :=
  let off := bits e 55 32
  let step := bits e 19 16 + 1
  e.getLsbD 0 && decide (off ≤ o) && (o - off) % step == 0 && decide ((o - off) / step ≤ bits e 31 20)

/-- An entry in use is malformed (rule R76). -/
def entryBad (e : Word) : Bool :=
  let i := bits e 15 13
  bits e 63 56 != 0 || bits e 6 1 != 0 || decide (6 ≤ i) || bits e 12 7 == 0
    || (i == 4 && e.getLsbD 11) || (i == 5 && e.getLsbD 12)

/-- The entries of a tile's list for a phase code that are active at an offset, in index order (rules R75, R77). -/
def activeEntries (t : Tile) (pc o : Nat) : List (Nat × Word) :=
  let d := tableGet t.hdir pc
  let start := bits d 11 0
  t.htab.filter (fun e => decide (start ≤ e.1) && decide (e.1 < min (start + bits d 24 12) 4096) && entryActive e.2 o)

/-- Which active entry has each output port: the lowest that names it (rules R77, R78). -/
def takes (es : List (Nat × Word)) (q : Nat) : Option (Nat × Word) := es.find? (fun e => e.2.getLsbD (7 + q))

/-- XSTAT's counters, which saturate, and its flags (rule R80). -/
def countIn (w : Word) (hi lo n : Nat) : Word := setBits w hi lo (min (2 ^ (hi + 1 - lo) - 1) (bits w hi lo + n))

namespace State

/-- The tile beyond a mesh port, and whether the link crosses a selvedge (rules R71, R73). -/
def tileBeyond (t q : Nat) : Option (Nat × Bool) :=
  let x := tileX (2 * t)
  let y := tileY (2 * t)
  match q with
  | 0 => if y = 0 then none else some (coreAt x (y - 1) / 2, y % 16 == 0)
  | 1 => if x = 255 then none else some (coreAt (x + 1) y / 2, x % 32 == 31)
  | 2 => if y = 95 then none else some (coreAt x (y + 1) / 2, y % 16 == 15)
  | _ => if x = 0 then none else some (coreAt (x - 1) y / 2, x % 32 == 0)

/-- A hit changes a word: a corrected group is as it was sent, and an uncorrectable one keeps the bits that it arrived with and is
poisoned (rule R72). -/
def struck (w : XWord) (h : FlitHit) : XWord :=
  if !h.double || 16 ≤ h.group then w
  else (w.1 ^^^ (h.flip.setWidth 2048 <<< (128 * h.group)), w.2 ||| (1#16 <<< h.group))

/-- A link's word as its router receives it (rule R72). -/
def received (s : State) (t q : Nat) : Option XWord :=
  (s.flits.find? (fun f => f.tile == t && f.port == q && f.arrive == s.cycle)).map (fun f =>
    (s.hits.filter (fun h => h.tile == t && h.port == q)).foldl struck (f.word, f.poison))

/-- The words presented on the six input ports. -/
def arriving (s : State) (t i : Nat) : Option XWord :=
  if i < 4 then s.received t i else (s.coreOf (2 * t + (i - 4))).mem.inject

/-- The hit groups of words that arrive at a router on this cycle. -/
def hitsAt (s : State) (t : Nat) (double : Bool) : Nat :=
  (s.hits.filter (fun h => h.tile == t && h.double == double && (s.received t h.port).isSome)).length

/-- One output of a router: a link, an ejection port, or a fence (rules R73, R78, R79, R392). -/
def sendOut (s : State) (t q : Nat) (w : XWord) : State :=
  let x := s.tileAt t
  let d := x.pad + x.detour
  if 4 ≤ q then
    s.onCore (2 * t + (q - 4)) (fun c => { c with mem := { c.mem with ejected := c.mem.ejected ++ [(s.cycle + d, w)] } })
  else
    let r := reticleOf (2 * t)
    let drop := (s.putTile { x with xstat := countIn x.xstat 23 16 1 }).note (2 * t) (.loss 7 (2 * t) 0 0)
    match tileBeyond t q with
    | none => drop
    | some (u, cross) =>
      if cross && (s.ret r).xfence.getLsbD q then drop
      else { s with flits := s.flits ++ [{ tile := u, port := (q + 2) % 4, arrive := s.cycle + 1 + d + (if cross then 3 else 0)
                                           sender := t, word := w.1, poison := w.2 }] }

/-- A router on a cycle of an exchange phase, at offset `o` under phase code `pc` (rules R72, R77, R78, R80). -/
def switchAt (s : State) (t pc o : Nat) : State :=
  let x := s.tileAt t
  let es := activeEntries x pc o
  let bad := es.filter (fun e => entryBad e.2)
  let good := es.filter (fun e => !entryBad e.2)
  let ins := (List.range 6).map (fun i => s.arriving t i)
  let lost := ((List.range 2).filter (fun i =>
    (s.arriving t (4 + i)).isSome && !good.any (fun e => bits e.2 15 13 == 4 + i))).length
  let corr := s.hitsAt t false
  let ue := s.hitsAt t true
  let w1 := countIn (countIn x.xstat 63 48 corr) 47 40 lost
  let w2 := w1 ||| (if bad.isEmpty then 0 else 2) ||| (if ue = 0 then 0 else 1)
  let s1 := if w2 = x.xstat then s else s.putTile { x with xstat := w2 }
  let s2 := bad.foldl (fun s e => s.note (2 * t) (.loss 6 (2 * t) (BitVec.ofNat 18 e.1) 0)) s1
  let s3 := if ue = 0 then s2
    else s2.notes (2 * t) (List.replicate ue (.log (atBit 3 60 ||| atBit (2 * t) 40)) ++ [.loss 4 (2 * t) 0 0])
  let s4 := (List.range 6).foldl (fun s q =>
    match takes good q with
    | none => s
    | some e => (match ins.getD (bits e.2 15 13) none with | some w => s.sendOut t q w | none => s)) s3
  let flits := s4.flits.filter (fun f => !(f.tile == t && f.arrive == s.cycle))
  (List.range 2).foldl (fun s i =>
    if (s.coreOf (2 * t + i)).mem.inject.isSome then
      s.onCore (2 * t + i) (fun c => { c with mem := { c.mem with inject := none } })
    else s) { s4 with flits := flits }

/-- The phase code and the offset from X0 of a tile's exchange phase on this cycle. -/
def phaseAt (s : State) (t : Nat) : Option (Nat × Nat) :=
  (s.ctxOf (2 * t)).bind (fun e => e.2.xphase.bind (fun f =>
    if f.1 ≤ s.cycle && s.cycle < f.1 + f.2.1 then some (f.2.2, s.cycle - f.1) else none))

/-- ROUTER_SWITCH. -/
def routerSwitch (s : State) (t : Nat) : State :=
  match s.phaseAt t with
  | some (pc, o) => s.switchAt t pc o
  | none => s

/-- A router has something to do on this cycle: a word, or an active malformed entry. -/
def routerDue (s : State) (t : Nat) : Bool :=
  match s.phaseAt t with
  | some (pc, o) =>
    (List.range 6).any (fun i => (s.arriving t i).isSome) || (activeEntries (s.tileAt t) pc o).any (fun e => entryBad e.2)
  | none => false

/-- A write of HTAB or HDIR through the tile's window (rule R75). -/
def heddleWrite (s : State) (t o : Nat) (w : Word) : State :=
  let x := s.tileAt t
  let free := match s.partOf (2 * t) with | some p => s.halted p | none => true
  if !free || 0x8400 ≤ o then s
  else if o < 0x8000 then s.putTile { x with htab := tablePut (o / 8) w x.htab }
  else
    let i := (o - 0x8000) / 8 * 2
    let y := w &&& 0x01FFFFFF01FFFFFF
    s.putTile { x with hdir := tablePut (i + 1) (y >>> 32) (tablePut i (y &&& 0xFFFFFFFF) x.hdir) }

/-! ### The loom count (rules R81 to R85) -/

/-- A selvedge has been marked DLYFLT (rule R83). -/
def selFault (s : State) (r sel : Nat) : Bool := (s.ret r).loomst.getLsbD (20 + sel)
/-- SELDLY of a selvedge (rule R82). -/
def selDelay (s : State) (r sel : Nat) : Nat := bits (s.ret r).seldly (31 + 8 * sel) (24 + 8 * sel)

/-- The selvedges of a reticle that take part in alignment: healthy, not marked DLYFLT at either end, with a started copy beyond
(rules R82, R83). -/
def alignSels (s : State) (r : Nat) : List Nat :=
  (List.range 4).filter (fun sel =>
    match neighbour r sel with
    | none => false
    | some n => s.selOk r sel && !s.selFault r sel && !s.selFault n ((sel + 2) % 4) && (s.ret n).loomOn)

/-- A signed value saturated to 16 bits. -/
def sat16 (d : Int) : Nat := (max (-32768) (min 32767 d)).emod 65536 |>.toNat

/-- What a round finds at a reticle (rule R83): a δ to repair, and the selvedges that set NBR. -/
def classify (ds : List (Nat × Int)) (parent : Nat) : Option Int × List Nat :=
  let nz := (ds.filter (fun d => d.2 != 0)).map (·.1)
  match ds with
  | [] => (none, [])
  | (_, d) :: rest =>
    if nz.isEmpty then (none, [])
    else if nz.length < ds.length then (none, nz)
    else if rest.all (fun e => e.2 == d) then (some d, [])
    else match ds.find? (fun e => e.1 == parent) with
      | some e => (some e.2, [])
      | none => (none, nz)

/-- An exchange phase of a partition overlapped the window of fabric cycles between two rounds (rule R85). -/
def exchangedIn (s : State) (p since till : Nat) : Bool :=
  let now := match (s.part p).ctx with
    | some x => (match x.xphase with | some e => [(e.1, s.cycle)] | none => [])
    | none => []
  (now ++ (s.part p).past).any (fun e => decide (e.1 ≤ till) && decide (since ≤ e.2))

/-- A slip of a reticle (rule R85): a loss when an exchange phase of its partition overlapped the window since the round before,
or when δ is 4,096 or more, which no repair of rule R84 mends. What a round shows is the whole slip: an earlier finding is overtaken. -/
def slipped (s : State) (r : Nat) (d : Int) : State :=
  let big := decide (4096 ≤ d.natAbs)
  let x := s.ret r
  let y := if big then { x with realign := some d, repair := none, loomst := x.loomst &&& ~~~1 }
    else { x with repair := some d, realign := none, loomst := x.loomst ||| 1 }
  match s.ctxOf (1024 * r) with
  | none => s.putRet r y
  | some (p, _) =>
    if big || s.exchangedIn p x.before x.opened then
      (s.putRet r { y with loomst := y.loomst ||| 2 }).addLoss p 0x0B 0xFFFF 0 (r * 2 ^ 24 + sat16 d)
    else s.putRet r y

/-- The latest round of a reticle is over, and what its samples showed is classified (rule R83). -/
def classifyRound (s : State) (r : Nat) : State :=
  let x := s.ret r
  if x.deltas.isEmpty then s
  else
    let ds := x.deltas.filterMap (fun e => e.2.map (fun d => (e.1, d)))
    let nz := (ds.filter (fun d => d.2 != 0)).map (·.1)
    let mask := fun (l : List Nat) => BitVec.ofNat 4 (l.foldl (fun m i => m ||| 2 ^ i) 0)
    let (fix, nbr) := classify ds (bits x.loomst 15 12)
    let twice := mask nz &&& x.nonzero
    let st := x.loomst ||| (twice.setWidth 64 <<< 20) ||| ((mask nbr).setWidth 64 <<< 16)
    let s1 := s.putRet r { x with round := none, deltas := [], nonzero := mask nz, loomst := st }
    match fix with
    | some d => s1.slipped r d
    | none => s1

/-- A reticle takes part with a sample: its copy and the selvedge do, and a sample of an extra round counts only where the reticle is
in that round (rules R82, R85; log entries 12 and 84). -/
def takesSample (s : State) (m : Sample) : Bool :=
  let x := s.ret m.ret
  x.loomOn && (s.alignSels m.ret).contains m.sel
    && (m.count.toNat % 65536 == 0 || x.aln || x.round.any (fun n => n.toNat % 65536 != 0))

/-- What a sample gives joins its round, which the first sample begins; a second one over the same selvedge belongs to the next round
(log entry 12). -/
def joinRound (s : State) (r sel : Nat) (d : Option Int) : State :=
  let s1 := if (s.ret r).deltas.any (fun e => e.1 == sel) then s.classifyRound r else s
  let x := s1.ret r
  let y := if x.deltas.isEmpty then { x with before := x.opened, opened := s.cycle - s.selDelay r sel } else x
  s1.putRet r { y with deltas := y.deltas ++ [(sel, d)] }

/-- A sample arrives (rule R82): δ is the own count on this cycle less the sample's count and SELDLY; a bad sample is counted and
gives none. -/
def sampleArrives (s : State) (m : Sample) : State :=
  if !s.takesSample m then s
  else if s.badSamples.contains (m.ret, m.sel) then
    let x := s.ret m.ret
    (({ s with badSamples := s.badSamples.erase (m.ret, m.sel) }).putRet m.ret { x with loomst := countIn x.loomst 31 24 1 }).joinRound
      m.ret m.sel none
  else s.joinRound m.ret m.sel
    (some (s.loomOf m.ret - (m.count + BitVec.ofNat 64 (s.selDelay m.ret m.sel))).toInt)

/-- The samples that arrive on this cycle. -/
def settleSamples (s : State) : State :=
  (s.samples.filter (fun m => decide (m.arrive ≤ s.cycle))).foldl sampleArrives
    { s with samples := s.samples.filter (fun m => decide (s.cycle < m.arrive)) }

/-- A reticle opens a round on this cycle: one that the count brings, or the extra round of GCLK.ALN (rules R82, R85). -/
def opensRound (s : State) (r : Nat) : Bool :=
  let n := (s.loomOf r).toNat
  n % 65536 == 0 || ((s.ret r).aln && n % 4096 == 0)

/-- The selvedges over which a reticle sends a sample on this cycle: all that take part when it opens a round, and those beyond which
an extra round of this count is asked for or open (log entry 84). -/
def sampleSels (s : State) (r : Nat) : List Nat :=
  let n := s.loomOf r
  if n.toNat % 4096 ≠ 0 then []
  else (s.alignSels r).filter (fun sel => s.opensRound r || (match neighbour r sel with
    | some m => (s.ret m).aln || (s.ret m).round == some n
    | none => false))

/-- The samples of a reticle leave, and with its own count it opens a round. -/
def openRound (s : State) (r : Nat) : State :=
  let n := s.loomOf r
  let sent : List Sample := (s.sampleSels r).filterMap (fun (sel : Nat) => (neighbour r sel).map (fun (m : Nat) =>
    { ret := m, sel := (sel + 2) % 4, arrive := s.cycle + crossing r sel, count := n }))
  let s1 := { s with samples := s.samples ++ sent }
  if !s.opensRound r then s1
  else s1.putRet r { s1.ret r with round := some n, aln := false }

/-- A reticle sends samples or opens a round on this cycle. -/
def roundDue (s : State) (r : Nat) : Bool :=
  (s.ret r).loomOn && !(s.ret r).held && (s.opensRound r || !(s.sampleSels r).isEmpty)

/-- The latest round of a reticle is over: every selvedge that takes part has given a sample, or half the time to the next round has
passed (log entry 12). -/
def roundOver (s : State) (r : Nat) : Bool :=
  let x := s.ret r
  !x.deltas.isEmpty && ((s.alignSels r).all (fun sel => x.deltas.any (fun e => e.1 == sel)) || decide (x.opened + 32768 ≤ s.cycle))

/-- LOOM_SAMPLE_ROUND at a reticle: with `m` 0 its samples leave, with 1 the samples of its round are classified. -/
def sampleRound (s : State) (r m : Nat) : State :=
  if m = 0 then (if s.roundDue r then s.openRound r else s)
  else if s.roundOver r then s.classifyRound r else s

/-- The partition of a reticle lets a pending repair be applied now: it is not running, or its barrier has its last arrival and
has not completed (rule R84). -/
def repairTime (s : State) (r : Nat) : Bool :=
  match s.ctxOf (1024 * r) with
  | some (p, x) =>
    (match x.stage with
      | .running => x.xphase.isNone && s.allArrived p && !s.allHalted p
      | .starting => false
      | _ => true)
  | none => true

/-- LOOM_REPAIR: a pending repair is applied (rule R84): the copy jumps forward, or stands still. -/
def loomRepair (s : State) (r : Nat) : State :=
  let x := s.ret r
  match x.repair with
  | none => s
  | some d =>
    if !s.repairTime r then s
    else
      let st := countIn (setBits (setBits x.loomst 0 0 0) 47 32 (sat16 d)) 63 48 1
      let y := { x with repair := none, nonzero := 0, deltas := [], loomst := st }
      let z := if d < 0 then { y with loomBase := y.loomBase + BitVec.ofInt 64 d } else { y with stall := d.toNat }
      let till := s.cycle + (if d < 0 then 1 else d.toNat)
      let s1 := (List.range 4).foldl (fun (s : State) sel =>
        match neighbour r sel with
        | some n => s.putRet n { s.ret n with
            nonzero := (s.ret n).nonzero &&& ~~~(BitVec.ofNat 4 (2 ^ ((sel + 2) % 4))) }
        | none => s) (s.putRet r z)
      match s1.ctxOf (1024 * r) with
      | some (p, c) =>
        s1.onCtx p (fun y => { y with repairEnd := max c.repairEnd till, x0 := none })
      | none => s1

/-! ### The shuttle plane (rules R86 to R89) -/

/-- A write of SHMAPn (rule R88). -/
def shmapWrite (s : State) (r n : Nat) (w : Word) : State :=
  let x := s.region r
  let m := x.shnext.setIfInBounds n w
  let refused := (List.range 64).any (fun k => 6 ≤ slotClass m k && slotClass m k != 15)
  let manages := (List.range 64).any (fun k => slotClass m k == 5)
  if refused || !manages then s.putRegion r { x with shstat := x.shstat ||| 1 }
  else s.putRegion r { x with shnext := m }

/-- The count that times a region's periods, slots and steps: its first reticle's copy. DESIGN CHOICE: the spec names no copy for a
region (log entry 85). -/
def regionLoom (s : State) (r : Nat) : Word := s.loomOf ((regionReticles r).headD 0)
/-- The loom copy of a region's first reticle has been started. -/
def regionOn (s : State) (r : Nat) : Bool := (s.ret ((regionReticles r).headD 0)).loomOn

/-- An event that is due, or nothing. -/
def due (b : Bool) (i : Instr) (a : Arg) : List (Instr × Arg) := if b then [(i, a)] else []

/-- What the count brings a region on this cycle: a period, and a step (rules R87, R399, R401), also where a repair or a slip has carried
the count past its first cycle. -/
def regionTurns (s : State) (r : Nat) : List (Instr × Arg) :=
  let n := (s.regionLoom r).toNat
  let x := s.region r
  let a := { Arg.none with region := r }
  due (s.regionOn r && x.period != some (n / 4096)) .shuttlePeriodStart a
    ++ due (s.regionOn r && x.step != some (n / 320)) .activityStep a

/-- A copy of the count has been started on this cycle: what its count brings its region and itself is still due (rules R82, R87,
R384). -/
def loomStarted (s : State) (r : Nat) : State :=
  let g := regionOfReticle r
  let evs := (if (regionReticles g).headD 0 = r then s.regionTurns g else [])
    ++ due (s.roundDue r) .loomSampleRound { Arg.none with ret := r }
  { s with agenda := s.agenda ++ evs }

/-- A period begins (rules R87 to R89): PERIODS counts it, and accepted maps take effect. A repair that sets the count back into the
period before begins none. -/
def periodStart (s : State) (r : Nat) : State :=
  let x := s.region r
  let n := (s.regionLoom r).toNat / 4096
  if x.period.any (fun p => decide (n < p)) then s.putRegion r { x with period := some n }
  else s.putRegion r { x with
    shmap := x.shnext, shstat := setBits x.shstat 63 32 ((bits x.shstat 63 32 + 1) % 2 ^ 32), period := some n }

/-- The next block of a flit on its way to the router at (x, y): in x first, then in y (rule R86). -/
def nextBlock (b x y : Nat) : Option Nat :=
  let bx := blockX b
  let by_ := blockY b
  if bx < x then some (blockXY (bx + 1) by_) else if x < bx then some (blockXY (bx - 1) by_)
  else if by_ < y then some (blockXY bx (by_ + 1)) else if y < by_ then some (blockXY bx (by_ - 1))
  else none

/-- The router of the rim port of a region's trace ring. -/
def ringRouter (s : State) (r : Nat) : Nat × Nat :=
  let (x, y, _) := s.rimOf (bits (s.region r).trring 55 12 * 4096) 0
  (x, y)

/-- A slot of the trace class begins on this cycle in the region that holds a block's router (rule R87). -/
def traceSlot (s : State) (b : Nat) : Bool :=
  let r := regionOf (64 * b)
  s.regionOn r && slotClass (s.region r).shmap ((s.regionLoom r).toNat) == 4

/-- The trace flits of a router's queue for one output link, those that are still on their way to it included: the link is named
by the block it leads to, or by none for the rim port (rule R87). -/
def traceQueue (s : State) (b : Nat) (out : Option Nat) : List TraceFlit :=
  (List.range 16).flatMap (fun r =>
    let (x, y) := s.ringRouter r
    (s.region r).flits.filter (fun f => f.block == b && nextBlock b x y == out))

/-- A flit heads its queue: no flit has been there longer (rule R87). -/
def headsQueue (s : State) (f : TraceFlit) (out : Option Nat) : Bool :=
  decide (f.ready ≤ s.cycle) && (s.traceQueue f.block out).all (fun g => decide (f.ready ≤ g.ready))

/-- The shuttle link between neighbouring blocks carries traffic: it crosses no cut selvedge (rule R381). -/
def linkWhole (s : State) (b c : Nat) : Bool :=
  let u := b / 16
  let v := c / 16
  u == v || s.selOk u (if v = u + 1 then 1 else if v + 1 = u then 3 else if u < v then 2 else 0)

/-- The link is free for a trace flit on this cycle: the slot is of its class, and no other flit has taken it (rules R86, R87). -/
def linkFree (s : State) (b : Nat) (out : Option Nat) : Bool := s.traceSlot b && !s.hopped.contains (b, out)

/-- A record leaves its core's queue for its block's router (rules R87, R413), when the router's queue has room. -/
def traceEnter (s : State) (k : Nat) : State :=
  let c := s.coreOf k
  let r := regionOf k
  let (x, y) := s.ringRouter r
  match c.aux.traceQ with
  | [] => s
  | t :: rest =>
    if 4 ≤ (s.traceQueue (blockOf k) (nextBlock (blockOf k) x y)).length then s
    else
      let s1 := s.onCore k (fun c => { c with aux := { c.aux with traceQ := rest } })
      let g := s1.region r
      s1.putRegion r { g with flits := g.flits ++ [{ block := blockOf k, ready := s.cycle + 1, record := t }] }

/-- The `i`-th trace flit of a region takes its next hop, in a slot of its class, when it heads its queue and there is room at
the next router (rules R86, R87, R89). -/
def traceHop (s : State) (r i : Nat) : State :=
  let g := s.region r
  let (x, y) := s.ringRouter r
  match g.flits[i]? with
  | none => s
  | some f =>
    match nextBlock f.block x y with
    | none => s
    | some b =>
      if !s.headsQueue f (some b) || !s.linkFree f.block (some b) || !s.linkWhole f.block b
          || 4 ≤ (s.traceQueue b (nextBlock b x y)).length then s
      else
        let cross := f.block / 16 != b / 16
        ({ s with hopped := (f.block, some b) :: s.hopped }).putRegion r { g with
          flits := g.flits.set i { f with block := b, ready := s.cycle + 1 + (if cross then 3 else 0) } }

/-- SHUTTLE_FLIT_HOP: with `sel` 0 the oldest record of a core enters its block's router; with 1, flit `n` of a region hops; with
2, a flit of link transfer `n` arrives, and its bytes move (rule R323). -/
def flitHop (s : State) : State :=
  match s.arg.sel with
  | 0 => s.traceEnter s.arg.core
  | 1 => s.traceHop s.arg.region s.arg.n
  | _ => s.linkGranule s.arg.n

/-- The `i`-th trace flit of a region reaches the ring (rule R413): it is written, or dropped while no ring is in use. -/
def traceWrite (s : State) (r i : Nat) : State :=
  let g := s.region r
  let (x, y) := s.ringRouter r
  match g.flits[i]? with
  | none => s
  | some f =>
    if (nextBlock f.block x y).isSome || !s.headsQueue f none || !s.linkFree f.block none then s
    else
      let rest := g.flits.eraseIdx i
      let s := { s with hopped := (f.block, none) :: s.hopped }
      if !g.trring.getLsbD 63 then
        (s.putRegion r { g with flits := rest, trdrop := min 0xFFFFFFFF (g.trdrop + 1) }).recordLost f.record
      else
        let a := bits g.trring 55 12 * 4096 + 32 * (g.trhead.toNat % 2 ^ bits g.trring 4 0)
        let bs := [f.record.w0, f.record.w1, f.record.w2, f.record.w3].flatMap (fun w => toBytes 8 w.toNat)
        (s.putRegion r { g with flits := rest, trhead := g.trhead + 1 }).writeMem a bs

/-- A write of TRRING (rule R413). -/
def trringSet (s : State) (r : Nat) (w : Word) : State :=
  let n := bits w 4 0
  if n < 7 || 24 < n then s else s.putRegion r { s.region r with trring := w &&& 0x80FFFFFFFFFFF01F }

end State

/-! ### The events -/

/-- A router switches (rule R77): the tile is in `n`. -/
def execRouterSwitch (s : State) : Out := .next (s.routerSwitch s.arg.n)
/-- A window write to HTAB or HDIR (rule R75): the tile in `n`, the offset in `off`. -/
def execHeddleTableWrite (s : State) : Out := .next (s.heddleWrite s.arg.n s.arg.off s.arg.value)
/-- A round of samples at reticle `ret` (rules R82, R83, R85). -/
def execLoomSampleRound (s : State) : Out := .next (s.sampleRound s.arg.ret s.arg.m)
/-- A pending repair of reticle `ret` is applied (rule R84). -/
def execLoomRepair (s : State) : Out := .next (s.loomRepair s.arg.ret)
/-- A shuttle period begins in a region (rules R87, R88). -/
def execShuttlePeriodStart (s : State) : Out := .next (s.periodStart s.arg.region)
/-- A write of SHMAPn (rule R88): n in `n`. -/
def execShmapWrite (s : State) : Out := .next (s.shmapWrite s.arg.region s.arg.n s.arg.value)
/-- A shuttle flit hops (rule R89). -/
def execShuttleFlitHop (s : State) : Out := .next s.flitHop
/-- A trace record reaches its ring (rule R413): flit `n` of region `region`. -/
def execTraceRecordWrite (s : State) : Out := .next (s.traceWrite s.arg.region s.arg.n)
/-- A write of TRRING (rule R413). -/
def execTrringWrite (s : State) : Out := .next (s.trringSet s.arg.region s.arg.value)

end Sys2Proof.Machine
end

