-- ==== Sys2Proof/Machine/Spares.lean ====
section
/-! DEFINITION. Spare tiles and the defect maps (rules R387 to R391), and what the self-test of B1 makes of them (rules R379,
R389). -/

namespace Sys2Proof.Machine

/-! ### A block entry (rule R391) -/

/-- One block entry of a defect map, as its 32 bits. -/
abbrev BlockEntry := BitVec 32

namespace BlockEntry
def short (e : BlockEntry) : Bool := e.getLsbD 31
def bdir (e : BlockEntry) : Nat := (e.extractLsb' 29 2).toNat
def brow (e : BlockEntry) : Nat := (e.extractLsb' 27 2).toNat
def bcol (e : BlockEntry) : Nat := (e.extractLsb' 24 3).toNat
def lent (e : BlockEntry) (r : Nat) : Bool := e.getLsbD (20 + r)
def defect (e : BlockEntry) (r : Nat) : Bool := e.getLsbD (16 + r)
/-- The bypassed column of a row; 0xF none. -/
def bypass (e : BlockEntry) (r : Nat) : Nat := (e.extractLsb' (4 * r) 4).toNat

/-- The entry is malformed. -/
def malformed (e : BlockEntry) : Bool :=
  (List.range 4).any (fun r =>
    (decide (9 ≤ e.bypass r) && e.bypass r != 15) || (e.lent r && e.bypass r != 15)
      || e.defect r != (e.bypass r != 15 || (e.short && e.brow == r)))
    || (!e.short && (e.bdir != 0 || e.brow != 0 || e.bcol != 0))

/-- The physical column that serves a logical column of a row (rule R387). -/
def physical (e : BlockEntry) (r c : Nat) : Nat := if e.bypass r ≤ 8 && e.bypass r ≤ c then c + 1 else c

/-- The row's spare is neither used nor lent (rule R388). -/
def spareFree (e : BlockEntry) (r : Nat) : Bool := e.bypass r == 15 && !e.lent r

/-- A row takes a bypass. -/
def setBypass (e : BlockEntry) (r c : Nat) : BlockEntry :=
  (e &&& ~~~((0xF : BitVec 32) <<< (4 * r))) ||| (BitVec.ofNat 32 c <<< (4 * r)) ||| (1 <<< (16 + r))
/-- The row's spare is lent. -/
def lend (e : BlockEntry) (r : Nat) : BlockEntry := e ||| (1 <<< (20 + r))
/-- The row's spare is lent no longer. -/
def takeBack (e : BlockEntry) (r : Nat) : BlockEntry := e &&& ~~~((1 : BitVec 32) <<< (20 + r))
/-- A position of the block is borrowed, from the lender in a direction. -/
def borrow (e : BlockEntry) (dir r c : Nat) : BlockEntry :=
  (e &&& ~~~((3 : BitVec 32) <<< 29)) ||| (1 <<< 31) ||| (BitVec.ofNat 32 dir <<< 29) ||| (BitVec.ofNat 32 r <<< 27) ||| (BitVec.ofNat 32 c <<< 24)
    ||| (1 <<< (16 + r))
end BlockEntry

/-! ### A reticle's section (rule R390) -/

/-- The block entries of a section. -/
def mapEntry (ws : List Word) (b : Nat) : BlockEntry := (ws.getD (1 + b / 2) 0).extractLsb' (32 * (b % 2)) 32
def mapPut (ws : List Word) (b : Nat) (e : BlockEntry) : List Word :=
  ws.set (1 + b / 2) (setBits (ws.getD (1 + b / 2) 0) (32 * (b % 2) + 31) (32 * (b % 2)) e.toNat)

/-- The check code over bytes 0x00 to 0x47. -/
def mapCrc (ws : List Word) : BitVec 32 := crc32 ((ws.take 9).flatMap (fun w => toBytes 8 w.toNat))

/-- The fuse check of a reticle's section (rules R379, R390, R391). -/
def mapSound (r : Nat) (ws : List Word) : Bool :=
  let w := ws.getD 0 0
  bits w 57 52 == r && bits w 47 40 == 1 && bits w 39 0 == 0 && decide (bits w 63 58 < 48) && bits (ws.getD 9 0) 63 32 == 0
    && bits (ws.getD 9 0) 31 0 == (mapCrc ws).toNat && (List.range 16).all (fun b => !(mapEntry ws b).malformed)

/-- A reticle's fused rank. -/
def mapRank (ws : List Word) : Nat := bits (ws.getD 0 0) 63 58

/-! ### Lenders (rule R388) -/

/-- The neighbour of a block in a direction (0 N, 1 E, 2 S, 3 W), in the same reticle, and the row whose spare it lends. -/
def lenderOf (b dir row : Nat) : Option (Nat × Nat) :=
  match dir with
  | 0 => if b / 4 = 0 then none else some (b - 4, 3)
  | 1 => if b % 4 = 3 then none else some (b + 1, row)
  | 2 => if b / 4 = 3 then none else some (b + 4, 0)
  | _ => if b % 4 = 0 then none else some (b - 1, row)

/-- The first neighbour that qualifies, in the order E, W, N, S; `bad` tells which physical tiles of the reticle are defective. -/
def findLender (bad : Nat → Nat → Nat → Bool) (ws : List Word) (b row : Nat) : Option (Nat × Nat × Nat) :=
  [1, 3, 0, 2].findSome? (fun dir =>
    match lenderOf b dir row with
    | some (l, r) => if (mapEntry ws l).spareFree r && !bad l r 8 then some (dir, l, r) else none
    | none => none)

/-- The block that borrows the spare of a row of a block. -/
def borrowerOf (ws : List Word) (b row : Nat) : Option Nat :=
  (List.range 16).find? (fun x =>
    let e := mapEntry ws x
    e.short && lenderOf x e.bdir e.brow == some (b, row))

/-- A block borrows for a position from the first neighbour that qualifies: the map, or the block that cannot be placed. -/
def borrowFor (bad : Nat → Nat → Nat → Bool) (ws : List Word) (b row c : Nat) : List Word × Option Nat :=
  match findLender bad ws b row with
  | none => (ws, some b)
  | some (dir, l, r) =>
    let ws1 := mapPut ws b ((mapEntry ws b).borrow dir row c)
    (mapPut ws1 l ((mapEntry ws1 l).lend r), none)

/-- One newly found defective tile enters the live map (rules R387 to R389): the map, and the block that can no longer be placed.
A spare that serves a neighbour is no longer healthy, so its borrower takes its next lender. -/
def addDefect (bad : Nat → Nat → Nat → Bool) (ws : List Word) (b row col : Nat) : List Word × Option Nat :=
  let e := mapEntry ws b
  let serves := (List.range 8).find? (fun c => e.physical row c == col)
  match serves with
  | none =>
    if e.bypass row != 15 then (ws, none)
    else
      let ws1 := mapPut ws b ((e.takeBack row).setBypass row col)
      match (if e.lent row then borrowerOf ws b row else none) with
      | none => (ws1, none)
      | some x => borrowFor bad ws1 x (mapEntry ws x).brow (mapEntry ws x).bcol
  | some c =>
    if e.short && e.brow == row && e.bcol == c then (ws, none)
    else if e.spareFree row then (mapPut ws b (e.setBypass row col), none)
    else if e.short then (ws, some b)
    else borrowFor bad ws b row c

/-- The live map of a reticle and the blocks that cannot be placed (rule R389): the fused map with every newly found defect, in
ascending block order. -/
def liveMap (bad : Nat → Nat → Nat → Bool) (fused : List Word) : List Word × List Nat :=
  let found := (List.range 16).flatMap (fun b => (List.range 4).flatMap (fun row =>
    ((List.range 9).filter (bad b row)).map (fun col => (b, row, col))))
  let out := found.foldl (fun (st : List Word × List Nat) d =>
    let (ws, lost) := addDefect bad st.1 d.1 d.2.1 d.2.2
    (ws, (st.2 ++ lost.toList).eraseDups)) (fused, [])
  (out.1.set 9 (setBits (out.1.getD 9 0) 31 0 (mapCrc out.1).toNat), out.2)

/-- The borrowed positions of a reticle: the block, the tile of the block, and the detour (rule R388). -/
def borrowed (ws : List Word) : List (Nat × Nat × Nat) :=
  (List.range 16).filterMap (fun b =>
    let e := mapEntry ws b
    if e.short then some (b, 8 * e.brow + e.bcol, if e.bdir % 2 = 1 then 2 else 4) else none)

/-- A block whose rows' spares are all used or lent (rule R397). -/
def noSpare (e : BlockEntry) : Bool := (List.range 4).all (fun r => !e.spareFree r)

namespace State

/-- What B1 leaves at a core (rules R70, R379): local space and IMEM are zero with valid check bits, and its latch format is 0. -/
def selfTested (c : Core) : Core :=
  { c with
    mem := { c.mem with loc := .empty, imem := .empty, bad := [], imemBad := [], soft := [], imemSoft := [], codeLines := [] }
    aux := { c.aux with fixes := [] }
    reg := { c.reg with latchFmt := 0 } }

/-- B1's outcome at a reticle (rules R379, R389): cleared cores and routers, the live map, the detours of borrowed tiles, BADB, and
whether it is dead. -/
def selfTest (s : State) (r : Nat) : State :=
  let x := s.ret r
  let (ws, lost) := liveMap (Config.selfTestFails r) x.fused
  let dead := !Config.romSound r || !mapSound r x.fused || !lost.isEmpty
  let st := setBits x.bootst 23 16 (min 255 lost.length)
  let s0 := s.mapCores (fun c => if reticleOf c.idx = r then selfTested c else c)
  let s0 : State := { s0 with tiles := s0.tiles.map (fun (t : Tile) =>
    if reticleOf (2 * t.idx) = r then { t with htab := [], hdir := [], xstat := 0 } else t) }
  let s1 := s0.putRet r { x with
    live := ws
    bootst := if dead then setBits st 63 60 7 else st
    boot := { x.boot with
      stage := if dead then .dead else .b1 } }
  (borrowed ws).foldl (fun s e =>
    let t := s.tileAt (r * 512 + 32 * e.1 + e.2.1)
    s.putTile { t with detour := e.2.2 }) s1

end State

end Sys2Proof.Machine
end

