-- ==== Sys2Proof/Machine/Boot.lean ====
section
/-! DEFINITION. Boot: stages, messages on the management sidebands, election, enumeration and start (rules R379 to R386, R397,
R398). Fields of a message's payload stand as log entry 24 says. -/

namespace Sys2Proof.Machine

/-! ### Times, in fabric cycles of 0.625 ns since power-good (rules R1, R379) -/

def electionAt : Nat := 42 * cyclesPerMs
def enumerationAt : Nat := 43 * cyclesPerMs
def deadlineAt : Nat := 93 * cyclesPerMs
/-- The spacing of probes on a selvedge (log entry 24). -/
def probeGap : Nat := 640
/-- The pattern of a probe (log entry 24). -/
def probePattern (n : Nat) : Nat := (n * 0x9E3779B1 + 0x7F4A7C15) % 2 ^ 32

/-! ### Messages (rule R380) -/

/-- The 16 bytes of a message. -/
def bootBytes (type sender rank : Nat) (payload : List Nat) : List Byte :=
  let body := ([type, sender, rank] ++ payload ++ List.replicate (9 - payload.length) 0).map (BitVec.ofNat 8)
  body ++ toBytes 4 (crc32 body).toNat

/-- A message is accepted: its code is right and its type is listed. -/
def bootSound (bs : List Byte) : Bool :=
  let t := (bs.getD 0 0).toNat
  bs.length == 16 && ofBytes (bs.drop 12) == (crc32 (bs.take 12)).toNat && decide (1 ≤ t) && decide (t ≤ 9)

/-- Payload byte `i`, from byte 3 of the message on, and a payload number of `n` bytes. -/
def payloadAt (bs : List Byte) (i : Nat) : Nat := (bs.getD (3 + i) 0).toNat
def payloadNat (bs : List Byte) (i n : Nat) : Nat := ofBytes ((bs.drop (3 + i)).take n)
def payloadOf (n x : Nat) : List Nat := (toBytes n x).map (·.toNat)

namespace State

def boot (s : State) (r : Nat) : Boot := (s.ret r).boot
def onBoot (s : State) (r : Nat) (f : Boot → Boot) : State :=
  let x := s.ret r
  s.putRet r { x with boot := f x.boot }
/-- A field of BOOTST. -/
def setBootst (s : State) (r hi lo v : Nat) : State :=
  let x := s.ret r
  s.putRet r { x with bootst := setBits x.bootst hi lo v }
/-- A service core enters a stage, and BOOTST.STATE names it (rule R386). -/
def enterStage (s : State) (r : Nat) (g : BootStage) : State :=
  let n := match g with
    | .b1 => 0 | .b2 => 1 | .b3 => 2 | .b4 => 3 | .running => 4 | .withheld => 5 | .isolated => 6 | .dead => 7
  (s.onBoot r (fun b => { b with stage := g })).setBootst r 63 60 n

/-- A message on a selvedge, at a given cycle. -/
def postAt (s : State) (r sel t : Nat) (bs : List Byte) : State :=
  match neighbour r sel with
  | none => s
  | some n => { s with bootMsgs := s.bootMsgs ++
      [{ arrive := t + crossing r sel, ret := n, sel := (sel + 2) % 4, bytes := bs }] }
/-- The cycle on which a selvedge's sideband can take a message that is ready on a given cycle: one per 64 cycles. -/
def sendTime (s : State) (r sel t : Nat) : Nat := max t ((s.boot r).sideband.getD sel 0)
/-- A message is sent as soon as the sideband is free. -/
def post (s : State) (r sel t type : Nat) (payload : Nat → List Nat) : State :=
  let u := s.sendTime r sel t
  (s.postAt r sel u (bootBytes type r (mapRank (s.ret r).fused) (payload u))).onBoot r (fun b =>
    { b with sideband := b.sideband.setIfInBounds sel (u + 64) })

/-- A reticle's boot counter (rule R379). -/
def bootTime (s : State) (r : Nat) : Nat := s.cycle - (s.boot r).start
/-- A reticle takes part in boot: it is not dead (rule R379). -/
def bootLive (s : State) (r : Nat) : Bool := (s.boot r).stage != .dead
/-- A selvedge that both ends have called OK (rule R381). -/
def bootHealthy (s : State) (r sel : Nat) : Bool := (s.boot r).judged.getLsbD sel && (s.boot r).called.getLsbD sel
def healthySels (s : State) (r : Nat) : List Nat := (List.range 4).filter (s.bootHealthy r)

/-! ### Failures (rules R381, R385) -/

/-- A selvedge between two reticles is cut: it is not healthy at one of its ends (rule R381). -/
def cut (s : State) (r sel : Nat) : Bool :=
  match neighbour r sel with
  | none => true
  | some n => !s.bootHealthy r sel || !s.bootHealthy n ((sel + 2) % 4) || !s.bootLive r || !s.bootLive n

/-- The reasons of RADV that boot finds (rules R385, R397). -/
def bootReasons (s : State) (leader : Nat) (present : List Nat) : List Nat :=
  let all := List.range 48
  let live := all.filter s.bootLive
  let away := live.filter (fun r => !present.contains r)
  let sameTree := fun (r : Nat) => (s.boot r).anyUl && (s.boot r).best == (s.boot leader).best
  let entries := all.flatMap (fun r => (List.range 16).map (mapEntry (s.ret r).live))
  (if entries.any noSpare then [0] else [])
    ++ (if entries.any (·.short) then [1] else [])
    ++ (if all.any (fun r => bits (s.ret r).bootst 23 16 != 0) then [2] else [])
    ++ (if live.length < 48 then [3] else [])
    ++ (if live.any (fun r => [1, 2].any (fun sel => match neighbour r sel with
        | some n => s.bootLive n && s.cut r sel
        | none => false)) then [4] else [])
    ++ (if away.any (fun r => !sameTree r) then [5] else [])
    ++ (if away.any sameTree then [6] else [])

/-- No component has a path to an Uller port (rule R385): every region is withheld, and the reasons of the same failures are raised
with NOHOST. -/
def noHost (s : State) : State :=
  if (List.range 48).all (fun r => match (s.boot r).stage with | .dead => true | .isolated => true | _ => false) then
    (s.bootReasons 0 []).foldl advise
      (({ s with module := { s.module with topo := s.module.topo.setIfInBounds 1 0xFFFF } }).advise 7)
  else s

/-! ### Power-good and the link test (rules R379, R381) -/

/-- POWER_GOOD: every reticle starts its boot counter and its self-test, at most 100 µs after the first. -/
def powerGood (s : State) : State :=
  if s.power && s.cycle != 0 then s
  else { s with
    power := true
    reticles := Vector.ofFn (fun (i : Fin 48) => { s.ret i.val with
      boot := { Boot.reset with start := s.cycle + Config.bootSkew i.val % 160001 } }) }

/-- The next probe of B2 leaves on every selvedge. -/
def sendProbe (s : State) (r : Nat) : State :=
  let i := (s.boot r).probes
  let s1 := (List.range 4).foldl (fun s sel =>
    (s.post r sel s.cycle 1 (fun _ => payloadOf 4 i ++ payloadOf 4 (probePattern i))).onBoot r (fun b => { b with
      sent := b.sent.setIfInBounds sel (b.sent.getD sel [] ++ [s.sendTime r sel s.cycle]) })) s
  s1.onBoot r (fun b => { b with probes := i + 1 })

/-- The boot time of a reticle's first probe: neighbours, whose row and column sum to different parities, take turns, so that no echo
meets a probe of its own reticle on the sideband (rules R380, R381; log entry 24). -/
def probesFrom (r : Nat) : Nat := linkTestAt + (r % 8 + r / 8) % 2 * cyclesPerMs

/-- A probe is due (rule R381; log entry 24). -/
def probeDue (s : State) (r : Nat) : Bool :=
  let i := (s.boot r).probes
  decide (i < 1024) && decide (probesFrom r + probeGap * i ≤ s.bootTime r)

/-- B2_LINK_TEST: the outcome of B1 stands, and a live reticle sends its probes, one by one. -/
def linkTest (s : State) (r : Nat) : State :=
  match (s.boot r).stage with
  | .b1 =>
    if s.bootTime r < linkTestAt then s
    else
      let s1 := s.selfTest r
      if s1.bootLive r then
        let s2 := s1.enterStage r .b2
        if s2.probeDue r then s2.sendProbe r else s2
      else s1.noHost
  | .b2 => if s.probeDue r then s.sendProbe r else s
  | _ => s

/-- The reticle sends nothing, since it is dead: what B1 finds holds before its own B2 begins, too (rule R379). -/
def mute (s : State) (r : Nat) : Bool :=
  match (s.boot r).stage with
  | .b1 => !(s.selfTest r).bootLive r
  | _ => !s.bootLive r

/-- LPROBE: the echo leaves 16 cycles after receipt. -/
def lprobe (s : State) (r sel : Nat) (bs : List Byte) : State :=
  if s.mute r then s else s.post r sel (s.cycle + 16) 2 (fun _ => payloadOf 8 (payloadNat bs 0 8))

/-- LECHO: a matching echo within 512 cycles of its probe counts. -/
def lecho (s : State) (r sel : Nat) (bs : List Byte) : State :=
  let i := payloadNat bs 0 4
  let left := (s.boot r).sent.getD sel []
  let trip := s.cycle - left.getD i 0
  if (s.boot r).stage != .b2 || left.length ≤ i || payloadNat bs 4 4 != probePattern i || 512 < trip then s
  else s.onBoot r (fun b => { b with echoes := b.echoes.setIfInBounds sel (b.echoes.getD sel [] ++ [trip]) })

/-- The median of round trips, and the delay that it gives (rule R381). -/
def median (xs : List Nat) : Nat := (xs.mergeSort (fun a b => decide (a ≤ b))).getD (xs.length / 2) 0
def delayOf (xs : List Nat) : Nat := (median xs - 16) / 2

/-! ### Election (rule R382) -/

/-- B3_ELECTION: a reticle judges its selvedges and writes the delay of each that has echoed, where SELDLY has room for it, and its election
begins. -/
def b3 (s : State) (r : Nat) : State :=
  if (s.boot r).stage != .b2 || s.bootTime r < electionAt then s
  else
    let b := s.boot r
    let sels := (List.range 4).filter (fun sel => (neighbour r sel).isSome)
    let echoes := fun sel => b.echoes.getD sel []
    let good := sels.filter (fun sel => decide (1016 ≤ (echoes sel).length) && decide (delayOf (echoes sel) ≤ 255))
    let missed := sels.foldl (fun n sel => n + (1024 - (echoes sel).length)) 0
    let timed := sels.filter (fun sel => !(echoes sel).isEmpty && decide (delayOf (echoes sel) ≤ 255))
    let dly : Word := timed.foldl (fun w sel => w ||| atBit (delayOf (echoes sel)) (24 + 8 * sel)) 0
    let x := s.ret r
    let s1 := s.putRet r { x with
      seldly := dly, bootst := setBits x.bootst 15 0 (min 0xFFFF missed)
      boot := { b with
        judged := BitVec.ofNat 4 (good.foldl (fun m i => m ||| 2 ^ i) 0), anyUl := b.ul, best := (mapRank x.fused, r), round := 0 } }
    s1.enterStage r .b3

/-- ELECTION_ROUND: round 0 goes to every selvedge and tells its judgment; the others go to healthy ones. -/
def electionRound (s : State) (r : Nat) : State :=
  let b := s.boot r
  if b.stage != .b3 || 48 ≤ b.round || s.bootTime r < electionAt + 20 * cyclesPerUs * b.round then s
  else
    let sels := if b.round = 0 then List.range 4 else s.healthySels r
    let s1 := sels.foldl (fun s sel => s.post r sel s.cycle 3 (fun _ =>
      [b.round, (b.judged.getLsbD sel).toNat + 2 * b.anyUl.toNat, b.best.1, b.best.2])) s
    s1.onBoot r (fun b => { b with round := b.round + 1 })

/-- The lesser of two pairs of rank and reticle number. -/
def lessPair (a b : Nat × Nat) : Nat × Nat := if b.1 < a.1 || (b.1 == a.1 && b.2 < a.2) then b else a

/-- ELECT: the first one tells the other end's judgment; each merges UL and the least pair over a healthy selvedge. -/
def elect (s : State) (r sel : Nat) (bs : List Byte) : State :=
  let flags := payloadAt bs 1
  if (s.boot r).stage != .b3 then s
  else
    let s1 := if payloadAt bs 0 = 0 && flags % 2 = 1 then
        s.onBoot r (fun b => { b with called := b.called ||| BitVec.ofNat 4 (2 ^ sel) })
      else s
    if !s1.bootHealthy r sel then s1
    else s1.onBoot r (fun b => { b with
      anyUl := b.anyUl || flags / 2 % 2 == 1, best := lessPair b.best (payloadAt bs 2, payloadAt bs 3) })

/-! ### Enumeration (rule R383) -/

/-- ENUM goes out on selvedges, and an answer is awaited on each. -/
def sendEnums (s : State) (r : Nat) (sels : List Nat) : State :=
  let b := s.boot r
  let s1 := sels.foldl (fun s sel => s.post r sel s.cycle 4 (fun _ => [b.best.2, b.depth])) s
  let fresh : List Child := sels.map (fun (sel : Nat) =>
    { sel := sel, accepted := false, heard := s.cycle, pieces := [], whole := false })
  s1.onBoot r (fun b => { b with children := b.children ++ fresh })

/-- A reticle's report, one piece to a message, once all of its children have reported or timed out (rule R383). -/
def tryReport (s : State) (r : Nat) : State :=
  let b := s.boot r
  match b.parent with
  | none => s
  | some up =>
    if b.stage != .b4 || b.reported || !b.children.all (·.whole) then s
    else
      let pieces := (s.ret r).live ++ b.children.flatMap (·.pieces)
      let s1 := ((List.range pieces.length).zip pieces).foldl (fun s p =>
        s.post r up s.cycle 7 (fun _ => payloadOf 8 p.2.toNat ++ [if p.1 + 1 = pieces.length then 1 else 0])) s
      s1.onBoot r (fun b => { b with reported := true })

/-- B4_ENUMERATION: the election is over; the leader sends ENUM, and claims the module; a component without a leader is
isolated. -/
def b4 (s : State) (r : Nat) : State :=
  let b := s.boot r
  if b.stage != .b3 || s.bootTime r < enumerationAt then s
  else
    let ok := (s.healthySels r).foldl (fun m i => m ||| 2 ^ i) 0
    let s1 := (s.enterStage r .b4).setBootst r 51 48 ok
    if !b.anyUl then (s1.enterStage r .isolated).noHost
    else
      let s2 := s1.setBootst r 57 52 b.best.2
      if b.best.2 != r then s2
      else
        let x := s2.ret r
        let s3 := (s2.putRet r { x with loomst := setBits x.loomst 15 12 0xF }).setBootst r 59 58 1
        let s4 := (s3.onBoot r (fun b => { b with inTree := true })).sendEnums r (s3.healthySels r)
        { s4 with module := { s4.module with
          claims := s4.module.claims ++ [(b.best.1, r)], claimAt := s4.module.claimAt.or (some s.cycle) } }

/-- ENUM: the first sets the parent; a later one is refused; one after the deadline is ignored (rules R383, R398). -/
def enum (s : State) (r sel : Nat) (bs : List Byte) : State :=
  let b := s.boot r
  if b.stage != .b4 || deadlineAt ≤ s.bootTime r || !s.bootHealthy r sel then s
  else if b.inTree then s.post r sel s.cycle 6 (fun _ => [])
  else
    let d := payloadAt bs 1 + 1
    let x := s.ret r
    let s1 := (s.putRet r { x with
      loomst := setBits x.loomst 15 12 sel, boot := { b with inTree := true, parent := some sel, depth := d } }).setBootst r 47 40 d
    let s2 := s1.post r sel s.cycle 5 (fun _ => [])
    (s2.sendEnums r ((s2.healthySels r).filter (· != sel))).tryReport r

def onChild (s : State) (r sel : Nat) (f : Child → Child) : State :=
  s.onBoot r (fun b => { b with children := b.children.map (fun c => if c.sel = sel then f c else c) })
def dropChild (s : State) (r sel : Nat) : State :=
  (s.onBoot r (fun b => { b with children := b.children.filter (fun c => c.sel != sel) })).tryReport r

/-- ACCEPT: the neighbour is a child. -/
def accept (s : State) (r sel : Nat) : State := s.onChild r sel (fun c => { c with accepted := true, heard := s.cycle })
/-- REFUSE: the neighbour is none. -/
def refuse (s : State) (r sel : Nat) : State := s.dropChild r sel
/-- REPORT: one piece of a child's report. -/
def report (s : State) (r sel : Nat) (bs : List Byte) : State :=
  (s.onChild r sel (fun c => if !c.accepted || c.whole then c else
    { c with heard := s.cycle, pieces := c.pieces ++ [BitVec.ofNat 64 (payloadNat bs 0 8)]
             whole := payloadAt bs 8 == 1 })).tryReport r

/-- A child is timed out (rule R383): no answer within 100 µs, or a gap of more than 1 ms between pieces. -/
def childLate (s : State) (c : Child) : Bool :=
  (!c.accepted && decide (c.heard + 100 * cyclesPerUs < s.cycle))
    || (c.accepted && !c.pieces.isEmpty && !c.whole && decide (c.heard + cyclesPerMs < s.cycle))
/-- ENUM_TIMEOUT: the child's whole subtree is absent. -/
def enumTimeout (s : State) (r sel : Nat) : State :=
  if (s.boot r).children.any (fun c => c.sel == sel && s.childLate c) then s.dropChild r sel else s

/-- ENUMERATION_DEADLINE: a live reticle without DONE is withheld (rule R383). -/
def deadline (s : State) (r : Nat) : State :=
  let b := s.boot r
  if s.bootTime r < deadlineAt || b.finished then s
  else match b.stage with
    | .b4 => s.enterStage r .withheld
    | _ => s

/-! ### Claims and the start (rules R384, R385) -/

/-- 500 µs have passed since the first claim (rule R384). -/
def claimsClose (s : State) : Bool := s.module.claimAt.any (fun t => decide (t + 500 * cyclesPerUs ≤ s.cycle))

/-- ULLER_CLAIM_GRANT: the endpoint grants the lowest claim of 500 µs; a refused leader's component is withheld. -/
def claimGrant (s : State) : State :=
  match s.module.claims with
  | [] => s
  | c :: cs =>
    if !s.claimsClose then s
    else
      let win := cs.foldl lessPair c
      let lost := (c :: cs).filter (fun d => d != win)
      let s1 := { s with module := { s.module with granted := true, claims := [win] } }
      lost.foldl (fun s d =>
        let s2 := s.setBootst d.2 59 58 2
        (List.range 48).foldl (fun s r =>
          if (s.boot r).best == d && (s.boot r).stage == .b4 then s.enterStage r .withheld else s) s2) s1

/-- The reticles of a leader's map: itself and those whose sections have been reported (rule R383). -/
def mapped (s : State) (r : Nat) : List Nat :=
  let ws := (s.boot r).children.flatMap (·.pieces)
  r :: (List.range (ws.length / 10)).map (fun i => bits (ws.getD (10 * i) 0) 57 52)

/-- The topology registers (rules R385, R386). -/
def topology (s : State) (leader : Nat) (present : List Nat) : State :=
  let mask := fun (xs : List Nat) => xs.foldl (fun m i => m ||| 2 ^ i) 0
  let all := List.range 48
  let inner := fun (r : Nat) => [1, 2].any (fun sel => match neighbour r sel with
    | some n => regionOfReticle n == regionOfReticle r && s.cut r sel
    | none => false)
  let held := (List.range 16).filter (fun g =>
    all.any (fun r => regionOfReticle r == g && (!present.contains r || inner r)))
  let t2 := mask ((all.filter (fun r => r % 8 < 7 && s.cut r 1)).map (fun r => 7 * (r / 8) + r % 8))
  let t3 := mask (all.filter (fun r => r < 40 && s.cut r 2))
  { s with module := { s.module with topo := #v[
      BitVec.ofNat 64 (mask present), BitVec.ofNat 64 (mask held) ||| atBit leader 16,
      BitVec.ofNat 64 t2, BitVec.ofNat 64 t3] } }

/-- B4 is over at a leader that has been granted: every child has reported or timed out. -/
def b5Due (s : State) (r : Nat) : Bool :=
  let b := s.boot r
  b.stage == .b4 && b.best.2 == r && b.inTree && !b.finished && b.children.all (·.whole) && s.module.granted
    && s.module.claims.any (fun c => c.2 == r)

/-- LSTART and DONE go to the children: each LSTART carries the sender's count on its send cycle (rules R380, R384). -/
def sendStart (s : State) (r : Nat) : State :=
  (s.boot r).children.foldl (fun s c =>
    s.post r c.sel s.cycle 8 (fun u => payloadOf 8 (s.loomOf r + BitVec.ofNat 64 (u - s.cycle)).toNat)) s
def sendDone (s : State) (r : Nat) : State :=
  (s.boot r).children.foldl (fun s c => s.post r c.sel s.cycle 9 (fun _ => [(s.boot r).best.2])) s

/-- A reticle runs. -/
def bootDone (s : State) (r : Nat) : State :=
  (((s.onBoot r (fun b => { b with finished := true })).enterStage r .running)).sendDone r

/-- B5_START: the leader starts the loom count, writes the topology registers and sends LSTART and DONE. -/
def b5 (s : State) (r : Nat) : State :=
  if !s.b5Due r then s
  else
    let x := s.ret r
    let s1 := s.putRet r { x with loomOn := true, loomBase := BitVec.ofNat 64 s.cycle, opened := s.cycle, before := s.cycle }
    let present := s1.mapped r
    let s2 := (s1.topology r present).sendStart r
    let s3 := s2.bootDone r
    ((s3.bootReasons r present).foldl advise s3).loomStarted r

/-- LSTART: the copy is set from the parent's count, and LSTART goes on (rule R384). -/
def lstart (s : State) (r sel : Nat) (bs : List Byte) : State :=
  let x := s.ret r
  if x.boot.parent != some sel || x.loomOn then s
  else
    let v := payloadNat bs 0 8 + s.selDelay r sel
    ((s.putRet r { x with
      loomOn := true, loomBase := BitVec.ofNat 64 s.cycle - BitVec.ofNat 64 v
      opened := s.cycle, before := s.cycle }).sendStart r).loomStarted r

/-- DONE from the parent (rules R383, R384, R398). -/
def done (s : State) (r sel : Nat) : State :=
  let b := s.boot r
  if b.parent != some sel || b.finished || b.stage != .b4 then s else s.bootDone r

/-! ### The events that are due -/

/-- The events of boot on a fabric cycle, apart from messages. -/
def bootDue (s : State) (r : Nat) : List (Instr × Arg) :=
  let b := s.boot r
  let a := { Arg.none with ret := r }
  let t := s.bootTime r
  match b.stage with
  | .b1 => due (decide (linkTestAt ≤ t)) .b2LinkTest a
  | .b2 => if s.probeDue r then [(.b2LinkTest, a)] else due (decide (electionAt ≤ t)) .b3Election a
  | .b3 =>
    if b.round < 48 && electionAt + 20 * cyclesPerUs * b.round ≤ t then [(.electionRound, a)]
    else due (decide (enumerationAt ≤ t)) .b4Enumeration a
  | .b4 =>
    (b.children.filter s.childLate).map (fun c => (.enumTimeout, { a with sel := c.sel }))
      ++ due (s.b5Due r) .b5Start a
      ++ due (decide (deadlineAt ≤ t) && !b.finished) .enumerationDeadline a
  | _ => []

/-- A message that has arrived before its stage has begun at the receiver waits for it: ELECT for B3, ENUM for B4 (log entry 87). -/
def msgWaits (s : State) (m : BootMsg) : Bool :=
  match (s.boot m.ret).stage, (m.bytes.getD 0 0).toNat with
  | .b1, 3 => true | .b2, 3 => true | .b1, 4 => true | .b2, 4 => true | .b3, 4 => true
  | _, _ => false

/-- Messages in the order of their arrival; those of one cycle keep their order. -/
def insertMsg (m : BootMsg) : List BootMsg → List BootMsg
  | [] => [m]
  | x :: xs => if x.arrive ≤ m.arrive then x :: insertMsg m xs else m :: x :: xs

/-- A message is taken on this cycle. -/
def msgTaken (s : State) (m : BootMsg) : Bool := decide (m.arrive ≤ s.cycle) && !s.msgWaits m

/-- The event of a message. -/
def bootEvent (m : BootMsg) : Option (Instr × Arg) :=
  let a := { Arg.none with ret := m.ret, sel := m.sel, bytes := m.bytes }
  match (m.bytes.getD 0 0).toNat with
  | 1 => some (.lprobe, a) | 2 => some (.lecho, a) | 3 => some (.elect, a) | 4 => some (.enum, a)
  | 5 => some (.accept, a) | 6 => some (.refuse, a) | 7 => some (.report, a) | 8 => some (.lstart, a)
  | 9 => some (.done, a) | _ => none

/-- A message event acts when its message is accepted, on a reticle that is not dead (rules R379, R380). -/
def heard (s : State) (type : Nat) (f : State → Nat → Nat → List Byte → State) : State :=
  if bootSound s.arg.bytes && (s.arg.bytes.getD 0 0).toNat == type && s.bootLive s.arg.ret
  then f s s.arg.ret s.arg.sel s.arg.bytes else s

end State

/-! ### The events, with the reticle in `ret`, the receiver's selvedge in `sel` and the message in `bytes` -/

/-- Power-good (rule R379). -/
def execPowerGood (s : State) : Out := .next s.powerGood
/-- The link test begins (rule R381). -/
def execB2LinkTest (s : State) : Out := .next (s.linkTest s.arg.ret)
/-- Election begins (rule R382). -/
def execB3Election (s : State) : Out := .next (s.b3 s.arg.ret)
/-- An election round (rule R382). -/
def execElectionRound (s : State) : Out := .next (s.electionRound s.arg.ret)
/-- Enumeration begins (rule R383). -/
def execB4Enumeration (s : State) : Out := .next (s.b4 s.arg.ret)
/-- The leader starts the module (rule R384). -/
def execB5Start (s : State) : Out := .next (s.b5 s.arg.ret)
/-- A link probe (rule R381). -/
def execLprobe (s : State) : Out := .next (s.heard 1 State.lprobe)
/-- A probe's echo (rule R381). -/
def execLecho (s : State) : Out := .next (s.heard 2 State.lecho)
/-- An election message (rule R382). -/
def execElect (s : State) : Out := .next (s.heard 3 State.elect)
/-- ENUM (rule R383). -/
def execEnum (s : State) : Out := .next (s.heard 4 State.enum)
/-- ACCEPT (rule R383). -/
def execAccept (s : State) : Out := .next (s.heard 5 (fun s r sel _ => s.accept r sel))
/-- REFUSE (rule R383). -/
def execRefuse (s : State) : Out := .next (s.heard 6 (fun s r sel _ => s.refuse r sel))
/-- REPORT (rule R383). -/
def execReport (s : State) : Out := .next (s.heard 7 State.report)
/-- LSTART (rule R384). -/
def execLstart (s : State) : Out := .next (s.heard 8 State.lstart)
/-- DONE (rule R384). -/
def execDone (s : State) : Out := .next (s.heard 9 (fun s r sel _ => s.done r sel))
/-- A child is timed out (rule R383): its selvedge is in `sel`. -/
def execEnumTimeout (s : State) : Out := .next (s.enumTimeout s.arg.ret s.arg.sel)
/-- The bound of enumeration (rule R383). -/
def execEnumerationDeadline (s : State) : Out := .next (s.deadline s.arg.ret)
/-- The Uller endpoint grants the module (rule R384). -/
def execUllerClaimGrant (s : State) : Out := .next s.claimGrant

end Sys2Proof.Machine
end

