-- ==== Sys2Proof/Machine/Local.lean ====
section
/-! DEFINITION. The LM slot: loads, stores, vector loads and stores, broadcasts, gathers and scatters (rules R266 to
R272), and the watchpoints on their claims (rule R367). -/

namespace Sys2Proof.Machine

/-- The byte ranges of local space that an LM claim reads and writes. -/
def lmRanges (a : Action) : List (Nat × Nat) × List (Nat × Nat) :=
  match a with
  | .load x n _ _ => ([(x, n)], [])
  | .vload x _ => ([(x, 256)], [])
  | .bcast x _ => ([(x, 4)], [])
  | .gather ew xs _ => ((xs.filterMap id).map (·, ew), [])
  | .store x bs => ([], [(x, bs.length)])
  | .scatter ls => ([], ls.map (fun l => (l.1, l.2.length)))
  | _ => ([], [])

/-- An LM instruction claims its units on the next core cycle (rule R49); a watchpoint on local accesses sees the
bytes. -/
def lmAccess (op : Nat) (f : Core → Access) (s : State) : State :=
  let x := f s.core
  let r := lmRanges x.act
  (s.act (fun c => c.claim .lm op x.off x.units x.act x.nan)).watched 2 (watchHit s.core 61 22 r.1 r.2)

/-- Load a byte, sign-extended (rule R267). -/
def execLdI8 (o : RisOps) (s : State) : Out :=
  issue (.ldI8 o) o.g
    (lmAccess 0x00 (fun c => ldAccess 1 true c o)) s

/-- Load a byte, zero-extended (rule R267). -/
def execLdN8 (o : RisOps) (s : State) : Out :=
  issue (.ldN8 o) o.g
    (lmAccess 0x01 (fun c => ldAccess 1 false c o)) s

/-- Load 2 bytes, sign-extended (rule R267). -/
def execLdI16 (o : RisOps) (s : State) : Out :=
  issue (.ldI16 o) o.g
    (lmAccess 0x02 (fun c => ldAccess 2 true c o)) s

/-- Load 2 bytes, zero-extended (rule R267). -/
def execLdN16 (o : RisOps) (s : State) : Out :=
  issue (.ldN16 o) o.g
    (lmAccess 0x03 (fun c => ldAccess 2 false c o)) s

/-- Load 4 bytes, sign-extended (rule R267). -/
def execLdI32 (o : RisOps) (s : State) : Out :=
  issue (.ldI32 o) o.g
    (lmAccess 0x04 (fun c => ldAccess 4 true c o)) s

/-- Load 4 bytes, zero-extended (rule R267). -/
def execLdN32 (o : RisOps) (s : State) : Out :=
  issue (.ldN32 o) o.g
    (lmAccess 0x05 (fun c => ldAccess 4 false c o)) s

/-- Load 8 bytes (rule R267). -/
def execLdI64 (o : RisOps) (s : State) : Out :=
  issue (.ldI64 o) o.g
    (lmAccess 0x06 (fun c => ldAccess 8 false c o)) s

/-- Store the low byte (rule R268). -/
def execStB (o : RisOps) (s : State) : Out :=
  issue (.stB o) o.g
    (lmAccess 0x08 (fun c => stAccess 1 c o)) s

/-- Store the low 2 bytes (rule R268). -/
def execStH (o : RisOps) (s : State) : Out :=
  issue (.stH o) o.g
    (lmAccess 0x09 (fun c => stAccess 2 c o)) s

/-- Store the low 4 bytes (rule R268). -/
def execStW (o : RisOps) (s : State) : Out :=
  issue (.stW o) o.g
    (lmAccess 0x0A (fun c => stAccess 4 c o)) s

/-- Store 8 bytes (rule R268). -/
def execStD (o : RisOps) (s : State) : Out :=
  issue (.stD o) o.g
    (lmAccess 0x0B (fun c => stAccess 8 c o)) s

/-- Broadcast a 4-byte word into all 64 lanes (rule R270). -/
def execVbcastW (o : RisOps) (s : State) : Out :=
  issue (.vbcastW o) o.g
    (lmAccess 0x14 (fun c => bcastAccess c o)) s

/-- Gather 4-byte elements by lane index (rule R271). -/
def execVgatherW (o : R3Ops) (s : State) : Out :=
  issue (.vgatherW o) o.g
    (lmAccess 0x18 (fun c => gatherAccess 4 c o)) s

/-- Gather 2-byte elements by lane index (rule R271). -/
def execVgatherH (o : R3Ops) (s : State) : Out :=
  issue (.vgatherH o) o.g
    (lmAccess 0x19 (fun c => gatherAccess 2 c o)) s

/-- Scatter 4-byte elements by lane index (rule R271). -/
def execVscatterW (o : R3Ops) (s : State) : Out :=
  issue (.vscatterW o) o.g
    (lmAccess 0x1A (fun c => scatterAccess 4 c o)) s

/-- Scatter 2-byte elements by lane index (rule R271). -/
def execVscatterH (o : R3Ops) (s : State) : Out :=
  issue (.vscatterH o) o.g
    (lmAccess 0x1B (fun c => scatterAccess 2 c o)) s

/-- Load 256 bytes into a vector register (rule R269). -/
def execVld (o : RisOps) (s : State) : Out :=
  issue (.vld o) o.g
    (lmAccess 0x10 (fun c => vldAt (risAddr c o 256) c o.d)) s

/-- Store a vector register's 256 bytes (rule R269). -/
def execVst (o : RisOps) (s : State) : Out :=
  issue (.vst o) o.g
    (lmAccess 0x11 (fun c => vstAt (risAddr c o 256) c o.d)) s

/-- Vector load at a register-plus-register address (rule R269). -/
def execVldx (o : R3Ops) (s : State) : Out :=
  issue (.vldx o) o.g
    (lmAccess 0x12 (fun c => vldAt (idxAddr c o) c o.d)) s

/-- Vector store at a register-plus-register address (rule R269). -/
def execVstx (o : R3Ops) (s : State) : Out :=
  issue (.vstx o) o.g
    (lmAccess 0x13 (fun c => vstAt (idxAddr c o) c o.d)) s

end Sys2Proof.Machine
end

