-- ==== Sys2Proof/Machine/Loops.lean ====
section
/-! DEFINITION. The LP slot: hardware loops, rotation, predicated regions and predicate logic (rules R177, R178, R244,
R248 to R252). -/

namespace Sys2Proof.Machine

/-- LOOP.SET and LOOP.SET.ROT (rule R248): the new level, and a skip of the body when the count is 0. -/
def loopSetEffect (rot : Bool) (o : LsOps) (c : Core) : Core :=
  let a := c.ctl.pc
  let n := (c.rs o.a).toNat
  let cnt := if n < 2 ^ 32 then n else 2 ^ 32 - 1
  let x : Loop := { act := cnt != 0, rot := rot, len := o.len, start := c.seq 1 a, cnt := BitVec.ofNat 32 cnt
                    stop := c.seq o.len.toNat a }
  let c1 := c.land .lp 0x00 1 (.loopSet o.l x)
  if cnt = 0 then { c1 with ctl := { c1.ctl with skip := some o.len.toNat } } else c1

/-- LOOP.PAIR (rule R249): s0 turns the pair off. -/
def loopPairEffect (o : LqOps) (c : Core) : Core :=
  let x : LPair := { v := o.s != 0, reg := o.s, stride := (c.rs o.b).setWidth 32 }
  c.land .lp 0x01 1 (.loopPair (4 * o.l.toNat + o.j.toNat) x)

/-- A predicate of two predicates (rule R244). -/
def predLogic (op : Nat) (o : P3Ops) (f : Bool → Bool → Bool) (s : State) : State :=
  putP .lp op o.pd (f (s.core.rp o.pa) (s.core.rp o.pb)) s

/-- Arm a hardware loop level with a count and body length (rule R248). -/
def execLoopSet (o : LsOps) (s : State) : Out :=
  issue (.loopSet o) o.g
    (fun s => s.act (loopSetEffect false o)) s

/-- Arm a rotating hardware loop level (rule R248). -/
def execLoopSetRot (o : LsOps) (s : State) : Out :=
  issue (.loopSetRot o) o.g
    (fun s => s.act (loopSetEffect true o)) s

/-- Set a stride-add pair of a loop level (rule R249). -/
def execLoopPair (o : LqOps) (s : State) : Out :=
  issue (.loopPair o) o.g
    (fun s => s.act (loopPairEffect o)) s

/-- Set the epilogue count (rule R249). -/
def execLoopEc (o : MaskOps) (s : State) : Out :=
  issue (.loopEc o) o.g
    (fun s => s.act (fun c => c.land .lp 0x02 1 (.loopEc o.mask))) s

/-- Clear the rotation bases (rule R249). -/
def execRotClr (o : ZOps) (s : State) : Out :=
  issue (.rotClr o) o.g
    (fun s => s.act (fun c => c.land .lp 0x03 1 .rotClr)) s

/-- Guard the next n bundles by a predicate (rule R252). -/
def execPredRegion (o : PrOps) (s : State) : Out :=
  issue (.predRegion o) o.g
    (fun s => if s.core.rp o.p then s else s.act (fun c => { c with ctl := { c.ctl with skip := some o.n.toNat } })) s

/-- Predicate AND (rule R244). -/
def execPredAnd (o : P3Ops) (s : State) : Out :=
  issue (.predAnd o) o.g
    (predLogic 0x10 o (fun a b => a && b)) s

/-- Predicate OR (rule R244). -/
def execPredOr (o : P3Ops) (s : State) : Out :=
  issue (.predOr o) o.g
    (predLogic 0x11 o (fun a b => a || b)) s

/-- Predicate XOR (rule R244). -/
def execPredXor (o : P3Ops) (s : State) : Out :=
  issue (.predXor o) o.g
    (predLogic 0x12 o (fun a b => a != b)) s

/-- Predicate a AND NOT b (rule R244). -/
def execPredAndn (o : P3Ops) (s : State) : Out :=
  issue (.predAndn o) o.g
    (predLogic 0x13 o (fun a b => a && !b)) s

/-- Set a predicate to a constant (rule R244). -/
def execPredSet (o : PsOps) (s : State) : Out :=
  issue (.predSet o) o.g
    (putP .lp 0x14 o.pd (o.v == 1)) s

end Sys2Proof.Machine
end

