-- ==== Sys2Proof/Machine/Matrix.lean ====
section
/-! DEFINITION. The MX slot: steps, latch loads, scale loads, drains, zeroing and the array configuration (rules R289 to
R302). -/

namespace Sys2Proof.Machine

/-- An MX instruction claims the units of its operands (rule R49). -/
def mxAccess (op : Nat) (x : Access) (c : Core) : Core := c.claim .mx op x.off x.units x.act x.nan

/-- One matrix step with B read from scratchpad, accumulating into a set (rule R295). -/
def execMmStart (o : MsOps) (s : State) : Out :=
  issue (.mmStart o) o.g
    (fun s => s.act (mxAccess 0x00 (startAccess s.core o))) s

/-- One matrix step with B taken from the weight latch (rule R295). -/
def execMmStartLt (o : MslOps) (s : State) : Out :=
  issue (.mmStartLt o) o.g
    (fun s => s.act (mxAccess 0x00 (startLtAccess s.core o))) s

/-- Load 768 bytes of B rows and their format into the weight latch (rule R296). -/
def execMmLdb (o : MbOps) (s : State) : Out :=
  issue (.mmLdb o) o.g
    (fun s => s.act (mxAccess 0x01 (ldbAccess s.core o))) s

/-- Load 64 scale bytes into a scale register (rule R297). -/
def execMmScl (o : MqOps) (s : State) : Out :=
  issue (.mmScl o) o.g
    (fun s => s.act (mxAccess 0x02 (sclAccess s.core o))) s

/-- A drain reads its set on the issue cycle, writes its bytes ten core cycles later, and zeroes the set when zr is 1; a
NaN it produces lands with its bytes (rules R298, R301). -/
def drainEffect (o : MdOps) (c : Core) : Core :=
  let x := drainAccess c o
  let c1 := mxAccess 0x03 { x with nan := none } c
  let c2 := if x.nan.isSome then c1.land .mx 0x03 10 .mark x.nan else c1
  if o.zr = 1 then c2.land .mx 0x03 1 (.accZero (1 <<< o.acc.toNat)) else c2

/-- Convert an accumulator set into scratchpad, optionally zeroing it (rule R298). -/
def execMmDrain (o : MdOps) (s : State) : Out :=
  issue (.mmDrain o) o.g
    (fun s => s.act (drainEffect o)) s

/-- Zero the accumulator sets named by a mask (rule R299). -/
def execMmZero (o : MaskOps) (s : State) : Out :=
  issue (.mmZero o) o.g
    (fun s => s.act (fun c => c.land .mx 0x04 1 (.accZero o.mask))) s

/-- Write MXCFG pitches and scale selection (rule R300). -/
def execMmCfg (o : R1aOps) (s : State) : Out :=
  issue (.mmCfg o) o.g
    (fun s => s.act (fun c => c.land .mx 0x05 1 (.sysw 0x080 (c.rs o.a)))) s

end Sys2Proof.Machine
end

