-- ==== Sys2Proof/Machine/Placement.lean ====
section
/-! DEFINITION. The placement service (rules R392 to R396): it re-times the routes of a compiled image around borrowed routers and
writes the per-part image. -/

namespace Sys2Proof.Machine

/-! ### The shape of an image, laid at the first region -/

/-- The tile that a relative tile index names in the partition of a given width whose top-left region is `p`, and the index of
a tile (rule R393). -/
def tileOfRel (p wid n : Nat) : Nat :=
  ((p % 2 * 3 + n / 512 / wid) * 8 + (p / 2 + n / 512 % wid)) * 512 + n % 512
def relOfTile (p wid t : Nat) : Nat := relIndex p wid (2 * t) / 2
/-- The tile lies in the partition. -/
def tileInside (p wid ht t : Nat) : Bool := (rectRegions p wid ht).contains (regionOf (2 * t))

/-- What a re-time works on: the image's shape, its phases and its heddle tables by relative tile index. -/
structure Plan where
  dpa : Nat
  wid : Nat
  ht : Nat
  phases : List PhaseEntry
  tables : List (Nat × Table × Table)
  deriving DecidableEq, Repr

/-- A word on its way in the compiled image: the tile, the input it arrives on, the offset, the padded switchings before, and its
injection: tile, entry and switching. -/
structure Trace where
  pcode : Nat
  tile : Nat
  port : Nat
  off : Nat
  pads : Nat
  home : Nat
  entry : Nat
  deriving DecidableEq, Repr

/-- One switching of a traced word: the entry's tile and index, its shift, the output ports it takes, and its new offset. -/
structure Switched where
  pcode : Nat
  tile : Nat
  entry : Nat
  shift : Nat
  outs : List Nat
  off : Nat
  home : Nat
  first : Nat
  deriving DecidableEq, Repr

/-- A receive of a traced word: the core's relative index, the compiled offset of its issue, and its shift. -/
structure Received where
  pcode : Nat
  core : Nat
  off : Nat
  shift : Nat
  home : Nat
  entry : Nat
  deriving DecidableEq, Repr

/-- Why a re-time fails (rule R395), and the route: WHY, phase code, relative tile of the injecting router, entry. -/
structure Failure where
  why : Nat
  pcode : Nat
  home : Nat
  entry : Nat
  deriving DecidableEq, Repr

namespace Plan

/-- The tile of the plan as a router, by relative index. -/
def tile (g : Plan) (n : Nat) : Tile :=
  match g.tables.find? (fun e => e.1 == n) with
  | some e => { Tile.reset n with htab := e.2.1, hdir := e.2.2 }
  | none => Tile.reset n

/-- The length of the exchange phases of a phase code: the least of them. -/
def xlen (g : Plan) (pc : Nat) : Nat :=
  ((g.phases.filter (fun e => e.pcode == pc)).map (·.xlen)).foldl min (2 ^ 24)

/-- The relative tile beyond a port, inside the partition, and the cycles to it. -/
def beyond (g : Plan) (n q : Nat) : Option (Nat × Nat) :=
  match State.tileBeyond (tileOfRel 0 g.wid n) q with
  | none => none
  | some (t, cross) => if tileInside 0 g.wid g.ht t then some (relOfTile 0 g.wid t, if cross then 4 else 1) else none

/-- One step of every traced word of a phase code: its switchings, its receives and where it goes. -/
def advance (g : Plan) (P : List Nat) (pc : Nat) (w : Trace) : List Switched × List Received × List Trace :=
  let es := (activeEntries (g.tile w.tile) pc w.off).filter (fun e => !entryBad e.2)
  let k := w.pads
  let k' := if P.contains w.tile then k + 1 else k
  let mine := es.filter (fun e => bits e.2 15 13 == w.port)
  let outsOf := fun (e : Nat × Word) => (List.range 6).filter (fun q => takes es q == some e)
  let sw := mine.map (fun e => ({ pcode := pc, tile := w.tile, entry := e.1, shift := 4 * k, outs := outsOf e, off := w.off + 4 * k
                                  home := w.home, first := w.entry } : Switched))
  let rx := mine.flatMap (fun e => ((outsOf e).filter (fun q => 4 ≤ q)).map (fun q =>
    ({ pcode := pc, core := 2 * w.tile + (q - 4), off := w.off + 2, shift := 4 * k', home := w.home, entry := w.entry } : Received)))
  let go := mine.flatMap (fun e => ((outsOf e).filter (fun q => q < 4)).filterMap (fun q =>
    (g.beyond w.tile q).map (fun b =>
      ({ pcode := pc, tile := b.1, port := (q + 2) % 4, off := w.off + b.2, pads := k', home := w.home, entry := w.entry } : Trace))))
  (sw, rx, go)

/-- Every word is traced to its end: a word moves on by at least a cycle, so the phase's length bounds the steps. -/
def traceAll (g : Plan) (P : List Nat) (pc : Nat) : Nat → List Trace → List Switched × List Received
  | 0, _ => ([], [])
  | fuel + 1, ws =>
    let ws := ws.filter (fun w => decide (w.off < g.xlen pc))
    if ws.isEmpty then ([], [])
    else
      let rs := ws.map (g.advance P pc)
      let (sw, rx) := traceAll g P pc fuel (rs.flatMap (fun r => r.2.2))
      (rs.flatMap (·.1) ++ sw, rs.flatMap (fun r => r.2.1) ++ rx)

/-- The words that a phase code's lists inject. -/
def injections (g : Plan) (pc : Nat) : List Trace :=
  g.tables.flatMap (fun t =>
    let d := tableGet t.2.2 pc
    (t.2.1.filter (fun e => decide (bits d 11 0 ≤ e.1) && decide (e.1 < min (bits d 11 0 + bits d 24 12) 4096)
        && e.2.getLsbD 0 && !entryBad e.2 && 4 ≤ bits e.2 15 13)).flatMap (fun e =>
      (List.range (bits e.2 31 20 + 1)).map (fun j =>
        { pcode := pc, tile := t.1, port := bits e.2 15 13, off := bits e.2 55 32 + j * (bits e.2 19 16 + 1), pads := 0
          home := t.1, entry := e.1 })))

end Plan

/-! ### Re-timing (rule R394) -/

/-- What a successful re-time changes: shifts of entries by tile and index, and IDLE changes of bundles by core and address. -/
structure Retimed where
  shifts : List (Nat × Nat × Nat)
  idles : List (Nat × Nat × Int)
  deriving DecidableEq, Repr

namespace Core

/-- The bundle at an address of a core's code: its head fields and its slots, where both decode. -/
def codeBundle (c : Core) (a : CodeAddr) : Option (Head × List SlotWord) :=
  match c.headAt a with
  | .bundle h => some (h, decodeSlots h.slots (c.bundleWords a (h.words - 1)))
  | _ => none
/-- The head fields at an address, of a bundle or of a pure delay. -/
def codeHead (c : Core) (a : CodeAddr) : Option Head :=
  match c.headAt a with
  | .bundle h => some h
  | .delay h => some h
  | _ => none
def codeInstrs (c : Core) (a : CodeAddr) : List Instr :=
  match c.codeBundle a with
  | some (_, xs) => xs.filterMap (fun x => match x.dec with | .ok i => some i | .bad _ => none)
  | none => []

/-- The bundle at an address holds a branch, and the target that its encoding gives (rule R245). -/
def branchAt (c : Core) (a : CodeAddr) : Bool :=
  (c.codeInstrs a).any (fun i => match i with | .br _ => true | .brL _ => true | .brInd _ => true | _ => false)
def targetAt (c : Core) (a : CodeAddr) : Option CodeAddr :=
  (c.codeInstrs a).findSome? (fun i =>
    match i with
    | .br o => some (a + (o.off.setWidth 18 <<< 2))
    | .brL o => some (a + (o.off.signExtend 18 <<< 2))
    | _ => none)
/-- The bundle at an address holds a branch to an address in a register. -/
def branchesAnywhere (c : Core) (a : CodeAddr) : Bool :=
  (c.codeInstrs a).any (fun i => match i with | .brInd _ => true | _ => false)
/-- The first and the last bundle of the loop body that a bundle sets (rule R248). -/
def loopAt (c : Core) (a : CodeAddr) : Option (CodeAddr × CodeAddr) :=
  (c.codeInstrs a).findSome? (fun i =>
    match i with
    | .loopSet o => some (c.seq 1 a, c.seq o.len.toNat a)
    | .loopSetRot o => some (c.seq 1 a, c.seq o.len.toNat a)
    | _ => none)

/-- The head words of a code section in sequential decoding, from one address up to another. -/
def sweep (c : Core) (stop : Nat) : Nat → CodeAddr → List CodeAddr
  | 0, _ => []
  | k + 1, a =>
    if stop ≤ a.toNat then []
    else
      let b := c.seq 1 a
      a :: (if b.toNat ≤ a.toNat then [] else c.sweep stop k b)

/-- The bundle at `a` may take up a shift from the bundle at `prev` before it (rule R394): they stand in one straight-line run, `prev`
is neither a loop END nor a branch nor a taken branch's delay bundle, and `a` is neither a branch target nor the first bundle of a loop
body. -/
def mayPad (c : Core) (code : List CodeAddr) (a prev : CodeAddr) : Bool :=
  c.seq 1 prev == a && !c.branchAt prev
    && code.all (fun b =>
      !(c.branchAt b && (c.seq 1 b == prev || c.seq 2 b == prev)) && c.targetAt b != some a
        && (c.loopAt b).all (fun l => l.1 != a && l.2 != prev))

end Core

namespace State

/-- The head word of a bundle of a core's code. -/
def planHead (s : State) (img : Image) (core addr : Nat) : Option Word32 :=
  (s.codeSection img core).map (fun x => BitVec.ofNat 32 (s.mem.readNat (img.dpa + x.off + (addr - x.load)) 4))

/-- A core's IMEM as a bind of the image leaves it, and the head words of its code (rules R156, R339). -/
def planCode (s : State) (img : Image) (core : Nat) : Core × List CodeAddr :=
  match s.codeSection img core with
  | none => (Core.reset core, [])
  | some x =>
    let c := Core.reset core
    let c := { c with mem := { c.mem with imem := { cells := s.cellsFrom (img.dpa + x.off) x.size x.load } } }
    (c, c.sweep (x.load + x.size) (x.size / 4) (BitVec.ofNat 18 x.load))

/-- A receive is padded by its shift (rule R394): its bundle holds only its XC slot and has IDLE enough, the bundle before it can take
the cycles, be it a pure delay, and both stand where a shift is allowed. Which bundle issues at an offset of a phase, and whether a branch
to an address in a register leads to it, is the compiler's knowledge, and free (log entry 105). -/
def padded (s : State) (img : Image) (r : Received) : Option (List (Nat × Nat × Int)) :=
  if r.shift = 0 then some []
  else
    match Config.receiveOf img.dpa r.core r.pcode r.off with
    | none => none
    | some (a, prev) =>
      let (c, code) := s.planCode img r.core
      let may := c.mayPad code (BitVec.ofNat 18 a) (BitVec.ofNat 18 prev)
        && !(code.any c.branchesAnywhere && Config.indirectTarget img.dpa r.core a)
      match c.codeHead (BitVec.ofNat 18 a), c.codeHead (BitVec.ofNat 18 prev) with
      | some h, some h' =>
        if h.sp = 0x40 && r.shift ≤ h.idle.toNat && h'.idle.toNat + r.shift ≤ 127 && may then
          some [(r.core, a, -(r.shift : Int)), (r.core, prev, r.shift)]
        else none
      | _, _ => none

/-- Two different shifts of one entry. -/
def repeats (sw : List Switched) : Option Switched :=
  sw.find? (fun a => sw.any (fun b => a.tile == b.tile && a.entry == b.entry && a.shift != b.shift))
/-- Two words on one output port in one cycle of a phase. -/
def contends (sw : List Switched) : Option Switched :=
  sw.find? (fun a => sw.any (fun b => a.pcode == b.pcode && a.tile == b.tile && a.off == b.off && a.entry != b.entry
    && a.outs.any b.outs.contains))

/-- Why a re-time fails, with the word that it names, in the order of rule R394. Whether a moved receive's claim meets another is free,
since the addresses of claims stand in registers (log entry 105). -/
def retimeFault (s : State) (img : Image) (g : Plan) (sw : List Switched) (rx : List Received) : Option Failure :=
  let atS := fun (why : Nat) (a : Switched) => ({ why := why, pcode := a.pcode, home := a.home, entry := a.first } : Failure)
  let atR := fun (why : Nat) (r : Received) => ({ why := why, pcode := r.pcode, home := r.home, entry := r.entry } : Failure)
  ((rx.find? (fun r => (s.padded img r).isNone)).map (atR 1)).or
    (((repeats sw).map (atS 2)).or
      (((contends sw).map (atS 3)).or
        (((rx.find? (fun r => r.shift != 0 && Config.movedClaimMeets img.dpa r.core r.pcode r.off r.shift)).map (atR 4)).or
          (((sw.find? (fun a => decide (g.xlen a.pcode ≤ a.off))).map (atS 5)).or
            ((rx.find? (fun r => decide (g.xlen r.pcode ≤ r.off + r.shift))).map (atR 5))))))

/-- The re-time of an image for the padded positions P (rule R394): every word of every phase code is traced, then the failures are
looked for. -/
def retime (s : State) (img : Image) (g : Plan) (P : List Nat) : Except Failure Retimed :=
  let all := ((g.phases.map (·.pcode)).eraseDups).map (fun pc => g.traceAll P pc (g.xlen pc + 1) (g.injections pc))
  let sw := all.flatMap (·.1)
  let rx := all.flatMap (·.2)
  match s.retimeFault img g sw rx with
  | some f => .error f
  | none =>
    .ok { shifts := ((sw.filter (fun a => a.shift != 0)).map (fun a => (a.tile, a.entry, a.shift))).eraseDups
          idles := (rx.flatMap (fun r => (s.padded img r).getD [])).eraseDups }

/-! ### The service (rules R395, R396) -/

/-- The compiled image that PLSRC named as the operation was started; its size ends with its last section. -/
def sourceImage (s : State) : Image :=
  let base := bits s.module.placing.2.1 55 6 * 64
  let w1 := s.imgWord base 8
  { handle := 0, dpa := base, size := (s.sections base).foldl (fun n x => max n (x.off + x.size)) 0
    rev := bits w1 63 48, pwid := bits w1 47 44, pht := bits w1 43 42 }

/-- A key pair is an installer's: its hash stands in a written slot. -/
def installerKey (s : State) (ed ml : List Byte) : Bool :=
  let h := Config.sha3 (ed ++ ml)
  (List.range 4).any (fun i => (List.range 4).all (fun j =>
    s.module.instkey.getD (4 * i + j) none == some (h.extractLsb' (64 * j) 64)))

/-- The source is accepted: format, keys and both signatures, and an empty pad list. -/
def sourceOk (s : State) (img : Image) : Bool :=
  let keys := s.imageKeys img.dpa
  s.backedRange img.dpa img.size && s.imageSound img.dpa img.size
    && (keys == (identityEd, identityMl) || s.installerKey keys.1 keys.2) && s.signedBy img.dpa keys.1 keys.2
    && s.padCount img == 0

def planOf (s : State) (img : Image) : Plan :=
  let n := img.pwid * img.pht * 3 * 512
  { dpa := img.dpa, wid := img.pwid, ht := img.pht, phases := s.phaseTable img
    tables := (List.range n).filterMap (fun t =>
      let e := s.heddleOf img t
      if e.1.isEmpty && e.2.isEmpty then none else some (t, e.1, e.2)) }

/-- The borrowed positions of the partition of an image's shape at an origin. -/
def borrowedAt (s : State) (o wid ht : Nat) : List Nat :=
  ((rectRegions o wid ht).flatMap regionReticles).flatMap (fun r =>
    (borrowed (s.ret r).live).map (fun b => relOfTile o wid (r * 512 + 32 * b.1 + b.2.1)))

/-- The origins of MASK whose partition lies on the wafer and has no withheld region (rule R395). -/
def origins (s : State) (img : Image) : List Nat :=
  (List.range 16).filter (fun o => s.module.placing.1.getLsbD (16 + o) && rectFits o img.pwid img.pht
    && !(rectRegions o img.pwid img.pht).any s.withheld)

/-- What the service has done with some of the origins: P, what is accepted, the last re-time, and the first failure with its
origin. -/
structure Placed where
  P : List Nat
  acc : List Nat
  out : Retimed
  fail : Option (Nat × Failure)
  deriving DecidableEq, Repr

/-- One origin: accepted as it stands, by an extension, or dropped (rule R395). DESIGN CHOICE: one that re-times with more positions
than a pad list holds is dropped with no failing route (log entry 25). -/
def placeOne (s : State) (img : Image) (g : Plan) (st : Placed) (o : Nat) : Placed :=
  let need := s.borrowedAt o img.pwid img.pht
  if need.all st.P.contains then { st with acc := st.acc ++ [o] }
  else
    let P := (st.P ++ need).eraseDups
    match s.retime img g P with
    | .ok r => if 64 < P.length then st else { st with P := P, acc := st.acc ++ [o], out := r }
    | .error e => { st with fail := st.fail.or (some (o, e)) }

def place (s : State) (img : Image) : Placed :=
  (s.origins img).foldl (s.placeOne img (s.planOf img)) { P := [], acc := [], out := { shifts := [], idles := [] }, fail := none }

/-! ### The per-part image -/

/-- The new IDLE values of a core, by bundle address. -/
def idlesOf (s : State) (img : Image) (r : Retimed) (core : Nat) : List (Nat × Nat) :=
  let mine := r.idles.filter (fun e => e.1 == core)
  let addrs := ((mine.map (fun e => e.2.1)).eraseDups).mergeSort (fun a b => decide (a ≤ b))
  addrs.filterMap (fun a => (s.planHead img core a).map (fun h =>
    (a, ((Head.read h).idle.toNat + (mine.filter (fun e => e.2.1 == a)).foldl (fun n e => n + e.2.2) (0 : Int)).toNat)))

/-- The copies of code sections: the section's place in the directory, the IDLE values, and the cores that take it; the first
of a section keeps its place. -/
def copies (s : State) (img : Image) (r : Retimed) : List (Nat × List (Nat × Nat) × List Nat) :=
  (List.range (shapeCores img.pwid img.pht)).foldl (fun cs n =>
    let i := bits (s.startEntry img n).2 43 32
    let p := s.idlesOf img r n
    if cs.any (fun c => c.1 == i && c.2.1 == p) then
      cs.map (fun c => if c.1 == i && c.2.1 == p then (c.1, c.2.1, c.2.2 ++ [n]) else c)
    else cs ++ [(i, p, [n])]) []

/-- Cells with bytes written over them. -/
def patch (cs : List Host.Cell) (at_ : Nat) (bs : List Byte) : List Host.Cell :=
  cs.filter (fun c => decide (c.1 < at_) || decide (at_ + bs.length ≤ c.1)) ++ Memory.cellsOf at_ bs

/-- The bytes of a section of the new image, from offset 0. -/
def sectionCells (s : State) (img : Image) (out : Placed) (x : Section_) (idles : List (Nat × Nat))
    (csec : List (Nat × Nat)) : List Host.Cell :=
  let old := s.cellsFrom (img.dpa + x.off) x.size 0
  match x.kind with
  | 1 => idles.foldl (fun cs e =>
      let h := Head.read (BitVec.ofNat 32 (s.mem.readNat (img.dpa + x.off + (e.1 - x.load)) 4))
      patch cs (e.1 - x.load) (toBytes 4 ({ h with idle := BitVec.ofNat 7 e.2 }).word.toNat)) old
  | 4 =>
    let n := out.P.length
    let moved := s.cellsFrom (img.dpa + x.off + 8) (x.size - 8) (8 + 8 * n)
    let head := Memory.cellsOf 0 (toBytes 8 n ++ out.P.flatMap (toBytes 8))
    out.out.shifts.foldl (fun cs e =>
      let a := 0x8400 * e.1 + 8 * e.2.1
      let w := s.imgWord img.dpa (x.off + 8 + a)
      patch cs (8 + 8 * n + a) (toBytes 8 (setBits w 55 32 (bits w 55 32 + e.2.2)).toNat)) (head ++ moved)
  | 7 => csec.foldl (fun cs e =>
      let o := 32 + 16 * e.1 + 8
      let w := s.imgWord img.dpa (x.off + o)
      patch cs o (toBytes 8 (setBits w 43 32 e.2).toNat)) old
  | 8 => []
  | _ => old

/-- The sections of the new image: the old ones in their order, then the copies, each with what its bytes are. -/
def newSections (s : State) (img : Image) (out : Placed) : List (Section_ × List Host.Cell) :=
  let xs := s.sections img.dpa
  let cs := s.copies img out.out
  let firsts := cs.filter (fun c => (cs.find? (fun d => d.1 == c.1)) == some c)
  let rest := cs.filter (fun c => !firsts.contains c)
  let csec := ((List.range rest.length).zip rest).flatMap (fun e => e.2.2.2.map (fun n => (n, xs.length + e.1)))
  let idlesAt := fun (i : Nat) => match firsts.find? (fun c => c.1 == i) with | some c => c.2.1 | none => []
  let sized := fun (x : Section_) => if x.kind = 4 then { x with size := x.size + 8 * out.P.length } else x
  ((List.range xs.length).zip xs).map (fun e => (sized e.2, s.sectionCells img out e.2 (idlesAt e.1) csec))
    ++ rest.filterMap (fun c => xs[c.1]?.map (fun x => (x, s.sectionCells img out x c.2.1 [])))

/-- The sections' offsets in the new image: one after the other at multiples of 64, the signatures last (log entry 25). -/
def layOut (xs : List (Section_ × List Host.Cell)) : List (Section_ × List Host.Cell) × Nat :=
  let start := 16 + 32 * xs.length
  let up := fun (n : Nat) => (n + 63) / 64 * 64
  let (ys, n) := xs.foldl (fun (st : List (Section_ × List Host.Cell) × Nat) x =>
    if x.1.kind = 8 then (st.1 ++ [x], st.2)
    else (st.1 ++ [({ x.1 with off := up st.2 }, x.2)], up st.2 + x.1.size)) ([], start)
  (ys.map (fun x => if x.1.kind = 8 then ({ x.1 with off := up n }, x.2) else x), up n + 5376)

/-- A directory entry's bytes (rule R156). -/
def entryBytes (x : Section_) : List Byte :=
  [atBit x.kind 56 ||| atBit x.load 0, BitVec.ofNat 64 x.off, BitVec.ofNat 64 x.size, BitVec.ofNat 64 x.va].flatMap (fun w =>
    toBytes 8 w.toNat)

/-- The per-part image is written at PLDST, with fresh signatures by the module identity key (rule R396). -/
def writePart (s : State) (img : Image) (out : Placed) : State × Nat :=
  let dst := bits s.module.placing.2.2 55 6 * 64
  let (xs, size) := layOut (s.newSections img out)
  let w1 := setBits (s.imgWord img.dpa 8) 15 0 xs.length
  let head := Memory.cellsOf 0 (toBytes 8 0x574F56454E330001 ++ toBytes 8 w1.toNat ++ xs.flatMap (fun x => entryBytes x.1))
  let body := head ++ xs.flatMap (fun x => x.2.map (fun (c : Host.Cell) => (x.1.off + c.1, c.2)))
  let kept := s.mem.cells.filter (fun (c : Host.Cell) => decide (c.1 < dst) || decide (dst + size ≤ c.1))
  let s1 := { s with
    mem := Memory.ofCells (kept ++ body.map (fun (c : Host.Cell) => (dst + c.1, c.2)))
    poison := s.poison.filter (fun g => !(decide (dst / 64 ≤ g) && decide (g < (dst + size) / 64))) }
  let msg := s1.mem.readN dst (size - 5376)
  (s1.writeMem (dst + size - 5376) (identityEd ++ identityMl ++ (Config.signEd25519 msg).take 64
    ++ (Config.signMldsa65 msg).take 3309), size)

/-! ### The registers (rule R395) -/

/-- A write of PLCMD: MASK takes the written value, and GO starts the service; GO reads 1 until the operation ends, and no write starts
another or stops it meanwhile, or changes what it places (rule R398). DESIGN CHOICE: the service takes PLSRC and PLDST, like MASK, as they
stand when it starts (log entry 25). -/
def placementStart (s : State) (w : Word) : State :=
  let m := s.module
  let v := w &&& 0xFFFF0001
  if m.plcmd.getLsbD 0 then { s with module := { m with plcmd := v ||| 1 } }
  else
    if !w.getLsbD 0 then { s with module := { m with plcmd := v } }
    else { s.drawn with module := { m with
      plcmd := v, placing := (v, m.plsrc, m.pldst), plEnd := some (s.cycle + 1 + s.free (2 ^ 36)) } }

/-- PLST of an outcome. -/
def plstWord (acc : List Nat) (size err : Nat) : Word :=
  atBit (acc.foldl (fun m o => m ||| 2 ^ o) 0) 48 ||| atBit err 40 ||| atBit size 0

/-- PLROUTE of the first failure: the tile of the failing origin's partition. -/
def plrouteWord (wid : Nat) (f : Nat × Failure) : Word :=
  let t := tileOfRel f.1 wid f.2.home
  atBit f.2.why 56 ||| atBit f.2.pcode 48 ||| atBit (tileX (2 * t)) 40 ||| atBit (tileY (2 * t)) 32 ||| atBit f.2.entry 0

/-- The service ends. -/
def placementDone (s : State) : State :=
  if s.module.plEnd.all (fun t => decide (s.cycle < t)) then s
  else
    let m := { s.module with plEnd := none, plcmd := s.module.plcmd &&& ~~~1 }
    let fin := fun (s : State) (st : Word) (route : Word) => { s with module := { m with plst := st, plroute := route } }
    let img := s.sourceImage
    if !s.sourceOk img then fin s (plstWord [] 0 1) 0
    else if (s.origins img).isEmpty then fin s (plstWord [] 0 4) 0
    else
      let out := s.place img
      let route := match out.fail with | some f => plrouteWord img.pwid f | none => 0
      if out.acc.isEmpty then fin s (plstWord [] 0 2) route
      else
        let (_, size) := layOut (s.newSections img out)
        if !s.backedRange (bits s.module.placing.2.2 55 6 * 64) size then fin s (plstWord [] 0 3) route
        else
          let (s1, n) := s.writePart img out
          fin s1 (plstWord out.acc n 0) route

/-- A word of an installer-key slot is written once (rule R396). -/
def instkeySet (s : State) (i : Nat) (w : Word) : State :=
  match s.module.instkey.getD i (some 0) with
  | some _ => s
  | none => { s with module := { s.module with instkey := s.module.instkey.setIfInBounds i (some w) } }

end State

/-- PLCMD starts the placement service (rule R395): the written value is in `value`. -/
def execPlacementRun (s : State) : Out := .next (s.placementStart s.arg.value)
/-- The placement service ends (rule R395). -/
def execPlacementEnd (s : State) : Out := .next s.placementDone
/-- A word of INSTKEY is written (rule R396): its number is in `n`. -/
def execInstkeyWrite (s : State) : Out := .next (s.instkeySet s.arg.n s.arg.value)

end Sys2Proof.Machine
end

