-- ==== Sys2Proof/Machine/Power.lean ====
section
/-! DEFINITION. Power regions: activity, issue gates, droop, heat and module power (rules R399 to R404, R407), loss of power (rules
R93, R402), and debug stops (rules R409, R410). -/

namespace Sys2Proof.Machine

/-! ### Fields of the power registers (rules R401, R403, R404) -/

def rpLimit (w : Word) : Nat := bits w 31 0
def rpAlarm (w : Word) : Nat := bits w 47 40
def rpFloor (w : Word) : Nat := bits w 55 48
def rtHot (w : Word) : Nat := bits w 39 32
def rtCrit (w : Word) : Nat := bits w 47 40
def msPlim (w : Word) : Nat := bits w 35 20

namespace State

/-- A write of RPCTL (rule R401): refused when XFLOOR ≤ ALARM; else it takes effect at the next step boundary. -/
def rpctlSet (s : State) (r : Nat) (w : Word) : State :=
  let x := s.region r
  if rpFloor w ≤ rpAlarm w then s.putRegion r { x with rpst := x.rpst ||| 0x10 }
  else s.putRegion r { x with rpnext := some (w &&& 0x00FFFF00FFFFFFFF) }

/-- A write of RTHERM (rule R403). -/
def rthermSet (s : State) (r : Nat) (w : Word) : State :=
  let x := s.region r
  if rtCrit w ≤ rtHot w || 0x78 < rtCrit w then s.putRegion r { x with rpst := x.rpst ||| 0x10 }
  else s.putRegion r { x with rthnext := some (w &&& 0x0000FFFF00000000) }

/-- A write of MSTAG (rule R404). -/
def mstagSet (s : State) (w : Word) : State :=
  if 52000 < msPlim w || msPlim w < 10000 then s
  else { s with module := { s.module with mstagNext := some (w &&& 0x0000000FFFF0000F) } }

/-- A step of a region begins (rules R399, R401, R403, R404): ACT becomes PREV, which is 0 where the count has jumped over a step, and
accepted writes take effect. -/
def activityStep (s : State) (r : Nat) : State :=
  let x := s.region r
  let n := (s.regionLoom r).toNat / 320
  let s1 := s.putRegion r { x with
    prev := if x.step = some (n - 1) && 0 < n then x.act else 0, act := 0, step := some n, rpctl := x.rpnext.getD x.rpctl, rpnext := none
    rtherm := x.rthnext.getD x.rtherm, rthnext := none }
  { s1 with module := { s1.module with mstag := s1.module.mstagNext.getD s1.module.mstag, mstagNext := none } }

/-! ### Conditions (rules R400, R402) -/

/-- How far a region's supply lies below nominal, its margin offset included (rules R261, R407). -/
def supplyBelow (s : State) (r : Nat) : Int := (s.region r).supplyBelow
def alarmNow (s : State) (r : Nat) : Bool := decide ((5 * rpAlarm (s.region r).rpctl : Int) < s.supplyBelow r)
def floorNow (s : State) (r : Nat) : Bool := decide ((5 * rpFloor (s.region r).rpctl : Int) < s.supplyBelow r)
def hotNow (s : State) (r : Nat) : Bool := decide (16 * rtHot (s.region r).rtherm ≤ (s.region r).temp)
def critNow (s : State) (r : Nat) : Bool := decide (16 * rtCrit (s.region r).rtherm ≤ (s.region r).temp)
def overNow (s : State) (r : Nat) : Bool := decide (16 * 125 ≤ (s.region r).temp)
def powerNow (s : State) : Bool := decide (msPlim s.module.mstag ≤ s.module.watts)
/-- The activity of a region has reached its allowance. -/
def stepNow (s : State) (r : Nat) : Bool :=
  let x := s.region r
  rpLimit x.rpctl != 0 && decide (x.prev + rpLimit x.rpctl ≤ x.act)

/-- The region's partition is in a compute phase, which S0 begins (rule R171), or in an exchange phase. -/
def inCompute (s : State) (r : Nat) : Bool :=
  match s.partOfRegion r with
  | some p =>
    (match (s.part p).ctx with
      | some x => x.xphase.isNone && (match x.stage with
        | .starting => x.began.any (fun t => decide (t ≤ s.cycle))
        | .running => true
        | _ => false)
      | none => false)
  | none => false
def inExchange (s : State) (r : Nat) : Bool :=
  match s.partOfRegion r with
  | some p => (match (s.part p).ctx with | some x => x.xphase.isSome | none => false)
  | none => false

/-- The pair that begins on this cycle is one that a half gate gates: its count has bit 1 set. -/
def halfPair (s : State) (r : Nat) : Bool := (s.regionLoom r).getLsbD 1
/-- A pair begins on this cycle. -/
def pairStart (s : State) (r : Nat) : Bool := (s.regionLoom r).getLsbD 0 == false

/-- A pair is gated by heat, by droop, by the step limit or by module power. -/
def byHeat (s : State) (r : Nat) : Bool := s.inCompute r && (s.critNow r || (s.hotNow r && s.halfPair r))
def byDroop (s : State) (r : Nat) : Bool := s.inCompute r && (s.alarmNow r || s.floorNow r) && s.halfPair r
def byStep (s : State) (r : Nat) : Bool := s.inCompute r && s.stepNow r
def byPower (s : State) (r : Nat) : Bool := s.inCompute r && s.powerNow && s.halfPair r

/-- The region is gated for this pair, and a counter of RPST counts it: at a given place, up to a width. -/
def gate (s : State) (r hi lo : Nat) (counted : Bool) : State :=
  let x := s.region r
  s.putRegion r { x with gated := true, rpst := if counted then countIn x.rpst hi lo 1 else x.rpst }

/-- ISSUE_GATE_PAIR: a pair begins; the step limit gates it or not (rule R400). -/
def issueGate (s : State) (r : Nat) : State :=
  if !s.pairStart r then s
  else if s.byStep r then s.gate r 63 48 (!s.byHeat r && !s.byDroop r)
  else s.putRegion r { s.region r with gated := false }

/-- DROOP_ALARM: below the alarm level (rule R402). -/
def droopAlarm (s : State) (r : Nat) : State :=
  if !s.pairStart r || !s.alarmNow r then s
  else if s.byDroop r then s.gate r 47 32 (!s.byHeat r)
  else if s.inExchange r && !s.floorNow r then
    let x := s.region r
    s.putRegion r { x with rpst := countIn x.rpst 15 8 1 }
  else s

/-- DROOP_BELOW_FLOOR: in compute phase as the alarm; in exchange phase a loss (rules R181, R402). -/
def droopFloor (s : State) (r : Nat) : State :=
  if !s.pairStart r || !s.floorNow r then s
  else if s.inExchange r then
    match s.partOfRegion r with
    | some p => s.addLoss p 0x0C 0xFFFF 0 r
    | none => s
  else if s.byDroop r && !s.alarmNow r then s.gate r 47 32 (!s.byHeat r)
  else s

/-- THERMAL_HOT and THERMAL_CRIT (rule R402). -/
def thermalHot (s : State) (r : Nat) : State :=
  if s.pairStart r && s.byHeat r && !s.critNow r then s.gate r 31 16 true else s
def thermalCrit (s : State) (r : Nat) : State :=
  if s.pairStart r && s.byHeat r && s.critNow r then s.gate r 31 16 true else s

/-- POWER_LIMIT_GATE: module power has reached PLIM; PWRG is set where the gate acts (rule R402). -/
def powerGate (s : State) (r : Nat) : State :=
  if !s.pairStart r || !s.byPower r then s
  else
    let s1 := s.gate r 0 0 false
    s1.putRegion r { s1.region r with rpst := (s1.region r).rpst ||| 0x20 }

/-- The power events of a region on this cycle, in the order in which they are taken. -/
def powerEvents (s : State) (r : Nat) : List (Instr × Arg) :=
  let a := { Arg.none with region := r }
  let ev := fun (b : Bool) (i : Instr) => if b then [(i, a)] else []
  if !s.pairStart r then []
  else
    ev (s.overNow r) .overtempPowerOff
      ++ ev ((s.region r).gated || s.byStep r) .issueGatePair
      ++ ev (s.alarmNow r) .droopAlarm
      ++ ev (s.floorNow r) .droopBelowFloor
      ++ ev (s.byHeat r && !s.critNow r) .thermalHot
      ++ ev (s.byHeat r && s.critNow r) .thermalCrit
      ++ ev (s.byPower r) .powerLimitGate

/-! ### Registers that show live conditions (rules R401, R403, R404, R407) -/

def ractWord (x : Region) : Word := atBit (min 0xFFFFFFFF x.prev) 32 ||| atBit (min 0xFFFFFFFF x.act) 0
def rthermWord (x : Region) : Word := (x.rthnext.getD x.rtherm) ||| atBit (min 0xFFFF x.temp) 0
def rpctlWord (x : Region) : Word := x.rpnext.getD x.rpctl
def rpstWord (s : State) (r : Nat) : Word :=
  (s.region r).rpst ||| atBit (s.critNow r).toNat 3 ||| atBit (s.hotNow r).toNat 2 ||| atBit (s.alarmNow r).toNat 1
def rvoltWord (r : Nat) (x : Region) : Word := atBit x.supplyMv 32 ||| atBit r 8 ||| atBit (x.voff.emod 256).toNat 0
def mstagWord (m : Module) : Word := (m.mstagNext.getD m.mstag) ||| atBit (min 0xFFFF m.watts) 48

/-! ### Loss of power (rules R93, R402) -/

/-- A granule takes the bytes and the poison mark of one side of a write. -/
def putSide (s : State) (e : GranuleLog) (side : Nat × Byte × Byte → Byte) (mark : Option Bool) : State :=
  s.atHome e.granule (e.bytes.map (fun b => (b.1, side b))) mark

/-- The loss of power undoes a write: its card's token is not done, and the card's writes of the granule are lost, a free pick for the
two (rule R93). -/
def lost (s : State) (e : GranuleLog) : Bool :=
  match e.card with
  | none => false
  | some id => s.cards.any (fun c => c.id == id) && s.pick (id + 64 * e.granule) 2 == 1

/-- Each persistent granule that a card wrote whose token is not done holds that card's old or its new bytes; what another card or agent
wrote there stays (rule R93): the writes are taken back, latest first, and those that are not lost are made again, oldest first. -/
def tearCards (s : State) : State :=
  let s1 := s.journal.foldr (fun e s => s.putSide e (·.2.1) (some e.was)) s
  s.journal.foldl (fun t e => if s.lost e then t else t.putSide e (·.2.2) e.mark) s1

/-- Power is lost: what the persistent ranges hold stays, with the marks that a checkpoint saved, the fused maps and the installer
keys; everything else is as after module reset, without power. -/
def loseDown (s : State) : State :=
  let t := s.tearCards
  let keep := fun (c : Host.Cell) => t.isPersistent c.1
  { State.reset with
    mem := { cells := t.mem.cells.filter keep }
    poison := t.poison.filter (fun g => t.isPersistent (64 * g))
    reticles := t.reticles.map (fun (x : Reticle) => { Reticle.reset 0 with fused := x.fused, live := x.fused })
    module := { Module.reset with instkey := t.module.instkey, ckptBad := t.module.ckptBad }
    power := false, agenda := [], seed := t.seed + 1
    inbox := t.inbox.map (fun e => (e.1 - t.cycle, e.2)) }

/-! ### Debug stops (rules R409, R410) -/

/-- A core that has stopped, or that stands as a stop leaves it. -/
def stoodStill (c : Core) : Bool :=
  match c.ctl.mode with
  | .running => false
  | .bound => false
  | _ => true

/-- DONE is due: every core of the partition has stopped. -/
def debugDone (s : State) (p : Nat) : Bool :=
  let d := (s.part p).dstop
  d.getLsbD 0 && !d.getLsbD 1 && s.runs p && (s.coresIn p).all stoodStill

/-- DONE sets, and the partition counts as stopped. -/
def debugSettle (s : State) (p : Nat) : State :=
  if s.debugDone p then s.onPart p (fun q => { q with dstop := q.dstop ||| 2, tstop := q.tstop ||| (1 <<< 63) }) else s

/-- REQ = 1; DONE sets at once where the partition is already stopped (rule R410). -/
def debugRequest (s : State) (p : Nat) : State :=
  (s.onPart p (fun q => { q with dstop := q.dstop ||| (if s.stopped p then 3 else 1) })).debugSettle p

/-- REQ = 0: before DONE it withdraws the request, and cores that have stopped for it go on. -/
def debugWithdraw (s : State) (p : Nat) : State :=
  if (s.part p).dstop.getLsbD 1 then s
  else
    (s.mapPart p (fun c => if c.ctl.mode == .frozen .debug then resumeCore s.cycle c else c)).onPart p (fun q =>
      { q with dstop := 0 })

end State

/-! ### The events, with the region in `region` or the partition in `part` -/

/-- A step boundary (rule R399). -/
def execActivityStep (s : State) : Out := .next (s.activityStep s.arg.region)
/-- A pair of fabric cycles begins (rule R400). -/
def execIssueGatePair (s : State) : Out := .next (s.issueGate s.arg.region)
/-- The droop alarm (rule R402). -/
def execDroopAlarm (s : State) : Out := .next (s.droopAlarm s.arg.region)
/-- A supply below the exchange floor (rules R181, R402). -/
def execDroopBelowFloor (s : State) : Out := .next (s.droopFloor s.arg.region)
/-- A region at or above THOT (rule R402). -/
def execThermalHot (s : State) : Out := .next (s.thermalHot s.arg.region)
/-- A region at or above TCRIT (rule R402). -/
def execThermalCrit (s : State) : Out := .next (s.thermalCrit s.arg.region)
/-- 125 °C or more: the module powers off (rule R402). -/
def execOvertempPowerOff (s : State) : Out := .next s.loseDown
/-- Module power at PLIM (rule R402). -/
def execPowerLimitGate (s : State) : Out := .next (s.powerGate s.arg.region)
/-- A write of RPCTL (rule R401). -/
def execRpctlWrite (s : State) : Out := .next (s.rpctlSet s.arg.region s.arg.value)
/-- A write of RTHERM (rule R403). -/
def execRthermWrite (s : State) : Out := .next (s.rthermSet s.arg.region s.arg.value)
/-- A write of MSTAG (rule R404). -/
def execMstagWrite (s : State) : Out := .next (s.mstagSet s.arg.value)
/-- The supply is lost from outside (rule R93). -/
def execPowerLoss (s : State) : Out := .next s.loseDown
/-- DSTOP.REQ = 1 (rule R409). -/
def execDebugStopRequest (s : State) : Out := .next (s.debugRequest s.arg.part)
/-- DSTOP.REQ = 0 (rule R409). -/
def execDebugStopWithdraw (s : State) : Out := .next (s.debugWithdraw s.arg.part)

end Sys2Proof.Machine
end

