-- ==== Sys2Proof/Machine/VectorA.lean ====
section
/-! DEFINITION. The VA slot: floating-point, integer and bit lanes, lane movement, reductions and carry-less products
(rules R273 to R281, R288). -/

namespace Sys2Proof.Machine

/-- A vector result written to `d`, seen `lat` core cycles later. -/
def putV (sl : Slot) (op lat : Nat) (d : BitVec 6) (x : Vec) (s : State) : State :=
  s.act (fun c => c.land sl op lat (.vreg (physV c.reg.rotb d) x))

/-- A vector result whose `n` elements, standing `slot` bits apart, are of format `f`, with the NaN that it produces
(rule R288); `fa` and `fb` are the operand formats of TNAN0 (rule R356). -/
def putF (sl : Slot) (op lat : Nat) (f : Fmt) (slot n : Nat) (fa fb : Word32) (d : BitVec 6) (x : Vec) (s : State) : State :=
  s.act (fun c => c.land sl op lat (.vreg (physV c.reg.rotb d) x)
    ((producedNan f slot n x).map (fun e =>
      { unit := if sl = .va then 0 else 1, acc := 0, fa := fa, fb := fb, elem := some e })))

/-- A result in every lane of a format: `k` is the format-register value of the format. -/
def putLanes (sl : Slot) (op lat : Nat) (f : Fmt) (k : Word32) (d : BitVec 6) (x : Vec) (s : State) : State :=
  putF sl op lat f f.width (2048 / f.width) k k d x s

/-- A two-operand lane operation of VA on `w`-bit lanes. -/
def vaLanes (op w : Nat) (o : R3Ops) (f : Nat → Nat → Nat) (s : State) : State :=
  putV .va op 2 o.d (zipLanes w f (s.core.rv o.a) (s.core.rv o.b)) s

/-- A comparison of integer lanes. -/
def vaCmp (op w : Nat) (o : R3xOps) (f : Nat → Int) (s : State) : State :=
  putV .va op 2 o.d (zipLanes w (fun a b => iCmp w o.x (f a) (f b)) (s.core.rv o.a) (s.core.rv o.b)) s

/-- Lane-wise FP32 add in the named rounding mode (rule R273). -/
def execVaddF32 (o : R3xOps) (s : State) : Out :=
  issue (.vaddF32 o) o.g
    (fun s => putLanes .va 0x00 2 .f32 3 o.d (zipLanes 32 (fAdd .f32 (.ofCode o.x)) (s.core.rv o.a) (s.core.rv o.b)) s) s

/-- Lane-wise FP32 subtract (rule R273). -/
def execVsubF32 (o : R3xOps) (s : State) : Out :=
  issue (.vsubF32 o) o.g
    (fun s => putLanes .va 0x04 2 .f32 3 o.d (zipLanes 32 (fSub .f32 (.ofCode o.x)) (s.core.rv o.a) (s.core.rv o.b)) s) s

/-- FP32 minimum, NaN-propagating (rule R273). -/
def execVminF32 (o : R3Ops) (s : State) : Out :=
  issue (.vminF32 o) o.g
    (fun s => putLanes .va 0x08 2 .f32 3 o.d (zipLanes 32 (minMax .f32 false false) (s.core.rv o.a) (s.core.rv o.b)) s) s

/-- FP32 maximum, NaN-propagating (rule R273). -/
def execVmaxF32 (o : R3Ops) (s : State) : Out :=
  issue (.vmaxF32 o) o.g
    (fun s => putLanes .va 0x0C 2 .f32 3 o.d (zipLanes 32 (minMax .f32 true false) (s.core.rv o.a) (s.core.rv o.b)) s) s

/-- FP32 minimum ignoring a NaN operand (rule R273). -/
def execVminnF32 (o : R3Ops) (s : State) : Out :=
  issue (.vminnF32 o) o.g
    (fun s => putLanes .va 0x10 2 .f32 3 o.d (zipLanes 32 (minMax .f32 false true) (s.core.rv o.a) (s.core.rv o.b)) s) s

/-- FP32 maximum ignoring a NaN operand (rule R273). -/
def execVmaxnF32 (o : R3Ops) (s : State) : Out :=
  issue (.vmaxnF32 o) o.g
    (fun s => putLanes .va 0x14 2 .f32 3 o.d (zipLanes 32 (minMax .f32 true true) (s.core.rv o.a) (s.core.rv o.b)) s) s

/-- FP32 lane compare into an all-ones or all-zeros mask (rule R274). -/
def execVcmpF32 (o : R3xOps) (s : State) : Out :=
  issue (.vcmpF32 o) o.g
    (fun s => putV .va 0x18 2 o.d (zipLanes 32 (fCmp .f32 o.x) (s.core.rv o.a) (s.core.rv o.b)) s) s

/-- Lane-wise FP16 add (rule R273). -/
def execVaddF16 (o : R3xOps) (s : State) : Out :=
  issue (.vaddF16 o) o.g
    (fun s => putLanes .va 0x01 2 .f16 1 o.d (zipLanes 16 (fAdd .f16 (.ofCode o.x)) (s.core.rv o.a) (s.core.rv o.b)) s) s

/-- Lane-wise FP16 subtract (rule R273). -/
def execVsubF16 (o : R3xOps) (s : State) : Out :=
  issue (.vsubF16 o) o.g
    (fun s => putLanes .va 0x05 2 .f16 1 o.d (zipLanes 16 (fSub .f16 (.ofCode o.x)) (s.core.rv o.a) (s.core.rv o.b)) s) s

/-- FP16 minimum, NaN-propagating (rule R273). -/
def execVminF16 (o : R3Ops) (s : State) : Out :=
  issue (.vminF16 o) o.g
    (fun s => putLanes .va 0x09 2 .f16 1 o.d (zipLanes 16 (minMax .f16 false false) (s.core.rv o.a) (s.core.rv o.b)) s) s

/-- FP16 maximum, NaN-propagating (rule R273). -/
def execVmaxF16 (o : R3Ops) (s : State) : Out :=
  issue (.vmaxF16 o) o.g
    (fun s => putLanes .va 0x0D 2 .f16 1 o.d (zipLanes 16 (minMax .f16 true false) (s.core.rv o.a) (s.core.rv o.b)) s) s

/-- FP16 minimum ignoring a NaN operand (rule R273). -/
def execVminnF16 (o : R3Ops) (s : State) : Out :=
  issue (.vminnF16 o) o.g
    (fun s => putLanes .va 0x11 2 .f16 1 o.d (zipLanes 16 (minMax .f16 false true) (s.core.rv o.a) (s.core.rv o.b)) s) s

/-- FP16 maximum ignoring a NaN operand (rule R273). -/
def execVmaxnF16 (o : R3Ops) (s : State) : Out :=
  issue (.vmaxnF16 o) o.g
    (fun s => putLanes .va 0x15 2 .f16 1 o.d (zipLanes 16 (minMax .f16 true true) (s.core.rv o.a) (s.core.rv o.b)) s) s

/-- FP16 lane compare into a mask (rule R274). -/
def execVcmpF16 (o : R3xOps) (s : State) : Out :=
  issue (.vcmpF16 o) o.g
    (fun s => putV .va 0x19 2 o.d (zipLanes 16 (fCmp .f16 o.x) (s.core.rv o.a) (s.core.rv o.b)) s) s

/-- Lane-wise BF16 add (rule R273). -/
def execVaddBf16 (o : R3xOps) (s : State) : Out :=
  issue (.vaddBf16 o) o.g
    (fun s => putLanes .va 0x02 2 .bf16 2 o.d (zipLanes 16 (fAdd .bf16 (.ofCode o.x)) (s.core.rv o.a) (s.core.rv o.b)) s) s

/-- Lane-wise BF16 subtract (rule R273). -/
def execVsubBf16 (o : R3xOps) (s : State) : Out :=
  issue (.vsubBf16 o) o.g
    (fun s => putLanes .va 0x06 2 .bf16 2 o.d (zipLanes 16 (fSub .bf16 (.ofCode o.x)) (s.core.rv o.a) (s.core.rv o.b)) s) s

/-- BF16 minimum, NaN-propagating (rule R273). -/
def execVminBf16 (o : R3Ops) (s : State) : Out :=
  issue (.vminBf16 o) o.g
    (fun s => putLanes .va 0x0A 2 .bf16 2 o.d (zipLanes 16 (minMax .bf16 false false) (s.core.rv o.a) (s.core.rv o.b)) s) s

/-- BF16 maximum, NaN-propagating (rule R273). -/
def execVmaxBf16 (o : R3Ops) (s : State) : Out :=
  issue (.vmaxBf16 o) o.g
    (fun s => putLanes .va 0x0E 2 .bf16 2 o.d (zipLanes 16 (minMax .bf16 true false) (s.core.rv o.a) (s.core.rv o.b)) s) s

/-- BF16 minimum ignoring a NaN operand (rule R273). -/
def execVminnBf16 (o : R3Ops) (s : State) : Out :=
  issue (.vminnBf16 o) o.g
    (fun s => putLanes .va 0x12 2 .bf16 2 o.d (zipLanes 16 (minMax .bf16 false true) (s.core.rv o.a) (s.core.rv o.b)) s) s

/-- BF16 maximum ignoring a NaN operand (rule R273). -/
def execVmaxnBf16 (o : R3Ops) (s : State) : Out :=
  issue (.vmaxnBf16 o) o.g
    (fun s => putLanes .va 0x16 2 .bf16 2 o.d (zipLanes 16 (minMax .bf16 true true) (s.core.rv o.a) (s.core.rv o.b)) s) s

/-- BF16 lane compare into a mask (rule R274). -/
def execVcmpBf16 (o : R3xOps) (s : State) : Out :=
  issue (.vcmpBf16 o) o.g
    (fun s => putV .va 0x1A 2 o.d (zipLanes 16 (fCmp .bf16 o.x) (s.core.rv o.a) (s.core.rv o.b)) s) s

/-- Wrapping 8-bit lane add (rule R275). -/
def execViaddI8 (o : R3Ops) (s : State) : Out :=
  issue (.viaddI8 o) o.g
    (vaLanes 0x20 8 o (fun a b => (a + b) % 2 ^ 8)) s

/-- Wrapping 8-bit lane subtract (rule R275). -/
def execVisubI8 (o : R3Ops) (s : State) : Out :=
  issue (.visubI8 o) o.g
    (vaLanes 0x24 8 o (fun a b => (a + (2 ^ 8 - b)) % 2 ^ 8)) s

/-- Signed saturating 8-bit add (rule R275). -/
def execViaddsI8 (o : R3Ops) (s : State) : Out :=
  issue (.viaddsI8 o) o.g
    (vaLanes 0x28 8 o (fun a b => satI (sx 8 a + sx 8 b) 8)) s

/-- Unsigned saturating 8-bit add (rule R275). -/
def execViaddsN8 (o : R3Ops) (s : State) : Out :=
  issue (.viaddsN8 o) o.g
    (vaLanes 0x2C 8 o (fun a b => satN ((a : Int) + b) 8)) s

/-- Signed saturating 8-bit subtract (rule R275). -/
def execVisubsI8 (o : R3Ops) (s : State) : Out :=
  issue (.visubsI8 o) o.g
    (vaLanes 0x30 8 o (fun a b => satI (sx 8 a - sx 8 b) 8)) s

/-- Unsigned saturating 8-bit subtract (rule R275). -/
def execVisubsN8 (o : R3Ops) (s : State) : Out :=
  issue (.visubsN8 o) o.g
    (vaLanes 0x34 8 o (fun a b => satN ((a : Int) - b) 8)) s

/-- Signed 8-bit lane minimum (rule R275). -/
def execViminI8 (o : R3Ops) (s : State) : Out :=
  issue (.viminI8 o) o.g
    (vaLanes 0x38 8 o (fun a b => if sx 8 b < sx 8 a then b else a)) s

/-- Unsigned 8-bit lane minimum (rule R275). -/
def execViminN8 (o : R3Ops) (s : State) : Out :=
  issue (.viminN8 o) o.g
    (vaLanes 0x3C 8 o (fun a b => if b < a then b else a)) s

/-- Signed 8-bit lane maximum (rule R275). -/
def execVimaxI8 (o : R3Ops) (s : State) : Out :=
  issue (.vimaxI8 o) o.g
    (vaLanes 0x40 8 o (fun a b => if sx 8 a < sx 8 b then b else a)) s

/-- Unsigned 8-bit lane maximum (rule R275). -/
def execVimaxN8 (o : R3Ops) (s : State) : Out :=
  issue (.vimaxN8 o) o.g
    (vaLanes 0x44 8 o (fun a b => if a < b then b else a)) s

/-- Signed 8-bit lane compare into a mask (rule R275). -/
def execVicmpI8 (o : R3xOps) (s : State) : Out :=
  issue (.vicmpI8 o) o.g
    (vaCmp 0x48 8 o (sx 8)) s

/-- Unsigned 8-bit lane compare into a mask (rule R275). -/
def execVicmpN8 (o : R3xOps) (s : State) : Out :=
  issue (.vicmpN8 o) o.g
    (vaCmp 0x4C 8 o (fun x => (x : Int))) s

/-- Wrapping 16-bit lane add (rule R275). -/
def execViaddI16 (o : R3Ops) (s : State) : Out :=
  issue (.viaddI16 o) o.g
    (vaLanes 0x21 16 o (fun a b => (a + b) % 2 ^ 16)) s

/-- Wrapping 16-bit lane subtract (rule R275). -/
def execVisubI16 (o : R3Ops) (s : State) : Out :=
  issue (.visubI16 o) o.g
    (vaLanes 0x25 16 o (fun a b => (a + (2 ^ 16 - b)) % 2 ^ 16)) s

/-- Signed saturating 16-bit add (rule R275). -/
def execViaddsI16 (o : R3Ops) (s : State) : Out :=
  issue (.viaddsI16 o) o.g
    (vaLanes 0x29 16 o (fun a b => satI (sx 16 a + sx 16 b) 16)) s

/-- Unsigned saturating 16-bit add (rule R275). -/
def execViaddsN16 (o : R3Ops) (s : State) : Out :=
  issue (.viaddsN16 o) o.g
    (vaLanes 0x2D 16 o (fun a b => satN ((a : Int) + b) 16)) s

/-- Signed saturating 16-bit subtract (rule R275). -/
def execVisubsI16 (o : R3Ops) (s : State) : Out :=
  issue (.visubsI16 o) o.g
    (vaLanes 0x31 16 o (fun a b => satI (sx 16 a - sx 16 b) 16)) s

/-- Unsigned saturating 16-bit subtract (rule R275). -/
def execVisubsN16 (o : R3Ops) (s : State) : Out :=
  issue (.visubsN16 o) o.g
    (vaLanes 0x35 16 o (fun a b => satN ((a : Int) - b) 16)) s

/-- Signed 16-bit lane minimum (rule R275). -/
def execViminI16 (o : R3Ops) (s : State) : Out :=
  issue (.viminI16 o) o.g
    (vaLanes 0x39 16 o (fun a b => if sx 16 b < sx 16 a then b else a)) s

/-- Unsigned 16-bit lane minimum (rule R275). -/
def execViminN16 (o : R3Ops) (s : State) : Out :=
  issue (.viminN16 o) o.g
    (vaLanes 0x3D 16 o (fun a b => if b < a then b else a)) s

/-- Signed 16-bit lane maximum (rule R275). -/
def execVimaxI16 (o : R3Ops) (s : State) : Out :=
  issue (.vimaxI16 o) o.g
    (vaLanes 0x41 16 o (fun a b => if sx 16 a < sx 16 b then b else a)) s

/-- Unsigned 16-bit lane maximum (rule R275). -/
def execVimaxN16 (o : R3Ops) (s : State) : Out :=
  issue (.vimaxN16 o) o.g
    (vaLanes 0x45 16 o (fun a b => if a < b then b else a)) s

/-- Signed 16-bit lane compare into a mask (rule R275). -/
def execVicmpI16 (o : R3xOps) (s : State) : Out :=
  issue (.vicmpI16 o) o.g
    (vaCmp 0x49 16 o (sx 16)) s

/-- Unsigned 16-bit lane compare into a mask (rule R275). -/
def execVicmpN16 (o : R3xOps) (s : State) : Out :=
  issue (.vicmpN16 o) o.g
    (vaCmp 0x4D 16 o (fun x => (x : Int))) s

/-- Wrapping 32-bit lane add (rule R275). -/
def execViaddI32 (o : R3Ops) (s : State) : Out :=
  issue (.viaddI32 o) o.g
    (vaLanes 0x22 32 o (fun a b => (a + b) % 2 ^ 32)) s

/-- Wrapping 32-bit lane subtract (rule R275). -/
def execVisubI32 (o : R3Ops) (s : State) : Out :=
  issue (.visubI32 o) o.g
    (vaLanes 0x26 32 o (fun a b => (a + (2 ^ 32 - b)) % 2 ^ 32)) s

/-- Signed saturating 32-bit add (rule R275). -/
def execViaddsI32 (o : R3Ops) (s : State) : Out :=
  issue (.viaddsI32 o) o.g
    (vaLanes 0x2A 32 o (fun a b => satI (sx 32 a + sx 32 b) 32)) s

/-- Unsigned saturating 32-bit add (rule R275). -/
def execViaddsN32 (o : R3Ops) (s : State) : Out :=
  issue (.viaddsN32 o) o.g
    (vaLanes 0x2E 32 o (fun a b => satN ((a : Int) + b) 32)) s

/-- Signed saturating 32-bit subtract (rule R275). -/
def execVisubsI32 (o : R3Ops) (s : State) : Out :=
  issue (.visubsI32 o) o.g
    (vaLanes 0x32 32 o (fun a b => satI (sx 32 a - sx 32 b) 32)) s

/-- Unsigned saturating 32-bit subtract (rule R275). -/
def execVisubsN32 (o : R3Ops) (s : State) : Out :=
  issue (.visubsN32 o) o.g
    (vaLanes 0x36 32 o (fun a b => satN ((a : Int) - b) 32)) s

/-- Signed 32-bit lane minimum (rule R275). -/
def execViminI32 (o : R3Ops) (s : State) : Out :=
  issue (.viminI32 o) o.g
    (vaLanes 0x3A 32 o (fun a b => if sx 32 b < sx 32 a then b else a)) s

/-- Unsigned 32-bit lane minimum (rule R275). -/
def execViminN32 (o : R3Ops) (s : State) : Out :=
  issue (.viminN32 o) o.g
    (vaLanes 0x3E 32 o (fun a b => if b < a then b else a)) s

/-- Signed 32-bit lane maximum (rule R275). -/
def execVimaxI32 (o : R3Ops) (s : State) : Out :=
  issue (.vimaxI32 o) o.g
    (vaLanes 0x42 32 o (fun a b => if sx 32 a < sx 32 b then b else a)) s

/-- Unsigned 32-bit lane maximum (rule R275). -/
def execVimaxN32 (o : R3Ops) (s : State) : Out :=
  issue (.vimaxN32 o) o.g
    (vaLanes 0x46 32 o (fun a b => if a < b then b else a)) s

/-- Signed 32-bit lane compare into a mask (rule R275). -/
def execVicmpI32 (o : R3xOps) (s : State) : Out :=
  issue (.vicmpI32 o) o.g
    (vaCmp 0x4A 32 o (sx 32)) s

/-- Unsigned 32-bit lane compare into a mask (rule R275). -/
def execVicmpN32 (o : R3xOps) (s : State) : Out :=
  issue (.vicmpN32 o) o.g
    (vaCmp 0x4E 32 o (fun x => (x : Int))) s

/-- Wrapping 64-bit lane add (rule R275). -/
def execViaddI64 (o : R3Ops) (s : State) : Out :=
  issue (.viaddI64 o) o.g
    (vaLanes 0x23 64 o (fun a b => (a + b) % 2 ^ 64)) s

/-- Wrapping 64-bit lane subtract (rule R275). -/
def execVisubI64 (o : R3Ops) (s : State) : Out :=
  issue (.visubI64 o) o.g
    (vaLanes 0x27 64 o (fun a b => (a + (2 ^ 64 - b)) % 2 ^ 64)) s

/-- Signed saturating 64-bit add (rule R275). -/
def execViaddsI64 (o : R3Ops) (s : State) : Out :=
  issue (.viaddsI64 o) o.g
    (vaLanes 0x2B 64 o (fun a b => satI (sx 64 a + sx 64 b) 64)) s

/-- Unsigned saturating 64-bit add (rule R275). -/
def execViaddsN64 (o : R3Ops) (s : State) : Out :=
  issue (.viaddsN64 o) o.g
    (vaLanes 0x2F 64 o (fun a b => satN ((a : Int) + b) 64)) s

/-- Signed saturating 64-bit subtract (rule R275). -/
def execVisubsI64 (o : R3Ops) (s : State) : Out :=
  issue (.visubsI64 o) o.g
    (vaLanes 0x33 64 o (fun a b => satI (sx 64 a - sx 64 b) 64)) s

/-- Unsigned saturating 64-bit subtract (rule R275). -/
def execVisubsN64 (o : R3Ops) (s : State) : Out :=
  issue (.visubsN64 o) o.g
    (vaLanes 0x37 64 o (fun a b => satN ((a : Int) - b) 64)) s

/-- Signed 64-bit lane minimum (rule R275). -/
def execViminI64 (o : R3Ops) (s : State) : Out :=
  issue (.viminI64 o) o.g
    (vaLanes 0x3B 64 o (fun a b => if sx 64 b < sx 64 a then b else a)) s

/-- Unsigned 64-bit lane minimum (rule R275). -/
def execViminN64 (o : R3Ops) (s : State) : Out :=
  issue (.viminN64 o) o.g
    (vaLanes 0x3F 64 o (fun a b => if b < a then b else a)) s

/-- Signed 64-bit lane maximum (rule R275). -/
def execVimaxI64 (o : R3Ops) (s : State) : Out :=
  issue (.vimaxI64 o) o.g
    (vaLanes 0x43 64 o (fun a b => if sx 64 a < sx 64 b then b else a)) s

/-- Unsigned 64-bit lane maximum (rule R275). -/
def execVimaxN64 (o : R3Ops) (s : State) : Out :=
  issue (.vimaxN64 o) o.g
    (vaLanes 0x47 64 o (fun a b => if a < b then b else a)) s

/-- Signed 64-bit lane compare into a mask (rule R275). -/
def execVicmpI64 (o : R3xOps) (s : State) : Out :=
  issue (.vicmpI64 o) o.g
    (vaCmp 0x4B 64 o (sx 64)) s

/-- Unsigned 64-bit lane compare into a mask (rule R275). -/
def execVicmpN64 (o : R3xOps) (s : State) : Out :=
  issue (.vicmpN64 o) o.g
    (vaCmp 0x4F 64 o (fun x => (x : Int))) s

/-- Bitwise AND of 2,048 bits (rule R276). -/
def execVand (o : R3Ops) (s : State) : Out :=
  issue (.vand o) o.g
    (fun s => putV .va 0x50 2 o.d (s.core.rv o.a &&& s.core.rv o.b) s) s

/-- Bitwise OR of 2,048 bits (rule R276). -/
def execVor (o : R3Ops) (s : State) : Out :=
  issue (.vor o) o.g
    (fun s => putV .va 0x51 2 o.d (s.core.rv o.a ||| s.core.rv o.b) s) s

/-- Bitwise XOR of 2,048 bits (rule R276). -/
def execVxor (o : R3Ops) (s : State) : Out :=
  issue (.vxor o) o.g
    (fun s => putV .va 0x52 2 o.d (s.core.rv o.a ^^^ s.core.rv o.b) s) s

/-- 8-bit lane shift left (rule R276). -/
def execVshl8 (o : R3Ops) (s : State) : Out :=
  issue (.vshl8 o) o.g
    (vaLanes 0x54 8 o (shlLane 8)) s

/-- 8-bit lane logical shift right (rule R276). -/
def execVshr8 (o : R3Ops) (s : State) : Out :=
  issue (.vshr8 o) o.g
    (vaLanes 0x58 8 o (shrLane 8)) s

/-- 8-bit lane arithmetic shift right (rule R276). -/
def execVsra8 (o : R3Ops) (s : State) : Out :=
  issue (.vsra8 o) o.g
    (vaLanes 0x5C 8 o (sraLane 8)) s

/-- 16-bit lane shift left (rule R276). -/
def execVshl16 (o : R3Ops) (s : State) : Out :=
  issue (.vshl16 o) o.g
    (vaLanes 0x55 16 o (shlLane 16)) s

/-- 16-bit lane logical shift right (rule R276). -/
def execVshr16 (o : R3Ops) (s : State) : Out :=
  issue (.vshr16 o) o.g
    (vaLanes 0x59 16 o (shrLane 16)) s

/-- 16-bit lane arithmetic shift right (rule R276). -/
def execVsra16 (o : R3Ops) (s : State) : Out :=
  issue (.vsra16 o) o.g
    (vaLanes 0x5D 16 o (sraLane 16)) s

/-- 32-bit lane shift left (rule R276). -/
def execVshl32 (o : R3Ops) (s : State) : Out :=
  issue (.vshl32 o) o.g
    (vaLanes 0x56 32 o (shlLane 32)) s

/-- 32-bit lane logical shift right (rule R276). -/
def execVshr32 (o : R3Ops) (s : State) : Out :=
  issue (.vshr32 o) o.g
    (vaLanes 0x5A 32 o (shrLane 32)) s

/-- 32-bit lane arithmetic shift right (rule R276). -/
def execVsra32 (o : R3Ops) (s : State) : Out :=
  issue (.vsra32 o) o.g
    (vaLanes 0x5E 32 o (sraLane 32)) s

/-- 64-bit lane shift left (rule R276). -/
def execVshl64 (o : R3Ops) (s : State) : Out :=
  issue (.vshl64 o) o.g
    (vaLanes 0x57 64 o (shlLane 64)) s

/-- 64-bit lane logical shift right (rule R276). -/
def execVshr64 (o : R3Ops) (s : State) : Out :=
  issue (.vshr64 o) o.g
    (vaLanes 0x5B 64 o (shrLane 64)) s

/-- 64-bit lane arithmetic shift right (rule R276). -/
def execVsra64 (o : R3Ops) (s : State) : Out :=
  issue (.vsra64 o) o.g
    (vaLanes 0x5F 64 o (sraLane 64)) s

/-- Bitwise select between a and b under the mask held in d (rule R277). -/
def execVsel (o : R3Ops) (s : State) : Out :=
  issue (.vsel o) o.g
    (fun s => let m := s.core.rv o.d; putV .va 0x60 2 o.d ((m &&& s.core.rv o.a) ||| (~~~m &&& s.core.rv o.b)) s) s

/-- Byte-lane permutation by index (rule R278). -/
def execVshufB (o : R3Ops) (s : State) : Out :=
  issue (.vshufB o) o.g
    (fun s => putV .va 0x61 3 o.d (vShuf 8 (s.core.rv o.a) (s.core.rv o.b)) s) s

/-- 16-bit-lane permutation by index (rule R278). -/
def execVshufH (o : R3Ops) (s : State) : Out :=
  issue (.vshufH o) o.g
    (fun s => putV .va 0x62 3 o.d (vShuf 16 (s.core.rv o.a) (s.core.rv o.b)) s) s

/-- 32-bit-lane permutation by index (rule R278). -/
def execVshufW (o : R3Ops) (s : State) : Out :=
  issue (.vshufW o) o.g
    (fun s => putV .va 0x63 3 o.d (vShuf 32 (s.core.rv o.a) (s.core.rv o.b)) s) s

/-- Splat a scalar's low 16 bits into every lane (rule R279). -/
def execVsplatH (o : DaOps) (s : State) : Out :=
  issue (.vsplatH o) o.g
    (fun s => putV .va 0x64 2 o.d (ofLanes 16 (2048 / 16) (fun _ => (s.core.rs o.a).toNat % 2 ^ 16)) s) s

/-- Splat a scalar's low 32 bits into every lane (rule R279). -/
def execVsplatW (o : DaOps) (s : State) : Out :=
  issue (.vsplatW o) o.g
    (fun s => putV .va 0x65 2 o.d (ofLanes 32 (2048 / 32) (fun _ => (s.core.rs o.a).toNat % 2 ^ 32)) s) s

/-- Splat a 64-bit scalar into every lane (rule R279). -/
def execVsplatD (o : DaOps) (s : State) : Out :=
  issue (.vsplatD o) o.g
    (fun s => putV .va 0x66 2 o.d (ofLanes 64 (2048 / 64) (fun _ => (s.core.rs o.a).toNat % 2 ^ 64)) s) s

/-- Extract one 64-bit lane into a scalar register (rule R279). -/
def execVextD (o : RisOps) (s : State) : Out :=
  issue (.vextD o) o.g
    (fun s => putS .va 0x68 2 o.d (BitVec.ofNat 64 (lane (s.core.rv o.a) 64 o.imm.toNat)) s) s

/-- Masked FP32 tree sum broadcast to every lane (rule R280). -/
def execVredF32 (o : R3xOps) (s : State) : Out :=
  issue (.vredF32 o) o.g
    (fun s => putLanes .va 0x70 6 .f32 3 o.d (vRed .f32 (.ofCode o.x) (s.core.rv o.a) (s.core.rv o.b)) s) s

/-- Masked FP16 tree sum (rule R280). -/
def execVredF16 (o : R3xOps) (s : State) : Out :=
  issue (.vredF16 o) o.g
    (fun s => putLanes .va 0x71 6 .f16 1 o.d (vRed .f16 (.ofCode o.x) (s.core.rv o.a) (s.core.rv o.b)) s) s

/-- Masked BF16 tree sum (rule R280). -/
def execVredBf16 (o : R3xOps) (s : State) : Out :=
  issue (.vredBf16 o) o.g
    (fun s => putLanes .va 0x72 6 .bf16 2 o.d (vRed .bf16 (.ofCode o.x) (s.core.rv o.a) (s.core.rv o.b)) s) s

/-- Masked wrapping 8-bit sum (rule R280). -/
def execViredI8 (o : R3Ops) (s : State) : Out :=
  issue (.viredI8 o) o.g
    (fun s => putV .va 0x74 6 o.d (viRed 8 (s.core.rv o.a) (s.core.rv o.b)) s) s

/-- Masked wrapping 16-bit sum (rule R280). -/
def execViredI16 (o : R3Ops) (s : State) : Out :=
  issue (.viredI16 o) o.g
    (fun s => putV .va 0x75 6 o.d (viRed 16 (s.core.rv o.a) (s.core.rv o.b)) s) s

/-- Masked wrapping 32-bit sum (rule R280). -/
def execViredI32 (o : R3Ops) (s : State) : Out :=
  issue (.viredI32 o) o.g
    (fun s => putV .va 0x76 6 o.d (viRed 32 (s.core.rv o.a) (s.core.rv o.b)) s) s

/-- Masked wrapping 64-bit sum (rule R280). -/
def execViredI64 (o : R3Ops) (s : State) : Out :=
  issue (.viredI64 o) o.g
    (fun s => putV .va 0x77 6 o.d (viRed 64 (s.core.rv o.a) (s.core.rv o.b)) s) s

/-- Paired carry-less 64 × 64 multiplies XORed into 128-bit results (rule R281). -/
def execVclmul (o : R3Ops) (s : State) : Out :=
  issue (.vclmul o) o.g
    (fun s => putV .va 0x78 3 o.d (vClmul (s.core.rv o.a) (s.core.rv o.b)) s) s

end Sys2Proof.Machine
end

