-- ==== Sys2Proof/Machine/VectorM.lean ====
section
/-! DEFINITION. The VM slot: products, fused multiply-adds, conversions, special functions and random words (rules R282
to R288). -/

namespace Sys2Proof.Machine

/-- A conversion from FP32 lanes into 64 elements of a format whose register value is `k` (rules R283, R356). -/
def cvtOut (op : Nat) (f : Fmt) (slot : Nat) (fa fb : Word32) (d : BitVec 6) (x : Vec) (s : State) : State :=
  putF .vm op 4 f slot 64 fa fb d x s

/-- A special function on every lane of a format (rules R199, R286). -/
def vmSpecial (op : Nat) (f : Fmt) (k : Word32) (o : DaOps) (g : Nat → Nat) (s : State) : State :=
  putLanes .vm op 8 f k o.d (mapLanes f.width g (s.core.rv o.a)) s

/-- Lane-wise FP32 multiply (rule R282). -/
def execVmulF32 (o : R3xOps) (s : State) : Out :=
  issue (.vmulF32 o) o.g
    (fun s => putLanes .vm 0x00 5 .f32 3 o.d (zipLanes 32 (fMul .f32 (.ofCode o.x)) (s.core.rv o.a) (s.core.rv o.b)) s) s

/-- Fused a × b + d in FP32 (rule R282). -/
def execVfmaF32 (o : R3xOps) (s : State) : Out :=
  issue (.vfmaF32 o) o.g
    (fun s => putLanes .vm 0x04 5 .f32 3 o.d (vFma .f32 (.ofCode o.x) (s.core.rv o.a) (s.core.rv o.b) (s.core.rv o.d)) s) s

/-- Fused d − a × b in FP32 (rule R282). -/
def execVfmsF32 (o : R3xOps) (s : State) : Out :=
  issue (.vfmsF32 o) o.g
    (fun s => putLanes .vm 0x08 5 .f32 3 o.d (vFms .f32 (.ofCode o.x) (s.core.rv o.a) (s.core.rv o.b) (s.core.rv o.d)) s) s

/-- Lane-wise FP16 multiply (rule R282). -/
def execVmulF16 (o : R3xOps) (s : State) : Out :=
  issue (.vmulF16 o) o.g
    (fun s => putLanes .vm 0x01 5 .f16 1 o.d (zipLanes 16 (fMul .f16 (.ofCode o.x)) (s.core.rv o.a) (s.core.rv o.b)) s) s

/-- Fused a × b + d in FP16 (rule R282). -/
def execVfmaF16 (o : R3xOps) (s : State) : Out :=
  issue (.vfmaF16 o) o.g
    (fun s => putLanes .vm 0x05 5 .f16 1 o.d (vFma .f16 (.ofCode o.x) (s.core.rv o.a) (s.core.rv o.b) (s.core.rv o.d)) s) s

/-- Fused d − a × b in FP16 (rule R282). -/
def execVfmsF16 (o : R3xOps) (s : State) : Out :=
  issue (.vfmsF16 o) o.g
    (fun s => putLanes .vm 0x09 5 .f16 1 o.d (vFms .f16 (.ofCode o.x) (s.core.rv o.a) (s.core.rv o.b) (s.core.rv o.d)) s) s

/-- Lane-wise BF16 multiply (rule R282). -/
def execVmulBf16 (o : R3xOps) (s : State) : Out :=
  issue (.vmulBf16 o) o.g
    (fun s => putLanes .vm 0x02 5 .bf16 2 o.d (zipLanes 16 (fMul .bf16 (.ofCode o.x)) (s.core.rv o.a) (s.core.rv o.b)) s) s

/-- Fused a × b + d in BF16 (rule R282). -/
def execVfmaBf16 (o : R3xOps) (s : State) : Out :=
  issue (.vfmaBf16 o) o.g
    (fun s => putLanes .vm 0x06 5 .bf16 2 o.d (vFma .bf16 (.ofCode o.x) (s.core.rv o.a) (s.core.rv o.b) (s.core.rv o.d)) s) s

/-- Fused d − a × b in BF16 (rule R282). -/
def execVfmsBf16 (o : R3xOps) (s : State) : Out :=
  issue (.vfmsBf16 o) o.g
    (fun s => putLanes .vm 0x0A 5 .bf16 2 o.d (vFms .bf16 (.ofCode o.x) (s.core.rv o.a) (s.core.rv o.b) (s.core.rv o.d)) s) s

/-- Convert 64 FP32 lanes to FP16 (rule R283). -/
def execVcvtF16F32 (o : CvOps) (s : State) : Out :=
  issue (.vcvtF16F32 o) o.g
    (fun s => cvtOut 0x10 .f16 16 3 1 o.d (cvtTo16 .f16 (.ofCode (o.m.setWidth 2)) (s.core.rv o.a)) s) s

/-- Convert 64 FP32 lanes to BF16 (rule R283). -/
def execVcvtBf16F32 (o : CvOps) (s : State) : Out :=
  issue (.vcvtBf16F32 o) o.g
    (fun s => cvtOut 0x11 .bf16 16 3 2 o.d (cvtTo16 .bf16 (.ofCode (o.m.setWidth 2)) (s.core.rv o.a)) s) s

/-- Convert 64 FP16 lanes exactly to FP32 (rule R283). -/
def execVcvtF32F16 (o : CvOps) (s : State) : Out :=
  issue (.vcvtF32F16 o) o.g
    (fun s => cvtOut 0x12 .f32 32 1 3 o.d (cvtFrom16 .f16 (s.core.rv o.a)) s) s

/-- Convert 64 BF16 lanes exactly to FP32 (rule R283). -/
def execVcvtF32Bf16 (o : CvOps) (s : State) : Out :=
  issue (.vcvtF32Bf16 o) o.g
    (fun s => cvtOut 0x13 .f32 32 2 3 o.d (cvtFrom16 .bf16 (s.core.rv o.a)) s) s

/-- Convert FP32 to the narrow format of a format register (rule R284). -/
def execVcvtNfF32 (o : CvfOps) (s : State) : Out :=
  issue (.vcvtNfF32 o) o.g
    (fun s => let r := s.core.rf o.f; cvtOut 0x14 (fmtOf r) (narrowSlot r) 3 r o.d (cvtToNf r (.ofCode (o.m.setWidth 2)) (s.core.rv o.a)) s) s

/-- Convert narrow elements to FP32 (rule R284). -/
def execVcvtF32Nf (o : CvfOps) (s : State) : Out :=
  issue (.vcvtF32Nf o) o.g
    (fun s => let r := s.core.rf o.f; cvtOut 0x15 .f32 32 r 3 o.d (cvtFromNf r (.ofCode (o.m.setWidth 2)) (s.core.rv o.a)) s) s

/-- Convert FP32 to clamped I32 (rule R283). -/
def execVcvtI32F32 (o : CvOps) (s : State) : Out :=
  issue (.vcvtI32F32 o) o.g
    (fun s => putV .vm 0x16 4 o.d (cvtToInt (.int 32) (.ofCode (o.m.setWidth 2)) (s.core.rv o.a)) s) s

/-- Convert I32 to FP32 (rule R283). -/
def execVcvtF32I32 (o : CvOps) (s : State) : Out :=
  issue (.vcvtF32I32 o) o.g
    (fun s => putV .vm 0x17 4 o.d (cvtFromInt true (.ofCode (o.m.setWidth 2)) (s.core.rv o.a)) s) s

/-- Convert FP32 to clamped N32 (rule R283). -/
def execVcvtN32F32 (o : CvOps) (s : State) : Out :=
  issue (.vcvtN32F32 o) o.g
    (fun s => putV .vm 0x18 4 o.d (cvtToInt (.nat 32) (.ofCode (o.m.setWidth 2)) (s.core.rv o.a)) s) s

/-- Convert N32 to FP32 (rule R283). -/
def execVcvtF32N32 (o : CvOps) (s : State) : Out :=
  issue (.vcvtF32N32 o) o.g
    (fun s => putV .vm 0x19 4 o.d (cvtFromInt false (.ofCode (o.m.setWidth 2)) (s.core.rv o.a)) s) s

/-- Stochastically rounded FP32 to FP16 conversion, with random words from b (rule R285). -/
def execVcvtsF16F32 (o : R3Ops) (s : State) : Out :=
  issue (.vcvtsF16F32 o) o.g
    (fun s => cvtOut 0x20 .f16 16 3 1 o.d (cvts 16 .f16 (s.core.rv o.a) (s.core.rv o.b)) s) s

/-- Stochastically rounded FP32 to BF16 conversion (rule R285). -/
def execVcvtsBf16F32 (o : R3Ops) (s : State) : Out :=
  issue (.vcvtsBf16F32 o) o.g
    (fun s => cvtOut 0x21 .bf16 16 3 2 o.d (cvts 16 .bf16 (s.core.rv o.a) (s.core.rv o.b)) s) s

/-- Stochastically rounded FP32 to narrow conversion via f0–f3 (rule R285). -/
def execVcvtsNfF32 (o : CsOps) (s : State) : Out :=
  issue (.vcvtsNfF32 o) o.g
    (fun s => let r := s.core.rf (o.f.setWidth 4); cvtOut 0x22 (fmtOf r) (narrowSlot r) 3 r o.d (cvts (narrowSlot r) (fmtOf r) (s.core.rv o.a) (s.core.rv o.b)) s) s

/-- Correctly rounded FP32 reciprocal (rule R286). -/
def execVrcpF32 (o : DaOps) (s : State) : Out :=
  issue (.vrcpF32 o) o.g
    (vmSpecial 0x30 .f32 3 o (rcpRn .f32)) s

/-- FP32 reciprocal square root (rule R286). -/
def execVrsqF32 (o : DaOps) (s : State) : Out :=
  issue (.vrsqF32 o) o.g
    (vmSpecial 0x34 .f32 3 o (rsqRn .f32)) s

/-- FP32 base-2 exponential (rule R286). -/
def execVexp2F32 (o : DaOps) (s : State) : Out :=
  issue (.vexp2F32 o) o.g
    (vmSpecial 0x38 .f32 3 o (exp2Rn .f32)) s

/-- FP32 base-2 logarithm (rule R286). -/
def execVlog2F32 (o : DaOps) (s : State) : Out :=
  issue (.vlog2F32 o) o.g
    (vmSpecial 0x3C .f32 3 o (log2Rn .f32)) s

/-- FP16 reciprocal (rule R286). -/
def execVrcpF16 (o : DaOps) (s : State) : Out :=
  issue (.vrcpF16 o) o.g
    (vmSpecial 0x31 .f16 1 o (rcpRn .f16)) s

/-- FP16 reciprocal square root (rule R286). -/
def execVrsqF16 (o : DaOps) (s : State) : Out :=
  issue (.vrsqF16 o) o.g
    (vmSpecial 0x35 .f16 1 o (rsqRn .f16)) s

/-- FP16 base-2 exponential (rule R286). -/
def execVexp2F16 (o : DaOps) (s : State) : Out :=
  issue (.vexp2F16 o) o.g
    (vmSpecial 0x39 .f16 1 o (exp2Rn .f16)) s

/-- FP16 base-2 logarithm (rule R286). -/
def execVlog2F16 (o : DaOps) (s : State) : Out :=
  issue (.vlog2F16 o) o.g
    (vmSpecial 0x3D .f16 1 o (log2Rn .f16)) s

/-- BF16 reciprocal (rule R286). -/
def execVrcpBf16 (o : DaOps) (s : State) : Out :=
  issue (.vrcpBf16 o) o.g
    (vmSpecial 0x32 .bf16 2 o (rcpRn .bf16)) s

/-- BF16 reciprocal square root (rule R286). -/
def execVrsqBf16 (o : DaOps) (s : State) : Out :=
  issue (.vrsqBf16 o) o.g
    (vmSpecial 0x36 .bf16 2 o (rsqRn .bf16)) s

/-- BF16 base-2 exponential (rule R286). -/
def execVexp2Bf16 (o : DaOps) (s : State) : Out :=
  issue (.vexp2Bf16 o) o.g
    (vmSpecial 0x3A .bf16 2 o (exp2Rn .bf16)) s

/-- BF16 base-2 logarithm (rule R286). -/
def execVlog2Bf16 (o : DaOps) (s : State) : Out :=
  issue (.vlog2Bf16 o) o.g
    (vmSpecial 0x3E .bf16 2 o (log2Rn .bf16)) s

/-- Fill 64 lanes with rand32 of a seed and consecutive counters (rule R287). -/
def execVrand (o : R3Ops) (s : State) : Out :=
  issue (.vrand o) o.g
    (fun s => putV .vm 0x40 4 o.d (vRand ((s.core.rs o.a).setWidth 32) ((s.core.rs o.b).setWidth 32)) s) s

end Sys2Proof.Machine
end

