-- ==== Sys2Proof/Machine/Windows.lean ====
section
/-! DEFINITION. The management windows: what a read of any offset returns and clears, and what a write does (rules R11, R12, R19,
R41, R75, R80, R81, R88, R170, R327 to R351, R359, R378, R386, R390, R395 to R397, R401 to R413). -/

namespace Sys2Proof.Machine

/-- Bytes as the 8-byte word at an offset among them. -/
def wordAt (bs : List Byte) (o : Nat) : Word := BitVec.ofNat 64 (ofBytes ((bs.drop o).take 8))

/-! ### Readback of translations and records (rule R351) -/

/-- The code of a page size, as TINVCTL.SIZE. -/
def sizeCode (size : Nat) : Nat := if size = 17 then 0 else if size = 27 then 1 else 2

def tlbWords (e : TlbEntry) : List Word :=
  [atBit 1 63 ||| atBit e.dying.toNat 62 ||| atBit (sizeCode e.size) 60 ||| atBit e.tag 48 ||| atBit (e.va / 2 ^ 17) 0,
   atBit (e.dpa / 2 ^ 13) 13 ||| atBit e.nm.toNat 6 ||| atBit e.cd.toNat 5 ||| atBit e.at_.toNat 4 ||| atBit e.wr.toNat 3
     ||| atBit e.rd.toNat 2,
   atBit e.count 0, 0]

def leafWords (e : CacheLeaf) : List Word :=
  [atBit 1 63 ||| atBit (sizeCode e.size) 60 ||| atBit e.tag 48 ||| atBit (e.va / 2 ^ 17) 0,
   atBit (e.dpa / 2 ^ 13) 13 ||| atBit (e.perms % 32) 2, 0, 0]

def recordWord (e : RecEntry) (o : Nat) : Word :=
  if o < 0xC0 then e.words.getD (o / 8) 0
  else if o = 0xC0 then atBit 1 63 ||| atBit e.tag 16 ||| atBit e.handle 0
  else 0

namespace State

/-! ### Reads -/

/-- The barrier of a context's superstep has been opened, which its compute phase does, the first at S0 (rules R164, R168). -/
def barrierOpened (s : State) (x : Context) : Bool :=
  match x.stage with
  | .binding _ => false
  | .restoring _ => false
  | .waiting => false
  | .starting => x.began.any (fun t => decide (t ≤ s.cycle))
  | _ => true
/-- It has not completed: no exchange phase, and no pre-emption or loss at its completion (rules R168, R343, R373). -/
def barrierWaits (s : State) (x : Context) : Bool :=
  s.barrierOpened x && x.xphase.isNone && (match x.stage with | .starting => true | .running => true | _ => false)

/-- PBAR (rule R170): the open barrier, the arrivals and WAIT are those of this cycle. -/
def pbarWord (s : State) (p : Nat) : Word :=
  let q := s.part p
  match q.ctx with
  | none => q.pbar
  | some x =>
    let n := if s.barrierOpened x then s.arrivedCount p else 0
    q.pbar ||| atBit x.step 32 ||| atBit n 16 ||| atBit (s.barrierWaits x && n != 0).toNat 0

/-- MIGCTL with AWAY (rule R135). -/
def migctlWord (s : State) : Word :=
  setBits s.module.migctl 47 40 (min 0xFF (s.module.homes.filter (fun h => h.unit != 11)).length)

/-- A word of the error log (rule R378): entry e of the ring. -/
def elogWord (s : State) (o : Nat) : Word :=
  let n := s.module.elogCount.toNat
  let k := s.module.elog.length
  let age := (n + 256 - 1 - o / 16) % 256
  if k ≤ age then 0
  else match s.module.elog[k - 1 - age]? with
    | some e => if o % 16 < 8 then e.1 else e.2
    | none => 0

/-- The blocks that have a directory entry, in ascending number. -/
def directory (s : State) : List Nat :=
  ((s.module.homes.map (·.block) ++ s.module.counts.map (·.block)).eraseDups).mergeSort (fun a b => decide (a ≤ b))

/-- A word of a block's directory entry (rule R135). DESIGN CHOICE, unsafe (log entry 76): entry i of the directory stands at 0x1_0000 +
32i, since no rule gives its place: word 0 holds [63] valid, [62] stays at its controller, [59:56] the unit, [38:0] the block;
words 1 and 2 the eleven counters. -/
def directoryWord (s : State) (o : Nat) : Word :=
  match s.directory[o / 32]? with
  | none => 0
  | some b =>
    let h := s.module.counts.find? (fun h => h.block == b)
    let n := fun (i : Nat) => atBit ((h.map (fun h => h.counts.getD i 0)).getD 0) (8 * (i % 8))
    match o % 32 / 8 with
    | 0 => atBit 1 63 ||| atBit (h.any (·.pinned)).toNat 62 ||| atBit (s.homeOf b) 56 ||| atBit b 0
    | 1 => (List.range 8).foldl (fun w i => w ||| n i) 0
    | 2 => n 8 ||| n 9 ||| n 10
    | _ => 0

def queueWord (x : Queue) (o : Nat) : Word :=
  match o with
  | 0x00 => x.qcfg | 0x08 => x.qbase | 0x10 => x.qcbase | 0x18 => x.qtail | 0x20 => x.qhead | 0x28 => x.qctail
  | 0x30 => x.qchead | 0x38 => x.qstat | _ => 0

/-- A word of the module window. -/
def moduleWord (s : State) (o : Nat) : Word :=
  let m := s.module
  let q := s.sched
  if 0x200 ≤ o && o < 0x280 then m.cxlp.getD ((o - 0x200) / 8) 0
  else if 0x600 ≤ o && o < 0x6C0 then (m.hbmret.getD ((o - 0x600) / 8) 0).setWidth 64
  else if 0x800 ≤ o && o < 0xA00 then m.wroute.getD ((o - 0x800) / 8) 0
  else if 0x1000 ≤ o && o < 0x1080 then (s.part ((o - 0x1000) / 8)).pdef
  else if 0x1080 ≤ o && o < 0x1100 then (s.part ((o - 0x1080) / 8)).preq
  else if 0x1100 ≤ o && o < 0x1140 then q.quant.getD ((o - 0x1100) / 8) 0
  else if 0x2000 ≤ o && o < 0x3000 then queueWord (s.queue ((o - 0x2000) / 0x40)) (o % 0x40)
  else if 0x3000 ≤ o && o < 0x4000 then
    if o % 16 < 8 then q.dtrg.getD ((o - 0x3000) / 16) 0 else q.dend.getD ((o - 0x3000) / 16) 0
  else if 0x6000 ≤ o && o < 0x7000 then s.elogWord (o - 0x6000)
  else if 0x7000 ≤ o && o < 0x7020 then m.topo.getD ((o - 0x7000) / 8) 0
  else if 0x7300 ≤ o && o < 0x7380 then (m.instkey.getD ((o - 0x7300) / 8) none).getD 0
  else if 0x7400 ≤ o && o < 0x7BC0 then
    BitVec.ofNat 64 (ofBytes ((List.range 8).map (fun i => Config.identityKey (o - 0x7400 + i))))
  else if 0x8000 ≤ o && o < 0x8F00 then (s.ret ((o - 0x8000) / 0x50)).fused.getD ((o - 0x8000) % 0x50 / 8) 0
  else if 0x10000 ≤ o then s.directoryWord (o - 0x10000)
  else if 0x9000 ≤ o && o < 0x9F00 then (s.ret ((o - 0x9000) / 0x50)).live.getD ((o - 0x9000) % 0x50 / 8) 0
  else
    match o with
    | 0x300 => m.ckptctl | 0x308 => m.ckptst | 0x400 => s.migctlWord | 0x6C0 => m.hbmrcmd
    | 0x1200 => q.imgcmd | 0x1208 => q.imgarg | 0x1210 => q.imgsize | 0x1218 => q.imgst | 0x1300 => q.ctxarea
    | 0x5000 => atBit m.elogCount.toNat 32
    | 0x7100 => m.radv | 0x7200 => m.plcmd | 0x7208 => m.plsrc | 0x7210 => m.pldst | 0x7218 => m.plst | 0x7220 => m.plroute
    | 0x7C00 => mstagWord m
    | _ => 0

/-- A word of a region's window. Between an accepted write of SHMAPn and the next period the register reads the new value, and later
writes are judged against it: DESIGN CHOICE, unsafe (log entry 89). -/
def regionWord (s : State) (r o : Nat) : Word :=
  let x := s.region r
  let p := s.part r
  match o with
  | 0x000 => x.shnext.getD 0 0 | 0x008 => x.shnext.getD 1 0 | 0x010 => x.shnext.getD 2 0 | 0x018 => x.shnext.getD 3 0
  | 0x020 => x.shstat | 0x080 => s.pbarWord r | 0x088 => p.pstart | 0x090 => p.tstop | 0x098 => p.dstop | 0x0A0 => p.psig
  | 0x0C0 => x.trring | 0x0C8 => atBit x.trdrop 32 ||| atBit x.trhead.toNat 0
  | 0x100 => rpctlWord x | 0x108 => rthermWord x | 0x110 => s.rpstWord r | 0x118 => ractWord x | 0x120 => rvoltWord r x
  | _ => 0

/-- A word of a reticle's window. -/
def reticleWord (s : State) (r o : Nat) : Word :=
  let x := s.ret r
  if 0x10000 ≤ o && o < 0x30000 then
    match x.cache[(o - 0x10000) / 32]? with
    | some e => (leafWords e).getD (o % 32 / 8) 0
    | none => 0
  else
    match o with
    | 0x000 => x.tinvctl | 0x008 => x.tinvva
    | 0x010 => setBits x.tinvst 48 32 (s.heldIn r)
    | 0x100 => s.loomOf r | 0x108 => x.loomst | 0x110 => x.seldly | 0x118 => x.xfence.setWidth 64 | 0x180 => x.bootst
    | _ => 0

/-- A word of a tile's window. DESIGN CHOICE, unsafe (log entry 73): ARRMODE stands at 0x8410, since rule R174 names no offset. -/
def tileWord (s : State) (t o : Nat) : Word :=
  let x := s.tileAt t
  if o < 0x8000 then tableGet x.htab (o / 8)
  else if o < 0x8400 then
    let i := (o - 0x8000) / 8 * 2
    tableGet x.hdir i ||| (tableGet x.hdir (i + 1) <<< 32)
  else if o = 0x8400 then x.xstat
  else if o = 0x8408 then atBit x.pad 0
  else if o = 0x8410 then atBit x.arrmode 0
  else 0

/-- A core's state may be reached through its window: its partition is halted, or it is unbound (rules R19, R350). -/
def coreOpen (s : State) (k : Nat) : Bool := match s.partOf k with | some p => s.halted p | none => true

/-- Its breakpoint and watchpoint registers may be written: a stop alone is no halt for them (rules R364, R367). -/
def debugOpen (s : State) (k : Nat) : Bool := match s.partOf k with | some p => s.atRest p | none => true

/-- A word of a core's window (rules R348 to R351, R359). -/
def coreWord (s : State) (k o : Nat) : Word :=
  let c := s.coreOf k
  if 0x286000 ≤ o && o < 0x286C00 then
    match c.aux.tlb[(o - 0x286000) / 32]? with
    | some e => (tlbWords e).getD (o % 32 / 8) 0
    | none => 0
  else if !s.coreOpen k then 0
  else if o < 0x285000 then c.blockWord o
  else if o < 0x2A0000 then c.trapWord o
  else 0

/-- A word of a window; TINVCTL of the broadcast copy reads GO = 1 until every reticle has completed its request (rule R42). DESIGN CHOICE,
unsafe (log entry 107): the other fields of the copy, and its TINVVA and TINVST, read 0; rule R41 gives it writes and says nothing of what
they read. -/
def windowWord (s : State) (w : Window) (o : Nat) : Word :=
  match w with
  | .module => s.moduleWord o
  | .region r => s.regionWord r o
  | .reticle r => s.reticleWord r o
  | .everyReticle =>
    if o = 0 then (List.range 48).foldl (fun g r => g ||| ((s.ret r).tinvctl &&& 1)) 0 else 0
  | .tile t => s.tileWord t o
  | .block b =>
    if o < 0x4000 then match (s.blockAt b).recs[o / 256]? with | some e => recordWord e (o % 256) | none => 0
    else 0
  | .core k => s.coreWord k o

/-- What a read clears: the RC fields (rule R11). -/
def readClears (s : State) (w : Window) (o : Nat) : State :=
  match w, o with
  | .tile t, 0x8400 => if (s.tileAt t).xstat = 0 then s else s.putTile { s.tileAt t with xstat := (s.tileAt t).xstat &&& 0xFFFF }
  | .reticle r, 0x108 => s.putRet r { s.ret r with loomst := (s.ret r).loomst &&& 0x0000FFFF00FFFFFF }
  | .region r, 0x020 => s.putRegion r { s.region r with shstat := (s.region r).shstat &&& 0xFFFFFFFF0000FFFF }
  | .region r, 0x080 => s.onPart r (fun q => { q with pbar := q.pbar &&& 0xFFFFFFFFFFFF00FF })
  | .region r, 0x0C8 => s.putRegion r { s.region r with trdrop := 0 }
  | .region r, 0x110 => s.putRegion r { s.region r with rpst := (s.region r).rpst &&& 0xFF }
  | _, _ => s

/-- A read through a window. -/
def windowRead (s : State) (w : Window) (o : Nat) : State :=
  { s.readClears w o with readback := s.windowWord w o }

/-! ### Writes -/

/-- A write of a register of the module window; registers with an event of their own act as that event does. -/
def moduleWrite (s : State) (o : Nat) (v : Word) : State :=
  let m := s.module
  let q := s.sched
  if 0x800 ≤ o && o < 0xA00 then s.wrouteSet ((o - 0x800) / 8) v
  else if 0x1000 ≤ o && o < 0x1080 then s.pdefWrite ((o - 0x1000) / 8) v
  else if 0x1080 ≤ o && o < 0x1100 then s.preqWrite ((o - 0x1080) / 8) v
  else if 0x1100 ≤ o && o < 0x1140 then
    { s with sched := { q with quant := q.quant.setIfInBounds ((o - 0x1100) / 8) (v &&& 0xFFFFFFFF) } }
  else if 0x2000 ≤ o && o < 0x3000 then
    let k := (o - 0x2000) / 0x40
    match o % 0x40 with
    | 0x00 => s.qcfgWrite k v
    | 0x08 => s.qbaseWrite k v false
    | 0x10 => s.qbaseWrite k v true
    | 0x18 => s.qtailSet k v
    | 0x30 => s.putQueue k { s.queue k with qchead := v &&& 0xFFFF }
    | _ => s
  else if 0x3000 ≤ o && o < 0x4000 then
    let k := (o - 0x3000) / 16
    if o % 16 < 8 then
      { s with sched := { q with
        dtrg := q.dtrg.setIfInBounds k (fieldWrite (q.dtrg.getD k 0) v 0xFFFFFFFF (1 <<< 63)), dsrc := q.dsrc.setIfInBounds k [] } }
    else { s with sched := { q with dend := q.dend.setIfInBounds k (v &&& 0xFFFFFFFF) } }
  else if 0x7300 ≤ o && o < 0x7380 then s.instkeySet ((o - 0x7300) / 8) v
  else
    match o with
    | 0x300 => s.ckptWrite v
    | 0x400 => s.migWrite v
    | 0x6C0 => s.hbmWrite v
    | 0x1200 => s.imgWrite v
    | 0x1208 => { s with sched := { q with imgarg := v &&& 0x00FFFFFFFFFFFFC0 } }
    | 0x1210 => { s with sched := { q with imgsize := v &&& 0x000000FFFFFFFFFF } }
    | 0x1300 => s.ctxareaSet v
    | 0x7200 => s.placementStart v
    | 0x7208 => { s with module := { m with plsrc := v &&& 0x00FFFFFFFFFFFFC0 } }
    | 0x7210 => { s with module := { m with pldst := v &&& 0x00FFFFFFFFFFFFC0 } }
    | 0x7C00 => s.mstagSet v
    | _ => s

/-- A write of a register of a region's window. -/
def regionWrite (s : State) (r o : Nat) (v : Word) : State :=
  let x := s.region r
  match o with
  | 0x000 => s.shmapWrite r 0 v
  | 0x008 => s.shmapWrite r 1 v
  | 0x010 => s.shmapWrite r 2 v
  | 0x018 => s.shmapWrite r 3 v
  | 0x020 => s.putRegion r { x with shstat := fieldWrite x.shstat v 0 0x3 }
  | 0x080 => s.onPart r (fun q => { q with pbar := fieldWrite q.pbar v 0 0x2 })
  | 0x090 => s.tstopWrite r v
  | 0x098 => if v.getLsbD 0 then s.debugRequest r else s.debugWithdraw r
  | 0x0C0 => s.trringSet r v
  | 0x100 => s.rpctlSet r v
  | 0x108 => s.rthermSet r v
  | 0x110 => s.putRegion r { x with rpst := fieldWrite x.rpst v 0 0x30 }
  | _ => s

/-- A write of a register of a reticle's window. -/
def reticleWrite (s : State) (r o : Nat) (v : Word) : State :=
  let x := s.ret r
  match o with
  | 0x000 => s.tinvWrite r v
  | 0x008 => s.putRet r { x with tinvva := v &&& 0x01FFFFFFFFFE0000 }
  | 0x108 => s.putRet r { x with loomst := fieldWrite x.loomst v 0 0xF0002 }
  | _ => s

/-- A write of ARRMODE through the tile's window (rule R174): it counts while the partition is halted or the tile unbound, and the
value 3 is ignored. -/
def arrmodeWrite (s : State) (t : Nat) (v : Word) : State :=
  let m := bits v 1 0
  if m = 3 || !(match s.partOf (2 * t) with | some p => s.halted p | none => true) then s
  else s.putTile { s.tileAt t with arrmode := m }

/-- A write of a register of a tile's window. -/
def tileWrite (s : State) (t o : Nat) (v : Word) : State :=
  if o < 0x8400 then s.heddleWrite t o v
  else if o = 0x8410 then s.arrmodeWrite t v
  else if o = 0x8400 then s.putTile { s.tileAt t with xstat := fieldWrite (s.tileAt t).xstat v 0 0x3 }
  else s

/-- A write of IMEM, local space or core state through a core's window (rules R18, R19, R348, R350): it counts while the partition
is halted or the core unbound. Words of storage keep their poison, since eight bytes cover no whole word (rule R67); the agent
that the log names for a write of the window is a free value, since rule R69 lists none. The format registers are written by
FMT.WR alone (rule R188), and of the trap area only the breakpoint and watchpoint registers are writable (rules R359, R367). -/
def coreWrite (s : State) (k o : Nat) (v : Word) : State :=
  if !s.coreOpen k || 0x286000 ≤ o then s
  else if 0x285000 ≤ o then if s.debugOpen k then s.onCore k (fun c => c.putDebugWord o v) else s
  else if 0x284E80 ≤ o && o < 0x284EC0 then s
  else
    let c := s.coreOf k
    let bs := toBytes 8 v.toNat
    if o < 0x240000 then
      let (c', ns) := c.storeBytes (s.free 8) o bs []
      (s.drawn.putCore c').notes k ns
    else if o < 0x280000 then
      let a := o - 0x240000
      let c' := { c with
        mem := { c.mem with
          imem := c.mem.imem.write a bs, imemSoft := c.mem.imemSoft.filter (· != a / 16)
          codeLines := (c.mem.codeLines ++ [a / 64]).eraseDups }
        aux := (c.dropFixes true [a / 16]).aux }
      let s1 := s.putCore c'
      if c.mem.imemBad.contains (a / 16) then s1.note k (.log (logLocal false k (s.free 8) true (a / 16))) |>.drawn else s1
    else s.putCore (c.putBlockWord o v)

/-- A write through a window: an aligned 8-byte word (rules R11, R12). -/
def windowWrite (s : State) (w : Window) (o : Nat) (v : Word) : State :=
  match w with
  | .module => s.moduleWrite o v
  | .region r => s.regionWrite r o v
  | .reticle r => s.reticleWrite r o v
  | .everyReticle => (List.range 48).foldl (fun s r => s.reticleWrite r o v) s
  | .tile t => s.tileWrite t o v
  | .block _ => s
  | .core k => s.coreWrite k o v

end State

/-! ### The events, with the window in `win`, the offset in `off` and the written value in `value` -/

/-- A read through a management window: RC fields are returned and cleared (rule R11). -/
def execRcRead (s : State) : Out := .next (s.windowRead s.arg.win (s.arg.off / 8 * 8))
/-- A write of a register (rules R11, R12). -/
def execRegisterWrite (s : State) : Out := .next (s.windowWrite s.arg.win (s.arg.off / 8 * 8) s.arg.value)
/-- A write of a core's state through its window (rule R19): the core in `core`. -/
def execManagementWindowWrite (s : State) : Out := .next (s.coreWrite s.arg.core (s.arg.off / 8 * 8) s.arg.value)

end Sys2Proof.Machine
end

