-- ==== Sys2Proof/Machine/Dispatch.lean ====
section
/-! DEFINITION. The one dispatch from instructions and events to their meanings. -/

namespace Sys2Proof.Machine

def exec (i : Instr) (s : State) : Host.Outcome State Fault Refusal :=
  match i with
  | .add sb o => Sys2Proof.Machine.execAdd sb o s
  | .sub sb o => Sys2Proof.Machine.execSub sb o s
  | .and sb o => Sys2Proof.Machine.execAnd sb o s
  | .or sb o => Sys2Proof.Machine.execOr sb o s
  | .xor sb o => Sys2Proof.Machine.execXor sb o s
  | .andn sb o => Sys2Proof.Machine.execAndn sb o s
  | .shl sb o => Sys2Proof.Machine.execShl sb o s
  | .shr sb o => Sys2Proof.Machine.execShr sb o s
  | .sra sb o => Sys2Proof.Machine.execSra sb o s
  | .min sb o => Sys2Proof.Machine.execMin sb o s
  | .max sb o => Sys2Proof.Machine.execMax sb o s
  | .minn sb o => Sys2Proof.Machine.execMinn sb o s
  | .maxn sb o => Sys2Proof.Machine.execMaxn sb o s
  | .mul o => Sys2Proof.Machine.execMul o s
  | .mulh o => Sys2Proof.Machine.execMulh o s
  | .mulhn o => Sys2Proof.Machine.execMulhn o s
  | .addsh o => Sys2Proof.Machine.execAddsh o s
  | .addi sb o => Sys2Proof.Machine.execAddi sb o s
  | .andi sb o => Sys2Proof.Machine.execAndi sb o s
  | .ori sb o => Sys2Proof.Machine.execOri sb o s
  | .shli sb o => Sys2Proof.Machine.execShli sb o s
  | .shri sb o => Sys2Proof.Machine.execShri sb o s
  | .srai sb o => Sys2Proof.Machine.execSrai sb o s
  | .movi sb o => Sys2Proof.Machine.execMovi sb o s
  | .movis sb o => Sys2Proof.Machine.execMovis sb o s
  | .cmp sb o => Sys2Proof.Machine.execCmp sb o s
  | .cmpi sb o => Sys2Proof.Machine.execCmpi sb o s
  | .br o => Sys2Proof.Machine.execBr o s
  | .brL o => Sys2Proof.Machine.execBrL o s
  | .brInd o => Sys2Proof.Machine.execBrInd o s
  | .halt o => Sys2Proof.Machine.execHalt o s
  | .trap o => Sys2Proof.Machine.execTrap o s
  | .tret o => Sys2Proof.Machine.execTret o s
  | .sysRd o => Sys2Proof.Machine.execSysRd o s
  | .sysWr o => Sys2Proof.Machine.execSysWr o s
  | .fmtWr o => Sys2Proof.Machine.execFmtWr o s
  | .sysBist o => Sys2Proof.Machine.execSysBist o s
  | .margV o => Sys2Proof.Machine.execMargV o s
  | .margL o => Sys2Proof.Machine.execMargL o s
  | .ldI8 o => Sys2Proof.Machine.execLdI8 o s
  | .ldN8 o => Sys2Proof.Machine.execLdN8 o s
  | .ldI16 o => Sys2Proof.Machine.execLdI16 o s
  | .ldN16 o => Sys2Proof.Machine.execLdN16 o s
  | .ldI32 o => Sys2Proof.Machine.execLdI32 o s
  | .ldN32 o => Sys2Proof.Machine.execLdN32 o s
  | .ldI64 o => Sys2Proof.Machine.execLdI64 o s
  | .stB o => Sys2Proof.Machine.execStB o s
  | .stH o => Sys2Proof.Machine.execStH o s
  | .stW o => Sys2Proof.Machine.execStW o s
  | .stD o => Sys2Proof.Machine.execStD o s
  | .vld o => Sys2Proof.Machine.execVld o s
  | .vst o => Sys2Proof.Machine.execVst o s
  | .vldx o => Sys2Proof.Machine.execVldx o s
  | .vstx o => Sys2Proof.Machine.execVstx o s
  | .vbcastW o => Sys2Proof.Machine.execVbcastW o s
  | .vgatherW o => Sys2Proof.Machine.execVgatherW o s
  | .vgatherH o => Sys2Proof.Machine.execVgatherH o s
  | .vscatterW o => Sys2Proof.Machine.execVscatterW o s
  | .vscatterH o => Sys2Proof.Machine.execVscatterH o s
  | .vaddF32 o => Sys2Proof.Machine.execVaddF32 o s
  | .vaddF16 o => Sys2Proof.Machine.execVaddF16 o s
  | .vaddBf16 o => Sys2Proof.Machine.execVaddBf16 o s
  | .vsubF32 o => Sys2Proof.Machine.execVsubF32 o s
  | .vsubF16 o => Sys2Proof.Machine.execVsubF16 o s
  | .vsubBf16 o => Sys2Proof.Machine.execVsubBf16 o s
  | .vminF32 o => Sys2Proof.Machine.execVminF32 o s
  | .vminF16 o => Sys2Proof.Machine.execVminF16 o s
  | .vminBf16 o => Sys2Proof.Machine.execVminBf16 o s
  | .vmaxF32 o => Sys2Proof.Machine.execVmaxF32 o s
  | .vmaxF16 o => Sys2Proof.Machine.execVmaxF16 o s
  | .vmaxBf16 o => Sys2Proof.Machine.execVmaxBf16 o s
  | .vminnF32 o => Sys2Proof.Machine.execVminnF32 o s
  | .vminnF16 o => Sys2Proof.Machine.execVminnF16 o s
  | .vminnBf16 o => Sys2Proof.Machine.execVminnBf16 o s
  | .vmaxnF32 o => Sys2Proof.Machine.execVmaxnF32 o s
  | .vmaxnF16 o => Sys2Proof.Machine.execVmaxnF16 o s
  | .vmaxnBf16 o => Sys2Proof.Machine.execVmaxnBf16 o s
  | .vcmpF32 o => Sys2Proof.Machine.execVcmpF32 o s
  | .vcmpF16 o => Sys2Proof.Machine.execVcmpF16 o s
  | .vcmpBf16 o => Sys2Proof.Machine.execVcmpBf16 o s
  | .viaddI8 o => Sys2Proof.Machine.execViaddI8 o s
  | .viaddI16 o => Sys2Proof.Machine.execViaddI16 o s
  | .viaddI32 o => Sys2Proof.Machine.execViaddI32 o s
  | .viaddI64 o => Sys2Proof.Machine.execViaddI64 o s
  | .visubI8 o => Sys2Proof.Machine.execVisubI8 o s
  | .visubI16 o => Sys2Proof.Machine.execVisubI16 o s
  | .visubI32 o => Sys2Proof.Machine.execVisubI32 o s
  | .visubI64 o => Sys2Proof.Machine.execVisubI64 o s
  | .viaddsI8 o => Sys2Proof.Machine.execViaddsI8 o s
  | .viaddsI16 o => Sys2Proof.Machine.execViaddsI16 o s
  | .viaddsI32 o => Sys2Proof.Machine.execViaddsI32 o s
  | .viaddsI64 o => Sys2Proof.Machine.execViaddsI64 o s
  | .viaddsN8 o => Sys2Proof.Machine.execViaddsN8 o s
  | .viaddsN16 o => Sys2Proof.Machine.execViaddsN16 o s
  | .viaddsN32 o => Sys2Proof.Machine.execViaddsN32 o s
  | .viaddsN64 o => Sys2Proof.Machine.execViaddsN64 o s
  | .visubsI8 o => Sys2Proof.Machine.execVisubsI8 o s
  | .visubsI16 o => Sys2Proof.Machine.execVisubsI16 o s
  | .visubsI32 o => Sys2Proof.Machine.execVisubsI32 o s
  | .visubsI64 o => Sys2Proof.Machine.execVisubsI64 o s
  | .visubsN8 o => Sys2Proof.Machine.execVisubsN8 o s
  | .visubsN16 o => Sys2Proof.Machine.execVisubsN16 o s
  | .visubsN32 o => Sys2Proof.Machine.execVisubsN32 o s
  | .visubsN64 o => Sys2Proof.Machine.execVisubsN64 o s
  | .viminI8 o => Sys2Proof.Machine.execViminI8 o s
  | .viminI16 o => Sys2Proof.Machine.execViminI16 o s
  | .viminI32 o => Sys2Proof.Machine.execViminI32 o s
  | .viminI64 o => Sys2Proof.Machine.execViminI64 o s
  | .viminN8 o => Sys2Proof.Machine.execViminN8 o s
  | .viminN16 o => Sys2Proof.Machine.execViminN16 o s
  | .viminN32 o => Sys2Proof.Machine.execViminN32 o s
  | .viminN64 o => Sys2Proof.Machine.execViminN64 o s
  | .vimaxI8 o => Sys2Proof.Machine.execVimaxI8 o s
  | .vimaxI16 o => Sys2Proof.Machine.execVimaxI16 o s
  | .vimaxI32 o => Sys2Proof.Machine.execVimaxI32 o s
  | .vimaxI64 o => Sys2Proof.Machine.execVimaxI64 o s
  | .vimaxN8 o => Sys2Proof.Machine.execVimaxN8 o s
  | .vimaxN16 o => Sys2Proof.Machine.execVimaxN16 o s
  | .vimaxN32 o => Sys2Proof.Machine.execVimaxN32 o s
  | .vimaxN64 o => Sys2Proof.Machine.execVimaxN64 o s
  | .vicmpI8 o => Sys2Proof.Machine.execVicmpI8 o s
  | .vicmpI16 o => Sys2Proof.Machine.execVicmpI16 o s
  | .vicmpI32 o => Sys2Proof.Machine.execVicmpI32 o s
  | .vicmpI64 o => Sys2Proof.Machine.execVicmpI64 o s
  | .vicmpN8 o => Sys2Proof.Machine.execVicmpN8 o s
  | .vicmpN16 o => Sys2Proof.Machine.execVicmpN16 o s
  | .vicmpN32 o => Sys2Proof.Machine.execVicmpN32 o s
  | .vicmpN64 o => Sys2Proof.Machine.execVicmpN64 o s
  | .vand o => Sys2Proof.Machine.execVand o s
  | .vor o => Sys2Proof.Machine.execVor o s
  | .vxor o => Sys2Proof.Machine.execVxor o s
  | .vshl8 o => Sys2Proof.Machine.execVshl8 o s
  | .vshl16 o => Sys2Proof.Machine.execVshl16 o s
  | .vshl32 o => Sys2Proof.Machine.execVshl32 o s
  | .vshl64 o => Sys2Proof.Machine.execVshl64 o s
  | .vshr8 o => Sys2Proof.Machine.execVshr8 o s
  | .vshr16 o => Sys2Proof.Machine.execVshr16 o s
  | .vshr32 o => Sys2Proof.Machine.execVshr32 o s
  | .vshr64 o => Sys2Proof.Machine.execVshr64 o s
  | .vsra8 o => Sys2Proof.Machine.execVsra8 o s
  | .vsra16 o => Sys2Proof.Machine.execVsra16 o s
  | .vsra32 o => Sys2Proof.Machine.execVsra32 o s
  | .vsra64 o => Sys2Proof.Machine.execVsra64 o s
  | .vsel o => Sys2Proof.Machine.execVsel o s
  | .vshufB o => Sys2Proof.Machine.execVshufB o s
  | .vshufH o => Sys2Proof.Machine.execVshufH o s
  | .vshufW o => Sys2Proof.Machine.execVshufW o s
  | .vsplatH o => Sys2Proof.Machine.execVsplatH o s
  | .vsplatW o => Sys2Proof.Machine.execVsplatW o s
  | .vsplatD o => Sys2Proof.Machine.execVsplatD o s
  | .vextD o => Sys2Proof.Machine.execVextD o s
  | .vredF32 o => Sys2Proof.Machine.execVredF32 o s
  | .vredF16 o => Sys2Proof.Machine.execVredF16 o s
  | .vredBf16 o => Sys2Proof.Machine.execVredBf16 o s
  | .viredI8 o => Sys2Proof.Machine.execViredI8 o s
  | .viredI16 o => Sys2Proof.Machine.execViredI16 o s
  | .viredI32 o => Sys2Proof.Machine.execViredI32 o s
  | .viredI64 o => Sys2Proof.Machine.execViredI64 o s
  | .vclmul o => Sys2Proof.Machine.execVclmul o s
  | .vmulF32 o => Sys2Proof.Machine.execVmulF32 o s
  | .vmulF16 o => Sys2Proof.Machine.execVmulF16 o s
  | .vmulBf16 o => Sys2Proof.Machine.execVmulBf16 o s
  | .vfmaF32 o => Sys2Proof.Machine.execVfmaF32 o s
  | .vfmaF16 o => Sys2Proof.Machine.execVfmaF16 o s
  | .vfmaBf16 o => Sys2Proof.Machine.execVfmaBf16 o s
  | .vfmsF32 o => Sys2Proof.Machine.execVfmsF32 o s
  | .vfmsF16 o => Sys2Proof.Machine.execVfmsF16 o s
  | .vfmsBf16 o => Sys2Proof.Machine.execVfmsBf16 o s
  | .vcvtF16F32 o => Sys2Proof.Machine.execVcvtF16F32 o s
  | .vcvtBf16F32 o => Sys2Proof.Machine.execVcvtBf16F32 o s
  | .vcvtF32F16 o => Sys2Proof.Machine.execVcvtF32F16 o s
  | .vcvtF32Bf16 o => Sys2Proof.Machine.execVcvtF32Bf16 o s
  | .vcvtNfF32 o => Sys2Proof.Machine.execVcvtNfF32 o s
  | .vcvtF32Nf o => Sys2Proof.Machine.execVcvtF32Nf o s
  | .vcvtI32F32 o => Sys2Proof.Machine.execVcvtI32F32 o s
  | .vcvtF32I32 o => Sys2Proof.Machine.execVcvtF32I32 o s
  | .vcvtN32F32 o => Sys2Proof.Machine.execVcvtN32F32 o s
  | .vcvtF32N32 o => Sys2Proof.Machine.execVcvtF32N32 o s
  | .vcvtsF16F32 o => Sys2Proof.Machine.execVcvtsF16F32 o s
  | .vcvtsBf16F32 o => Sys2Proof.Machine.execVcvtsBf16F32 o s
  | .vcvtsNfF32 o => Sys2Proof.Machine.execVcvtsNfF32 o s
  | .vrcpF32 o => Sys2Proof.Machine.execVrcpF32 o s
  | .vrcpF16 o => Sys2Proof.Machine.execVrcpF16 o s
  | .vrcpBf16 o => Sys2Proof.Machine.execVrcpBf16 o s
  | .vrsqF32 o => Sys2Proof.Machine.execVrsqF32 o s
  | .vrsqF16 o => Sys2Proof.Machine.execVrsqF16 o s
  | .vrsqBf16 o => Sys2Proof.Machine.execVrsqBf16 o s
  | .vexp2F32 o => Sys2Proof.Machine.execVexp2F32 o s
  | .vexp2F16 o => Sys2Proof.Machine.execVexp2F16 o s
  | .vexp2Bf16 o => Sys2Proof.Machine.execVexp2Bf16 o s
  | .vlog2F32 o => Sys2Proof.Machine.execVlog2F32 o s
  | .vlog2F16 o => Sys2Proof.Machine.execVlog2F16 o s
  | .vlog2Bf16 o => Sys2Proof.Machine.execVlog2Bf16 o s
  | .vrand o => Sys2Proof.Machine.execVrand o s
  | .mmStart o => Sys2Proof.Machine.execMmStart o s
  | .mmStartLt o => Sys2Proof.Machine.execMmStartLt o s
  | .mmLdb o => Sys2Proof.Machine.execMmLdb o s
  | .mmScl o => Sys2Proof.Machine.execMmScl o s
  | .mmDrain o => Sys2Proof.Machine.execMmDrain o s
  | .mmZero o => Sys2Proof.Machine.execMmZero o s
  | .mmCfg o => Sys2Proof.Machine.execMmCfg o s
  | .xsend o => Sys2Proof.Machine.execXsend o s
  | .xrecv o => Sys2Proof.Machine.execXrecv o s
  | .xraddF32 o => Sys2Proof.Machine.execXraddF32 o s
  | .xraddF16 o => Sys2Proof.Machine.execXraddF16 o s
  | .xraddBf16 o => Sys2Proof.Machine.execXraddBf16 o s
  | .xraddI32 o => Sys2Proof.Machine.execXraddI32 o s
  | .phaseEnd o => Sys2Proof.Machine.execPhaseEnd o s
  | .gclkRd o => Sys2Proof.Machine.execGclkRd o s
  | .gclkWait o => Sys2Proof.Machine.execGclkWait o s
  | .gclkAln o => Sys2Proof.Machine.execGclkAln o s
  | .cardAdv o => Sys2Proof.Machine.execCardAdv o s
  | .cardIssue o => Sys2Proof.Machine.execCardIssue o s
  | .recfl o => Sys2Proof.Machine.execRecfl o s
  | .recflPart o => Sys2Proof.Machine.execRecflPart o s
  | .tokClr o => Sys2Proof.Machine.execTokClr o s
  | .semWait o => Sys2Proof.Machine.execSemWait o s
  | .lnkSend o => Sys2Proof.Machine.execLnkSend o s
  | .lnkRecv o => Sys2Proof.Machine.execLnkRecv o s
  | .lnkRaddF32 o => Sys2Proof.Machine.execLnkRaddF32 o s
  | .lnkRaddBf16 o => Sys2Proof.Machine.execLnkRaddBf16 o s
  | .lnkRaddF16 o => Sys2Proof.Machine.execLnkRaddF16 o s
  | .lnkRaddI32 o => Sys2Proof.Machine.execLnkRaddI32 o s
  | .trig o => Sys2Proof.Machine.execTrig o s
  | .fenceErr o => Sys2Proof.Machine.execFenceErr o s
  | .loopSet o => Sys2Proof.Machine.execLoopSet o s
  | .loopSetRot o => Sys2Proof.Machine.execLoopSetRot o s
  | .loopPair o => Sys2Proof.Machine.execLoopPair o s
  | .loopEc o => Sys2Proof.Machine.execLoopEc o s
  | .rotClr o => Sys2Proof.Machine.execRotClr o s
  | .predRegion o => Sys2Proof.Machine.execPredRegion o s
  | .predAnd o => Sys2Proof.Machine.execPredAnd o s
  | .predOr o => Sys2Proof.Machine.execPredOr o s
  | .predXor o => Sys2Proof.Machine.execPredXor o s
  | .predAndn o => Sys2Proof.Machine.execPredAndn o s
  | .predSet o => Sys2Proof.Machine.execPredSet o s
  | .bundleIssue => Sys2Proof.Machine.execBundleIssue s
  | .pureDelay => Sys2Proof.Machine.execPureDelay s
  | .fetchLine => Sys2Proof.Machine.execFetchLine s
  | .imemLineReload => Sys2Proof.Machine.execImemLineReload s
  | .resultLanding => Sys2Proof.Machine.execResultLanding s
  | .unitClaim => Sys2Proof.Machine.execUnitClaim s
  | .trapResume => Sys2Proof.Machine.execTrapResume s
  | .scrubRead => Sys2Proof.Machine.execScrubRead s
  | .scrubWriteback => Sys2Proof.Machine.execScrubWriteback s
  | .releaseHoldEnd => Sys2Proof.Machine.execReleaseHoldEnd s
  | .deckPrefetch => Sys2Proof.Machine.execDeckPrefetch s
  | .cardGranule => Sys2Proof.Machine.execCardGranule s
  | .cardEnd => Sys2Proof.Machine.execCardEnd s
  | .tokenWaitEnd => Sys2Proof.Machine.execTokenWaitEnd s
  | .semWaitEnd => Sys2Proof.Machine.execSemWaitEnd s
  | .gclkWaitEnd => Sys2Proof.Machine.execGclkWaitEnd s
  | .recflHoldEnd => Sys2Proof.Machine.execRecflHoldEnd s
  | .fenceErrHoldEnd => Sys2Proof.Machine.execFenceErrHoldEnd s
  | .bistEnd => Sys2Proof.Machine.execBistEnd s
  | .margVSettled => Sys2Proof.Machine.execMargVSettled s
  | .margLSweepEnd => Sys2Proof.Machine.execMargLSweepEnd s
  | .linkPair => Sys2Proof.Machine.execLinkPair s
  | .linkEnd => Sys2Proof.Machine.execLinkEnd s
  | .routerSwitch => Sys2Proof.Machine.execRouterSwitch s
  | .exchangePhaseEnd => Sys2Proof.Machine.execExchangePhaseEnd s
  | .barrierComplete => Sys2Proof.Machine.execBarrierComplete s
  | .loomRepair => Sys2Proof.Machine.execLoomRepair s
  | .loomSampleRound => Sys2Proof.Machine.execLoomSampleRound s
  | .stragglerEvent => Sys2Proof.Machine.execStragglerEvent s
  | .launchStart => Sys2Proof.Machine.execLaunchStart s
  | .regionStart => Sys2Proof.Machine.execRegionStart s
  | .contextLoss => Sys2Proof.Machine.execContextLoss s
  | .tinvRange => Sys2Proof.Machine.execTinvRange s
  | .tinvContext => Sys2Proof.Machine.execTinvContext s
  | .tinvAll => Sys2Proof.Machine.execTinvAll s
  | .tinvComplete => Sys2Proof.Machine.execTinvComplete s
  | .tagFreed => Sys2Proof.Machine.execTagFreed s
  | .hbmChannelRetire => Sys2Proof.Machine.execHbmChannelRetire s
  | .hbmRetireComplete => Sys2Proof.Machine.execHbmRetireComplete s
  | .cxlLinkTrain => Sys2Proof.Machine.execCxlLinkTrain s
  | .cxlPortDown => Sys2Proof.Machine.execCxlPortDown s
  | .checkpointSave => Sys2Proof.Machine.execCheckpointSave s
  | .checkpointRestore => Sys2Proof.Machine.execCheckpointRestore s
  | .checkpointSaveEnd => Sys2Proof.Machine.execCheckpointSaveEnd s
  | .checkpointRestoreEnd => Sys2Proof.Machine.execCheckpointRestoreEnd s
  | .ullerLinkDown => Sys2Proof.Machine.execUllerLinkDown s
  | .weftPortDown => Sys2Proof.Machine.execWeftPortDown s
  | .weftLinkTrain => Sys2Proof.Machine.execWeftLinkTrain s
  | .wrouteWrite => Sys2Proof.Machine.execWrouteWrite s
  | .shuttlePeriodStart => Sys2Proof.Machine.execShuttlePeriodStart s
  | .shmapWrite => Sys2Proof.Machine.execShmapWrite s
  | .shuttleFlitHop => Sys2Proof.Machine.execShuttleFlitHop s
  | .heddleTableWrite => Sys2Proof.Machine.execHeddleTableWrite s
  | .migrationEpoch => Sys2Proof.Machine.execMigrationEpoch s
  | .homeMove => Sys2Proof.Machine.execHomeMove s
  | .homeMoveEnd => Sys2Proof.Machine.execHomeMoveEnd s
  | .migrateHomeAll => Sys2Proof.Machine.execMigrateHomeAll s
  | .triggerDelivered => Sys2Proof.Machine.execTriggerDelivered s
  | .waitClosedStart => Sys2Proof.Machine.execWaitClosedStart s
  | .launchEnd => Sys2Proof.Machine.execLaunchEnd s
  | .imageLoad => Sys2Proof.Machine.execImageLoad s
  | .imageLoadEnd => Sys2Proof.Machine.execImageLoadEnd s
  | .imageUnload => Sys2Proof.Machine.execImageUnload s
  | .imageForcedUnload => Sys2Proof.Machine.execImageForcedUnload s
  | .pdefWrite => Sys2Proof.Machine.execPdefWrite s
  | .queueCreate => Sys2Proof.Machine.execQueueCreate s
  | .queueDisable => Sys2Proof.Machine.execQueueDisable s
  | .queueThaw => Sys2Proof.Machine.execQueueThaw s
  | .qtailWrite => Sys2Proof.Machine.execQtailWrite s
  | .queueHeadRead => Sys2Proof.Machine.execQueueHeadRead s
  | .completionRecordWrite => Sys2Proof.Machine.execCompletionRecordWrite s
  | .sequencerSelect => Sys2Proof.Machine.execSequencerSelect s
  | .bind => Sys2Proof.Machine.execBind s
  | .quantumExpiry => Sys2Proof.Machine.execQuantumExpiry s
  | .preemptRequest => Sys2Proof.Machine.execPreemptRequest s
  | .killRequest => Sys2Proof.Machine.execKillRequest s
  | .preemptWithdraw => Sys2Proof.Machine.execPreemptWithdraw s
  | .contextSave => Sys2Proof.Machine.execContextSave s
  | .contextSaveEnd => Sys2Proof.Machine.execContextSaveEnd s
  | .restoreEnd => Sys2Proof.Machine.execRestoreEnd s
  | .ctxareaWrite => Sys2Proof.Machine.execCtxareaWrite s
  | .tstopResume => Sys2Proof.Machine.execTstopResume s
  | .powerGood => Sys2Proof.Machine.execPowerGood s
  | .b2LinkTest => Sys2Proof.Machine.execB2LinkTest s
  | .b3Election => Sys2Proof.Machine.execB3Election s
  | .electionRound => Sys2Proof.Machine.execElectionRound s
  | .b4Enumeration => Sys2Proof.Machine.execB4Enumeration s
  | .b5Start => Sys2Proof.Machine.execB5Start s
  | .lprobe => Sys2Proof.Machine.execLprobe s
  | .lecho => Sys2Proof.Machine.execLecho s
  | .elect => Sys2Proof.Machine.execElect s
  | .enum => Sys2Proof.Machine.execEnum s
  | .accept => Sys2Proof.Machine.execAccept s
  | .refuse => Sys2Proof.Machine.execRefuse s
  | .report => Sys2Proof.Machine.execReport s
  | .lstart => Sys2Proof.Machine.execLstart s
  | .done => Sys2Proof.Machine.execDone s
  | .enumTimeout => Sys2Proof.Machine.execEnumTimeout s
  | .enumerationDeadline => Sys2Proof.Machine.execEnumerationDeadline s
  | .ullerClaimGrant => Sys2Proof.Machine.execUllerClaimGrant s
  | .placementRun => Sys2Proof.Machine.execPlacementRun s
  | .placementEnd => Sys2Proof.Machine.execPlacementEnd s
  | .instkeyWrite => Sys2Proof.Machine.execInstkeyWrite s
  | .activityStep => Sys2Proof.Machine.execActivityStep s
  | .issueGatePair => Sys2Proof.Machine.execIssueGatePair s
  | .droopAlarm => Sys2Proof.Machine.execDroopAlarm s
  | .droopBelowFloor => Sys2Proof.Machine.execDroopBelowFloor s
  | .thermalHot => Sys2Proof.Machine.execThermalHot s
  | .thermalCrit => Sys2Proof.Machine.execThermalCrit s
  | .overtempPowerOff => Sys2Proof.Machine.execOvertempPowerOff s
  | .powerLimitGate => Sys2Proof.Machine.execPowerLimitGate s
  | .rpctlWrite => Sys2Proof.Machine.execRpctlWrite s
  | .rthermWrite => Sys2Proof.Machine.execRthermWrite s
  | .mstagWrite => Sys2Proof.Machine.execMstagWrite s
  | .debugStopRequest => Sys2Proof.Machine.execDebugStopRequest s
  | .debugStopWithdraw => Sys2Proof.Machine.execDebugStopWithdraw s
  | .debugStopFreeze => Sys2Proof.Machine.execDebugStopFreeze s
  | .traceSample => Sys2Proof.Machine.execTraceSample s
  | .traceRecordWrite => Sys2Proof.Machine.execTraceRecordWrite s
  | .trringWrite => Sys2Proof.Machine.execTrringWrite s
  | .rcRead => Sys2Proof.Machine.execRcRead s
  | .registerWrite => Sys2Proof.Machine.execRegisterWrite s
  | .powerLoss => Sys2Proof.Machine.execPowerLoss s
  | .ullerLinkTrain => Sys2Proof.Machine.execUllerLinkTrain s
  | .homeAccess => Sys2Proof.Machine.execHomeAccess s
  | .managementWindowWrite => Sys2Proof.Machine.execManagementWindowWrite s

end Sys2Proof.Machine
end

