-- ==== Sys2Proof/Machine/Clock.lean ====
section
/-! DEFINITION. The turn of a fabric cycle (rules R34, R81, R84, R210, R414): what ends with the present cycle, and what
the outside does to the part on the next. -/

namespace Sys2Proof.Machine

namespace Core

/-- The end of a fabric cycle for a core: its array cycle is counted, and a core cycle that has elapsed counts on. -/
def endCycle (c : Core) (arr cycle : Nat) (loom : Word) : Core :=
  let c1 := (c.acctCycle arr cycle loom).acctClose
  { c1 with
    ctl := { c1.ctl with
      pc := if c1.ctl.issued then c1.nextBundle else c1.ctl.pc
      cc := if c1.ctl.active then c1.ctl.cc + 1 else c1.ctl.cc
      idle := if c1.ctl.active && !c1.ctl.issued then c1.ctl.idle - 1 else c1.ctl.idle
      active := false, issued := false, sent := none, claimed := [], fetched := false }
    aux := { c1.aux with mxNow := none, memerr0 := c1.sys.memerr, memNew := if c1.ctl.rdLatch.isSome then c1.aux.memNew else 0, sumHits := [] }
    mem := { c1.mem with ejected := c1.mem.ejected.filter (fun e => decide (cycle < e.1 + 3)) } }

end Core

/-- Stored bits of a 128-bit word change. -/
def Memory.flipBits (m : Memory) (word : Nat) (flip : BitVec 128) : Memory :=
  m.write (16 * word) (toBytes 16 ((BitVec.ofNat 128 (m.readNat (16 * word) 16)) ^^^ flip).toNat)

/-- The loom copy of a reticle as a cycle ends: it advances, or stands still under a repair (rules R81, R84). -/
def Reticle.endCycle (x : Reticle) : Reticle :=
  if 0 < x.stall then { x with stall := x.stall - 1, loomBase := x.loomBase + 1, held := true } else { x with held := false }

namespace State

/-- The records that found their core's queue full on this cycle are counted in their region (rule R413). -/
def countDrops (s : State) : State :=
  let s1 := s.allCores.foldl (fun s c =>
    if c.aux.drops = 0 then s
    else
      let g := s.region (regionOf c.idx)
      s.putRegion (regionOf c.idx) { g with trdrop := min 0xFFFFFFFF (g.trdrop + c.aux.drops) }) s
  s1.mapCores (fun c => { c with aux := { c.aux with drops := 0 } })

/-- A fabric cycle ends and the next begins; each cycle has free values of its own. -/
def nextCycle (s : State) : State :=
  let f := fun (c : Core) => c.endCycle (s.tileAt (tileOf c.idx)).arrmode s.cycle (s.loomOf (reticleOf c.idx))
  { (s.mapCores f).countDrops with
    reticles := s.reticles.map Reticle.endCycle
    cycle := s.cycle + 1
    hits := [], hopped := [], seed := s.seed + 2 ^ 20 }

/-! ### Inputs -/

/-- Bits of a local or IMEM word flip (rule R66): a second error in a word is uncorrectable, and leaves the bits that it has changed as
the stored bits. Which those are is free, as the input gives them (log entry 88). -/
def flipWord (word : Nat) (im double : Bool) (flip : BitVec 128) (c : Core) : Core :=
  let bad := if im then c.mem.imemBad else c.mem.bad
  let soft := if im then c.mem.imemSoft else c.mem.soft
  if bad.contains word then c
  else
    let ue := double || soft.contains word
    let bad' := if ue then bad ++ [word] else bad
    let soft' := if ue then soft.filter (· != word) else soft ++ [word]
    let flip' := if ue then flip else 0
    if im then { c with mem := { c.mem with imem := c.mem.imem.flipBits word flip', imemBad := bad', imemSoft := soft' } }
    else { c with mem := { c.mem with loc := c.mem.loc.flipBits word flip', bad := bad', soft := soft' } }

/-- The first trace flit in a region's part of the shuttle plane is dropped, and its record with it (rules R89, R412, R413). -/
def dropTrace (s : State) (r : Nat) : State :=
  match (List.range 16).find? (fun g => (s.region g).flits.any (fun f => regionOf (64 * f.block) == r)) with
  | none => s
  | some g =>
    let x := s.region g
    let gone := fun (f : TraceFlit) => regionOf (64 * f.block) == r
    let s1 := s.putRegion g { x with flits := x.flits.eraseP gone, trdrop := min 0xFFFFFFFF (x.trdrop + 1) }
    match x.flits.find? gone with
    | some f => s1.recordLost f.record
    | none => s1

/-- A shuttle flit group has been hit (rule R89): it is corrected, or its card or link instruction ends in error, or the hit is
logged and the flit dropped. -/
def shuttleHit (s : State) (h : Nat × Bool × ShuttleHit) : State :=
  let (r, double, f) := h
  let x := s.region r
  if !double then s.putRegion r { x with shstat := countIn x.shstat 31 16 1 }
  else
    let s1 := s.putRegion r { x with shstat := x.shstat ||| 2 }
    let entry := atBit 3 60 ||| atBit r 0
    match f with
    | .work id => if s1.links.any (fun l => l.id == id) then (s1.linkFails id 5).linkStops id else s1.cardFails id 5
    | .trace => (s1.dropTrace r).logEntry (s.regionLoom r) entry
    | .management => s1.logEntry (s.regionLoom r) entry

/-- The hits of a cycle (rule R89): an RC read of the same cycle comes before what they count (rule R11). -/
def settleHits (s : State) : State := s.shuttleHits.foldl shuttleHit { s with shuttleHits := [] }

/-- An event that is an access to a management window. -/
def isAccess : Instr → Bool
  | .rcRead => true | .registerWrite => true | .managementWindowWrite => true | .heddleTableWrite => true | .shmapWrite => true
  | .tinvRange => true | .tinvContext => true | .tinvAll => true | .hbmChannelRetire => true | .checkpointSave => true
  | .checkpointRestore => true | .wrouteWrite => true | .migrateHomeAll => true | .imageLoad => true | .imageUnload => true
  | .imageForcedUnload => true | .pdefWrite => true | .queueCreate => true | .queueDisable => true | .queueThaw => true
  | .qtailWrite => true | .preemptRequest => true | .killRequest => true | .preemptWithdraw => true | .ctxareaWrite => true
  | .tstopResume => true | .placementRun => true | .instkeyWrite => true | .rpctlWrite => true | .rthermWrite => true
  | .mstagWrite => true | .debugStopRequest => true | .debugStopWithdraw => true | .trringWrite => true
  | _ => false

/-- The window accesses of a cycle whose flits are hit beyond correction never arrive (rule R89). -/
def dropAccesses (s : State) : State :=
  (s.shuttleHits.filter (fun h => h.2.1 && h.2.2 == .management)).foldl (fun s _ =>
    { s with agenda := s.agenda.eraseP (fun e => isAccess e.1) }) s

/-- What the outside does takes effect. -/
def takeInput (s : State) (i : Input) : State :=
  match i with
  | .event e a => { s with agenda := s.agenda ++ [(e, a)] }
  | .localError k word im double flip => s.onCore k (flipWord word im double flip)
  | .granuleError a flip =>
    { s with
      mem := s.mem.write (a / 64 * 64) (toBytes 64 ((BitVec.ofNat 512 (s.mem.readNat (a / 64 * 64) 64)) ^^^ flip).toNat)
      poison := (a / 64) :: s.poison.filter (· != a / 64) }
  | .flitError h => { s with hits := s.hits ++ [h] }
  | .shuttleError r double f => { s with shuttleHits := s.shuttleHits ++ [(r, double, f)] }
  | .sumError k h => s.onCore k (fun c => { c with aux := { c.aux with sumHits := c.aux.sumHits ++ [h] } })
  | .bistHit k h => s.onCore k (fun c => if c.underBist then { c with aux := { c.aux with bistHits := c.aux.bistHits ++ [h] } } else c)
  | .supply r mv => s.putRegion r { s.region r with below := mv }
  | .heat r t => s.putRegion r { s.region r with temp := t }
  | .watts w => { s with module := { s.module with watts := w } }
  | .slip r d => s.putRet r { s.ret r with loomBase := (s.ret r).loomBase - BitVec.ofInt 64 d }
  | .badSample r sel => { s with badSamples := s.badSamples ++ [(r, sel)] }
  | .peerPost p => { s with module := { s.module with peers := s.module.peers ++ [p] } }

/-- The inputs of the present cycle take effect, in their order. -/
def takeInputs (s : State) : State :=
  let now := s.inbox.filter (fun x => decide (x.1 ≤ s.cycle))
  let s1 : State := { s with inbox := s.inbox.filter (fun x => decide (s.cycle < x.1)) }
  (now.foldl (fun s x => s.takeInput x.2) s1).dropAccesses

end State

end Sys2Proof.Machine
end

