-- ==== Sys2Proof/Machine/Schedule.lean ====
section
/-! DEFINITION. The order of a fabric cycle (log entry 9): its stages, and the events that are due in each. Where no rule fixes
when an event happens, a free value decides (log entry 3). -/

namespace Sys2Proof.Machine

namespace State

/-- An event with a partition, a region, a reticle or a number. -/
def partArg (p : Nat) : Arg := { Arg.none with part := p }
def regionArg (r : Nat) : Arg := { Arg.none with region := r }
def retArg (r : Nat) : Arg := { Arg.none with ret := r }
def numArg (n : Nat) : Arg := { Arg.none with n := n }

/-- A free choice of this cycle: an event that may happen now, or later. -/
def coin (s : State) (agent : Nat) : Bool := s.pick agent 2 == 1

/-! ### What a cycle settles before its events -/

/-- A partition as a cycle begins: a debug stop is done, the straggler deadline moves while the partition is stopped (rule
R364), and X0 is fixed once every core has arrived and no repair is pending (rules R84, R168); a stop puts it off. -/
def settlePart (s : State) (p : Nat) : State :=
  let s1 := (s.debugSettle p).retryEarly p
  match (s1.part p).ctx with
  | none => s1
  | some x =>
    match x.stage with
    | .running =>
      let still := s1.stopped p
      let ready := x.xphase.isNone && s1.allArrived p && !s1.allHalted p && s1.loomQuiet p
      let from_ := max (max x.lastArrival x.repairEnd + barrierLatency (s1.widOf p) (s1.htOf p)) s1.cycle
      let x0 := if still || !ready then none else x.x0.or (some (s1.evenFrom p from_))
      if x0 == x.x0 && !still then s1
      else s1.onCtx p (fun y => { y with x0 := x0, moved := if still then y.moved + 1 else y.moved })
    | _ => s1

/-! ### Stage 1: what the fabric, boot and the sequencers do at the turn of a cycle -/

/-- Periods, steps, sample rounds and repairs. -/
def fabricEvents (s : State) : List (Instr × Arg) :=
  (List.range 16).flatMap s.regionTurns
    ++ (List.range 48).flatMap (fun r =>
      due (s.roundOver r) .loomSampleRound { retArg r with m := 1 }
        ++ due (s.roundDue r) .loomSampleRound (retArg r)
        ++ due ((s.ret r).repair.isSome && s.repairTime r) .loomRepair (retArg r))

/-- The stages of boot, and the messages that have arrived, in the order of arrival, then by reticle and selvedge, N, E, S, W (rule
R383). -/
def bootEvents (s : State) : List (Instr × Arg) :=
  let now := s.bootMsgs.filter s.msgTaken
  let sorted := (List.range 48).flatMap (fun r => (List.range 4).flatMap (fun sel =>
    now.filter (fun m => m.ret == r && m.sel == sel)))
  due (!s.module.granted && !s.module.claims.isEmpty && s.claimsClose)
      .ullerClaimGrant Arg.none
    ++ (sorted.foldl (fun ms m => insertMsg m ms) []).filterMap bootEvent ++ (List.range 48).flatMap s.bootDue

/-- The launch on a partition. -/
def launchEvents (s : State) (p : Nat) : List (Instr × Arg) :=
  let a := partArg p
  match (s.part p).ctx with
  | none => due (s.part p).chosen.isSome .bind a
  | some x =>
    let ws := x.launch.words
    let lost := !x.losses.isEmpty && (match x.stage with
      | .lost => s.cardsEnded p && s.linksEnded p true
      | _ => s.lossNow p x)
    due (x.xphase.any (fun e => decide (e.1 + e.2.1 ≤ s.cycle))) .exchangePhaseEnd a
      ++ due lost .contextLoss a
      ++ due (x.x0.any (fun t => decide (t ≤ s.cycle))) .barrierComplete a
      ++ due (s.stragglerDue p x) .stragglerEvent a
      ++ (x.starts.filter (fun e => decide (e.2 ≤ s.cycle))).map (fun e => (.regionStart, { a with region := e.1 }))
      ++ (match x.stage with
        | .binding t =>
          if s.cycle < t then [] else if s.allClosed ws then due (s.loomQuiet p) .launchStart a else [(.bind, a)]
        | .waiting => due ((s.allClosed ws && s.loomQuiet p) || (s.anyFailed ws && s.cardsEnded p)) .waitClosedStart a
        | .restoring t => due (decide (t ≤ s.cycle) && s.loomQuiet p && !(s.partLoom p).getLsbD 0) .restoreEnd a
        | .saving t => due (decide (t ≤ s.cycle)) .contextSaveEnd a
        | _ => [])
      ++ due (s.quantumDue p) .quantumExpiry a

/-- Operations of the module that end, and the end of a migration epoch (rules R91, R94, R134, R135, R327, R395). -/
def moduleEvents (s : State) : List (Instr × Arg) :=
  let m := s.module
  let expired := fun (t : Option Nat) => t.any (fun t => decide (t ≤ s.cycle))
  let lead := bits (m.topo.getD 1 0) 21 16
  let epoch := 4096 * 256 * max 1 (bits m.migctl 23 16)
  due (expired s.sched.imgEnd) .imageLoadEnd Arg.none
    ++ due (expired m.plEnd) .placementEnd Arg.none
    ++ due (expired m.ckptEnd) (if bits m.ckptst 3 0 = 1 then .checkpointSaveEnd else .checkpointRestoreEnd) Arg.none
    ++ due (m.retiring.any (fun e => s.channelQuiet e.1 e.2)) .hbmRetireComplete Arg.none
    ++ (m.homes.filter (fun h => expired h.moving)).map (fun h => (.homeMoveEnd, numArg h.block))
    ++ due ((s.ret lead).loomOn && !(s.ret lead).held && (s.loomOf lead).toNat % epoch == 0) .migrationEpoch Arg.none
    ++ (List.range 48).flatMap (fun r => due (s.tinvDue r) .tinvComplete (retArg r))
    ++ (s.sched.tags.filter (fun t => !s.tagHeld t && s.tagClear t)).map (fun t => (.tagFreed, numArg t))
    ++ s.allCores.flatMap (fun c =>
      (c.mem.reload.filter (fun r => decide (r.2 ≤ s.cycle))).map (fun r => (.imemLineReload, { coreArg c.idx with n := r.1 })))

/-- Stage 1. -/
def timed (s : State) : State :=
  let s1 := (List.range 16).foldl settlePart s.settleHits.settleSamples
  let evs := s1.fabricEvents ++ s1.bootEvents ++ s1.moduleEvents ++ (List.range 16).flatMap s1.launchEvents
  { s1 with stage := 1, agenda := evs, bootMsgs := s1.bootMsgs.filter (fun m => !s1.msgTaken m) }

/-! ### Stage 2: links, samples, gates and routers -/

/-- The core's context is lost: it emits no record any more (rules R374, R413). -/
def coreLost (s : State) (k : Nat) : Bool :=
  match s.ctxOf k with
  | some (_, x) => (match x.stage with | .lost => true | _ => false)
  | none => false

/-- A sample record is due at a core that a context holds (rules R412, R413). -/
def sampleDue (s : State) (c : Core) : Bool :=
  let per := bits c.sys.trctl 31 16
  per != 0 && c.ctl.mode != .unbound && !s.coreLost c.idx && !(s.ret (reticleOf c.idx)).held && (s.loomOf (reticleOf c.idx)).toNat % (256 * per) == 0

/-- The tiles at which a word arrives, or whose lists hold an entry. -/
def busyTiles (s : State) : List Nat :=
  ((s.tiles.filter (fun t => !t.htab.isEmpty)).map (·.idx) ++ s.flits.map (·.tile)
    ++ (s.allCores.filter (fun c => c.mem.inject.isSome)).map (fun c => tileOf c.idx)).eraseDups

/-- Stage 2. -/
def switched (s : State) : State :=
  let evs := (s.links.filter s.linkDue).map (fun l => (.linkEnd, numArg l.id))
    ++ (List.range 16).flatMap s.powerEvents
    ++ (s.busyTiles.filter s.routerDue).map (fun t => (.routerSwitch, numArg t))
  { s with stage := 2, agenda := evs }

/-! ### Stage 3: the cores -/

/-- Stage 3: every core's cycle begins; the ends of partition-scope RECFL, and then bundles that hold RECFL, go before the releases of
this cycle (rules R112, R114). -/
def coreStage (s : State) : State :=
  let s1 := s.mapCores (fun c => s.readyCore c)
  let ends := fun (c : Core) => (s.coreEvents c).any (fun e => e.1 == .recflHoldEnd)
  let cs := s.allCores
  let rest := cs.filter (fun c => !ends c)
  let order := cs.filter ends ++ rest.filter recflDue ++ rest.filter (fun c => !recflDue c)
  { s1 with stage := 3, agenda := order.flatMap s.coreEvents }

/-! ### Stage 4: engines, memory and the queues -/

/-! #### Ports and units (rules R57, R58, R62, R96) -/

/-- The port or unit that an engine needs for a local byte: 0 to 7 for G0 to G7, 8 for the fill port of G8. -/
def portOf (a : Nat) : Nat := min 8 (unitOf a)

/-- Engines may not use a unit on this cycle (rules R48, R58, R260): a core claim uses it, or it is under self-test. -/
def unitBusy (c : Core) (u : Nat) : Bool :=
  c.ctl.claimed.contains u
    || (match c.ctl.hold with
      | some h => (match h.kind with
        | .bist t x _ => (t == 1 && x == u) || (t == 2 && u == 10)
        | _ => false)
      | none => false)

/-- An engine's access on a cycle: its rank among those that want one unit (rule R58), when its card or transfer has to end, what it
uses of a core, and its event. Ports 9 and 10 stand for the write and the read port of IMEM (rule R62). -/
structure Access where
  rank : Nat
  by_ : Nat
  core : Nat
  ports : List Nat
  event : Instr × Arg

/-- The accesses that are served (rule R58): at most one for each port of a core, in order. -/
def serve : List (Nat × Nat) → List Access → List Access
  | _, [] => []
  | used, a :: as =>
    if a.ports.any (fun p => used.contains (a.core, p)) then serve used as
    else a :: serve (a.ports.map (fun p => (a.core, p)) ++ used) as

/-- The units of G0 to G7 among ports are free of core claims. -/
def freeFor (s : State) (k : Nat) (ports : List Nat) : Bool := ports.all (fun p => decide (8 ≤ p) || !unitBusy (s.coreOf k) p)

/-- The ports that a card's granule uses. -/
def granulePorts (c : Card) : Granule → List Nat
  | .fill ms => if c.op = .code then [9] else (ms.map (fun m => portOf m.loc)).eraseDups
  | .take ls => (ls.map portOf).eraseDups
  | _ => []

/-! #### The plans of cards and link instructions (rules R59, R107, R123, R129, R143, R324) -/

/-- A card's source units are claimed on this cycle while it has bytes to read there (rules R59, R129). -/
def blockedNow (s : State) (c : Card) : Bool :=
  (c.op == .write || c.op == .atomic) && s.cardOpen c && c.granules.any (fun g => !s.freeFor c.core (granulePorts c g))

/-- A card whose edges are satisfied gets its end, a free pick within its bound (rules R123, R129); the bound grows with the gap of
its class and with the cycles on which its source unit is claimed. A release card's bound begins once its ancestry is
performed (rule R143). -/
def planCard (s : State) (c : Card) : Card :=
  if !c.edges.isEmpty || c.ended then c
  else if s.relWaits c then
    if c.granules.isEmpty then c else { c with startAt := none, endAt := none }
  else
    let more := if s.blockedNow c then 1 else 0
    let b := max (c.bound + more) (s.boundOf c.legs + c.blocked + more)
    let d := { c with bound := b, blocked := c.blocked + more }
    match c.endAt with
    | none =>
      let start := c.startAt.getD s.cycle
      let n := c.shortest + 1
      { d with startAt := some start, endAt := some (max c.notBefore (start + n + s.pick c.id (b - n + 1))) }
    | some t =>
      if c.granules.isEmpty then d else { d with endAt := some (t + more + s.pick c.id (b - c.bound - more + 1)) }

/-- The local bytes of the next piece of a transfer: at most one 64-byte granule. -/
def linkPorts (l : LinkXfer) : List Nat :=
  ((List.range (min 64 (linkLen l - l.moved))).map (fun i => portOf (canon (l.addr / 64 * 64 + l.moved + i)))).eraseDups

/-- A link instruction on a port that is not up ends in error; a cycle on which its unit is claimed puts its end off (rules R129,
R324). -/
def planLink (s : State) (l : LinkXfer) : LinkXfer :=
  match l.endAt with
  | some t => if s.freeFor l.core (linkPorts l) then l else { l with endAt := some (t + 1) }
  | none =>
    if l.err != 0 || s.module.weft.getD l.port .untrained == .up then l else { l with err := 3, endAt := some (s.cycle + 1) }

/-- Late writes reach their next points on free cycles; of those to one granule on one link, the oldest first (rule R139). -/
def settleLate (s : State) : State :=
  (((List.range s.late.length).zip s.late).foldl (fun (st : State × List LateWrite) x =>
    if s.pick (2 ^ 19 + x.1) 2 = 1 && !st.2.any (fun w => w.link == x.2.link && w.granule == x.2.granule)
    then (st.1.performLate x.2, st.2) else (st.1, x.2 :: st.2)) (s, [])).1

/-! #### What engines want -/

/-- The class of the shuttle traffic of a piece of work: reads for a fetch, and for what moves no off-wafer byte. -/
def workClass (g : Granule) : Nat := g.cls.getD 0

/-- A piece of a card's work that its engine can do on this cycle, but for the other pieces. -/
def workable (s : State) (c : Card) (g : Granule) : Bool :=
  g.ready c && s.freeFor c.core (granulePorts c g) && s.carried (blockOf c.core) (workClass g) g.targets

/-- The access with which a card does the piece of work at place `k`. -/
def workAccess (c : Card) (g : Granule) (k : Nat) (unit : Bool) : Access :=
  { rank := 2, by_ := c.endAt.getD 0, core := c.core, ports := granulePorts c g
    event := (.cardGranule, { numArg c.id with m := k, sel := unit.toNat }) }

/-- What the engine of an atomic card does on a cycle: local bytes that it writes, those that it reads, and units, as many as there are to
apply where `all` says so and else a free number (rules R129, R131). -/
def atomicAccess (s : State) (c : Card) (all : Bool) : List Access :=
  let placed := (List.range c.granules.length).zip c.granules
  let one := fun (p : Granule → Bool) =>
    ((placed.filter (fun g => p g.2 && s.workable c g.2)).take 1).map (fun g => workAccess c g.2 g.1 false)
  let units := (c.granules.filter Granule.isUnit).takeWhile (s.workable c)
  one Granule.isFill ++ one Granule.isTake
    ++ (units.take (if all then units.length else s.pick c.id (units.length + 1))).map (fun g => workAccess c g 0 true)

/-- The granule of a card that its engine wants to move: a free choice, unless the card's end is near (rule R129). -/
def cardAccess (s : State) (c : Card) : List Access :=
  if !s.cardOpen c then []
  else
    let left := (s.cards.filter (fun x => x.core == c.core)).foldl (fun n x => n + x.workCycles) 0
    let near := c.endAt.any (fun t => decide (t ≤ s.cycle + left))
    if !(s.coin c.id || near) then []
    else if c.op = .atomic then s.atomicAccess c near
    else
      let can := ((List.range c.granules.length).zip c.granules).filter (fun g => s.workable c g.2)
      (can[s.pick c.id can.length]?).toList.map (fun g => workAccess c g.2 g.1 false)

/-- The bytes of a paired transfer that move. DESIGN CHOICE, unsafe (log entry 42): the order of rule R58 names neither a send's source
read, which takes the place of a shuttle engine's, nor a receive's image write, which takes that of a receive-and-add. -/
def linkAccess (s : State) (l : LinkXfer) : List Access :=
  let left := (s.links.filter (fun x => x.core == l.core)).foldl (fun n x => n + (linkLen x - x.moved + 63) / 64) 0
  if l.paired.isNone || linkLen l ≤ l.moved || !s.freeFor l.core (linkPorts l)
      || s.linkHalted l || !s.carried (blockOf l.core) (match l.op with | .send => 1 | _ => 0) [4 * 2 ^ 52]
      || !(s.coin l.id || l.endAt.any (fun t => decide (t ≤ s.cycle + left))) then []
  else [{ rank := match l.op with | .send => 2 | _ => 1
          by_ := l.endAt.getD 0, core := l.core, ports := linkPorts l
          event := (.shuttleFlitHop, { Arg.none with sel := 2, n := l.id }) }]

/-- What the scrubbers of a core want (rules R58, R68): IMEM's on cycles free of fetch. -/
def scrubAccess (s : State) (c : Core) : List Access :=
  let k := 64 * c.idx
  (List.range 11).flatMap (fun u =>
    let a := { coreArg c.idx with n := u }
    let ports := if u < 8 then [u] else if u = 10 then [10] else []
    if unitBusy c u || (u == 10 && c.ctl.fetched) then []
    else
      (if c.aux.fixes.any (fun f => f.unit == u) && s.coin (k + 13 + u) then
        [{ rank := 3, by_ := 0, core := c.idx, ports := ports, event := (.scrubWriteback, a) }] else [])
        ++ (if decide (c.aux.scrubWait.getD u 0 ≤ s.cycle) && s.coin (k + 2 + u) then
          [{ rank := 4, by_ := 0, core := c.idx, ports := ports, event := (.scrubRead, a) }] else []))

/-- The pairs of ports and tags at which a link instruction meets a post of the peer (rule R322). -/
def pairEvents (s : State) : List (Instr × Arg) :=
  let open_ := s.links.filter (fun l => l.paired.isNone && l.err == 0)
  let keys := (open_.map (fun l => (l.port, l.tag, match l.op with | .send => true | _ => false))).eraseDups
  (keys.filter (fun k => s.module.peers.any (fun p => p.port == k.1 && p.tag == k.2.1 && p.sends != k.2.2))).map (fun k =>
    (.linkPair, { Arg.none with n := k.1, m := k.2.1, sel := if k.2.2 then 0 else 1 }))

/-- The lines that fetch may read ahead: none while the loop buffer replays (rule R63). -/
def aheadLines (c : Core) : List Nat :=
  if (c.captured c.nextBundle).isSome then []
  else ((List.range 4).map (fun i => (Core.lineOf c.ctl.pc + i) % 4096)).filter (fun n => !c.ctl.fbuf.any (fun l => l.num == n))

/-- Fetch reads ahead where its port has not been used on this cycle (rules R62, R63). -/
def fetchAhead (s : State) (c : Core) : List (Instr × Arg) :=
  if c.ctl.mode == .running && !c.ctl.fetched && c.ctl.fbuf.length < 4 && s.coin (64 * c.idx + 1) then
    (aheadLines c).take 1 |>.map (fun n => (.fetchLine, { coreArg c.idx with n := n }))
  else []

/-- The accesses that the ports and units serve on this cycle, fetch apart (rules R57, R58, R62, R96). -/
def accesses (s : State) (fetched : List Nat) : List Access :=
  let all := s.links.flatMap s.linkAccess ++ s.cards.flatMap s.cardAccess ++ s.allCores.flatMap s.scrubAccess
  serve (fetched.map (fun k => (k, 10)))
    (all.mergeSort (fun a b => decide (a.rank < b.rank) || (decide (a.rank = b.rank) && decide (a.by_ ≤ b.by_))))

/-- The cards that end on this cycle, when the granules that move on it leave them nothing to do. -/
def cardEnds (s : State) (served : List Access) : List (Instr × Arg) :=
  (s.cards.filter (fun c => !c.ended && c.endAt.any (fun t => decide (t ≤ s.cycle)) &&
    decide (c.granules.length ≤ (served.filter (fun a => a.event.1 == .cardGranule && a.event.2.n == c.id)).length))).map
      (fun c => (.cardEnd, numArg c.id))

/-- The engine may read the acting core's deck ahead: the way to the deck is whole (rules R120, R381). -/
def deckCarried (s : State) : Bool :=
  let va := bits s.core.sys.deckbase 56 5 * 32
  match s.translate va (fun _ => 1) with
  | .ok (l, _) => s.carried (blockOf s.core.idx) 0 [l.addr va]
  | .error _ => true

/-- What else the engines of a core do on a cycle: prefetch, send trace, deliver its trigger (rules R120, R153, R413). -/
def engineEvents (s : State) (c : Core) : List (Instr × Arg) :=
  let a := coreArg c.idx
  due (c.ctl.mode == .running && !c.sys.cardpos0.getLsbD 16 && s.coin (64 * c.idx)
    && (s.focus c.idx).deckCarried) .deckPrefetch a
    ++ due (!c.aux.traceQ.isEmpty && s.traceSlot (blockOf c.idx)) .shuttleFlitHop { a with sel := 0 }
    ++ due (match c.aux.trigger with
      | some ids => !c.aux.delivered && !s.trigWaits ids
      | none => false) .triggerDelivered a

/-- Trace flits that hop or reach their ring. -/
def traceEvents (s : State) (r : Nat) : List (Instr × Arg) :=
  let g := s.region r
  let (x, y) := s.ringRouter r
  ((List.range g.flits.length).reverse.filterMap (fun i =>
    match g.flits[i]? with
    | none => none
    | some f =>
      if !s.headsQueue f (nextBlock f.block x y) || !s.traceSlot f.block then none
      else if (nextBlock f.block x y).isSome then some (.shuttleFlitHop, { Arg.none with sel := 1, region := r, n := i })
      else some (.traceRecordWrite, { Arg.none with region := r, n := i })))

/-- What the sequencers do with queues and partitions (rules R333, R334, R338, R343). -/
def queueEvents (s : State) : List (Instr × Arg) :=
  (List.range 64).flatMap (fun q =>
    let x := s.queue q
    let read := x.on && x.hasHead && (match x.head with
      | .unread => s.coin q
      | .read ws => pdefOn (s.part x.part).pdef || (s.recordImage ws).isNone
      | .checked ws => !(s.recordImage ws).any (fun i => !pdefOn (s.part x.part).pdef || s.shapeOk x.part i))
    due read .queueHeadRead (numArg q))
    ++ (List.range 16).flatMap (fun p =>
      let a := partArg p
      due (!(s.failing p).isEmpty || (s.idlePart p && s.mayOffer p)) .sequencerSelect a
        ++ (match (s.part p).ctx with
          | none => []
          | some x =>
            due (s.launchOver p x) .launchEnd a
              ++ (match x.stage with
                | .draining => due (s.drained p && (s.areaPlace (imagePages (s.coreCount p))).isSome)
                    .contextSave a
                | _ => [])))

/-- Stage 4. -/
def engines (s : State) : State :=
  let s0 := s.settleLate
  let s1 := { s0 with cards := s0.cards.map s0.planCard, links := s0.links.map s0.planLink }
  let fetch := s1.allCores.flatMap s1.fetchAhead
  let served := s1.accesses (fetch.map (fun e => e.2.core))
  let evs := s1.allCores.flatMap (fun c => due (s1.sampleDue c) .traceSample (coreArg c.idx))
    ++ fetch ++ s1.pairEvents ++ served.map (·.event) ++ s1.cardEnds served ++ s1.allCores.flatMap s1.engineEvents
    ++ (List.range 16).flatMap s1.traceEvents
    ++ (s1.module.homes.filter s1.mayMove).map (fun h => (.homeMove, numArg h.block))
    ++ s1.queueEvents
  { s1 with stage := 4, agenda := evs }

/-- Stage 5: completion records that have a slot are written, those that have become due on this cycle among them (rules R331,
R334). -/
def records (s : State) : State :=
  let evs := (List.range 64).flatMap (fun q =>
    let x := s.queue q
    due (!x.pending.isEmpty && x.room) .completionRecordWrite (numArg q))
  { s with stage := 5, agenda := evs }

/-! ### The turn of stages -/

/-- The next stage begins; after the last, the next fabric cycle, with what the outside does on it. -/
def nextStage (s : State) : State :=
  match s.stage with
  | 0 => s.timed
  | 1 => s.switched
  | 2 => s.coreStage
  | 3 => s.engines
  | 4 => s.records
  | _ => { s.nextCycle with stage := 0 }.takeInputs

/-- Stages pass until an event is due, at most to the same stage of the next cycle. -/
def advance : Nat → State → State
  | 0, s => s
  | fuel + 1, s => let t := s.nextStage; if t.agenda.isEmpty then advance fuel t else t

/-- A part without power takes the next thing that the outside does: only power-good starts it again (rule R379). -/
def powerUp (s : State) : State :=
  match s.inbox with
  | [] => s
  | (t, .event .powerGood a) :: rest =>
    { s with inbox := rest.map (fun e => (e.1 - t, e.2)), agenda := [(.powerGood, a)] }
  | _ :: rest => { s with inbox := rest }

end State

end Sys2Proof.Machine
end

