-- ==== Sys2Proof/Machine/Run.lean ====
section
/-! DEFINITION. How a step runs the next event of the agenda, and an instruction placed for the next step (rule R209; log entries 1
and 9). -/

namespace Sys2Proof.Machine

namespace State

/-- The next event is a slot of the bundle that is issuing. -/
def slotNext (s : State) : Bool :=
  match s.agenda with
  | (i, a) :: _ => i.isSlot && a.bundle
  | [] => false

/-- The next event of the agenda happens. -/
def runNext (s : State) : Out :=
  match s.agenda with
  | [] => .next s
  | (i, a) :: rest => exec i { s with agenda := rest, arg := a }

/-- The slots of an issuing bundle happen with it: at most eight (rule R209). -/
def runSlots : Nat → Out → Out
  | 0, o => o
  | fuel + 1, .next s => if s.slotNext then runSlots fuel s.runNext else .next s
  | _, o => o

/-- One step: the next event with the slots that issue with it; once nothing is due, time passes until something is. -/
def runStep (s : State) : Out :=
  if !s.agenda.isEmpty then runSlots 8 s.runNext
  else if s.power then .next (s.advance 5)
  else if s.inbox.isEmpty then .fault .poweredOff
  else .next s.powerUp

/-! ### An instruction placed for the next step -/

/-- The head word of a bundle with one slot. -/
def oneSlot (sl : Slot) : Word32 := (Head.word { idle := 0, safe := false, wm := 0, sp := 1 <<< sl.num })

/-- The acting core stands ready to issue the bundle at its pc: running, in compute phase, with nothing held or buffered. -/
def readied (c : Core) : Core :=
  { c with ctl := { c.ctl with
      mode := .running, hold := none, wake := 0, idle := 0, redirects := [], redo := 0, fbuf := [], lbuf := [], passed := false
      taken := none, skip := none, dueAt := none, active := false, issued := false, rdLatch := none } }

/-- The bundle of one instruction stands at the acting core's pc, and the next step issues it; a word that decodes to nothing
changes nothing. -/
def placeWord (s : State) (nbits w : Nat) : State :=
  match decodeTableSlot nbits w with
  | some (sl, _) =>
    let c := readied s.core
    let bs := toBytes 4 (oneSlot sl).toNat ++ toBytes 4 (w % 2 ^ 32)
    { s with
      core := { c with mem := { c.mem with imem := c.mem.imem.write c.ctl.pc.toNat bs } }
      stage := 3, agenda := [(.bundleIssue, coreArg c.idx)], power := true }
  | none => s

end State

end Sys2Proof.Machine
end

