-- ==== Sys2Proof/Safety.lean ====
section
/-! DEFINITION. What counts as a safe run: the canonical form of every memory, and the stops of a step. -/

namespace Sys2Proof.Machine

/-- Local space and IMEM of a core are in canonical form. -/
def Core.memWf (c : Core) : Bool := c.mem.loc.wf && c.mem.imem.wf

/-- Every memory of the part is in canonical form: equal memories are equal data. -/
def State.memWf (s : State) : Bool := s.mem.wf && s.core.memWf && s.others.all Core.memWf

/-- Something can still happen: an event is due, the module has power, or an input waits. -/
def State.live (s : State) : Bool := !s.agenda.isEmpty || s.power || !s.inbox.isEmpty

/-- The next step stops neither with a fault nor with a refusal. -/
def State.steps (s : State) : Prop := ∃ t, step s = .next t

/-- A run of `n` steps ends in a state of which `P` holds. -/
def State.runsTo (s : State) (n : Nat) (P : State → Prop) : Prop := ∃ t, Sys2Proof.core.run n s = .next t ∧ P t

/-! ### What a slot instruction leaves in flight -/

/-- Lane `i` of `w` bits (rule R263). -/
def laneAt (w : Nat) (v : Vec) (i : Nat) : BitVec w := v.extractLsb' (w * i) w

/-- A slot instruction with guard `g` issues as part of a bundle whose checks have passed, and its guard reads true. -/
def State.issuing (s : State) (g : BitVec 4) : Prop := s.arg.bundle = true ∧ s.core.rp g = true

/-- One more result is in flight in the acting core; nothing else differs. -/
def State.landing (s : State) (l : Landing) : State :=
  s.act (fun c => { c with ctl := { c.ctl with lands := c.ctl.lands ++ [l] } })

/-- One more claim is recorded in the acting core; nothing else differs. -/
def State.claiming (s : State) (k : Claim) : State :=
  s.act (fun c => { c with ctl := { c.ctl with claims := c.ctl.claims ++ [k] } })

/-- `l` is a result of an instruction that issues now in slot `sl`, seen by consumers `lat` core cycles later (rule
R220). -/
def Landing.of (l : Landing) (s : State) (sl : Slot) (lat : Nat) : Prop :=
  l.due = s.core.ctl.cc + lat ∧ l.issued = s.core.ctl.cc ∧ l.slot = sl.num ∧ l.cba = s.core.ctl.pc

/-- `k` is a claim of an instruction that issues now in slot `sl`, `off` core cycles later (rule R49). -/
def Claim.of (k : Claim) (s : State) (sl : Slot) (off : Nat) : Prop :=
  k.due = s.core.ctl.cc + off ∧ k.issued = s.core.ctl.cc ∧ k.slot = sl.num ∧ k.cba = s.core.ctl.pc

/-- Issuing, `i` completes: it leaves one result with effect `e` in flight and changes nothing else, and the bundle's
issue ends if `i` is its last slot. -/
def slotGives (i : Instr) (g : BitVec 4) (sl : Slot) (lat : Nat) (e : Effect) (s : State) : Prop :=
  s.issuing g → ∃ l : Landing, l.of s sl lat ∧ l.eff = e ∧ l.nan = none ∧ exec i s = .next (s.landing l).close

/-- As `slotGives`, with a vector result for `d` whose `n` lanes of `w` bits are `f 0`, `f 1` and so on. -/
def slotLanes (i : Instr) (g : BitVec 4) (sl : Slot) (lat : Nat) (d : BitVec 6) (w n : Nat) (f : Nat → BitVec w)
    (s : State) : Prop :=
  s.issuing g → ∃ (l : Landing) (x : Vec), l.of s sl lat ∧ l.eff = .vreg (physV s.core.reg.rotb d) x ∧ l.nan = none ∧
    (∀ k, k < n → laneAt w x k = f k) ∧ exec i s = .next (s.landing l).close

/-- As `slotLanes` for results of a format `q` whose elements stand in lanes of `w` bits: the result carries a NaN when
some element is the canonical NaN, and names the lowest (rule R288); bits above the `n` lanes are 0. -/
def slotFloats (i : Instr) (g : BitVec 4) (sl : Slot) (lat : Nat) (d : BitVec 6) (w n : Nat) (q : Fmt) (f : Nat → Nat)
    (s : State) : Prop :=
  s.issuing g → ∃ (l : Landing) (x : Vec), l.of s sl lat ∧ l.eff = .vreg (physV s.core.reg.rotb d) x ∧
    (∀ k, k < n → laneAt w x k = BitVec.ofNat w (f k)) ∧ x.toNat < 2 ^ (w * n) ∧
    (∀ m, l.nan = some m → ∃ k, m.elem = some k ∧ k < n ∧ (laneAt w x k).toNat % 2 ^ q.width = q.nanCode ∧
      ∀ j, j < k → (laneAt w x j).toNat % 2 ^ q.width ≠ q.nanCode) ∧
    (l.nan = none → q.hasNan = true → ∀ k, k < n → (laneAt w x k).toNat % 2 ^ q.width ≠ q.nanCode) ∧
    exec i s = .next (s.landing l).close

/-- Issuing, `i` completes: it records one claim with units and action and changes nothing else. -/
def slotClaims (i : Instr) (g : BitVec 4) (sl : Slot) (off : Nat) (units : List (Nat × Nat)) (a : Action) (s : State) :
    Prop :=
  s.issuing g → ∃ k : Claim, k.of s sl off ∧ k.units = units ∧ k.act = a ∧ exec i s = .next (s.claiming k).close

/-- No watchpoint on local accesses can match: exchange phase, trap mode, or none that is enabled with LOCAL = 1 (rule
R367). -/
def State.unwatched (s : State) : Prop :=
  s.core.inX = true ∨ s.core.inTrap = true ∨
    ((s.core.trap.wptm[0].getLsbD 63 && s.core.trap.wptm[0].getLsbD 61) = false ∧
     (s.core.trap.wptm[1].getLsbD 63 && s.core.trap.wptm[1].getLsbD 61) = false)

/-- The integer nearest to `x` that `w` signed bits hold, as its code (rule R182). -/
def satSigned (w : Nat) (x : Int) : BitVec w :=
  BitVec.ofInt w (max (-(2 ^ (w - 1) : Nat) : Int) (min ((2 ^ (w - 1) : Nat) - 1) x))

/-- The integer nearest to `x` that `w` unsigned bits hold. -/
def satUnsigned (w : Nat) (x : Int) : BitVec w := BitVec.ofInt w (max 0 (min ((2 ^ w : Nat) - 1) x))

/-- The relation that a 2-bit x field names, as a lane mask (rules R223, R274, R275). -/
def ccMask (w : Nat) (x : BitVec 2) (eq lt le : Prop) [Decidable eq] [Decidable lt] [Decidable le] : BitVec w :=
  if (if x = 0 then eq else if x = 1 then lt else if x = 2 then le else ¬ eq) then BitVec.allOnes w else 0

/-! ### What an event leaves as it was -/

/-- No core has changed. -/
def State.coresKept (s t : State) : Prop := t.core = s.core ∧ t.others = s.others

/-- Every core keeps its registers, its local space and its instruction memory. -/
def State.dataKept (s t : State) : Prop :=
  ∀ k, (t.coreOf k).reg = (s.coreOf k).reg ∧ (t.coreOf k).mem.loc = (s.coreOf k).mem.loc ∧
    (t.coreOf k).mem.imem = (s.coreOf k).mem.imem

/-- Off-wafer memory keeps every byte, every poison mark and every retired block. -/
def State.memKept (s t : State) : Prop := t.mem = s.mem ∧ t.poison = s.poison ∧ t.retired = s.retired

end Sys2Proof.Machine
end

