-- ==== Sys2Proof/Certificates/Slice0/Obligations.lean ====
section
/-! DEFINITION. The statements for the provers, from the numbered rules of the spec. -/

open Sys2Proof Sys2Proof.Machine

/-! ### SA, SB and LP: scalar and predicate results -/

/-- Each scalar instruction completes with the value of rules R240 to R243, one core cycle after issue, three for a product
(rule R220), and changes nothing else. Three registers: the shift amount is the whole of b, unsigned. An immediate is extended
as its form says, and MOVIS reads its own destination. A compare gives the predicate its relation, and the immediate of CMPI
is extended before an unsigned compare. -/
def Obligations.ScalarResultsComplete : Prop :=
  (∀ (s : State) (sb : Bool) (o : R3Ops) (q : R3xOps),
     let a := s.core.rs o.a
     let b := s.core.rs o.b
     let d := physS s.core.reg.rotb o.d
     let gives := fun (i : Instr) (x : Word) => slotGives i o.g (sideSlot sb) 1 (.sreg d x) s
     let product := fun (i : Instr) (x : Word) => slotGives i o.g .sa 3 (.sreg d x) s
     gives (.add sb o) (a + b) ∧ gives (.sub sb o) (a - b) ∧ gives (.and sb o) (a &&& b) ∧ gives (.or sb o) (a ||| b) ∧
     gives (.xor sb o) (a ^^^ b) ∧ gives (.andn sb o) (a &&& ~~~b) ∧ gives (.shl sb o) (a <<< b.toNat) ∧
     gives (.shr sb o) (a >>> b.toNat) ∧ gives (.sra sb o) (a.sshiftRight b.toNat) ∧
     gives (.min sb o) (if a.toInt ≤ b.toInt then a else b) ∧ gives (.max sb o) (if b.toInt ≤ a.toInt then a else b) ∧
     gives (.minn sb o) (if a.toNat ≤ b.toNat then a else b) ∧ gives (.maxn sb o) (if b.toNat ≤ a.toNat then a else b) ∧
     product (.mul o) (a * b) ∧
     product (.mulh o) ((a.signExtend 128 * b.signExtend 128).extractLsb' 64 64) ∧
     product (.mulhn o) ((a.setWidth 128 * b.setWidth 128).extractLsb' 64 64) ∧
     slotGives (.addsh q) q.g .sa 1 (.sreg (physS s.core.reg.rotb q.d)
       (s.core.rs q.a + s.core.rs q.b <<< [0, 2, 3, 8].getD q.x.toNat 0)) s) ∧
  (∀ (s : State) (sb : Bool) (o : RisOps) (r : RiOps),
     let a := s.core.rs o.a
     let i := o.imm.signExtend 64
     let gives := fun (j : Instr) (x : Word) => slotGives j o.g (sideSlot sb) 1 (.sreg (physS s.core.reg.rotb o.d) x) s
     let loads := fun (j : Instr) (x : Word) => slotGives j r.g (sideSlot sb) 1 (.sreg (physS s.core.reg.rotb r.d) x) s
     gives (.addi sb o) (a + i) ∧ gives (.andi sb o) (a &&& i) ∧ gives (.ori sb o) (a ||| i) ∧
     gives (.shli sb o) (a <<< o.imm.toNat) ∧ gives (.shri sb o) (a >>> o.imm.toNat) ∧
     gives (.srai sb o) (a.sshiftRight o.imm.toNat) ∧
     loads (.movi sb r) (r.imm.signExtend 64) ∧
     loads (.movis sb r) (s.core.rs r.d * 2 ^ 14 + r.imm.setWidth 64)) ∧
  (∀ (s : State) (sb : Bool) (o : PcOps) (q : PciOps),
     let holds := fun (cc : BitVec 3) (a b : Word) =>
       if cc = 0 then decide (a = b) else if cc = 1 then decide (a ≠ b) else if cc = 2 then decide (a.toInt < b.toInt)
       else if cc = 3 then decide (a.toInt ≤ b.toInt) else if cc = 4 then decide (a.toNat < b.toNat)
       else decide (a.toNat ≤ b.toNat)
     let p := physP s.core.reg.rotb
     (o.cc.toNat ≤ 5 → slotGives (.cmp sb o) o.g (sideSlot sb) 1
       (.preg (p o.pd) (holds o.cc (s.core.rs o.a) (s.core.rs o.b))) s) ∧
     (q.cc.toNat ≤ 5 → slotGives (.cmpi sb q) q.g (sideSlot sb) 1
       (.preg (p q.pd) (holds q.cc (s.core.rs q.a) (q.imm.signExtend 64))) s))

/-- The predicate-logic instructions complete with the value of rule R244 for pd one core cycle after issue, and change
nothing else: AND, OR, XOR, AND NOT of two predicates, and for PRED.SET bit 15 of its word; each has the opcode of the rule's
table, p0 reads 1, and PRED.ANDN of p0 and px is NOT px. -/
def Obligations.PredicateLogic : Prop :=
  ∀ (s : State) (t : P3Ops) (u : PsOps) (w : Word32),
    let p := physP s.core.reg.rotb
    let logic := fun (i : Instr) (n : Nat) (x : Bool) => slotGives i t.g .lp 1 (.preg (p t.pd) x) s ∧ i.op = n
    logic (.predAnd t) 0x10 (s.core.rp t.pa && s.core.rp t.pb) ∧ logic (.predOr t) 0x11 (s.core.rp t.pa || s.core.rp t.pb) ∧
    logic (.predXor t) 0x12 (s.core.rp t.pa != s.core.rp t.pb) ∧
    logic (.predAndn t) 0x13 (s.core.rp t.pa && !s.core.rp t.pb) ∧
    slotGives (.predSet u) u.g .lp 1 (.preg (p u.pd) (u.v == 1)) s ∧ (Instr.predSet u).op = 0x14 ∧
    (PsOps.read w).v = w.extractLsb' 15 1 ∧ s.core.rp 0 = true ∧
    (t.pa = 0 → slotGives (.predAndn t) t.g .lp 1 (.preg (p t.pd) (!s.core.rp t.pb)) s)

/-! ### SB: control, system registers, self-test -/

/-- A taken branch completes with its target noted (rule R245): relative branches from the address of their bundle, modulo 2^18,
the indirect one to bits [17:2] of its register; BR.L leaves the address of the third bundle after its own in flight, one core
cycle from issue. The choice of the next bundle (rule R246): every pending redirect counts one bundle; the one that falls due
gives the next address, before a back-edge and before a skip; and a branch that the bundle takes is due two bundles on. -/
def Obligations.BranchesComplete : Prop :=
  (∀ (s : State) (o : BOps) (q : BlOps) (r : R1aOps),
     let toward := fun (u : State) (t : CodeAddr) => u.act (fun c => { c with ctl := { c.ctl with taken := some t } })
     let pc := s.core.ctl.pc
     (s.issuing o.g → exec (.br o) s = .next (toward s (pc + (o.off.signExtend 32 * 4).setWidth 18)).close) ∧
     (s.issuing q.g → ∃ l : Landing, l.of s .sb 1 ∧ l.nan = none ∧
       l.eff = .sreg (physS s.core.reg.rotb q.d) ((s.core.seq 3 pc).setWidth 64) ∧
       exec (.brL q) s = .next (toward (s.landing l) (pc + (q.off.signExtend 32 * 4).setWidth 18)).close) ∧
     (s.issuing r.g → exec (.brInd r) s = .next (toward s ((s.core.rs r.a).extractLsb' 2 16 ++ 0#2)).close)) ∧
  (∀ (c : Core) (suppressed : Bool) (idle : Nat),
     let t := (c.advance suppressed idle).ctl
     (∀ r, c.ctl.redirects.find? (fun r => r.left == 1 || r.left == 0) = some r → t.pc = r.target ∧ t.fbuf = []) ∧
     t.redirects.map (·.target) = (c.ctl.redirects.filter (fun r => decide (1 < r.left))).map (·.target) ++ c.ctl.taken.toList ∧
     (∀ r ∈ c.ctl.redirects, 1 < r.left → ∃ r' ∈ t.redirects, r'.target = r.target ∧ r'.left = r.left - 1) ∧
     (∀ a, c.ctl.taken = some a → ∃ r' ∈ t.redirects, r'.target = a ∧ r'.left = 2) ∧
     (c.ctl.redirects = [] → c.ctl.skip = none → (c.reg.loops.toList.all (fun l => !l.act)) = true →
       t.pc = c.past c.ctl.pc ∧ t.idle = idle))

/-- HALT completes (rules R168, R253, R363): the core is halted, its arrival at this cycle is recorded, its trigger is posted,
redirects are discarded, and outside trap mode what is in flight stays there; registers, trap registers, local storage, other
cores and off-wafer memory are unchanged. In trap mode it ends trap mode: TCAUSE.INTRAP becomes 0, pending causes are
discarded, and the results and claims of the interrupted context join those in flight. -/
def Obligations.HaltCompletes : Prop :=
  (∀ (s : State) (o : ZOps), s.issuing o.g →
     ∃ t : State, exec (.halt o) s = .next t.close ∧ t.core.ctl.mode = .halted ∧ t.core.ctl.redirects = [] ∧
       t.core.aux.arrived = some ((s.core.sys.phnum.extractLsb' 0 32).toNat, s.cycle) ∧ t.core.aux.trigger.isSome ∧
       t.core.ctl.pc = s.core.ctl.pc ∧ t.core.ctl.cc = s.core.ctl.cc ∧
       t.core.reg = s.core.reg ∧ t.core.mem = s.core.mem ∧ t.core.sys = s.core.sys ∧
       (s.core.inTrap = false → t.core.ctl.lands = s.core.ctl.lands ∧ t.core.ctl.claims = s.core.ctl.claims ∧
         t.core.trap = s.core.trap) ∧
       t.others = s.others ∧ t.mem = s.mem ∧ t.tiles = s.tiles ∧ t.reticles = s.reticles ∧ t.regions = s.regions ∧
       t.module = s.module) ∧
  (∀ (s : State) (o : ZOps) (sh : Shadow), s.issuing o.g → s.core.inTrap = true → s.core.trap.shadow = some sh →
     ∃ t : State, exec (.halt o) s = .next t.close ∧ t.core.ctl.mode = .halted ∧ t.core.inTrap = false ∧
       t.core.trap.shadow = none ∧ t.core.trap.pend = [] ∧ t.core.trap.tepc = s.core.trap.tepc ∧
       t.core.ctl.lands.map (·.eff) = s.core.ctl.lands.map (·.eff) ++ sh.lands.map (·.eff) ∧
       t.core.ctl.claims.map (·.act) = s.core.ctl.claims.map (·.act) ++ sh.claims.map (·.act) ∧
       t.core.reg = s.core.reg ∧ t.core.mem = s.core.mem)

/-- TRAP completes by taking a breakpoint trap at the end of its issue cycle (rules R246, R254, R355, R360). In every bundle its cause,
with code 6 and the operand, waits for the end of the issue, and nothing else changes. A TRAP that ends the bundle, in compute phase,
with no other cause pending, enters the handler at TVEC.ENTRY on the second fabric cycle after, with the cause registers written: TEPC
holds the bundle that rule R246 selects, line ends skipped, and the idle core cycles that are still to elapse, which are the bundle's
own IDLE when it skips nothing (modulo 128, log entry 95); TLOOM the count; and the shadow the control state at that boundary, with
everything that is in flight after the cycle's claims. Behind a hold of its bundle the trap is dated on the boundary after the cycle
(log entry 19). TRET completes (rule R255): the core waits, with no redirect left, for the handler's events to land, and nothing else
changes; the wait ends with TRAP_RESUME. -/
def Obligations.TrapAndReturnComplete : Prop :=
  (∀ (s : State) (o : TOps), s.issuing o.g →
     ∃ k : Cause, k.code = 6 ∧ k.sub = 0 ∧ k.slot = 1 ∧ k.cba = s.core.ctl.pc ∧ k.info = o.code.setWidth 64 ∧
       exec (.trap o) s = .next (s.pending k).close ∧
       (s.arg.last = true → s.core.inX = false → s.core.inTrap = false → s.core.ctl.mode = .running →
         s.core.ctl.hold = none → s.core.trap.pend = [] → s.core.trap.returning = false →
         s.core.trap.tvec.getLsbD 63 = true →
         let u := s.core.advance false s.arg.idle
         let w := (s.pending k).passed.claimNow
         ∃ t : State, exec (.trap o) s = .next t ∧ t.core.inTrap = true ∧ bits t.core.trap.tcause 7 0 = 6 ∧
           bits t.core.trap.tcause 15 8 = 1 ∧ bits t.core.trap.tcause 31 16 = 0 ∧
           bits t.core.trap.tcause 49 32 = s.core.ctl.pc.toNat ∧ t.core.trap.tinfo = o.code.setWidth 64 ∧
           bits t.core.trap.tepc 17 0 = u.nextBundle.toNat ∧ bits t.core.trap.tepc 30 24 = min 127 u.ctl.idle ∧
           (s.core.ctl.skip = none → u.ctl.idle = s.arg.idle) ∧
           t.core.trap.tloom = (if s.core.ctl.passed then s.loom + 1 else s.loom) ∧
           t.core.trap.shadow = some (w.core.shadowOf (w.passedPoint s.core.ctl.passed)) ∧
           (∀ sh, t.core.trap.shadow = some sh → sh.rotb = s.core.reg.rotb ∧ sh.loops = s.core.reg.loops ∧
             sh.pairs = s.core.reg.pairs ∧ sh.redirects = u.ctl.redirects ∧ sh.redo = u.ctl.redo ∧
             sh.lands = w.core.ctl.lands ∧ sh.claims = w.core.ctl.claims ∧ sh.base = s.core.ctl.cc + 1 ∧
             sh.parity = (s.cycle + 1) % 2 ∧ sh.waits = false) ∧
           t.core.ctl.mode = .running ∧ t.core.ctl.wake = (if s.core.ctl.passed then s.cycle + 3 else s.cycle + 2) ∧
           t.core.ctl.pc = (s.core.trap.tvec.setWidth 18 &&& 0x3FFFC) ∧ t.core.ctl.redirects = [] ∧ t.core.ctl.lands = [] ∧
           t.core.reg.rotb = .reset ∧ t.core.reg.s = s.core.reg.s ∧ t.core.reg.v = s.core.reg.v)) ∧
  (∀ (s : State) (o : ZOps), s.issuing o.g →
     exec (.tret o) s = .next (s.act (fun c => { c with
       trap := { c.trap with returning := true }
       ctl := { c.ctl with redirects := [], taken := none, skip := none } })).close)

/-- SYS.RD completes with the register's value as it stands on the issue cycle, seen two core cycles later, and clears the RC
fields of the register: of CECNT and UECNT of MEMERR only the errors of the read's own cycle stay counted (rule R11); a releasing
bundle's value is the one read before its hold. SYS.WR and FMT.WR leave their writes in flight for the next core cycle, FMT.WR with
bits [31:27] and [5:3] as 0 (rules R256 to R258). -/
def Obligations.SystemRegistersComplete : Prop :=
  ∀ (s : State) (o : SyrOps) (w : SywOps) (f : FwOps),
    (s.issuing o.g → s.core.ctl.rdLatch = none → ∃ l : Landing, l.of s .sb 2 ∧ l.nan = none ∧
      let x := s.core.sysReadNow s.arr o.n
      l.eff = .sreg (physS s.core.reg.rotb o.d) x ∧ (o.n ≠ 0x031 → x = s.core.sysRead s.arr o.n) ∧
      exec (.sysRd o) s = .next ((s.landing l).act (fun c => c.sysClear o.n)).close) ∧
    (∀ x, s.issuing o.g → s.core.ctl.rdLatch = some x → ∃ l : Landing, l.of s .sb 2 ∧ l.nan = none ∧
      l.eff = .sreg (physS s.core.reg.rotb o.d) x ∧
      exec (.sysRd o) s = .next ((s.landing l).act (fun c => c.sysClear o.n)).close) ∧
    (o.n ≠ 0x031 → s.core.sysClear o.n = s.core) ∧
    (let e := (s.core.sysClear 0x031).sys.memerr;
      bits e 55 40 = bits s.core.aux.memNew 55 40 ∧ bits e 39 32 = bits s.core.aux.memNew 39 32 ∧
      bits e 63 56 = bits s.core.sys.memerr 63 56 ∧ bits e 31 0 = bits s.core.sys.memerr 31 0) ∧
    slotGives (.sysWr w) w.g .sb 1 (.sysw w.n (s.core.rs w.a)) s ∧
    slotGives (.fmtWr f) f.g .sb 1 (.fmt f.f ((s.core.rs f.a).extractLsb' 0 32 &&& 0x07FFFFC7)) s

/-- What a landed SYS.WR leaves to be read (rules R11, R257, R290, R356, R360, R361, R367, R411, R417): a RW field holds
what was written, every other bit reads 0; UEV of MEMERR clears where the operand holds 1 and its other bits stay; the
bundle trap registers BKPT keep ADDR and EN alone. -/
def Obligations.SystemRegisterFields : Prop :=
  ∀ (c : Core) (arr : Nat) (x : Word),
    let after := fun (n : BitVec 12) => (c.applyEffect (.sysw n x)).sysRead arr n
    after 0x031 = c.sys.memerr &&& ~~~(x &&& 0x80000000) ∧
    after 0x080 = x &&& 0x00FFFF0F ∧ after 0x108 = x &&& 0x800000000003FFFF ∧ after 0x109 = x &&& 1 ∧
    after 0x10C = x &&& 0x800000000003FFFF ∧ after 0x10D = x &&& 0x800000000003FFFF ∧
    after 0x118 = x &&& 0x01FFFFFFFFFFFFFF ∧ after 0x11A = x &&& 0x01FFFFFFFFFFFFFF ∧
    after 0x119 = x &&& 0xF80000000000003F ∧ after 0x11B = x &&& 0xF80000000000003F ∧
    after 0x140 = x &&& 0xFFFF001E ∧ after 0x150 = x &&& 1 ∧
    (∀ n : BitVec 12, 0x110 ≤ n.toNat → n.toNat ≤ 0x117 → after n = x) ∧
    (∀ n : BitVec 12, sysWritable n = false → c.applyEffect (.sysw n x) = c)

/-- The self-tests complete: each holds the core from the cycle after issue for an even number of cycles of at least 2, and
MARG.V sets the offset of the region it names (rules R34, R260 to R262); how long is open (log entry 3). Registers, local
storage, what is in flight and off-wafer memory are unchanged. They are privileged (rules R259, R312): without the self-test
grant of its context, SYS.BIST, MARG.V, MARG.L or GCLK.ALN with a guard that reads true is refused with code 8 and cause 1
at its bundle. That the missing grant comes before every other reason is log entry 67. -/
def Obligations.SelfTestsComplete : Prop :=
  (∀ (s : State) (o : R2Ops), s.issuing o.g →
     let a := s.core.rs o.a
     let b := s.core.rs o.b
     let held := fun (t : State) (k : HoldKind) => ∃ h : Hold, t.core.ctl.hold = some h ∧ h.kind = k ∧
       h.since = s.cycle + 1 ∧ ∃ m, h.till = s.cycle + 1 + 2 * m ∧ 1 ≤ m ∧
       t.core = { s.core with ctl := { s.core.ctl with hold := some h } }
     (∃ t, exec (.sysBist o) s = .next t.close ∧ held t (.bist (bits a 7 0) (bits a 15 8) b) ∧
       t.regions = s.regions ∧ t.mem = s.mem ∧ t.others = s.others) ∧
     (∃ t, exec (.margV o) s = .next t.close ∧ held t (.margV (bits a 3 0) b.toInt) ∧
       (t.region (bits a 3 0)).voff = b.toInt ∧ (∀ r, r ≠ bits a 3 0 → t.region r = s.region r) ∧
       t.mem = s.mem ∧ t.others = s.others) ∧
     (∃ t, exec (.margL o) s = .next t.close ∧ held t (.margL (bits a 7 0) (bits a 9 8) (bits b 5 0)) ∧
       t.regions = s.regions ∧ t.mem = s.mem ∧ t.others = s.others)) ∧
  (∀ (s : State) (o : R2Ops) (z : ZOps), s.core.aux.grant = false →
     s.testRefusal (.sysBist o) = some 1 ∧ s.testRefusal (.margV o) = some 1 ∧ s.testRefusal (.margL o) = some 1 ∧
     s.testRefusal (.gclkAln z) = some 1 ∧
     ∀ (i : Instr) (x : SlotWord), x.dec = .ok i → s.core.guard x = true → s.testRefusal i = some 1 →
       ∃ k, s.testCause [x] = some k ∧ k.code = 8 ∧ k.sub = 1 ∧ k.slot = x.slot.num ∧ k.cba = s.core.ctl.pc)

/-! ### LM: local storage -/

/-- Every load, store and broadcast of LM completes by claiming the unit of its address for the next core cycle (rules R46, R47,
R49, R267 to R270): the address is s_a plus the immediate times the size, modulo 2^22, taken down to a multiple of the size;
nothing else changes while no watchpoint can match. A watchpoint on local accesses traps after issue (rules R353, R367): in
compute phase outside trap mode, with WPT0 enabled, LOCAL and RD set and a window of 8 bytes at the address that LD.I64 reads,
the cause waits with code 0x0C, WPT0 and the address; the load itself has completed. -/
def Obligations.LocalAccessesComplete : Prop :=
  (∀ (s : State) (o : RisOps) (x : R3Ops), s.unwatched →
     let at_ := fun (n : Nat) =>
       canon ((s.core.rs o.a + o.imm.signExtend 64 * BitVec.ofNat 64 n).toNat % 2 ^ 22 / n * n)
     let ax := canon ((s.core.rs x.a + s.core.rs x.b).toNat % 2 ^ 22 / 256 * 256)
     let d := physS s.core.reg.rotb o.d
     let v := physV s.core.reg.rotb o.d
     let loads := fun (i : Instr) (n : Nat) (signed : Bool) =>
       slotClaims i o.g .lm 1 [(unitOf (at_ n), 1)] (.load (at_ n) n signed d) s
     let stores := fun (i : Instr) (n : Nat) =>
       slotClaims i o.g .lm 1 [(unitOf (at_ n), 1)] (.store (at_ n) (toBytes n (s.core.rs o.d).toNat)) s
     loads (.ldI8 o) 1 true ∧ loads (.ldN8 o) 1 false ∧ loads (.ldI16 o) 2 true ∧ loads (.ldN16 o) 2 false ∧
     loads (.ldI32 o) 4 true ∧ loads (.ldN32 o) 4 false ∧ loads (.ldI64 o) 8 false ∧
     stores (.stB o) 1 ∧ stores (.stH o) 2 ∧ stores (.stW o) 4 ∧ stores (.stD o) 8 ∧
     slotClaims (.vld o) o.g .lm 1 [(unitOf (at_ 256), 2)] (.vload (at_ 256) v) s ∧
     slotClaims (.vst o) o.g .lm 1 [(unitOf (at_ 256), 2)] (.store (at_ 256) (vecBytes (s.core.rv o.d))) s ∧
     slotClaims (.vldx x) x.g .lm 1 [(unitOf ax, 2)] (.vload ax (physV s.core.reg.rotb x.d)) s ∧
     slotClaims (.vstx x) x.g .lm 1 [(unitOf ax, 2)] (.store ax (vecBytes (s.core.rv x.d))) s ∧
     slotClaims (.vbcastW o) o.g .lm 1 [(unitOf (at_ 4), 12)] (.bcast (at_ 4) v) s) ∧
  (∀ (s : State) (o : RisOps) (b : Word), s.issuing o.g → s.core.inX = false → s.core.inTrap = false →
     let y := risAddr s.core o 8
     s.core.trap.wptb[0] = b → bits b 21 0 = y → s.core.trap.wptm[0] = 0xB000000000000003 →
     ∃ (k : Claim) (c : Cause), k.of s .lm 1 ∧ k.act = .load y 8 false (physS s.core.reg.rotb o.d) ∧
       c.code = 0x0C ∧ c.sub = 0 ∧ c.slot = 2 ∧ c.cba = s.core.ctl.pc ∧ c.info = BitVec.ofNat 64 y ∧
       exec (.ldI64 o) s = .next ((s.claiming k).pending c).close)

/-- Gathers and scatters complete by claiming, for the next core cycle, every unit that an active lane names (rules R50,
R271): lane i is active when bit 31 (15 for the H forms) of its index is 0, and its address is s_a plus the size times the
index, modulo 2^22, taken down to a multiple of the size. -/
def Obligations.GathersAndScattersComplete : Prop :=
  ∀ (s : State) (o : R3Ops), s.unwatched →
    let addr := fun (n i : Nat) =>
      let x := laneAt (8 * n) (s.core.rv o.b) i
      if x.msb then none else some (canon (((s.core.rs o.a).toNat + n * x.toNat) % 2 ^ 22 / n * n))
    let claims := fun (j : Instr) (n : Nat) (a : Action) => s.issuing o.g → ∃ k : Claim, k.of s .lm 1 ∧ k.act = a ∧
      (∀ u, u ∈ k.units ↔ ∃ i y, i < 256 / n ∧ addr n i = some y ∧ u = (unitOf y, 3)) ∧ k.units.Nodup ∧
      exec j s = .next (s.claiming k).close
    let from_ := fun (n : Nat) => (List.range (256 / n)).map (addr n)
    let into := fun (n : Nat) => (List.range (256 / n)).filterMap (fun i =>
      (addr n i).map (fun y => (y, toBytes n (laneAt (8 * n) (s.core.rv o.d) i).toNat)))
    let d := physV s.core.reg.rotb o.d
    claims (.vgatherW o) 4 (.gather 4 (from_ 4) d) ∧ claims (.vgatherH o) 2 (.gather 2 (from_ 2) d) ∧
    claims (.vscatterW o) 4 (.scatter (into 4)) ∧ claims (.vscatterH o) 2 (.scatter (into 2))

/-! ### VA: lanes -/

/-- Floating-point add, subtract, minimum, maximum and compare complete in every lane (rules R273, R274) two core cycles
after issue, in each of FP32, FP16 and BF16: the exact sum or difference rounded once in the mode that x names; the NaN that
a result holds is reported with it, the lowest lane first (rule R288). Nothing else changes. -/
def Obligations.FloatLanesComplete : Prop :=
  ∀ (s : State) (o : R3Ops) (q : R3xOps),
    let m := Mode.ofCode q.x
    let lane2 := fun (w : Nat) (a b : BitVec 6) (f : Nat → Nat → Nat) (k : Nat) =>
      f (laneAt w (s.core.rv a) k).toNat (laneAt w (s.core.rv b) k).toNat
    let sum := fun (f : Fmt) (x y : Nat) => roundTo (.sum (m = .rdn) [decodeCode f x, decodeCode f y]) f m 0
    let diff := fun (f : Fmt) (x y : Nat) => roundTo (.sum (m = .rdn) [decodeCode f x, (decodeCode f y).negate]) f m 0
    let gives3 := fun (w : Nat) (i : Instr) (f : Fmt) (g : Nat → Nat → Nat) =>
      slotFloats i o.g .va 2 o.d w (2048 / w) f (lane2 w o.a o.b g) s
    let givesX := fun (w : Nat) (i : Instr) (f : Fmt) (g : Nat → Nat → Nat) =>
      slotFloats i q.g .va 2 q.d w (2048 / w) f (lane2 w q.a q.b g) s
    let compares := fun (w : Nat) (i : Instr) (f : Fmt) => slotLanes i q.g .va 2 q.d w (2048 / w) (fun k =>
      let x := decodeCode f (laneAt w (s.core.rv q.a) k).toNat
      let y := decodeCode f (laneAt w (s.core.rv q.b) k).toNat
      ccMask w q.x (x.eq y = true) (x.lt y = true) (x.le y = true)) s
    (givesX 32 (.vaddF32 q) .f32 (sum .f32) ∧ givesX 32 (.vsubF32 q) .f32 (diff .f32) ∧
      gives3 32 (.vminF32 o) .f32 (minMax .f32 false false) ∧ gives3 32 (.vmaxF32 o) .f32 (minMax .f32 true false) ∧
      gives3 32 (.vminnF32 o) .f32 (minMax .f32 false true) ∧ gives3 32 (.vmaxnF32 o) .f32 (minMax .f32 true true) ∧
      compares 32 (.vcmpF32 q) .f32) ∧
    (givesX 16 (.vaddF16 q) .f16 (sum .f16) ∧ givesX 16 (.vsubF16 q) .f16 (diff .f16) ∧
      gives3 16 (.vminF16 o) .f16 (minMax .f16 false false) ∧ gives3 16 (.vmaxF16 o) .f16 (minMax .f16 true false) ∧
      gives3 16 (.vminnF16 o) .f16 (minMax .f16 false true) ∧ gives3 16 (.vmaxnF16 o) .f16 (minMax .f16 true true) ∧
      compares 16 (.vcmpF16 q) .f16) ∧
    (givesX 16 (.vaddBf16 q) .bf16 (sum .bf16) ∧ givesX 16 (.vsubBf16 q) .bf16 (diff .bf16) ∧
      gives3 16 (.vminBf16 o) .bf16 (minMax .bf16 false false) ∧ gives3 16 (.vmaxBf16 o) .bf16 (minMax .bf16 true false) ∧
      gives3 16 (.vminnBf16 o) .bf16 (minMax .bf16 false true) ∧ gives3 16 (.vmaxnBf16 o) .bf16 (minMax .bf16 true true) ∧
      compares 16 (.vcmpBf16 q) .bf16)

/-- Integer add, subtract, saturating add and subtract, minimum, maximum and compare complete in every lane of 8, 16, 32 and 64
bits (rule R275) two core cycles after issue, signed and unsigned; so do bitwise operations, VSEL and lane shifts, whose amount
is the whole unsigned lane of b (rules R276, R277). Nothing else changes. -/
def Obligations.IntegerLanesComplete : Prop :=
  (∀ (s : State) (o : R3Ops) (q : R3xOps),
     let gives := fun (w : Nat) (i : Instr) (f : BitVec w → BitVec w → BitVec w) => slotLanes i o.g .va 2 o.d w (2048 / w)
       (fun k => f (laneAt w (s.core.rv o.a) k) (laneAt w (s.core.rv o.b) k)) s
     let compares := fun (w : Nat) (i : Instr) (f : BitVec w → BitVec w → BitVec w) => slotLanes i q.g .va 2 q.d w (2048 / w)
       (fun k => f (laneAt w (s.core.rv q.a) k) (laneAt w (s.core.rv q.b) k)) s
     let family := fun (w : Nat) (add sub addsI addsN subsI subsN minI minN maxI maxN cmpI cmpN : Instr) =>
       gives w add (· + ·) ∧ gives w sub (· - ·) ∧
       gives w addsI (fun a b => satSigned w (a.toInt + b.toInt)) ∧
       gives w addsN (fun a b => satUnsigned w (a.toNat + b.toNat)) ∧
       gives w subsI (fun a b => satSigned w (a.toInt - b.toInt)) ∧
       gives w subsN (fun a b => satUnsigned w (a.toNat - b.toNat : Int)) ∧
       gives w minI (fun a b => if a.toInt ≤ b.toInt then a else b) ∧
       gives w minN (fun a b => if a.toNat ≤ b.toNat then a else b) ∧
       gives w maxI (fun a b => if b.toInt ≤ a.toInt then a else b) ∧
       gives w maxN (fun a b => if b.toNat ≤ a.toNat then a else b) ∧
       compares w cmpI (fun a b => ccMask w q.x (a = b) (a.toInt < b.toInt) (a.toInt ≤ b.toInt)) ∧
       compares w cmpN (fun a b => ccMask w q.x (a = b) (a.toNat < b.toNat) (a.toNat ≤ b.toNat))
     family 8 (.viaddI8 o) (.visubI8 o) (.viaddsI8 o) (.viaddsN8 o) (.visubsI8 o) (.visubsN8 o) (.viminI8 o) (.viminN8 o)
       (.vimaxI8 o) (.vimaxN8 o) (.vicmpI8 q) (.vicmpN8 q) ∧
     family 16 (.viaddI16 o) (.visubI16 o) (.viaddsI16 o) (.viaddsN16 o) (.visubsI16 o) (.visubsN16 o) (.viminI16 o)
       (.viminN16 o) (.vimaxI16 o) (.vimaxN16 o) (.vicmpI16 q) (.vicmpN16 q) ∧
     family 32 (.viaddI32 o) (.visubI32 o) (.viaddsI32 o) (.viaddsN32 o) (.visubsI32 o) (.visubsN32 o) (.viminI32 o)
       (.viminN32 o) (.vimaxI32 o) (.vimaxN32 o) (.vicmpI32 q) (.vicmpN32 q) ∧
     family 64 (.viaddI64 o) (.visubI64 o) (.viaddsI64 o) (.viaddsN64 o) (.visubsI64 o) (.visubsN64 o) (.viminI64 o)
       (.viminN64 o) (.vimaxI64 o) (.vimaxN64 o) (.vicmpI64 q) (.vicmpN64 q)) ∧
  (∀ (s : State) (o : R3Ops),
     let a := s.core.rv o.a
     let b := s.core.rv o.b
     let m := s.core.rv o.d
     let whole := fun (i : Instr) (x : Vec) => slotGives i o.g .va 2 (.vreg (physV s.core.reg.rotb o.d) x) s
     let gives := fun (w : Nat) (i : Instr) (f : BitVec w → BitVec w → BitVec w) => slotLanes i o.g .va 2 o.d w (2048 / w)
       (fun k => f (laneAt w a k) (laneAt w b k)) s
     let shifts := fun (w : Nat) (shl shr sra : Instr) => gives w shl (fun x y => x <<< y.toNat) ∧
       gives w shr (fun x y => x >>> y.toNat) ∧ gives w sra (fun x y => x.sshiftRight y.toNat)
     whole (.vand o) (a &&& b) ∧ whole (.vor o) (a ||| b) ∧ whole (.vxor o) (a ^^^ b) ∧
     whole (.vsel o) ((m &&& a) ||| (~~~m &&& b)) ∧
     shifts 8 (.vshl8 o) (.vshr8 o) (.vsra8 o) ∧ shifts 16 (.vshl16 o) (.vshr16 o) (.vsra16 o) ∧
     shifts 32 (.vshl32 o) (.vshr32 o) (.vsra32 o) ∧ shifts 64 (.vshl64 o) (.vshr64 o) (.vsra64 o))

/-- Lane movement, reductions and carry-less products complete (rules R278 to R281) on their latencies: a shuffle takes the
lane that the low bits of b's lane name; a splat repeats the low bits of a scalar; VEXT.D takes one 64-bit lane; a
reduction sums the lanes whose mask lane is not 0, wrapping, or as a tree of 7 levels with −0 for the others; VCLMUL pairs
two carry-less products. Nothing else changes. -/
def Obligations.LaneMovementCompletes : Prop :=
  ∀ (s : State) (o : R3Ops) (q : R3xOps) (u : DaOps) (e : RisOps),
    let a := s.core.rv o.a
    let b := s.core.rv o.b
    let shuffles := fun (w : Nat) (i : Instr) => slotLanes i o.g .va 3 o.d w (2048 / w)
      (fun k => laneAt w a ((laneAt w b k).toNat % (2048 / w))) s
    let splats := fun (w : Nat) (i : Instr) => slotLanes i u.g .va 2 u.d w (2048 / w)
      (fun _ => (s.core.rs u.a).setWidth w) s
    let sums := fun (w : Nat) (i : Instr) => slotLanes i o.g .va 6 o.d w (2048 / w)
      (fun _ => ((List.range (2048 / w)).map (fun k => if laneAt w b k = 0 then 0 else laneAt w a k)).foldl (· + ·) 0) s
    let trees := fun (w : Nat) (f : Fmt) (i : Instr) => slotFloats i q.g .va 6 q.d w (2048 / w) f
      (fun _ => treeSum f (.ofCode q.x) 7 ((List.range (2048 / w)).map (fun k =>
        if laneAt w (s.core.rv q.b) k = 0 then f.signCode true 0 else (laneAt w (s.core.rv q.a) k).toNat))) s
    let product := fun (x y : BitVec 64) => (List.range 64).foldl
      (fun z k => if y.getLsbD k then z ^^^ (x.setWidth 128 <<< k) else z) (0 : BitVec 128)
    shuffles 8 (.vshufB o) ∧ shuffles 16 (.vshufH o) ∧ shuffles 32 (.vshufW o) ∧
    splats 16 (.vsplatH u) ∧ splats 32 (.vsplatW u) ∧ splats 64 (.vsplatD u) ∧
    slotGives (.vextD e) e.g .va 2 (.sreg (physS s.core.reg.rotb e.d) (laneAt 64 (s.core.rv e.a) e.imm.toNat)) s ∧
    trees 32 .f32 (.vredF32 q) ∧ trees 16 .f16 (.vredF16 q) ∧ trees 16 .bf16 (.vredBf16 q) ∧
    sums 8 (.viredI8 o) ∧ sums 16 (.viredI16 o) ∧ sums 32 (.viredI32 o) ∧ sums 64 (.viredI64 o) ∧
    slotLanes (.vclmul o) o.g .va 3 o.d 128 16 (fun j =>
      product (laneAt 64 a (2 * j)) (laneAt 64 b (2 * j)) ^^^ product (laneAt 64 a (2 * j + 1)) (laneAt 64 b (2 * j + 1))) s

/-! ### VM: products, conversions, special functions -/

/-- Products and fused multiply-adds complete in every lane five core cycles after issue (rule R282), rounded once in the
mode that x names; VFMS is d − a × b. -/
def Obligations.ProductLanesComplete : Prop :=
  ∀ (s : State) (o : R3xOps),
    let m := Mode.ofCode o.x
    let gives := fun (w : Nat) (f : Fmt) (i : Instr) (g : Exact → Exact → Exact → Exact) =>
      slotFloats i o.g .vm 5 o.d w (2048 / w) f (fun k =>
        roundTo (g (decodeCode f (laneAt w (s.core.rv o.a) k).toNat)
          (decodeCode f (laneAt w (s.core.rv o.b) k).toNat)
          (decodeCode f (laneAt w (s.core.rv o.d) k).toNat)) f m 0) s
    let mul := fun (x y _ : Exact) => x.mul y
    let fma := fun (x y z : Exact) => .sum (m = .rdn) [x.mul y, z]
    let fms := fun (x y z : Exact) => .sum (m = .rdn) [z, (x.mul y).negate]
    gives 32 .f32 (.vmulF32 o) mul ∧ gives 32 .f32 (.vfmaF32 o) fma ∧ gives 32 .f32 (.vfmsF32 o) fms ∧
    gives 16 .f16 (.vmulF16 o) mul ∧ gives 16 .f16 (.vfmaF16 o) fma ∧ gives 16 .f16 (.vfmsF16 o) fms ∧
    gives 16 .bf16 (.vmulBf16 o) mul ∧ gives 16 .bf16 (.vfmaBf16 o) fma ∧ gives 16 .bf16 (.vfmsBf16 o) fms

/-- Conversions complete four core cycles after issue (rules R283 to R285): 64 elements, each rounded once in the mode of its
field, or stochastically by the random word of its lane of b; a narrow format comes from the format register named, and its
elements stand in 4-bit or 8-bit lanes. The special functions complete in every lane eight core cycles after issue (rules R199,
R286), and VRAND four core cycles after issue with one random word of the seed and consecutive counters in each lane (rule
R287). (How the special functions round is the model's reading, log entry 20.) -/
def Obligations.ConversionsComplete : Prop :=
  (∀ (s : State) (o : CvOps) (c : CvfOps) (r : R3Ops) (n : CsOps),
     let m := Mode.ofCode (o.m.setWidth 2)
     let mc := Mode.ofCode (c.m.setWidth 2)
     let a32 := fun (x : BitVec 6) (k : Nat) => ofF32 (laneAt 32 (s.core.rv x) k).toNat
     let outs := fun (i : Instr) (w : Nat) (f : Fmt) (g : Nat → Exact) (md : Mode) =>
       slotFloats i o.g .vm 4 o.d w 64 f (fun k => roundTo (g k) f md 0) s
     let ints := fun (i : Instr) (f : Fmt) (g : Nat → Exact) =>
       slotLanes i o.g .vm 4 o.d 32 64 (fun k => BitVec.ofNat 32 (roundTo (g k) f m 0)) s
     let fc := s.core.rf c.f
     let fn := s.core.rf (n.f.setWidth 4)
     outs (.vcvtF16F32 o) 16 .f16 (a32 o.a) m ∧ outs (.vcvtBf16F32 o) 16 .bf16 (a32 o.a) m ∧
     outs (.vcvtF32F16 o) 32 .f32 (fun k => decodeCode .f16 (laneAt 16 (s.core.rv o.a) k).toNat) .rne ∧
     outs (.vcvtF32Bf16 o) 32 .f32 (fun k => decodeCode .bf16 (laneAt 16 (s.core.rv o.a) k).toNat) .rne ∧
     ints (.vcvtI32F32 o) (.int 32) (a32 o.a) ∧ ints (.vcvtN32F32 o) (.nat 32) (a32 o.a) ∧
     ints (.vcvtF32I32 o) .f32 (fun k => .ofInt (laneAt 32 (s.core.rv o.a) k).toInt) ∧
     ints (.vcvtF32N32 o) .f32 (fun k => .ofInt (laneAt 32 (s.core.rv o.a) k).toNat) ∧
     slotFloats (.vcvtNfF32 c) c.g .vm 4 c.d (narrowSlot fc) 64 (fmtOf fc)
       (fun k => roundTo (a32 c.a k) (fmtOf fc) mc 0) s ∧
     slotFloats (.vcvtF32Nf c) c.g .vm 4 c.d 32 64 .f32
       (fun k => roundTo (decodeCode (fmtOf fc)
         ((laneAt (narrowSlot fc) (s.core.rv c.a) k).toNat % 2 ^ (fmtOf fc).width)) .f32 mc 0) s ∧
     slotFloats (.vcvtsF16F32 r) r.g .vm 4 r.d 16 64 .f16
       (fun k => roundTo (a32 r.a k) .f16 .sr (laneAt 32 (s.core.rv r.b) k).toNat) s ∧
     slotFloats (.vcvtsBf16F32 r) r.g .vm 4 r.d 16 64 .bf16
       (fun k => roundTo (a32 r.a k) .bf16 .sr (laneAt 32 (s.core.rv r.b) k).toNat) s ∧
     slotFloats (.vcvtsNfF32 n) n.g .vm 4 n.d (narrowSlot fn) 64 (fmtOf fn)
       (fun k => roundTo (a32 n.a k) (fmtOf fn) .sr (laneAt 32 (s.core.rv n.b) k).toNat) s) ∧
  (∀ (s : State) (o : DaOps) (r : R3Ops),
     let gives := fun (w : Nat) (f : Fmt) (i : Instr) (g : Nat → Nat) => slotFloats i o.g .vm 8 o.d w (2048 / w) f
       (fun k => g (laneAt w (s.core.rv o.a) k).toNat) s
     gives 32 .f32 (.vrcpF32 o) (rcpRn .f32) ∧ gives 32 .f32 (.vrsqF32 o) (rsqRn .f32) ∧ gives 32 .f32 (.vexp2F32 o) (exp2Rn .f32) ∧
     gives 32 .f32 (.vlog2F32 o) (log2Rn .f32) ∧
     gives 16 .f16 (.vrcpF16 o) (rcpRn .f16) ∧ gives 16 .f16 (.vrsqF16 o) (rsqRn .f16) ∧ gives 16 .f16 (.vexp2F16 o) (exp2Rn .f16) ∧
     gives 16 .f16 (.vlog2F16 o) (log2Rn .f16) ∧
     gives 16 .bf16 (.vrcpBf16 o) (rcpRn .bf16) ∧ gives 16 .bf16 (.vrsqBf16 o) (rsqRn .bf16) ∧
     gives 16 .bf16 (.vexp2Bf16 o) (exp2Rn .bf16) ∧ gives 16 .bf16 (.vlog2Bf16 o) (log2Rn .bf16) ∧
     slotLanes (.vrand r) r.g .vm 4 r.d 32 64 (fun k =>
       rand32 ((s.core.rs r.a).setWidth 32) ((s.core.rs r.b).setWidth 32 + BitVec.ofNat 32 k)) s)

/-! ### MX: the matrix array -/

/-- Matrix steps, latch loads and scale loads complete by claiming the units of their operands for the next core cycle (rules
R49, R291, R295 to R297): an operand's rows start at the address taken down to a multiple of 32 and lie a pitch apart, 96
bytes when the pitch field of MXCFG is 0 and 32 times the field otherwise. MM.ZERO and MM.CFG complete one core cycle after
issue, and MM.DRAIN claims, ten core cycles after issue, the bytes of its set as it stands on the issue cycle, converted
element by element; with zr = 1 the set becomes +0 for the next core cycle (rules R292, R298 to R300). -/
def Obligations.MatrixInstructionsComplete : Prop :=
  (∀ (s : State) (o : MsOps) (l : MslOps) (b : MbOps) (q : MqOps),
     let cfg := s.core.reg.mxcfg
     let pitch := fun (f : Nat) => if f = 0 then 96 else 32 * f
     let A := fun (a : BitVec 6) =>
       ({ base := bits (s.core.rs a) 21 0 / 32 * 32, pitch := pitch (bits cfg 15 8) } : Operand)
     let B := fun (a : BitVec 6) (hi lo : Nat) =>
       ({ base := bits (s.core.rs a) hi lo / 32 * 32, pitch := pitch (bits cfg 23 16) } : Operand)
     let qa := s.core.reg.getQ (cfg.extractLsb' 0 2)
     let qb := s.core.reg.getQ (cfg.extractLsb' 2 2)
     let y := canon (bits (s.core.rs q.a) 21 0 / 64 * 64)
     slotClaims (.mmStart o) o.g .mx 1 [(lowest (A o.a).units, 4), (lowest (B o.a 53 32).units, 5)]
       (.step o.acc (s.core.rf o.fa) (s.core.rf o.fb) qa qb (A o.a) (some (B o.a 53 32)) 0) s ∧
     slotClaims (.mmStartLt l) l.g .mx 1 [(lowest (A l.a).units, 4)]
       (.step l.acc (s.core.rf l.fa) s.core.reg.latchFmt qa qb (A l.a) none s.core.reg.latch) s ∧
     slotClaims (.mmLdb b) b.g .mx 1 [(lowest (B b.a 21 0).units, 6)] (.ldb (B b.a 21 0) (s.core.rf b.fb)) s ∧
     slotClaims (.mmScl q) q.g .mx 1 [(unitOf y, 7)] (.scl y q.q) s) ∧
  (∀ (s : State) (o : MdOps) (z : MaskOps) (c : R1aOps),
     slotGives (.mmZero z) z.g .mx 1 (.accZero z.mask) s ∧
     slotGives (.mmCfg c) c.g .mx 1 (.sysw 0x080 (s.core.rs c.a)) s ∧
     (s.issuing o.g →
       let f := s.core.rf o.f
       let n := drainBytes f
       let y := canon (bits (s.core.rs o.a) 21 0 / n * n)
       let d := drainData f (Mode.ofCode (o.m.setWidth 2)) (s.core.reg.getA o.acc)
       ∃ (k : Claim) (t : State), k.of s .mx 10 ∧ k.units = [(unitOf y, 8)] ∧ k.act = .drain y (toBytes n d.toNat) ∧
         exec (.mmDrain o) s = .next t.close ∧ t.core.ctl.claims = s.core.ctl.claims ++ [k] ∧
         t.core.reg = s.core.reg ∧ t.core.mem = s.core.mem ∧ t.core.trap = s.core.trap ∧ t.core.sys = s.core.sys ∧
         t.mem = s.mem ∧ t.others = s.others ∧
         (∀ l ∈ t.core.ctl.lands, l ∈ s.core.ctl.lands ∨ l.eff = .mark ∨ l.eff = .accZero (1 <<< o.acc.toNat)) ∧
         ((∃ l ∈ t.core.ctl.lands, l.of s .mx 1 ∧ l.eff = .accZero (1 <<< o.acc.toNat)) ↔
           (o.zr = 1 ∨ ∃ l ∈ s.core.ctl.lands, l.of s .mx 1 ∧ l.eff = .accZero (1 <<< o.acc.toNat)))) ∧
     ∀ (m : Mode) (x : Vec) (f : Word32),
       drainBytes f = (if fmtType f = 3 then 256 else if fmtType f = 1 ∨ fmtType f = 2 then 128 else if fmtPack f then 32 else 64) ∧
       ∀ e, e < 64 → laneAt (drainSlot f) (drainData f m x) e =
         BitVec.ofNat (drainSlot f) (roundTo (ofF32 (laneAt 32 x e).toNat) (fmtOf f) m 0))

/-! ### XC: the exchange plane, releases and engines -/

/-- Exchange instructions complete by claiming their unit for the next core cycle (rules R305 to R307): the address is s_a plus
256 times the immediate, modulo 2^22, taken down to a multiple of 256; a receive takes the word that was switched onto the
ejection port two cycles before, with the poison of each of its 16 groups, 256 clean bytes of zeros when there was none, and
counts an empty one in XSTAT. -/
def Obligations.ExchangeClaimsComplete : Prop :=
  ∀ (s : State) (o : XaOps),
    let y := canon ((s.core.rs o.a + o.imm.signExtend 64 * 256).toNat % 2 ^ 22 / 256 * 256)
    let word := (s.core.mem.ejected.find? (fun e => e.1 == s.cycle - 2)).map (·.2)
    let tile := s.tileAt (tileOf s.core.idx)
    let takes := fun (i : Instr) (u : Nat) (a : Action) => s.issuing o.g →
      ∃ k : Claim, k.of s .xc 1 ∧ k.units = [(unitOf y, u)] ∧ k.act = a ∧
        (word.isSome → exec i s = .next (s.claiming k).close) ∧
        (word = none → exec i s = .next ((s.claiming k).putTile
          { tile with xstat := setBits tile.xstat 39 32 (min 0xFF (bits tile.xstat 39 32 + 1)) }).close)
    slotClaims (.xsend o) o.g .xc 1 [(unitOf y, 9)] (.xsend y) s ∧
    takes (.xrecv o) 10 (.xrecv y (word.getD (0, 0)).1 (word.getD (0, 0)).2) ∧
    takes (.xraddF32 o) 11 (.xradd y .f32 word) ∧ takes (.xraddF16 o) 11 (.xradd y .f16 word) ∧
    takes (.xraddBf16 o) 11 (.xradd y .bf16 word) ∧ takes (.xraddI32 o) 11 (.xradd y .i32 word)

/-- PHASE.END completes (rules R167, R309): the core waits at its barrier, unless HALT of the same bundle has halted it (rule R253),
its arrival on this cycle is recorded, and registers, local storage, what is in flight and off-wafer memory are unchanged. -/
def Obligations.PhaseEndCompletes : Prop :=
  ∀ (s : State) (o : R1aOps), s.issuing o.g →
    ∃ t : State, exec (.phaseEnd o) s = .next t.close ∧ t.core.ctl = { s.core.ctl with
        mode := if s.core.ctl.mode = .halted then .halted else .barrier } ∧
      t.core.aux.arrived = some ((s.core.sys.phnum.extractLsb' 0 32).toNat, s.cycle) ∧
      t.core.reg = s.core.reg ∧ t.core.mem = s.core.mem ∧ t.core.trap = s.core.trap ∧ t.core.sys = s.core.sys ∧
      t.mem = s.mem ∧ t.others = s.others ∧ t.cards = s.cards ∧ t.links = s.links ∧
      (∀ p x, s.ctxOf s.core.idx = some (p, x) → p < 16 →
        (t.part p).ctx = some { x with lastArrival := max x.lastArrival s.cycle }) ∧
      (s.core.sys.trctl.getLsbD 1 = true → s.core.aux.traceQ.length < 8 →
        t.core.aux.traceQ.length = s.core.aux.traceQ.length + 1)

/-- The loom-count instructions complete (rules R310 to R312): GCLK.RD leaves the count of the core's reticle in flight for
the next core cycle; GCLK.WAIT holds from the next cycle for the count still missing, less one, rounded up to even, and not
at all when the target has passed; GCLK.ALN asks every reticle of the partition, and no other, for a round. -/
def Obligations.LoomInstructionsComplete : Prop :=
  ∀ (s : State) (d : R1dOps) (o : R1aOps) (z : ZOps),
    slotGives (.gclkRd d) d.g .xc 1 (.sreg (physS s.core.reg.rotb d.d) (s.loomOf (reticleOf s.core.idx))) s ∧
    (s.issuing o.g →
      let t := (s.core.rs o.a).toNat
      let c := (s.loomOf (reticleOf s.core.idx)).toNat
      (t ≤ c + 1 → exec (.gclkWait o) s = .next s.close) ∧
      (c + 1 < t → 
        let h : Hold := { kind := .gclk t, since := s.cycle + 1, till := s.cycle + 1 + (t - c - 1 + (t - c - 1) % 2), late := false }
        exec (.gclkWait o) s = .next (s.act (fun k => { k with ctl := { k.ctl with hold := some h } })).close)) ∧
    (s.issuing z.g → ∃ t : State, exec (.gclkAln z) s = .next t.close ∧ t.core = s.core ∧ t.mem = s.mem ∧
      ∀ r, r < 48 →
        let asked := match s.partOf s.core.idx with
          | none => false
          | some p => (s.partRegions p).any (fun g => (regionReticles g).contains r)
        t.ret r = { s.ret r with aln := (s.ret r).aln || asked })

/-- A card release completes (rules R109, R116, R122, R313 to R315): when nothing stands in the way of a bundle of CARD.ADV
or CARD.ISSUE alone and the release is made without a hold, the cards join those in flight, each under the core and the
cycle, its token is pending, and the bundle's issue ends. A look-up that takes time holds the bundle, for an even number of cycles,
before anything of the release has happened (rules R34, R35): only a write that was still on its way can reach its home meanwhile. As
part of a bundle, the slot itself has nothing left to do. -/
def Obligations.CardReleasesComplete : Prop :=
  ∀ (s w : State) (z : ZOps) (o : R2Ops),
    let v := s.landNow
    let adv := planRelease v none
    let one := planRelease v (some (v.issueArgs o.a o.b))
    let clear := fun (i : Instr) => s.arg.bundle = false ∧ s.boundaryCause v true = none ∧ v.core.inX = false ∧
      v.core.ctl.passed = false ∧ v.preciseCause 0 [slotWordOf i] = none
    let held := fun (i : Instr) (p : ReleasePlan) (n : Nat) => ∃ (t : State) (h : Hold), exec i s = .next t ∧
      t.core.ctl.hold = some h ∧ h.kind = .release { p with odd := n % 2 == 1 } ∧ h.since = s.cycle ∧ h.till = s.cycle + (n + 1) / 2 * 2 ∧
      t.cards = s.cards ∧ t.core.reg = s.core.reg ∧ t.core.mem = s.core.mem ∧ t.core.ctl.pc = s.core.ctl.pc ∧
      (s.late = [] → t.mem = s.mem) ∧ ∀ a, (∀ x ∈ s.late, ∀ b ∈ x.bytes, b.1 ≠ a) → t.mem.read a = s.mem.read a
    let made := ∃ xs : List Card, w.cards = v.cards ++ xs ∧
      ∀ c ∈ xs, c.core = s.core.idx ∧ c.released = s.cycle ∧ w.core.reg.getTok c.pt = .pending
    (s.issuing z.g → exec (.cardAdv z) s = .next s.close) ∧
    (s.issuing o.g → exec (.cardIssue o) s = .next s.close) ∧
    (v.core.rp z.g = true → clear (.cardAdv z) →
      let n := holdLength adv.2.s .none adv.2.cost
      (n = 0 → settlePlan adv.2.s adv.1 = .released w → exec (.cardAdv z) s = .next w.finish ∧ made) ∧
      (0 < n → held (.cardAdv z) adv.1 n)) ∧
    (v.core.rp o.g = true → clear (.cardIssue o) →
      let n := holdLength one.2.s .none one.2.cost
      (n = 0 → settlePlan one.2.s one.1 = .released w → exec (.cardIssue o) s = .next w.finish ∧ made) ∧
      (0 < n → held (.cardIssue o) one.1 n))

/-- The record cache forgets (rules R112, R316): RECFL removes the entry of the context's tag and the handle from the core's
own engine, and no other entry; RECFL.PART holds the core for PINFO.BLAT, rounded up to even, and removes no other entry
from any engine. -/
def Obligations.RecordFlushesComplete : Prop :=
  ∀ (s : State) (o : R1aOps), s.issuing o.g →
    let h := bits (s.core.rs o.a) 15 0
    let b := blockOf s.core.idx
    let blat := bits s.core.sys.pinfo 39 32
    let kept := (s.blockAt b).recs.filter (fun e => !(e.tag == s.tag && e.handle == h))
    let k : Hold := { kind := .recfl h, since := s.cycle + 1, till := s.cycle + 1 + (blat + blat % 2), late := false }
    (exec (.recfl o) s = .next (s.putBlock { s.blockAt b with recs := kept }).close) ∧
    (∃ t : State, exec (.recflPart o) s = .next t.close ∧
      t.core = { s.core with ctl := { s.core.ctl with hold := some k } } ∧
      t.blocks.map (·.idx) = s.blocks.map (·.idx) ∧ t.mem = s.mem ∧
      ∀ x ∈ t.blocks, ∃ y ∈ s.blocks, y.idx = x.idx ∧
        (∀ e ∈ x.recs, e ∈ y.recs) ∧ (∀ e ∈ y.recs, e ∉ x.recs → e.tag = s.tag ∧ e.handle = h))

/-- Tokens, semaphores and the error fence complete (rules R124, R133, R317 to R319): TOK.CLR takes its effect on the next core
cycle, SEM.WAIT subtracts on its issue cycle, and FENCE.ERR has nothing left to do once it issues. What holds or turns away an
XC instruction before it issues (rules R35, R127, R133, R318, R319, R322): SEM.WAIT issues once the count is at least n and
holds otherwise; FENCE.ERR holds while a card or link instruction of an earlier cycle has not ended, is refused with cause
0x0B when CARDERR.V is 1, and issues otherwise; a ninth link instruction holds, of every form, and so does a receive, with addition or
without, at a port that holds 256 posted receives. -/
def Obligations.TokensAndSemaphoresComplete : Prop :=
  (∀ (s : State) (k : MaskOps) (w : SwOps) (z : ZOps),
     slotGives (.tokClr k) k.g .xc 1 (.tokClr k.mask) s ∧
     (s.issuing w.g → exec (.semWait w) s =
       .next (s.act (fun c => { c with reg := c.reg.setSem w.m (c.reg.getSem w.m - w.n) })).close) ∧
     (s.issuing z.g → exec (.fenceErr z) s = .next s.close)) ∧
  (∀ (s : State) (w : SwOps) (z : ZOps) (o : LkOps), s.core.ctl.passed = false →
     (w.n.toNat ≤ (s.core.reg.getSem w.m).toNat → s.ready (.semWait w) = .go s) ∧
     ((s.core.reg.getSem w.m).toNat < w.n.toNat → s.ready (.semWait w) = .hold .sem 2 s) ∧
     ((∃ c ∈ s.cards, c.core = s.core.idx ∧ c.released < s.cycle) → s.ready (.fenceErr z) = .hold .fenceErr 2 s) ∧
     ((∀ c ∈ s.cards, c.core = s.core.idx → s.cycle ≤ c.released) → (∀ l ∈ s.links, l.core = s.core.idx → s.cycle ≤ l.issued) →
       (s.core.sys.carderr.getLsbD 63 = true → ∃ r, s.ready (.fenceErr z) = .refuse r s ∧ r.cause.code = 0x0B) ∧
       (s.core.sys.carderr.getLsbD 63 = false → ∃ t, s.ready (.fenceErr z) = .go t ∧ t.core.reg = s.core.reg)) ∧
     let receives : List (Nat × Instr) := [(1, .lnkRecv o), (4, .lnkRaddF32 o), (2, .lnkRaddBf16 o), (2, .lnkRaddF16 o), (4, .lnkRaddI32 o)]
     (8 ≤ (s.links.filter (fun l => l.core == s.core.idx)).length →
       (s.linkFault 1 o = none → s.ready (.lnkSend o) = .hold .link 2 s) ∧
       ∀ x ∈ receives, s.linkFault x.1 o = none → s.ready x.2 = .hold .link 2 s) ∧
     (256 ≤ (s.links.filter (fun l => l.port == bits (s.core.rs o.a) 37 32 && l.paired.isNone && l.op != .send)).length →
       ∀ x ∈ receives, s.linkFault x.1 o = none → s.ready x.2 = .hold .link 2 s))

/-- TRIG completes by posting the core's trigger on its issue cycle, naming the cards that the core released on earlier
cycles and that are still in flight, and those of which a write is still to be performed (rules R153, R320; which cards a trigger waits for is log entry 40, and that a write
can still be on its way when its card has ended is log entry 83); it holds nothing up, and once a trigger has been posted in the launch a
TRIG changes nothing at all. -/
def Obligations.TrigCompletes : Prop :=
  ∀ (s : State) (z : ZOps),
    s.ready (.trig z) = .go s ∧
    (s.issuing z.g → s.core.aux.trigger.isSome → exec (.trig z) s = .next s.close) ∧
    (s.issuing z.g → s.core.aux.trigger = none → ∃ ids : List Nat,
      (∀ i, i ∈ ids ↔ (∃ c ∈ s.cards, c.id = i ∧ c.core = s.core.idx ∧ c.released < s.cycle) ∨
        ∃ w ∈ s.late, w.core = s.core.idx ∧ w.card = i) ∧
      exec (.trig z) s = .next (s.act (fun c => { c with aux := { c.aux with trigger := some ids } })).close)

/-- Link instructions complete by joining those that wait for their pair (rules R321 to R323): port, tag, local address and
length come from the two operands, the semaphore from the m field; nothing else changes. -/
def Obligations.LinkInstructionsComplete : Prop :=
  ∀ (s : State) (o : LkOps), s.issuing o.g →
    let a := s.core.rs o.a
    let b := s.core.rs o.b
    let starts := fun (i : Instr) (op : LinkOp) => ∃ l : LinkXfer, l.op = op ∧ l.core = s.core.idx ∧
      l.port = (a.extractLsb' 32 6).toNat ∧ l.tag = (b.extractLsb' 32 16).toNat ∧ l.addr = (a.extractLsb' 0 22).toNat ∧
      l.len = (b.extractLsb' 0 22).toNat ∧ l.sem = o.m ∧ l.paired = none ∧ l.moved = 0 ∧ l.endAt = none ∧
      l.issued = s.cycle ∧ exec i s = .next ({ s with links := s.links ++ [l], nextId := s.nextId + 1 } : State).close
    starts (.lnkSend o) .send ∧ starts (.lnkRecv o) .recv ∧ starts (.lnkRaddF32 o) (.radd .f32) ∧
    starts (.lnkRaddBf16 o) (.radd .bf16) ∧ starts (.lnkRaddF16 o) (.radd .f16) ∧ starts (.lnkRaddI32 o) (.radd .i32)

/-! ### LP: hardware loops -/

/-- Loop control completes one core cycle after issue (rules R248, R249, R252): LOOP.SET leaves a level with the bundle
after its own as START, the len-th bundle of the body as END and the count clamped to 32 bits; a count of 0 skips the body
instead; LOOP.PAIR naming s0 turns the pair off; PRED.REGION skips its bundles when its predicate reads false. -/
def Obligations.LoopsComplete : Prop :=
  ∀ (s : State) (o : LsOps) (q : LqOps) (e : MaskOps) (z : ZOps) (r : PrOps),
    let n := (s.core.rs o.a).toNat
    let level := fun (rot : Bool) => ({
      act := decide (n ≠ 0), rot := rot, len := o.len, start := s.core.seq 1 s.core.ctl.pc,
      cnt := BitVec.ofNat 32 (min n (2 ^ 32 - 1)), stop := s.core.seq o.len.toNat s.core.ctl.pc } : Loop)
    let skipping := fun (u : State) (k : Nat) => u.act (fun c => { c with ctl := { c.ctl with skip := some k } })
    let sets := fun (i : Instr) (rot : Bool) => s.issuing o.g → ∃ l : Landing, l.of s .lp 1 ∧
      l.eff = .loopSet o.l (level rot) ∧
      (n ≠ 0 → exec i s = .next (s.landing l).close) ∧
      (n = 0 → exec i s = .next (skipping (s.landing l) o.len.toNat).close)
    sets (.loopSet o) false ∧ sets (.loopSetRot o) true ∧
    slotGives (.loopPair q) q.g .lp 1 (.loopPair (4 * q.l.toNat + q.j.toNat)
      { v := q.s != 0, reg := q.s, stride := (s.core.rs q.b).extractLsb' 0 32 }) s ∧
    slotGives (.loopEc e) e.g .lp 1 (.loopEc e.mask) s ∧
    slotGives (.rotClr z) z.g .lp 1 .rotClr s ∧
    (s.issuing r.g → s.core.rp r.p = true → exec (.predRegion r) s = .next s.close) ∧
    (s.issuing r.g → s.core.rp r.p = false → exec (.predRegion r) s = .next (skipping s r.n.toNat).close)

/-! ### All slots -/

/-- A slot whose guard reads false has no effect (rule R212): no instruction of any slot then changes the state, but for the end
of the bundle's issue when it is the last. A slot instruction alone is a bundle of one slot (rules R209, R354; the model's form,
log entry 8): what stands in its way happens instead of it; otherwise the due results land, it has the effect that it has as a
slot of an issuing bundle when its guard reads true, and the bundle's issue ends. A bundle whose every slot is suppressed passes
on without a back-edge (rule R246). -/
def Obligations.SlotsInBundles : Prop :=
  (∀ (i : Instr) (s : State), i.isSlot = true → s.arg.bundle = true → s.core.rp (i.word.extractLsb' 28 4) = false →
     exec i s = .next s.close) ∧
  (∀ (i : Instr) (s : State), i.isSlot = true → s.arg.bundle = false →
     (∀ t, s.vet 0 [slotWordOf i] = .stop t → exec i s = .next t) ∧
     (∀ v, s.vet 0 [slotWordOf i] = .go v [] → exec i s = .next (v.act (fun c => c.advance true v.arg.idle))) ∧
     (∀ v x xs, s.vet 0 [slotWordOf i] = .go v (x :: xs) → v.core.rp (i.word.extractLsb' 28 4) = false →
       exec i s = .next v.finish) ∧
     (∀ v x xs, s.vet 0 [slotWordOf i] = .go v (x :: xs) → v.core.rp (i.word.extractLsb' 28 4) = true →
       ∃ t : State, exec i v.asSlot = .next t ∧ exec i s = .next { t with arg := v.arg }.finish))

/-! ### Cores: what lands, what is claimed -/

/-- RESULT_LANDING completes (rules R203 to R206, R216, R220, R221, R246, R248 to R251, R258, R294, R299, R317): on a core cycle that has
begun, with no trap to take first, every result that is due is in flight no longer, however many there are and of whatever kind; local
storage, other cores and off-wafer memory are unchanged. They land in one order, a back-edge before every other result, then by issue
cycle, then by slot, so that where several name one register the last counts, and the back-edge's values stand where none names it;
register 0 of the scalars and of the predicates discards a write. A result alone changes what it names and nothing else (that a step's
sums also take the errors that the hardware has made in them is the model's choice, log entry 93). A bundle that has issued unsuppressed at
the END of active levels puts their back-edges in flight for the next core cycle, as one result, and no bundle else does: level by level upward,
until one jumps, each pair that is on adds its stride to its register as ROTB maps it; the count falls by 1, or, where it is at most 1, a
rotating level takes 1 from EC while EC is above 0, and else the level ends; and a rotating level rotates, and writes logical p8. The
core goes on at START when a level jumps, unless a redirect falls due. -/
def Obligations.ResultLandingCompletes : Prop :=
  (∀ (c : Core) (len : Nat),
     let a := c.ctl.pc
     let stride := fun (g : Regs) (i : Nat) =>
       let r := physS g.rotb (g.getPair i).reg
       if (g.getPair i).v then g.setS r (g.getS r + (g.getPair i).stride.signExtend 64) else g
     let turn := fun (g0 : Regs) (l : Nat) =>
       let g := (List.range 4).foldl (fun g j => stride g (4 * l + j)) g0
       let x := g.getLoop l
       let b := g.rotb
       let more := decide (1 < x.cnt.toNat)
       let drains := !more && x.rot && decide (0 < b.ec.toNat)
       let y := if more then { x with cnt := x.cnt - 1 } else if drains then x else { x with cnt := 0, act := false }
       let h := g.setLoop l y
       let r : Rotb := { srb := b.srb - 1, vrb := b.vrb - 1, prb := b.prb - 1, ec := if drains then b.ec - 1 else b.ec }
       (if x.rot then ({ h with rotb := r }).setP (physP r 8) more else h, if more || drains then some x.start else none)
     let levels := (List.range 6).filter (fun l => (c.reg.getLoop l).act && (c.reg.getLoop l).stop == a)
     let out := levels.foldl (fun (o : Regs × Option CodeAddr) l => if o.2.isSome then o else turn o.1 l) (c.reg, none)
     let t := c.advance false len
     (levels = [] → t.ctl.lands = c.ctl.lands) ∧
     (levels ≠ [] → ∃ e : Landing, t.ctl.lands = c.ctl.lands ++ [e] ∧ e.due = c.ctl.cc + 1 ∧ e.issued = c.ctl.cc ∧ e.cba = a ∧
       Core.isBack e.eff = true ∧ (c.applyEffect e.eff).reg = out.1) ∧
     (∀ x, out.2 = some x → (∀ r ∈ c.ctl.redirects, 1 < r.left) → t.ctl.pc = x) ∧
     (out.2 = none → (∀ r ∈ c.ctl.redirects, 1 < r.left) → c.ctl.skip = none → t.ctl.pc = c.past a) ∧
     (∀ r ∈ c.ctl.redirects, c.ctl.redirects = [r] → r.left = 1 → t.ctl.pc = r.target) ∧
     (c.advance true len).ctl.lands = c.ctl.lands) ∧
  ∀ (s : State),
    let v := s.ownCore
    let c := v.core
    let due := c.ctl.lands.filter (fun x => x.due == c.ctl.cc)
    let order := Core.landingOrder due
    c.ctl.active = true → v.boundaryCause v.landNow false = none →
    ∃ t : State, exec .resultLanding s = .next t ∧
      t.core.ctl = { c.ctl with lands := c.ctl.lands.filter (fun x => x.due != c.ctl.cc) } ∧ t.core.mem = c.mem ∧
      t.core.aux = c.aux ∧ t.others = v.others ∧ t.mem = v.mem ∧ t.cards = v.cards ∧
      (c.aux.sumHits = [] → t.module = v.module ∧ t.parts = v.parts) ∧
      order.Perm due ∧
      order.Pairwise (fun a b => (Core.isBack b.eff = true → Core.isBack a.eff = true) ∧
        (Core.isBack a.eff = Core.isBack b.eff → a.issued < b.issued ∨ (a.issued = b.issued ∧ a.slot ≤ b.slot))) ∧
      (let back := ((order.filter (fun l => Core.isBack l.eff)).foldl (fun c l => c.applyEffect l.eff) c).reg;
        (∀ r, t.core.reg.getS r = if r = 0 then 0 else ((order.filterMap (fun l =>
          match l.eff with | .sreg q x => if q = r then some x else none | _ => none)).getLast?).getD (back.getS r)) ∧
        (∀ r, t.core.reg.getV r = ((order.filterMap (fun l =>
          match l.eff with | .vreg q x => if q = r then some x else none | _ => none)).getLast?).getD (c.reg.getV r)) ∧
        (∀ r, t.core.reg.getP r = (r == 0 || ((order.filterMap (fun l =>
          match l.eff with | .preg q x => if q = r then some x else none | _ => none)).getLast?).getD (back.getP r)))) ∧
      ∀ l : Landing, due = [l] →
        (∀ r x, l.eff = .sreg r x → l.nan = none → t.core.trap = c.trap ∧ t.core.reg = { c.reg with s := t.core.reg.s }) ∧
        (∀ r x, l.eff = .vreg r x → l.nan = none → t.core.trap = c.trap ∧ t.core.reg = { c.reg with v := t.core.reg.v }) ∧
        (∀ r x, l.eff = .preg r x → l.nan = none → t.core.trap = c.trap ∧ t.core.reg = { c.reg with p := t.core.reg.p }) ∧
        (∀ m, l.eff = .accZero m → t.core.reg = { c.reg with a := t.core.reg.a } ∧
          ∀ q : BitVec 3, t.core.reg.getA q = if m.getLsbD q.toNat then 0 else c.reg.getA q) ∧
        (∀ a fa fb qa qb A B, l.eff = .step a fa fb qa qb A B → t.core.reg = { c.reg with a := t.core.reg.a } ∧
          t.core.reg.getA a = matrixStep c.aux.sumHits fa fb qa qb A B (c.reg.getA a) ∧
          ∀ q, q ≠ a → t.core.reg.getA q = c.reg.getA q) ∧
        (∀ rows f, l.eff = .latch rows f → t.core.reg = { c.reg with latch := rows, latchFmt := f }) ∧
        (∀ q x, l.eff = .scale q x → t.core.reg.getQ q = x ∧ t.core.reg = { c.reg with q := t.core.reg.q }) ∧
        (∀ f x, l.eff = .fmt f x → t.core.reg.getF f = x ∧ t.core.reg = { c.reg with f := t.core.reg.f }) ∧
        (∀ m, l.eff = .tokClr m → t.core.reg = { c.reg with tok := t.core.reg.tok } ∧
          ∀ k, k < 8 → t.core.reg.getTok k =
            (if m.getLsbD k && c.reg.getTok k != .pending then .idle else c.reg.getTok k)) ∧
        (∀ k x, l.eff = .loopSet k x → k.toNat < 6 → t.core.reg.getLoop k.toNat = x ∧
          ∀ j, j ≠ k.toNat → t.core.reg.getLoop j = c.reg.getLoop j) ∧
        (∀ i x, l.eff = .loopPair i x → i < 24 → t.core.reg.getPair i = x ∧
          ∀ j, j ≠ i → t.core.reg.getPair j = c.reg.getPair j) ∧
        (∀ e, l.eff = .loopEc e → t.core.reg = { c.reg with rotb := { c.reg.rotb with ec := e } }) ∧
        (l.eff = .rotClr → t.core.reg = { c.reg with rotb := { c.reg.rotb with srb := 0, vrb := 0, prb := 0 } }) ∧
        (∀ rs ls b p, l.eff = .backEdge rs ls b p →
          t.core.reg = { c.reg with s := t.core.reg.s, p := t.core.reg.p, loops := t.core.reg.loops, rotb := b } ∧
          (∀ r, t.core.reg.getS r = if r = 0 then 0 else
            ((rs.filterMap (fun w => if w.2.1 = r then some w.2.2 else none)).getLast?).getD (c.reg.getS r)) ∧
          (∀ j, j < 6 → t.core.reg.getLoop j =
            ((ls.filterMap (fun w => if w.1 = j then some w.2 else none)).getLast?).getD (c.reg.getLoop j)) ∧
          ∀ r, t.core.reg.getP r = (r == 0 ||
            ((p.filterMap (fun w => if w.1 = r then some w.2 else none)).getLast?).getD (c.reg.getP r)))

/-- UNIT_CLAIM completes (rules R49, R50, R55, R56, R66, R67, R220, R267 to R271, R291, R294 to R298, R305 to R307, R371), on a core cycle
that has begun with one claim due. A load gives its bytes, lowest first and sign- or zero-extended, four core cycles after its issue, or
five from G8; a vector load, a broadcast and a gather give theirs in the same time, an inactive lane of a gather 0; a matrix step
takes the eight rows of 96 bytes of each operand, or the latched ones, and lands after twelve, the latch after two and the scales
after six; XSEND takes its 256 bytes for the exchange plane, with the poisoned ones of their 16 groups; and every byte reads as
before. A store, a drain, a scatter, XRECV and XRADD write their bytes, and every other byte reads as before: a word written whole is
sound, or poisoned where what it takes is, and another keeps its mark. A read of a word beyond correction delivers what stands there,
counts it in MEMERR, enters CARDERR with OP 6 and KIND 8 and makes a loss of cause 0x01 pending; one of a correctable word queues its
write-back. Of two claims that meet on a unit (in exchange phase) the one of higher rank is served, or else the earlier recorded: the
other's read gives zeros, its write is dropped and its XSEND injects zeros; BCINFO names both, and a loss of cause 0x05 is pending. Registers
do not change. -/
def Obligations.UnitClaimCompletes : Prop :=
  (∀ (s : State) (k : Claim),
     let v := s.ownCore
     let c := v.core
     let byte := c.mem.loc.read
     let lat := fun (y : Nat) => if unitOf y < 8 then 4 else 5
     let row := fun (o : Operand) (r : Rows) => ∀ i j, i < 8 → j < 96 → r.extractLsb' (8 * (96 * i + j)) 8 = byte (o.addr i j)
     let holds := fun (x : Vec) (y n : Nat) => ∀ i, i < n → x.extractLsb' (8 * i) 8 = byte (y + i)
     let poisoned := fun (t : State) (w : Nat) => t.core.mem.bad.contains w
     let outside := fun (t : State) (bs : List (Nat × Byte)) => ∀ x,
       t.core.mem.loc.read x = (((bs.filter (fun b => b.1 == x)).getLast?).map (·.2)).getD (byte x)
     c.ctl.active = true → c.ctl.claims.filter (fun x => x.due == c.ctl.cc) = [k] →
     ∃ t : State, exec .unitClaim s = .next t ∧ t.core.mem.imem = c.mem.imem ∧ t.core.reg = c.reg ∧ t.core.trap = c.trap ∧
       t.core.ctl.claims = c.ctl.claims.filter (fun x => x.due != c.ctl.cc) ∧ t.others = v.others ∧ t.mem = v.mem ∧
       (let still := t.core.mem.loc = c.mem.loc ∧ t.core.mem.bad = c.mem.bad
        let gives := fun (n : Nat) (e : Effect) => still ∧ ∃ l : Landing, t.core.ctl.lands = c.ctl.lands ++ [l] ∧
          l.due = k.issued + n ∧ l.issued = k.issued ∧ l.slot = k.slot ∧ l.eff = e;
        (∀ y n signed d, k.act = .load y n signed d → n ≤ 8 →
          let x := c.mem.loc.readNat y n
          gives (lat y) (.sreg d (if signed && 2 * x ≥ 2 ^ (8 * n) then BitVec.ofNat 64 x - BitVec.ofNat 64 (2 ^ (8 * n))
            else BitVec.ofNat 64 x))) ∧
        (∀ y d, k.act = .vload y d → ∃ x, gives (lat y) (.vreg d x) ∧ holds x y 256) ∧
        (∀ y d, k.act = .bcast y d → ∃ x, gives (lat y) (.vreg d x) ∧
          ∀ i, i < 256 → x.extractLsb' (8 * i) 8 = byte (y + i % 4)) ∧
        (∀ ew ys d, k.act = .gather ew ys d → (ew = 2 ∨ ew = 4) →
          ∃ x, gives (if (ys.filterMap id).any (fun y => decide (8 ≤ unitOf y)) then 5 else 4) (.vreg d x) ∧
            ∀ i j, i < 256 / ew → j < ew → x.extractLsb' (8 * (ew * i + j)) 8 = (match ys.getD i none with | some y => byte (y + j) | none => 0)) ∧
        (∀ acc fa fb qa qb A B latched, k.act = .step acc fa fb qa qb A B latched →
          ∃ ra rb, gives 12 (.step acc fa fb qa qb ra rb) ∧ row A ra ∧ (match B with | none => rb = latched | some B => row B rb)) ∧
        (∀ B f, k.act = .ldb B f → ∃ rb, gives 2 (.latch rb f) ∧ row B rb) ∧
        (∀ y q, k.act = .scl y q → ∃ x : BitVec 512, gives 6 (.scale q x) ∧ ∀ i, i < 64 → x.extractLsb' (8 * i) 8 = byte (y + i)) ∧
        (∀ y, k.act = .xsend y → still ∧ t.core.ctl.lands = c.ctl.lands ∧ ∃ (x : Vec) (m : BitVec 16),
          t.core.mem.inject = some (x, m) ∧ holds x y 256 ∧ ∀ i, i < 16 → m.getLsbD i = c.mem.bad.contains (y / 16 + i)) ∧
        (∀ y bs, k.act = .store y bs ∨ k.act = .drain y bs → t.core.ctl.lands = c.ctl.lands ∧
          (∀ i, i < bs.length → t.core.mem.loc.read (y + i) = bs.getD i 0) ∧
          (∀ x, x < y ∨ y + bs.length ≤ x → t.core.mem.loc.read x = byte x) ∧
          ∀ w, poisoned t w = (c.mem.bad.contains w && !(decide (y ≤ 16 * w) && decide (16 * w + 16 ≤ y + bs.length)))) ∧
        (∀ ls, k.act = .scatter ls → t.core.ctl.lands = c.ctl.lands ∧ outside t (ls.flatMap (fun l => placed l.1 l.2)) ∧
          t.core.mem.bad = c.mem.bad) ∧
        (∀ y w m, k.act = .xrecv y w m → t.core.ctl.lands = c.ctl.lands ∧ outside t (placed y (vecBytes w)) ∧
          (∀ i, i < 256 → t.core.mem.loc.read (y + i) = w.extractLsb' (8 * i) 8) ∧
          (y % 16 = 0 → ∀ i, i < 16 → poisoned t (y / 16 + i) = m.getLsbD i)) ∧
        (∀ y ty, k.act = .xradd y ty none → t.core.ctl.lands = c.ctl.lands ∧ still) ∧
        (∀ y ty w m, k.act = .xradd y ty (some (w, m)) → t.core.ctl.lands = c.ctl.lands ∧
          let n := (match ty with | .f32 => 4 | .i32 => 4 | .f16 => 2 | .bf16 => 2)
          let sum := fun (a b : Nat) => (match ty with
            | .f32 => fAdd .f32 .rne a b | .f16 => fAdd .f16 .rne a b | .bf16 => fAdd .bf16 .rne a b | .i32 => (a + b) % 2 ^ 32)
          (∀ i j, i < 256 / n → j < n → t.core.mem.loc.read (y + n * i + j) =
            (toBytes n (sum (c.mem.loc.readNat (y + n * i) n) (w.extractLsb' (8 * n * i) (8 * n)).toNat)).getD j 0) ∧
          (∀ x, x < y ∨ y + 256 ≤ x → t.core.mem.loc.read x = byte x) ∧
          (y % 16 = 0 → ∀ i, i < 16 → poisoned t (y / 16 + i) =
            (m != 0 || (List.range 16).any (fun j => c.mem.bad.contains (y / 16 + j))))) ∧
        (let rows := fun (o : Operand) => (List.range 8).flatMap (fun i => (List.range 96).map (fun j => o.addr i j / 16))
         let touched := match k.act with
           | .load y n _ _ => Core.wordsOf y n | .vload y _ => Core.wordsOf y 256 | .bcast y _ => Core.wordsOf y 4
           | .gather _ ys _ => (ys.filterMap id).map (· / 16)
           | .step _ _ _ _ _ A B _ => rows A ++ (match B with | some B => rows B | none => [])
           | .ldb B _ => rows B | .scl y _ => Core.wordsOf y 64 | .xsend y => Core.wordsOf y 256 | .xradd y _ (some _) => Core.wordsOf y 256
           | .xradd _ _ none => [] | .store _ _ => [] | .drain _ _ => [] | .scatter _ => [] | .xrecv _ _ _ => [];
         (∀ w ∈ touched, c.mem.bad.contains w = true →
           t.core.sys.memerr.getLsbD 31 = true ∧ bits t.core.sys.memerr 30 28 = 0 ∧ t.core.sys.carderr.getLsbD 63 = true ∧
           (c.sys.carderr.getLsbD 63 = false → bits t.core.sys.carderr 62 60 = 6 ∧ bits t.core.sys.carderr 59 56 = 8) ∧
           ∀ p x, p < 16 → v.ctxOf c.idx = some (p, x) → ∃ y, (t.part p).ctx = some y ∧ ∃ l ∈ y.losses, l.cause = 0x01) ∧
         (∀ w ∈ touched, c.mem.bad.contains w = false → c.mem.soft.contains w = true → (∀ y ty m, k.act ≠ .xradd y ty m) →
           ∃ f ∈ t.core.aux.fixes, f.unit = unitOf (16 * w) ∧ f.word = w)))) ∧
  (∀ (s : State) (k₁ k₂ : Claim) (g u₁ u₂ : Nat),
     let v := s.ownCore
     let c := v.core
     let rank := fun (u : Nat) => if u = 10 ∨ u = 11 then 0 else if u = 9 then 1 else if 4 ≤ u ∧ u ≤ 8 then 2
       else if u = 2 ∨ u = 3 ∨ u = 12 then 3 else 4
     let first := decide (rank u₁ ≤ rank u₂)
     let kept := if first then k₁ else k₂
     let lost := if first then k₂ else k₁
     c.ctl.active = true → c.ctl.claims.filter (fun x => x.due == c.ctl.cc) = [k₁, k₂] → k₁.units = [(g, u₁)] → k₂.units = [(g, u₂)] →
     g < 10 → u₁ < 16 → u₂ < 16 →
     ∃ t : State, exec .unitClaim s = .next t ∧ t.core.reg = c.reg ∧ t.mem = v.mem ∧
       bits t.core.sys.bcinfo 31 28 = 1 ∧ bits t.core.sys.bcinfo 27 24 = g ∧
       bits t.core.sys.bcinfo 23 20 = (if first then u₁ else u₂) ∧ bits t.core.sys.bcinfo 19 16 = (if first then u₂ else u₁) ∧
       bits t.core.sys.bcinfo 15 8 = (c.ctl.cc - lost.issued) % 256 ∧
       (∀ p x, p < 16 → v.ctxOf c.idx = some (p, x) → ∃ y, (t.part p).ctx = some y ∧ ∃ l ∈ y.losses, l.cause = 0x05) ∧
       (∀ y n signed d, lost.act = .load y n signed d → unitOf y = g → ∃ l ∈ t.core.ctl.lands, l.eff = .sreg d 0 ∧
         l.due = lost.issued + (if g < 8 then 4 else 5)) ∧
       (∀ y d, lost.act = .vload y d → unitOf y = g → ∃ l ∈ t.core.ctl.lands, l.eff = .vreg d 0 ∧
         l.due = lost.issued + (if g < 8 then 4 else 5)) ∧
       (∀ y, lost.act = .xsend y → unitOf y = g → (∀ z, kept.act ≠ .xsend z) → t.core.mem.inject = some (0, 0)) ∧
       (∀ y bs z cs, lost.act = .store y bs → unitOf y = g → kept.act = .store z cs →
         (∀ i, i < cs.length → unitOf z = g → t.core.mem.loc.read (z + i) = cs.getD i 0) ∧
         ∀ x, x < z ∨ z + cs.length ≤ x → t.core.mem.loc.read x = c.mem.loc.read x))

/-- Read after write of a memory (rules R9, R46): the bytes written are read back, every other byte reads as before, and the
canonical form stays, so that equal memories are equal data (the model's own form, log entry 4). -/
def Obligations.MemoryReadAfterWrite : Prop :=
  ∀ (m : Memory) (a : Nat) (bs : List Byte), m.wf = true →
    (∀ i, i < bs.length → (m.write a bs).read (a + i) = bs.getD i 0) ∧
    (∀ x, x < a ∨ a + bs.length ≤ x → (m.write a bs).read x = m.read x) ∧
    (m.write a bs).wf = true ∧ (m.write a bs).readN a bs.length = bs ∧
    ∀ m' : Memory, m'.wf = true → (∀ x, m'.read x = m.read x) → m' = m

/-! ### Bundles, fetch, traps -/

/-- BUNDLE_ISSUE and PURE_DELAY complete (rules R53 to R56, R124, R167, R173, R175, R189, R209, R210, R213, R246, R355). The due head
word is a bundle in compute phase that meets no cause and no hold: its slots whose guards read true stand next on the agenda, in SP order
and marked as one bundle. It is a pure delay: the core goes on after it with its remaining empty core cycles. A bundle in compute phase
that meets a cause does not issue, and a trap names it, in this order: a malformed head word; the first slot that is unassigned, badly
encoded, not for its mode or names an illegal format; two slots with one destination; an exchange-only slot, or a PHASE.END that names
another phase; an MX slot outside the core's window; a claim that meets one recorded earlier, or that of an earlier slot, which
BCINFO describes; and a wait mask that names an idle token or a TOK.CLR that names a pending one, the lowest token first. A format is
legal as the table of rule R189 says. In exchange phase nothing traps: the slots at fault are left out (slots with one destination only
where none is at fault by itself), then those of the compute class, each kind with a loss pending, and so has a wait mask that
names a token not yet done; the others issue, and a bundle without any passes on with no back-edge. That a slot left out for its encoding
reports nothing of its phase, and that TRET outside trap mode counts so, is the model's choice (log entry 109). -/
def Obligations.BundleIssueCompletes : Prop :=
  (∀ (s w : State) (h : Head) (xs : List SlotWord),
    let v := s.ownCore
    let a := v.core.ctl.pc
    let u := (v.act (fun c => { c with ctl := { c.ctl with
      pc := a, dueAt := some (c.ctl.dueAt.getD v.cycle), hold := none, active := true } })).fetchFor a
    v.core.locate a = (a, false) → ((u.core.captured a).isNone && (u.core.lineAt (Core.lineOf a)).poison) = false →
    u.core.inX = false →
    (decodeHead (u.core.bundleHead a) (Core.wordOf a) = .bundle h →
      u.vet h.wm (decodeSlots h.slots (u.core.bundleWords a (h.words - 1))) = .go w xs →
      (∃ x ∈ xs, w.core.guard x = true ∧ ∃ i, x.dec = .ok i) →
      ∃ t : State, exec .bundleIssue s = .next t ∧
        ∃ front, t.agenda = front ++ w.agenda ∧
          front.map (·.1) = (xs.filter w.core.guard).filterMap (fun x => match x.dec with | .ok i => some i | .bad _ => none) ∧
          (∀ e ∈ front, e.2.bundle = true ∧ e.2.idle = h.idle.toNat) ∧ (front.getLast?.map (·.2.last)) = some true ∧
          (∀ e ∈ front.dropLast, e.2.last = false) ∧ t.core.reg = w.core.reg ∧ t.core.mem = w.core.mem ∧ t.mem = w.mem) ∧
    (decodeHead (u.core.bundleHead a) (Core.wordOf a) = .delay h → u.vet h.wm [] = .go w xs → w.core.trap.pend = [] →
      (w.core.reg.loops.toList.all (fun l => !l.act)) = true → w.core.ctl.redirects = [] → w.core.ctl.skip = none →
      w.core.ctl.mode = .running →
      exec .pureDelay s = exec .bundleIssue s ∧
      ∃ t : State, exec .pureDelay s = .next t ∧ t.core.ctl.pc = w.core.past a ∧ t.core.ctl.idle = h.idle.toNat - 1 ∧
        t.core.ctl.issued = true ∧ t.core.reg = w.core.reg ∧ t.core.mem = w.core.mem)) ∧
  (∀ (r : Word32), 
     let field := fun (lo n : Nat) => (r.extractLsb' lo n).toNat
     let w := field 6 1 + field 7 3 + field 10 3
     (fmtLegal r = true ↔
       ((field 0 3 = 1 ∨ field 0 3 = 2 ∨ field 0 3 = 3) ∧ field 6 18 = 0 ∧ field 25 2 = 0) ∨
       (field 0 3 = 0 ∧ field 7 3 < 6 ∧ w ≤ 8 ∧ field 25 2 ≠ 3 ∧ (field 23 1 = 1 → w ≤ 4) ∧
         ((field 21 2 = 3 ∧ field 7 3 = 0 ∧ 1 ≤ w) ∨ (field 21 2 = 1 ∧ 2 ≤ field 7 3 ∧ 1 ≤ field 10 3) ∨
           ((field 21 2 = 0 ∨ field 21 2 = 2) ∧ 1 ≤ field 7 3))))) ∧
  ∀ (s : State) (h : Head),
    let v := s.ownCore
    let a := v.core.ctl.pc
    let u := (v.act (fun c => { c with ctl := { c.ctl with
      pc := a, dueAt := some (c.ctl.dueAt.getD v.cycle), hold := none, active := true } })).fetchFor a
    let head := u.core.bundleHead a
    let xs := decodeSlots h.slots (u.core.bundleWords a (h.words - 1))
    let w := u.landNow
    let c := w.core
    let loom := u.loom.toNat
    let op := fun (x : SlotWord) => (opcodeOf x.word).toNat
    let names := fun (i : Instr) => (match i with
      | .vcvtNfF32 o => [o.f] | .vcvtF32Nf o => [o.f] | .vcvtsNfF32 o => [o.f.setWidth 4] | .mmStart o => [o.fa, o.fb]
      | .mmStartLt o => [o.fa] | .mmLdb o => [o.fb] | .mmDrain o => [o.f] | _ => [] : List (BitVec 4))
    let outOfTrap := fun (x : SlotWord) => if c.inTrap
      then x.slot == .mx || (x.slot == .xc && !(op x == 0x11 || op x == 0x22 || op x == 0x30)) else x.slot == .sb && op x == 0x8A
    let broken := fun (x : SlotWord) => match x.dec with
      | .bad .illegalOpcode => some 0x01
      | .bad .illegalEncoding => some 0x02
      | .ok i => if outOfTrap x || !c.formatsOk i then some 0x02 else none
    let sound := (∀ x ∈ xs, broken x = none) ∧ Core.clashing xs = []
    let outside := if u.arr = 1 then c.side ≠ 0 else if u.arr = 2 then c.side ≠ 1 else loom % 2 ≠ c.side
    let misuse := fun (j : Nat) => if h.wm.getLsbD j && c.reg.getTok j == .idle then some (1, 8)
      else if xs.any (fun x => match x.dec with | .ok (.tokClr o) => c.guard x && o.mask.getLsbD j | _ => false) &&
        c.reg.getTok j == .pending then some (4, 6) else none
    let kept := fun (t : State) => t.core.reg.s = u.core.reg.s ∧ t.core.reg.v = u.core.reg.v ∧ t.core.reg.p = u.core.reg.p ∧
      t.core.reg.a = u.core.reg.a ∧ t.core.mem = u.core.mem ∧ t.mem = u.mem ∧ t.cards = u.cards
    let traps := fun (t : State) (code sub slot : Nat) (info : Word) => exec .bundleIssue s = .next t ∧ kept t ∧
      bits t.core.trap.tcause 7 0 = code ∧ bits t.core.trap.tcause 15 8 = slot ∧ bits t.core.trap.tcause 28 16 = sub ∧
      bits t.core.trap.tcause 49 32 = a.toNat ∧ t.core.trap.tinfo = info
    let takes := fun (code sub slot : Nat) (info : Word) => ∃ t : State, traps t code sub slot info
    let conflict := fun (slot g first second off : Nat) (back : Int) => ∃ t : State, traps t 0x05 1 slot 0 ∧
      bits t.core.sys.bcinfo 31 28 = 1 ∧ bits t.core.sys.bcinfo 27 24 = g ∧ bits t.core.sys.bcinfo 23 20 = first ∧
      bits t.core.sys.bcinfo 19 16 = second ∧ bits t.core.sys.bcinfo 15 8 = off ∧
      bits t.core.sys.bcinfo 7 0 = ((max (-128) (min 127 back)).emod 256).toNat
    v.core.locate a = (a, false) → u.core.unsound a = false →
    (∀ i f, f ∈ names i → fmtLegal (c.rf f) = false → c.formatsOk i = false) ∧
    (u.core.inX = false → u.boundaryCause w true = none →
      (decodeHead head (Core.wordOf a) = .malformed → takes 0x02 0 8 (head.setWidth 64)) ∧
      (decodeHead head (Core.wordOf a) = .bundle h → c.ctl.passed = false →
        (∀ pre x post n, xs = pre ++ x :: post → (∀ y ∈ pre, broken y = none) → broken x = some n →
          takes n 0 x.slot.num (x.word.setWidth 64)) ∧
        ((∀ x ∈ xs, broken x = none) → Core.clashing xs ≠ [] → takes 0x02 0 8 0) ∧
        (sound → (∀ x ∈ xs, x.slot = .xc → op x ≤ 0x05 → takes 0x03 1 6 0) ∧
          (∀ x ∈ xs, ∀ o, x.dec = .ok (.phaseEnd o) → c.guard x = true →
            let m := (c.rs o.a).extractLsb' 0 32
            let n := c.sys.phnum.extractLsb' 0 32
            m ≠ n → takes 0x03 2 x.slot.num (n ++ m))) ∧
        (sound → c.phaseCause xs = none → (∃ x ∈ xs, x.slot = .mx ∧ c.guard x = true) → outside →
          takes 0x04 0 5 (BitVec.ofNat 64 (loom % 2))) ∧
        (sound → c.phaseCause xs = none → c.windowCause u.arr loom xs = none →
          (∀ x ∈ xs, ∀ i, x.dec = .ok i → placementOf c i = none) →
          (∀ sl off g m n k, g < 16 → m < 16 → n < 16 → off < 256 → c.newClaims u.cycle xs = [(sl, off, [(g, n)])] →
            c.ctl.claims = [k] → k.due = c.ctl.cc + off → k.units = [(g, m)] →
            conflict sl.num g m n off ((c.ctl.cc : Int) - k.issued)) ∧
          (∀ sl sl' off g m n, g < 16 → m < 16 → n < 16 → off < 256 → c.ctl.claims = [] →
            c.newClaims u.cycle xs = [(sl, off, [(g, m)]), (sl', off, [(g, n)])] → conflict sl'.num g m n off 0)) ∧
        (sound → c.phaseCause xs = none → c.windowCause u.arr loom xs = none → c.bankFault u.cycle xs = none → c.bkptCause = none →
          ∀ j, j < 8 → (∀ i, i < j → misuse i = none) → ∀ k sl, misuse j = some (k, sl) →
            takes 0x07 k sl (BitVec.ofNat 64 j)))) ∧
    (u.core.inX = true → u.core.ctl.redo = 0 → decodeHead head (Core.wordOf a) = .bundle h →
      let broken := fun (x : SlotWord) => match x.dec with | .bad _ => true | .ok _ => outOfTrap x
      let faulty := fun (x : SlotWord) => broken x || (!xs.any broken && (Core.clashing xs).contains x.slot)
      let illegal := fun (x : SlotWord) => !faulty x && (match x.slot with
        | .va => true | .vm => true | .mx => true | .xc => decide (0x05 < op x) && op x != 0x11
        | .sb => decide (0x88 ≤ op x) && op x != 0x90 | _ => false)
      let live := xs.filter (fun x => !faulty x && !illegal x)
      let waits := (List.range 8).any (fun j => h.wm.getLsbD j && (c.reg.getTok j == .pending || c.reg.getTok j == .idle))
      let lost := fun (t : State) (b : Bool) (cause : Nat) => b = true → ∀ p y, p < 16 → w.ctxOf c.idx = some (p, y) →
        ∃ z, (t.part p).ctx = some z ∧ ∃ l ∈ z.losses, l.cause = cause
      ∃ t : State, exec .bundleIssue s = .next t ∧ lost t (xs.any faulty) 0x0A ∧ lost t waits 0x08 ∧ lost t (xs.any illegal) 0x09 ∧
        ((∃ x ∈ live, c.guard x = true) → t.core.reg = c.reg ∧ t.core.mem = c.mem ∧ t.mem = w.mem ∧ ∃ front,
          t.agenda = front ++ w.agenda ∧ front.map (·.1) =
            (live.filter c.guard).filterMap (fun x => match x.dec with | .ok i => some i | .bad _ => none)) ∧
        (live = [] → t.core.reg = c.reg ∧ t.core.mem = c.mem ∧ t.core.ctl.lands = c.ctl.lands ∧ t.agenda = w.agenda))

/-- FETCH_LINE completes (rules R63, R65): a line that is not buffered joins the buffer of the core, which holds at most
four; no word of it is read again from IMEM while it stays. A word of it with a single-bit error is queued for its write-back
(rule R66). A poisoned line is counted in MEMERR as found by fetch and logged once, and its reload is due at a later cycle, unless
one is already under way or a code-load card wrote the line (rule R370). -/
def Obligations.FetchLineCompletes : Prop :=
  ∀ (s : State),
    let v := s.ownCore
    let n := s.arg.n
    (v.core.ctl.fbuf.any (fun l => l.num == n) = true ∨ 4 ≤ v.core.ctl.fbuf.length → exec .fetchLine s = .next v) ∧
    (v.core.ctl.fbuf.any (fun l => l.num == n) = false → v.core.ctl.fbuf.length < 4 →
      ∃ t : State, exec .fetchLine s = .next t ∧
        t.core.ctl = { v.core.ctl with fbuf := v.core.ctl.fbuf ++ [v.core.imemLine n], fetched := true } ∧
        t.core.lineAt n = v.core.imemLine n ∧ t.core.reg = v.core.reg ∧ t.core.mem.loc = v.core.mem.loc ∧
        t.core.mem.imem = v.core.mem.imem ∧ t.mem = v.mem ∧ t.others = v.others ∧
        (∀ i, i < 4 → v.core.mem.imemSoft.contains (4 * n + i) = true → ∃ f ∈ t.core.aux.fixes, f.unit = 10 ∧ f.word = 4 * n + i) ∧
        ((v.core.imemLine n).poison = false → t = v.act (fun c => c.fetchInto n)) ∧
        ((v.core.imemLine n).poison = true → t.module.elogCount = v.module.elogCount + 1 ∧
          (let known := v.core.mem.codeLines.contains n || v.core.mem.reload.any (fun e => e.1 == n);
            (known = true → t.core.mem.reload = v.core.mem.reload) ∧
            (known = false → ∃ u, s.cycle < u ∧ t.core.mem.reload = v.core.mem.reload ++ [(n, u)]))) ∧
        ((v.core.imemLine n).poison = true → t.core.sys.memerr.getLsbD 31 = true ∧ bits t.core.sys.memerr 30 28 = 4 ∧
          t.core.sys.memerr.getLsbD 27 = true))

/-- Taking a trap (rules R127, R288, R353, R355 to R357, R360, R367, R369): outside trap mode, with TVEC.EN = 1 in a partition that is not stopped, the core
enters the handler: TCAUSE holds the bundle address, the sub-code, the slot and the code with INTRAP set, TEPC the resume point,
TLOOM the loom count; the control state is copied into the shadow, loops are made inactive, ROTB and redirects cleared, what
was in flight waits in the flight records, and the handler's first bundle is TVEC.ENTRY on the second fabric cycle after.
General registers, local storage and other cores are unchanged. TEPC.IDLE shows at most 127 empty cycles, and what it does not show
elapses as well (log entry 95). A data error shows CARDERR as it stood, and clears its V and COUNT; a NaN shows the loom count of its
landing, TNAN0 and TNAN1, and clears NANEN, and no other trap writes these. A result that lands with a NaN, while NANEN is 1 and outside
trap mode, makes the trap of the first such pending, with the formats, the core, its tile's x, the unit, the set and the element, of a
step the first canonical NaN of its set; any other only lands. A watchpoint in which a byte of an access lies makes a trap pending
whose TINFO is the lowest such byte, WPT0 first. A deferred or double trap (rules R355, R364, R366): with TVEC.EN
= 0, or in trap mode, the core freezes at the resume point with DEFER set; INTRAP stays as it was; the double trap sets DOUBLE
and leaves TEPC and the shadow of the first trap; and the partition's TSTOP then counts the core, with its relative index
when it is the first, and stops the partition. -/
def Obligations.TrapEntry : Prop :=
  (∀ (c : Core) (cycle : Nat) (k : Cause) (pt : TrapPoint), c.inTrap = false → c.trap.tvec.getLsbD 63 = true →
     k.code < 256 → k.sub < 2 ^ 13 → k.slot < 16 →
     let e := c.enterTrap cycle false k pt
     let t := e.1
     e.2 = false ∧ t.inTrap = true ∧ t.trap.tcause.getLsbD 62 = false ∧ t.trap.tcause.getLsbD 61 = false ∧
       bits t.trap.tcause 7 0 = k.code ∧ bits t.trap.tcause 15 8 = k.slot ∧ bits t.trap.tcause 28 16 = k.sub ∧
       bits t.trap.tcause 49 32 = k.cba.toNat ∧ bits t.trap.tepc 17 0 = pt.pc.toNat ∧ bits t.trap.tepc 30 24 = min 127 pt.idle ∧
       t.trap.tloom = (match k.loom with | some l => BitVec.ofNat 64 l | none => pt.loom) ∧
       t.trap.tinfo = (if k.code = 0x0B then c.sys.carderr else k.info) ∧ t.trap.shadow = some (c.shadowOf pt) ∧
       (k.code = 0x0D → t.trap.tctl = c.trap.tctl &&& ~~~1) ∧ (k.code ≠ 0x0D → t.trap.tctl = c.trap.tctl) ∧
       (∀ n, k.nan = some n → t.trap.tnan0 = n.1 ∧ t.trap.tnan1 = n.2) ∧
       (k.nan = none → t.trap.tnan0 = c.trap.tnan0 ∧ t.trap.tnan1 = c.trap.tnan1) ∧
       (k.code = 0x0B → t.sys = { c.sys with carderr := t.sys.carderr } ∧ t.sys.carderr.getLsbD 63 = false ∧
         bits t.sys.carderr 15 0 = 0 ∧ bits t.sys.carderr 62 16 = bits c.sys.carderr 62 16) ∧ (k.code ≠ 0x0B → t.sys = c.sys) ∧
       t.reg = { c.reg with rotb := .reset, loops := c.reg.loops.map (fun l => { l with act := false }) } ∧
       t.ctl.pc = (c.trap.tvec.setWidth 18 &&& 0x3FFFC) ∧ t.ctl.mode = .running ∧ t.ctl.wake = cycle + 2 ∧
       t.ctl.redirects = [] ∧ t.ctl.lands = [] ∧ t.ctl.claims = [] ∧ t.ctl.fbuf = [] ∧ t.mem = c.mem ∧
       (c.shadowOf pt).redirects = c.ctl.redirects ∧ (c.shadowOf pt).lands = c.ctl.lands ∧
       (c.shadowOf pt).claims = c.ctl.claims ∧ (c.shadowOf pt).rotb = c.reg.rotb ∧ (c.shadowOf pt).loops = c.reg.loops ∧
       (c.shadowOf pt).pairs = c.reg.pairs ∧ (c.shadowOf pt).safe = c.aux.safe ∧
       min 127 pt.idle + (c.shadowOf pt).more = pt.idle) ∧
  (∀ (c : Core) (loom : Nat) (l : Landing) (n : NanInfo), l.nan = some n →
     let d := c.applyEffect l.eff
     let found := match n.elem, l.eff with
       | some e, _ => some e
       | none, .step acc _ _ _ _ _ _ => (List.range 64).find? (fun i => (d.reg.getA acc).extractLsb' (32 * i) 32 == 0x7FC00000#32)
       | none, _ => none
     let t := Core.landOne loom c l
     (∀ e, found = some e → d.trap.tctl.getLsbD 0 = true → d.inTrap = false → d.trap.nanPend = none →
       n.unit < 4 → n.acc < 8 → e < 256 → c.idx < 2 ^ 16 → ∃ (k : Cause) (w : Word), t = { d with trap := { d.trap with nanPend := some k } } ∧
         k.code = 0x0D ∧ k.sub = 0 ∧ k.slot = l.slot ∧ k.cba = l.cba ∧ k.loom = some loom ∧ k.nan = some (n.fa ++ n.fb, w) ∧
         bits w 63 48 = c.idx ∧ bits w 47 40 = tileX c.idx % 256 ∧ bits w 15 14 = n.unit ∧ bits w 13 11 = n.acc ∧ bits w 7 0 = e) ∧
     (found = none ∨ d.trap.tctl.getLsbD 0 = false ∨ d.inTrap = true ∨ d.trap.nanPend.isSome = true → t = d)) ∧
  (∀ (s : State) (slot bit_ width : Nat) (reads writes : List (Nat × Nat)),
     let c := s.core
     let met := fun (i a : Nat) =>
       let w := c.trap.wptm.getD i 0
       let sz := bits w 5 0
       let base := bits (c.trap.wptb.getD i 0) (width - 1) 0 / 2 ^ sz * 2 ^ sz
       w.getLsbD 63 = true ∧ w.getLsbD bit_ = true ∧ sz < 58 ∧ base ≤ a ∧ a < base + 2 ^ sz ∧
         ((w.getLsbD 60 = true ∧ ∃ r ∈ reads, r.1 ≤ a ∧ a < r.1 + r.2) ∨ (w.getLsbD 59 = true ∧ ∃ r ∈ writes, r.1 ≤ a ∧ a < r.1 + r.2))
     let t := s.watched slot (watchHit c bit_ width reads writes)
     (c.inX = true ∨ c.inTrap = true ∨ (∀ i a, i < 2 → ¬ met i a) → t = s) ∧
     (∀ i a, c.inX = false → c.inTrap = false → i < 2 → met i a → (∀ x, x < a → ¬ met i x) → (∀ j x, j < i → ¬ met j x) →
       ∃ k : Cause, t = s.act (fun c => { c with trap := { c.trap with pend := c.trap.pend ++ [k] } }) ∧
         k.code = 0x0C ∧ k.sub = i ∧ k.slot = slot ∧ k.cba = c.ctl.pc ∧ k.info = BitVec.ofNat 64 a)) ∧
  (∀ (s : State) (k : Cause) (pt : TrapPoint), (s.core.trap.tvec.getLsbD 63 = false ∨ s.core.inTrap = true) →
     k.code < 256 → k.sub < 2 ^ 13 → k.slot < 16 →
     let t := s.trapAt k pt
     t.core.ctl.mode = .frozen .deferred ∧ t.core.ctl.pc = pt.pc ∧ t.core.trap.tcause.getLsbD 62 = true ∧
       t.core.trap.tcause.getLsbD 61 = s.core.inTrap ∧ t.core.inTrap = s.core.inTrap ∧
       (s.core.inTrap = true → t.core.trap.tepc = s.core.trap.tepc ∧ t.core.trap.shadow = s.core.trap.shadow) ∧
       t.core.reg = s.core.reg ∧ t.core.mem = s.core.mem ∧ t.mem = s.mem ∧ t.others = s.others ∧
       ∀ p, s.partOf s.core.idx = some p → relIndex p (pdefWid (s.part p).pdef) s.core.idx < 2 ^ 16 → t.stopped p = true ∧
         bits (t.part p).tstop 47 32 = min 0xFFFF (bits (s.part p).tstop 47 32 + 1) ∧
         (bits (s.part p).tstop 47 32 = 0 → bits (t.part p).tstop 31 16 = relIndex p (pdefWid (s.part p).pdef) s.core.idx))

/-- TRAP_RESUME completes (rules R255, R358, R362, R367, R370): the return restores ROTB, loops, pairs and redirects from the
shadow, clears INTRAP, and resumes TEPC.PC after TEPC.IDLE core cycles and what TEPC.IDLE could not show (log entry 95), on the first cycle at or after this one with the parity of
the reference cycle; the return from a FETCH_POISON trap waits until the line of its bundle is whole again, and no other return
waits for a reload. Every result and claim of the flight records lands after as many core cycles as it had left. A bundle that a
breakpoint has stopped is exempt from it until it issues. A core that was trapped behind PHASE.END arrives at its barrier again
instead of running on, or takes the cause that still waits there (log entry 71). Without a shadow only INTRAP is cleared. Other
registers, local storage and other cores are unchanged. -/
def Obligations.TrapResumeCompletes : Prop :=
  ∀ (s : State),
    let v := s.ownCore
    let c := v.core
    let line := (c.trap.tepc.setWidth 18 : CodeAddr).toNat / 64
    let outside := fun (t : State) => t.others = v.others ∧ t.mem = v.mem ∧ t.core.mem = c.mem
    (∀ sh, c.trap.shadow = some sh → sh.parity < 2 → (sh.waits = true → ∀ k ∈ c.trap.pend, 0x0D ≤ k.code) →
      ∃ t : State, exec .trapResume s = .next t ∧ outside t ∧ t.core.inTrap = false ∧ t.core.trap.shadow = none ∧
        t.core.reg = { c.reg with rotb := sh.rotb, loops := sh.loops, pairs := sh.pairs } ∧
        t.core.ctl.redirects = sh.redirects ∧ t.core.ctl.pc = c.trap.tepc.setWidth 18 ∧
        t.core.ctl.idle = bits c.trap.tepc 30 24 + sh.more ∧ t.core.ctl.fbuf = [] ∧
        s.cycle ≤ t.core.ctl.wake ∧ t.core.ctl.wake % 2 = sh.parity ∧
        (bits c.trap.tcause 7 0 ≠ 0x0F → t.core.ctl.wake ≤ s.cycle + 1) ∧
        (bits c.trap.tcause 7 0 = 0x0F → (∀ e ∈ c.mem.reload, e.1 = line → e.2 ≤ t.core.ctl.wake) ∧
          ((∀ e ∈ c.mem.reload, e.1 = line → e.2 ≤ s.cycle) → t.core.ctl.wake ≤ s.cycle + 1)) ∧
        t.core.trap.exempt = (if bits c.trap.tcause 7 0 = 6 ∧ bits c.trap.tcause 23 16 ≠ 0 then some (c.trap.tepc.setWidth 18)
          else c.trap.exempt) ∧
        t.core.ctl.lands.map (fun l => l.due - t.core.ctl.cc) = sh.lands.map (fun l => l.due - sh.base) ∧
        t.core.ctl.lands.map (·.eff) = sh.lands.map (·.eff) ∧
        t.core.ctl.claims.map (fun l => l.due - t.core.ctl.cc) = sh.claims.map (fun l => l.due - sh.base) ∧
        t.core.ctl.claims.map (·.act) = sh.claims.map (·.act) ∧
        (sh.waits = false → v.coreStopped c.idx = false → t.core.ctl.mode = .running ∧ t.core.aux = { c.aux with safe := sh.safe }) ∧
        (sh.waits = true → t.core.ctl.mode = .barrier ∧
          t.core.aux.arrived = some ((c.sys.phnum.extractLsb' 0 32).toNat, s.cycle))) ∧
    (∀ sh k, c.trap.shadow = some sh → sh.waits = true →
      State.firstPending { c with trap := { c.trap with tcause := 0 } } = some k → k.code < 0x0D →
      ∃ t : State, exec .trapResume s = .next t ∧ outside t ∧ bits t.core.trap.tcause 7 0 = k.code ∧
        bits t.core.trap.tepc 17 0 = bits c.trap.tepc 17 0 ∧
        (c.trap.tvec.getLsbD 63 = true → t.core.inTrap = true ∧ t.core.ctl.mode = .running ∧ t.core.ctl.wake = s.cycle + 2) ∧
        (c.trap.tvec.getLsbD 63 = false → t.core.inTrap = false ∧ t.core.ctl.mode = .frozen .deferred)) ∧
    (c.trap.shadow = none → ∃ t : State, exec .trapResume s = .next t ∧ outside t ∧ t.core.inTrap = false ∧ t.core.reg = c.reg ∧
      t.core.ctl.pc = c.ctl.pc ∧ t.core.ctl.lands = c.ctl.lands ∧ t.core.ctl.claims = c.ctl.claims)

/-! ### Cores: holds that end, self-test, prefetch, scrubbing, samples -/

/-- The ends of waits complete. A token, semaphore or loom-count wait (rules R34, R125, R133, R311): the hold is gone, the core's
events of this cycle come next, no bundle has been dropped, and registers, local storage, what is in flight and other cores are
unchanged. RELEASE_HOLD_END (rules R31, R35, R122, R313): when the release that the hold was kept for can be made, its cards
join those in flight with their tokens pending, and the bundle issues next with its hold passed; one that still finds no room waits
on, for a cycle count of its own, with its cards unreleased (rules R37, R38, R96, R134). RECFL_HOLD_END and
FENCE_ERR_HOLD_END (rules R112, R127, R316, R319): the entry of the handle is gone from every engine of the partition, every
other entry stays, and the core goes on; an error fence that finds CARDERR.V = 0 issues its bundle next, and one that finds it 1
takes a data-error trap at its bundle instead. -/
def Obligations.WaitEndsComplete : Prop :=
  (∀ (s : State) (i : Instr), i = .tokenWaitEnd ∨ i = .semWaitEnd ∨ i = .gclkWaitEnd →
     let v := s.ownCore
     ∃ t : State, exec i s = .next t ∧ t.core.ctl.hold = none ∧ t.core.ctl.pc = v.core.ctl.pc ∧
       t.core.ctl.lands = v.core.ctl.lands ∧ t.core.ctl.claims = v.core.ctl.claims ∧ t.core.ctl.cc = v.core.ctl.cc ∧
       t.core.reg = v.core.reg ∧ t.core.mem = v.core.mem ∧ t.core.trap = v.core.trap ∧ t.core.sys = v.core.sys ∧
       t.others = v.others ∧ t.mem = v.mem ∧ t.cards = v.cards ∧ t.cycle = s.cycle ∧
       (v.core.ctl.mode = .running → v.awake v.core = true → v.coreStopped v.core.idx = false →
         v.coreDebug v.core.idx = false → v.core.trap.returning = false → v.core.ctl.idle = 0 → v.core.delayDue = false →
         ∃ rest, t.agenda = (.bundleIssue, coreArg v.core.idx) :: rest ++ v.agenda)) ∧
  (∀ (s w : State) (p : ReleasePlan),
     let v := s.ownCore
     s.arg.n ≠ 1 → heldPlan v.core = some p → settleRelease v.landNow p = .released w →
     ∃ t : State, exec .releaseHoldEnd s = .next t ∧ t.cards = w.cards ∧ t.nextId = w.nextId ∧
       t.core.reg.tok = w.core.reg.tok ∧ t.core.reg = { v.core.reg with tok := w.core.reg.tok } ∧
       t.core.sys.cardpos0 = w.core.sys.cardpos0 ∧ t.core.sys.cardpos1 = w.core.sys.cardpos1 ∧
       t.core.ctl.passed = true ∧ t.core.ctl.hold = none ∧ t.core.ctl.pc = v.core.ctl.pc ∧
       (t.agenda.head? = some (.bundleIssue, coreArg v.core.idx)) ∧ t.core.mem = v.core.mem ∧ t.mem = v.mem) ∧
  (∀ (s w : State) (p q : ReleasePlan) (n : Nat) (h : Hold),
     let v := s.ownCore
     s.arg.n ≠ 1 → v.core.ctl.hold = some h → h.kind = .release p → settleRelease v.landNow p = .wait n q w →
     ∃ t : State, exec .releaseHoldEnd s = .next t ∧
       t.core.ctl = { v.core.ctl with hold := some { h with
         kind := .release q, since := if h.late then s.cycle else h.since, till := s.cycle + n, late := false } } ∧
       t.core.reg = v.core.reg ∧ t.core.mem = v.core.mem ∧ t.mem = v.mem ∧ t.cards = v.cards) ∧
  (∀ (s : State) (h : Hold) (x : Nat),
     let v := s.ownCore
     let mine := match v.partOf v.core.idx with | some p => v.partRegions p | none => [regionOf v.core.idx]
     (v.core.ctl.hold = some h → h.kind = .recfl x →
       ∃ t : State, exec .recflHoldEnd s = .next t ∧ t.core.ctl.hold = none ∧ t.core.reg = v.core.reg ∧ t.mem = v.mem ∧
         t.blocks.map (·.idx) = v.blocks.map (·.idx) ∧
         ∀ b ∈ t.blocks, ∃ b' ∈ v.blocks, b'.idx = b.idx ∧
           (mine.contains (regionOf (64 * b.idx)) = true → ∀ e, e ∈ b.recs ↔ e ∈ b'.recs ∧ ¬ (e.tag = v.tag ∧ e.handle = x)) ∧
           (mine.contains (regionOf (64 * b.idx)) = false → b = b')) ∧
     (v.landNow.core.sys.carderr.getLsbD 63 = false → ∃ t : State, exec .fenceErrHoldEnd s = .next t ∧
       t.core.ctl.passed = true ∧ t.core.ctl.hold = none ∧ t.agenda.head? = some (.bundleIssue, coreArg v.core.idx) ∧
       t.core.reg = v.core.reg ∧ t.core.mem = v.core.mem) ∧
     (v.landNow.core.sys.carderr.getLsbD 63 = true → ∃ t : State, exec .fenceErrHoldEnd s = .next t ∧
       bits t.core.trap.tcause 7 0 = 0x0B ∧ bits t.core.trap.tcause 49 32 = v.core.ctl.pc.toNat ∧
       (v.core.inTrap = false → t.core.trap.tinfo = v.core.sys.carderr ∧ t.core.sys.carderr.getLsbD 63 = false ∧
         bits t.core.sys.carderr 15 0 = 0)))

/-- The ends of self-tests complete (rules R259, R260, R405 to R408): the hold is gone; BISTRES names the target and unit as
issued; a unit, an IMEM quarter or the latch that was tested reads as zeros, and every other byte reads as before; VMRES holds
the supply of the region as it stands (log entry 6), the region and the offset; EYE names the port and the sweep. What the hardware
shows the tests is open (log entry 3): with no comparison that fails, BISTRES reads PASS and BISTADR and BISTXOR 0; with one, whose
value differs, BISTADR names where it fell, BISTXOR holds a bit that differs, and BISTRES the element, one failure and its code, of the
array 3 for a block's residue and 4 for an accumulator (the patterns' layout, and the array's comparisons, 192 residues and then 16 of
accumulators a step, are log entry 94). EYEERR counts none, or at most the 2^e bits that a sweep of dwell e compares. -/
def Obligations.SelfTestEndsComplete : Prop :=
  ∀ (s : State) (h : Hold),
    let v := s.ownCore
    v.core.ctl.hold = some h →
    (∀ t u d, h.kind = .bist t u d → t < 256 → u < 256 → ∃ w : State, exec .bistEnd s = .next w ∧ w.core.ctl.hold = none ∧
      bits w.core.sys.bistres 31 24 = t ∧ bits w.core.sys.bistres 23 16 = u ∧ w.core.ctl.pc = v.core.ctl.pc ∧
      (v.core.aux.bistHits = [] → bits w.core.sys.bistres 63 32 = 0 ∧ bits w.core.sys.bistres 15 0 = 0 ∧
        w.core.sys.bistadr = 0 ∧ w.core.sys.bistxor = 0) ∧
      (∀ x k, v.core.aux.bistHits = [x] → bistCheck t u d x.at_ = some k → k.expect ≠ x.seen →
        bits w.core.sys.bistres 63 48 = 1 ∧ bits w.core.sys.bistres 47 32 = k.elem % 2 ^ 16 ∧
        bits w.core.sys.bistres 15 0 =
          (if t = 1 ∨ t = 2 then 1 else if t = 3 then (if x.at_ % 208 < 192 then 3 else 4) else 5) ∧
        w.core.sys.bistadr = BitVec.ofNat 64 k.place ∧ w.core.sys.bistxor ≠ 0) ∧
      (t = 1 → u < 10 → ∀ x, w.core.mem.loc.read x =
        (if (unitRange u).1 ≤ x ∧ x < (unitRange u).1 + (unitRange u).2 then 0 else v.core.mem.loc.read x)) ∧
      (t ≠ 1 → w.core.mem.loc = v.core.mem.loc) ∧
      (t = 2 → ∀ x, w.core.mem.imem.read x = (if u * 2 ^ 16 ≤ x ∧ x < (u + 1) * 2 ^ 16 then 0 else v.core.mem.imem.read x)) ∧
      (t ≠ 2 → w.core.mem.imem = v.core.mem.imem) ∧
      (w.core.reg = if t = 3 then { v.core.reg with latch := 0, latchFmt := 0 } else v.core.reg)) ∧
    (∀ r off, h.kind = .margV r off → r < 16 → ∃ w : State, exec .margVSettled s = .next w ∧ w.core.ctl.hold = none ∧
      bits w.core.sys.vmres 47 32 = (w.region r).supplyMv ∧ bits w.core.sys.vmres 15 8 = r ∧
      bits w.core.sys.vmres 7 0 = (off.emod 256).toNat ∧ (∀ q, q ≠ r → w.region q = v.region q) ∧
      w.core.reg = v.core.reg ∧ w.core.mem = v.core.mem ∧ w.mem = v.mem) ∧
    (∀ p q d, h.kind = .margL p q d → p < 256 → q < 4 → ∃ w : State, exec .margLSweepEnd s = .next w ∧
      w.core.ctl.hold = none ∧ bits w.core.sys.eye 63 56 = p ∧ bits w.core.sys.eye 55 54 = q ∧
      (d < 64 → w.core.sys.eyeerr = 0 ∨ (1 ≤ w.core.sys.eyeerr.toNat ∧ w.core.sys.eyeerr.toNat ≤ 2 ^ d)) ∧
      w.core.reg = v.core.reg ∧ w.core.mem = v.core.mem ∧ w.mem = v.mem)

/-- Prefetch and scrubbing complete (rules R66, R68, R69, R118, R120): DECK_PREFETCH does nothing once the deck has ended, and else adds
deck words to the engine's buffer alone and drops none; where every word of the deck can be read, it adds the four of the header, the
stage entry of the core's next stage, and the four of each card that the entry names, each with what memory holds. SCRUB_READ moves on to
the next word, counts an uncorrectable one, and queues a correctable one with its corrected data; SCRUB_WRITEBACK puts those data
back into the word that it has queued, which is sound from then on, and changes no other byte. Debug freezes and trace samples complete
(rules R409, R410, R412, R413): the core freezes where it is, with registers, local storage and flight records unchanged, unless a trap
is due before the bundle that would issue on that boundary, which is taken instead; a sample is one record of the loom count, the core,
KIND 1, the address of the bundle that has issued on this cycle, or else of the next, and PHNUM, and is dropped, with LOST set for the
next one, when eight records wait. That a read may perform late writes, and so add to a signature, is the model's choice (log entry 83). -/
def Obligations.BackgroundEventsComplete : Prop :=
  (∀ (s : State),
     let v := s.ownCore
     let u := s.arg.n
     let w := scrubBase u + v.core.aux.scrub.getD u 0
     let loc := fun (t : State) => if u = 10 then t.core.mem.imem else t.core.mem.loc
     let far := fun (t : State) => if u = 10 then t.core.mem.loc else t.core.mem.imem
     let soft := fun (t : State) (y : Nat) => if u = 10 then t.core.mem.imemSoft.contains y else t.core.mem.soft.contains y
     let bad := fun (t : State) (y : Nat) => if u = 10 then t.core.mem.imemBad.contains y else t.core.mem.bad.contains y
     (∃ t : State, exec .deckPrefetch s = .next t ∧ t.core.reg = v.core.reg ∧ t.core.mem = v.core.mem ∧
       t.core.ctl = v.core.ctl ∧ t.core.sys = { v.core.sys with sig := t.core.sys.sig } ∧ t.core.trap = v.core.trap ∧
       t.cards = v.cards ∧ (v.late = [] → t.mem = v.mem ∧ t.core.sys = v.core.sys) ∧
       t.core.aux = { v.core.aux with tlb := t.core.aux.tlb, deck := t.core.aux.deck } ∧
       (∀ e ∈ v.core.aux.deck, e ∈ t.core.aux.deck) ∧ (v.core.sys.cardpos0.getLsbD 16 = true → t = v)) ∧
     (∀ (e : TlbEntry), v.late = [] → v.poison = [] → v.tag ≠ 0 → e.rd = true → v.core.aux.deck = [] →
       v.core.sys.cardpos0.getLsbD 16 = false →
       let head := bits v.core.sys.deckbase 56 5 * 32
       let word := fun (a : Nat) => v.readWord (e.leaf.addr a)
       let entry := head + 0x20 + 8 * bits v.core.sys.cardpos0 15 0
       let first := (head + 0x20 + 8 * bits (word head) 15 0 + 31) / 32 * 32 + 32 * bits (word entry) 31 0
       let at_ := (List.range 4).map (fun i => head + 8 * i) ++ [entry] ++
         (List.range (4 * (bits (word entry) 35 32 + 1))).map (fun i => first + 8 * i)
       head ≠ 0 → (∀ a ∈ at_, inPage e.va e.size a = true) →
       (∀ a, inPage e.va e.size a = true → v.tlbHit a = some e ∧ v.wayOpen (e.leaf.addr a) = true) →
       ∃ t : State, exec .deckPrefetch s = .next t ∧ (∀ a ∈ at_, (a, word a) ∈ t.core.aux.deck) ∧
         ∀ x ∈ t.core.aux.deck, x.1 ∈ at_ ∧ x.2 = word x.1) ∧
     (u < 11 → ∃ t : State, exec .scrubRead s = .next t ∧ t.core.mem = v.core.mem ∧ t.core.reg = v.core.reg ∧
       t.core.ctl = v.core.ctl ∧ t.mem = v.mem ∧
       t.core.aux.scrub.getD u 0 = (v.core.aux.scrub.getD u 0 + 1) % scrubWords u ∧
       (soft v w = true → ∃ f ∈ t.core.aux.fixes, f.unit = u ∧ f.word = w ∧
         ((∀ e ∈ v.core.aux.fixes, e.unit ≠ u ∨ e.word ≠ w) → f.data = BitVec.ofNat 128 ((loc v).readNat (16 * w) 16))) ∧
       (soft v w = false → t.core.aux.fixes = v.core.aux.fixes) ∧
       (bad v w = true → v.core.aux.scrub.getD u 0 + 1 ≠ scrubWords u →
         t.core.sys.memerr.getLsbD 31 = true ∧ bits t.core.sys.memerr 30 28 = 3)) ∧
     (∀ f, u < 11 → v.core.aux.fixes.find? (fun f => f.unit == u) = some f →
       ∃ t : State, exec .scrubWriteback s = .next t ∧ soft t f.word = false ∧ bad t f.word = false ∧
         (∀ y, y ≠ f.word → soft t y = soft v y ∧ bad t y = bad v y) ∧
         loc t = (loc v).write (16 * f.word) (toBytes 16 f.data.toNat) ∧ far t = far v ∧ t.core.reg = v.core.reg ∧ t.mem = v.mem)) ∧
  (∀ (s : State),
     let v := s.ownCore
     (0 < v.core.ctl.idle ∨ v.trapDue = none →
       ∃ t : State, exec .debugStopFreeze s = .next t ∧ t.core.ctl.mode = .frozen .debug ∧ t.core.ctl.pc = v.core.ctl.pc ∧
         t.core.ctl.lands = v.core.ctl.lands ∧ t.core.reg = v.core.reg ∧ t.core.mem = v.core.mem ∧ t.core.trap = v.core.trap ∧
         t.mem = v.mem ∧ t.others = v.others) ∧
     (∀ u, v.core.ctl.idle = 0 → v.trapDue = some u → exec .debugStopFreeze s = .next u) ∧
     (∃ t : State, exec .traceSample s = .next t ∧ t.core.reg = v.core.reg ∧ t.core.ctl = v.core.ctl ∧ t.mem = v.mem ∧
       (8 ≤ v.core.aux.traceQ.length → t.core.aux.traceQ = v.core.aux.traceQ ∧ t.core.aux.lost = true) ∧
       (v.core.aux.traceQ.length < 8 → v.core.idx < 2 ^ 16 → ∃ r : TraceRec, t.core.aux.traceQ = v.core.aux.traceQ ++ [r] ∧
         t.core.aux.lost = false ∧ r.w0 = v.loomOf (reticleOf v.core.idx) ∧ bits r.w1 63 48 = v.core.idx ∧
         bits r.w1 47 44 = 1 ∧ r.w1.getLsbD 43 = v.core.aux.lost ∧ bits r.w1 17 0 = (v.core.ctl.sent.getD v.core.nextBundle).toNat ∧
         r.w2 = v.core.sys.phnum)))

/-! ### Engines and links -/

/-- Card work completes (rules R60, R67, R97, R107, R122, R127, R130, R131, R139, R140, R370, R417): an open card performs one granule
of its work, which is then done. A read of off-wafer bytes sees the core's earlier writes of that granule on the same link, and keeps
them in the engine, marked where the granule is beyond correction, which is an error of kind 1; a fill writes what the engine holds to
its local bytes, or, of a code load, to IMEM, and each word that takes a marked byte is poisoned; a read of local bytes, the source of a write card or the operands of an atomic one, keeps them in the engine, and a word
beyond correction is an error of kind 2 of a write card. A write, of a write card or of a weft copy, takes each byte from what the
engine has read, reaches the bytes of classes 0x0 and 0x1 at once, and of the other classes waits, accepted by its link; it poisons a
granule into which it writes a marked byte, and makes one sound that it writes whole. An atomic unit, in the order of the units, combines
the old value and the operand; over an old value beyond correction or an operand so marked it changes no byte, and its card, in error of
kind 1 or 2, applies no further unit. A dead way is an error of kind 3, and the card stops. No other byte changes. A card that is
not open does nothing, and neither does work whose bytes the engine has not yet read. A card that is due ends: its writes are
performed at its scope, and with the last of its group the token leaves pending, as done, or in error when a card of the group has
ended in error; the group retires, and no other token changes. A card that ends in error records it in CARDERR: V is 1, and where no
error stood there, OP, KIND, TOKEN and HANDLE are the card's. The model's own choices: the engine
works granule by granule through a buffer (log entry 30), the way of an accepted write to its home (log entry 83), which granule a marked
byte poisons (log entry 104). -/
def Obligations.CardWorkCompletes : Prop :=
  ∀ (s : State) (c : Card), s.cardAt s.arg.n = some c →
    let k := c.core
    let i := if s.arg.sel = 1 then State.nextUnit c else s.arg.m
    let b := s.settleSeen c
    let rest := { c with granules := c.granules.eraseIdx i }
    let loc := fun (t : State) (x : Nat) => (t.coreOf k).mem.loc.read x
    let sick := fun (x : Nat) => (b.coreOf k).mem.bad.contains (x / 16)
    let next := fun (g : Granule) => s.cardOpen c = true ∧ g.ready c = true ∧ c.granules[i]? = some g
    let turn := fun (g : Granule) => next g ∧ ∀ a ∈ g.targets, s.wayOpen a = true
    let fails := fun (kind : Nat) => if c.err = 0 then kind else c.err
    let link := fun (a : Nat) => s.linkOf (blockOf k) (64 * (a / 64))
    let a0 := fun (ms : List (ByteSrc × Nat × Nat)) => (ms.map (·.2.1)).headD 0
    let held := fun (m : ByteSrc × Nat × Nat) => (m.1.value c.buf).1
    (∀ ds, turn (.fetch ds) →
      let g := ds.headD 0 / 64
      let v := b.behind k g
      let bad := ds.any v.poisoned
      let r := b.readFrom k c.group g
      let d := { rest with buf := c.buf ++ ds.map (fun a => (a, v.mem.read a, bad)) }
      (bad = false → exec .cardGranule s = .next (r.putCard d)) ∧
      (bad = true → c.op ≠ .atomic → ∃ t : State, exec .cardGranule s = .next t ∧ r.memKept t ∧ r.dataKept t ∧ t.late = r.late ∧
        t.cards = (r.putCard { d with err := fails 1, poisonedBlocks := ds.headD 0 / 2 ^ 17 :: c.poisonedBlocks }).cards)) ∧
    (∀ ls, turn (.take ls) →
      ∃ t : State, exec .cardGranule s = .next t ∧ b.memKept t ∧ b.dataKept t ∧
        t.cards = (b.putCard { rest with
          buf := c.buf ++ ls.map (fun a => (localKey a, loc b a, sick a))
          err := if c.op ≠ .atomic ∧ ls.any sick = true then fails 2 else c.err }).cards ∧
        ∀ j, j ≠ k → t.coreOf j = b.coreOf j) ∧
    (∀ ms, turn (.fill ms) → (ms.map (·.loc)).Nodup →
      let at_ := ms.map (·.loc)
      let cell := fun (m : ByteMove) => m.src.value c.buf
      let bad := fun (t : State) (w : Nat) => if c.op = .code then (t.coreOf k).mem.imemBad.contains w else (t.coreOf k).mem.bad.contains w
      let byte := fun (t : State) (x : Nat) => if c.op = .code then (t.coreOf k).mem.imem.read x else loc t x
      ∃ t : State, exec .cardGranule s = .next t ∧ b.memKept t ∧ t.cards = (b.putCard rest).cards ∧
        (∀ m ∈ ms, byte t m.loc = (cell m).1) ∧ (∀ x, x ∉ at_ → byte t x = byte b x) ∧
        (∀ m ∈ ms, (cell m).2 = true → bad t (m.loc / 16) = true) ∧
        (∀ w, (∀ x, x / 16 = w → x ∈ at_) → (∀ m ∈ ms, m.loc / 16 = w → (cell m).2 = false) → bad t w = false) ∧
        (∀ w, (∀ x ∈ at_, x / 16 ≠ w) → bad t w = bad b w) ∧
        (c.op = .code → (t.coreOf k).mem.loc = (b.coreOf k).mem.loc ∧ ∀ m ∈ ms, (t.coreOf k).mem.codeLines.contains (m.loc / 64) = true) ∧
        (c.op ≠ .code → (t.coreOf k).mem.imem = (b.coreOf k).mem.imem) ∧
        (t.coreOf k).reg = (s.coreOf k).reg ∧ ∀ j, j ≠ k → t.coreOf j = b.coreOf j) ∧
    (∀ ms, turn (.put ms) → s.wayOpen (a0 ms) = true → (ms.map (·.2.1)).Nodup →
      let bad := ms.any (fun m => (m.1.value c.buf).2)
      let signs := ms.map (fun m => (m.2.2, held m))
      ∃ t : State, exec .cardGranule s = .next t ∧ b.dataKept t ∧
        t.cards = (b.putCard { rest with
          poisonedBlocks := if bad then a0 ms / 2 ^ 17 :: c.poisonedBlocks else c.poisonedBlocks }).cards ∧
        (link (a0 ms) = none → (∀ m ∈ ms, t.mem.read m.2.1 = held m) ∧
          (∀ x, x ∉ ms.map (·.2.1) → t.mem.read x = b.mem.read x) ∧
          t.poison.contains (a0 ms / 64) = (bad || (b.poison.contains (a0 ms / 64) && decide (ms.length < 64))) ∧
          ∀ g, g ≠ a0 ms / 64 → t.poison.contains g = b.poison.contains g) ∧
        ((link (a0 ms)).isSome = true → b.memKept t ∧ ∃ (w : LateWrite) (early : Bool), t.late = State.joinLate c w early b.late ∧
          w.card = c.id ∧ w.core = k ∧ w.group = c.group ∧ w.scope = c.scope ∧ w.granule = a0 ms / 64 ∧ w.link = link (a0 ms) ∧
          w.bytes = ms.map (fun m => (m.2.1, held m)) ∧ w.seenBy = [] ∧
          w.poison = (if bad then some true else if 64 ≤ ms.length then some false else none) ∧
          w.terms = if c.scope = 0 then [] else signs)) ∧
    (∀ a e, c.buf.find? (fun x => x.1 == a) = some e → (ByteSrc.mem a).value c.buf = e.2) ∧
    (∀ u, turn (.atom u) → c.op = .atomic → i = State.nextUnit c →
      let n := if c.atop = 9 then 2 * u.size else u.size
      let ops := (List.range n).map (fun j => heldByte c.buf (localKey (canon (u.loc + j))))
      let bs := ops.map (·.1)
      let v := (b.performSeen (u.dpa / 64)).behind k (u.dpa / 64)
      let old := v.mem.readN u.dpa u.size
      let new := atomNew c.atop c.fmt u.size (ofBytes old) (ofBytes (if c.atop = 9 then bs.drop u.size else bs))
        (ofBytes (bs.take u.size))
      let back := match u.ret with
        | some r => (List.range u.size).map (fun j => (retKey (r + j), old.getD j 0, false))
        | none => []
      (v.poisoned u.dpa = false → ops.any (·.2) = false →
        ∃ t : State, exec .cardGranule s = .next t ∧ v.dataKept t ∧
          (∀ j, j < u.size → t.mem.read (u.dpa + j) = (toBytes u.size new).getD j 0) ∧
          (∀ x, x < u.dpa ∨ u.dpa + u.size ≤ x → t.mem.read x = v.mem.read x) ∧
          t.cards = (b.putCard { rest with buf := c.buf ++ back }).cards) ∧
      (v.poisoned u.dpa = true ∨ ops.any (·.2) = true →
        ∃ (t : State) (d : Card), exec .cardGranule s = .next t ∧ v.memKept t ∧ v.dataKept t ∧ t.cardAt s.arg.n = some d ∧
          d.err = fails (if v.poisoned u.dpa then 1 else 2) ∧ (c.err = 0 → ∀ x, Granule.atom x ∉ d.granules))) ∧
    (∀ ds, next (.fetch ds) → c.op ≠ .atomic → (∃ a ∈ ds, s.wayOpen a = false) →
      exec .cardGranule s = .next (b.putCard { rest with err := fails 3, granules := if c.err = 0 then [] else rest.granules })) ∧
    (∀ ms, next (.put ms) → c.op ≠ .atomic → s.wayOpen (a0 ms) = false →
      exec .cardGranule s = .next (b.putCard { rest with err := fails 3, granules := if c.err = 0 then [] else rest.granules })) ∧
    (∀ u, next (.atom u) → i = State.nextUnit c → c.op = .atomic → s.wayOpen u.dpa = false →
      ∃ (t : State) (d : Card), exec .cardGranule s = .next t ∧ b.memKept t ∧ b.coresKept t ∧ t.cardAt s.arg.n = some d ∧
        d.err = fails 3 ∧ (c.err = 0 → ∀ x, Granule.atom x ∉ d.granules)) ∧
    (s.cardOpen c = false → exec .cardGranule s = .next s) ∧
    (∀ g, c.granules[i]? = some g → g.ready c = false → exec .cardGranule s = .next s) ∧
    (∀ u, c.granules[i]? = some (.atom u) → i ≠ State.nextUnit c → exec .cardGranule s = .next s) ∧
    (s.cardDue c = true → c.err = 0 → c.pt < 8 →
      (∀ x ∈ s.cards, x.core = k → x.group = c.group → x.id ≠ c.id → x.ended = true ∧ x.err = 0) →
      let p := s.performAt c.id c.scope
      ∃ t : State, exec .cardEnd s = .next t ∧ p.memKept t ∧ (t.coreOf k).mem = (s.coreOf k).mem ∧
        (∀ w ∈ t.late, State.lateOf c.id c.scope w = false) ∧
        (t.coreOf k).reg = (s.coreOf k).reg.setTok c.pt .done ∧ (t.coreOf k).reg.getTok c.pt = .done ∧
        (∀ j, j ≠ c.pt → (t.coreOf k).reg.getTok j = (s.coreOf k).reg.getTok j) ∧
        (∀ x ∈ t.cards, ¬ (x.core = k ∧ x.group = c.group)) ∧ ∀ j, j ≠ k → t.coreOf j = p.coreOf j) ∧
    (s.cardDue c = true → c.err ≠ 0 → c.err < 16 → c.pt < 8 → c.handle < 2 ^ 16 →
      (∀ x ∈ s.cards, x.core = k → x.group = c.group → x.id ≠ c.id → x.ended = true) →
      let p := s.performAt c.id c.scope
      let e := fun (t : State) => (t.coreOf k).sys.carderr;
      ∃ t : State, exec .cardEnd s = .next t ∧ p.memKept t ∧ (t.coreOf k).mem = (s.coreOf k).mem ∧
        (t.coreOf k).reg = (s.coreOf k).reg.setTok c.pt .error ∧ (t.coreOf k).reg.getTok c.pt = .error ∧
        (∀ j, j ≠ c.pt → (t.coreOf k).reg.getTok j = (s.coreOf k).reg.getTok j) ∧
        (e t).getLsbD 63 = true ∧ bits (e t) 15 0 = min 0xFFFF (bits (e s) 15 0 + 1) ∧
        ((e s).getLsbD 63 = false → bits (e t) 62 60 = c.op.num ∧ bits (e t) 59 56 = c.err ∧ bits (e t) 55 53 = c.pt ∧
          bits (e t) 47 32 = c.handle) ∧
        ((e s).getLsbD 63 = true → bits (e t) 62 16 = bits (e s) 62 16) ∧
        (∀ x ∈ t.cards, ¬ (x.core = k ∧ x.group = c.group)) ∧ ∀ j, j ≠ k → t.coreOf j = p.coreOf j) ∧
    (s.cardDue c = false → exec .cardEnd s = .next s)

/-- Link transfers complete (rules R133, R322 to R324): a send and a receive of one port and tag pair up, different lengths are an
error of kind 7, and a zero length ends on the next cycle; a paired receive takes the peer's next bytes, at most 64, from where
it stands, and the words that arrive poisoned are poisoned; a receive-and-add adds each whole element of them to the one that stands
there, and leaves the bytes of an element that does not arrive whole; a send reads as many of its own bytes and changes none; a source word in error makes the transfer one of KIND 2. Nothing moves once the port
is not up or a flit was uncorrectable. A transfer that has moved its bytes, or that a dead port or an uncorrectable flit has stopped, ends by signalling its semaphore, which saturates at
0xFFFF; its error is recorded in CARDERR with OP 7, and a signal to a full semaphore is one of KIND 6. Where nothing pairs, and where a
transfer is not due, nothing changes. -/
def Obligations.LinkTransfersComplete : Prop :=
  ∀ (s : State),
    let open_ := s.links.find? (State.openLink s.arg.n s.arg.m (s.arg.sel == 0))
    let sum := fun (ty : RaddType) (x y : Nat) => match ty with
      | .f32 => fAdd .f32 .rne x y | .f16 => fAdd .f16 .rne x y | .bf16 => fAdd .bf16 .rne x y | .i32 => (x + y) % 2 ^ 32
    let post := s.module.peers.find? (fun q => q.port == s.arg.n && q.tag == s.arg.m && q.sends != (s.arg.sel == 0))
    (open_ = none ∨ post = none → exec .linkPair s = .next s) ∧
    (∀ l p, open_ = some l → post = some p →
      ∃ (t : State) (l' : LinkXfer), exec .linkPair s = .next t ∧
        t.links = s.links.map (fun x => if x.id == l.id then l' else x) ∧
        (∃ e, l' = { l with paired := some p.post, err := if l.len = p.post.len then 0 else 7, endAt := some e } ∧ s.cycle < e ∧
          (l.len = 0 → e = s.cycle + 1)) ∧
        t.module = { s.module with peers := s.module.peers.erase p } ∧ s.memKept t ∧ s.coresKept t) ∧
    (∀ l, s.links.find? (fun x => x.id == s.arg.n) = some l →
      let k := l.core
      (∀ p, s.arg.sel = 2 → l.op = .recv → l.paired = some p → p.bytes.length = p.len →
        let n := min 64 (min l.len p.len - l.moved)
        let dst := fun (i : Nat) => canon (l.addr / 64 * 64 + l.moved + i)
        (n = 0 → exec .shuttleFlitHop s = .next s) ∧
        (0 < n → s.linkHalted l = false → ∃ t : State, exec .shuttleFlitHop s = .next t ∧ s.memKept t ∧
          t.links = s.links.map (fun x => if x.id == l.id then { x with moved := l.moved + n } else x) ∧
          (∀ i, i < n → (t.coreOf k).mem.loc.read (dst i) = p.bytes.getD (l.moved + i) 0) ∧
          (∀ i, i < n → p.bad.contains ((l.moved + i) / 16) = true → (t.coreOf k).mem.bad.contains (dst i / 16) = true) ∧
          (∀ x, (∀ i, i < n → x ≠ dst i) → (t.coreOf k).mem.loc.read x = (s.coreOf k).mem.loc.read x) ∧
          (t.coreOf k).reg = (s.coreOf k).reg ∧ ∀ j, j ≠ k → t.coreOf j = s.coreOf j)) ∧
      (∀ p, s.arg.sel = 2 → l.op = .send → l.paired = some p →
        let n := min 64 (min l.len p.len - l.moved)
        let bad := (List.range n).any (fun i => (s.coreOf k).mem.bad.contains (canon (l.addr / 64 * 64 + l.moved + i) / 16))
        (n = 0 → exec .shuttleFlitHop s = .next s) ∧
        (0 < n → s.linkHalted l = false → ∃ t : State, exec .shuttleFlitHop s = .next t ∧ s.memKept t ∧ s.dataKept t ∧
          t.links = s.links.map (fun x => if x.id == l.id then { x with
            moved := l.moved + n, err := if bad && x.err == 0 then 2 else x.err } else x) ∧
          ∀ j, j ≠ k → t.coreOf j = s.coreOf j)) ∧
      (∀ p ty, s.arg.sel = 2 → l.op = .radd ty → l.paired = some p → p.bytes.length = p.len →
        let n := min 64 (min l.len p.len - l.moved)
        let w := (match ty with | .f32 => 4 | .i32 => 4 | .f16 => 2 | .bf16 => 2)
        let dst := fun (i : Nat) => canon (l.addr / 64 * 64 + l.moved + i)
        let bad := (List.range n).any (fun i => (s.coreOf k).mem.bad.contains (dst i / 16))
        let old := fun (i : Nat) => ofBytes ((List.range w).map (fun b => (s.coreOf k).mem.loc.read (dst (i / w * w + b))))
        let new := fun (i : Nat) => ofBytes ((List.range w).map (fun b => p.bytes.getD (l.moved + i / w * w + b) 0))
        (n = 0 → exec .shuttleFlitHop s = .next s) ∧
        (0 < n → s.linkHalted l = false → ∃ t : State, exec .shuttleFlitHop s = .next t ∧ s.memKept t ∧
          t.links = s.links.map (fun x => if x.id == l.id then { x with
            moved := l.moved + n, err := if bad && x.err == 0 then 2 else x.err } else x) ∧
          (∀ i, i < n / w * w → (t.coreOf k).mem.loc.read (dst i) = (toBytes w (sum ty (old i) (new i))).getD (i % w) 0) ∧
          (∀ i, i < n / w * w → p.bad.contains ((l.moved + i) / 16) = true ∨ (s.coreOf k).mem.bad.contains (dst i / 16) = true →
            (t.coreOf k).mem.bad.contains (dst i / 16) = true) ∧
          (∀ x, (∀ i, i < n / w * w → x ≠ dst i) → (t.coreOf k).mem.loc.read x = (s.coreOf k).mem.loc.read x) ∧
          (t.coreOf k).reg = (s.coreOf k).reg ∧ ∀ j, j ≠ k → t.coreOf j = s.coreOf j)) ∧
      (s.arg.sel = 2 → s.linkHalted l = true → exec .shuttleFlitHop s = .next s) ∧
      (s.linkDue l = true →
        ∃ t : State, exec .linkEnd s = .next t ∧ s.memKept t ∧ t.links = s.links.filter (fun x => x.id != s.arg.n) ∧
          (t.coreOf k).mem = (s.coreOf k).mem ∧
          (t.coreOf k).reg = (s.coreOf k).reg.setSem l.sem
            (if (s.coreOf k).reg.getSem l.sem = 0xFFFF then 0xFFFF else (s.coreOf k).reg.getSem l.sem + 1) ∧
          (let e := fun (t : State) => (t.coreOf k).sys.carderr;
            (l.err ≠ 0 ∨ (s.coreOf k).reg.getSem l.sem = 0xFFFF → (e t).getLsbD 63 = true) ∧
            (l.err = 0 → (s.coreOf k).reg.getSem l.sem ≠ 0xFFFF → e t = e s) ∧
            ((e s).getLsbD 63 = false → l.err ≠ 0 → l.err < 16 → bits (e t) 62 60 = 7 ∧ bits (e t) 59 56 = l.err) ∧
            ((e s).getLsbD 63 = false → l.err = 0 → (s.coreOf k).reg.getSem l.sem = 0xFFFF →
              bits (e t) 62 60 = 7 ∧ bits (e t) 59 56 = 6)) ∧
          ∀ j, j ≠ k → t.coreOf j = s.coreOf j) ∧
      (s.linkDue l = false → exec .linkEnd s = .next s))

/-! ### The fabric -/

/-- The exchange plane, slot maps and trace complete (rules R72, R75 to R79, R86 to R88, R392, R413). With one active, sound
entry, a router sends the word of the input that the entry names over every link it names, one cycle later, three more across a
selvedge, plus PAD and detour. HTAB and HDIR are written while the partition is halted, and are left as they are while it runs
(what counts as halted is log entry 72). A SHMAP write that leaves a reserved class, or no management slot, sets SHSTAT.REFUSED
alone; another waits for the period, which then takes it (a write is checked against the map accepted last, log entry 89; the
region's count is its first reticle's, log entry 85). A trace record leaves its core for its router. The oldest of a router's
queue for one output hops, in a slot of the trace class that no other flit has taken, over a selvedge that is not cut and into a
queue with room, and is written to its ring, or counted as dropped while TRRING.V is 0, when the core's next record will carry
LOST. A trace flit's way, hop by hop from queue to queue, is the model's choice (log entry 16), as is the timing of its slots (log
entry 85) and that a cut selvedge stops it (log entry 86). -/
def Obligations.FabricEventsComplete : Prop :=
  ∀ (s : State),
    let n := s.arg.n
    let r := s.arg.region
    let x := s.tileAt n
    let g := s.region r
    let (rx, ry) := s.ringRouter r
    (∀ pc o e w, s.phaseAt n = some (pc, o) → activeEntries x pc o = [e] → entryBad e.2 = false →
      s.arriving n (bits e.2 15 13) = some w →
      ∃ t : State, exec .routerSwitch s = .next t ∧ s.memKept t ∧ s.dataKept t ∧
        ∀ q u cross, q < 4 → e.2.getLsbD (7 + q) = true → State.tileBeyond n q = some (u, cross) →
          (cross && (s.ret (reticleOf (2 * n))).xfence.getLsbD q) = false →
          ∃ f ∈ t.flits, f.tile = u ∧ f.port = (q + 2) % 4 ∧ f.sender = n ∧ f.word = w.1 ∧ f.poison = w.2 ∧
            f.arrive = s.cycle + 1 + (x.pad + x.detour) + (if cross then 3 else 0)) ∧
    ((match s.partOf (2 * n) with | some p => s.halted p | none => true) = true → s.arg.off < 0x8400 →
      (x.htab.map (·.1)).Pairwise (· < ·) → (x.hdir.map (·.1)).Pairwise (· < ·) →
      ∃ t : State, exec .heddleTableWrite s = .next t ∧ s.coresKept t ∧ s.memKept t ∧
        (s.arg.off < 0x8000 → (t.tileAt n).hdir = x.hdir ∧
          ∀ i, tableGet (t.tileAt n).htab i = if i = s.arg.off / 8 then s.arg.value else tableGet x.htab i) ∧
        (0x8000 ≤ s.arg.off → (t.tileAt n).htab = x.htab ∧
          let j := (s.arg.off - 0x8000) / 8 * 2
          ∀ i, tableGet (t.tileAt n).hdir i =
            if i = j then s.arg.value &&& 0x1FFFFFF
            else if i = j + 1 then (s.arg.value >>> 32) &&& 0x1FFFFFF else tableGet x.hdir i)) ∧
    ((match s.partOf (2 * n) with | some p => s.halted p | none => true) = false → exec .heddleTableWrite s = .next s) ∧
    (let m := g.shnext.setIfInBounds n s.arg.value
      let class_ := fun (k : Nat) => bits (m.getD (k / 16) 0) (4 * (k % 16) + 3) (4 * (k % 16));
      ((∃ k, k < 64 ∧ 6 ≤ class_ k ∧ class_ k < 15) ∨ (∀ k, k < 64 → class_ k ≠ 5) →
        exec .shmapWrite s = .next (s.putRegion r { g with shstat := g.shstat ||| 1 })) ∧
      ((∀ k, k < 64 → class_ k < 6 ∨ class_ k = 15) → (∃ k, k < 64 ∧ class_ k = 5) →
        exec .shmapWrite s = .next (s.putRegion r { g with shnext := m }))) ∧
    (let p := (s.loomOf ((regionReticles r).headD 0)).toNat / 4096;
      ((∀ q, g.period = some q → q ≤ p) → ∃ st : Word,
        bits st 31 0 = bits g.shstat 31 0 ∧ bits st 63 32 = (bits g.shstat 63 32 + 1) % 2 ^ 32 ∧
        exec .shuttlePeriodStart s = .next (s.putRegion r { g with shmap := g.shnext, shstat := st, period := some p })) ∧
      (∀ q, g.period = some q → p < q → exec .shuttlePeriodStart s = .next (s.putRegion r { g with period := some p }))) ∧
    (bits s.arg.value 4 0 < 7 ∨ 24 < bits s.arg.value 4 0 → exec .trringWrite s = .next s) ∧
    (7 ≤ bits s.arg.value 4 0 → bits s.arg.value 4 0 ≤ 24 →
      exec .trringWrite s = .next (s.putRegion r { g with trring := s.arg.value &&& 0x80FFFFFFFFFFF01F })) ∧
    (∀ k tr rest, s.arg.sel = 0 → s.arg.core = k → regionOf k = r → (s.coreOf k).aux.traceQ = tr :: rest →
      (s.traceQueue (blockOf k) (State.nextBlock (blockOf k) rx ry)).length < 4 →
      exec .shuttleFlitHop s = .next ((s.onCore k (fun c => { c with aux := { c.aux with traceQ := rest } })).putRegion r
        { g with flits := g.flits ++ [{ block := blockOf k, ready := s.cycle + 1, record := tr }] })) ∧
    (∀ f, g.flits[n]? = some f →
      let out := State.nextBlock f.block rx ry
      let u := { s with hopped := (f.block, out) :: s.hopped }
      let turn := f.ready ≤ s.cycle ∧ (∀ h ∈ s.traceQueue f.block out, f.ready ≤ h.ready) ∧ s.traceSlot f.block = true ∧
        (f.block, out) ∉ s.hopped;
      (∀ b, out = some b → s.arg.sel = 1 →
        let open_ := s.linkWhole f.block b = true ∧ (s.traceQueue b (State.nextBlock b rx ry)).length < 4;
        (turn → open_ → exec .shuttleFlitHop s = .next (u.putRegion r { g with flits := g.flits.set n { f with
          block := b, ready := s.cycle + 1 + (if f.block / 16 = b / 16 then 0 else 3) } })) ∧
        (¬ (turn ∧ open_) → exec .shuttleFlitHop s = .next s)) ∧
      (out = none → turn → g.trring.getLsbD 63 = false → exec .traceRecordWrite s = .next ((u.putRegion r { g with
        flits := g.flits.eraseIdx n, trdrop := min 0xFFFFFFFF (g.trdrop + 1) }).onCore (bits f.record.w1 63 48) (fun c =>
          { c with aux := { c.aux with lost := true } }))) ∧
      (out = none → turn → g.trring.getLsbD 63 = true →
        let a := bits g.trring 55 12 * 4096 + 32 * (g.trhead.toNat % 2 ^ bits g.trring 4 0)
        exec .traceRecordWrite s = .next ((u.putRegion r { g with
          flits := g.flits.eraseIdx n, trhead := g.trhead + 1 }).writeMem a
            ([f.record.w0, f.record.w1, f.record.w2, f.record.w3].flatMap (fun w => toBytes 8 w.toNat)))) ∧
      (out.isSome = true ∨ ¬ turn → exec .traceRecordWrite s = .next s))

/-- Loom alignment completes (rules R82 to R85). A reticle whose count brings a round sends a sample of the count over every
selvedge that takes part, and the round is open; another sample that an extra round beyond asks for changes nothing else. A sample
that arrives gives the own count less the sample's and SELDLY as δ and joins the round, which the first one begins; the round is over
once every selvedge that takes part has given one, or after half the time to the next. It is then classified: all δ 0
leaves the copy as it is; one nonzero δ of all of them below 4,096 makes a repair of it pending, a larger one waits for the
realignment alone and no repair is pending any more, and the context bound there has a loss pending when δ is that large or an
exchange phase of its partition met the window since the round before. A pending repair that may be applied is: the copy jumps
forward by −δ, or stands still for δ cycles. What is not due changes nothing. Rounds by each reticle's own count, which
samples make one, and their window, are log entry 12; a sample to a neighbour outside the partition is log entry 84; and how a slip of 4,096 or more is mended
is log entry 23. -/
def Obligations.LoomAlignmentCompletes : Prop :=
  ∀ (s : State) (r : Nat) (d : Int), s.arg.ret = r → r < 48 →
    let x := s.ret r
    let n := s.loomOf r
    let kept := fun (t : State) => s.coresKept t ∧ s.memKept t ∧ t.loomOf r = s.loomOf r ∧ ∀ q, q ≠ r → t.ret q = s.ret q
    let sent := fun (t : State) (sels : List Nat) => ∀ sel ∈ sels, ∀ q, State.neighbour r sel = some q →
      ({ ret := q, sel := (sel + 2) % 4, arrive := s.cycle + State.crossing r sel, count := n } : Sample) ∈ t.samples
    let ds := x.deltas.filterMap (fun e => e.2.map (fun δ => (e.1, δ)))
    (s.arg.m = 0 → s.roundDue r = false → exec .loomSampleRound s = .next s) ∧
    (s.arg.m = 0 → s.roundDue r = true → s.opensRound r = true → ∃ t : State, exec .loomSampleRound s = .next t ∧ kept t ∧
      sent t (s.alignSels r) ∧ t.ret r = { x with round := some n, aln := false } ∧ t.parts = s.parts) ∧
    (s.arg.m = 0 → s.roundDue r = true → s.opensRound r = false → ∃ t : State, exec .loomSampleRound s = .next t ∧
      t = { s with samples := t.samples } ∧ sent t (s.sampleSels r)) ∧
    (∀ sel a, x.loomOn = true → sel ∈ s.alignSels r → (r, sel) ∉ s.badSamples →
      (a.toNat % 65536 = 0 ∨ x.aln = true ∨ ∃ b : Word, x.round = some b ∧ b.toNat % 65536 ≠ 0) →
      let δ := (n - (a + BitVec.ofNat 64 (s.selDelay r sel))).toInt
      let after := s.sampleArrives { ret := r, sel := sel, arrive := s.cycle, count := a }
      (x.deltas = [] → after = s.putRet r { x with
        before := x.opened, opened := s.cycle - s.selDelay r sel, deltas := [(sel, some δ)] }) ∧
      (x.deltas ≠ [] → (∀ e ∈ x.deltas, e.1 ≠ sel) → after = s.putRet r { x with deltas := x.deltas ++ [(sel, some δ)] })) ∧
    (s.roundOver r = true ↔ x.deltas ≠ [] ∧
      ((∀ sel ∈ s.alignSels r, ∃ e ∈ x.deltas, e.1 = sel) ∨ x.opened + 32768 ≤ s.cycle)) ∧
    (s.arg.m ≠ 0 → s.roundOver r = false → exec .loomSampleRound s = .next s) ∧
    (s.arg.m ≠ 0 → s.roundOver r = true →
      ((∀ e ∈ ds, e.2 = 0) → ∃ t : State, exec .loomSampleRound s = .next t ∧ kept t ∧ t.parts = s.parts ∧
        (t.ret r).deltas = [] ∧ (t.ret r).round = none ∧ (t.ret r).repair = x.repair ∧ (t.ret r).loomst = x.loomst) ∧
      (ds ≠ [] → (∀ e ∈ ds, e.2 = d) → d ≠ 0 → ∃ t : State, exec .loomSampleRound s = .next t ∧ kept t ∧
        (t.ret r).deltas = [] ∧ (t.ret r).round = none ∧
        (d.natAbs < 4096 → (t.ret r).repair = some d ∧ (t.ret r).realign = none ∧ (t.ret r).loomst.getLsbD 0 = true) ∧
        (4096 ≤ d.natAbs → (t.ret r).repair = none ∧ (t.ret r).realign = some d ∧ (t.ret r).loomst.getLsbD 0 = false) ∧
        (s.ctxOf (1024 * r) = none → t.parts = s.parts) ∧
        ∀ p y, s.ctxOf (1024 * r) = some (p, y) → p < 16 →
          let lost := 4096 ≤ d.natAbs ∨ s.exchangedIn p x.before x.opened = true;
          (lost → (t.ret r).loomst.getLsbD 1 = true ∧
            ∃ l : Loss, l.cause = 0x0B ∧ (t.part p).ctx = some { y with losses := y.losses ++ [l] }) ∧
          (¬ lost → t.parts = s.parts))) ∧
    (x.repair = none ∨ s.repairTime r = false → exec .loomRepair s = .next s) ∧
    (x.repair = some d → s.repairTime r = true → ∃ t : State, exec .loomRepair s = .next t ∧ s.coresKept t ∧ s.memKept t ∧
      (t.ret r).repair = none ∧ (t.ret r).loomst.getLsbD 0 = false ∧
      bits (t.ret r).loomst 63 48 = min 0xFFFF (bits x.loomst 63 48 + 1) ∧
      (d < 0 → x.loomOn = true → t.loomOf r = s.loomOf r - BitVec.ofInt 64 d) ∧
      (0 ≤ d → (t.ret r).stall = d.toNat ∧ t.loomOf r = s.loomOf r))

/-! ### Supersteps and launches -/

/-- Barriers, exchange phases and stragglers complete (rules R165, R167 to R169, R171, R342, R343, R372, R373). A due barrier
with no error, loss or pre-emption starts the exchange phase of its entry: waiting cores run on this cycle, and on every core
that has not halted XZERO is the loom count and PHNUM[32] is set; an empty phase is over at once. A pending loss takes effect
instead, and a pre-emption at a safe barrier starts draining. An exchange phase that is over begins the next compute phase,
with PHNUM counted on every core that has not halted and no word left on the partition's links; the start-cycle register takes the loom
count (rule R350; that it is that of the partition's first reticle is log entry 13), and the phase's window is kept for slips found later
(how long is log entry 12); a loss pending then takes effect. A straggler event reports, or loses the context, or marks the cores that have not arrived; a loss pending before it
takes effect. -/
def Obligations.SuperstepsComplete : Prop :=
  ∀ (s : State) (p : Nat) (x : Context), s.arg.part = p → p < 16 → (s.part p).ctx = some x →
    let e := State.phaseOf x
    let due := x.x0.any (fun t => decide (t ≤ s.cycle)) = true ∧ s.stopped p = false ∧
      ∀ c ∈ s.coresIn p, c.sys.carderr.getLsbD 63 = false
    let calm := fun (c b : Core) => c.idx = b.idx ∧ c.reg = b.reg ∧ c.mem.loc = b.mem.loc ∧ c.mem.imem = b.mem.imem ∧ c.trap = b.trap
    let next := fun (y : Context) => { y with
      step := (y.step + 1) % 2 ^ 32, start := s.cycle, moved := 0, fired := false, cut := false, xphase := none, x0 := none
      repairEnd := 0 }
    let begun := { x with began := x.began.or (some s.cycle) }
    (due → x.losses = [] → bits (s.part p).preq 1 0 ≠ 1 ∨ s.safeBarrier p = false →
      ∃ t : State, exec .barrierComplete s = .next t ∧ s.memKept t ∧
        (t.part p).ctx = some (if e.xlen = 0 then next begun else { begun with xphase := some (s.cycle, e.xlen, e.pcode), x0 := none }) ∧
        ∀ c ∈ t.coresIn p, ∃ b ∈ s.coresIn p, calm c b ∧
          (b.ctl.mode = .barrier → c.ctl.mode = .running ∧ c.ctl.wake = s.cycle) ∧
          (b.ctl.mode = .halted → c.ctl = b.ctl ∧ c.sys = b.sys) ∧
          (b.ctl.mode ≠ .halted → c.sys.xzero = s.loomOf (reticleOf c.idx) ∧
            c.sys.phnum = if e.xlen = 0 then (b.sys.phnum.setWidth 32 + 1).setWidth 64 else b.sys.phnum ||| (1 <<< 32))) ∧
    (due → x.losses ≠ [] → ∃ t : State, exec .barrierComplete s = .next t ∧ s.memKept t ∧
      (t.part p).ctx.map (·.stage) = some .lost ∧ ∀ c ∈ t.coresIn p, c.ctl.mode = .unbound ∧ c.ctl.lands = [] ∧ c.ctl.claims = []) ∧
    (due → x.losses = [] → bits (s.part p).preq 1 0 = 1 → s.safeBarrier p = true →
      exec .barrierComplete s = .next (s.onCtx p (fun y => { y with stage := .draining, x0 := none }))) ∧
    (x.x0 = none ∨ s.stopped p = true → exec .barrierComplete s = .next s) ∧
    (∀ x0 n pc, x.xphase = some (x0, n, pc) → x0 + n ≤ s.cycle → x.losses = [] →
      ∃ t : State, exec .exchangePhaseEnd s = .next t ∧ s.memKept t ∧
        (t.part p).ctx = some (next x) ∧ (t.part p).pstart = s.partLoom p ∧
        (t.part p).past = (x0, x0 + n - 1) :: (s.part p).past.filter (fun e => decide (s.cycle < e.2 + 2 ^ 18)) ∧
        (∀ f ∈ t.flits, f ∈ s.flits ∧ (s.partRegions p).contains (regionOf (2 * f.tile)) = false) ∧
        ∀ c ∈ t.coresIn p, ∃ b ∈ s.coresIn p, calm c b ∧ (b.ctl.mode = .halted → c.sys = b.sys) ∧
          (b.ctl.mode ≠ .halted → c.sys.phnum = (b.sys.phnum.setWidth 32 + 1).setWidth 64)) ∧
    (∀ x0 n pc, x.xphase = some (x0, n, pc) → x0 + n ≤ s.cycle → x.losses ≠ [] →
      ∃ t : State, exec .exchangePhaseEnd s = .next t ∧ s.memKept t ∧ (t.part p).ctx.map (·.stage) = some .lost) ∧
    ((∀ x0 n pc, x.xphase = some (x0, n, pc) → s.cycle < x0 + n) → exec .exchangePhaseEnd s = .next s) ∧
    (s.stragglerDue p x = false → exec .stragglerEvent s = .next s) ∧
    (s.stragglerDue p x = true → x.losses ≠ [] → ∃ t : State, exec .stragglerEvent s = .next t ∧ s.memKept t ∧
      (t.part p).pbar.getLsbD 1 = true ∧ (t.part p).ctx.map (·.stage) = some .lost) ∧
    (s.stragglerDue p x = true → x.losses = [] →
      let pol := bits (s.part p).pbar 7 6
      ∃ t : State, exec .stragglerEvent s = .next t ∧ s.memKept t ∧ (t.part p).pbar.getLsbD 1 = true ∧
        bits (t.part p).pbar 15 8 = min 0xFF (bits (s.part p).pbar 15 8 + 1) ∧ (t.part p).ctx.map (·.fired) = some true ∧
        (2 ≤ pol → (t.part p).ctx.map (·.stage) = some .lost) ∧
        (pol < 2 → x.launch.queue < 64 → x.launch.slot < 2 ^ 16 → (t.part p).ctx = some { x with fired := true, cut := false } ∧
          ∃ r, (t.queue x.launch.queue).pending = (s.queue x.launch.queue).pending ++ [r] ∧
            bits (r.words.getD 0 0) 63 56 = 0x10 ∧ r.words.getD 3 0 = BitVec.ofNat 64 (s.firstMissing p)) ∧
        (pol = 0 → s.coresKept t) ∧
        (pol = 1 → ∀ c ∈ t.coresIn p, ∃ b ∈ s.coresIn p, calm c { b with trap := c.trap } ∧ c.ctl = b.ctl ∧
          (State.coreArrived b = true → c = b) ∧
          (State.coreArrived b = false → ∃ k, c.trap.pend = b.trap.pend ++ [k] ∧ k.code = 0x0E)))

/-- Launches start, trigger and end (rules R153, R155, R164, R334 to R336, R365, R366, R372 to R375, R404, R418). A bound launch
whose waits are closed gets its start once no repair of its loom copies is pending or under way, the cards that its bind's end
releases early first (log entries 57 and 92): S0 is a later cycle of even loom count, by the partition's first reticle (log entry
13), and the regions of the partition start 320 · STAG cycles apart. One whose wait has failed is discarded with DEPENDENCY_FAILED
once its cards have ended, or lost when a loss is pending. A region that starts runs its bound cores on this cycle. The trigger of
a core is delivered once its cards have ended and their writes are performed at module scope, and the last of a launch counts. A
launch that is over leaves PSIG, is unbound and has DONE due, which will count its counter; with an error or a loss it is lost
instead. A loss that is due stops every core; once cards and links have ended it freezes the queue, is unbound and has
CONTEXT_LOST or IMAGE_GONE due. A write of TSTOP with CMD = 1 resumes a stopped partition, where a core behind PHASE.END may meet
a further cause (log entry 71), unless a core holds a double trap, which is a loss. Where an event's condition does not hold, it
changes nothing. -/
def Obligations.LaunchesComplete : Prop :=
  (∀ (s : State) (ids : List Nat),
    let k := s.arg.core
    let u := s.onCore k (fun c => { c with aux := { c.aux with delivered := true } })
    let waits := ∃ i ∈ ids, (∃ c ∈ s.cards, c.id = i) ∨ ∃ w ∈ s.late, w.card = i ∧ w.link.isSome = true
    let last := fun (p : Nat) (x : Context) => x.trgDone = false ∧ x.stage ≠ .lost ∧ ∀ c ∈ u.coresIn p, c.aux.delivered = true
    ((s.coreOf k).aux.trigger = none ∨ (s.coreOf k).aux.delivered = true → exec .triggerDelivered s = .next s) ∧
    ((s.coreOf k).aux.trigger = some ids → (s.coreOf k).aux.delivered = false →
      (waits → exec .triggerDelivered s = .next s) ∧
      (¬ waits → (s.ctxOf k = none → exec .triggerDelivered s = .next u) ∧
        ∀ p x, s.ctxOf k = some (p, x) →
          (¬ last p x → exec .triggerDelivered s = .next u) ∧
          (last p x → ∃ t : State, exec .triggerDelivered s = .next t ∧ u.coresKept t ∧ u.memKept t ∧ t.cards = s.cards ∧
            (t.part p).ctx = some { x with trgDone := true } ∧
            ∀ n, n < 256 → bits (t.sched.dtrg.getD n 0) 31 0 = if State.signalled x.launch = some n
              then (bits (s.sched.dtrg.getD n 0) 31 0 + 1) % 2 ^ 32 else bits (s.sched.dtrg.getD n 0) 31 0)))) ∧
  (∀ (s : State) (p : Nat) (x : Context), s.arg.part = p → p < 16 → (s.part p).ctx = some x →
    let ws := x.launch.words
    let r := s.arg.region
    let record := fun (t : State) (code : Nat) => x.launch.queue < 64 → x.launch.slot < 2 ^ 16 →
      ∃ e, (t.queue x.launch.queue).pending = (s.queue x.launch.queue).pending ++ [e] ∧
        bits (e.words.getD 0 0) 63 56 = code ∧ bits (e.words.getD 0 0) 31 0 = bits (ws.getD 0 0) 31 0 ∧
        e.tag = x.tag ∧ e.image = x.image.handle ∧ e.counter = if code = 0 then State.signalled x.launch else none
    let bound := (∃ n, x.stage = .binding n ∧ n ≤ s.cycle) ∨ x.stage = .waiting
    let u := if x.stage = .waiting then s else s.bindOver p
    let rs := (u.partRegions p).mergeSort (fun a b => decide (a ≤ b))
    let starts := fun (i : Instr) => ∃ s0 last : Nat, u.cycle < s0 ∧ ((u.partLoom p).toNat + (s0 - u.cycle)) % 2 = 0 ∧
      let ss := ((List.range rs.length).zip rs).map (fun e => (e.2, s0 + 320 * bits u.module.mstag 3 0 * e.1))
      s0 ≤ last ∧ (∀ e ∈ ss, e.2 ≤ last) ∧ exec i s = .next (u.drawn.onCtx p (fun y => { y with
        stage := .starting, starts := ss, lastStart := last, start := last, began := some s0 }))
    let lost := fun (t : State) => s.memKept t ∧ (t.part p).ctx.map (·.stage) = some .lost ∧
      ∀ c ∈ t.coresIn p, c.ctl.mode = .unbound ∧ c.ctl.lands = [] ∧ c.ctl.claims = []
    let again := fun (c : Core) => c.ctl.mode = .frozen .deferred ∧ (∃ sh, c.trap.shadow = some sh ∧ sh.waits = true) ∧
      ∃ q ∈ c.trap.pend, q.code < 0x0D
    (x.stage = .waiting ∨ (ws.getD 2 0).getLsbD 8 = true ∨ (State.waitUsed ws 0 || State.waitUsed ws 1) = false ∨
      s.producedOn p ws ≠ [] → u = s) ∧
    (bound → s.allClosed ws = true → s.loomQuiet p = true →
      starts .launchStart ∧ (s.anyFailed ws = false → starts .waitClosedStart)) ∧
    (¬ bound ∨ s.allClosed ws = false ∨ s.loomQuiet p = false → exec .launchStart s = .next s ∧
      (s.anyFailed ws = false → exec .waitClosedStart s = .next s)) ∧
    (s.anyFailed ws = true → (x.stage = .waiting → s.cardsEnded p = true → x.losses = [] →
        ∃ t : State, exec .waitClosedStart s = .next t ∧ s.memKept t ∧ (t.part p).ctx = none ∧ record t 6) ∧
      (x.stage = .waiting → s.cardsEnded p = true → x.losses ≠ [] →
        ∃ t : State, exec .waitClosedStart s = .next t ∧ lost t) ∧
      (x.stage ≠ .waiting ∨ s.cardsEnded p = false → exec .waitClosedStart s = .next s)) ∧
    (x.starts.any (fun e => e.1 == r && decide (e.2 ≤ s.cycle)) = true →
      ∃ t : State, exec .regionStart s = .next t ∧ s.memKept t ∧ t.cards = s.cards ∧
        (let rest := x.starts.filter (fun e => e.1 != r);
        (t.part p).ctx = some { x with starts := rest, stage := if rest.isEmpty then .running else .starting }) ∧
        ∀ c ∈ t.allCores, ∃ b ∈ s.allCores, b.idx = c.idx ∧ c.reg = b.reg ∧ c.mem = b.mem ∧ c.trap = b.trap ∧ c.sys = b.sys ∧
          (regionOf c.idx ≠ r → c = b) ∧
          (regionOf c.idx = r → c.aux = { b.aux with counting := true } ∧
            c.ctl = if b.ctl.mode = .bound then { b.ctl with mode := .running, wake := s.cycle } else b.ctl)) ∧
    (x.starts.any (fun e => e.1 == r && decide (e.2 ≤ s.cycle)) = false → exec .regionStart s = .next s) ∧
    (s.launchOver p x = false → exec .launchEnd s = .next s) ∧
    (s.launchOver p x = true → (∀ c ∈ s.coresIn p, c.sys.carderr.getLsbD 63 = false) → x.losses = [] →
      ∃ t : State, exec .launchEnd s = .next t ∧ s.memKept t ∧ (t.part p).ctx = none ∧ (t.part p).psig = s.psigOf p ∧
        (t.part p).marked = (State.signalled x.launch).or (s.part p).marked ∧ record t 0) ∧
    (s.launchOver p x = true → (∃ c ∈ s.coresIn p, c.sys.carderr.getLsbD 63 = true) ∨ x.losses ≠ [] →
      ∃ t : State, exec .launchEnd s = .next t ∧ lost t) ∧
    (x.losses = [] → exec .contextLoss s = .next s) ∧
    (x.losses ≠ [] → x.stage ≠ .lost → (s.lossNow p x = true → ∃ t : State, exec .contextLoss s = .next t ∧ lost t) ∧
      (s.lossNow p x = false → exec .contextLoss s = .next s)) ∧
    (∀ l, State.firstLoss x.losses = some l → x.stage = .lost →
      let ended := s.cardsEnded p = true ∧ s.linksEnded p true = true;
      (¬ ended → exec .contextLoss s = .next s) ∧
      (ended → ∃ t : State, exec .contextLoss s = .next t ∧ t.mem = s.mem ∧ t.poison = s.poison ∧
        (∀ b, b ∈ t.retired ↔ b ∈ s.retired ∨ (b ∈ s.spoiled p x ∧ dpaClass (b * 2 ^ 17) ≤ 1)) ∧
        (t.part p).ctx = none ∧ (t.part p).psig = 0 ∧
        (x.launch.queue < 64 → (t.queue x.launch.queue).qcfg.getLsbD 2 = true) ∧
        (l.cause < 256 → record t (if l.cause = 0x10 then 9 else 8)))) ∧
    (bits s.arg.value 1 0 ≠ 1 ∨ s.stopped p = false → exec .tstopResume s = .next s) ∧
    (bits s.arg.value 1 0 = 1 → s.stopped p = true →
      ((∃ c ∈ s.coresIn p, State.holdsDouble c = true) → ∃ (t : State) (l : Loss), exec .tstopResume s = .next t ∧ s.coresKept t ∧
        s.memKept t ∧ t.stopped p = true ∧ l.cause = 0x11 ∧ (t.part p).ctx = some { x with losses := x.losses ++ [l] }) ∧
      ((∀ c ∈ s.coresIn p, State.holdsDouble c = false) →
        ∃ t : State, exec .tstopResume s = .next t ∧ s.memKept t ∧ t.cards = s.cards ∧ (t.part p).dstop = 0 ∧
          ((∀ c ∈ s.coresIn p, ¬ again c) → t.stopped p = false ∧ (t.part p).tstop = 0) ∧
          ∀ k, let b := s.coreOf k
            let c := t.coreOf k
            let resumes := (s.partRegions p).contains (regionOf k) = true
            (¬ resumes ∨ (∀ w, b.ctl.mode ≠ .frozen w) → c = b) ∧
            (∀ w, resumes → b.ctl.mode = .frozen w → w ≠ .deferred → c = { b with ctl := { b.ctl with
              mode := .running, wake := if s.cycle % 2 = b.ctl.wake % 2 then s.cycle else s.cycle + 1 } }) ∧
            (resumes → again b →
              ∀ q, State.firstPending { b with trap := { b.trap with tcause := 0 } } = some q → c.mem = b.mem ∧ bits c.trap.tcause 7 0 = q.code) ∧
            (resumes → b.ctl.mode = .frozen .deferred → ¬ again b → c.mem = b.mem ∧ c.sys = b.sys ∧ c.inTrap = false ∧
              s.cycle ≤ c.ctl.wake ∧
              (∀ sh, b.trap.shadow = some sh → c.ctl.pc = b.trap.tepc.setWidth 18 ∧ c.ctl.idle = bits b.trap.tepc 30 24 + sh.more ∧
                c.reg = { b.reg with rotb := sh.rotb, loops := sh.loops, pairs := sh.pairs } ∧
                (sh.waits = true → c.ctl.mode = .barrier) ∧ (sh.waits = false → c.ctl.mode = .running))))))

/-! ### Images, queues and the sequencers -/

/-- Image operations complete (rules R327, R328, R370). A load sets GO and ends later: in error it keeps the images and reports
the code, else it adds the image under the lowest free handle. An unload frees an image that no context holds, and reports BUSY or
NO_HANDLE otherwise; a forced unload frees its handle at once (log entry 51), loses the bound contexts that hold the image and
drops the saved ones whose save has ended; what is left of it holds no image that a later load gives that handle. A reload of a
poisoned line takes the bytes of its code section, and zeros outside it; a source that is itself uncorrectable leaves the line as
it is and marks its block. -/
def Obligations.ImagesComplete : Prop :=
  ∀ (s : State),
    let q := s.sched
    let h := bits s.arg.value 15 8
    let err := fun (t : State) => bits t.sched.imgst 31 24
    (q.imgcmd.getLsbD 0 = false → ∃ (t : State) (u : Nat), exec .imageLoad s = .next t ∧ s.coresKept t ∧ s.memKept t ∧
      s.cycle < u ∧ t.sched.imgEnd = some u ∧ t.sched.imgcmd.getLsbD 0 = true ∧ bits t.sched.imgcmd 7 4 = 1 ∧
      t.sched.images = q.images) ∧
    (∀ u, q.imgEnd = some u → u ≤ s.cycle →
      let base := bits q.imgarg 55 6 * 64
      let size := bits q.imgsize 39 0
      ∃ t : State, exec .imageLoadEnd s = .next t ∧ s.coresKept t ∧ s.memKept t ∧ t.sched.imgcmd.getLsbD 0 = false ∧
        t.sched.imgEnd = none ∧ err t = s.loadError base size ∧
        (s.loadError base size ≠ 0 → t.sched.images = q.images) ∧
        (s.loadError base size = 0 → ∃ img : Image, t.sched.images = q.images ++ [img] ∧ img.dpa = base ∧ img.size = size ∧
          bits t.sched.imgst 47 40 = img.handle ∧ 1 ≤ img.handle ∧ img.handle ≤ 255 ∧ (∀ x ∈ q.images, x.handle ≠ img.handle) ∧
          ∀ j, 1 ≤ j → j < img.handle → ∃ x ∈ q.images, x.handle = j)) ∧
    (q.imgcmd.getLsbD 0 = false → ∃ t : State, exec .imageUnload s = .next t ∧ s.coresKept t ∧ s.memKept t ∧
      ((∀ x ∈ q.images, x.handle ≠ h) → err t = 6 ∧ t.sched.images = q.images) ∧
      ((∃ x ∈ q.images, x.handle = h) → 0 < s.holders h → err t = 5 ∧ bits t.sched.imgst 23 16 = min 0xFF (s.holders h) ∧
        t.sched.images = q.images) ∧
      ((∃ x ∈ q.images, x.handle = h) → s.holders h = 0 → err t = 0 ∧ t.sched.images = q.images.filter (fun x => x.handle != h))) ∧
    (q.imgcmd.getLsbD 0 = false → (∃ x ∈ q.images, x.handle = h) → ∃ t : State, exec .imageForcedUnload s = .next t ∧
      t.mem = s.mem ∧ s.dataKept t ∧ err t = 0 ∧ t.sched.images = q.images.filter (fun x => x.handle != h) ∧
      t.sched.saved = (q.saved.filter (fun v => !(v.image.handle == h && v.ready))).map (fun v =>
        { v with image := if v.image.handle = h then { v.image with handle := 0 } else v.image }) ∧
      ∀ p x, p < 16 → (s.part p).ctx = some x →
        (x.image.handle ≠ h → (t.part p).ctx = some x) ∧
        (x.image.handle = h → ∃ l : Loss, l.cause = 0x10 ∧ (t.part p).ctx = some { x with
          image := { x.image with handle := 0 }, losses := x.losses ++ [l] })) ∧
    (∀ e p x y, (s.coreOf s.arg.core).mem.reload.find? (fun e => e.1 == s.arg.n && decide (e.2 ≤ s.cycle)) = some e →
      s.ctxOf s.arg.core = some (p, x) →
      s.codeSection x.image (relIndex p (pdefWid (s.part p).pdef) s.arg.core) = some y →
      let k := s.arg.core
      let a := fun (i : Nat) => 64 * s.arg.n + i
      let inside := fun (i : Nat) => y.load ≤ a i ∧ a i < y.load + y.size
      let src := fun (i : Nat) => x.image.dpa + y.off + (a i - y.load)
      let sound := ∀ i, i < 64 → inside i → s.poisoned (src i) = false
      ∃ t : State, exec .imemLineReload s = .next t ∧ s.memKept t ∧ (t.coreOf k).reg = (s.coreOf k).reg ∧
        (t.coreOf k).mem.loc = (s.coreOf k).mem.loc ∧ (∀ j, j ≠ k → t.coreOf j = s.coreOf j) ∧
        (sound → (∀ i, i < 64 → inside i → (t.coreOf k).mem.imem.read (a i) = s.mem.read (src i)) ∧
          (∀ i, i < 64 → ¬ inside i → (t.coreOf k).mem.imem.read (a i) = 0) ∧
          (∀ z, z < a 0 ∨ a 64 ≤ z → (t.coreOf k).mem.imem.read z = (s.coreOf k).mem.imem.read z) ∧
          (∀ w, w < 4 → (t.coreOf k).mem.imemBad.contains (4 * s.arg.n + w) = false)) ∧
        (¬ sound → (t.coreOf k).mem.imem = (s.coreOf k).mem.imem ∧ (t.coreOf k).mem.imemBad = (s.coreOf k).mem.imemBad ∧
          ∃ y', (t.part p).ctx = some y' ∧ ∀ i, i < 64 → inside i → s.poisoned (src i) = true → src i / 2 ^ 17 ∈ y'.badBlocks))

/-- Partitions and host queues complete (rules R159, R161, R329 to R335, R385). PDEF takes its fields on an unbound partition, when it
is turned off or its rectangle fits, meets no other partition and holds no withheld region or cut selvedge; otherwise ERR is set
and the fields stay. A queue is created with sound fields and rings, thawed, and disabled while no context of it stands; QTAIL
moves unless it would overfill the ring. A head record is read once, each of its granules that is beyond correction entering the error
log with SRC 4 (rule R378), and checked, its image and shape again while it waits, and one that fails is refused with its code. A
completion record is written to its slot once there is room, and that of a launch that ended counts in END of its counter; its word 2 is
the loom count at that write (log entry 69), and it is the copy of reticle 0 for every partition (log entry 117). -/
def Obligations.QueuesComplete : Prop :=
  ∀ (s : State),
    let p := s.arg.part
    let n := s.arg.n
    let w := s.arg.value
    let q := s.part p
    let x := s.queue n
    let same := w &&& 0xFC01 = q.pdef &&& 0xFC01
    let taken := s.putPart p { q with pdef := fieldWrite q.pdef w 0xFC01 0x2 }
    let rs := rectRegions p (bits w 15 12) (bits w 11 10)
    let good := rectFits p (bits w 15 12) (bits w 11 10) = true ∧ s.cutInside rs = false ∧ (∀ r ∈ rs, s.withheld r = false) ∧
      ∀ o, o < 16 → o ≠ p → ∀ r ∈ s.partRegions o, r ∉ rs
    let free := q.ctx = none ∧ q.chosen = none
    (same → exec .pdefWrite s = .next taken) ∧
    (¬ same → free → w.getLsbD 0 = false ∨ good → exec .pdefWrite s = .next taken) ∧
    (¬ same → ¬ free ∨ (w.getLsbD 0 = true ∧ ¬ good) →
      exec .pdefWrite s = .next (s.putPart p { q with pdef := fieldWrite q.pdef w 0 0x2 ||| 2 })) ∧
    (n < 64 → x.on = false →
      let sound := bits w 63 48 = 1 ∧ 4 ≤ bits w 35 32 ∧ bits w 35 32 ≤ 12 ∧ s.baseOk x.base = true ∧ s.baseOk x.cbase = true
      ∃ t : State, exec .queueCreate s = .next t ∧ s.coresKept t ∧ s.memKept t ∧ (∀ m, m ≠ n → t.queue m = s.queue m) ∧
        (sound → (t.queue n).on = true ∧ (t.queue n).pri = bits w 10 8 ∧ (t.queue n).part = bits w 43 40 ∧
          (t.queue n).log2n = bits w 35 32 ∧ (t.queue n).rev = 1 ∧ (t.queue n).tail = x.tail ∧ (t.queue n).hd = x.hd) ∧
        (¬ sound → (t.queue n).on = false ∧ (t.queue n).qcfg.getLsbD 1 = true)) ∧
    (n < 64 → x.on = true → ∃ t : State, exec .queueDisable s = .next t ∧ s.coresKept t ∧ s.memKept t ∧
      (∀ m, m ≠ n → t.queue m = s.queue m) ∧
      (s.queueBusy n = false → (t.queue n).on = false ∧ (t.queue n).qhead = x.qtail ∧ (t.queue n).head = .unread) ∧
      (s.queueBusy n = true → (t.queue n).on = true ∧ (t.queue n).qcfg.getLsbD 1 = true ∧ (t.queue n).head = x.head)) ∧
    (n < 64 → x.on = w.getLsbD 0 → x.on = true → ∃ t : State, exec .queueThaw s = .next t ∧ s.coresKept t ∧ s.memKept t ∧
      (∀ m, m ≠ n → t.queue m = s.queue m) ∧ (t.queue n).frozen = false ∧ (t.queue n).on = true ∧
      (t.queue n).part = x.part ∧ (t.queue n).head = x.head) ∧
    (let full := 2 ^ x.log2n < (bits w 15 0 + 2 ^ 16 - x.hd) % 2 ^ 16;
      (full → exec .qtailWrite s = .next (s.putQueue n { x with qcfg := x.qcfg ||| 2 })) ∧
      (¬ full → exec .qtailWrite s = .next (s.putQueue n { x with qtail := w &&& 0xFFFF }))) ∧
    (n < 64 → x.on = true → x.hasHead = true →
      let d := (s.part x.part).pdef
      let refused := fun (code : Nat) (ws : List Word) => ∃ t : State, exec .queueHeadRead s = .next t ∧ s.coresKept t ∧
        s.memKept t ∧ (t.queue n).hd = (x.hd + 1) % 2 ^ 16 ∧ (t.queue n).head = .unread ∧ ∃ e,
          (t.queue n).pending = x.pending ++ [e] ∧ bits (e.words.getD 0 0) 63 56 = code ∧
          bits (e.words.getD 0 0) 47 32 = x.hd ∧ bits (e.words.getD 0 0) 31 0 = bits (ws.getD 0 0) 31 0
      let at_ := x.base + 128 * (x.hd % 2 ^ x.log2n)
      let seen := if x.head = .unread then s.readHomes [(at_, 128)] else s
      let shaped := fun (ws : List Word) => ∀ i, s.recordImage ws = some i →
        (pdefOn d = false → exec .queueHeadRead s = .next (seen.putQueue n { x with head := .read ws })) ∧
        (pdefOn d = true → i.pwid ≠ pdefWid d ∨ i.pht ≠ pdefHt d → refused 4 ws) ∧
        (pdefOn d = true → i.pwid = pdefWid d → i.pht = pdefHt d →
          exec .queueHeadRead s = .next (seen.putQueue n { x with head := .checked ws }))
      let sick := (s.poison.filter (fun g => decide (64 * g < at_ + 128) && decide (at_ < 64 * g + 64))).mergeSort
      let log := s.module.elog ++ sick.map (fun g => (s.loomOf 0, (0x4000000000000000 ||| BitVec.ofNat 64 (64 * g) : Word)))
      (x.head = .unread → s.module.elog.length ≤ 256 → seen = { s with module := { s.module with
        elog := log.drop (log.length - 256), elogCount := s.module.elogCount + sick.length } }) ∧
      (x.head = .unread →
        let ws := s.readWords at_ 16
        (State.recordSound ws = false → refused 1 ws) ∧
        (State.recordSound ws = true → bits (ws.getD 0 0) 63 48 ≠ x.rev → refused 2 ws) ∧
        (State.recordSound ws = true → bits (ws.getD 0 0) 63 48 = x.rev →
          (s.recordImage ws = none → refused 3 ws) ∧ shaped ws)) ∧
      ∀ ws, (x.head = .read ws ∨ x.head = .checked ws → shaped ws) ∧
        (x.head = .checked ws ∨ (x.head = .read ws ∧ pdefOn d = true) → s.recordImage ws = none → refused 3 ws)) ∧
    (x.on = false ∨ x.hasHead = false → exec .queueHeadRead s = .next s) ∧
    (∀ r rest, n < 64 → x.pending = r :: rest → x.room = true → ∃ t : State, exec .completionRecordWrite s = .next t ∧
      s.dataKept t ∧ (t.queue n).pending = rest ∧ (t.queue n).ctail = (x.ctail + 1) % 2 ^ 16 ∧
      t.mem = (s.writeMem (x.cbase + 32 * (x.ctail % 2 ^ x.log2n))
        ((r.words.set 2 (s.loomOf 0)).flatMap (fun v => toBytes 8 v.toNat))).mem ∧
      ∀ c, c < 256 → bits (t.sched.dend.getD c 0) 31 0 = if r.counter = some c
        then (bits (s.sched.dend.getD c 0) 31 0 + 1) % 2 ^ 32 else bits (s.sched.dend.getD c 0) 31 0) ∧
    (x.pending = [] ∨ x.room = false → exec .completionRecordWrite s = .next s)

/-- Selection, bind and pre-emption complete (rules R155, R159, R328, R333, R336 to R345, R374). An idle partition takes, of
the queues that offer, one of the highest priority, a resume entry before a head. A bind refuses an absent image, one of
another shape and a bad start vector, and otherwise gives every core of the partition its bound state under the lowest free tag, for
at least 16,384 cycles: every register of rule R215 is 0; PINFO, TROOT, TCTX, CTXREV, RTBASE, RTLIM and DECKBASE hold what the partition,
the record, the queue and the image say; the PC is ENTRY; local space is 0 but where INH keeps it; IMEM holds the core's code section; and
the tile has its array mode (rules R70, R158, R162, R215, R339). A block that the bind reads beyond correction is marked. At its end the
cards of a launch with waits that are produced elsewhere are released early (log entries 57 and 92); that of a saved context restores
every core from its image, and a restore of what a save has written gives back the core: its registers, its local space and IMEM with their
poison marks, its PC, and the words of its control page (rules R343, R345, R348, R349), while the image of another XOR loses the context
(rule R347). PREQ takes REQ: a kill is a loss to come,
an expired quantum asks as software does. A drained context with room in the area is saved, and the partition is unbound when
the save ends; a restore that ends puts the cores into the barrier wait, frees the space of its image (log entry 58), and is kept from
it by no pending loss but its own failure (log entry 49). CTXAREA is written while no context is saved. -/
def Obligations.SchedulingCompletes : Prop :=
  ∀ (s : State) (p : Nat), s.arg.part = p → p < 16 →
    let q := s.part p
    let w := s.arg.value
    let record := fun (t : State) (l : Launch) (code : Nat) => l.queue < 64 → l.slot < 2 ^ 16 →
      ∃ e, (t.queue l.queue).pending = (s.queue l.queue).pending ++ [e] ∧ bits (e.words.getD 0 0) 63 56 = code
    let cleared := fun (g : Regs) => (∀ i, g.s.getD i 0 = 0 ∧ g.v.getD i 0 = 0 ∧ g.a.getD i 0 = 0 ∧ g.q.getD i 0 = 0 ∧
      g.f.getD i 0 = 0 ∧ g.sem.getD i 0 = 0 ∧ g.tok.getD i .idle = .idle ∧ (g.getLoop i).word = 0 ∧ (g.getPair i).word = 0) ∧
      g.p &&& ~~~1 = 0 ∧ g.latch = 0 ∧ g.latchFmt = 0 ∧ g.mxcfg = 0 ∧ g.rotb.word = 0
    let named := fun (x : SysRegs) (tag : Nat) (l : Launch) (img : Image) (k : Nat) =>
      bits x.pinfo 3 0 = p ∧ bits x.pinfo 6 6 = p % 2 ∧ bits x.pinfo 9 7 = p / 2 ∧ bits x.pinfo 11 10 = s.htOf p ∧
      bits x.pinfo 15 12 = s.widOf p ∧ bits x.pinfo 39 32 = 40 + 4 * (s.widOf p + 3 * s.htOf p) ∧ x.pinfo &&& 0xFFFFFF00FFFF0030 = 0 ∧
      x.troot = l.words.getD 1 0 &&& 0x00FFFFFFFFFFE000 ∧ x.tctx = BitVec.ofNat 64 tag ∧ x.ctxrev = BitVec.ofNat 64 (s.queue l.queue).rev ∧
      x.deckbase = (s.startEntry img (s.rel p k)).1 ∧
      (s.sectionOf img 3 = none → x.rtbase = 0 ∧ x.rtlim = 0) ∧
      (∀ y, s.sectionOf img 3 = some y → x.rtlim = BitVec.ofNat 64 (y.size / 256) ∧
        x.rtbase = BitVec.ofNat 64 y.va &&& 0x01FFFFFFFFFE0000)
    let fresh := fun (b c : Core) (tag : Nat) (l : Launch) (img : Image) =>
      let e := s.startEntry img (s.rel p b.idx)
      c.idx = b.idx ∧ cleared c.reg ∧ named c.sys tag l img b.idx ∧ (c.sys.cardpos0 = if e.1 = 0 then 0x10000 else 0) ∧
      c.ctl.pc = e.2.extractLsb' 0 18 &&& 0x3FFFC ∧ (c.ctl.mode = if e.2.getLsbD 22 then .bound else .halted) ∧
      c.sys.memerr = b.sys.memerr ∧ c.sys.tfva = b.sys.tfva ∧ c.sys.loinfo = b.sys.loinfo ∧ c.sys.bcinfo = b.sys.bcinfo ∧
      (e.2.getLsbD 23 = true → c.mem.loc = b.mem.loc ∧ c.mem.bad = b.mem.bad) ∧
      (e.2.getLsbD 23 = false → c.mem.bad = [] ∧ ∀ a, c.mem.loc.read a = 0) ∧
      ∀ y, s.codeSection img (s.rel p b.idx) = some y → ∀ a, c.mem.imem.read a =
        if y.load ≤ a ∧ a < y.load + y.size then s.mem.read (img.dpa + y.off + (a - y.load)) else 0
    let tidy := fun (c : Core) => c.mem.loc.wf = true ∧ (∀ z ∈ c.mem.loc.cells, z.1 < localBytes) ∧ c.mem.imem.wf = true ∧
      (∀ z ∈ c.mem.imem.cells, z.1 < 2 ^ 18) ∧ c.reg.s.getD 0 0 = 0 ∧ (∀ i, i < 16 → c.reg.f.getD i 0 &&& 0x07FFFFC7 = c.reg.f.getD i 0) ∧
      c.reg.mxcfg &&& rwMask 0x080 = c.reg.mxcfg ∧ c.sys.carderr &&& 0xFFE0FFFF0000FFFF = c.sys.carderr ∧
      c.sys.cardpos0 &&& 0xFFFFFFFF0001FFFF = c.sys.cardpos0 ∧ c.sys.phnum.toNat < 2 ^ 33 ∧ c.trap.tvec &&& rwMask 0x108 = c.trap.tvec ∧
      c.trap.tctl &&& rwMask 0x109 = c.trap.tctl ∧ c.sys.sigctl &&& rwMask 0x150 = c.sys.sigctl ∧ c.ctl.redirects = []
    let back := fun (c d : Core) => d.idx = c.idx ∧ d.reg = { c.reg with p := c.reg.p ||| 1 } ∧ d.mem.loc = c.mem.loc ∧
      d.mem.imem = c.mem.imem ∧ d.mem.bad = c.mem.bad ∧ d.mem.imemBad = c.mem.imemBad ∧ d.ctl.pc = c.ctl.pc ∧
      (d.ctl.mode = if c.ctl.mode = .halted then .halted else .bound) ∧ d.ctl.lands = [] ∧ d.ctl.claims = [] ∧ d.ctl.redirects = [] ∧
      d.aux.trigger.isSome = c.aux.trigger.isSome ∧ d.sys.carderr = c.sys.carderr ∧ d.sys.cardpos0 = c.sys.cardpos0 ∧
      d.sys.cardpos1 = c.sys.cardpos1 ∧ d.sys.phnum = c.sys.phnum ∧ d.sys.xzero = c.sys.xzero ∧ d.sys.sig = c.sys.sig ∧
      d.sys.sigctl = c.sys.sigctl ∧ d.trap.tvec = c.trap.tvec ∧ d.trap.tctl = c.trap.tctl
    (s.failing p = [] → s.idlePart p = false ∨ s.mayOffer p = false → exec .sequencerSelect s = .next s) ∧
    (s.failing p = [] → s.idlePart p = true → s.mayOffer p = true → ∀ pr o, 
      let n := (q.sseq + 1) % 2 ^ 32
      let u := s.takePri p n
      u.scan p = some (pr, o) →
      (∀ m, m < 64 → u.offers p m = true → (u.queue m).epri ≤ pr) ∧ u.offers p o = true ∧ (u.queue o).epri = pr ∧
      ∃ t : State, exec .sequencerSelect s = .next t ∧ s.coresKept t ∧ s.memKept t ∧ (t.part p).sseq = n ∧
        (∀ v, u.resumeOf p o = some v → (t.part p).chosen = some ({ v.launch with sseq := n }, true)) ∧
        (∀ ws, u.resumeOf p o = none → State.headRecord (u.queue o) = some ws →
          (t.part p).chosen = some ({ queue := o, slot := (u.queue o).hd, words := ws, sseq := n }, false))) ∧
    (∀ l, q.ctx = none → q.chosen = some (l, false) →
      (s.recordImage l.words = none → ∃ t : State, exec .bind s = .next t ∧ s.coresKept t ∧ s.memKept t ∧
        (t.part p).chosen = none ∧ record t l 3) ∧
      ∀ img tag, s.recordImage l.words = some img → s.freeTag = some tag →
        (s.shapeOk p img = false → ∃ t : State, exec .bind s = .next t ∧ s.coresKept t ∧ s.memKept t ∧
          (t.part p).chosen = none ∧ record t l 4) ∧
        (∀ o, s.shapeOk p img = true → s.bindFault p l img = some o → ∃ t : State, exec .bind s = .next t ∧ s.coresKept t ∧
          s.memKept t ∧ (t.part p).chosen = none ∧ record t l 5) ∧
        (s.shapeOk p img = true → s.bindFault p l img = none → ∃ (t : State) (y : Context) (u : Nat), exec .bind s = .next t ∧ s.memKept t ∧
          (t.part p).ctx = some y ∧ (t.part p).chosen = none ∧ y.stage = .binding u ∧ s.cycle + 16384 ≤ u ∧ y.tag = tag ∧
          y.launch = l ∧ y.image = img ∧ y.step = 0 ∧ y.losses = [] ∧ y.phases = s.phaseTable img ∧ tag ∉ s.sched.tags ∧
          tag ∈ t.sched.tags ∧ (∀ j, 1 ≤ j → j < tag → j ∈ s.sched.tags) ∧
          (∀ k ∈ s.partCores p, fresh (s.coreOf k) (t.coreOf k) tag l img ∧
            (t.tileAt (k / 2)).arrmode = bits (s.startEntry img (s.rel p (2 * (k / 2)))).2 21 20) ∧
          (∀ z, z ∈ y.badBlocks ↔ ∃ g ∈ s.poison, g / 2 ^ 11 = z ∧
            ∃ r ∈ s.bindReads p img, 64 * g < r.1 + r.2 ∧ r.1 < 64 * g + 64))) ∧
    (∀ x u, q.ctx = some x → x.stage = .binding u → s.cycle < u ∨ s.allClosed x.launch.words = true → exec .bind s = .next s) ∧
    (∀ x u, q.ctx = some x → x.stage = .binding u → u ≤ s.cycle → s.allClosed x.launch.words = false →
      let u := s.onCtx p (fun y => { y with stage := .waiting })
      exec .bind s = .next (u.bindOver p) ∧
        ((x.launch.words.getD 2 0).getLsbD 8 = true ∨ u.producedOn p x.launch.words ≠ [] → u.bindOver p = u)) ∧
    (∀ l v, q.ctx = none → q.chosen = some (l, true) → s.sched.saved.find? (fun v => v.queue == l.queue && v.ready) = some v →
      ∃ (t : State) (y : Context) (u : Nat), exec .bind s = .next t ∧ s.memKept t ∧ (t.part p).ctx = some y ∧
        (t.part p).chosen = none ∧ y.stage = .restoring u ∧ s.cycle < u ∧ y.tag = v.tag ∧ y.launch = l ∧ y.image = v.image ∧
        y.step = v.step ∧ (∀ z, z ∈ y.badBlocks ↔ z ∈ v.badBlocks ∨ ∃ g ∈ s.poison, g / 2 ^ 11 = z ∧
          ∃ i, i < v.pages ∧ s.areaDpa ((v.page + i) * 2 ^ 17) ≤ 64 * g ∧ 64 * g < s.areaDpa ((v.page + i) * 2 ^ 17) + 2 ^ 17) ∧
        (let m := s.savedMemory v;
          (State.xorCells (m.cells.filter (fun c => decide (0x1000 ≤ c.1))) = BitVec.ofNat 64 (m.readNat 0x20 8) → y.losses = []) ∧
          (State.xorCells (m.cells.filter (fun c => decide (0x1000 ≤ c.1))) ≠ BitVec.ofNat 64 (m.readNat 0x20 8) →
            ∃ z : Loss, z.cause = 0x0F ∧ y.losses = [z])) ∧
        ∀ k ∈ s.partCores p, t.coreOf k = s.restoreCore p l v (s.savedMemory v) (s.coreOf k) ∧
          named (t.coreOf k).sys v.tag l v.image k) ∧
    (∀ x, q.ctx = some x →
      (s.quantumDue p = true → ∃ t : State, exec .quantumExpiry s = .next t ∧ s.coresKept t ∧ s.memKept t ∧
        (t.part p).ctx = some { x with asked := true } ∧
        bits (t.part p).preq 1 0 = if bits q.preq 1 0 = 2 then 2 else 1) ∧
      (s.quantumDue p = false → exec .quantumExpiry s = .next s) ∧
      (bits q.preq 1 0 ≠ 2 →
        (∃ t : State, exec .preemptRequest s = .next t ∧ s.coresKept t ∧ s.memKept t ∧ bits (t.part p).preq 1 0 = 1 ∧
          (t.part p).ctx = some x) ∧
        (∃ (t : State) (l : Loss), exec .killRequest s = .next t ∧ s.coresKept t ∧ s.memKept t ∧
          bits (t.part p).preq 1 0 = 2 ∧ l.cause = 0x0E ∧ (t.part p).ctx = some { x with losses := x.losses ++ [l] }) ∧
        (∃ t : State, exec .preemptWithdraw s = .next t ∧ s.coresKept t ∧ s.memKept t ∧ bits (t.part p).preq 1 0 = 0 ∧
          (t.part p).ctx = some x)) ∧
      (bits q.preq 1 0 = 2 → ∀ i, i = .preemptRequest ∨ i = .killRequest ∨ i = .preemptWithdraw →
        ∃ t : State, exec i s = .next t ∧ bits (t.part p).preq 1 0 = 2 ∧ (t.part p).ctx = some x)) ∧
    (q.ctx = none → ∀ i, i = .preemptRequest ∨ i = .killRequest →
      ∃ t : State, exec i s = .next t ∧ s.coresKept t ∧ s.memKept t ∧ (t.part p).preq.getLsbD 2 = true ∧
        bits (t.part p).preq 1 0 = bits q.preq 1 0 ∧ (t.part p).ctx = none) ∧
    (∀ x, q.ctx = some x → x.stage ≠ .draining ∨ s.drained p = false → exec .contextSave s = .next s) ∧
    (∀ x page, q.ctx = some x → x.stage = .draining → s.drained p = true →
      s.areaPlace (State.imagePages (s.coreCount p)) = some page →
      ∃ (t : State) (u : Nat) (v : Saved), exec .contextSave s = .next t ∧ s.coresKept t ∧ s.cycle < u ∧
        (t.part p).ctx = some { x with stage := .saving u } ∧ t.sched.saved = s.sched.saved ++ [v] ∧ v.tag = x.tag ∧
        v.queue = x.launch.queue ∧ v.step = x.step ∧ v.page = page ∧ v.ready = false ∧ v.part = p ∧
        v.badBlocks = s.spoiled p x ∧
        t.mem = (s.writeArea page (State.imagePages (s.coreCount p)) (s.imageCells p x)).mem ∧ record t x.launch 0x11 ∧
        (s.areaOff + s.areaSize ≤ 59 → (s.coresIn p).Nodup →
          (∀ c ∈ s.coresIn p, tidy c ∧ s.rel p c.idx < s.coreCount p ∧ ∀ d ∈ s.coresIn p, s.rel p d.idx = s.rel p c.idx → d = c) →
          let m := t.savedMemory v
          State.xorCells (m.cells.filter (fun c => decide (0x1000 ≤ c.1))) = BitVec.ofNat 64 (m.readNat 0x20 8) ∧
          ∀ c ∈ s.coresIn p, ∀ (b : Core) (l : Launch), b.idx = c.idx → back c (t.restoreCore p l v m b))) ∧
    (∀ x u, q.ctx = some x → x.stage = .saving u → u ≤ s.cycle → x.losses = [] →
      ∃ t : State, exec .contextSaveEnd s = .next t ∧ s.memKept t ∧ (t.part p).ctx = none ∧
        t.sched.saved = s.sched.saved.map (fun v => if v.tag == x.tag then { v with ready := true } else v)) ∧
    (∀ x u, q.ctx = some x → x.stage = .restoring u → u ≤ s.cycle → (∀ l ∈ x.losses, l.cause ≠ 0x0F) →
      ∃ t : State, exec .restoreEnd s = .next t ∧ s.memKept t ∧ record t x.launch 0x12 ∧
        (t.part p).ctx = some { x with stage := .running, lastArrival := s.cycle } ∧
        t.sched.saved = s.sched.saved.filter (fun v => v.tag != x.tag) ∧
        ∀ c ∈ t.coresIn p, ∃ b ∈ s.coresIn p, b.idx = c.idx ∧ c.reg = b.reg ∧ c.mem = b.mem ∧
          (b.ctl.mode = .bound → c.ctl = { b.ctl with mode := .barrier }) ∧ (b.ctl.mode ≠ .bound → c.ctl = b.ctl)) ∧
    (let v := w &&& 0xFFFFFF00003F003F
      let free := s.sched.saved = [] ∧ bits w 21 16 + bits w 5 0 ≤ 59 ∧
        ∀ i, i < 24 → w.getLsbD (40 + i) = true → bits w 5 0 ≠ 0 → s.module.hbmret.getD i 0 = 0;
      (free → exec .ctxareaWrite s = .next { s with sched := { s.sched with ctxarea := v } }) ∧
      (¬ free → exec .ctxareaWrite s = .next s))

/-! ### Translation, tiers, checkpoints and homes -/

/-- Invalidation and channel retirement complete (rules R38, R40 to R42, R44, R91, R397). A GO of TINVCTL, at one reticle or at the
broadcast copy, begins in each reticle that it names: matching cached leaves go, and matching TLB entries go or, in use by a
card or a release under way, are dying, at once or, where releases are translating there, when those have ended; one while busy sets
BUSYERR alone, and one with SIZE 3 sets ERR. A request that has acted ends once no
dying entry is left, and COUNT counts it. A tag that no context holds and no entry carries becomes free. A channel that exists
and holds no page of the context area begins to retire, its translations going in the same way; quiet, it is retired with its
bytes, which read 0 from then on (log entry 82), and RADV[9] is set. -/
def Obligations.TranslationEventsComplete : Prop :=
  ∀ (s : State),
    let w := s.arg.value
    let rs := State.winReticles s.arg
    let gone := fun (t : State) (k : Nat) (hit : TlbEntry → Bool) =>
      (∀ e ∈ (t.coreOf k).aux.tlb, hit e = true → e.dying = true ∧ (e.count ≠ 0 ∨ e.pins ≠ 0)) ∧
      ∀ e ∈ (s.coreOf k).aux.tlb, (hit e = false → e ∈ (t.coreOf k).aux.tlb) ∧
        (hit e = true → e.count ≠ 0 ∨ e.pins ≠ 0 → { e with dying := true } ∈ (t.coreOf k).aux.tlb)
    let goes := fun (i : Instr) (scope : Nat) => ∃ t : State, exec i s = .next t ∧ s.memKept t ∧ s.dataKept t ∧
      t.cards = s.cards ∧ (∀ k, reticleOf k ∉ rs → t.coreOf k = s.coreOf k) ∧ (∀ j, j < 48 → j ∉ rs → t.ret j = s.ret j) ∧
      ∀ r, r < 48 → r ∈ rs →
        let x := s.ret r
        (x.tinvctl.getLsbD 0 = true → t.ret r = { x with tinvctl := x.tinvctl ||| 4 } ∧
          ∀ k, reticleOf k = r → t.coreOf k = s.coreOf k) ∧
        (x.tinvctl.getLsbD 0 = false → bits w 11 10 = 3 → t.ret r = { x with tinvctl := (t.ret r).tinvctl } ∧
          (t.ret r).tinvctl.getLsbD 0 = false ∧ (t.ret r).tinvctl.getLsbD 1 = true ∧
          ∀ k, reticleOf k = r → t.coreOf k = s.coreOf k) ∧
        (x.tinvctl.getLsbD 0 = false → bits w 11 10 ≠ 3 → ∃ q : TInv,
          let n := 2 ^ (match bits w 11 10 with | 0 => 17 | 1 => 27 | _ => 37)
          q.scope = scope ∧ q.tag = bits w 23 16 ∧ q.lo = bits x.tinvva 56 17 * 2 ^ 17 / n * n ∧ q.hi = q.lo + n ∧
          q.waits = s.translatingIn r ∧ (t.ret r).tinvctl.getLsbD 0 = true ∧
          (q.waits = [] → t.ret r = { x with
              tinvctl := (t.ret r).tinvctl, tinv := some q, cache := x.cache.filter (fun e => !q.hits e.tag e.va e.size) } ∧
            ∀ k, reticleOf k = r → gone t k (fun e => q.hits e.tag e.va e.size)) ∧
          (q.waits ≠ [] → t.ret r = { x with tinvctl := (t.ret r).tinvctl, tinv := some q } ∧
            ∀ k, reticleOf k = r → t.coreOf k = s.coreOf k))
    let st := bits w 15 11
    let ch := bits w 10 6
    let m := s.module
    let may := st ≤ 23 ∧ s.channelGone st ch = false ∧ s.areaNames st = false
    goes .tinvRange 0 ∧ goes .tinvContext 1 ∧ goes .tinvAll 2 ∧
    (∃ t : State, exec .tinvComplete s = .next t ∧ s.memKept t ∧ s.dataKept t ∧ ∀ r, r < 48 →
      let x := s.ret r
      let still := ∀ k, reticleOf k = r → t.coreOf k = s.coreOf k;
      (r ∉ rs ∨ x.tinv = none → t.ret r = x ∧ still) ∧
      ∀ q, r ∈ rs → x.tinv = some q →
        (q.waits = [] → s.dyingIn r ≠ 0 → t.ret r = x ∧ still) ∧
        (q.waits = [] → s.dyingIn r = 0 → still ∧
          t.ret r = { x with tinv := none, tinvctl := x.tinvctl &&& ~~~1, tinvst := (t.ret r).tinvst } ∧
          bits (t.ret r).tinvst 31 0 = (bits x.tinvst 31 0 + 1) % 2 ^ 32) ∧
        (q.waits ≠ [] → (∃ k ∈ q.waits, k ∈ s.translatingIn r) → t.ret r = x ∧ still) ∧
        (q.waits ≠ [] → (∀ k ∈ q.waits, k ∉ s.translatingIn r) →
          t.ret r = { x with tinv := some { q with waits := [] }, cache := x.cache.filter (fun e => !q.hits e.tag e.va e.size) } ∧
          ∀ k, reticleOf k = r → gone t k (fun e => q.hits e.tag e.va e.size))) ∧
    (s.tagHeld s.arg.n = true ∨ s.tagClear s.arg.n = false → exec .tagFreed s = .next s) ∧
    (s.tagHeld s.arg.n = false → s.tagClear s.arg.n = true → exec .tagFreed s =
      .next { s with sched := { s.sched with tags := s.sched.tags.filter (· != s.arg.n) } }) ∧
    (m.hbmrcmd.getLsbD 0 = true → ∃ t : State, exec .hbmChannelRetire s = .next t ∧
      t = { s with module := { m with hbmrcmd := t.module.hbmrcmd } } ∧ t.module.hbmrcmd.getLsbD 0 = true) ∧
    (m.hbmrcmd.getLsbD 0 = false → ¬ may → ∃ t : State, exec .hbmChannelRetire s = .next t ∧
      t = { s with module := { m with hbmrcmd := t.module.hbmrcmd } } ∧ t.module.hbmrcmd.getLsbD 1 = true ∧
      t.module.hbmrcmd.getLsbD 0 = false) ∧
    (m.hbmrcmd.getLsbD 0 = false → may → ∃ t : State, exec .hbmChannelRetire s = .next t ∧ s.memKept t ∧ s.dataKept t ∧
      t.module = { m with hbmrcmd := t.module.hbmrcmd, retiring := some (st, ch) } ∧ t.module.hbmrcmd.getLsbD 0 = true ∧
      (∀ j, j < 48 → t.ret j = { s.ret j with
        cache := (s.ret j).cache.filter (fun e => !State.frameInChannel st ch e.dpa e.size) }) ∧
      ∀ k, gone t k (fun e => State.frameInChannel st ch e.dpa e.size)) ∧
    (m.retiring = none → exec .hbmRetireComplete s = .next s) ∧
    (∀ a b, m.retiring = some (a, b) → a < 24 → b < 32 →
      (s.channelQuiet a b = false → exec .hbmRetireComplete s = .next s) ∧
      (s.channelQuiet a b = true → ∃ t : State, exec .hbmRetireComplete s = .next t ∧ s.coresKept t ∧ t.module.retiring = none ∧
        t.module.hbmrcmd = m.hbmrcmd &&& ~~~1 ∧ t.module.radv.getLsbD 9 = true ∧
        t.module.homes = m.homes.filter (fun h => !State.blockIn a b h.block) ∧
        (t.module.homes = [] → t.module.migctl.getLsbD 1 = false) ∧
        (∀ d, t.mem.read d = if State.blockIn a b (d / 2 ^ 17) = true then 0 else s.mem.read d) ∧
        ∀ i j, i < 24 → (t.module.hbmret.getD i 0).getLsbD j = ((m.hbmret.getD i 0).getLsbD j || (i == a && j == b))))

/-- Ports and links complete (rules R92, R93, R95, R324, R325, R382, R397). An expander port trains once, with its persistent
range, and a port that is up goes down; so with Uller links, whose training counts for the election while its reticle is in
stage B1, and weft ports. A card that reaches what went down, or over a weft port still has a byte to move, has nothing left to
do, carries an error and ends soon; every other card is as it was. A weft route takes a sound value for another module. Where an
Uller link or a route changes, no write stays on a link that its core's accesses no longer take: it has reached its home (rules R139,
R141; log entry 83), and nothing else of memory changes. -/
def Obligations.PortEventsComplete : Prop :=
  ∀ (s : State),
    let n := s.arg.n
    let m := s.module
    let w := s.arg.value
    let killed := fun (t : State) (hit : Card → Prop) => t.cards.length = s.cards.length ∧
      ∀ (i : Nat) (c : Card), s.cards[i]? = some c → ∃ d : Card, t.cards[i]? = some d ∧
        (c.ended = false → hit c → ∃ e : Nat, e ≤ max c.notBefore (s.cycle + 2) ∧
          d = { c with granules := [], err := if c.err = 0 then 3 else c.err, endAt := some e }) ∧
        (c.ended = true ∨ ¬ hit c → d = c)
    let route := m.wroute
    let moved := fun (t : State) => s.dataKept t ∧ t.retired = s.retired ∧
      (∀ x ∈ t.late, x.link.isSome = true → x.link = t.linkOf (blockOf x.core) (64 * x.granule)) ∧
      (∀ a, (∀ x ∈ s.late, ∀ b ∈ x.bytes, b.1 ≠ a) → t.mem.read a = s.mem.read a) ∧
      ((∀ x ∈ s.late, x.link.isSome = true → x.link = t.linkOf (blockOf x.core) (64 * x.granule)) →
        s.memKept t ∧ s.coresKept t ∧ t.late = s.late)
    (m.cxl.getD n .untrained = .untrained → exec .cxlLinkTrain s = .next { s with module := { m with
      cxl := m.cxl.setIfInBounds n .up, cxlp := m.cxlp.setIfInBounds n (w &&& 0x800000000FFFFFFF) } }) ∧
    (m.cxl.getD n .untrained ≠ .untrained → exec .cxlLinkTrain s = .next s) ∧
    (m.cxl.getD n .untrained = .up → ∃ t : State, exec .cxlPortDown s = .next t ∧ s.memKept t ∧ s.coresKept t ∧
      t.module = { m with cxl := m.cxl.setIfInBounds n .down } ∧ killed t (fun c => ∃ g ∈ c.reach, dpaClass (64 * g) = 1 ∧ cxlPort (64 * g) = n)) ∧
    (m.cxl.getD n .untrained ≠ .up → exec .cxlPortDown s = .next s) ∧
    (m.uller.getD n .untrained = .untrained → n < 4 → ∃ t : State, exec .ullerLinkTrain s = .next t ∧ moved t ∧
      t.module = { m with uller := m.uller.setIfInBounds n .up, ullerRanges := m.ullerRanges ++ s.arg.ranges } ∧
      let k := [0, 7, 40, 47].getD n 0
      let b := (s.ret k).boot
      t.ret k = { s.ret k with boot := { b with
        ul := b.ul || (b.stage == .b1 && decide (s.cycle < b.start + 40 * 1600000)) } } ∧ ∀ r, r ≠ k → t.ret r = s.ret r) ∧
    (m.uller.getD n .untrained ≠ .untrained → exec .ullerLinkTrain s = .next s) ∧
    (m.uller.getD n .untrained = .up → ∃ t : State, exec .ullerLinkDown s = .next t ∧ moved t ∧
      t.module = { m with uller := m.uller.setIfInBounds n .down } ∧
      ((∃ i, i < 4 ∧ i ≠ n ∧ m.uller.getD i .untrained = .up) → t.cards = s.cards) ∧
      ((∀ i, i < 4 → i ≠ n → m.uller.getD i .untrained ≠ .up) → killed t (fun c => ∃ g ∈ c.reach, dpaClass (64 * g) = 2))) ∧
    (m.uller.getD n .untrained ≠ .up → exec .ullerLinkDown s = .next s) ∧
    (m.weft.getD n .untrained = .untrained → ∃ t : State, exec .weftLinkTrain s = .next t ∧ s.memKept t ∧ s.coresKept t ∧
      t.module.weft = m.weft.setIfInBounds n .up ∧ (s.arg.m = 1 → t.module.radv.getLsbD 8 = true) ∧
      (s.arg.m ≠ 1 → t.module.radv = m.radv)) ∧
    (m.weft.getD n .untrained ≠ .untrained → exec .weftLinkTrain s = .next s) ∧
    (m.weft.getD n .untrained = .up → ∃ t : State, exec .weftPortDown s = .next t ∧ s.memKept t ∧ s.coresKept t ∧
      t.module = { m with weft := m.weft.setIfInBounds n .down } ∧
      killed t (fun c => ∃ g ∈ c.granules, ∃ a ∈ g.targets, a < 2 ^ 56 ∧ dpaClass a = 4 ∧
        bits (route.getD (peerModule a) 0) 5 0 + a / 64 % 8 % max 1 (bits (route.getD (peerModule a) 0) 11 9) = n) ∧
      t.links = s.links.map (fun l => if l.port == n then
        { l with err := if l.err = 0 then 3 else l.err, endAt := some (s.cycle + 1) } else l)) ∧
    (m.weft.getD n .untrained ≠ .up → exec .weftPortDown s = .next s) ∧
    (let good := (w.getLsbD 63 = true → 1 ≤ bits w 11 9 ∧ bits w 11 9 ≤ 6) ∧ bits w 5 0 + bits w 11 9 ≤ 36 ∧
        n ≠ Config.moduleNumber % 64;
      (good → ∃ t : State, exec .wrouteWrite s = .next t ∧ moved t ∧ t.cards = s.cards ∧
        t.module = { m with wroute := m.wroute.setIfInBounds n (w &&& 0x8000000000000E3F) }) ∧
      (¬ good → exec .wrouteWrite s = .next s))

/-- Checkpoints and homes complete (rules R93, R94, R134 to R136). A checkpoint command that is not refused starts, and ends
later: over the persistent ranges one after another, a save leaves each byte of each live channel, of each local space and of each IMEM
at its place, with its poison mark, and changes no byte outside the region, and a restore of a sound header brings back the bytes and marks
of HBM, of every local space and of every IMEM; a down port, a header that is itself uncorrectable or a bad header changes no byte. A
command is refused while a context is bound in any stage (log entry 54). Epochs halve the counters, and where EN is 0 do nothing else; a
move begins when no card has its block in use, the shuttle plane carries it and its new unit has room, away from its controller only for
a block that need not stay there, ends and is counted; MIGCTL.HOME wants every block at its controller. An access from outside reads,
writes or combines atomically at the home; what reads have taken of a write still on its way goes before its write (rule R141, log entry
83); a read of the companion leaves it a copy (log entry 83), a granule that is written in part stays poisoned (log entry 104), and an
atomic operation on a poisoned granule changes no byte (rule R131). (The places in the region are the model's, log entry 21.) -/
def Obligations.CheckpointsAndHomesComplete : Prop :=
  ∀ (s : State),
    let m := s.module
    let w := s.arg.value
    let live := fun (a : Nat) => s.channelGone (hbmStack a) (hbmChannel a) = false
    let begins := fun (i : Instr) (op : Nat) => m.ckptctl.getLsbD 0 = false →
      let free := (∀ p ∈ s.parts.toList, p.ctx = none) ∧ ckptSize ≤ (s.persistent.map (·.2)).foldl (· + ·) 0;
      ∃ t : State, exec i s = .next t ∧ s.coresKept t ∧ s.memKept t ∧
        (free → ∃ u, t.module.ckptEnd = some u ∧ s.cycle < u ∧ t.module.ckptctl.getLsbD 0 = true ∧ bits t.module.ckptst 7 0 = op) ∧
        (¬ free → t.module.ckptEnd = m.ckptEnd ∧ t.module.ckptctl.getLsbD 0 = false ∧ t.module.ckptctl.getLsbD 3 = true)
    let ends := fun (op : Nat) => m.ckptEnd.any (fun t => decide (t ≤ s.cycle)) = true ∧ bits m.ckptst 3 0 = op
    let done := fun (t : State) (err : Nat) => t.module.ckptEnd = none ∧ t.module.ckptctl = m.ckptctl &&& ~~~1 ∧
      bits t.module.ckptst 7 4 = err ∧ bits t.module.ckptst 3 0 = if err = 0 then 0 else 3
    let rs := s.persistent
    let place := fun (i : Nat) => (regionAt rs i).getD 0
    let laid := ckptSize ≤ (rs.map (·.2)).foldl (· + ·) 0 ∧ rs.Pairwise (fun x y => x.1 + x.2 ≤ y.1) ∧ s.memWf = true
    begins .checkpointSave 1 ∧ begins .checkpointRestore 2 ∧
    (∀ x xs, rs = x :: xs → ∀ i, (i < x.2 → place i = x.1 + i) ∧ (x.2 ≤ i → place i = (regionAt xs (i - x.2)).getD 0)) ∧
    (ends 1 → s.ckptPortDown = true → ∃ t : State, exec .checkpointSaveEnd s = .next t ∧ s.coresKept t ∧ s.memKept t ∧ done t 2) ∧
    (ends 1 → s.ckptPortDown = false → laid →
      (∀ c ∈ s.allCores, c.idx < 49152 ∧ (∀ z ∈ c.mem.loc.cells, z.1 < localBytes) ∧ ∀ z ∈ c.mem.imem.cells, z.1 < 2 ^ 18) →
      ∃ t : State, exec .checkpointSaveEnd s = .next t ∧ s.coresKept t ∧ done t 0 ∧
        bits t.module.ckptst 63 32 = (bits m.ckptst 63 32 + 1) % 2 ^ 32 ∧
        (∀ a i, live a → ckptOfDpa a = some i → t.mem.read (place i) = s.mem.read a ∧ t.poisoned (place i) = s.poisoned a) ∧
        (∀ c ∈ s.allCores, (∀ d ∈ s.allCores, d.idx = c.idx → d = c) → c.mem.loc.wf = true → c.mem.imem.wf = true →
          (∀ x, x < localBytes → t.mem.read (place (ckptCore c.idx + x)) = c.mem.loc.read x) ∧
          (∀ x, x < 2 ^ 18 → t.mem.read (place (ckptCore c.idx + localBytes + x)) = c.mem.imem.read x) ∧
          ∀ x ∈ c.mem.bad, (c.idx, x) ∈ t.module.ckptBad) ∧
        (∀ d, (∀ i, i < ckptSize → place i ≠ d) → t.mem.read d = s.mem.read d)) ∧
    (ends 2 → s.ckptPortDown = true → ∃ t : State, exec .checkpointRestoreEnd s = .next t ∧ s.coresKept t ∧ s.memKept t ∧ done t 2) ∧
    (ends 2 → s.ckptPortDown = false → laid →
      let header := s.mem.readN (place 0) 16 = State.headerBytes (s.mem.readNat (place 0) 8)
      let sick := s.poisoned (place 0) = true;
      (sick → ∃ t : State, exec .checkpointRestoreEnd s = .next t ∧ s.coresKept t ∧ s.memKept t ∧ done t 1 ∧
        t.module.elogCount = m.elogCount + 1) ∧
      (¬ sick → ¬ header → ∃ t : State, exec .checkpointRestoreEnd s = .next t ∧ s.coresKept t ∧ s.memKept t ∧ done t 3) ∧
      (¬ sick → header → ∃ t : State, exec .checkpointRestoreEnd s = .next t ∧ done t 0 ∧
        (∀ a i, live a → ckptOfDpa a = some i → t.mem.read a = s.mem.read (place i) ∧ t.poisoned a = s.poisoned (place i)) ∧
        (∀ a, dpaClass a ≠ 0 → t.mem.read a = s.mem.read a) ∧
        ∀ k, k < 49152 → (t.coreOf k).reg = (s.coreOf k).reg ∧ (t.coreOf k).aux.fixes = [] ∧
          (∀ x, x < localBytes → (t.coreOf k).mem.loc.read x = s.mem.read (place (ckptCore k + x))) ∧
          (∀ x, x < 2 ^ 18 → (t.coreOf k).mem.imem.read x = s.mem.read (place (ckptCore k + localBytes + x))) ∧
          ∀ x, x < localBytes / 16 → (x ∈ (t.coreOf k).mem.bad ↔ (k, x) ∈ m.ckptBad))) ∧
    (let halved := m.counts.map (fun h => { h with counts := h.counts.map (· / 2) });
      m.migctl.getLsbD 0 = false → exec .migrationEpoch s = .next { s with module := { m with counts := halved } }) ∧
    (m.migctl.getLsbD 0 = true → ∃ t : State, exec .migrationEpoch s = .next t ∧ s.coresKept t ∧ s.memKept t ∧
      t.module.counts = m.counts.map (fun h => { h with counts := h.counts.map (· / 2) }) ∧
      ∀ h ∈ m.homes, h.moving.isSome = true → h ∈ t.module.homes) ∧
    (let moves := ∃ h u, m.homes.find? (fun h => h.block == s.arg.n) = some h ∧ h.moving = none ∧ h.want = some u ∧
        s.blockInUse s.arg.n = false ∧ s.moveCarried h.block h.unit u = true ∧
        (u = 11 ∨ (s.heldAt u < 32 ∧ ∀ c ∈ m.counts, c.block = s.arg.n → c.pinned = false));
      (moves → ∃ (t : State) (u : Nat), exec .homeMove s = .next t ∧ s.coresKept t ∧ s.memKept t ∧
        s.cycle < u ∧ t.module.homes = m.homes.map (fun h => if h.block == s.arg.n then { h with moving := some u } else h)) ∧
      (¬ moves → exec .homeMove s = .next s)) ∧
    (∀ h, m.homes.find? (fun h => h.block == s.arg.n && h.moving.any (fun t => decide (t ≤ s.cycle))) = some h →
      let u := h.want.getD 11
      let rest := m.homes.filter (fun x => x.block != s.arg.n)
      ∃ t : State, exec .homeMoveEnd s = .next t ∧ s.coresKept t ∧ s.memKept t ∧
        t.module.homes = (if u = 11 then rest else rest ++ [{
          block := s.arg.n, unit := u, want := (if m.migctl.getLsbD 1 then some 11 else none), moving := none }]) ∧
        bits t.module.migctl 63 48 = (bits m.migctl 63 48 + 1) % 2 ^ 16 ∧
        (u = 11 → rest = [] → t.module.migctl.getLsbD 1 = false)) ∧
    (bits w 23 16 = 0 → exec .migrateHomeAll s = .next s) ∧
    (let away := m.homes.filter (fun h => h.unit != 11 || h.moving.isSome);
      bits w 23 16 ≠ 0 → ∃ t : State, exec .migrateHomeAll s = .next t ∧ s.coresKept t ∧ s.memKept t ∧
        t.module.homes.map (·.block) = away.map (·.block) ∧ (∀ h ∈ t.module.homes, h.moving = none → h.want = some 11) ∧
        t.module.migctl.getLsbD 1 = !away.isEmpty) ∧
    (let a := s.arg.n
      let bs := s.arg.bytes
      let known := dpaClass a ≤ 2 ∨ dpaClass a = 4
      let atop := s.arg.m - 2
      let n := if atop = 9 then bs.length / 2 else bs.length
      let taken := fun (v : State) (meets : Nat → Prop) => s.dataKept v ∧
        (∀ x ∈ v.late, x.link.isSome = true → meets x.granule → x.seenBy = []) ∧
        (∀ d, (∀ x ∈ s.late, ∀ z ∈ x.bytes, z.1 ≠ d) → v.mem.read d = s.mem.read d) ∧
        ((∀ x ∈ s.late, x.link.isSome = true → meets x.granule → x.seenBy = []) → v = s);
      (¬ known → exec .homeAccess s = .next s) ∧
      (known → s.arg.m = 0 → ∃ v : State, exec .homeAccess s = .next { v with
          readback := s.readWord a
          mirrored := if s.arg.sel = 4 ∧ dpaClass a ≤ 1 ∧ a / 64 ∉ s.mirrored then (a / 64) :: s.mirrored else s.mirrored } ∧
        s.coresKept v ∧ s.memKept v ∧ v.late = s.late ∧
        v.module.elogCount = m.elogCount + (s.poison.filter (fun g => decide (64 * g < a + 8) && decide (a < 64 * g + 64))).length ∧
        ((∀ g ∈ s.poison, a + 8 ≤ 64 * g ∨ 64 * g + 64 ≤ a) → v = s)) ∧
      (known → s.arg.m = 1 → ∃ v t : State, exec .homeAccess s = .next t ∧ taken v (fun g => ∃ i, i < bs.length ∧ g = (a + i) / 64) ∧
        v.coresKept t ∧ t.mem = (v.writeMem a bs).mem ∧
        ∀ g, g ∈ t.poison ↔ g ∈ v.poison ∧ ¬ (a ≤ 64 * g ∧ 64 * g + 64 ≤ a + bs.length)) ∧
      (known → 2 ≤ s.arg.m → ∃ v t : State,
        let old := v.mem.readNat a n
        let new := atomNew atop (if n = 2 then 3 else 5) n old (ofBytes (if atop = 9 then bs.drop n else bs)) (ofBytes (bs.take n));
        exec .homeAccess s = .next t ∧ taken v (fun g => g = a / 64) ∧ v.coresKept t ∧ t.poison = v.poison ∧
        (v.poisoned a = true → t.mem = v.mem) ∧ (v.poisoned a = false → t.mem = (v.writeMem a (toBytes n new)).mem) ∧
        t.readback = BitVec.ofNat 64 old))

/-! ### Boot -/

/-- Boot completes (rules R379 to R386). Power-good starts every boot counter, within 100 µs; at 40 ms of its counter a reticle
whose self-test fails is dead, and any other has its cores cleared; it sends 1,024 probes on every selvedge, one by one, from then
on or, where its row and column sum to an odd number, from 41 ms on (the spacing, the turns, the pattern and the payload's layout
are log entry 24, and a selvedge's sideband takes one message in 64 cycles, log entry 14); at 42 ms it judges each selvedge by its
echoes and their median delay (log entry 15) and writes the delay of each that has echoed to SELDLY, stands for election with its own rank, and sends its rounds; at 43 ms it is isolated
when no port was heard of, and the leader stands in the tree and claims the module. The least claim within 500 µs of the first
(log entry 87) is granted and the components of the others are withheld. The leader starts its count at 0; a child that is late is
dropped, and a reticle without DONE by the deadline is withheld. An event whose time has not come changes nothing. -/
def Obligations.BootCompletes : Prop :=
  ∀ (s : State) (r : Nat), s.arg.ret = r → r < 48 →
    let x := s.ret r
    let b := x.boot
    let rank := mapRank x.fused
    let sent := fun (t : State) (sel type : Nat) => ∀ n, State.neighbour r sel = some n → ∃ m ∈ t.bootMsgs, m.ret = n ∧
      m.sel = (sel + 2) % 4 ∧ m.bytes.getD 0 0 = BitVec.ofNat 8 type ∧ m.bytes.getD 1 0 = BitVec.ofNat 8 r ∧
      m.bytes.getD 2 0 = BitVec.ofNat 8 rank ∧ s.cycle ≤ m.arrive
    let now := s.cycle - b.start
    let due := b.probes < 1024 ∧ 40 * 1600000 + (r % 8 + r / 8) % 2 * 1600000 + 640 * b.probes ≤ now
    let probe := fun (t : State) (i : Nat) => (t.ret r).boot.probes = i + 1 ∧ ∀ sel n, sel < 4 → State.neighbour r sel = some n →
      ∃ m ∈ t.bootMsgs, m.ret = n ∧ m.sel = (sel + 2) % 4 ∧ s.cycle + State.crossing r sel ≤ m.arrive ∧
        m.bytes = bootBytes 1 r rank (payloadOf 4 i ++ payloadOf 4 (probePattern i))
    (s.power = false ∨ s.cycle = 0 → ∃ t : State, exec .powerGood s = .next t ∧ s.coresKept t ∧ s.memKept t ∧ t.power = true ∧
      ∀ q, q < 48 → ∃ n, s.cycle ≤ n ∧ n ≤ s.cycle + 160000 ∧ t.ret q = { s.ret q with boot := { Boot.reset with start := n } }) ∧
    (s.power = true → s.cycle ≠ 0 → exec .powerGood s = .next s) ∧
    (b.stage = .b1 → now < 40 * 1600000 → exec .b2LinkTest s = .next s) ∧
    (b.stage = .b1 → 40 * 1600000 ≤ now →
      let found := liveMap (Config.selfTestFails r) x.fused
      let sound := Config.romSound r = true ∧ mapSound r x.fused = true ∧ found.2 = []
      ∃ t : State, exec .b2LinkTest s = .next t ∧ s.memKept t ∧ (t.ret r).live = found.1 ∧ (t.ret r).fused = x.fused ∧
        (∀ k, reticleOf k ≠ r → t.coreOf k = s.coreOf k) ∧
        (∀ k a, reticleOf k = r → (t.coreOf k).mem.loc.read a = 0 ∧ (t.coreOf k).mem.imem.read a = 0 ∧
          (t.coreOf k).mem.bad = [] ∧ (t.coreOf k).reg.latchFmt = 0) ∧
        (¬ sound → (t.ret r).boot.stage = .dead ∧ bits (t.ret r).bootst 63 60 = 7 ∧ t.bootMsgs = s.bootMsgs) ∧
        (sound → (t.ret r).boot.stage = .b2 ∧ bits (t.ret r).bootst 63 60 = 1 ∧ (due → probe t b.probes) ∧
          (¬ due → (t.ret r).boot.probes = b.probes ∧ t.bootMsgs = s.bootMsgs))) ∧
    (b.stage = .b2 →
      (due → ∃ t : State, exec .b2LinkTest s = .next t ∧ s.coresKept t ∧ s.memKept t ∧ (t.ret r).boot.stage = .b2 ∧
        probe t b.probes) ∧
      (¬ due → exec .b2LinkTest s = .next s)) ∧
    (b.stage = .b2 → 42 * 1600000 ≤ now →
      let echoes := fun (sel : Nat) => b.echoes.getD sel []
      ∃ t : State, exec .b3Election s = .next t ∧ s.coresKept t ∧ s.memKept t ∧ (t.ret r).boot.stage = .b3 ∧
        (t.ret r).boot.best = (rank, r) ∧ (t.ret r).boot.round = 0 ∧ (t.ret r).boot.anyUl = b.ul ∧
        bits (t.ret r).bootst 63 60 = 2 ∧ ∀ sel, sel < 4 →
          let fits := (State.neighbour r sel).isSome = true ∧ State.delayOf (echoes sel) ≤ 255
          ((t.ret r).boot.judged.getLsbD sel = true ↔ fits ∧ 1016 ≤ (echoes sel).length) ∧
          (fits → echoes sel ≠ [] → bits (t.ret r).seldly (31 + 8 * sel) (24 + 8 * sel) = State.delayOf (echoes sel)) ∧
          (¬ fits ∨ echoes sel = [] → bits (t.ret r).seldly (31 + 8 * sel) (24 + 8 * sel) = 0)) ∧
    (b.stage = .b3 → b.round < 48 → 42 * 1600000 + 20 * 1600 * b.round ≤ now →
      ∃ t : State, exec .electionRound s = .next t ∧ s.coresKept t ∧ s.memKept t ∧ (t.ret r).boot.round = b.round + 1 ∧
        (t.ret r).boot.best = b.best ∧ (t.ret r).boot.stage = .b3 ∧
        (∀ sel, sel < 4 → b.round = 0 ∨ s.bootHealthy r sel = true → sent t sel 3)) ∧
    (b.stage = .b3 → 43 * 1600000 ≤ now → ∃ t : State, exec .b4Enumeration s = .next t ∧ s.coresKept t ∧ s.memKept t ∧
      (b.anyUl = false → (t.ret r).boot.stage = .isolated ∧ bits (t.ret r).bootst 63 60 = 6) ∧
      (b.anyUl = true → (t.ret r).boot.stage = .b4 ∧ bits (t.ret r).bootst 63 60 = 3 ∧
        (b.best.2 < 48 → bits (t.ret r).bootst 57 52 = b.best.2) ∧
        (b.best.2 ≠ r → t.module = s.module ∧ t.bootMsgs = s.bootMsgs) ∧
        (b.best.2 = r → (t.ret r).boot.inTree = true ∧ bits (t.ret r).loomst 15 12 = 0xF ∧
          t.module.claims = s.module.claims ++ [(b.best.1, r)] ∧ t.module.claimAt = s.module.claimAt.or (some s.cycle) ∧
          ∀ sel, sel < 4 → s.bootHealthy r sel = true → sent t sel 4 ∧ ∃ c ∈ (t.ret r).boot.children, c.sel = sel))) ∧
    (s.b5Due r = true → ∃ t : State, exec .b5Start s = .next t ∧ s.coresKept t ∧ s.memKept t ∧ (t.ret r).loomOn = true ∧
      t.loomOf r = 0 ∧ (t.ret r).boot.stage = .running ∧ (t.ret r).boot.finished = true ∧ bits (t.ret r).bootst 63 60 = 4 ∧
      ∀ c ∈ b.children, c.sel < 4 → sent t c.sel 8 ∧ sent t c.sel 9) ∧
    (s.b5Due r = false → exec .b5Start s = .next s) ∧
    (let late := b.children.any (fun c => c.sel == s.arg.sel && s.childLate c);
      (late = true → ∃ t : State, exec .enumTimeout s = .next t ∧ s.coresKept t ∧ s.memKept t ∧
        (t.ret r).boot.children = b.children.filter (fun c => c.sel != s.arg.sel) ∧ (t.ret r).boot.stage = b.stage) ∧
      (late = false → exec .enumTimeout s = .next s)) ∧
    (93 * 1600000 ≤ now → b.finished = false → b.stage = .b4 → ∃ t : State, exec .enumerationDeadline s = .next t ∧
      s.coresKept t ∧ s.memKept t ∧ (t.ret r).boot.stage = .withheld ∧ bits (t.ret r).bootst 63 60 = 5 ∧
      ∀ q, q ≠ r → t.ret q = s.ret q) ∧
    (now < 93 * 1600000 ∨ b.finished = true → exec .enumerationDeadline s = .next s) ∧
    (b.stage ≠ .b2 ∨ now < 42 * 1600000 → exec .b3Election s = .next s) ∧
    (b.stage ≠ .b3 ∨ 48 ≤ b.round ∨ now < 42 * 1600000 + 20 * 1600 * b.round → exec .electionRound s = .next s) ∧
    (b.stage ≠ .b3 ∨ now < 43 * 1600000 → exec .b4Enumeration s = .next s) ∧
    (s.module.claims = [] ∨ (∀ n, s.module.claimAt = some n → s.cycle < n + 500 * 1600) → exec .ullerClaimGrant s = .next s) ∧
    (∀ c cs n, s.module.claims = c :: cs → s.module.claimAt = some n → n + 500 * 1600 ≤ s.cycle →
      ∃ (t : State) (win : Nat × Nat), exec .ullerClaimGrant s = .next t ∧ s.coresKept t ∧ s.memKept t ∧
        t.module.granted = true ∧ t.module.claims = [win] ∧ win ∈ c :: cs ∧
        (∀ d ∈ c :: cs, win.1 < d.1 ∨ (win.1 = d.1 ∧ win.2 ≤ d.2)) ∧
        ∀ q, q < 48 → (s.ret q).boot.stage = .b4 → (s.ret q).boot.best ∈ c :: cs →
          (t.ret q).boot.stage = if (s.ret q).boot.best = win then .b4 else .withheld)

/-- The messages of boot complete (rules R380 to R384, R398). A message whose check code is wrong, or that a dead reticle hears,
does nothing. A probe is answered after 16 cycles with its payload, but by no reticle that its own B1 finds dead; a right echo in
time counts its round trip; an election message merges the least pair and the port bit over a healthy selvedge; the first ENUM
makes its sender the parent and is accepted, another is refused; ACCEPT and REPORT join their child, REFUSE drops it; LSTART sets
the count, from the parent alone; DONE makes the reticle run. The places of the fields in the messages are log entry 24, the mark
on a report's last piece is log entry 15, and the wait of an ELECT or ENUM that comes before its stage is log entry 87. -/
def Obligations.BootMessagesComplete : Prop :=
  ∀ (s : State) (r sel : Nat), s.arg.ret = r → s.arg.sel = sel → r < 48 → sel < 4 →
    let bs := s.arg.bytes
    let x := s.ret r
    let b := x.boot
    let sound := bootSound bs = true ∧ b.stage ≠ .dead
    let hears := fun (type : Nat) => sound ∧ (bs.getD 0 0).toNat = type
    let sent := fun (t : State) (sel type : Nat) => ∀ n, State.neighbour r sel = some n → ∃ m ∈ t.bootMsgs, m.ret = n ∧
      m.sel = (sel + 2) % 4 ∧ m.bytes.getD 0 0 = BitVec.ofNat 8 type ∧ m.bytes.getD 1 0 = BitVec.ofNat 8 r
    let kept := fun (t : State) => s.coresKept t ∧ s.memKept t ∧ ∀ q, q ≠ r → t.ret q = s.ret q
    (¬ sound → ∀ i, i = .lprobe ∨ i = .lecho ∨ i = .elect ∨ i = .enum ∨ i = .accept ∨ i = .refuse ∨ i = .report ∨ i = .lstart ∨
      i = .done → exec i s = .next s) ∧
    (hears 1 → s.mute r = true → exec .lprobe s = .next s) ∧
    (hears 1 → s.mute r = false → ∀ n, State.neighbour r sel = some n → ∃ t u, exec .lprobe s = .next t ∧ kept t ∧ s.cycle + 16 ≤ u ∧
      t.bootMsgs = s.bootMsgs ++ [{ arrive := u + State.crossing r sel, ret := n, sel := (sel + 2) % 4
                                    bytes := bootBytes 2 r (mapRank x.fused) (payloadOf 8 (payloadNat bs 0 8)) }]) ∧
    (hears 2 →
      let i := payloadNat bs 0 4
      let left := b.sent.getD sel []
      let trip := s.cycle - left.getD i 0
      let counts := b.stage = .b2 ∧ i < left.length ∧ payloadNat bs 4 4 = probePattern i ∧ trip ≤ 512;
      (counts → ∃ t, exec .lecho s = .next t ∧ kept t ∧ (t.ret r).boot.echoes.getD sel [] = b.echoes.getD sel [] ++ [trip] ∧
        ∀ j, j ≠ sel → (t.ret r).boot.echoes.getD j [] = b.echoes.getD j []) ∧
      (¬ counts → exec .lecho s = .next s)) ∧
    (hears 3 → b.stage = .b3 → ∃ t, exec .elect s = .next t ∧ kept t ∧
      let first := payloadAt bs 0 = 0 ∧ payloadAt bs 1 % 2 = 1
      let c := if first then b.called ||| BitVec.ofNat 4 (2 ^ sel) else b.called
      (t.ret r).boot.called = c ∧
      ((b.judged.getLsbD sel && c.getLsbD sel) = true →
        (t.ret r).boot.anyUl = (b.anyUl || decide (payloadAt bs 1 / 2 % 2 = 1)) ∧
        (t.ret r).boot.best = State.lessPair b.best (payloadAt bs 2, payloadAt bs 3)) ∧
      ((b.judged.getLsbD sel && c.getLsbD sel) = false → (t.ret r).boot.anyUl = b.anyUl ∧ (t.ret r).boot.best = b.best)) ∧
    (hears 4 → b.stage = .b4 → s.cycle - b.start < 93 * 1600000 → s.bootHealthy r sel = true →
      (b.inTree = true → ∃ t, exec .enum s = .next t ∧ kept t ∧ sent t sel 6 ∧ (t.ret r).boot.parent = b.parent) ∧
      (b.inTree = false → ∃ t, exec .enum s = .next t ∧ kept t ∧ sent t sel 5 ∧ (t.ret r).boot.parent = some sel ∧
        (t.ret r).boot.inTree = true ∧ (t.ret r).boot.depth = payloadAt bs 1 + 1 ∧ bits (t.ret r).loomst 15 12 = sel ∧
        ∀ c, c < 4 → c ≠ sel → s.bootHealthy r c = true → sent t c 4)) ∧
    (hears 4 → b.stage ≠ .b4 ∨ 93 * 1600000 ≤ s.cycle - b.start ∨ s.bootHealthy r sel = false → exec .enum s = .next s) ∧
    (hears 5 → ∃ t, exec .accept s = .next t ∧ kept t ∧ (t.ret r).boot.children =
      b.children.map (fun c => if c.sel = sel then { c with accepted := true, heard := s.cycle } else c)) ∧
    (hears 6 → ∃ t, exec .refuse s = .next t ∧ kept t ∧ (t.ret r).boot.children = b.children.filter (fun c => c.sel != sel)) ∧
    (hears 7 → ∃ t, exec .report s = .next t ∧ kept t ∧ (t.ret r).boot.children =
      b.children.map (fun c => if c.sel = sel ∧ c.accepted = true ∧ c.whole = false then { c with
        heard := s.cycle, pieces := c.pieces ++ [BitVec.ofNat 64 (payloadNat bs 0 8)], whole := payloadAt bs 8 == 1 } else c)) ∧
    (hears 8 → b.parent = some sel → x.loomOn = false → ∃ t, exec .lstart s = .next t ∧ kept t ∧ (t.ret r).loomOn = true ∧
      t.loomOf r = BitVec.ofNat 64 (payloadNat bs 0 8 + bits x.seldly (31 + 8 * sel) (24 + 8 * sel)) ∧
      ∀ c ∈ b.children, c.sel < 4 → sent t c.sel 8) ∧
    (hears 8 → b.parent ≠ some sel ∨ x.loomOn = true → exec .lstart s = .next s) ∧
    (hears 9 → b.parent = some sel → b.finished = false → b.stage = .b4 → ∃ t, exec .done s = .next t ∧ kept t ∧
      (t.ret r).boot.stage = .running ∧ (t.ret r).boot.finished = true ∧ bits (t.ret r).bootst 63 60 = 4 ∧
      ∀ c ∈ b.children, c.sel < 4 → sent t c.sel 9) ∧
    (hears 9 → b.parent ≠ some sel ∨ b.finished = true ∨ b.stage ≠ .b4 → exec .done s = .next s)

/-! ### Power, placement, debug stops, windows -/

/-- Power control completes (rules R93, R399 to R404). A refused write sets REFUSED of RPST and changes no limit; an accepted one waits for
the region's next step, which also makes ACT into PREV, or 0 where the count has jumped over a step (the 0 after a jump is the model's
choice, and so is that the count is that of the region's first reticle, log entry 85, and that a written MSTAG counts from any one
region's next step on, log entry 63). A pair that begins is gated
by the step limit, by droop, by heat or by module power, each counted in its field of RPST; below the exchange floor in an
exchange phase the context is to be lost. A loss of power leaves the persistent ranges, the fused maps and the installer keys, and
every core as reset leaves it: a persistent byte that a card wrote whose token was not yet done holds what stood there before or what a
card wrote since, and one whose card had ended, or that no card wrote, what was written last; that every other byte then reads 0 is the
model's choice (log entries 4 and 46). -/
def Obligations.PowerEventsComplete : Prop :=
  ∀ (s : State) (r : Nat), s.arg.region = r → r < 16 →
    let w := s.arg.value
    let x := s.region r
    let kept := fun (t : State) => s.coresKept t ∧ s.memKept t ∧ ∀ q, q ≠ r → t.region q = s.region q
    let gated := fun (t : State) (hi lo : Nat) (counted : Bool) => kept t ∧ (t.region r).gated = true ∧
      bits (t.region r).rpst hi lo = if counted then min (2 ^ (hi + 1 - lo) - 1) (bits x.rpst hi lo + 1) else bits x.rpst hi lo
    let same := fun (i : Instr) => exec i s = .next s
    let refused := fun (i : Instr) => exec i s = .next (s.putRegion r { x with rpst := x.rpst ||| 0x10 })
    (bits w 55 48 ≤ bits w 47 40 → refused .rpctlWrite) ∧
    (bits w 47 40 < bits w 55 48 → exec .rpctlWrite s =
      .next (s.putRegion r { x with rpnext := some (w &&& 0x00FFFF00FFFFFFFF) })) ∧
    (bits w 47 40 ≤ bits w 39 32 ∨ 0x78 < bits w 47 40 → refused .rthermWrite) ∧
    (bits w 39 32 < bits w 47 40 → bits w 47 40 ≤ 0x78 → exec .rthermWrite s =
      .next (s.putRegion r { x with rthnext := some (w &&& 0x0000FFFF00000000) })) ∧
    (52000 < bits w 35 20 ∨ bits w 35 20 < 10000 → same .mstagWrite) ∧
    (10000 ≤ bits w 35 20 → bits w 35 20 ≤ 52000 → exec .mstagWrite s =
      .next { s with module := { s.module with mstagNext := some (w &&& 0x0000000FFFF0000F) } }) ∧
    (let n := (s.loomOf ((regionReticles r).headD 0)).toNat / 320;
      ∃ t, exec .activityStep s = .next t ∧ kept t ∧ (t.region r).prev = (if x.step = some (n - 1) ∧ 0 < n then x.act else 0) ∧
      (t.region r).act = 0 ∧ (t.region r).step = some n ∧
      (t.region r).rpctl = x.rpnext.getD x.rpctl ∧ (t.region r).rtherm = x.rthnext.getD x.rtherm ∧
      (t.region r).rpnext = none ∧ (t.region r).rthnext = none ∧
      t.module.mstag = s.module.mstagNext.getD s.module.mstag ∧ t.module.mstagNext = none) ∧
    (s.pairStart r = false → ∀ i, i = .issueGatePair ∨ i = .droopAlarm ∨ i = .droopBelowFloor ∨ i = .thermalHot ∨
      i = .thermalCrit ∨ i = .powerLimitGate → same i) ∧
    (s.pairStart r = true →
      (s.byStep r = false → exec .issueGatePair s = .next (s.putRegion r { x with gated := false })) ∧
      (s.byStep r = true → ∃ t, exec .issueGatePair s = .next t ∧ gated t 63 48 (!s.byHeat r && !s.byDroop r)) ∧
      (s.alarmNow r = true → s.byDroop r = true → ∃ t, exec .droopAlarm s = .next t ∧ gated t 47 32 (!s.byHeat r)) ∧
      (s.alarmNow r = true → s.inExchange r = true → s.floorNow r = false → ∃ t, exec .droopAlarm s = .next t ∧ kept t ∧
        bits (t.region r).rpst 15 8 = min 255 (bits x.rpst 15 8 + 1) ∧ (t.region r).gated = x.gated) ∧
      (s.floorNow r = true → s.inExchange r = true → ∀ p y, s.partOfRegion r = some p → p < 16 → (s.part p).ctx = some y →
        ∃ (t : State) (l : Loss), exec .droopBelowFloor s = .next t ∧ kept t ∧ l.cause = 0x0C ∧
          (t.part p).ctx = some { y with losses := y.losses ++ [l] }) ∧
      (s.floorNow r = true → s.byDroop r = true → s.inExchange r = false → s.alarmNow r = false →
        ∃ t, exec .droopBelowFloor s = .next t ∧ gated t 47 32 (!s.byHeat r)) ∧
      (s.byHeat r = true → s.critNow r = false → ∃ t, exec .thermalHot s = .next t ∧ gated t 31 16 true) ∧
      (s.byHeat r = true → s.critNow r = true → ∃ t, exec .thermalCrit s = .next t ∧ gated t 31 16 true) ∧
      (s.byPower r = true → ∃ t, exec .powerLimitGate s = .next t ∧ kept t ∧ (t.region r).gated = true ∧
        (t.region r).rpst.getLsbD 5 = true)) ∧
    ∀ i, i = .powerLoss ∨ i = .overtempPowerOff → ∃ t : State, exec i s = .next t ∧
      t.power = false ∧ t.agenda = [] ∧ (∀ k, t.coreOf k = Core.reset k) ∧ t.module.instkey = s.module.instkey ∧
      (∀ q, q < 48 → (t.ret q).fused = (s.ret q).fused ∧ (t.ret q).loomOn = false) ∧ (∀ p, (t.part p).ctx = none) ∧
      ∀ a, (s.isPersistent a = false → t.mem.read a = 0) ∧
        let touches := fun (e : GranuleLog) => ∃ b ∈ e.bytes, b.1 = a
        let after := fun (es : List GranuleLog) => ∃ e ∈ es, ∃ b ∈ e.bytes, b.1 = a ∧ t.mem.read a = b.2.2
        (s.isPersistent a = true → (∀ e ∈ s.journal, ¬ touches e) → t.mem.read a = s.mem.read a) ∧
        ∀ xs e ys old new, s.isPersistent a = true → s.journal = xs ++ e :: ys → (a, old, new) ∈ e.bytes →
          (e.bytes.map (·.1)).Nodup →
          ((∀ x ∈ xs, ¬ touches x) → t.mem.read a = old ∨ after (e :: ys)) ∧
          ((∀ c ∈ s.cards, e.card ≠ some c.id) → t.mem.read a = new ∨ after ys)

/-- Placement, installer keys, debug stops and windows complete (rules R11, R12, R19, R174, R188, R364, R367, R395, R396, R409,
R410). The placement service starts when it is idle, with PLCMD, PLSRC and PLDST as they then stand, which a later write changes only for
reads of them; it ends with its result and, when an origin is accepted, the image of its part (that it takes its registers at the start,
and how the part's image is laid out, is log entry 25). A word of INSTKEY is written once. A debug stop is requested, and withdrawn until it is
done. A read of a window returns the word, and clears its RC fields (accesses of aligned 8 bytes, and the answer in the state's readback,
are log entry 62); a write of a register with an event of its own is that event;
a write of ARRMODE (its offset is log entry 73), of a core's local space or IMEM counts while the core is unbound or its partition
halted (what is halted is log entry 72), and one of its debug registers while it is unbound or at rest, for which a stop alone is
not enough. -/
def Obligations.ManagementCompletes : Prop :=
  ∀ (s : State),
    let m := s.module
    let w := s.arg.value
    let o := s.arg.off / 8 * 8
    let p := s.arg.part
    let g := s.arg.region
    let k := s.arg.core
    let over_ := m.plEnd.any (fun t => decide (t ≤ s.cycle))
    let ends := fun (t : State) (st : Word) => exec .placementEnd s = .next t ∧ t.module.plst = st ∧ t.module.plEnd = none ∧
      t.module.plcmd = m.plcmd &&& ~~~1 ∧ s.coresKept t
    let reads := fun (t : State) (v : Word) => exec .rcRead s = .next t ∧ t.readback = v ∧ s.coresKept t ∧ s.memKept t
    (m.plcmd.getLsbD 0 = true →
      exec .placementRun s = .next { s with module := { m with plcmd := (w &&& 0xFFFF0001) ||| 1 } }) ∧
    (m.plcmd.getLsbD 0 = false → w.getLsbD 0 = true → ∃ (t : State) (u : Nat), exec .placementRun s = .next t ∧ s.cycle < u ∧
      t.module = { m with
        plcmd := w &&& 0xFFFF0001, placing := (w &&& 0xFFFF0001, m.plsrc, m.pldst), plEnd := some u } ∧ s.coresKept t ∧ s.memKept t) ∧
    (m.plcmd.getLsbD 0 = false → w.getLsbD 0 = false →
      exec .placementRun s = .next { s with module := { m with plcmd := w &&& 0xFFFF0001 } }) ∧
    (over_ = false → exec .placementEnd s = .next s) ∧
    (over_ = true → s.sourceOk s.sourceImage = false → ∃ t, ends t (State.plstWord [] 0 1) ∧ s.memKept t) ∧
    (over_ = true → s.sourceOk s.sourceImage = true →
      ((s.origins s.sourceImage).isEmpty = true → ∃ t, ends t (State.plstWord [] 0 4) ∧ s.memKept t) ∧
      ((s.origins s.sourceImage).isEmpty = false →
        let out := s.place s.sourceImage
        let fits := s.backedRange (bits m.placing.2.2 55 6 * 64) (State.layOut (s.newSections s.sourceImage out)).2
        (out.acc = [] → ∃ t, ends t (State.plstWord [] 0 2) ∧ s.memKept t) ∧
        (out.acc ≠ [] → fits = false → ∃ t, ends t (State.plstWord [] 0 3) ∧ s.memKept t) ∧
        (out.acc ≠ [] → fits = true → ∃ t, ends t (State.plstWord out.acc (s.writePart s.sourceImage out).2 0) ∧
          t.mem = (s.writePart s.sourceImage out).1.mem))) ∧
    (∀ i, s.arg.n = i → i < 16 → (m.instkey.getD i none = none → exec .instkeyWrite s =
        .next { s with module := { m with instkey := m.instkey.setIfInBounds i (some w) } }) ∧
      ((m.instkey.getD i none).isSome = true → exec .instkeyWrite s = .next s)) ∧
    (p < 16 → (∃ t, exec .debugStopRequest s = .next t ∧ s.coresKept t ∧ s.memKept t ∧ (t.part p).dstop.getLsbD 0 = true ∧
      (t.part p).ctx = (s.part p).ctx ∧
      (s.stopped p = true → (s.part p).dstop.getLsbD 1 = false → (t.part p).dstop.getLsbD 1 = true ∧ t.stopped p = true))) ∧
    ((s.part p).dstop.getLsbD 1 = true → exec .debugStopWithdraw s = .next s) ∧
    (p < 16 → (s.part p).dstop.getLsbD 1 = false → ∃ t, exec .debugStopWithdraw s = .next t ∧ s.memKept t ∧
      (t.part p).dstop = 0 ∧ (t.part p).ctx = (s.part p).ctx ∧
      ∀ c ∈ t.coresIn p, ∃ b ∈ s.coresIn p, b.idx = c.idx ∧ c.reg = b.reg ∧ c.mem = b.mem ∧
        (b.ctl.mode ≠ .frozen .debug → c = b) ∧
        (b.ctl.mode = .frozen .debug → c.ctl.mode = .running ∧ s.cycle ≤ c.ctl.wake ∧ c.ctl.wake ≤ s.cycle + 1 ∧ c.ctl.pc = b.ctl.pc)) ∧
    (∀ q, q < 16 → s.arg.win = .region q → 
      (o = 0x020 → ∃ t, reads t (s.region q).shstat ∧ bits (t.region q).shstat 31 16 = 0 ∧
        bits (t.region q).shstat 15 0 = bits (s.region q).shstat 15 0 ∧ bits (t.region q).shstat 63 32 = bits (s.region q).shstat 63 32) ∧
      (o = 0x110 → ∃ t, reads t (s.rpstWord q) ∧ bits (t.region q).rpst 63 8 = 0 ∧
        bits (t.region q).rpst 7 0 = bits (s.region q).rpst 7 0) ∧
      (o = 0x080 → ∃ t, reads t (s.pbarWord q) ∧ bits (t.part q).pbar 15 8 = 0) ∧
      (o = 0x100 → exec .rcRead s = .next { s with readback := State.rpctlWord (s.region q) })) ∧
    (s.arg.win = .tile s.arg.n → o = 0x8400 → ∃ t, reads t (s.tileAt s.arg.n).xstat ∧
      bits (t.tileAt s.arg.n).xstat 63 16 = 0 ∧ bits (t.tileAt s.arg.n).xstat 15 0 = bits (s.tileAt s.arg.n).xstat 15 0) ∧
    (s.arg.win = .region g → (o = 0x100 → exec .registerWrite s = exec .rpctlWrite s) ∧
      (o = 0x108 → exec .registerWrite s = exec .rthermWrite s) ∧ (o = 0x0C0 → exec .registerWrite s = exec .trringWrite s)) ∧
    (s.arg.win = .module → (o = 0x7C00 → exec .registerWrite s = exec .mstagWrite s) ∧
      (o = 0x1300 → exec .registerWrite s = exec .ctxareaWrite s) ∧ (o = 0x7200 → exec .registerWrite s = exec .placementRun s) ∧
      (o = 0x1208 → exec .registerWrite s = .next { s with sched := { s.sched with imgarg := w &&& 0x00FFFFFFFFFFFFC0 } })) ∧
    (s.arg.win = .tile s.arg.n → o = 0x8410 →
      let free := match s.partOf (2 * s.arg.n) with | some p => s.halted p | none => true;
      (free = true → bits w 1 0 ≠ 3 →
        exec .registerWrite s = .next (s.putTile { s.tileAt s.arg.n with arrmode := bits w 1 0 })) ∧
      (free = false ∨ bits w 1 0 = 3 → exec .registerWrite s = .next s)) ∧
    (s.coreOpen k = false ∨ 0x286000 ≤ o ∨ (0x284E80 ≤ o ∧ o < 0x284EC0) → exec .managementWindowWrite s = .next s) ∧
    (s.coreOpen k = true → 0x285000 ≤ o → o < 0x286000 →
      (s.debugOpen k = true → exec .managementWindowWrite s = .next (s.onCore k (fun c => c.putDebugWord o w))) ∧
      (s.debugOpen k = false → exec .managementWindowWrite s = .next s)) ∧
    (s.coreOpen k = true → o < 0x240000 → ∃ t, exec .managementWindowWrite s = .next t ∧ s.memKept t ∧
      (∀ i, i < 8 → (t.coreOf k).mem.loc.read (o + i) = w.extractLsb' (8 * i) 8) ∧
      (∀ y, y < o ∨ o + 8 ≤ y → (t.coreOf k).mem.loc.read y = (s.coreOf k).mem.loc.read y) ∧
      (t.coreOf k).reg = (s.coreOf k).reg ∧ (t.coreOf k).mem.imem = (s.coreOf k).mem.imem ∧
      ∀ j, j ≠ k → t.coreOf j = s.coreOf j) ∧
    (s.coreOpen k = true → 0x240000 ≤ o → o < 0x280000 → ∃ t, exec .managementWindowWrite s = .next t ∧ s.memKept t ∧
      (∀ i, i < 8 → (t.coreOf k).mem.imem.read (o - 0x240000 + i) = w.extractLsb' (8 * i) 8) ∧
      (t.coreOf k).reg = (s.coreOf k).reg ∧ (t.coreOf k).mem.loc = (s.coreOf k).mem.loc ∧
      ∀ j, j ≠ k → t.coreOf j = s.coreOf j)

/-! ### The machine as a whole -/

/-- Register 0 of the scalars and of the predicates (rule R216): a write is discarded, a read returns 0 and 1, and it is no
destination in the sense of rule R214, whatever slot and word name it. -/
def Obligations.ConstantRegisters : Prop :=
  ∀ (r : Regs) (c : Core) (x : Word) (b : Bool) (sl : Slot) (w : Word32),
    r.setS 0 x = r ∧ r.setP 0 b = r ∧ (r.setS 0 x).getS 0 = 0 ∧ (r.setP 0 b).getP 0 = true ∧ r.getS 0 = 0 ∧ r.getP 0 = true ∧
    c.rs 0 = 0 ∧ c.rp 0 = true ∧ (∀ n : BitVec 6, n ≠ 0 → (r.setS n x).getS n = x ∧ (r.setS n x).getS 0 = 0) ∧
    destOf sl w ≠ some (.s 0) ∧ destOf sl w ≠ some (.p 0)

/-- A step runs the next event, and with a bundle its slots (rules R209, R210): the head of the agenda happens on the rest of it;
slots that the event has put first happen in the same step, in order. A slot word placed where the next step fetches
stands behind a head word that names its slot; the next event is the issue of that bundle, and its words decode to that
instruction in that slot. (These are the model's own forms: one event of the agenda with its slots in one step, log entry 9; the placed
word, log entry 1; and the slot in which a word of the table is read, log entry 7.) -/
def Obligations.StepRunsTheDecoded : Prop :=
  (∀ (s : State) (i : Instr) (a : Arg) (rest : List (Instr × Arg)), s.agenda = (i, a) :: rest →
    let u := { s with agenda := rest, arg := a }
    (∀ t, exec i u = .next t → t.slotNext = false → step s = .next t) ∧
    (∀ t j b more v, exec i u = .next t → t.agenda = (j, b) :: more → j.isSlot = true → b.bundle = true →
      exec j { t with agenda := more, arg := b } = .next v → v.slotNext = false → step s = .next v)) ∧
  (∀ (s : State) (w : Nat) (sl : Slot) (i : Instr), decodeTableSlot 32 w = some (sl, i) → w < 2 ^ 32 →
    let u := s.withFetchWord 32 w
    let pc := s.core.ctl.pc.toNat
    ∃ (h : Head) (a : Arg), decodeTableWord 32 w = some i ∧ u.agenda = [(.bundleIssue, a)] ∧ a.core = s.core.idx ∧ u.power = true ∧
      u.core.ctl.pc = s.core.ctl.pc ∧ u.core.ctl.mode = .running ∧ u.core.reg = s.core.reg ∧ u.core.mem.loc = s.core.mem.loc ∧
      u.mem = s.mem ∧ u.others = s.others ∧
      u.core.mem.imem.readN pc 4 = toBytes 4 h.word.toNat ∧ u.core.mem.imem.readN (pc + 4) 4 = toBytes 4 w ∧
      h.slots = [sl] ∧ (∀ n, n ≤ 14 → decodeHead h.word n = .bundle h) ∧ decodeSlot sl (BitVec.ofNat 32 w) = .ok i)

/-- A step stops only where the module is without power and nothing can bring it back: it is never refused, the one fault is
`poweredOff`, and every instruction answers a next state, as a slot of a bundle and alone. (The fault, on an empty agenda and an empty
inbox, is the model's own form, log entry 9; rules R379 and R402 say what power does.) -/
def Obligations.StepNeverRefuses : Prop :=
  (∀ (s : State) r, step s ≠ .refused r) ∧
  (∀ (s : State), step s = .fault .poweredOff ↔ s.agenda = [] ∧ s.power = false ∧ s.inbox = []) ∧
  (∀ (i : Instr) (s : State), ∃ t : State, exec i s = .next t)

/-- Words of the spec's encodings decode to the instructions they stand for (rules R209 to R211, R222 to R231, R240, R274,
R299, R300), and words whose reserved bits or fields break rule R223, or whose opcode no slot assigns, are refused. -/
def Obligations.WordsDecode : Prop :=
  decodeTableWord 32 0x030261A0 = some (.mul { g := 0, d := 9, a := 33, b := 40 }) ∧
  decodeSlot .mx 0x00409000 = .ok (.mmZero { g := 0, mask := 9 }) ∧
  decodeSlot .mx 0x0051C000 = .ok (.mmCfg { g := 0, a := 7 }) ∧
  decodeSlot .va 0x0180420D = .ok (.vcmpF32 { g := 0, d := 1, a := 2, b := 3, x := 1 }) ∧
  decodeSlot .sa 0x20000108 = .ok (.add false { g := 2, d := 0, a := 1, b := 2 }) ∧
  decodeSlot .sb 0x20000108 = .ok (.add true { g := 2, d := 0, a := 1, b := 2 }) ∧
  decodeSlot .sa 0x20000109 = .bad .illegalEncoding ∧ decodeSlot .sa 0x0FF00000 = .bad .illegalOpcode ∧
  decodeSlot .mx 0x00400000 = .bad .illegalEncoding ∧ decodeSlot .sb 0x030261A0 = .bad .illegalOpcode ∧
  decodeHead 0 5 = .lineEnd ∧ decodeHead 0x01000001 0 = .malformed ∧ decodeHead 0x00010000 0 = .malformed ∧
  decodeHead 0x00060000 0 = .delay { idle := 3, safe := false, wm := 0, sp := 0 } ∧
  decodeHead 0x00000041 13 = .bundle { idle := 0, safe := false, wm := 0, sp := 0x41 } ∧ decodeHead 0x00000041 14 = .malformed

/-- Decoding and encoding agree (rules R211, R222, R223): every well-formed slot instruction is what its slot reads in its word,
whatever its fields hold, and a word that a slot accepts is well formed and is the word of the instruction read from it: no
bit of a word is dropped, and no word has two instructions. -/
def Obligations.DecodeEncode : Prop :=
  (∀ (i : Instr) (sl : Slot) (w : Word32), i.wf = true → encode i = some (sl, w) → decodeSlot sl w = .ok i) ∧
  (∀ (i : Instr) (sl : Slot) (w : Word32), decodeSlot sl w = .ok i → i.wf = true ∧ encode i = some (sl, w))

/-- What module reset leaves (rules R70, R88, R135, R161, R330, R338, R378, R379, R401, R403, R404): every word of local space
and IMEM reads 0 in every core, no partition is defined and no queue is on, LAST and SSEQ are 0, the slot maps, MIGCTL, RPCTL,
RTHERM and MSTAG hold their reset values, no loom copy runs, and service cores are in B1. (The model's choices among these:
off-wafer bytes read 0, log entry 4; the fused maps are sound, log entry 5; power-good is what happens first, log entry 9;
registers read 0 and cores are unbound before the first bind, log entry 10.) -/
def Obligations.ResetLeaves : Prop :=
  let s := State.reset
  (∀ k x, (s.coreOf k).mem.loc.read x = 0 ∧ (s.coreOf k).mem.imem.read x = 0 ∧ (s.coreOf k).mem.bad = [] ∧
    (s.coreOf k).ctl.mode = .unbound) ∧
  (∀ k r, (s.coreOf k).reg.getS r = 0) ∧ (∀ k r, (s.coreOf k).reg.getV r = 0) ∧ (∀ a, s.mem.read a = 0) ∧
  (∀ p, s.partRegions p = [] ∧ (s.part p).ctx = none ∧ (s.part p).sseq = 0 ∧ ∀ i, (s.part p).last.getD i 0 = 0) ∧
  (∀ q, (s.queue q).on = false) ∧ s.module.migctl = 0x40100001 ∧ s.module.mstag = 0x0000000CB2000001 ∧
  (∀ r, (s.region r).rpctl = 0x000C060000040000 ∧ (s.region r).rtherm = 0x0000695F00000000 ∧
    ∀ i, i < 4 → (s.region r).shmap.getD i 0 = 0x3410205104102010) ∧
  (∀ r, s.loomOf r = 0 ∧ (s.ret r).boot.stage = .b1) ∧ s.module.elogCount = 0 ∧ s.cards = [] ∧ s.links = [] ∧
  s.agenda = [(.powerGood, .none)] ∧ ∀ r, r < 48 → mapSound r (s.ret r).fused = true

/-- Every memory is in its canonical form at reset (the model's own form, log entry 4; rule R9). -/
def Obligations.ResetMemoryCanonical : Prop :=
 State.reset.memWf = true

/-- Every step keeps every memory in its canonical form, so that equal memories stay equal data (the model's own form, log entry
4; rules R9, R46, R49): off-wafer memory, and the local space and instruction memory of every core, whatever event or
instruction the step runs and whatever comes in from outside. -/
def Obligations.StepKeepsMemoryCanonical : Prop :=
  ∀ s t : State, s.memWf = true → step s = .next t → t.memWf = true
end

