-- ==== Sys2Proof/Laws/State.lean ====
section
/-! SUPPORT. State and core updates: one lemma for each field of each update, so that no proof unfolds a record update. -/

namespace Sys2Proof.Machine

namespace State

@[simp] theorem act_core (s : State) (f : Core → Core) : (s.act f).core = f s.core := rfl
@[simp] theorem act_others (s : State) (f : Core → Core) : (s.act f).others = s.others := rfl
@[simp] theorem act_tiles (s : State) (f : Core → Core) : (s.act f).tiles = s.tiles := rfl
@[simp] theorem act_blocks (s : State) (f : Core → Core) : (s.act f).blocks = s.blocks := rfl
@[simp] theorem act_reticles (s : State) (f : Core → Core) : (s.act f).reticles = s.reticles := rfl
@[simp] theorem act_regions (s : State) (f : Core → Core) : (s.act f).regions = s.regions := rfl
@[simp] theorem act_parts (s : State) (f : Core → Core) : (s.act f).parts = s.parts := rfl
@[simp] theorem act_sched (s : State) (f : Core → Core) : (s.act f).sched = s.sched := rfl
@[simp] theorem act_module (s : State) (f : Core → Core) : (s.act f).module = s.module := rfl
@[simp] theorem act_mem (s : State) (f : Core → Core) : (s.act f).mem = s.mem := rfl
@[simp] theorem act_poison (s : State) (f : Core → Core) : (s.act f).poison = s.poison := rfl
@[simp] theorem act_retired (s : State) (f : Core → Core) : (s.act f).retired = s.retired := rfl
@[simp] theorem act_flits (s : State) (f : Core → Core) : (s.act f).flits = s.flits := rfl
@[simp] theorem act_hits (s : State) (f : Core → Core) : (s.act f).hits = s.hits := rfl
@[simp] theorem act_badSamples (s : State) (f : Core → Core) : (s.act f).badSamples = s.badSamples := rfl
@[simp] theorem act_samples (s : State) (f : Core → Core) : (s.act f).samples = s.samples := rfl
@[simp] theorem act_shuttleHits (s : State) (f : Core → Core) : (s.act f).shuttleHits = s.shuttleHits := rfl
@[simp] theorem act_hopped (s : State) (f : Core → Core) : (s.act f).hopped = s.hopped := rfl
@[simp] theorem act_cards (s : State) (f : Core → Core) : (s.act f).cards = s.cards := rfl
@[simp] theorem act_late (s : State) (f : Core → Core) : (s.act f).late = s.late := rfl
@[simp] theorem act_journal (s : State) (f : Core → Core) : (s.act f).journal = s.journal := rfl
@[simp] theorem act_mirrored (s : State) (f : Core → Core) : (s.act f).mirrored = s.mirrored := rfl
@[simp] theorem act_links (s : State) (f : Core → Core) : (s.act f).links = s.links := rfl
@[simp] theorem act_bootMsgs (s : State) (f : Core → Core) : (s.act f).bootMsgs = s.bootMsgs := rfl
@[simp] theorem act_nextId (s : State) (f : Core → Core) : (s.act f).nextId = s.nextId := rfl
@[simp] theorem act_cycle (s : State) (f : Core → Core) : (s.act f).cycle = s.cycle := rfl
@[simp] theorem act_stage (s : State) (f : Core → Core) : (s.act f).stage = s.stage := rfl
@[simp] theorem act_power (s : State) (f : Core → Core) : (s.act f).power = s.power := rfl
@[simp] theorem act_agenda (s : State) (f : Core → Core) : (s.act f).agenda = s.agenda := rfl
@[simp] theorem act_arg (s : State) (f : Core → Core) : (s.act f).arg = s.arg := rfl
@[simp] theorem act_inbox (s : State) (f : Core → Core) : (s.act f).inbox = s.inbox := rfl
@[simp] theorem act_readback (s : State) (f : Core → Core) : (s.act f).readback = s.readback := rfl
@[simp] theorem act_seed (s : State) (f : Core → Core) : (s.act f).seed = s.seed := rfl

@[simp] theorem putTile_core (s : State) (x : Tile) : (s.putTile x).core = s.core := rfl
@[simp] theorem putTile_others (s : State) (x : Tile) : (s.putTile x).others = s.others := rfl
@[simp] theorem putTile_tiles (s : State) (x : Tile) : (s.putTile x).tiles = insertTile x s.tiles := rfl
@[simp] theorem putTile_blocks (s : State) (x : Tile) : (s.putTile x).blocks = s.blocks := rfl
@[simp] theorem putTile_reticles (s : State) (x : Tile) : (s.putTile x).reticles = s.reticles := rfl
@[simp] theorem putTile_regions (s : State) (x : Tile) : (s.putTile x).regions = s.regions := rfl
@[simp] theorem putTile_parts (s : State) (x : Tile) : (s.putTile x).parts = s.parts := rfl
@[simp] theorem putTile_sched (s : State) (x : Tile) : (s.putTile x).sched = s.sched := rfl
@[simp] theorem putTile_module (s : State) (x : Tile) : (s.putTile x).module = s.module := rfl
@[simp] theorem putTile_mem (s : State) (x : Tile) : (s.putTile x).mem = s.mem := rfl
@[simp] theorem putTile_poison (s : State) (x : Tile) : (s.putTile x).poison = s.poison := rfl
@[simp] theorem putTile_retired (s : State) (x : Tile) : (s.putTile x).retired = s.retired := rfl
@[simp] theorem putTile_flits (s : State) (x : Tile) : (s.putTile x).flits = s.flits := rfl
@[simp] theorem putTile_hits (s : State) (x : Tile) : (s.putTile x).hits = s.hits := rfl
@[simp] theorem putTile_badSamples (s : State) (x : Tile) : (s.putTile x).badSamples = s.badSamples := rfl
@[simp] theorem putTile_samples (s : State) (x : Tile) : (s.putTile x).samples = s.samples := rfl
@[simp] theorem putTile_shuttleHits (s : State) (x : Tile) : (s.putTile x).shuttleHits = s.shuttleHits := rfl
@[simp] theorem putTile_hopped (s : State) (x : Tile) : (s.putTile x).hopped = s.hopped := rfl
@[simp] theorem putTile_cards (s : State) (x : Tile) : (s.putTile x).cards = s.cards := rfl
@[simp] theorem putTile_late (s : State) (x : Tile) : (s.putTile x).late = s.late := rfl
@[simp] theorem putTile_journal (s : State) (x : Tile) : (s.putTile x).journal = s.journal := rfl
@[simp] theorem putTile_mirrored (s : State) (x : Tile) : (s.putTile x).mirrored = s.mirrored := rfl
@[simp] theorem putTile_links (s : State) (x : Tile) : (s.putTile x).links = s.links := rfl
@[simp] theorem putTile_bootMsgs (s : State) (x : Tile) : (s.putTile x).bootMsgs = s.bootMsgs := rfl
@[simp] theorem putTile_nextId (s : State) (x : Tile) : (s.putTile x).nextId = s.nextId := rfl
@[simp] theorem putTile_cycle (s : State) (x : Tile) : (s.putTile x).cycle = s.cycle := rfl
@[simp] theorem putTile_stage (s : State) (x : Tile) : (s.putTile x).stage = s.stage := rfl
@[simp] theorem putTile_power (s : State) (x : Tile) : (s.putTile x).power = s.power := rfl
@[simp] theorem putTile_agenda (s : State) (x : Tile) : (s.putTile x).agenda = s.agenda := rfl
@[simp] theorem putTile_arg (s : State) (x : Tile) : (s.putTile x).arg = s.arg := rfl
@[simp] theorem putTile_inbox (s : State) (x : Tile) : (s.putTile x).inbox = s.inbox := rfl
@[simp] theorem putTile_readback (s : State) (x : Tile) : (s.putTile x).readback = s.readback := rfl
@[simp] theorem putTile_seed (s : State) (x : Tile) : (s.putTile x).seed = s.seed := rfl

@[simp] theorem putBlock_core (s : State) (x : Block) : (s.putBlock x).core = s.core := rfl
@[simp] theorem putBlock_others (s : State) (x : Block) : (s.putBlock x).others = s.others := rfl
@[simp] theorem putBlock_tiles (s : State) (x : Block) : (s.putBlock x).tiles = s.tiles := rfl
@[simp] theorem putBlock_blocks (s : State) (x : Block) : (s.putBlock x).blocks = insertBlock x s.blocks := rfl
@[simp] theorem putBlock_reticles (s : State) (x : Block) : (s.putBlock x).reticles = s.reticles := rfl
@[simp] theorem putBlock_regions (s : State) (x : Block) : (s.putBlock x).regions = s.regions := rfl
@[simp] theorem putBlock_parts (s : State) (x : Block) : (s.putBlock x).parts = s.parts := rfl
@[simp] theorem putBlock_sched (s : State) (x : Block) : (s.putBlock x).sched = s.sched := rfl
@[simp] theorem putBlock_module (s : State) (x : Block) : (s.putBlock x).module = s.module := rfl
@[simp] theorem putBlock_mem (s : State) (x : Block) : (s.putBlock x).mem = s.mem := rfl
@[simp] theorem putBlock_poison (s : State) (x : Block) : (s.putBlock x).poison = s.poison := rfl
@[simp] theorem putBlock_retired (s : State) (x : Block) : (s.putBlock x).retired = s.retired := rfl
@[simp] theorem putBlock_flits (s : State) (x : Block) : (s.putBlock x).flits = s.flits := rfl
@[simp] theorem putBlock_hits (s : State) (x : Block) : (s.putBlock x).hits = s.hits := rfl
@[simp] theorem putBlock_badSamples (s : State) (x : Block) : (s.putBlock x).badSamples = s.badSamples := rfl
@[simp] theorem putBlock_samples (s : State) (x : Block) : (s.putBlock x).samples = s.samples := rfl
@[simp] theorem putBlock_shuttleHits (s : State) (x : Block) : (s.putBlock x).shuttleHits = s.shuttleHits := rfl
@[simp] theorem putBlock_hopped (s : State) (x : Block) : (s.putBlock x).hopped = s.hopped := rfl
@[simp] theorem putBlock_cards (s : State) (x : Block) : (s.putBlock x).cards = s.cards := rfl
@[simp] theorem putBlock_late (s : State) (x : Block) : (s.putBlock x).late = s.late := rfl
@[simp] theorem putBlock_journal (s : State) (x : Block) : (s.putBlock x).journal = s.journal := rfl
@[simp] theorem putBlock_mirrored (s : State) (x : Block) : (s.putBlock x).mirrored = s.mirrored := rfl
@[simp] theorem putBlock_links (s : State) (x : Block) : (s.putBlock x).links = s.links := rfl
@[simp] theorem putBlock_bootMsgs (s : State) (x : Block) : (s.putBlock x).bootMsgs = s.bootMsgs := rfl
@[simp] theorem putBlock_nextId (s : State) (x : Block) : (s.putBlock x).nextId = s.nextId := rfl
@[simp] theorem putBlock_cycle (s : State) (x : Block) : (s.putBlock x).cycle = s.cycle := rfl
@[simp] theorem putBlock_stage (s : State) (x : Block) : (s.putBlock x).stage = s.stage := rfl
@[simp] theorem putBlock_power (s : State) (x : Block) : (s.putBlock x).power = s.power := rfl
@[simp] theorem putBlock_agenda (s : State) (x : Block) : (s.putBlock x).agenda = s.agenda := rfl
@[simp] theorem putBlock_arg (s : State) (x : Block) : (s.putBlock x).arg = s.arg := rfl
@[simp] theorem putBlock_inbox (s : State) (x : Block) : (s.putBlock x).inbox = s.inbox := rfl
@[simp] theorem putBlock_readback (s : State) (x : Block) : (s.putBlock x).readback = s.readback := rfl
@[simp] theorem putBlock_seed (s : State) (x : Block) : (s.putBlock x).seed = s.seed := rfl

@[simp] theorem putRet_core (s : State) (r : Nat) (x : Reticle) : (s.putRet r x).core = s.core := rfl
@[simp] theorem putRet_others (s : State) (r : Nat) (x : Reticle) : (s.putRet r x).others = s.others := rfl
@[simp] theorem putRet_tiles (s : State) (r : Nat) (x : Reticle) : (s.putRet r x).tiles = s.tiles := rfl
@[simp] theorem putRet_blocks (s : State) (r : Nat) (x : Reticle) : (s.putRet r x).blocks = s.blocks := rfl
@[simp] theorem putRet_reticles (s : State) (r : Nat) (x : Reticle) : (s.putRet r x).reticles = s.reticles.setIfInBounds r x := rfl
@[simp] theorem putRet_regions (s : State) (r : Nat) (x : Reticle) : (s.putRet r x).regions = s.regions := rfl
@[simp] theorem putRet_parts (s : State) (r : Nat) (x : Reticle) : (s.putRet r x).parts = s.parts := rfl
@[simp] theorem putRet_sched (s : State) (r : Nat) (x : Reticle) : (s.putRet r x).sched = s.sched := rfl
@[simp] theorem putRet_module (s : State) (r : Nat) (x : Reticle) : (s.putRet r x).module = s.module := rfl
@[simp] theorem putRet_mem (s : State) (r : Nat) (x : Reticle) : (s.putRet r x).mem = s.mem := rfl
@[simp] theorem putRet_poison (s : State) (r : Nat) (x : Reticle) : (s.putRet r x).poison = s.poison := rfl
@[simp] theorem putRet_retired (s : State) (r : Nat) (x : Reticle) : (s.putRet r x).retired = s.retired := rfl
@[simp] theorem putRet_flits (s : State) (r : Nat) (x : Reticle) : (s.putRet r x).flits = s.flits := rfl
@[simp] theorem putRet_hits (s : State) (r : Nat) (x : Reticle) : (s.putRet r x).hits = s.hits := rfl
@[simp] theorem putRet_badSamples (s : State) (r : Nat) (x : Reticle) : (s.putRet r x).badSamples = s.badSamples := rfl
@[simp] theorem putRet_samples (s : State) (r : Nat) (x : Reticle) : (s.putRet r x).samples = s.samples := rfl
@[simp] theorem putRet_shuttleHits (s : State) (r : Nat) (x : Reticle) : (s.putRet r x).shuttleHits = s.shuttleHits := rfl
@[simp] theorem putRet_hopped (s : State) (r : Nat) (x : Reticle) : (s.putRet r x).hopped = s.hopped := rfl
@[simp] theorem putRet_cards (s : State) (r : Nat) (x : Reticle) : (s.putRet r x).cards = s.cards := rfl
@[simp] theorem putRet_late (s : State) (r : Nat) (x : Reticle) : (s.putRet r x).late = s.late := rfl
@[simp] theorem putRet_journal (s : State) (r : Nat) (x : Reticle) : (s.putRet r x).journal = s.journal := rfl
@[simp] theorem putRet_mirrored (s : State) (r : Nat) (x : Reticle) : (s.putRet r x).mirrored = s.mirrored := rfl
@[simp] theorem putRet_links (s : State) (r : Nat) (x : Reticle) : (s.putRet r x).links = s.links := rfl
@[simp] theorem putRet_bootMsgs (s : State) (r : Nat) (x : Reticle) : (s.putRet r x).bootMsgs = s.bootMsgs := rfl
@[simp] theorem putRet_nextId (s : State) (r : Nat) (x : Reticle) : (s.putRet r x).nextId = s.nextId := rfl
@[simp] theorem putRet_cycle (s : State) (r : Nat) (x : Reticle) : (s.putRet r x).cycle = s.cycle := rfl
@[simp] theorem putRet_stage (s : State) (r : Nat) (x : Reticle) : (s.putRet r x).stage = s.stage := rfl
@[simp] theorem putRet_power (s : State) (r : Nat) (x : Reticle) : (s.putRet r x).power = s.power := rfl
@[simp] theorem putRet_agenda (s : State) (r : Nat) (x : Reticle) : (s.putRet r x).agenda = s.agenda := rfl
@[simp] theorem putRet_arg (s : State) (r : Nat) (x : Reticle) : (s.putRet r x).arg = s.arg := rfl
@[simp] theorem putRet_inbox (s : State) (r : Nat) (x : Reticle) : (s.putRet r x).inbox = s.inbox := rfl
@[simp] theorem putRet_readback (s : State) (r : Nat) (x : Reticle) : (s.putRet r x).readback = s.readback := rfl
@[simp] theorem putRet_seed (s : State) (r : Nat) (x : Reticle) : (s.putRet r x).seed = s.seed := rfl

@[simp] theorem putRegion_core (s : State) (r : Nat) (x : Region) : (s.putRegion r x).core = s.core := rfl
@[simp] theorem putRegion_others (s : State) (r : Nat) (x : Region) : (s.putRegion r x).others = s.others := rfl
@[simp] theorem putRegion_tiles (s : State) (r : Nat) (x : Region) : (s.putRegion r x).tiles = s.tiles := rfl
@[simp] theorem putRegion_blocks (s : State) (r : Nat) (x : Region) : (s.putRegion r x).blocks = s.blocks := rfl
@[simp] theorem putRegion_reticles (s : State) (r : Nat) (x : Region) : (s.putRegion r x).reticles = s.reticles := rfl
@[simp] theorem putRegion_regions (s : State) (r : Nat) (x : Region) : (s.putRegion r x).regions = s.regions.setIfInBounds r x := rfl
@[simp] theorem putRegion_parts (s : State) (r : Nat) (x : Region) : (s.putRegion r x).parts = s.parts := rfl
@[simp] theorem putRegion_sched (s : State) (r : Nat) (x : Region) : (s.putRegion r x).sched = s.sched := rfl
@[simp] theorem putRegion_module (s : State) (r : Nat) (x : Region) : (s.putRegion r x).module = s.module := rfl
@[simp] theorem putRegion_mem (s : State) (r : Nat) (x : Region) : (s.putRegion r x).mem = s.mem := rfl
@[simp] theorem putRegion_poison (s : State) (r : Nat) (x : Region) : (s.putRegion r x).poison = s.poison := rfl
@[simp] theorem putRegion_retired (s : State) (r : Nat) (x : Region) : (s.putRegion r x).retired = s.retired := rfl
@[simp] theorem putRegion_flits (s : State) (r : Nat) (x : Region) : (s.putRegion r x).flits = s.flits := rfl
@[simp] theorem putRegion_hits (s : State) (r : Nat) (x : Region) : (s.putRegion r x).hits = s.hits := rfl
@[simp] theorem putRegion_badSamples (s : State) (r : Nat) (x : Region) : (s.putRegion r x).badSamples = s.badSamples := rfl
@[simp] theorem putRegion_samples (s : State) (r : Nat) (x : Region) : (s.putRegion r x).samples = s.samples := rfl
@[simp] theorem putRegion_shuttleHits (s : State) (r : Nat) (x : Region) : (s.putRegion r x).shuttleHits = s.shuttleHits := rfl
@[simp] theorem putRegion_hopped (s : State) (r : Nat) (x : Region) : (s.putRegion r x).hopped = s.hopped := rfl
@[simp] theorem putRegion_cards (s : State) (r : Nat) (x : Region) : (s.putRegion r x).cards = s.cards := rfl
@[simp] theorem putRegion_late (s : State) (r : Nat) (x : Region) : (s.putRegion r x).late = s.late := rfl
@[simp] theorem putRegion_journal (s : State) (r : Nat) (x : Region) : (s.putRegion r x).journal = s.journal := rfl
@[simp] theorem putRegion_mirrored (s : State) (r : Nat) (x : Region) : (s.putRegion r x).mirrored = s.mirrored := rfl
@[simp] theorem putRegion_links (s : State) (r : Nat) (x : Region) : (s.putRegion r x).links = s.links := rfl
@[simp] theorem putRegion_bootMsgs (s : State) (r : Nat) (x : Region) : (s.putRegion r x).bootMsgs = s.bootMsgs := rfl
@[simp] theorem putRegion_nextId (s : State) (r : Nat) (x : Region) : (s.putRegion r x).nextId = s.nextId := rfl
@[simp] theorem putRegion_cycle (s : State) (r : Nat) (x : Region) : (s.putRegion r x).cycle = s.cycle := rfl
@[simp] theorem putRegion_stage (s : State) (r : Nat) (x : Region) : (s.putRegion r x).stage = s.stage := rfl
@[simp] theorem putRegion_power (s : State) (r : Nat) (x : Region) : (s.putRegion r x).power = s.power := rfl
@[simp] theorem putRegion_agenda (s : State) (r : Nat) (x : Region) : (s.putRegion r x).agenda = s.agenda := rfl
@[simp] theorem putRegion_arg (s : State) (r : Nat) (x : Region) : (s.putRegion r x).arg = s.arg := rfl
@[simp] theorem putRegion_inbox (s : State) (r : Nat) (x : Region) : (s.putRegion r x).inbox = s.inbox := rfl
@[simp] theorem putRegion_readback (s : State) (r : Nat) (x : Region) : (s.putRegion r x).readback = s.readback := rfl
@[simp] theorem putRegion_seed (s : State) (r : Nat) (x : Region) : (s.putRegion r x).seed = s.seed := rfl

@[simp] theorem putPart_core (s : State) (p : Nat) (x : Part) : (s.putPart p x).core = s.core := rfl
@[simp] theorem putPart_others (s : State) (p : Nat) (x : Part) : (s.putPart p x).others = s.others := rfl
@[simp] theorem putPart_tiles (s : State) (p : Nat) (x : Part) : (s.putPart p x).tiles = s.tiles := rfl
@[simp] theorem putPart_blocks (s : State) (p : Nat) (x : Part) : (s.putPart p x).blocks = s.blocks := rfl
@[simp] theorem putPart_reticles (s : State) (p : Nat) (x : Part) : (s.putPart p x).reticles = s.reticles := rfl
@[simp] theorem putPart_regions (s : State) (p : Nat) (x : Part) : (s.putPart p x).regions = s.regions := rfl
@[simp] theorem putPart_parts (s : State) (p : Nat) (x : Part) : (s.putPart p x).parts = s.parts.setIfInBounds p x := rfl
@[simp] theorem putPart_sched (s : State) (p : Nat) (x : Part) : (s.putPart p x).sched = s.sched := rfl
@[simp] theorem putPart_module (s : State) (p : Nat) (x : Part) : (s.putPart p x).module = s.module := rfl
@[simp] theorem putPart_mem (s : State) (p : Nat) (x : Part) : (s.putPart p x).mem = s.mem := rfl
@[simp] theorem putPart_poison (s : State) (p : Nat) (x : Part) : (s.putPart p x).poison = s.poison := rfl
@[simp] theorem putPart_retired (s : State) (p : Nat) (x : Part) : (s.putPart p x).retired = s.retired := rfl
@[simp] theorem putPart_flits (s : State) (p : Nat) (x : Part) : (s.putPart p x).flits = s.flits := rfl
@[simp] theorem putPart_hits (s : State) (p : Nat) (x : Part) : (s.putPart p x).hits = s.hits := rfl
@[simp] theorem putPart_badSamples (s : State) (p : Nat) (x : Part) : (s.putPart p x).badSamples = s.badSamples := rfl
@[simp] theorem putPart_samples (s : State) (p : Nat) (x : Part) : (s.putPart p x).samples = s.samples := rfl
@[simp] theorem putPart_shuttleHits (s : State) (p : Nat) (x : Part) : (s.putPart p x).shuttleHits = s.shuttleHits := rfl
@[simp] theorem putPart_hopped (s : State) (p : Nat) (x : Part) : (s.putPart p x).hopped = s.hopped := rfl
@[simp] theorem putPart_cards (s : State) (p : Nat) (x : Part) : (s.putPart p x).cards = s.cards := rfl
@[simp] theorem putPart_late (s : State) (p : Nat) (x : Part) : (s.putPart p x).late = s.late := rfl
@[simp] theorem putPart_journal (s : State) (p : Nat) (x : Part) : (s.putPart p x).journal = s.journal := rfl
@[simp] theorem putPart_mirrored (s : State) (p : Nat) (x : Part) : (s.putPart p x).mirrored = s.mirrored := rfl
@[simp] theorem putPart_links (s : State) (p : Nat) (x : Part) : (s.putPart p x).links = s.links := rfl
@[simp] theorem putPart_bootMsgs (s : State) (p : Nat) (x : Part) : (s.putPart p x).bootMsgs = s.bootMsgs := rfl
@[simp] theorem putPart_nextId (s : State) (p : Nat) (x : Part) : (s.putPart p x).nextId = s.nextId := rfl
@[simp] theorem putPart_cycle (s : State) (p : Nat) (x : Part) : (s.putPart p x).cycle = s.cycle := rfl
@[simp] theorem putPart_stage (s : State) (p : Nat) (x : Part) : (s.putPart p x).stage = s.stage := rfl
@[simp] theorem putPart_power (s : State) (p : Nat) (x : Part) : (s.putPart p x).power = s.power := rfl
@[simp] theorem putPart_agenda (s : State) (p : Nat) (x : Part) : (s.putPart p x).agenda = s.agenda := rfl
@[simp] theorem putPart_arg (s : State) (p : Nat) (x : Part) : (s.putPart p x).arg = s.arg := rfl
@[simp] theorem putPart_inbox (s : State) (p : Nat) (x : Part) : (s.putPart p x).inbox = s.inbox := rfl
@[simp] theorem putPart_readback (s : State) (p : Nat) (x : Part) : (s.putPart p x).readback = s.readback := rfl
@[simp] theorem putPart_seed (s : State) (p : Nat) (x : Part) : (s.putPart p x).seed = s.seed := rfl

@[simp] theorem mapCores_core (s : State) (f : Core → Core) : (s.mapCores f).core = f s.core := rfl
@[simp] theorem mapCores_others (s : State) (f : Core → Core) : (s.mapCores f).others = s.others.map f := rfl
@[simp] theorem mapCores_tiles (s : State) (f : Core → Core) : (s.mapCores f).tiles = s.tiles := rfl
@[simp] theorem mapCores_blocks (s : State) (f : Core → Core) : (s.mapCores f).blocks = s.blocks := rfl
@[simp] theorem mapCores_reticles (s : State) (f : Core → Core) : (s.mapCores f).reticles = s.reticles := rfl
@[simp] theorem mapCores_regions (s : State) (f : Core → Core) : (s.mapCores f).regions = s.regions := rfl
@[simp] theorem mapCores_parts (s : State) (f : Core → Core) : (s.mapCores f).parts = s.parts := rfl
@[simp] theorem mapCores_sched (s : State) (f : Core → Core) : (s.mapCores f).sched = s.sched := rfl
@[simp] theorem mapCores_module (s : State) (f : Core → Core) : (s.mapCores f).module = s.module := rfl
@[simp] theorem mapCores_mem (s : State) (f : Core → Core) : (s.mapCores f).mem = s.mem := rfl
@[simp] theorem mapCores_poison (s : State) (f : Core → Core) : (s.mapCores f).poison = s.poison := rfl
@[simp] theorem mapCores_retired (s : State) (f : Core → Core) : (s.mapCores f).retired = s.retired := rfl
@[simp] theorem mapCores_flits (s : State) (f : Core → Core) : (s.mapCores f).flits = s.flits := rfl
@[simp] theorem mapCores_hits (s : State) (f : Core → Core) : (s.mapCores f).hits = s.hits := rfl
@[simp] theorem mapCores_badSamples (s : State) (f : Core → Core) : (s.mapCores f).badSamples = s.badSamples := rfl
@[simp] theorem mapCores_samples (s : State) (f : Core → Core) : (s.mapCores f).samples = s.samples := rfl
@[simp] theorem mapCores_shuttleHits (s : State) (f : Core → Core) : (s.mapCores f).shuttleHits = s.shuttleHits := rfl
@[simp] theorem mapCores_hopped (s : State) (f : Core → Core) : (s.mapCores f).hopped = s.hopped := rfl
@[simp] theorem mapCores_cards (s : State) (f : Core → Core) : (s.mapCores f).cards = s.cards := rfl
@[simp] theorem mapCores_late (s : State) (f : Core → Core) : (s.mapCores f).late = s.late := rfl
@[simp] theorem mapCores_journal (s : State) (f : Core → Core) : (s.mapCores f).journal = s.journal := rfl
@[simp] theorem mapCores_mirrored (s : State) (f : Core → Core) : (s.mapCores f).mirrored = s.mirrored := rfl
@[simp] theorem mapCores_links (s : State) (f : Core → Core) : (s.mapCores f).links = s.links := rfl
@[simp] theorem mapCores_bootMsgs (s : State) (f : Core → Core) : (s.mapCores f).bootMsgs = s.bootMsgs := rfl
@[simp] theorem mapCores_nextId (s : State) (f : Core → Core) : (s.mapCores f).nextId = s.nextId := rfl
@[simp] theorem mapCores_cycle (s : State) (f : Core → Core) : (s.mapCores f).cycle = s.cycle := rfl
@[simp] theorem mapCores_stage (s : State) (f : Core → Core) : (s.mapCores f).stage = s.stage := rfl
@[simp] theorem mapCores_power (s : State) (f : Core → Core) : (s.mapCores f).power = s.power := rfl
@[simp] theorem mapCores_agenda (s : State) (f : Core → Core) : (s.mapCores f).agenda = s.agenda := rfl
@[simp] theorem mapCores_arg (s : State) (f : Core → Core) : (s.mapCores f).arg = s.arg := rfl
@[simp] theorem mapCores_inbox (s : State) (f : Core → Core) : (s.mapCores f).inbox = s.inbox := rfl
@[simp] theorem mapCores_readback (s : State) (f : Core → Core) : (s.mapCores f).readback = s.readback := rfl
@[simp] theorem mapCores_seed (s : State) (f : Core → Core) : (s.mapCores f).seed = s.seed := rfl

@[simp] theorem drawn_core (s : State) : (s.drawn).core = s.core := rfl
@[simp] theorem drawn_others (s : State) : (s.drawn).others = s.others := rfl
@[simp] theorem drawn_tiles (s : State) : (s.drawn).tiles = s.tiles := rfl
@[simp] theorem drawn_blocks (s : State) : (s.drawn).blocks = s.blocks := rfl
@[simp] theorem drawn_reticles (s : State) : (s.drawn).reticles = s.reticles := rfl
@[simp] theorem drawn_regions (s : State) : (s.drawn).regions = s.regions := rfl
@[simp] theorem drawn_parts (s : State) : (s.drawn).parts = s.parts := rfl
@[simp] theorem drawn_sched (s : State) : (s.drawn).sched = s.sched := rfl
@[simp] theorem drawn_module (s : State) : (s.drawn).module = s.module := rfl
@[simp] theorem drawn_mem (s : State) : (s.drawn).mem = s.mem := rfl
@[simp] theorem drawn_poison (s : State) : (s.drawn).poison = s.poison := rfl
@[simp] theorem drawn_retired (s : State) : (s.drawn).retired = s.retired := rfl
@[simp] theorem drawn_flits (s : State) : (s.drawn).flits = s.flits := rfl
@[simp] theorem drawn_hits (s : State) : (s.drawn).hits = s.hits := rfl
@[simp] theorem drawn_badSamples (s : State) : (s.drawn).badSamples = s.badSamples := rfl
@[simp] theorem drawn_samples (s : State) : (s.drawn).samples = s.samples := rfl
@[simp] theorem drawn_shuttleHits (s : State) : (s.drawn).shuttleHits = s.shuttleHits := rfl
@[simp] theorem drawn_hopped (s : State) : (s.drawn).hopped = s.hopped := rfl
@[simp] theorem drawn_cards (s : State) : (s.drawn).cards = s.cards := rfl
@[simp] theorem drawn_late (s : State) : (s.drawn).late = s.late := rfl
@[simp] theorem drawn_journal (s : State) : (s.drawn).journal = s.journal := rfl
@[simp] theorem drawn_mirrored (s : State) : (s.drawn).mirrored = s.mirrored := rfl
@[simp] theorem drawn_links (s : State) : (s.drawn).links = s.links := rfl
@[simp] theorem drawn_bootMsgs (s : State) : (s.drawn).bootMsgs = s.bootMsgs := rfl
@[simp] theorem drawn_nextId (s : State) : (s.drawn).nextId = s.nextId := rfl
@[simp] theorem drawn_cycle (s : State) : (s.drawn).cycle = s.cycle := rfl
@[simp] theorem drawn_stage (s : State) : (s.drawn).stage = s.stage := rfl
@[simp] theorem drawn_power (s : State) : (s.drawn).power = s.power := rfl
@[simp] theorem drawn_agenda (s : State) : (s.drawn).agenda = s.agenda := rfl
@[simp] theorem drawn_arg (s : State) : (s.drawn).arg = s.arg := rfl
@[simp] theorem drawn_inbox (s : State) : (s.drawn).inbox = s.inbox := rfl
@[simp] theorem drawn_readback (s : State) : (s.drawn).readback = s.readback := rfl
@[simp] theorem drawn_seed (s : State) : (s.drawn).seed = s.seed + 1 := rfl

@[simp] theorem onCtx_core (s : State) (p : Nat) (f : Context → Context) : (s.onCtx p f).core = s.core := rfl
@[simp] theorem onCtx_others (s : State) (p : Nat) (f : Context → Context) : (s.onCtx p f).others = s.others := rfl
@[simp] theorem onCtx_tiles (s : State) (p : Nat) (f : Context → Context) : (s.onCtx p f).tiles = s.tiles := rfl
@[simp] theorem onCtx_blocks (s : State) (p : Nat) (f : Context → Context) : (s.onCtx p f).blocks = s.blocks := rfl
@[simp] theorem onCtx_reticles (s : State) (p : Nat) (f : Context → Context) : (s.onCtx p f).reticles = s.reticles := rfl
@[simp] theorem onCtx_regions (s : State) (p : Nat) (f : Context → Context) : (s.onCtx p f).regions = s.regions := rfl
@[simp] theorem onCtx_sched (s : State) (p : Nat) (f : Context → Context) : (s.onCtx p f).sched = s.sched := rfl
@[simp] theorem onCtx_module (s : State) (p : Nat) (f : Context → Context) : (s.onCtx p f).module = s.module := rfl
@[simp] theorem onCtx_mem (s : State) (p : Nat) (f : Context → Context) : (s.onCtx p f).mem = s.mem := rfl
@[simp] theorem onCtx_poison (s : State) (p : Nat) (f : Context → Context) : (s.onCtx p f).poison = s.poison := rfl
@[simp] theorem onCtx_retired (s : State) (p : Nat) (f : Context → Context) : (s.onCtx p f).retired = s.retired := rfl
@[simp] theorem onCtx_flits (s : State) (p : Nat) (f : Context → Context) : (s.onCtx p f).flits = s.flits := rfl
@[simp] theorem onCtx_hits (s : State) (p : Nat) (f : Context → Context) : (s.onCtx p f).hits = s.hits := rfl
@[simp] theorem onCtx_badSamples (s : State) (p : Nat) (f : Context → Context) : (s.onCtx p f).badSamples = s.badSamples := rfl
@[simp] theorem onCtx_samples (s : State) (p : Nat) (f : Context → Context) : (s.onCtx p f).samples = s.samples := rfl
@[simp] theorem onCtx_shuttleHits (s : State) (p : Nat) (f : Context → Context) : (s.onCtx p f).shuttleHits = s.shuttleHits := rfl
@[simp] theorem onCtx_hopped (s : State) (p : Nat) (f : Context → Context) : (s.onCtx p f).hopped = s.hopped := rfl
@[simp] theorem onCtx_cards (s : State) (p : Nat) (f : Context → Context) : (s.onCtx p f).cards = s.cards := rfl
@[simp] theorem onCtx_late (s : State) (p : Nat) (f : Context → Context) : (s.onCtx p f).late = s.late := rfl
@[simp] theorem onCtx_journal (s : State) (p : Nat) (f : Context → Context) : (s.onCtx p f).journal = s.journal := rfl
@[simp] theorem onCtx_mirrored (s : State) (p : Nat) (f : Context → Context) : (s.onCtx p f).mirrored = s.mirrored := rfl
@[simp] theorem onCtx_links (s : State) (p : Nat) (f : Context → Context) : (s.onCtx p f).links = s.links := rfl
@[simp] theorem onCtx_bootMsgs (s : State) (p : Nat) (f : Context → Context) : (s.onCtx p f).bootMsgs = s.bootMsgs := rfl
@[simp] theorem onCtx_nextId (s : State) (p : Nat) (f : Context → Context) : (s.onCtx p f).nextId = s.nextId := rfl
@[simp] theorem onCtx_cycle (s : State) (p : Nat) (f : Context → Context) : (s.onCtx p f).cycle = s.cycle := rfl
@[simp] theorem onCtx_stage (s : State) (p : Nat) (f : Context → Context) : (s.onCtx p f).stage = s.stage := rfl
@[simp] theorem onCtx_power (s : State) (p : Nat) (f : Context → Context) : (s.onCtx p f).power = s.power := rfl
@[simp] theorem onCtx_agenda (s : State) (p : Nat) (f : Context → Context) : (s.onCtx p f).agenda = s.agenda := rfl
@[simp] theorem onCtx_arg (s : State) (p : Nat) (f : Context → Context) : (s.onCtx p f).arg = s.arg := rfl
@[simp] theorem onCtx_inbox (s : State) (p : Nat) (f : Context → Context) : (s.onCtx p f).inbox = s.inbox := rfl
@[simp] theorem onCtx_readback (s : State) (p : Nat) (f : Context → Context) : (s.onCtx p f).readback = s.readback := rfl
@[simp] theorem onCtx_seed (s : State) (p : Nat) (f : Context → Context) : (s.onCtx p f).seed = s.seed := rfl

@[simp] theorem logEntry_core (s : State) (l w : Word) : (s.logEntry l w).core = s.core := by simp only [logEntry]
@[simp] theorem logEntry_others (s : State) (l w : Word) : (s.logEntry l w).others = s.others := by simp only [logEntry]
@[simp] theorem logEntry_tiles (s : State) (l w : Word) : (s.logEntry l w).tiles = s.tiles := by simp only [logEntry]
@[simp] theorem logEntry_blocks (s : State) (l w : Word) : (s.logEntry l w).blocks = s.blocks := by simp only [logEntry]
@[simp] theorem logEntry_reticles (s : State) (l w : Word) : (s.logEntry l w).reticles = s.reticles := by simp only [logEntry]
@[simp] theorem logEntry_regions (s : State) (l w : Word) : (s.logEntry l w).regions = s.regions := by simp only [logEntry]
@[simp] theorem logEntry_parts (s : State) (l w : Word) : (s.logEntry l w).parts = s.parts := by simp only [logEntry]
@[simp] theorem logEntry_sched (s : State) (l w : Word) : (s.logEntry l w).sched = s.sched := by simp only [logEntry]
@[simp] theorem logEntry_mem (s : State) (l w : Word) : (s.logEntry l w).mem = s.mem := by simp only [logEntry]
@[simp] theorem logEntry_poison (s : State) (l w : Word) : (s.logEntry l w).poison = s.poison := by simp only [logEntry]
@[simp] theorem logEntry_retired (s : State) (l w : Word) : (s.logEntry l w).retired = s.retired := by simp only [logEntry]
@[simp] theorem logEntry_flits (s : State) (l w : Word) : (s.logEntry l w).flits = s.flits := by simp only [logEntry]
@[simp] theorem logEntry_hits (s : State) (l w : Word) : (s.logEntry l w).hits = s.hits := by simp only [logEntry]
@[simp] theorem logEntry_badSamples (s : State) (l w : Word) : (s.logEntry l w).badSamples = s.badSamples := by simp only [logEntry]
@[simp] theorem logEntry_samples (s : State) (l w : Word) : (s.logEntry l w).samples = s.samples := by simp only [logEntry]
@[simp] theorem logEntry_shuttleHits (s : State) (l w : Word) : (s.logEntry l w).shuttleHits = s.shuttleHits := by simp only [logEntry]
@[simp] theorem logEntry_hopped (s : State) (l w : Word) : (s.logEntry l w).hopped = s.hopped := by simp only [logEntry]
@[simp] theorem logEntry_cards (s : State) (l w : Word) : (s.logEntry l w).cards = s.cards := by simp only [logEntry]
@[simp] theorem logEntry_late (s : State) (l w : Word) : (s.logEntry l w).late = s.late := by simp only [logEntry]
@[simp] theorem logEntry_journal (s : State) (l w : Word) : (s.logEntry l w).journal = s.journal := by simp only [logEntry]
@[simp] theorem logEntry_mirrored (s : State) (l w : Word) : (s.logEntry l w).mirrored = s.mirrored := by simp only [logEntry]
@[simp] theorem logEntry_links (s : State) (l w : Word) : (s.logEntry l w).links = s.links := by simp only [logEntry]
@[simp] theorem logEntry_bootMsgs (s : State) (l w : Word) : (s.logEntry l w).bootMsgs = s.bootMsgs := by simp only [logEntry]
@[simp] theorem logEntry_nextId (s : State) (l w : Word) : (s.logEntry l w).nextId = s.nextId := by simp only [logEntry]
@[simp] theorem logEntry_cycle (s : State) (l w : Word) : (s.logEntry l w).cycle = s.cycle := by simp only [logEntry]
@[simp] theorem logEntry_stage (s : State) (l w : Word) : (s.logEntry l w).stage = s.stage := by simp only [logEntry]
@[simp] theorem logEntry_power (s : State) (l w : Word) : (s.logEntry l w).power = s.power := by simp only [logEntry]
@[simp] theorem logEntry_agenda (s : State) (l w : Word) : (s.logEntry l w).agenda = s.agenda := by simp only [logEntry]
@[simp] theorem logEntry_arg (s : State) (l w : Word) : (s.logEntry l w).arg = s.arg := by simp only [logEntry]
@[simp] theorem logEntry_inbox (s : State) (l w : Word) : (s.logEntry l w).inbox = s.inbox := by simp only [logEntry]
@[simp] theorem logEntry_readback (s : State) (l w : Word) : (s.logEntry l w).readback = s.readback := by simp only [logEntry]
@[simp] theorem logEntry_seed (s : State) (l w : Word) : (s.logEntry l w).seed = s.seed := by simp only [logEntry]

/-- A partition written is read back, within the 16. -/
theorem part_putPart (s : State) (p : Nat) (x : Part) (h : p < 16) : (s.putPart p x).part p = x := by
  simp [part, putPart, Vector.getD, h]
theorem part_putPart_ne (s : State) (p q : Nat) (x : Part) (h : p ≠ q) : (s.putPart p x).part q = s.part q := by
  simp [part, putPart, Vector.getD, h]
theorem ret_putRet (s : State) (r : Nat) (x : Reticle) (h : r < 48) : (s.putRet r x).ret r = x := by
  simp [ret, putRet, Vector.getD, h]
theorem ret_putRet_ne (s : State) (r q : Nat) (x : Reticle) (h : r ≠ q) : (s.putRet r x).ret q = s.ret q := by
  simp [ret, putRet, Vector.getD, h]
theorem region_putRegion (s : State) (r : Nat) (x : Region) (h : r < 16) : (s.putRegion r x).region r = x := by
  simp [region, putRegion, Vector.getD, h]
theorem region_putRegion_ne (s : State) (r q : Nat) (x : Region) (h : r ≠ q) :
    (s.putRegion r x).region q = s.region q := by
  simp [region, putRegion, Vector.getD, h]
theorem part_onCtx (s : State) (p : Nat) (f : Context → Context) (h : p < 16) :
    ((s.onCtx p f).part p) = { s.part p with ctx := (s.part p).ctx.map f } := by
  rw [onCtx, part_putPart _ _ _ h]

@[simp] theorem act_act (s : State) (f g : Core → Core) : (s.act f).act g = s.act (fun c => g (f c)) := rfl
@[simp] theorem act_loomOf (s : State) (f : Core → Core) (r : Nat) : (s.act f).loomOf r = s.loomOf r := rfl
@[simp] theorem act_part (s : State) (f : Core → Core) (p : Nat) : (s.act f).part p = s.part p := rfl
@[simp] theorem act_ret (s : State) (f : Core → Core) (r : Nat) : (s.act f).ret r = s.ret r := rfl
@[simp] theorem act_region (s : State) (f : Core → Core) (r : Nat) : (s.act f).region r = s.region r := rfl
@[simp] theorem act_tileAt (s : State) (f : Core → Core) (t : Nat) : (s.act f).tileAt t = s.tileAt t := rfl

/-- The acting core is the core of its own index. -/
theorem coreOf_self (s : State) : s.coreOf s.core.idx = s.core := by simp [coreOf]
theorem focus_self (s : State) : s.focus s.core.idx = s := by simp [focus]
theorem onCore_self (s : State) (f : Core → Core) (h : (f s.core).idx = s.core.idx) :
    s.onCore s.core.idx f = s.act f := by simp [onCore, coreOf, putCore, act, h]

end State

namespace Core

@[simp] theorem land_idx (c : Core) (sl : Slot) (op lat : Nat) (e : Effect) (n : Option NanInfo) : (c.land sl op lat e n).idx = c.idx := rfl
@[simp] theorem land_reg (c : Core) (sl : Slot) (op lat : Nat) (e : Effect) (n : Option NanInfo) : (c.land sl op lat e n).reg = c.reg := rfl
@[simp] theorem land_trap (c : Core) (sl : Slot) (op lat : Nat) (e : Effect) (n : Option NanInfo) : (c.land sl op lat e n).trap = c.trap := rfl
@[simp] theorem land_sys (c : Core) (sl : Slot) (op lat : Nat) (e : Effect) (n : Option NanInfo) : (c.land sl op lat e n).sys = c.sys := rfl
@[simp] theorem land_aux (c : Core) (sl : Slot) (op lat : Nat) (e : Effect) (n : Option NanInfo) : (c.land sl op lat e n).aux = c.aux := rfl
@[simp] theorem land_mem (c : Core) (sl : Slot) (op lat : Nat) (e : Effect) (n : Option NanInfo) : (c.land sl op lat e n).mem = c.mem := rfl
@[simp] theorem land_pc (c : Core) (sl : Slot) (op lat : Nat) (e : Effect) (n : Option NanInfo) : (c.land sl op lat e n).ctl.pc = c.ctl.pc := rfl
@[simp] theorem land_mode (c : Core) (sl : Slot) (op lat : Nat) (e : Effect) (n : Option NanInfo) : (c.land sl op lat e n).ctl.mode = c.ctl.mode := rfl
@[simp] theorem land_hold (c : Core) (sl : Slot) (op lat : Nat) (e : Effect) (n : Option NanInfo) : (c.land sl op lat e n).ctl.hold = c.ctl.hold := rfl
@[simp] theorem land_wake (c : Core) (sl : Slot) (op lat : Nat) (e : Effect) (n : Option NanInfo) : (c.land sl op lat e n).ctl.wake = c.ctl.wake := rfl
@[simp] theorem land_cc (c : Core) (sl : Slot) (op lat : Nat) (e : Effect) (n : Option NanInfo) : (c.land sl op lat e n).ctl.cc = c.ctl.cc := rfl
@[simp] theorem land_idle (c : Core) (sl : Slot) (op lat : Nat) (e : Effect) (n : Option NanInfo) : (c.land sl op lat e n).ctl.idle = c.ctl.idle := rfl
@[simp] theorem land_redirects (c : Core) (sl : Slot) (op lat : Nat) (e : Effect) (n : Option NanInfo) : (c.land sl op lat e n).ctl.redirects = c.ctl.redirects := rfl
@[simp] theorem land_redo (c : Core) (sl : Slot) (op lat : Nat) (e : Effect) (n : Option NanInfo) : (c.land sl op lat e n).ctl.redo = c.ctl.redo := rfl
@[simp] theorem land_fbuf (c : Core) (sl : Slot) (op lat : Nat) (e : Effect) (n : Option NanInfo) : (c.land sl op lat e n).ctl.fbuf = c.ctl.fbuf := rfl
@[simp] theorem land_lbuf (c : Core) (sl : Slot) (op lat : Nat) (e : Effect) (n : Option NanInfo) : (c.land sl op lat e n).ctl.lbuf = c.ctl.lbuf := rfl
@[simp] theorem land_passed (c : Core) (sl : Slot) (op lat : Nat) (e : Effect) (n : Option NanInfo) : (c.land sl op lat e n).ctl.passed = c.ctl.passed := rfl
@[simp] theorem land_taken (c : Core) (sl : Slot) (op lat : Nat) (e : Effect) (n : Option NanInfo) : (c.land sl op lat e n).ctl.taken = c.ctl.taken := rfl
@[simp] theorem land_skip (c : Core) (sl : Slot) (op lat : Nat) (e : Effect) (n : Option NanInfo) : (c.land sl op lat e n).ctl.skip = c.ctl.skip := rfl
@[simp] theorem land_dueAt (c : Core) (sl : Slot) (op lat : Nat) (e : Effect) (n : Option NanInfo) : (c.land sl op lat e n).ctl.dueAt = c.ctl.dueAt := rfl
@[simp] theorem land_active (c : Core) (sl : Slot) (op lat : Nat) (e : Effect) (n : Option NanInfo) : (c.land sl op lat e n).ctl.active = c.ctl.active := rfl
@[simp] theorem land_issued (c : Core) (sl : Slot) (op lat : Nat) (e : Effect) (n : Option NanInfo) : (c.land sl op lat e n).ctl.issued = c.ctl.issued := rfl
@[simp] theorem land_claimed (c : Core) (sl : Slot) (op lat : Nat) (e : Effect) (n : Option NanInfo) : (c.land sl op lat e n).ctl.claimed = c.ctl.claimed := rfl
@[simp] theorem land_fetched (c : Core) (sl : Slot) (op lat : Nat) (e : Effect) (n : Option NanInfo) : (c.land sl op lat e n).ctl.fetched = c.ctl.fetched := rfl
@[simp] theorem land_rdLatch (c : Core) (sl : Slot) (op lat : Nat) (e : Effect) (n : Option NanInfo) : (c.land sl op lat e n).ctl.rdLatch = c.ctl.rdLatch := rfl
@[simp] theorem land_claims (c : Core) (sl : Slot) (op lat : Nat) (e : Effect) (n : Option NanInfo) : (c.land sl op lat e n).ctl.claims = c.ctl.claims := rfl
@[simp] theorem claim_idx (c : Core) (sl : Slot) (op off : Nat) (us : List (Nat × Nat)) (x : Action) (n : Option NanInfo) : (c.claim sl op off us x n).idx = c.idx := rfl
@[simp] theorem claim_reg (c : Core) (sl : Slot) (op off : Nat) (us : List (Nat × Nat)) (x : Action) (n : Option NanInfo) : (c.claim sl op off us x n).reg = c.reg := rfl
@[simp] theorem claim_trap (c : Core) (sl : Slot) (op off : Nat) (us : List (Nat × Nat)) (x : Action) (n : Option NanInfo) : (c.claim sl op off us x n).trap = c.trap := rfl
@[simp] theorem claim_sys (c : Core) (sl : Slot) (op off : Nat) (us : List (Nat × Nat)) (x : Action) (n : Option NanInfo) : (c.claim sl op off us x n).sys = c.sys := rfl
@[simp] theorem claim_aux (c : Core) (sl : Slot) (op off : Nat) (us : List (Nat × Nat)) (x : Action) (n : Option NanInfo) : (c.claim sl op off us x n).aux = c.aux := rfl
@[simp] theorem claim_mem (c : Core) (sl : Slot) (op off : Nat) (us : List (Nat × Nat)) (x : Action) (n : Option NanInfo) : (c.claim sl op off us x n).mem = c.mem := rfl
@[simp] theorem claim_pc (c : Core) (sl : Slot) (op off : Nat) (us : List (Nat × Nat)) (x : Action) (n : Option NanInfo) : (c.claim sl op off us x n).ctl.pc = c.ctl.pc := rfl
@[simp] theorem claim_mode (c : Core) (sl : Slot) (op off : Nat) (us : List (Nat × Nat)) (x : Action) (n : Option NanInfo) : (c.claim sl op off us x n).ctl.mode = c.ctl.mode := rfl
@[simp] theorem claim_hold (c : Core) (sl : Slot) (op off : Nat) (us : List (Nat × Nat)) (x : Action) (n : Option NanInfo) : (c.claim sl op off us x n).ctl.hold = c.ctl.hold := rfl
@[simp] theorem claim_wake (c : Core) (sl : Slot) (op off : Nat) (us : List (Nat × Nat)) (x : Action) (n : Option NanInfo) : (c.claim sl op off us x n).ctl.wake = c.ctl.wake := rfl
@[simp] theorem claim_cc (c : Core) (sl : Slot) (op off : Nat) (us : List (Nat × Nat)) (x : Action) (n : Option NanInfo) : (c.claim sl op off us x n).ctl.cc = c.ctl.cc := rfl
@[simp] theorem claim_idle (c : Core) (sl : Slot) (op off : Nat) (us : List (Nat × Nat)) (x : Action) (n : Option NanInfo) : (c.claim sl op off us x n).ctl.idle = c.ctl.idle := rfl
@[simp] theorem claim_redirects (c : Core) (sl : Slot) (op off : Nat) (us : List (Nat × Nat)) (x : Action) (n : Option NanInfo) : (c.claim sl op off us x n).ctl.redirects = c.ctl.redirects := rfl
@[simp] theorem claim_redo (c : Core) (sl : Slot) (op off : Nat) (us : List (Nat × Nat)) (x : Action) (n : Option NanInfo) : (c.claim sl op off us x n).ctl.redo = c.ctl.redo := rfl
@[simp] theorem claim_fbuf (c : Core) (sl : Slot) (op off : Nat) (us : List (Nat × Nat)) (x : Action) (n : Option NanInfo) : (c.claim sl op off us x n).ctl.fbuf = c.ctl.fbuf := rfl
@[simp] theorem claim_lbuf (c : Core) (sl : Slot) (op off : Nat) (us : List (Nat × Nat)) (x : Action) (n : Option NanInfo) : (c.claim sl op off us x n).ctl.lbuf = c.ctl.lbuf := rfl
@[simp] theorem claim_passed (c : Core) (sl : Slot) (op off : Nat) (us : List (Nat × Nat)) (x : Action) (n : Option NanInfo) : (c.claim sl op off us x n).ctl.passed = c.ctl.passed := rfl
@[simp] theorem claim_taken (c : Core) (sl : Slot) (op off : Nat) (us : List (Nat × Nat)) (x : Action) (n : Option NanInfo) : (c.claim sl op off us x n).ctl.taken = c.ctl.taken := rfl
@[simp] theorem claim_skip (c : Core) (sl : Slot) (op off : Nat) (us : List (Nat × Nat)) (x : Action) (n : Option NanInfo) : (c.claim sl op off us x n).ctl.skip = c.ctl.skip := rfl
@[simp] theorem claim_dueAt (c : Core) (sl : Slot) (op off : Nat) (us : List (Nat × Nat)) (x : Action) (n : Option NanInfo) : (c.claim sl op off us x n).ctl.dueAt = c.ctl.dueAt := rfl
@[simp] theorem claim_active (c : Core) (sl : Slot) (op off : Nat) (us : List (Nat × Nat)) (x : Action) (n : Option NanInfo) : (c.claim sl op off us x n).ctl.active = c.ctl.active := rfl
@[simp] theorem claim_issued (c : Core) (sl : Slot) (op off : Nat) (us : List (Nat × Nat)) (x : Action) (n : Option NanInfo) : (c.claim sl op off us x n).ctl.issued = c.ctl.issued := rfl
@[simp] theorem claim_claimed (c : Core) (sl : Slot) (op off : Nat) (us : List (Nat × Nat)) (x : Action) (n : Option NanInfo) : (c.claim sl op off us x n).ctl.claimed = c.ctl.claimed := rfl
@[simp] theorem claim_fetched (c : Core) (sl : Slot) (op off : Nat) (us : List (Nat × Nat)) (x : Action) (n : Option NanInfo) : (c.claim sl op off us x n).ctl.fetched = c.ctl.fetched := rfl
@[simp] theorem claim_rdLatch (c : Core) (sl : Slot) (op off : Nat) (us : List (Nat × Nat)) (x : Action) (n : Option NanInfo) : (c.claim sl op off us x n).ctl.rdLatch = c.ctl.rdLatch := rfl
@[simp] theorem claim_lands (c : Core) (sl : Slot) (op off : Nat) (us : List (Nat × Nat)) (x : Action) (n : Option NanInfo) : (c.claim sl op off us x n).ctl.lands = c.ctl.lands := rfl

theorem land_lands (c : Core) (sl : Slot) (op lat : Nat) (e : Effect) (n : Option NanInfo) :
    (c.land sl op lat e n).ctl.lands = c.ctl.lands ++ [
      { due := c.ctl.cc + lat, issued := c.ctl.cc, slot := sl.num, cba := c.ctl.pc, op := op, eff := e, nan := n }] := rfl
theorem claim_claims (c : Core) (sl : Slot) (op off : Nat) (us : List (Nat × Nat)) (x : Action) (n : Option NanInfo) :
    (c.claim sl op off us x n).ctl.claims = c.ctl.claims ++ [
      { due := c.ctl.cc + off, issued := c.ctl.cc, slot := sl.num, cba := c.ctl.pc, op := op, units := us, act := x, nan := n }] := rfl

end Core

/-! ### Register files -/

namespace Regs

@[simp] theorem getS_zero (r : Regs) : r.getS 0 = 0 := by simp [getS]
@[simp] theorem setS_zero (r : Regs) (x : Word) : r.setS 0 x = r := by simp [setS]
theorem getS_setS (r : Regs) (n : BitVec 6) (x : Word) (h : n ≠ 0) : (r.setS n x).getS n = x := by
  unfold getS setS; rw [if_neg h, if_neg h]; simp
theorem getS_setS_ne (r : Regs) (n k : BitVec 6) (x : Word) (h : n ≠ k) : (r.setS n x).getS k = r.getS k := by
  have hk : n.toNat ≠ k.toNat := fun he => h (BitVec.eq_of_toNat_eq he)
  by_cases h0 : n = 0
  · unfold setS; rw [if_pos h0]
  · unfold getS setS; rw [if_neg h0]; simp only [Vector.getElem_set, if_neg hk]
@[simp] theorem getV_setV (r : Regs) (n : BitVec 6) (x : Vec) : (r.setV n x).getV n = x := by simp [getV, setV]
theorem getV_setV_ne (r : Regs) (n k : BitVec 6) (x : Vec) (h : n ≠ k) : (r.setV n x).getV k = r.getV k := by
  have hk : n.toNat ≠ k.toNat := fun he => h (BitVec.eq_of_toNat_eq he)
  simp [getV, setV, hk]
@[simp] theorem getP_zero (r : Regs) : r.getP 0 = true := by simp [getP]
@[simp] theorem setP_zero (r : Regs) (x : Bool) : r.setP 0 x = r := by simp [setP]

end Regs

end Sys2Proof.Machine
end

