-- ==== Sys2Proof/Laws/Access.lean ====
section
/-! SUPPORT. Reading what was put: cores, tiles, blocks, reticles, regions and partitions by number, in every state, with tables in
order or not. -/

namespace Sys2Proof.Machine

/-! ### Tables by number -/

theorem find_insertCore (c : Core) (j : Nat) : ∀ ds : List Core, (insertCore c ds).find? (fun d => d.idx == j) =
    if c.idx = j then some c else ds.find? (fun d => d.idx == j)
  | [] => by by_cases h : c.idx = j <;> simp [insertCore, h]
  | d :: ds => by
    have ih := find_insertCore c j ds
    unfold insertCore
    by_cases h : c.idx = j
    · split
      · simp [h]
      · split
        · simp [h]
        · rw [List.find?_cons_of_neg (by simp; omega), ih, if_pos h]
    · rw [if_neg h] at *
      split
      · rw [List.find?_cons_of_neg (by simpa using h)]
      · split
        · rw [List.find?_cons_of_neg (by simpa using h), List.find?_cons_of_neg (by simp; omega)]
        · by_cases g : d.idx = j
          · simp [g]
          · rw [List.find?_cons_of_neg (by simpa using g), List.find?_cons_of_neg (by simpa using g), ih]

theorem find_insertTile (c : Tile) (j : Nat) : ∀ ds : List Tile, (insertTile c ds).find? (fun d => d.idx == j) =
    if c.idx = j then some c else ds.find? (fun d => d.idx == j)
  | [] => by by_cases h : c.idx = j <;> simp [insertTile, h]
  | d :: ds => by
    have ih := find_insertTile c j ds
    unfold insertTile
    by_cases h : c.idx = j
    · split
      · simp [h]
      · split
        · simp [h]
        · rw [List.find?_cons_of_neg (by simp; omega), ih, if_pos h]
    · rw [if_neg h] at *
      split
      · rw [List.find?_cons_of_neg (by simpa using h)]
      · split
        · rw [List.find?_cons_of_neg (by simpa using h), List.find?_cons_of_neg (by simp; omega)]
        · by_cases g : d.idx = j
          · simp [g]
          · rw [List.find?_cons_of_neg (by simpa using g), List.find?_cons_of_neg (by simpa using g), ih]

theorem find_insertBlock (c : Block) (j : Nat) : ∀ ds : List Block, (insertBlock c ds).find? (fun d => d.idx == j) =
    if c.idx = j then some c else ds.find? (fun d => d.idx == j)
  | [] => by by_cases h : c.idx = j <;> simp [insertBlock, h]
  | d :: ds => by
    have ih := find_insertBlock c j ds
    unfold insertBlock
    by_cases h : c.idx = j
    · split
      · simp [h]
      · split
        · simp [h]
        · rw [List.find?_cons_of_neg (by simp; omega), ih, if_pos h]
    · rw [if_neg h] at *
      split
      · rw [List.find?_cons_of_neg (by simpa using h)]
      · split
        · rw [List.find?_cons_of_neg (by simpa using h), List.find?_cons_of_neg (by simp; omega)]
        · by_cases g : d.idx = j
          · simp [g]
          · rw [List.find?_cons_of_neg (by simpa using g), List.find?_cons_of_neg (by simpa using g), ih]

namespace State

/-! ### Cores -/

theorem coreOf_idx (s : State) (k : Nat) : (s.coreOf k).idx = k := by
  unfold coreOf
  split
  · assumption
  · cases h : s.others.find? (fun c => c.idx == k) with
    | none => rfl
    | some c => simpa using List.find?_some h

theorem coreOf_putCore (s : State) (c : Core) (j : Nat) : (s.putCore c).coreOf j = if c.idx = j then c else s.coreOf j := by
  unfold putCore coreOf
  by_cases h : s.core.idx = c.idx
  · rw [if_pos h]
    by_cases g : c.idx = j
    · simp [g]
    · simp [g, h]
  · rw [if_neg h]
    dsimp only
    rw [find_insertCore]
    by_cases g : c.idx = j
    · rw [if_neg (by omega), if_pos g, if_pos g]; rfl
    · rw [if_neg g, if_neg g]

theorem coreOf_onCore (s : State) (k : Nat) (f : Core → Core) (hf : ∀ c, (f c).idx = c.idx) (j : Nat) :
    (s.onCore k f).coreOf j = if k = j then f (s.coreOf k) else s.coreOf j := by
  rw [onCore, coreOf_putCore, hf, coreOf_idx]

theorem coreOf_focus (s : State) (k j : Nat) : (s.focus k).coreOf j = s.coreOf j := by
  unfold focus
  by_cases h : s.core.idx = k
  · rw [if_pos h]
  · rw [if_neg h]
    have hk := coreOf_idx s k
    generalize hc : s.coreOf k = c at *
    by_cases g : k = j
    · subst g
      rw [hc]
      show (if c.idx = k then c else _) = c
      rw [if_pos hk]
    · show (if c.idx = j then c else _) = _
      rw [if_neg (by omega), find_insertCore]
      unfold coreOf
      by_cases e : s.core.idx = j
      · rw [if_pos e, if_pos e]; rfl
      · rw [if_neg e, if_neg e, List.find?_filter]
        congr 2
        funext c
        by_cases q : c.idx = j
        · simp [q, Ne.symm g]
        · simp [q]

theorem coreOf_act (s : State) (f : Core → Core) (hf : ∀ c, (f c).idx = c.idx) (j : Nat) :
    (s.act f).coreOf j = if s.core.idx = j then f s.core else s.coreOf j := by
  unfold coreOf
  simp only [act_core, act_others, hf]
  split <;> rfl

theorem focus_core (s : State) (k : Nat) : (s.focus k).core = s.coreOf k := by
  unfold focus
  by_cases h : s.core.idx = k
  · rw [if_pos h, coreOf, if_pos h]
  · rw [if_neg h]

/-! ### The rest of the part -/

theorem tileAt_putTile (s : State) (x : Tile) (j : Nat) : (s.putTile x).tileAt j = if x.idx = j then x else s.tileAt j := by
  simp only [tileAt, putTile_tiles, find_insertTile]
  by_cases h : x.idx = j <;> simp [h]

theorem tileAt_idx (s : State) (k : Nat) : (s.tileAt k).idx = k := by
  unfold tileAt
  cases h : s.tiles.find? (fun c => c.idx == k) with
  | none => rfl
  | some c => simpa using List.find?_some h

theorem blockAt_putBlock (s : State) (x : Block) (j : Nat) : (s.putBlock x).blockAt j = if x.idx = j then x else s.blockAt j := by
  simp only [blockAt, putBlock_blocks, find_insertBlock]
  by_cases h : x.idx = j <;> simp [h]

theorem blockAt_idx (s : State) (k : Nat) : (s.blockAt k).idx = k := by
  unfold blockAt
  cases h : s.blocks.find? (fun c => c.idx == k) with
  | none => rfl
  | some c => simpa using List.find?_some h

theorem partOf_lt {s : State} {k p : Nat} (h : s.partOf k = some p) : p < 16 := by
  have := List.mem_of_find?_eq_some h
  simpa using this

end State

end Sys2Proof.Machine
end

