-- ==== Sys2Proof/Laws/Bits.lean ====
section
/-! SUPPORT. Fields of words: what `bits`, `atBit` and `setBits` read and write. -/

namespace Sys2Proof.Machine

theorem testBit_bits (w : Word) (hi lo i : Nat) :
    (bits w hi lo).testBit i = (decide (i < hi + 1 - lo) && w.getLsbD (lo + i)) := by
  rw [bits, Nat.testBit_mod_two_pow, Nat.testBit_shiftRight, BitVec.testBit_toNat]

theorem getLsbD_atBit (x lo i : Nat) : (atBit x lo).getLsbD i = (decide (i < 64) && decide (lo ≤ i) && x.testBit (i - lo)) := by
  rw [atBit, BitVec.getLsbD_shiftLeft, BitVec.getLsbD_ofNat]
  by_cases h : i < 64 <;> by_cases g : i < lo
  · simp [h, g, show ¬ lo ≤ i by omega]
  · simp [h, g, show i - lo < 64 by omega, show lo ≤ i by omega]
  · simp [h]
  · simp [h]

theorem bits_lt (w : Word) (hi lo : Nat) : bits w hi lo < 2 ^ (hi + 1 - lo) := Nat.mod_lt _ (Nat.two_pow_pos _)

@[simp] theorem bits_zero (hi lo : Nat) : bits 0 hi lo = 0 := by simp [bits]

theorem bits_or (a b : Word) (hi lo : Nat) : bits (a ||| b) hi lo = bits a hi lo ||| bits b hi lo := by
  apply Nat.eq_of_testBit_eq; intro i
  simp only [testBit_bits, Nat.testBit_or, BitVec.getLsbD_or]
  cases decide (i < hi + 1 - lo) <;> simp

/-- A number read from where it stands. -/
theorem bits_atBit (x hi lo : Nat) (h : hi < 64) (hx : x < 2 ^ (hi + 1 - lo)) : bits (atBit x lo) hi lo = x := by
  apply Nat.eq_of_testBit_eq; intro i
  rw [testBit_bits, getLsbD_atBit]
  by_cases g : i < hi + 1 - lo
  · simp [g, show lo + i < 64 by omega]
  · have hz : x.testBit i = false :=
      Nat.testBit_lt_two_pow (Nat.lt_of_lt_of_le hx (Nat.pow_le_pow_right (by omega) (by omega)))
    simp [g, hz]

/-- A number placed below a field, or above it, leaves the field 0. -/
theorem bits_atBit_below (x n p hi lo : Nat) (hx : x < 2 ^ n) (h : p + n ≤ lo) : bits (atBit x p) hi lo = 0 := by
  apply Nat.eq_of_testBit_eq; intro i
  rw [testBit_bits, getLsbD_atBit, Nat.testBit_lt_two_pow (i := lo + i - p)
    (Nat.lt_of_lt_of_le hx (Nat.pow_le_pow_right (by omega) (by omega)))]
  simp
theorem bits_atBit_above (x p hi lo : Nat) (h : hi < p) : bits (atBit x p) hi lo = 0 := by
  apply Nat.eq_of_testBit_eq; intro i
  rw [testBit_bits, getLsbD_atBit]
  by_cases g : i < hi + 1 - lo
  · simp [show ¬ p ≤ lo + i by omega]
  · simp [g]

theorem getLsbD_setBits (w : Word) (hi lo x i : Nat) (h : hi < 64) : (setBits w hi lo x).getLsbD i =
    if lo ≤ i ∧ i ≤ hi then x.testBit (i - lo) else w.getLsbD i := by
  unfold setBits
  simp only [BitVec.getLsbD_or, BitVec.getLsbD_and, BitVec.getLsbD_not, getLsbD_atBit, Nat.testBit_two_pow_sub_one]
  by_cases g : lo ≤ i
  · by_cases k : i ≤ hi
    · simp [g, k, show i < 64 by omega, show i - lo < hi + 1 - lo by omega]
    · by_cases j : i < 64
      · simp [g, k, j, show ¬ i - lo < hi + 1 - lo by omega]
      · simp [g, k, j]
        rw [BitVec.getLsbD_of_ge]; omega
  · simp [g]
    by_cases j : i < 64
    · simp [j]
    · simp [j]; rw [BitVec.getLsbD_of_ge]; omega

/-- A field read after it is set, and any other field. -/
theorem bits_setBits (w : Word) (hi lo x : Nat) (h : hi < 64) : bits (setBits w hi lo x) hi lo = x % 2 ^ (hi + 1 - lo) := by
  apply Nat.eq_of_testBit_eq; intro i
  rw [testBit_bits, getLsbD_setBits _ _ _ _ _ h, Nat.testBit_mod_two_pow]
  by_cases g : i < hi + 1 - lo
  · rw [if_pos (by omega)]; simp
  · simp [g]
theorem bits_setBits_ne (w : Word) (hi lo x a b : Nat) (h : hi < 64) (d : a < lo ∨ hi < b) :
    bits (setBits w hi lo x) a b = bits w a b := by
  apply Nat.eq_of_testBit_eq; intro i
  rw [testBit_bits, testBit_bits, getLsbD_setBits _ _ _ _ _ h]
  by_cases g : i < a + 1 - b
  · rw [if_neg (by omega)]
  · simp [g]

end Sys2Proof.Machine
end

