-- ==== Sys2Proof/Laws/Encoding.lean ====
section
/-! SUPPORT. Each form's word and fields: a word holds its guard, opcode and fields, and reading a form's word gives its fields
back. -/

namespace Sys2Proof

/-- Bits joined are a sum. -/
theorem toNat_append_add {v w : Nat} (a : BitVec v) (b : BitVec w) : (a ++ b).toNat = a.toNat * 2 ^ w + b.toNat := by
  rw [BitVec.toNat_append, ← Nat.shiftLeft_add_eq_or_of_lt b.isLt, Nat.shiftLeft_eq]

theorem toNat_extract {n : Nat} (w : BitVec n) (lo k : Nat) : (w.extractLsb' lo k).toNat = w.toNat / 2 ^ lo % 2 ^ k := by
  rw [BitVec.extractLsb'_toNat, Nat.shiftRight_eq_div_pow]

theorem R3Ops.word_toNat (op : BitVec 8) (fixed : BitVec 20) (o : R3Ops) : (R3Ops.word op fixed o).toNat =
    ((((o.g.toNat * 2 ^ 8 + op.toNat) * 2 ^ 6 + o.d.toNat) * 2 ^ 6 + o.a.toNat) * 2 ^ 6 + o.b.toNat) * 2 ^ 2 + (fixed.toNat / 2 ^ 0 % 2 ^ 2) := by
  refine (toNat_append_add _ _).trans ?_
  simp only [toNat_append_add, toNat_extract]

theorem R3Ops.word_guard (op : BitVec 8) (fixed : BitVec 20) (o : R3Ops) : (R3Ops.word op fixed o).extractLsb' 28 4 = o.g := by
  have := o.g.isLt
  have := o.d.isLt
  have := o.a.isLt
  have := o.b.isLt
  have := op.isLt
  apply BitVec.eq_of_toNat_eq
  rw [toNat_extract, R3Ops.word_toNat]
  omega

theorem R3Ops.word_op (op : BitVec 8) (fixed : BitVec 20) (o : R3Ops) : opcodeOf (R3Ops.word op fixed o) = op := by
  have := o.g.isLt
  have := o.d.isLt
  have := o.a.isLt
  have := o.b.isLt
  have := op.isLt
  apply BitVec.eq_of_toNat_eq
  rw [opcodeOf, toNat_extract, R3Ops.word_toNat]
  omega

theorem R3Ops.read_word (op : BitVec 8) (fixed : BitVec 20) (o : R3Ops) : R3Ops.read (R3Ops.word op fixed o) = o := by
  have := o.g.isLt
  have := o.d.isLt
  have := o.a.isLt
  have := o.b.isLt
  have := op.isLt
  have h := R3Ops.word_toNat op fixed o
  cases o
  simp only [R3Ops.read, R3Ops.mk.injEq]
  refine ⟨?_, ?_, ?_, ?_⟩ <;> (apply BitVec.eq_of_toNat_eq; rw [toNat_extract, h]; dsimp only at *; omega)

theorem R3xOps.word_toNat (op : BitVec 8) (fixed : BitVec 20) (o : R3xOps) : (R3xOps.word op fixed o).toNat =
    ((((o.g.toNat * 2 ^ 8 + op.toNat) * 2 ^ 6 + o.d.toNat) * 2 ^ 6 + o.a.toNat) * 2 ^ 6 + o.b.toNat) * 2 ^ 2 + o.x.toNat := by
  refine (toNat_append_add _ _).trans ?_
  simp only [toNat_append_add]

theorem R3xOps.word_guard (op : BitVec 8) (fixed : BitVec 20) (o : R3xOps) : (R3xOps.word op fixed o).extractLsb' 28 4 = o.g := by
  have := o.g.isLt
  have := o.d.isLt
  have := o.a.isLt
  have := o.b.isLt
  have := o.x.isLt
  have := op.isLt
  apply BitVec.eq_of_toNat_eq
  rw [toNat_extract, R3xOps.word_toNat]
  omega

theorem R3xOps.word_op (op : BitVec 8) (fixed : BitVec 20) (o : R3xOps) : opcodeOf (R3xOps.word op fixed o) = op := by
  have := o.g.isLt
  have := o.d.isLt
  have := o.a.isLt
  have := o.b.isLt
  have := o.x.isLt
  have := op.isLt
  apply BitVec.eq_of_toNat_eq
  rw [opcodeOf, toNat_extract, R3xOps.word_toNat]
  omega

theorem R3xOps.read_word (op : BitVec 8) (fixed : BitVec 20) (o : R3xOps) : R3xOps.read (R3xOps.word op fixed o) = o := by
  have := o.g.isLt
  have := o.d.isLt
  have := o.a.isLt
  have := o.b.isLt
  have := o.x.isLt
  have := op.isLt
  have h := R3xOps.word_toNat op fixed o
  cases o
  simp only [R3xOps.read, R3xOps.mk.injEq]
  refine ⟨?_, ?_, ?_, ?_, ?_⟩ <;> (apply BitVec.eq_of_toNat_eq; rw [toNat_extract, h]; dsimp only at *; omega)

theorem RisOps.word_toNat (op : BitVec 8) (fixed : BitVec 20) (o : RisOps) : (RisOps.word op fixed o).toNat =
    (((o.g.toNat * 2 ^ 8 + op.toNat) * 2 ^ 6 + o.d.toNat) * 2 ^ 6 + o.a.toNat) * 2 ^ 8 + o.imm.toNat := by
  refine (toNat_append_add _ _).trans ?_
  simp only [toNat_append_add]

theorem RisOps.word_guard (op : BitVec 8) (fixed : BitVec 20) (o : RisOps) : (RisOps.word op fixed o).extractLsb' 28 4 = o.g := by
  have := o.g.isLt
  have := o.d.isLt
  have := o.a.isLt
  have := o.imm.isLt
  have := op.isLt
  apply BitVec.eq_of_toNat_eq
  rw [toNat_extract, RisOps.word_toNat]
  omega

theorem RisOps.word_op (op : BitVec 8) (fixed : BitVec 20) (o : RisOps) : opcodeOf (RisOps.word op fixed o) = op := by
  have := o.g.isLt
  have := o.d.isLt
  have := o.a.isLt
  have := o.imm.isLt
  have := op.isLt
  apply BitVec.eq_of_toNat_eq
  rw [opcodeOf, toNat_extract, RisOps.word_toNat]
  omega

theorem RisOps.read_word (op : BitVec 8) (fixed : BitVec 20) (o : RisOps) : RisOps.read (RisOps.word op fixed o) = o := by
  have := o.g.isLt
  have := o.d.isLt
  have := o.a.isLt
  have := o.imm.isLt
  have := op.isLt
  have h := RisOps.word_toNat op fixed o
  cases o
  simp only [RisOps.read, RisOps.mk.injEq]
  refine ⟨?_, ?_, ?_, ?_⟩ <;> (apply BitVec.eq_of_toNat_eq; rw [toNat_extract, h]; dsimp only at *; omega)

theorem RiOps.word_toNat (op : BitVec 8) (fixed : BitVec 20) (o : RiOps) : (RiOps.word op fixed o).toNat =
    ((o.g.toNat * 2 ^ 8 + op.toNat) * 2 ^ 6 + o.d.toNat) * 2 ^ 14 + o.imm.toNat := by
  refine (toNat_append_add _ _).trans ?_
  simp only [toNat_append_add]

theorem RiOps.word_guard (op : BitVec 8) (fixed : BitVec 20) (o : RiOps) : (RiOps.word op fixed o).extractLsb' 28 4 = o.g := by
  have := o.g.isLt
  have := o.d.isLt
  have := o.imm.isLt
  have := op.isLt
  apply BitVec.eq_of_toNat_eq
  rw [toNat_extract, RiOps.word_toNat]
  omega

theorem RiOps.word_op (op : BitVec 8) (fixed : BitVec 20) (o : RiOps) : opcodeOf (RiOps.word op fixed o) = op := by
  have := o.g.isLt
  have := o.d.isLt
  have := o.imm.isLt
  have := op.isLt
  apply BitVec.eq_of_toNat_eq
  rw [opcodeOf, toNat_extract, RiOps.word_toNat]
  omega

theorem RiOps.read_word (op : BitVec 8) (fixed : BitVec 20) (o : RiOps) : RiOps.read (RiOps.word op fixed o) = o := by
  have := o.g.isLt
  have := o.d.isLt
  have := o.imm.isLt
  have := op.isLt
  have h := RiOps.word_toNat op fixed o
  cases o
  simp only [RiOps.read, RiOps.mk.injEq]
  refine ⟨?_, ?_, ?_⟩ <;> (apply BitVec.eq_of_toNat_eq; rw [toNat_extract, h]; dsimp only at *; omega)

theorem PcOps.word_toNat (op : BitVec 8) (fixed : BitVec 20) (o : PcOps) : (PcOps.word op fixed o).toNat =
    (((((o.g.toNat * 2 ^ 8 + op.toNat) * 2 ^ 4 + o.pd.toNat) * 2 ^ 3 + o.cc.toNat) * 2 ^ 6 + o.a.toNat) * 2 ^ 6 + o.b.toNat) * 2 ^ 1 + (fixed.toNat / 2 ^ 0 % 2 ^ 1) := by
  refine (toNat_append_add _ _).trans ?_
  simp only [toNat_append_add, toNat_extract]

theorem PcOps.word_guard (op : BitVec 8) (fixed : BitVec 20) (o : PcOps) : (PcOps.word op fixed o).extractLsb' 28 4 = o.g := by
  have := o.g.isLt
  have := o.pd.isLt
  have := o.cc.isLt
  have := o.a.isLt
  have := o.b.isLt
  have := op.isLt
  apply BitVec.eq_of_toNat_eq
  rw [toNat_extract, PcOps.word_toNat]
  omega

theorem PcOps.word_op (op : BitVec 8) (fixed : BitVec 20) (o : PcOps) : opcodeOf (PcOps.word op fixed o) = op := by
  have := o.g.isLt
  have := o.pd.isLt
  have := o.cc.isLt
  have := o.a.isLt
  have := o.b.isLt
  have := op.isLt
  apply BitVec.eq_of_toNat_eq
  rw [opcodeOf, toNat_extract, PcOps.word_toNat]
  omega

theorem PcOps.read_word (op : BitVec 8) (fixed : BitVec 20) (o : PcOps) : PcOps.read (PcOps.word op fixed o) = o := by
  have := o.g.isLt
  have := o.pd.isLt
  have := o.cc.isLt
  have := o.a.isLt
  have := o.b.isLt
  have := op.isLt
  have h := PcOps.word_toNat op fixed o
  cases o
  simp only [PcOps.read, PcOps.mk.injEq]
  refine ⟨?_, ?_, ?_, ?_, ?_⟩ <;> (apply BitVec.eq_of_toNat_eq; rw [toNat_extract, h]; dsimp only at *; omega)

theorem PciOps.word_toNat (op : BitVec 8) (fixed : BitVec 20) (o : PciOps) : (PciOps.word op fixed o).toNat =
    ((((o.g.toNat * 2 ^ 8 + op.toNat) * 2 ^ 4 + o.pd.toNat) * 2 ^ 3 + o.cc.toNat) * 2 ^ 6 + o.a.toNat) * 2 ^ 7 + o.imm.toNat := by
  refine (toNat_append_add _ _).trans ?_
  simp only [toNat_append_add]

theorem PciOps.word_guard (op : BitVec 8) (fixed : BitVec 20) (o : PciOps) : (PciOps.word op fixed o).extractLsb' 28 4 = o.g := by
  have := o.g.isLt
  have := o.pd.isLt
  have := o.cc.isLt
  have := o.a.isLt
  have := o.imm.isLt
  have := op.isLt
  apply BitVec.eq_of_toNat_eq
  rw [toNat_extract, PciOps.word_toNat]
  omega

theorem PciOps.word_op (op : BitVec 8) (fixed : BitVec 20) (o : PciOps) : opcodeOf (PciOps.word op fixed o) = op := by
  have := o.g.isLt
  have := o.pd.isLt
  have := o.cc.isLt
  have := o.a.isLt
  have := o.imm.isLt
  have := op.isLt
  apply BitVec.eq_of_toNat_eq
  rw [opcodeOf, toNat_extract, PciOps.word_toNat]
  omega

theorem PciOps.read_word (op : BitVec 8) (fixed : BitVec 20) (o : PciOps) : PciOps.read (PciOps.word op fixed o) = o := by
  have := o.g.isLt
  have := o.pd.isLt
  have := o.cc.isLt
  have := o.a.isLt
  have := o.imm.isLt
  have := op.isLt
  have h := PciOps.word_toNat op fixed o
  cases o
  simp only [PciOps.read, PciOps.mk.injEq]
  refine ⟨?_, ?_, ?_, ?_, ?_⟩ <;> (apply BitVec.eq_of_toNat_eq; rw [toNat_extract, h]; dsimp only at *; omega)

theorem BOps.word_toNat (op : BitVec 8) (fixed : BitVec 20) (o : BOps) : (BOps.word op fixed o).toNat =
    (o.g.toNat * 2 ^ 8 + op.toNat) * 2 ^ 20 + o.off.toNat := by
  refine (toNat_append_add _ _).trans ?_
  simp only [toNat_append_add]

theorem BOps.word_guard (op : BitVec 8) (fixed : BitVec 20) (o : BOps) : (BOps.word op fixed o).extractLsb' 28 4 = o.g := by
  have := o.g.isLt
  have := o.off.isLt
  have := op.isLt
  apply BitVec.eq_of_toNat_eq
  rw [toNat_extract, BOps.word_toNat]
  omega

theorem BOps.word_op (op : BitVec 8) (fixed : BitVec 20) (o : BOps) : opcodeOf (BOps.word op fixed o) = op := by
  have := o.g.isLt
  have := o.off.isLt
  have := op.isLt
  apply BitVec.eq_of_toNat_eq
  rw [opcodeOf, toNat_extract, BOps.word_toNat]
  omega

theorem BOps.read_word (op : BitVec 8) (fixed : BitVec 20) (o : BOps) : BOps.read (BOps.word op fixed o) = o := by
  have := o.g.isLt
  have := o.off.isLt
  have := op.isLt
  have h := BOps.word_toNat op fixed o
  cases o
  simp only [BOps.read, BOps.mk.injEq]
  refine ⟨?_, ?_⟩ <;> (apply BitVec.eq_of_toNat_eq; rw [toNat_extract, h]; dsimp only at *; omega)

theorem BlOps.word_toNat (op : BitVec 8) (fixed : BitVec 20) (o : BlOps) : (BlOps.word op fixed o).toNat =
    ((o.g.toNat * 2 ^ 8 + op.toNat) * 2 ^ 6 + o.d.toNat) * 2 ^ 14 + o.off.toNat := by
  refine (toNat_append_add _ _).trans ?_
  simp only [toNat_append_add]

theorem BlOps.word_guard (op : BitVec 8) (fixed : BitVec 20) (o : BlOps) : (BlOps.word op fixed o).extractLsb' 28 4 = o.g := by
  have := o.g.isLt
  have := o.d.isLt
  have := o.off.isLt
  have := op.isLt
  apply BitVec.eq_of_toNat_eq
  rw [toNat_extract, BlOps.word_toNat]
  omega

theorem BlOps.word_op (op : BitVec 8) (fixed : BitVec 20) (o : BlOps) : opcodeOf (BlOps.word op fixed o) = op := by
  have := o.g.isLt
  have := o.d.isLt
  have := o.off.isLt
  have := op.isLt
  apply BitVec.eq_of_toNat_eq
  rw [opcodeOf, toNat_extract, BlOps.word_toNat]
  omega

theorem BlOps.read_word (op : BitVec 8) (fixed : BitVec 20) (o : BlOps) : BlOps.read (BlOps.word op fixed o) = o := by
  have := o.g.isLt
  have := o.d.isLt
  have := o.off.isLt
  have := op.isLt
  have h := BlOps.word_toNat op fixed o
  cases o
  simp only [BlOps.read, BlOps.mk.injEq]
  refine ⟨?_, ?_, ?_⟩ <;> (apply BitVec.eq_of_toNat_eq; rw [toNat_extract, h]; dsimp only at *; omega)

theorem R1aOps.word_toNat (op : BitVec 8) (fixed : BitVec 20) (o : R1aOps) : (R1aOps.word op fixed o).toNat =
    ((o.g.toNat * 2 ^ 8 + op.toNat) * 2 ^ 6 + o.a.toNat) * 2 ^ 14 + (fixed.toNat / 2 ^ 0 % 2 ^ 14) := by
  refine (toNat_append_add _ _).trans ?_
  simp only [toNat_append_add, toNat_extract]

theorem R1aOps.word_guard (op : BitVec 8) (fixed : BitVec 20) (o : R1aOps) : (R1aOps.word op fixed o).extractLsb' 28 4 = o.g := by
  have := o.g.isLt
  have := o.a.isLt
  have := op.isLt
  apply BitVec.eq_of_toNat_eq
  rw [toNat_extract, R1aOps.word_toNat]
  omega

theorem R1aOps.word_op (op : BitVec 8) (fixed : BitVec 20) (o : R1aOps) : opcodeOf (R1aOps.word op fixed o) = op := by
  have := o.g.isLt
  have := o.a.isLt
  have := op.isLt
  apply BitVec.eq_of_toNat_eq
  rw [opcodeOf, toNat_extract, R1aOps.word_toNat]
  omega

theorem R1aOps.read_word (op : BitVec 8) (fixed : BitVec 20) (o : R1aOps) : R1aOps.read (R1aOps.word op fixed o) = o := by
  have := o.g.isLt
  have := o.a.isLt
  have := op.isLt
  have h := R1aOps.word_toNat op fixed o
  cases o
  simp only [R1aOps.read, R1aOps.mk.injEq]
  refine ⟨?_, ?_⟩ <;> (apply BitVec.eq_of_toNat_eq; rw [toNat_extract, h]; dsimp only at *; omega)

theorem R1dOps.word_toNat (op : BitVec 8) (fixed : BitVec 20) (o : R1dOps) : (R1dOps.word op fixed o).toNat =
    ((o.g.toNat * 2 ^ 8 + op.toNat) * 2 ^ 6 + o.d.toNat) * 2 ^ 14 + (fixed.toNat / 2 ^ 0 % 2 ^ 14) := by
  refine (toNat_append_add _ _).trans ?_
  simp only [toNat_append_add, toNat_extract]

theorem R1dOps.word_guard (op : BitVec 8) (fixed : BitVec 20) (o : R1dOps) : (R1dOps.word op fixed o).extractLsb' 28 4 = o.g := by
  have := o.g.isLt
  have := o.d.isLt
  have := op.isLt
  apply BitVec.eq_of_toNat_eq
  rw [toNat_extract, R1dOps.word_toNat]
  omega

theorem R1dOps.word_op (op : BitVec 8) (fixed : BitVec 20) (o : R1dOps) : opcodeOf (R1dOps.word op fixed o) = op := by
  have := o.g.isLt
  have := o.d.isLt
  have := op.isLt
  apply BitVec.eq_of_toNat_eq
  rw [opcodeOf, toNat_extract, R1dOps.word_toNat]
  omega

theorem R1dOps.read_word (op : BitVec 8) (fixed : BitVec 20) (o : R1dOps) : R1dOps.read (R1dOps.word op fixed o) = o := by
  have := o.g.isLt
  have := o.d.isLt
  have := op.isLt
  have h := R1dOps.word_toNat op fixed o
  cases o
  simp only [R1dOps.read, R1dOps.mk.injEq]
  refine ⟨?_, ?_⟩ <;> (apply BitVec.eq_of_toNat_eq; rw [toNat_extract, h]; dsimp only at *; omega)

theorem ZOps.word_toNat (op : BitVec 8) (fixed : BitVec 20) (o : ZOps) : (ZOps.word op fixed o).toNat =
    (o.g.toNat * 2 ^ 8 + op.toNat) * 2 ^ 20 + (fixed.toNat / 2 ^ 0 % 2 ^ 20) := by
  refine (toNat_append_add _ _).trans ?_
  simp only [toNat_append_add, toNat_extract]

theorem ZOps.word_guard (op : BitVec 8) (fixed : BitVec 20) (o : ZOps) : (ZOps.word op fixed o).extractLsb' 28 4 = o.g := by
  have := o.g.isLt
  have := op.isLt
  apply BitVec.eq_of_toNat_eq
  rw [toNat_extract, ZOps.word_toNat]
  omega

theorem ZOps.word_op (op : BitVec 8) (fixed : BitVec 20) (o : ZOps) : opcodeOf (ZOps.word op fixed o) = op := by
  have := o.g.isLt
  have := op.isLt
  apply BitVec.eq_of_toNat_eq
  rw [opcodeOf, toNat_extract, ZOps.word_toNat]
  omega

theorem ZOps.read_word (op : BitVec 8) (fixed : BitVec 20) (o : ZOps) : ZOps.read (ZOps.word op fixed o) = o := by
  have := o.g.isLt
  have := op.isLt
  have h := ZOps.word_toNat op fixed o
  cases o
  simp only [ZOps.read, ZOps.mk.injEq]
  apply BitVec.eq_of_toNat_eq; rw [toNat_extract, h]; dsimp only at *; omega

theorem TOps.word_toNat (op : BitVec 8) (fixed : BitVec 20) (o : TOps) : (TOps.word op fixed o).toNat =
    ((o.g.toNat * 2 ^ 8 + op.toNat) * 2 ^ 4 + (fixed.toNat / 2 ^ 16 % 2 ^ 4)) * 2 ^ 16 + o.code.toNat := by
  refine (toNat_append_add _ _).trans ?_
  simp only [toNat_append_add, toNat_extract]

theorem TOps.word_guard (op : BitVec 8) (fixed : BitVec 20) (o : TOps) : (TOps.word op fixed o).extractLsb' 28 4 = o.g := by
  have := o.g.isLt
  have := o.code.isLt
  have := op.isLt
  apply BitVec.eq_of_toNat_eq
  rw [toNat_extract, TOps.word_toNat]
  omega

theorem TOps.word_op (op : BitVec 8) (fixed : BitVec 20) (o : TOps) : opcodeOf (TOps.word op fixed o) = op := by
  have := o.g.isLt
  have := o.code.isLt
  have := op.isLt
  apply BitVec.eq_of_toNat_eq
  rw [opcodeOf, toNat_extract, TOps.word_toNat]
  omega

theorem TOps.read_word (op : BitVec 8) (fixed : BitVec 20) (o : TOps) : TOps.read (TOps.word op fixed o) = o := by
  have := o.g.isLt
  have := o.code.isLt
  have := op.isLt
  have h := TOps.word_toNat op fixed o
  cases o
  simp only [TOps.read, TOps.mk.injEq]
  refine ⟨?_, ?_⟩ <;> (apply BitVec.eq_of_toNat_eq; rw [toNat_extract, h]; dsimp only at *; omega)

theorem SyrOps.word_toNat (op : BitVec 8) (fixed : BitVec 20) (o : SyrOps) : (SyrOps.word op fixed o).toNat =
    (((o.g.toNat * 2 ^ 8 + op.toNat) * 2 ^ 6 + o.d.toNat) * 2 ^ 12 + o.n.toNat) * 2 ^ 2 + (fixed.toNat / 2 ^ 0 % 2 ^ 2) := by
  refine (toNat_append_add _ _).trans ?_
  simp only [toNat_append_add, toNat_extract]

theorem SyrOps.word_guard (op : BitVec 8) (fixed : BitVec 20) (o : SyrOps) : (SyrOps.word op fixed o).extractLsb' 28 4 = o.g := by
  have := o.g.isLt
  have := o.d.isLt
  have := o.n.isLt
  have := op.isLt
  apply BitVec.eq_of_toNat_eq
  rw [toNat_extract, SyrOps.word_toNat]
  omega

theorem SyrOps.word_op (op : BitVec 8) (fixed : BitVec 20) (o : SyrOps) : opcodeOf (SyrOps.word op fixed o) = op := by
  have := o.g.isLt
  have := o.d.isLt
  have := o.n.isLt
  have := op.isLt
  apply BitVec.eq_of_toNat_eq
  rw [opcodeOf, toNat_extract, SyrOps.word_toNat]
  omega

theorem SyrOps.read_word (op : BitVec 8) (fixed : BitVec 20) (o : SyrOps) : SyrOps.read (SyrOps.word op fixed o) = o := by
  have := o.g.isLt
  have := o.d.isLt
  have := o.n.isLt
  have := op.isLt
  have h := SyrOps.word_toNat op fixed o
  cases o
  simp only [SyrOps.read, SyrOps.mk.injEq]
  refine ⟨?_, ?_, ?_⟩ <;> (apply BitVec.eq_of_toNat_eq; rw [toNat_extract, h]; dsimp only at *; omega)

theorem SywOps.word_toNat (op : BitVec 8) (fixed : BitVec 20) (o : SywOps) : (SywOps.word op fixed o).toNat =
    (((o.g.toNat * 2 ^ 8 + op.toNat) * 2 ^ 6 + o.a.toNat) * 2 ^ 12 + o.n.toNat) * 2 ^ 2 + (fixed.toNat / 2 ^ 0 % 2 ^ 2) := by
  refine (toNat_append_add _ _).trans ?_
  simp only [toNat_append_add, toNat_extract]

theorem SywOps.word_guard (op : BitVec 8) (fixed : BitVec 20) (o : SywOps) : (SywOps.word op fixed o).extractLsb' 28 4 = o.g := by
  have := o.g.isLt
  have := o.a.isLt
  have := o.n.isLt
  have := op.isLt
  apply BitVec.eq_of_toNat_eq
  rw [toNat_extract, SywOps.word_toNat]
  omega

theorem SywOps.word_op (op : BitVec 8) (fixed : BitVec 20) (o : SywOps) : opcodeOf (SywOps.word op fixed o) = op := by
  have := o.g.isLt
  have := o.a.isLt
  have := o.n.isLt
  have := op.isLt
  apply BitVec.eq_of_toNat_eq
  rw [opcodeOf, toNat_extract, SywOps.word_toNat]
  omega

theorem SywOps.read_word (op : BitVec 8) (fixed : BitVec 20) (o : SywOps) : SywOps.read (SywOps.word op fixed o) = o := by
  have := o.g.isLt
  have := o.a.isLt
  have := o.n.isLt
  have := op.isLt
  have h := SywOps.word_toNat op fixed o
  cases o
  simp only [SywOps.read, SywOps.mk.injEq]
  refine ⟨?_, ?_, ?_⟩ <;> (apply BitVec.eq_of_toNat_eq; rw [toNat_extract, h]; dsimp only at *; omega)

theorem FwOps.word_toNat (op : BitVec 8) (fixed : BitVec 20) (o : FwOps) : (FwOps.word op fixed o).toNat =
    (((o.g.toNat * 2 ^ 8 + op.toNat) * 2 ^ 4 + o.f.toNat) * 2 ^ 6 + o.a.toNat) * 2 ^ 10 + (fixed.toNat / 2 ^ 0 % 2 ^ 10) := by
  refine (toNat_append_add _ _).trans ?_
  simp only [toNat_append_add, toNat_extract]

theorem FwOps.word_guard (op : BitVec 8) (fixed : BitVec 20) (o : FwOps) : (FwOps.word op fixed o).extractLsb' 28 4 = o.g := by
  have := o.g.isLt
  have := o.f.isLt
  have := o.a.isLt
  have := op.isLt
  apply BitVec.eq_of_toNat_eq
  rw [toNat_extract, FwOps.word_toNat]
  omega

theorem FwOps.word_op (op : BitVec 8) (fixed : BitVec 20) (o : FwOps) : opcodeOf (FwOps.word op fixed o) = op := by
  have := o.g.isLt
  have := o.f.isLt
  have := o.a.isLt
  have := op.isLt
  apply BitVec.eq_of_toNat_eq
  rw [opcodeOf, toNat_extract, FwOps.word_toNat]
  omega

theorem FwOps.read_word (op : BitVec 8) (fixed : BitVec 20) (o : FwOps) : FwOps.read (FwOps.word op fixed o) = o := by
  have := o.g.isLt
  have := o.f.isLt
  have := o.a.isLt
  have := op.isLt
  have h := FwOps.word_toNat op fixed o
  cases o
  simp only [FwOps.read, FwOps.mk.injEq]
  refine ⟨?_, ?_, ?_⟩ <;> (apply BitVec.eq_of_toNat_eq; rw [toNat_extract, h]; dsimp only at *; omega)

theorem R2Ops.word_toNat (op : BitVec 8) (fixed : BitVec 20) (o : R2Ops) : (R2Ops.word op fixed o).toNat =
    (((o.g.toNat * 2 ^ 8 + op.toNat) * 2 ^ 6 + o.a.toNat) * 2 ^ 6 + o.b.toNat) * 2 ^ 8 + (fixed.toNat / 2 ^ 0 % 2 ^ 8) := by
  refine (toNat_append_add _ _).trans ?_
  simp only [toNat_append_add, toNat_extract]

theorem R2Ops.word_guard (op : BitVec 8) (fixed : BitVec 20) (o : R2Ops) : (R2Ops.word op fixed o).extractLsb' 28 4 = o.g := by
  have := o.g.isLt
  have := o.a.isLt
  have := o.b.isLt
  have := op.isLt
  apply BitVec.eq_of_toNat_eq
  rw [toNat_extract, R2Ops.word_toNat]
  omega

theorem R2Ops.word_op (op : BitVec 8) (fixed : BitVec 20) (o : R2Ops) : opcodeOf (R2Ops.word op fixed o) = op := by
  have := o.g.isLt
  have := o.a.isLt
  have := o.b.isLt
  have := op.isLt
  apply BitVec.eq_of_toNat_eq
  rw [opcodeOf, toNat_extract, R2Ops.word_toNat]
  omega

theorem R2Ops.read_word (op : BitVec 8) (fixed : BitVec 20) (o : R2Ops) : R2Ops.read (R2Ops.word op fixed o) = o := by
  have := o.g.isLt
  have := o.a.isLt
  have := o.b.isLt
  have := op.isLt
  have h := R2Ops.word_toNat op fixed o
  cases o
  simp only [R2Ops.read, R2Ops.mk.injEq]
  refine ⟨?_, ?_, ?_⟩ <;> (apply BitVec.eq_of_toNat_eq; rw [toNat_extract, h]; dsimp only at *; omega)

theorem DaOps.word_toNat (op : BitVec 8) (fixed : BitVec 20) (o : DaOps) : (DaOps.word op fixed o).toNat =
    (((o.g.toNat * 2 ^ 8 + op.toNat) * 2 ^ 6 + o.d.toNat) * 2 ^ 6 + o.a.toNat) * 2 ^ 8 + (fixed.toNat / 2 ^ 0 % 2 ^ 8) := by
  refine (toNat_append_add _ _).trans ?_
  simp only [toNat_append_add, toNat_extract]

theorem DaOps.word_guard (op : BitVec 8) (fixed : BitVec 20) (o : DaOps) : (DaOps.word op fixed o).extractLsb' 28 4 = o.g := by
  have := o.g.isLt
  have := o.d.isLt
  have := o.a.isLt
  have := op.isLt
  apply BitVec.eq_of_toNat_eq
  rw [toNat_extract, DaOps.word_toNat]
  omega

theorem DaOps.word_op (op : BitVec 8) (fixed : BitVec 20) (o : DaOps) : opcodeOf (DaOps.word op fixed o) = op := by
  have := o.g.isLt
  have := o.d.isLt
  have := o.a.isLt
  have := op.isLt
  apply BitVec.eq_of_toNat_eq
  rw [opcodeOf, toNat_extract, DaOps.word_toNat]
  omega

theorem DaOps.read_word (op : BitVec 8) (fixed : BitVec 20) (o : DaOps) : DaOps.read (DaOps.word op fixed o) = o := by
  have := o.g.isLt
  have := o.d.isLt
  have := o.a.isLt
  have := op.isLt
  have h := DaOps.word_toNat op fixed o
  cases o
  simp only [DaOps.read, DaOps.mk.injEq]
  refine ⟨?_, ?_, ?_⟩ <;> (apply BitVec.eq_of_toNat_eq; rw [toNat_extract, h]; dsimp only at *; omega)

theorem CvOps.word_toNat (op : BitVec 8) (fixed : BitVec 20) (o : CvOps) : (CvOps.word op fixed o).toNat =
    ((((o.g.toNat * 2 ^ 8 + op.toNat) * 2 ^ 6 + o.d.toNat) * 2 ^ 6 + o.a.toNat) * 2 ^ 3 + o.m.toNat) * 2 ^ 5 + (fixed.toNat / 2 ^ 0 % 2 ^ 5) := by
  refine (toNat_append_add _ _).trans ?_
  simp only [toNat_append_add, toNat_extract]

theorem CvOps.word_guard (op : BitVec 8) (fixed : BitVec 20) (o : CvOps) : (CvOps.word op fixed o).extractLsb' 28 4 = o.g := by
  have := o.g.isLt
  have := o.d.isLt
  have := o.a.isLt
  have := o.m.isLt
  have := op.isLt
  apply BitVec.eq_of_toNat_eq
  rw [toNat_extract, CvOps.word_toNat]
  omega

theorem CvOps.word_op (op : BitVec 8) (fixed : BitVec 20) (o : CvOps) : opcodeOf (CvOps.word op fixed o) = op := by
  have := o.g.isLt
  have := o.d.isLt
  have := o.a.isLt
  have := o.m.isLt
  have := op.isLt
  apply BitVec.eq_of_toNat_eq
  rw [opcodeOf, toNat_extract, CvOps.word_toNat]
  omega

theorem CvOps.read_word (op : BitVec 8) (fixed : BitVec 20) (o : CvOps) : CvOps.read (CvOps.word op fixed o) = o := by
  have := o.g.isLt
  have := o.d.isLt
  have := o.a.isLt
  have := o.m.isLt
  have := op.isLt
  have h := CvOps.word_toNat op fixed o
  cases o
  simp only [CvOps.read, CvOps.mk.injEq]
  refine ⟨?_, ?_, ?_, ?_⟩ <;> (apply BitVec.eq_of_toNat_eq; rw [toNat_extract, h]; dsimp only at *; omega)

theorem CvfOps.word_toNat (op : BitVec 8) (fixed : BitVec 20) (o : CvfOps) : (CvfOps.word op fixed o).toNat =
    (((((o.g.toNat * 2 ^ 8 + op.toNat) * 2 ^ 6 + o.d.toNat) * 2 ^ 6 + o.a.toNat) * 2 ^ 3 + o.m.toNat) * 2 ^ 4 + o.f.toNat) * 2 ^ 1 + (fixed.toNat / 2 ^ 0 % 2 ^ 1) := by
  refine (toNat_append_add _ _).trans ?_
  simp only [toNat_append_add, toNat_extract]

theorem CvfOps.word_guard (op : BitVec 8) (fixed : BitVec 20) (o : CvfOps) : (CvfOps.word op fixed o).extractLsb' 28 4 = o.g := by
  have := o.g.isLt
  have := o.d.isLt
  have := o.a.isLt
  have := o.m.isLt
  have := o.f.isLt
  have := op.isLt
  apply BitVec.eq_of_toNat_eq
  rw [toNat_extract, CvfOps.word_toNat]
  omega

theorem CvfOps.word_op (op : BitVec 8) (fixed : BitVec 20) (o : CvfOps) : opcodeOf (CvfOps.word op fixed o) = op := by
  have := o.g.isLt
  have := o.d.isLt
  have := o.a.isLt
  have := o.m.isLt
  have := o.f.isLt
  have := op.isLt
  apply BitVec.eq_of_toNat_eq
  rw [opcodeOf, toNat_extract, CvfOps.word_toNat]
  omega

theorem CvfOps.read_word (op : BitVec 8) (fixed : BitVec 20) (o : CvfOps) : CvfOps.read (CvfOps.word op fixed o) = o := by
  have := o.g.isLt
  have := o.d.isLt
  have := o.a.isLt
  have := o.m.isLt
  have := o.f.isLt
  have := op.isLt
  have h := CvfOps.word_toNat op fixed o
  cases o
  simp only [CvfOps.read, CvfOps.mk.injEq]
  refine ⟨?_, ?_, ?_, ?_, ?_⟩ <;> (apply BitVec.eq_of_toNat_eq; rw [toNat_extract, h]; dsimp only at *; omega)

theorem CsOps.word_toNat (op : BitVec 8) (fixed : BitVec 20) (o : CsOps) : (CsOps.word op fixed o).toNat =
    ((((o.g.toNat * 2 ^ 8 + op.toNat) * 2 ^ 6 + o.d.toNat) * 2 ^ 6 + o.a.toNat) * 2 ^ 6 + o.b.toNat) * 2 ^ 2 + o.f.toNat := by
  refine (toNat_append_add _ _).trans ?_
  simp only [toNat_append_add]

theorem CsOps.word_guard (op : BitVec 8) (fixed : BitVec 20) (o : CsOps) : (CsOps.word op fixed o).extractLsb' 28 4 = o.g := by
  have := o.g.isLt
  have := o.d.isLt
  have := o.a.isLt
  have := o.b.isLt
  have := o.f.isLt
  have := op.isLt
  apply BitVec.eq_of_toNat_eq
  rw [toNat_extract, CsOps.word_toNat]
  omega

theorem CsOps.word_op (op : BitVec 8) (fixed : BitVec 20) (o : CsOps) : opcodeOf (CsOps.word op fixed o) = op := by
  have := o.g.isLt
  have := o.d.isLt
  have := o.a.isLt
  have := o.b.isLt
  have := o.f.isLt
  have := op.isLt
  apply BitVec.eq_of_toNat_eq
  rw [opcodeOf, toNat_extract, CsOps.word_toNat]
  omega

theorem CsOps.read_word (op : BitVec 8) (fixed : BitVec 20) (o : CsOps) : CsOps.read (CsOps.word op fixed o) = o := by
  have := o.g.isLt
  have := o.d.isLt
  have := o.a.isLt
  have := o.b.isLt
  have := o.f.isLt
  have := op.isLt
  have h := CsOps.word_toNat op fixed o
  cases o
  simp only [CsOps.read, CsOps.mk.injEq]
  refine ⟨?_, ?_, ?_, ?_, ?_⟩ <;> (apply BitVec.eq_of_toNat_eq; rw [toNat_extract, h]; dsimp only at *; omega)

theorem MsOps.word_toNat (op : BitVec 8) (fixed : BitVec 20) (o : MsOps) : (MsOps.word op fixed o).toNat =
    (((((o.g.toNat * 2 ^ 8 + op.toNat) * 2 ^ 6 + o.a.toNat) * 2 ^ 3 + o.acc.toNat) * 2 ^ 4 + o.fa.toNat) * 2 ^ 4 + o.fb.toNat) * 2 ^ 3 + (fixed.toNat / 2 ^ 0 % 2 ^ 3) := by
  refine (toNat_append_add _ _).trans ?_
  simp only [toNat_append_add, toNat_extract]

theorem MsOps.word_guard (op : BitVec 8) (fixed : BitVec 20) (o : MsOps) : (MsOps.word op fixed o).extractLsb' 28 4 = o.g := by
  have := o.g.isLt
  have := o.a.isLt
  have := o.acc.isLt
  have := o.fa.isLt
  have := o.fb.isLt
  have := op.isLt
  apply BitVec.eq_of_toNat_eq
  rw [toNat_extract, MsOps.word_toNat]
  omega

theorem MsOps.word_op (op : BitVec 8) (fixed : BitVec 20) (o : MsOps) : opcodeOf (MsOps.word op fixed o) = op := by
  have := o.g.isLt
  have := o.a.isLt
  have := o.acc.isLt
  have := o.fa.isLt
  have := o.fb.isLt
  have := op.isLt
  apply BitVec.eq_of_toNat_eq
  rw [opcodeOf, toNat_extract, MsOps.word_toNat]
  omega

theorem MsOps.read_word (op : BitVec 8) (fixed : BitVec 20) (o : MsOps) : MsOps.read (MsOps.word op fixed o) = o := by
  have := o.g.isLt
  have := o.a.isLt
  have := o.acc.isLt
  have := o.fa.isLt
  have := o.fb.isLt
  have := op.isLt
  have h := MsOps.word_toNat op fixed o
  cases o
  simp only [MsOps.read, MsOps.mk.injEq]
  refine ⟨?_, ?_, ?_, ?_, ?_⟩ <;> (apply BitVec.eq_of_toNat_eq; rw [toNat_extract, h]; dsimp only at *; omega)

theorem MslOps.word_toNat (op : BitVec 8) (fixed : BitVec 20) (o : MslOps) : (MslOps.word op fixed o).toNat =
    ((((o.g.toNat * 2 ^ 8 + op.toNat) * 2 ^ 6 + o.a.toNat) * 2 ^ 3 + o.acc.toNat) * 2 ^ 4 + o.fa.toNat) * 2 ^ 7 + (fixed.toNat / 2 ^ 0 % 2 ^ 7) := by
  refine (toNat_append_add _ _).trans ?_
  simp only [toNat_append_add, toNat_extract]

theorem MslOps.word_guard (op : BitVec 8) (fixed : BitVec 20) (o : MslOps) : (MslOps.word op fixed o).extractLsb' 28 4 = o.g := by
  have := o.g.isLt
  have := o.a.isLt
  have := o.acc.isLt
  have := o.fa.isLt
  have := op.isLt
  apply BitVec.eq_of_toNat_eq
  rw [toNat_extract, MslOps.word_toNat]
  omega

theorem MslOps.word_op (op : BitVec 8) (fixed : BitVec 20) (o : MslOps) : opcodeOf (MslOps.word op fixed o) = op := by
  have := o.g.isLt
  have := o.a.isLt
  have := o.acc.isLt
  have := o.fa.isLt
  have := op.isLt
  apply BitVec.eq_of_toNat_eq
  rw [opcodeOf, toNat_extract, MslOps.word_toNat]
  omega

theorem MslOps.read_word (op : BitVec 8) (fixed : BitVec 20) (o : MslOps) : MslOps.read (MslOps.word op fixed o) = o := by
  have := o.g.isLt
  have := o.a.isLt
  have := o.acc.isLt
  have := o.fa.isLt
  have := op.isLt
  have h := MslOps.word_toNat op fixed o
  cases o
  simp only [MslOps.read, MslOps.mk.injEq]
  refine ⟨?_, ?_, ?_, ?_⟩ <;> (apply BitVec.eq_of_toNat_eq; rw [toNat_extract, h]; dsimp only at *; omega)

theorem MbOps.word_toNat (op : BitVec 8) (fixed : BitVec 20) (o : MbOps) : (MbOps.word op fixed o).toNat =
    (((o.g.toNat * 2 ^ 8 + op.toNat) * 2 ^ 6 + o.a.toNat) * 2 ^ 4 + o.fb.toNat) * 2 ^ 10 + (fixed.toNat / 2 ^ 0 % 2 ^ 10) := by
  refine (toNat_append_add _ _).trans ?_
  simp only [toNat_append_add, toNat_extract]

theorem MbOps.word_guard (op : BitVec 8) (fixed : BitVec 20) (o : MbOps) : (MbOps.word op fixed o).extractLsb' 28 4 = o.g := by
  have := o.g.isLt
  have := o.a.isLt
  have := o.fb.isLt
  have := op.isLt
  apply BitVec.eq_of_toNat_eq
  rw [toNat_extract, MbOps.word_toNat]
  omega

theorem MbOps.word_op (op : BitVec 8) (fixed : BitVec 20) (o : MbOps) : opcodeOf (MbOps.word op fixed o) = op := by
  have := o.g.isLt
  have := o.a.isLt
  have := o.fb.isLt
  have := op.isLt
  apply BitVec.eq_of_toNat_eq
  rw [opcodeOf, toNat_extract, MbOps.word_toNat]
  omega

theorem MbOps.read_word (op : BitVec 8) (fixed : BitVec 20) (o : MbOps) : MbOps.read (MbOps.word op fixed o) = o := by
  have := o.g.isLt
  have := o.a.isLt
  have := o.fb.isLt
  have := op.isLt
  have h := MbOps.word_toNat op fixed o
  cases o
  simp only [MbOps.read, MbOps.mk.injEq]
  refine ⟨?_, ?_, ?_⟩ <;> (apply BitVec.eq_of_toNat_eq; rw [toNat_extract, h]; dsimp only at *; omega)

theorem MqOps.word_toNat (op : BitVec 8) (fixed : BitVec 20) (o : MqOps) : (MqOps.word op fixed o).toNat =
    (((o.g.toNat * 2 ^ 8 + op.toNat) * 2 ^ 6 + o.a.toNat) * 2 ^ 2 + o.q.toNat) * 2 ^ 12 + (fixed.toNat / 2 ^ 0 % 2 ^ 12) := by
  refine (toNat_append_add _ _).trans ?_
  simp only [toNat_append_add, toNat_extract]

theorem MqOps.word_guard (op : BitVec 8) (fixed : BitVec 20) (o : MqOps) : (MqOps.word op fixed o).extractLsb' 28 4 = o.g := by
  have := o.g.isLt
  have := o.a.isLt
  have := o.q.isLt
  have := op.isLt
  apply BitVec.eq_of_toNat_eq
  rw [toNat_extract, MqOps.word_toNat]
  omega

theorem MqOps.word_op (op : BitVec 8) (fixed : BitVec 20) (o : MqOps) : opcodeOf (MqOps.word op fixed o) = op := by
  have := o.g.isLt
  have := o.a.isLt
  have := o.q.isLt
  have := op.isLt
  apply BitVec.eq_of_toNat_eq
  rw [opcodeOf, toNat_extract, MqOps.word_toNat]
  omega

theorem MqOps.read_word (op : BitVec 8) (fixed : BitVec 20) (o : MqOps) : MqOps.read (MqOps.word op fixed o) = o := by
  have := o.g.isLt
  have := o.a.isLt
  have := o.q.isLt
  have := op.isLt
  have h := MqOps.word_toNat op fixed o
  cases o
  simp only [MqOps.read, MqOps.mk.injEq]
  refine ⟨?_, ?_, ?_⟩ <;> (apply BitVec.eq_of_toNat_eq; rw [toNat_extract, h]; dsimp only at *; omega)

theorem MdOps.word_toNat (op : BitVec 8) (fixed : BitVec 20) (o : MdOps) : (MdOps.word op fixed o).toNat =
    ((((((o.g.toNat * 2 ^ 8 + op.toNat) * 2 ^ 6 + o.a.toNat) * 2 ^ 3 + o.acc.toNat) * 2 ^ 4 + o.f.toNat) * 2 ^ 3 + o.m.toNat) * 2 ^ 1 + o.zr.toNat) * 2 ^ 3 + (fixed.toNat / 2 ^ 0 % 2 ^ 3) := by
  refine (toNat_append_add _ _).trans ?_
  simp only [toNat_append_add, toNat_extract]

theorem MdOps.word_guard (op : BitVec 8) (fixed : BitVec 20) (o : MdOps) : (MdOps.word op fixed o).extractLsb' 28 4 = o.g := by
  have := o.g.isLt
  have := o.a.isLt
  have := o.acc.isLt
  have := o.f.isLt
  have := o.m.isLt
  have := o.zr.isLt
  have := op.isLt
  apply BitVec.eq_of_toNat_eq
  rw [toNat_extract, MdOps.word_toNat]
  omega

theorem MdOps.word_op (op : BitVec 8) (fixed : BitVec 20) (o : MdOps) : opcodeOf (MdOps.word op fixed o) = op := by
  have := o.g.isLt
  have := o.a.isLt
  have := o.acc.isLt
  have := o.f.isLt
  have := o.m.isLt
  have := o.zr.isLt
  have := op.isLt
  apply BitVec.eq_of_toNat_eq
  rw [opcodeOf, toNat_extract, MdOps.word_toNat]
  omega

theorem MdOps.read_word (op : BitVec 8) (fixed : BitVec 20) (o : MdOps) : MdOps.read (MdOps.word op fixed o) = o := by
  have := o.g.isLt
  have := o.a.isLt
  have := o.acc.isLt
  have := o.f.isLt
  have := o.m.isLt
  have := o.zr.isLt
  have := op.isLt
  have h := MdOps.word_toNat op fixed o
  cases o
  simp only [MdOps.read, MdOps.mk.injEq]
  refine ⟨?_, ?_, ?_, ?_, ?_, ?_⟩ <;> (apply BitVec.eq_of_toNat_eq; rw [toNat_extract, h]; dsimp only at *; omega)

theorem MaskOps.word_toNat (op : BitVec 8) (fixed : BitVec 20) (o : MaskOps) : (MaskOps.word op fixed o).toNat =
    ((o.g.toNat * 2 ^ 8 + op.toNat) * 2 ^ 8 + o.mask.toNat) * 2 ^ 12 + (fixed.toNat / 2 ^ 0 % 2 ^ 12) := by
  refine (toNat_append_add _ _).trans ?_
  simp only [toNat_append_add, toNat_extract]

theorem MaskOps.word_guard (op : BitVec 8) (fixed : BitVec 20) (o : MaskOps) : (MaskOps.word op fixed o).extractLsb' 28 4 = o.g := by
  have := o.g.isLt
  have := o.mask.isLt
  have := op.isLt
  apply BitVec.eq_of_toNat_eq
  rw [toNat_extract, MaskOps.word_toNat]
  omega

theorem MaskOps.word_op (op : BitVec 8) (fixed : BitVec 20) (o : MaskOps) : opcodeOf (MaskOps.word op fixed o) = op := by
  have := o.g.isLt
  have := o.mask.isLt
  have := op.isLt
  apply BitVec.eq_of_toNat_eq
  rw [opcodeOf, toNat_extract, MaskOps.word_toNat]
  omega

theorem MaskOps.read_word (op : BitVec 8) (fixed : BitVec 20) (o : MaskOps) : MaskOps.read (MaskOps.word op fixed o) = o := by
  have := o.g.isLt
  have := o.mask.isLt
  have := op.isLt
  have h := MaskOps.word_toNat op fixed o
  cases o
  simp only [MaskOps.read, MaskOps.mk.injEq]
  refine ⟨?_, ?_⟩ <;> (apply BitVec.eq_of_toNat_eq; rw [toNat_extract, h]; dsimp only at *; omega)

theorem XaOps.word_toNat (op : BitVec 8) (fixed : BitVec 20) (o : XaOps) : (XaOps.word op fixed o).toNat =
    ((o.g.toNat * 2 ^ 8 + op.toNat) * 2 ^ 6 + o.a.toNat) * 2 ^ 14 + o.imm.toNat := by
  refine (toNat_append_add _ _).trans ?_
  simp only [toNat_append_add]

theorem XaOps.word_guard (op : BitVec 8) (fixed : BitVec 20) (o : XaOps) : (XaOps.word op fixed o).extractLsb' 28 4 = o.g := by
  have := o.g.isLt
  have := o.a.isLt
  have := o.imm.isLt
  have := op.isLt
  apply BitVec.eq_of_toNat_eq
  rw [toNat_extract, XaOps.word_toNat]
  omega

theorem XaOps.word_op (op : BitVec 8) (fixed : BitVec 20) (o : XaOps) : opcodeOf (XaOps.word op fixed o) = op := by
  have := o.g.isLt
  have := o.a.isLt
  have := o.imm.isLt
  have := op.isLt
  apply BitVec.eq_of_toNat_eq
  rw [opcodeOf, toNat_extract, XaOps.word_toNat]
  omega

theorem XaOps.read_word (op : BitVec 8) (fixed : BitVec 20) (o : XaOps) : XaOps.read (XaOps.word op fixed o) = o := by
  have := o.g.isLt
  have := o.a.isLt
  have := o.imm.isLt
  have := op.isLt
  have h := XaOps.word_toNat op fixed o
  cases o
  simp only [XaOps.read, XaOps.mk.injEq]
  refine ⟨?_, ?_, ?_⟩ <;> (apply BitVec.eq_of_toNat_eq; rw [toNat_extract, h]; dsimp only at *; omega)

theorem SwOps.word_toNat (op : BitVec 8) (fixed : BitVec 20) (o : SwOps) : (SwOps.word op fixed o).toNat =
    ((o.g.toNat * 2 ^ 8 + op.toNat) * 2 ^ 4 + o.m.toNat) * 2 ^ 16 + o.n.toNat := by
  refine (toNat_append_add _ _).trans ?_
  simp only [toNat_append_add]

theorem SwOps.word_guard (op : BitVec 8) (fixed : BitVec 20) (o : SwOps) : (SwOps.word op fixed o).extractLsb' 28 4 = o.g := by
  have := o.g.isLt
  have := o.m.isLt
  have := o.n.isLt
  have := op.isLt
  apply BitVec.eq_of_toNat_eq
  rw [toNat_extract, SwOps.word_toNat]
  omega

theorem SwOps.word_op (op : BitVec 8) (fixed : BitVec 20) (o : SwOps) : opcodeOf (SwOps.word op fixed o) = op := by
  have := o.g.isLt
  have := o.m.isLt
  have := o.n.isLt
  have := op.isLt
  apply BitVec.eq_of_toNat_eq
  rw [opcodeOf, toNat_extract, SwOps.word_toNat]
  omega

theorem SwOps.read_word (op : BitVec 8) (fixed : BitVec 20) (o : SwOps) : SwOps.read (SwOps.word op fixed o) = o := by
  have := o.g.isLt
  have := o.m.isLt
  have := o.n.isLt
  have := op.isLt
  have h := SwOps.word_toNat op fixed o
  cases o
  simp only [SwOps.read, SwOps.mk.injEq]
  refine ⟨?_, ?_, ?_⟩ <;> (apply BitVec.eq_of_toNat_eq; rw [toNat_extract, h]; dsimp only at *; omega)

theorem LkOps.word_toNat (op : BitVec 8) (fixed : BitVec 20) (o : LkOps) : (LkOps.word op fixed o).toNat =
    ((((o.g.toNat * 2 ^ 8 + op.toNat) * 2 ^ 6 + o.a.toNat) * 2 ^ 6 + o.b.toNat) * 2 ^ 4 + o.m.toNat) * 2 ^ 4 + (fixed.toNat / 2 ^ 0 % 2 ^ 4) := by
  refine (toNat_append_add _ _).trans ?_
  simp only [toNat_append_add, toNat_extract]

theorem LkOps.word_guard (op : BitVec 8) (fixed : BitVec 20) (o : LkOps) : (LkOps.word op fixed o).extractLsb' 28 4 = o.g := by
  have := o.g.isLt
  have := o.a.isLt
  have := o.b.isLt
  have := o.m.isLt
  have := op.isLt
  apply BitVec.eq_of_toNat_eq
  rw [toNat_extract, LkOps.word_toNat]
  omega

theorem LkOps.word_op (op : BitVec 8) (fixed : BitVec 20) (o : LkOps) : opcodeOf (LkOps.word op fixed o) = op := by
  have := o.g.isLt
  have := o.a.isLt
  have := o.b.isLt
  have := o.m.isLt
  have := op.isLt
  apply BitVec.eq_of_toNat_eq
  rw [opcodeOf, toNat_extract, LkOps.word_toNat]
  omega

theorem LkOps.read_word (op : BitVec 8) (fixed : BitVec 20) (o : LkOps) : LkOps.read (LkOps.word op fixed o) = o := by
  have := o.g.isLt
  have := o.a.isLt
  have := o.b.isLt
  have := o.m.isLt
  have := op.isLt
  have h := LkOps.word_toNat op fixed o
  cases o
  simp only [LkOps.read, LkOps.mk.injEq]
  refine ⟨?_, ?_, ?_, ?_⟩ <;> (apply BitVec.eq_of_toNat_eq; rw [toNat_extract, h]; dsimp only at *; omega)

theorem LsOps.word_toNat (op : BitVec 8) (fixed : BitVec 20) (o : LsOps) : (LsOps.word op fixed o).toNat =
    ((((o.g.toNat * 2 ^ 8 + op.toNat) * 2 ^ 3 + o.l.toNat) * 2 ^ 6 + o.a.toNat) * 2 ^ 8 + o.len.toNat) * 2 ^ 3 + (fixed.toNat / 2 ^ 0 % 2 ^ 3) := by
  refine (toNat_append_add _ _).trans ?_
  simp only [toNat_append_add, toNat_extract]

theorem LsOps.word_guard (op : BitVec 8) (fixed : BitVec 20) (o : LsOps) : (LsOps.word op fixed o).extractLsb' 28 4 = o.g := by
  have := o.g.isLt
  have := o.l.isLt
  have := o.a.isLt
  have := o.len.isLt
  have := op.isLt
  apply BitVec.eq_of_toNat_eq
  rw [toNat_extract, LsOps.word_toNat]
  omega

theorem LsOps.word_op (op : BitVec 8) (fixed : BitVec 20) (o : LsOps) : opcodeOf (LsOps.word op fixed o) = op := by
  have := o.g.isLt
  have := o.l.isLt
  have := o.a.isLt
  have := o.len.isLt
  have := op.isLt
  apply BitVec.eq_of_toNat_eq
  rw [opcodeOf, toNat_extract, LsOps.word_toNat]
  omega

theorem LsOps.read_word (op : BitVec 8) (fixed : BitVec 20) (o : LsOps) : LsOps.read (LsOps.word op fixed o) = o := by
  have := o.g.isLt
  have := o.l.isLt
  have := o.a.isLt
  have := o.len.isLt
  have := op.isLt
  have h := LsOps.word_toNat op fixed o
  cases o
  simp only [LsOps.read, LsOps.mk.injEq]
  refine ⟨?_, ?_, ?_, ?_⟩ <;> (apply BitVec.eq_of_toNat_eq; rw [toNat_extract, h]; dsimp only at *; omega)

theorem LqOps.word_toNat (op : BitVec 8) (fixed : BitVec 20) (o : LqOps) : (LqOps.word op fixed o).toNat =
    (((((o.g.toNat * 2 ^ 8 + op.toNat) * 2 ^ 3 + o.l.toNat) * 2 ^ 2 + o.j.toNat) * 2 ^ 6 + o.s.toNat) * 2 ^ 6 + o.b.toNat) * 2 ^ 3 + (fixed.toNat / 2 ^ 0 % 2 ^ 3) := by
  refine (toNat_append_add _ _).trans ?_
  simp only [toNat_append_add, toNat_extract]

theorem LqOps.word_guard (op : BitVec 8) (fixed : BitVec 20) (o : LqOps) : (LqOps.word op fixed o).extractLsb' 28 4 = o.g := by
  have := o.g.isLt
  have := o.l.isLt
  have := o.j.isLt
  have := o.s.isLt
  have := o.b.isLt
  have := op.isLt
  apply BitVec.eq_of_toNat_eq
  rw [toNat_extract, LqOps.word_toNat]
  omega

theorem LqOps.word_op (op : BitVec 8) (fixed : BitVec 20) (o : LqOps) : opcodeOf (LqOps.word op fixed o) = op := by
  have := o.g.isLt
  have := o.l.isLt
  have := o.j.isLt
  have := o.s.isLt
  have := o.b.isLt
  have := op.isLt
  apply BitVec.eq_of_toNat_eq
  rw [opcodeOf, toNat_extract, LqOps.word_toNat]
  omega

theorem LqOps.read_word (op : BitVec 8) (fixed : BitVec 20) (o : LqOps) : LqOps.read (LqOps.word op fixed o) = o := by
  have := o.g.isLt
  have := o.l.isLt
  have := o.j.isLt
  have := o.s.isLt
  have := o.b.isLt
  have := op.isLt
  have h := LqOps.word_toNat op fixed o
  cases o
  simp only [LqOps.read, LqOps.mk.injEq]
  refine ⟨?_, ?_, ?_, ?_, ?_⟩ <;> (apply BitVec.eq_of_toNat_eq; rw [toNat_extract, h]; dsimp only at *; omega)

theorem PrOps.word_toNat (op : BitVec 8) (fixed : BitVec 20) (o : PrOps) : (PrOps.word op fixed o).toNat =
    (((o.g.toNat * 2 ^ 8 + op.toNat) * 2 ^ 4 + o.p.toNat) * 2 ^ 8 + o.n.toNat) * 2 ^ 8 + (fixed.toNat / 2 ^ 0 % 2 ^ 8) := by
  refine (toNat_append_add _ _).trans ?_
  simp only [toNat_append_add, toNat_extract]

theorem PrOps.word_guard (op : BitVec 8) (fixed : BitVec 20) (o : PrOps) : (PrOps.word op fixed o).extractLsb' 28 4 = o.g := by
  have := o.g.isLt
  have := o.p.isLt
  have := o.n.isLt
  have := op.isLt
  apply BitVec.eq_of_toNat_eq
  rw [toNat_extract, PrOps.word_toNat]
  omega

theorem PrOps.word_op (op : BitVec 8) (fixed : BitVec 20) (o : PrOps) : opcodeOf (PrOps.word op fixed o) = op := by
  have := o.g.isLt
  have := o.p.isLt
  have := o.n.isLt
  have := op.isLt
  apply BitVec.eq_of_toNat_eq
  rw [opcodeOf, toNat_extract, PrOps.word_toNat]
  omega

theorem PrOps.read_word (op : BitVec 8) (fixed : BitVec 20) (o : PrOps) : PrOps.read (PrOps.word op fixed o) = o := by
  have := o.g.isLt
  have := o.p.isLt
  have := o.n.isLt
  have := op.isLt
  have h := PrOps.word_toNat op fixed o
  cases o
  simp only [PrOps.read, PrOps.mk.injEq]
  refine ⟨?_, ?_, ?_⟩ <;> (apply BitVec.eq_of_toNat_eq; rw [toNat_extract, h]; dsimp only at *; omega)

theorem P3Ops.word_toNat (op : BitVec 8) (fixed : BitVec 20) (o : P3Ops) : (P3Ops.word op fixed o).toNat =
    ((((o.g.toNat * 2 ^ 8 + op.toNat) * 2 ^ 4 + o.pd.toNat) * 2 ^ 4 + o.pa.toNat) * 2 ^ 4 + o.pb.toNat) * 2 ^ 8 + (fixed.toNat / 2 ^ 0 % 2 ^ 8) := by
  refine (toNat_append_add _ _).trans ?_
  simp only [toNat_append_add, toNat_extract]

theorem P3Ops.word_guard (op : BitVec 8) (fixed : BitVec 20) (o : P3Ops) : (P3Ops.word op fixed o).extractLsb' 28 4 = o.g := by
  have := o.g.isLt
  have := o.pd.isLt
  have := o.pa.isLt
  have := o.pb.isLt
  have := op.isLt
  apply BitVec.eq_of_toNat_eq
  rw [toNat_extract, P3Ops.word_toNat]
  omega

theorem P3Ops.word_op (op : BitVec 8) (fixed : BitVec 20) (o : P3Ops) : opcodeOf (P3Ops.word op fixed o) = op := by
  have := o.g.isLt
  have := o.pd.isLt
  have := o.pa.isLt
  have := o.pb.isLt
  have := op.isLt
  apply BitVec.eq_of_toNat_eq
  rw [opcodeOf, toNat_extract, P3Ops.word_toNat]
  omega

theorem P3Ops.read_word (op : BitVec 8) (fixed : BitVec 20) (o : P3Ops) : P3Ops.read (P3Ops.word op fixed o) = o := by
  have := o.g.isLt
  have := o.pd.isLt
  have := o.pa.isLt
  have := o.pb.isLt
  have := op.isLt
  have h := P3Ops.word_toNat op fixed o
  cases o
  simp only [P3Ops.read, P3Ops.mk.injEq]
  refine ⟨?_, ?_, ?_, ?_⟩ <;> (apply BitVec.eq_of_toNat_eq; rw [toNat_extract, h]; dsimp only at *; omega)

theorem PsOps.word_toNat (op : BitVec 8) (fixed : BitVec 20) (o : PsOps) : (PsOps.word op fixed o).toNat =
    (((o.g.toNat * 2 ^ 8 + op.toNat) * 2 ^ 4 + o.pd.toNat) * 2 ^ 1 + o.v.toNat) * 2 ^ 15 + (fixed.toNat / 2 ^ 0 % 2 ^ 15) := by
  refine (toNat_append_add _ _).trans ?_
  simp only [toNat_append_add, toNat_extract]

theorem PsOps.word_guard (op : BitVec 8) (fixed : BitVec 20) (o : PsOps) : (PsOps.word op fixed o).extractLsb' 28 4 = o.g := by
  have := o.g.isLt
  have := o.pd.isLt
  have := o.v.isLt
  have := op.isLt
  apply BitVec.eq_of_toNat_eq
  rw [toNat_extract, PsOps.word_toNat]
  omega

theorem PsOps.word_op (op : BitVec 8) (fixed : BitVec 20) (o : PsOps) : opcodeOf (PsOps.word op fixed o) = op := by
  have := o.g.isLt
  have := o.pd.isLt
  have := o.v.isLt
  have := op.isLt
  apply BitVec.eq_of_toNat_eq
  rw [opcodeOf, toNat_extract, PsOps.word_toNat]
  omega

theorem PsOps.read_word (op : BitVec 8) (fixed : BitVec 20) (o : PsOps) : PsOps.read (PsOps.word op fixed o) = o := by
  have := o.g.isLt
  have := o.pd.isLt
  have := o.v.isLt
  have := op.isLt
  have h := PsOps.word_toNat op fixed o
  cases o
  simp only [PsOps.read, PsOps.mk.injEq]
  refine ⟨?_, ?_, ?_⟩ <;> (apply BitVec.eq_of_toNat_eq; rw [toNat_extract, h]; dsimp only at *; omega)

end Sys2Proof
end

