-- ==== Sys2Proof/Laws/Memory.lean ====
section
/-! SUPPORT. Memory: the canonical form is kept by every operation, a write is read back, and it leaves every other byte
alone. -/

namespace Sys2Proof.Machine

namespace Memory

/-- The canonical form, as order and absence of listed zeros. -/
theorem wfCells_iff (cs : List Host.Cell) :
    wfCells cs = true ↔ cs.Pairwise (fun c d => c.1 < d.1) ∧ ∀ c ∈ cs, c.2 ≠ 0 := by
  induction cs with
  | nil => simp [wfCells]
  | cons c cs ih =>
    cases cs with
    | nil => simp [wfCells]
    | cons d cs =>
      simp only [wfCells, Bool.and_eq_true, ih, bne_iff_ne, decide_eq_true_eq, List.pairwise_cons,
        List.forall_mem_cons]
      constructor
      · rintro ⟨⟨hc, hcd⟩, ⟨hd, hp⟩, hz, hall⟩
        refine ⟨⟨⟨hcd, fun x hx => lt_trans hcd (hd x hx)⟩, hd, hp⟩, hc, hz, hall⟩
      · rintro ⟨⟨⟨hcd, -⟩, hd, hp⟩, hc, hz, hall⟩
        exact ⟨⟨hc, hcd⟩, ⟨hd, hp⟩, hz, hall⟩

theorem wf_iff (m : Memory) :
    m.wf = true ↔ m.cells.Pairwise (fun c d => c.1 < d.1) ∧ ∀ c ∈ m.cells, c.2 ≠ 0 := wfCells_iff _

@[simp] theorem empty_wf : empty.wf = true := rfl

/-- Leaving cells out keeps the canonical form. -/
theorem filter_wf {cs : List Host.Cell} (h : wfCells cs = true) (p : Host.Cell → Bool) : wfCells (cs.filter p) = true := by
  rw [wfCells_iff] at h ⊢
  exact ⟨h.1.filter p, fun c hc => h.2 c (List.mem_filter.mp hc).1⟩

/-- Moving every address by an increasing map keeps the canonical form. -/
theorem map_wf {cs : List Host.Cell} (h : wfCells cs = true) (f : Nat → Nat)
    (hf : ∀ c ∈ cs, ∀ d ∈ cs, c.1 < d.1 → f c.1 < f d.1) : wfCells (cs.map (fun c => (f c.1, c.2))) = true := by
  rw [wfCells_iff] at h ⊢
  refine ⟨List.pairwise_map.mpr (h.1.imp_of_mem (fun hc hd hcd => hf _ hc _ hd hcd)), ?_⟩
  intro c hc
  obtain ⟨d, hd, rfl⟩ := List.mem_map.mp hc
  exact h.2 d hd

theorem mem_cellsOf (bs : List Byte) : ∀ (a : Nat) (c : Host.Cell), c ∈ cellsOf a bs →
    a ≤ c.1 ∧ c.1 < a + bs.length ∧ c.2 ≠ 0 ∧ bs[c.1 - a]? = some c.2 := by
  induction bs with
  | nil => intro a c hc; simp [cellsOf] at hc
  | cons b bs ih =>
    intro a c hc
    have step : c ∈ cellsOf (a + 1) bs → a ≤ c.1 ∧ c.1 < a + (b :: bs).length ∧ c.2 ≠ 0 ∧
        (b :: bs)[c.1 - a]? = some c.2 := by
      intro hc
      obtain ⟨h1, h2, h3, h4⟩ := ih (a + 1) c hc
      refine ⟨by omega, by simp; omega, h3, ?_⟩
      rw [show c.1 - a = (c.1 - (a + 1)) + 1 from by omega, List.getElem?_cons_succ]
      exact h4
    by_cases hb : b = 0
    · rw [cellsOf, if_pos hb] at hc; exact step hc
    · rw [cellsOf, if_neg hb, List.mem_cons] at hc
      rcases hc with rfl | hc
      · exact ⟨le_rfl, by simp, hb, by simp⟩
      · exact step hc

theorem cellsOf_wf (bs : List Byte) : ∀ a, wfCells (cellsOf a bs) = true := by
  induction bs with
  | nil => intro a; rfl
  | cons b bs ih =>
    intro a
    by_cases hb : b = 0
    · rw [cellsOf, if_pos hb]; exact ih (a + 1)
    · rw [cellsOf, if_neg hb, wfCells_iff]
      have h := (wfCells_iff _).mp (ih (a + 1))
      refine ⟨List.pairwise_cons.mpr ⟨fun c hc => ?_, h.1⟩, List.forall_mem_cons.mpr ⟨hb, h.2⟩⟩
      have := (mem_cellsOf bs (a + 1) c hc).1
      simp only; omega

/-- Every byte of a list stands in its cells, unless it is 0. -/
theorem cellsOf_mem (bs : List Byte) : ∀ (a i : Nat) (b : Byte), bs[i]? = some b → b ≠ 0 → (a + i, b) ∈ cellsOf a bs := by
  induction bs with
  | nil => intro a i b h; simp at h
  | cons x bs ih =>
    intro a i b h hb
    cases i with
    | zero =>
      simp only [List.getElem?_cons_zero, Option.some.injEq] at h
      subst h
      rw [cellsOf, if_neg hb]; simp
    | succ i =>
      rw [List.getElem?_cons_succ] at h
      have := ih (a + 1) i b h hb
      rw [show a + 1 + i = a + (i + 1) from by omega] at this
      by_cases hx : x = 0
      · rw [cellsOf, if_pos hx]; exact this
      · rw [cellsOf, if_neg hx]; exact List.mem_cons_of_mem _ this

/-- A write keeps the canonical form. -/
theorem write_wf {m : Memory} (h : m.wf = true) (a : Nat) (bs : List Byte) : (m.write a bs).wf = true := by
  have hm := (wf_iff m).mp h
  have hc := (wfCells_iff _).mp (cellsOf_wf bs a)
  have hlo := (wfCells_iff _).mp (filter_wf h (fun c => decide (c.1 < a)))
  have hhi := (wfCells_iff _).mp (filter_wf h (fun c => decide (a + bs.length ≤ c.1)))
  rw [wf_iff]
  refine ⟨?_, ?_⟩
  · simp only [write, List.pairwise_append, List.mem_append]
    refine ⟨⟨hlo.1, hc.1, ?_⟩, hhi.1, ?_⟩
    · intro x hx y hy
      have h1 := of_decide_eq_true (List.mem_filter.mp hx).2
      have h2 := (mem_cellsOf bs a y hy).1
      omega
    · rintro x (hx | hx) y hy
      · have h1 := of_decide_eq_true (List.mem_filter.mp hx).2
        have h2 := of_decide_eq_true (List.mem_filter.mp hy).2
        omega
      · have h1 := (mem_cellsOf bs a x hx).2.1
        have h2 := of_decide_eq_true (List.mem_filter.mp hy).2
        omega
  · intro c hc'
    simp only [write, List.mem_append] at hc'
    rcases hc' with (h1 | h1) | h1
    · exact hlo.2 c h1
    · exact hc.2 c h1
    · exact hhi.2 c h1

theorem writeAll_wf (ws : List (Nat × Byte)) : ∀ {m : Memory}, m.wf = true → (m.writeAll ws).wf = true := by
  induction ws with
  | nil => intro m h; exact h
  | cons w ws ih => intro m h; exact ih (write_wf h w.1 [w.2])

theorem ofCells_wf (cs : List Host.Cell) : (ofCells cs).wf = true := writeAll_wf cs empty_wf

theorem clearRange_wf {m : Memory} (h : m.wf = true) (a n : Nat) : (m.clearRange a n).wf = true := filter_wf h _

/-- In a canonical memory a listed cell is what its address reads as. -/
theorem read_of_mem {m : Memory} (h : m.wf = true) {a : Nat} {b : Byte} (hm : (a, b) ∈ m.cells) : m.read a = b := by
  have hs := ((wf_iff m).mp h).1
  unfold read
  generalize m.cells = cs at hm hs
  induction cs with
  | nil => simp at hm
  | cons c cs ih =>
    rw [List.pairwise_cons] at hs
    rcases List.mem_cons.mp hm with rfl | hm'
    · simp
    · have hlt := hs.1 _ hm'
      have hne : (c.1 == a) = false := by simp; simp only at hlt; omega
      rw [List.find?_cons, hne]
      exact ih hm' hs.2

/-- An address that no cell has reads as 0. -/
theorem read_of_not_mem {m : Memory} {a : Nat} (h : ∀ c ∈ m.cells, c.1 ≠ a) : m.read a = 0 := by
  unfold read
  rw [List.find?_eq_none.mpr (fun c hc => by simpa using h c hc)]

/-- The byte at an address is the listed one, or 0. -/
theorem read_cases {m : Memory} (h : m.wf = true) (a : Nat) :
    ((a, m.read a) ∈ m.cells ∧ m.read a ≠ 0) ∨ ((∀ c ∈ m.cells, c.1 ≠ a) ∧ m.read a = 0) := by
  by_cases hx : ∃ c ∈ m.cells, c.1 = a
  · obtain ⟨c, hc, rfl⟩ := hx
    have := read_of_mem h (a := c.1) (b := c.2) hc
    exact .inl ⟨by rw [this]; exact hc, by rw [this]; exact ((wf_iff m).mp h).2 c hc⟩
  · simp only [not_exists, not_and] at hx
    exact .inr ⟨hx, read_of_not_mem hx⟩

/-- A read after a write gives the byte written (rule R9). -/
theorem read_write_in {m : Memory} (h : m.wf = true) (a : Nat) (bs : List Byte) (i : Nat) (hi : i < bs.length) :
    (m.write a bs).read (a + i) = bs[i] := by
  by_cases hb : bs[i] = 0
  · rw [hb]
    apply read_of_not_mem
    intro c hc
    simp only [write, List.mem_append, List.mem_filter, decide_eq_true_eq] at hc
    rcases hc with (⟨-, h1⟩ | h1) | ⟨-, h1⟩
    · omega
    · intro he
      obtain ⟨-, -, hz, hg⟩ := mem_cellsOf bs a c h1
      rw [he, show a + i - a = i from by omega, List.getElem?_eq_getElem hi, Option.some.injEq] at hg
      exact hz (hg ▸ hb)
    · omega
  · apply read_of_mem (write_wf h a bs)
    simp only [write, List.mem_append]
    exact .inl (.inr (cellsOf_mem bs a i bs[i] (List.getElem?_eq_getElem hi) hb))

/-- A write leaves every byte outside its range alone. -/
theorem read_write_out {m : Memory} (h : m.wf = true) (a : Nat) (bs : List Byte) (x : Nat)
    (hx : x < a ∨ a + bs.length ≤ x) : (m.write a bs).read x = m.read x := by
  rcases read_cases h x with ⟨hm, -⟩ | ⟨hn, h0⟩
  · apply read_of_mem (write_wf h a bs)
    simp only [write, List.mem_append, List.mem_filter, decide_eq_true_eq]
    rcases hx with hx | hx
    · exact .inl (.inl ⟨hm, hx⟩)
    · exact .inr ⟨hm, hx⟩
  · rw [h0]
    apply read_of_not_mem
    intro c hc
    simp only [write, List.mem_append, List.mem_filter] at hc
    rcases hc with (⟨h1, -⟩ | h1) | ⟨h1, -⟩
    · exact hn c h1
    · have := mem_cellsOf bs a c h1; omega
    · exact hn c h1

/-- What the cells of bytes at rising addresses hold at an address. -/
theorem find_cellsOf (bs : List Byte) : ∀ a x : Nat, (match (cellsOf a bs).find? (fun c => c.1 == x) with
    | some c => c.2 | none => 0) = if a ≤ x then bs.getD (x - a) 0 else 0 := by
  induction bs with
  | nil => intro a x; simp [cellsOf]
  | cons b bs ih =>
    intro a x
    have hi := ih (a + 1) x
    rw [cellsOf]
    by_cases hb : b = 0
    · rw [if_pos hb, hi]
      by_cases h1 : a + 1 ≤ x
      · rw [if_pos h1, if_pos (by omega), show x - a = (x - (a + 1)) + 1 by omega]; rfl
      · rw [if_neg h1]
        by_cases h2 : a = x
        · subst h2; simp [hb]
        · rw [if_neg (by omega)]
    · rw [if_neg hb, List.find?_cons]
      by_cases h2 : a = x
      · subst h2; simp
      · rw [show ((a, b).1 == x) = false from beq_eq_false_iff_ne.mpr h2]
        rw [hi]
        by_cases h1 : a + 1 ≤ x
        · rw [if_pos h1, if_pos (by omega), show x - a = (x - (a + 1)) + 1 by omega]; rfl
        · rw [if_neg h1, if_neg (by omega)]

theorem find_cellsOf_none (bs : List Byte) (a x : Nat) (h : x < a ∨ a + bs.length ≤ x) :
    (cellsOf a bs).find? (fun c => c.1 == x) = none := by
  rw [List.find?_eq_none]
  intro c hc
  have := mem_cellsOf bs a c hc
  simp; omega

/-- Every read after a write, of any memory. -/
theorem read_write (m : Memory) (a : Nat) (bs : List Byte) (x : Nat) :
    (m.write a bs).read x = if a ≤ x ∧ x < a + bs.length then bs.getD (x - a) 0 else m.read x := by
  have hf : ∀ (p : Host.Cell → Bool), (∀ c : Host.Cell, c.1 = x → p c = true) →
      (m.cells.filter p).find? (fun c => c.1 == x) = m.cells.find? (fun c => c.1 == x) := by
    intro p hp
    rw [List.find?_filter]
    congr 1; funext c
    by_cases h : c.1 = x <;> simp [h, hp]
  have hn : ∀ (p : Host.Cell → Bool), (∀ c : Host.Cell, c.1 = x → p c = false) →
      (m.cells.filter p).find? (fun c => c.1 == x) = none := by
    intro p hp
    rw [List.find?_eq_none]
    intro c hc
    have := (List.mem_filter.mp hc).2
    intro h; rw [hp c (by simpa using h)] at this; cases this
  unfold read write
  simp only [List.find?_append]
  by_cases h : a ≤ x ∧ x < a + bs.length
  · rw [if_pos h, hn _ (by intro c hc; simp; omega), hn _ (by intro c hc; simp; omega)]
    have := find_cellsOf bs a x
    rw [if_pos h.1] at this
    rw [← this]
    cases (cellsOf a bs).find? (fun c => c.1 == x) <;> rfl
  · rw [if_neg h]
    by_cases h1 : x < a
    · rw [hf _ (by intro c hc; simp; omega), find_cellsOf_none _ _ _ (.inl h1), hn _ (by intro c hc; simp; omega)]
      cases m.cells.find? (fun c => c.1 == x) <;> rfl
    · rw [hn _ (by intro c hc; simp; omega), find_cellsOf_none _ _ _ (.inr (by omega)), hf _ (by intro c hc; simp; omega)]
      cases m.cells.find? (fun c => c.1 == x) <;> rfl

theorem length_readN (m : Memory) (a n : Nat) : (m.readN a n).length = n := by simp [readN]

/-- Bytes read where they were written. -/
theorem readN_write {m : Memory} (h : m.wf = true) (a : Nat) (bs : List Byte) (n : Nat) (hn : n ≤ bs.length) :
    (m.write a bs).readN a n = bs.take n := by
  refine List.ext_getElem (by simp [readN, hn]) (fun i h1 h2 => ?_)
  simp only [readN, List.getElem_map, List.getElem_range, List.getElem_take]
  exact read_write_in h a bs i (by simp [readN] at h1; omega)

end Memory

end Sys2Proof.Machine
end

