-- ==== Sys2Proof/Laws/Flight.lean ====
section
/-! SUPPORT. What landings and claims do to a core: a claim changes local space, what is in flight and error records alone; and
both keep the canonical form of the core's memories. -/

namespace Sys2Proof.Machine.Core

/-- What a claim leaves: every register, the trap state, IMEM with its check bits and the control state but for what is in flight;
local space keeps its canonical form. -/
def stored (c d : Core) : Prop :=
  d.idx = c.idx ∧ d.reg = c.reg ∧ d.trap = c.trap ∧ (d.mem.imem = c.mem.imem ∧ d.mem.imemBad = c.mem.imemBad) ∧
    d.ctl = { c.ctl with lands := d.ctl.lands, claims := d.ctl.claims, claimed := d.ctl.claimed } ∧ (c.mem.loc.wf = true → d.mem.loc.wf = true)

theorem stored_refl (c : Core) : c.stored c := ⟨rfl, rfl, rfl, ⟨rfl, rfl⟩, rfl, id⟩
theorem stored_trans {a b c : Core} (h : a.stored b) (g : b.stored c) : a.stored c := by
  obtain ⟨h1, h2, h3, h4, h5, h6⟩ := h
  obtain ⟨g1, g2, g3, g4, g5, g6⟩ := g
  refine ⟨g1.trans h1, g2.trans h2, g3.trans h3, ⟨g4.1.trans h4.1, g4.2.trans h4.2⟩, ?_, g6 ∘ h6⟩
  rw [g5, h5]

/-- A fold whose every step is `stored` is `stored`. -/
theorem foldl_stored {α β : Type} (f : Core × β → α → Core × β) (hf : ∀ (st : Core × β) x, st.1.stored (f st x).1) (xs : List α) :
    ∀ st : Core × β, st.1.stored (xs.foldl f st).1 := by
  induction xs with
  | nil => exact fun st => stored_refl _
  | cons x xs ih => exact fun st => stored_trans (hf st x) (ih (f st x))

theorem addFix_stored (c : Core) (u w : Nat) : c.stored (c.addFix u w) := by
  unfold addFix; split
  · exact stored_refl _
  · exact ⟨rfl, rfl, rfl, ⟨rfl, rfl⟩, rfl, id⟩

theorem checkWord_stored (cba : CodeAddr) (st : Core × List Note) (w : Nat) : st.1.stored (checkWord cba st w).1 := by
  unfold checkWord; dsimp only; split
  · exact ⟨rfl, rfl, rfl, ⟨rfl, rfl⟩, rfl, id⟩
  · split
    · exact stored_trans ⟨rfl, rfl, rfl, ⟨rfl, rfl⟩, rfl, id⟩ (addFix_stored _ _ _)
    · exact stored_refl _

theorem sign_stored (c : Core) (sp : Nat) (ws : List (Nat × Byte)) : c.stored (c.sign sp ws) := by
  unfold sign; split
  · exact ⟨rfl, rfl, rfl, ⟨rfl, rfl⟩, rfl, id⟩
  · exact stored_refl _

theorem claimRead_stored (c : Core) (cba : CodeAddr) (a n : Nat) : c.stored (c.claimRead cba a n).2.2.1 :=
  foldl_stored _ (checkWord_stored cba) _ (c, [])
theorem claimRows_stored (c : Core) (cba : CodeAddr) (o : Operand) : c.stored (c.claimRows cba o).2.1 :=
  foldl_stored _ (checkWord_stored cba) _ (c, [])
theorem storeBytes_stored (c : Core) (agent a : Nat) (bs : List Byte) (p : List Nat) : c.stored (c.storeBytes agent a bs p).1 :=
  ⟨rfl, rfl, rfl, ⟨rfl, rfl⟩, rfl, fun h => Memory.write_wf h a bs⟩
theorem storeScattered_stored (c : Core) (agent : Nat) (bs : List (Nat × Byte)) : c.stored (c.storeScattered agent bs).1 :=
  ⟨rfl, rfl, rfl, ⟨rfl, rfl⟩, rfl, fun h => Memory.writeAll_wf bs h⟩
theorem claimWrite_stored (c : Core) (a : Nat) (bs : List Byte) (p : List Nat) : c.stored (c.claimWrite a bs p).1 :=
  stored_trans (sign_stored c _ _) (storeBytes_stored _ _ _ _ _)
theorem landOf_stored (c : Core) (cl : Claim) (lat : Nat) (e : Effect) (n : Option NanInfo) : c.stored (c.landOf cl lat e n) :=
  ⟨rfl, rfl, rfl, ⟨rfl, rfl⟩, rfl, id⟩

/-- A claim that reaches its storage. -/
theorem runClaim_stored (c : Core) (sup : List Nat) (cl : Claim) : c.stored (c.runClaim sup cl).1 := by
  have hr : ∀ (b : Bool) (x : List Byte) (cba : CodeAddr) (a n : Nat),
      c.stored (if b = true then (x, false, c, []) else c.claimRead cba a n).2.2.1 := by
    intro b x cba a n; split
    · exact stored_refl _
    · exact claimRead_stored ..
  have hw : ∀ (b : Bool) (a : Nat) (bs : List Byte) (p : List Nat),
      c.stored (if b = true then (c, []) else c.claimWrite a bs p).1 := by
    intro b a bs p; split
    · exact stored_refl _
    · exact claimWrite_stored ..
  have ho : ∀ (d : Core) (b : Bool) (cba : CodeAddr) (o : Operand),
      d.stored (if b = true then ((0 : Rows), d, []) else d.claimRows cba o).2.1 := by
    intro d b cba o; split
    · exact stored_refl _
    · exact claimRows_stored ..
  unfold runClaim
  cases cl.act with
  | load a n sg d => exact stored_trans (hr _ _ _ _ _) (landOf_stored ..)
  | vload a d => exact stored_trans (hr _ _ _ _ _) (landOf_stored ..)
  | bcast a d => exact stored_trans (hr _ _ _ _ _) (landOf_stored ..)
  | gather ew as d => exact stored_trans (foldl_stored _ (checkWord_stored _) _ (c, [])) (landOf_stored ..)
  | store a bs => exact hw _ _ _ _
  | scatter ls =>
    exact stored_trans (sign_stored c 0 _) (storeScattered_stored ..)
  | step acc fa fb qa qb A B latched =>
    cases B with
    | none => exact stored_trans (ho c _ _ _) (landOf_stored ..)
    | some B => exact stored_trans (stored_trans (ho c _ _ _) (ho _ _ _ _)) (landOf_stored ..)
  | ldb B f => exact stored_trans (ho c _ _ _) (landOf_stored ..)
  | scl a q => exact stored_trans (hr _ _ _ _ _) (landOf_stored ..)
  | drain a bs => exact hw _ _ _ _
  | xsend a => exact stored_trans (hr _ _ _ _ _) ⟨rfl, rfl, rfl, ⟨rfl, rfl⟩, rfl, id⟩
  | xrecv a w p => exact hw _ _ _ _
  | xradd a ty w =>
    cases w with
    | none => exact stored_refl _
    | some w =>
      dsimp only
      split
      · exact stored_refl _
      · exact stored_trans (claimRead_stored ..) (claimWrite_stored ..)

theorem settle_stored (c : Core) (cls : List Claim) : c.stored (c.settle cls).2.1 := by
  unfold settle
  have : ∀ (us : List Nat) (st : List (List Nat) × Core × List Note), st.2.1.stored (us.foldl (fun st unit =>
    let us := usersOf cls unit
    match served us with
    | none => st
    | some w =>
      let lost := us.filter (fun u => u.1 != w.1)
      match firstLost lost with
      | none => st
      | some l =>
        let (sups, c, ns) := st
        let sups' := ((List.range cls.length).zip sups).map (fun p =>
          if lost.any (fun u => u.1 == p.1) then unit :: p.2 else p.2)
        let bc := bcWord 1 unit w.2.1 l.2.1 (c.ctl.cc - l.2.2.issued) ((l.2.2.issued : Int) - w.2.2.issued)
        (sups', { c with sys := { c.sys with bcinfo := bc } }, ns ++ [.loss 0x05 c.idx l.2.2.cba 0])) st).2.1 := by
    intro us
    induction us with
    | nil => exact fun st => stored_refl _
    | cons u us ih =>
      intro st
      rw [List.foldl_cons]
      refine stored_trans ?_ (ih _)
      dsimp only
      split
      · exact stored_refl _
      · split
        · exact stored_refl _
        · exact ⟨rfl, rfl, rfl, ⟨rfl, rfl⟩, rfl, id⟩
  exact this _ (_, c, [])

/-- The claims of a core cycle reach their storage (rule R49). -/
theorem runClaims_stored (c : Core) : c.stored c.runClaims.1 := by
  unfold runClaims
  dsimp only
  have h0 : c.stored { c with ctl := { c.ctl with
      claims := c.ctl.claims.filter (fun x => x.due != c.ctl.cc)
      claimed := c.ctl.claimed ++ ((c.ctl.claims.filter (fun x => x.due == c.ctl.cc)).map Claim.unitCodes).flatten } } :=
    ⟨rfl, rfl, rfl, ⟨rfl, rfl⟩, rfl, id⟩
  exact stored_trans (stored_trans h0 (settle_stored _ _))
    (foldl_stored
      (fun (st : Core × List Note) (p : Claim × List Nat) => let (c2, ns) := st.1.runClaim p.2 p.1; (c2, st.2 ++ ns))
      (fun st p => runClaim_stored st.1 p.2 p.1) _ (_, _))

/-- What a landing leaves: the core's memories, and its control state. -/
def landed (c d : Core) : Prop := d.idx = c.idx ∧ d.mem = c.mem ∧ d.aux = c.aux ∧ d.ctl = { c.ctl with lands := d.ctl.lands }

theorem landed_refl (c : Core) : c.landed c := ⟨rfl, rfl, rfl, rfl⟩
theorem landed_trans {a b c : Core} (h : a.landed b) (g : b.landed c) : a.landed c := by
  obtain ⟨h1, h2, h3, h4⟩ := h
  obtain ⟨g1, g2, g3, g4⟩ := g
  exact ⟨g1.trans h1, g2.trans h2, g3.trans h3, by rw [g4, h4]⟩

theorem sysWrite_landed (c : Core) (n : BitVec 12) (x : Word) : c.landed (c.sysWrite n x) := by
  have hi : ∀ (p : Prop) [Decidable p] (a b : Core), c.landed a → c.landed b → c.landed (if p then a else b) :=
    fun p _ a b ha hb => by split <;> assumption
  unfold sysWrite
  iterate 13 refine hi _ _ _ ⟨rfl, rfl, rfl, rfl⟩ ?_
  exact landed_refl c

theorem applyEffect_landed (c : Core) (e : Effect) : c.landed (c.applyEffect e) := by
  cases e <;> first | exact sysWrite_landed .. | exact ⟨rfl, rfl, rfl, rfl⟩

theorem landOne_landed (loom : Nat) (c : Core) (l : Landing) : c.landed (landOne loom c l) := by
  have h := applyEffect_landed c l.eff
  unfold landOne; dsimp only
  split
  · exact h
  · split
    · exact landed_trans h ⟨rfl, rfl, rfl, rfl⟩
    · exact h

/-- The results of a core cycle land (rule R221). -/
theorem landDue_landed (c : Core) (loom : Nat) : c.landed (c.landDue loom) := by
  have : ∀ (ls : List Landing) (c : Core), c.landed (ls.foldl (landOne loom) c) := by
    intro ls
    induction ls with
    | nil => exact fun c => landed_refl c
    | cons l ls ih => exact fun c => landed_trans (landOne_landed loom c l) (ih _)
  unfold landDue; dsimp only
  exact landed_trans (⟨rfl, rfl, rfl, rfl⟩ : c.landed { c with ctl := { c.ctl with
    lands := c.ctl.lands.filter (fun x => x.due != c.ctl.cc) } }) (this _ _)

end Sys2Proof.Machine.Core
end

