-- ==== Sys2Proof/Laws/Gate.lean ====
section
/-! SUPPORT. Every slot instruction goes through the one gate `issue`, with the guard that its word holds. -/

namespace Sys2Proof.Machine

theorem gated {i : Instr} {g : BitVec 4} {eff : State → State} (he : ∀ s, exec i s = issue i g eff s)
    (hg : i.word.extractLsb' 28 4 = g) : ∃ eff : State → State, ∀ s, exec i s = issue i (i.word.extractLsb' 28 4) eff s :=
  ⟨eff, fun s => by rw [he, hg]⟩

/-- A slot instruction is one effect behind the gate (rules R212, R239). -/
theorem exec_slot (i : Instr) (h : i.isSlot = true) :
    ∃ eff : State → State, ∀ s, exec i s = issue i (i.word.extractLsb' 28 4) eff s := by
  cases i with
  | add sb o => exact gated (fun s => Eq.refl (execAdd sb o s)) (R3Ops.word_guard _ _ _)
  | sub sb o => exact gated (fun s => Eq.refl (execSub sb o s)) (R3Ops.word_guard _ _ _)
  | and sb o => exact gated (fun s => Eq.refl (execAnd sb o s)) (R3Ops.word_guard _ _ _)
  | or sb o => exact gated (fun s => Eq.refl (execOr sb o s)) (R3Ops.word_guard _ _ _)
  | xor sb o => exact gated (fun s => Eq.refl (execXor sb o s)) (R3Ops.word_guard _ _ _)
  | andn sb o => exact gated (fun s => Eq.refl (execAndn sb o s)) (R3Ops.word_guard _ _ _)
  | shl sb o => exact gated (fun s => Eq.refl (execShl sb o s)) (R3Ops.word_guard _ _ _)
  | shr sb o => exact gated (fun s => Eq.refl (execShr sb o s)) (R3Ops.word_guard _ _ _)
  | sra sb o => exact gated (fun s => Eq.refl (execSra sb o s)) (R3Ops.word_guard _ _ _)
  | min sb o => exact gated (fun s => Eq.refl (execMin sb o s)) (R3Ops.word_guard _ _ _)
  | max sb o => exact gated (fun s => Eq.refl (execMax sb o s)) (R3Ops.word_guard _ _ _)
  | minn sb o => exact gated (fun s => Eq.refl (execMinn sb o s)) (R3Ops.word_guard _ _ _)
  | maxn sb o => exact gated (fun s => Eq.refl (execMaxn sb o s)) (R3Ops.word_guard _ _ _)
  | mul o => exact gated (fun s => Eq.refl (execMul o s)) (R3Ops.word_guard _ _ _)
  | mulh o => exact gated (fun s => Eq.refl (execMulh o s)) (R3Ops.word_guard _ _ _)
  | mulhn o => exact gated (fun s => Eq.refl (execMulhn o s)) (R3Ops.word_guard _ _ _)
  | addsh o => exact gated (fun s => Eq.refl (execAddsh o s)) (R3xOps.word_guard _ 0 _)
  | addi sb o => exact gated (fun s => Eq.refl (execAddi sb o s)) (RisOps.word_guard _ 0 _)
  | andi sb o => exact gated (fun s => Eq.refl (execAndi sb o s)) (RisOps.word_guard _ 0 _)
  | ori sb o => exact gated (fun s => Eq.refl (execOri sb o s)) (RisOps.word_guard _ 0 _)
  | shli sb o => exact gated (fun s => Eq.refl (execShli sb o s)) (RisOps.word_guard _ 0 _)
  | shri sb o => exact gated (fun s => Eq.refl (execShri sb o s)) (RisOps.word_guard _ 0 _)
  | srai sb o => exact gated (fun s => Eq.refl (execSrai sb o s)) (RisOps.word_guard _ 0 _)
  | movi sb o => exact gated (fun s => Eq.refl (execMovi sb o s)) (RiOps.word_guard _ 0 _)
  | movis sb o => exact gated (fun s => Eq.refl (execMovis sb o s)) (RiOps.word_guard _ 0 _)
  | cmp sb o => exact gated (fun s => Eq.refl (execCmp sb o s)) (PcOps.word_guard _ _ _)
  | cmpi sb o => exact gated (fun s => Eq.refl (execCmpi sb o s)) (PciOps.word_guard _ 0 _)
  | br o => exact gated (fun s => Eq.refl (execBr o s)) (BOps.word_guard _ 0 _)
  | brL o => exact gated (fun s => Eq.refl (execBrL o s)) (BlOps.word_guard _ 0 _)
  | brInd o => exact gated (fun s => Eq.refl (execBrInd o s)) (R1aOps.word_guard _ _ _)
  | halt o => exact gated (fun s => Eq.refl (execHalt o s)) (ZOps.word_guard _ _ _)
  | trap o => exact gated (fun s => Eq.refl (execTrap o s)) (TOps.word_guard _ _ _)
  | tret o => exact gated (fun s => Eq.refl (execTret o s)) (ZOps.word_guard _ _ _)
  | sysRd o => exact gated (fun s => Eq.refl (execSysRd o s)) (SyrOps.word_guard _ _ _)
  | sysWr o => exact gated (fun s => Eq.refl (execSysWr o s)) (SywOps.word_guard _ _ _)
  | fmtWr o => exact gated (fun s => Eq.refl (execFmtWr o s)) (FwOps.word_guard _ _ _)
  | sysBist o => exact gated (fun s => Eq.refl (execSysBist o s)) (R2Ops.word_guard _ _ _)
  | margV o => exact gated (fun s => Eq.refl (execMargV o s)) (R2Ops.word_guard _ _ _)
  | margL o => exact gated (fun s => Eq.refl (execMargL o s)) (R2Ops.word_guard _ _ _)
  | ldI8 o => exact gated (fun s => Eq.refl (execLdI8 o s)) (RisOps.word_guard _ 0 _)
  | ldN8 o => exact gated (fun s => Eq.refl (execLdN8 o s)) (RisOps.word_guard _ 0 _)
  | ldI16 o => exact gated (fun s => Eq.refl (execLdI16 o s)) (RisOps.word_guard _ 0 _)
  | ldN16 o => exact gated (fun s => Eq.refl (execLdN16 o s)) (RisOps.word_guard _ 0 _)
  | ldI32 o => exact gated (fun s => Eq.refl (execLdI32 o s)) (RisOps.word_guard _ 0 _)
  | ldN32 o => exact gated (fun s => Eq.refl (execLdN32 o s)) (RisOps.word_guard _ 0 _)
  | ldI64 o => exact gated (fun s => Eq.refl (execLdI64 o s)) (RisOps.word_guard _ 0 _)
  | stB o => exact gated (fun s => Eq.refl (execStB o s)) (RisOps.word_guard _ 0 _)
  | stH o => exact gated (fun s => Eq.refl (execStH o s)) (RisOps.word_guard _ 0 _)
  | stW o => exact gated (fun s => Eq.refl (execStW o s)) (RisOps.word_guard _ 0 _)
  | stD o => exact gated (fun s => Eq.refl (execStD o s)) (RisOps.word_guard _ 0 _)
  | vld o => exact gated (fun s => Eq.refl (execVld o s)) (RisOps.word_guard _ 0 _)
  | vst o => exact gated (fun s => Eq.refl (execVst o s)) (RisOps.word_guard _ 0 _)
  | vldx o => exact gated (fun s => Eq.refl (execVldx o s)) (R3Ops.word_guard _ _ _)
  | vstx o => exact gated (fun s => Eq.refl (execVstx o s)) (R3Ops.word_guard _ _ _)
  | vbcastW o => exact gated (fun s => Eq.refl (execVbcastW o s)) (RisOps.word_guard _ 0 _)
  | vgatherW o => exact gated (fun s => Eq.refl (execVgatherW o s)) (R3Ops.word_guard _ _ _)
  | vgatherH o => exact gated (fun s => Eq.refl (execVgatherH o s)) (R3Ops.word_guard _ _ _)
  | vscatterW o => exact gated (fun s => Eq.refl (execVscatterW o s)) (R3Ops.word_guard _ _ _)
  | vscatterH o => exact gated (fun s => Eq.refl (execVscatterH o s)) (R3Ops.word_guard _ _ _)
  | vaddF32 o => exact gated (fun s => Eq.refl (execVaddF32 o s)) (R3xOps.word_guard _ 0 _)
  | vaddF16 o => exact gated (fun s => Eq.refl (execVaddF16 o s)) (R3xOps.word_guard _ 0 _)
  | vaddBf16 o => exact gated (fun s => Eq.refl (execVaddBf16 o s)) (R3xOps.word_guard _ 0 _)
  | vsubF32 o => exact gated (fun s => Eq.refl (execVsubF32 o s)) (R3xOps.word_guard _ 0 _)
  | vsubF16 o => exact gated (fun s => Eq.refl (execVsubF16 o s)) (R3xOps.word_guard _ 0 _)
  | vsubBf16 o => exact gated (fun s => Eq.refl (execVsubBf16 o s)) (R3xOps.word_guard _ 0 _)
  | vminF32 o => exact gated (fun s => Eq.refl (execVminF32 o s)) (R3Ops.word_guard _ _ _)
  | vminF16 o => exact gated (fun s => Eq.refl (execVminF16 o s)) (R3Ops.word_guard _ _ _)
  | vminBf16 o => exact gated (fun s => Eq.refl (execVminBf16 o s)) (R3Ops.word_guard _ _ _)
  | vmaxF32 o => exact gated (fun s => Eq.refl (execVmaxF32 o s)) (R3Ops.word_guard _ _ _)
  | vmaxF16 o => exact gated (fun s => Eq.refl (execVmaxF16 o s)) (R3Ops.word_guard _ _ _)
  | vmaxBf16 o => exact gated (fun s => Eq.refl (execVmaxBf16 o s)) (R3Ops.word_guard _ _ _)
  | vminnF32 o => exact gated (fun s => Eq.refl (execVminnF32 o s)) (R3Ops.word_guard _ _ _)
  | vminnF16 o => exact gated (fun s => Eq.refl (execVminnF16 o s)) (R3Ops.word_guard _ _ _)
  | vminnBf16 o => exact gated (fun s => Eq.refl (execVminnBf16 o s)) (R3Ops.word_guard _ _ _)
  | vmaxnF32 o => exact gated (fun s => Eq.refl (execVmaxnF32 o s)) (R3Ops.word_guard _ _ _)
  | vmaxnF16 o => exact gated (fun s => Eq.refl (execVmaxnF16 o s)) (R3Ops.word_guard _ _ _)
  | vmaxnBf16 o => exact gated (fun s => Eq.refl (execVmaxnBf16 o s)) (R3Ops.word_guard _ _ _)
  | vcmpF32 o => exact gated (fun s => Eq.refl (execVcmpF32 o s)) (R3xOps.word_guard _ 0 _)
  | vcmpF16 o => exact gated (fun s => Eq.refl (execVcmpF16 o s)) (R3xOps.word_guard _ 0 _)
  | vcmpBf16 o => exact gated (fun s => Eq.refl (execVcmpBf16 o s)) (R3xOps.word_guard _ 0 _)
  | viaddI8 o => exact gated (fun s => Eq.refl (execViaddI8 o s)) (R3Ops.word_guard _ _ _)
  | viaddI16 o => exact gated (fun s => Eq.refl (execViaddI16 o s)) (R3Ops.word_guard _ _ _)
  | viaddI32 o => exact gated (fun s => Eq.refl (execViaddI32 o s)) (R3Ops.word_guard _ _ _)
  | viaddI64 o => exact gated (fun s => Eq.refl (execViaddI64 o s)) (R3Ops.word_guard _ _ _)
  | visubI8 o => exact gated (fun s => Eq.refl (execVisubI8 o s)) (R3Ops.word_guard _ _ _)
  | visubI16 o => exact gated (fun s => Eq.refl (execVisubI16 o s)) (R3Ops.word_guard _ _ _)
  | visubI32 o => exact gated (fun s => Eq.refl (execVisubI32 o s)) (R3Ops.word_guard _ _ _)
  | visubI64 o => exact gated (fun s => Eq.refl (execVisubI64 o s)) (R3Ops.word_guard _ _ _)
  | viaddsI8 o => exact gated (fun s => Eq.refl (execViaddsI8 o s)) (R3Ops.word_guard _ _ _)
  | viaddsI16 o => exact gated (fun s => Eq.refl (execViaddsI16 o s)) (R3Ops.word_guard _ _ _)
  | viaddsI32 o => exact gated (fun s => Eq.refl (execViaddsI32 o s)) (R3Ops.word_guard _ _ _)
  | viaddsI64 o => exact gated (fun s => Eq.refl (execViaddsI64 o s)) (R3Ops.word_guard _ _ _)
  | viaddsN8 o => exact gated (fun s => Eq.refl (execViaddsN8 o s)) (R3Ops.word_guard _ _ _)
  | viaddsN16 o => exact gated (fun s => Eq.refl (execViaddsN16 o s)) (R3Ops.word_guard _ _ _)
  | viaddsN32 o => exact gated (fun s => Eq.refl (execViaddsN32 o s)) (R3Ops.word_guard _ _ _)
  | viaddsN64 o => exact gated (fun s => Eq.refl (execViaddsN64 o s)) (R3Ops.word_guard _ _ _)
  | visubsI8 o => exact gated (fun s => Eq.refl (execVisubsI8 o s)) (R3Ops.word_guard _ _ _)
  | visubsI16 o => exact gated (fun s => Eq.refl (execVisubsI16 o s)) (R3Ops.word_guard _ _ _)
  | visubsI32 o => exact gated (fun s => Eq.refl (execVisubsI32 o s)) (R3Ops.word_guard _ _ _)
  | visubsI64 o => exact gated (fun s => Eq.refl (execVisubsI64 o s)) (R3Ops.word_guard _ _ _)
  | visubsN8 o => exact gated (fun s => Eq.refl (execVisubsN8 o s)) (R3Ops.word_guard _ _ _)
  | visubsN16 o => exact gated (fun s => Eq.refl (execVisubsN16 o s)) (R3Ops.word_guard _ _ _)
  | visubsN32 o => exact gated (fun s => Eq.refl (execVisubsN32 o s)) (R3Ops.word_guard _ _ _)
  | visubsN64 o => exact gated (fun s => Eq.refl (execVisubsN64 o s)) (R3Ops.word_guard _ _ _)
  | viminI8 o => exact gated (fun s => Eq.refl (execViminI8 o s)) (R3Ops.word_guard _ _ _)
  | viminI16 o => exact gated (fun s => Eq.refl (execViminI16 o s)) (R3Ops.word_guard _ _ _)
  | viminI32 o => exact gated (fun s => Eq.refl (execViminI32 o s)) (R3Ops.word_guard _ _ _)
  | viminI64 o => exact gated (fun s => Eq.refl (execViminI64 o s)) (R3Ops.word_guard _ _ _)
  | viminN8 o => exact gated (fun s => Eq.refl (execViminN8 o s)) (R3Ops.word_guard _ _ _)
  | viminN16 o => exact gated (fun s => Eq.refl (execViminN16 o s)) (R3Ops.word_guard _ _ _)
  | viminN32 o => exact gated (fun s => Eq.refl (execViminN32 o s)) (R3Ops.word_guard _ _ _)
  | viminN64 o => exact gated (fun s => Eq.refl (execViminN64 o s)) (R3Ops.word_guard _ _ _)
  | vimaxI8 o => exact gated (fun s => Eq.refl (execVimaxI8 o s)) (R3Ops.word_guard _ _ _)
  | vimaxI16 o => exact gated (fun s => Eq.refl (execVimaxI16 o s)) (R3Ops.word_guard _ _ _)
  | vimaxI32 o => exact gated (fun s => Eq.refl (execVimaxI32 o s)) (R3Ops.word_guard _ _ _)
  | vimaxI64 o => exact gated (fun s => Eq.refl (execVimaxI64 o s)) (R3Ops.word_guard _ _ _)
  | vimaxN8 o => exact gated (fun s => Eq.refl (execVimaxN8 o s)) (R3Ops.word_guard _ _ _)
  | vimaxN16 o => exact gated (fun s => Eq.refl (execVimaxN16 o s)) (R3Ops.word_guard _ _ _)
  | vimaxN32 o => exact gated (fun s => Eq.refl (execVimaxN32 o s)) (R3Ops.word_guard _ _ _)
  | vimaxN64 o => exact gated (fun s => Eq.refl (execVimaxN64 o s)) (R3Ops.word_guard _ _ _)
  | vicmpI8 o => exact gated (fun s => Eq.refl (execVicmpI8 o s)) (R3xOps.word_guard _ 0 _)
  | vicmpI16 o => exact gated (fun s => Eq.refl (execVicmpI16 o s)) (R3xOps.word_guard _ 0 _)
  | vicmpI32 o => exact gated (fun s => Eq.refl (execVicmpI32 o s)) (R3xOps.word_guard _ 0 _)
  | vicmpI64 o => exact gated (fun s => Eq.refl (execVicmpI64 o s)) (R3xOps.word_guard _ 0 _)
  | vicmpN8 o => exact gated (fun s => Eq.refl (execVicmpN8 o s)) (R3xOps.word_guard _ 0 _)
  | vicmpN16 o => exact gated (fun s => Eq.refl (execVicmpN16 o s)) (R3xOps.word_guard _ 0 _)
  | vicmpN32 o => exact gated (fun s => Eq.refl (execVicmpN32 o s)) (R3xOps.word_guard _ 0 _)
  | vicmpN64 o => exact gated (fun s => Eq.refl (execVicmpN64 o s)) (R3xOps.word_guard _ 0 _)
  | vand o => exact gated (fun s => Eq.refl (execVand o s)) (R3Ops.word_guard _ _ _)
  | vor o => exact gated (fun s => Eq.refl (execVor o s)) (R3Ops.word_guard _ _ _)
  | vxor o => exact gated (fun s => Eq.refl (execVxor o s)) (R3Ops.word_guard _ _ _)
  | vshl8 o => exact gated (fun s => Eq.refl (execVshl8 o s)) (R3Ops.word_guard _ _ _)
  | vshl16 o => exact gated (fun s => Eq.refl (execVshl16 o s)) (R3Ops.word_guard _ _ _)
  | vshl32 o => exact gated (fun s => Eq.refl (execVshl32 o s)) (R3Ops.word_guard _ _ _)
  | vshl64 o => exact gated (fun s => Eq.refl (execVshl64 o s)) (R3Ops.word_guard _ _ _)
  | vshr8 o => exact gated (fun s => Eq.refl (execVshr8 o s)) (R3Ops.word_guard _ _ _)
  | vshr16 o => exact gated (fun s => Eq.refl (execVshr16 o s)) (R3Ops.word_guard _ _ _)
  | vshr32 o => exact gated (fun s => Eq.refl (execVshr32 o s)) (R3Ops.word_guard _ _ _)
  | vshr64 o => exact gated (fun s => Eq.refl (execVshr64 o s)) (R3Ops.word_guard _ _ _)
  | vsra8 o => exact gated (fun s => Eq.refl (execVsra8 o s)) (R3Ops.word_guard _ _ _)
  | vsra16 o => exact gated (fun s => Eq.refl (execVsra16 o s)) (R3Ops.word_guard _ _ _)
  | vsra32 o => exact gated (fun s => Eq.refl (execVsra32 o s)) (R3Ops.word_guard _ _ _)
  | vsra64 o => exact gated (fun s => Eq.refl (execVsra64 o s)) (R3Ops.word_guard _ _ _)
  | vsel o => exact gated (fun s => Eq.refl (execVsel o s)) (R3Ops.word_guard _ _ _)
  | vshufB o => exact gated (fun s => Eq.refl (execVshufB o s)) (R3Ops.word_guard _ _ _)
  | vshufH o => exact gated (fun s => Eq.refl (execVshufH o s)) (R3Ops.word_guard _ _ _)
  | vshufW o => exact gated (fun s => Eq.refl (execVshufW o s)) (R3Ops.word_guard _ _ _)
  | vsplatH o => exact gated (fun s => Eq.refl (execVsplatH o s)) (DaOps.word_guard _ _ _)
  | vsplatW o => exact gated (fun s => Eq.refl (execVsplatW o s)) (DaOps.word_guard _ _ _)
  | vsplatD o => exact gated (fun s => Eq.refl (execVsplatD o s)) (DaOps.word_guard _ _ _)
  | vextD o => exact gated (fun s => Eq.refl (execVextD o s)) (RisOps.word_guard _ 0 _)
  | vredF32 o => exact gated (fun s => Eq.refl (execVredF32 o s)) (R3xOps.word_guard _ 0 _)
  | vredF16 o => exact gated (fun s => Eq.refl (execVredF16 o s)) (R3xOps.word_guard _ 0 _)
  | vredBf16 o => exact gated (fun s => Eq.refl (execVredBf16 o s)) (R3xOps.word_guard _ 0 _)
  | viredI8 o => exact gated (fun s => Eq.refl (execViredI8 o s)) (R3Ops.word_guard _ _ _)
  | viredI16 o => exact gated (fun s => Eq.refl (execViredI16 o s)) (R3Ops.word_guard _ _ _)
  | viredI32 o => exact gated (fun s => Eq.refl (execViredI32 o s)) (R3Ops.word_guard _ _ _)
  | viredI64 o => exact gated (fun s => Eq.refl (execViredI64 o s)) (R3Ops.word_guard _ _ _)
  | vclmul o => exact gated (fun s => Eq.refl (execVclmul o s)) (R3Ops.word_guard _ _ _)
  | vmulF32 o => exact gated (fun s => Eq.refl (execVmulF32 o s)) (R3xOps.word_guard _ 0 _)
  | vmulF16 o => exact gated (fun s => Eq.refl (execVmulF16 o s)) (R3xOps.word_guard _ 0 _)
  | vmulBf16 o => exact gated (fun s => Eq.refl (execVmulBf16 o s)) (R3xOps.word_guard _ 0 _)
  | vfmaF32 o => exact gated (fun s => Eq.refl (execVfmaF32 o s)) (R3xOps.word_guard _ 0 _)
  | vfmaF16 o => exact gated (fun s => Eq.refl (execVfmaF16 o s)) (R3xOps.word_guard _ 0 _)
  | vfmaBf16 o => exact gated (fun s => Eq.refl (execVfmaBf16 o s)) (R3xOps.word_guard _ 0 _)
  | vfmsF32 o => exact gated (fun s => Eq.refl (execVfmsF32 o s)) (R3xOps.word_guard _ 0 _)
  | vfmsF16 o => exact gated (fun s => Eq.refl (execVfmsF16 o s)) (R3xOps.word_guard _ 0 _)
  | vfmsBf16 o => exact gated (fun s => Eq.refl (execVfmsBf16 o s)) (R3xOps.word_guard _ 0 _)
  | vcvtF16F32 o => exact gated (fun s => Eq.refl (execVcvtF16F32 o s)) (CvOps.word_guard _ _ _)
  | vcvtBf16F32 o => exact gated (fun s => Eq.refl (execVcvtBf16F32 o s)) (CvOps.word_guard _ _ _)
  | vcvtF32F16 o => exact gated (fun s => Eq.refl (execVcvtF32F16 o s)) (CvOps.word_guard _ _ _)
  | vcvtF32Bf16 o => exact gated (fun s => Eq.refl (execVcvtF32Bf16 o s)) (CvOps.word_guard _ _ _)
  | vcvtNfF32 o => exact gated (fun s => Eq.refl (execVcvtNfF32 o s)) (CvfOps.word_guard _ _ _)
  | vcvtF32Nf o => exact gated (fun s => Eq.refl (execVcvtF32Nf o s)) (CvfOps.word_guard _ _ _)
  | vcvtI32F32 o => exact gated (fun s => Eq.refl (execVcvtI32F32 o s)) (CvOps.word_guard _ _ _)
  | vcvtF32I32 o => exact gated (fun s => Eq.refl (execVcvtF32I32 o s)) (CvOps.word_guard _ _ _)
  | vcvtN32F32 o => exact gated (fun s => Eq.refl (execVcvtN32F32 o s)) (CvOps.word_guard _ _ _)
  | vcvtF32N32 o => exact gated (fun s => Eq.refl (execVcvtF32N32 o s)) (CvOps.word_guard _ _ _)
  | vcvtsF16F32 o => exact gated (fun s => Eq.refl (execVcvtsF16F32 o s)) (R3Ops.word_guard _ _ _)
  | vcvtsBf16F32 o => exact gated (fun s => Eq.refl (execVcvtsBf16F32 o s)) (R3Ops.word_guard _ _ _)
  | vcvtsNfF32 o => exact gated (fun s => Eq.refl (execVcvtsNfF32 o s)) (CsOps.word_guard _ 0 _)
  | vrcpF32 o => exact gated (fun s => Eq.refl (execVrcpF32 o s)) (DaOps.word_guard _ _ _)
  | vrcpF16 o => exact gated (fun s => Eq.refl (execVrcpF16 o s)) (DaOps.word_guard _ _ _)
  | vrcpBf16 o => exact gated (fun s => Eq.refl (execVrcpBf16 o s)) (DaOps.word_guard _ _ _)
  | vrsqF32 o => exact gated (fun s => Eq.refl (execVrsqF32 o s)) (DaOps.word_guard _ _ _)
  | vrsqF16 o => exact gated (fun s => Eq.refl (execVrsqF16 o s)) (DaOps.word_guard _ _ _)
  | vrsqBf16 o => exact gated (fun s => Eq.refl (execVrsqBf16 o s)) (DaOps.word_guard _ _ _)
  | vexp2F32 o => exact gated (fun s => Eq.refl (execVexp2F32 o s)) (DaOps.word_guard _ _ _)
  | vexp2F16 o => exact gated (fun s => Eq.refl (execVexp2F16 o s)) (DaOps.word_guard _ _ _)
  | vexp2Bf16 o => exact gated (fun s => Eq.refl (execVexp2Bf16 o s)) (DaOps.word_guard _ _ _)
  | vlog2F32 o => exact gated (fun s => Eq.refl (execVlog2F32 o s)) (DaOps.word_guard _ _ _)
  | vlog2F16 o => exact gated (fun s => Eq.refl (execVlog2F16 o s)) (DaOps.word_guard _ _ _)
  | vlog2Bf16 o => exact gated (fun s => Eq.refl (execVlog2Bf16 o s)) (DaOps.word_guard _ _ _)
  | vrand o => exact gated (fun s => Eq.refl (execVrand o s)) (R3Ops.word_guard _ _ _)
  | mmStart o => exact gated (fun s => Eq.refl (execMmStart o s)) (MsOps.word_guard _ _ _)
  | mmStartLt o => exact gated (fun s => Eq.refl (execMmStartLt o s)) (MslOps.word_guard _ _ _)
  | mmLdb o => exact gated (fun s => Eq.refl (execMmLdb o s)) (MbOps.word_guard _ _ _)
  | mmScl o => exact gated (fun s => Eq.refl (execMmScl o s)) (MqOps.word_guard _ _ _)
  | mmDrain o => exact gated (fun s => Eq.refl (execMmDrain o s)) (MdOps.word_guard _ _ _)
  | mmZero o => exact gated (fun s => Eq.refl (execMmZero o s)) (MaskOps.word_guard _ _ _)
  | mmCfg o => exact gated (fun s => Eq.refl (execMmCfg o s)) (R1aOps.word_guard _ _ _)
  | xsend o => exact gated (fun s => Eq.refl (execXsend o s)) (XaOps.word_guard _ 0 _)
  | xrecv o => exact gated (fun s => Eq.refl (execXrecv o s)) (XaOps.word_guard _ 0 _)
  | xraddF32 o => exact gated (fun s => Eq.refl (execXraddF32 o s)) (XaOps.word_guard _ 0 _)
  | xraddF16 o => exact gated (fun s => Eq.refl (execXraddF16 o s)) (XaOps.word_guard _ 0 _)
  | xraddBf16 o => exact gated (fun s => Eq.refl (execXraddBf16 o s)) (XaOps.word_guard _ 0 _)
  | xraddI32 o => exact gated (fun s => Eq.refl (execXraddI32 o s)) (XaOps.word_guard _ 0 _)
  | phaseEnd o => exact gated (fun s => Eq.refl (execPhaseEnd o s)) (R1aOps.word_guard _ _ _)
  | gclkRd o => exact gated (fun s => Eq.refl (execGclkRd o s)) (R1dOps.word_guard _ _ _)
  | gclkWait o => exact gated (fun s => Eq.refl (execGclkWait o s)) (R1aOps.word_guard _ _ _)
  | gclkAln o => exact gated (fun s => Eq.refl (execGclkAln o s)) (ZOps.word_guard _ _ _)
  | cardAdv o => exact gated (fun s => Eq.refl (execCardAdv o s)) (ZOps.word_guard _ _ _)
  | cardIssue o => exact gated (fun s => Eq.refl (execCardIssue o s)) (R2Ops.word_guard _ _ _)
  | recfl o => exact gated (fun s => Eq.refl (execRecfl o s)) (R1aOps.word_guard _ _ _)
  | recflPart o => exact gated (fun s => Eq.refl (execRecflPart o s)) (R1aOps.word_guard _ _ _)
  | tokClr o => exact gated (fun s => Eq.refl (execTokClr o s)) (MaskOps.word_guard _ _ _)
  | semWait o => exact gated (fun s => Eq.refl (execSemWait o s)) (SwOps.word_guard _ 0 _)
  | lnkSend o => exact gated (fun s => Eq.refl (execLnkSend o s)) (LkOps.word_guard _ _ _)
  | lnkRecv o => exact gated (fun s => Eq.refl (execLnkRecv o s)) (LkOps.word_guard _ _ _)
  | lnkRaddF32 o => exact gated (fun s => Eq.refl (execLnkRaddF32 o s)) (LkOps.word_guard _ _ _)
  | lnkRaddBf16 o => exact gated (fun s => Eq.refl (execLnkRaddBf16 o s)) (LkOps.word_guard _ _ _)
  | lnkRaddF16 o => exact gated (fun s => Eq.refl (execLnkRaddF16 o s)) (LkOps.word_guard _ _ _)
  | lnkRaddI32 o => exact gated (fun s => Eq.refl (execLnkRaddI32 o s)) (LkOps.word_guard _ _ _)
  | trig o => exact gated (fun s => Eq.refl (execTrig o s)) (ZOps.word_guard _ _ _)
  | fenceErr o => exact gated (fun s => Eq.refl (execFenceErr o s)) (ZOps.word_guard _ _ _)
  | loopSet o => exact gated (fun s => Eq.refl (execLoopSet o s)) (LsOps.word_guard _ _ _)
  | loopSetRot o => exact gated (fun s => Eq.refl (execLoopSetRot o s)) (LsOps.word_guard _ _ _)
  | loopPair o => exact gated (fun s => Eq.refl (execLoopPair o s)) (LqOps.word_guard _ _ _)
  | loopEc o => exact gated (fun s => Eq.refl (execLoopEc o s)) (MaskOps.word_guard _ _ _)
  | rotClr o => exact gated (fun s => Eq.refl (execRotClr o s)) (ZOps.word_guard _ _ _)
  | predRegion o => exact gated (fun s => Eq.refl (execPredRegion o s)) (PrOps.word_guard _ _ _)
  | predAnd o => exact gated (fun s => Eq.refl (execPredAnd o s)) (P3Ops.word_guard _ _ _)
  | predOr o => exact gated (fun s => Eq.refl (execPredOr o s)) (P3Ops.word_guard _ _ _)
  | predXor o => exact gated (fun s => Eq.refl (execPredXor o s)) (P3Ops.word_guard _ _ _)
  | predAndn o => exact gated (fun s => Eq.refl (execPredAndn o s)) (P3Ops.word_guard _ _ _)
  | predSet o => exact gated (fun s => Eq.refl (execPredSet o s)) (PsOps.word_guard _ _ _)
  | bundleIssue => cases h
  | pureDelay => cases h
  | fetchLine => cases h
  | imemLineReload => cases h
  | resultLanding => cases h
  | unitClaim => cases h
  | trapResume => cases h
  | scrubRead => cases h
  | scrubWriteback => cases h
  | releaseHoldEnd => cases h
  | deckPrefetch => cases h
  | cardGranule => cases h
  | cardEnd => cases h
  | tokenWaitEnd => cases h
  | semWaitEnd => cases h
  | gclkWaitEnd => cases h
  | recflHoldEnd => cases h
  | fenceErrHoldEnd => cases h
  | bistEnd => cases h
  | margVSettled => cases h
  | margLSweepEnd => cases h
  | linkPair => cases h
  | linkEnd => cases h
  | routerSwitch => cases h
  | exchangePhaseEnd => cases h
  | barrierComplete => cases h
  | loomRepair => cases h
  | loomSampleRound => cases h
  | stragglerEvent => cases h
  | launchStart => cases h
  | regionStart => cases h
  | contextLoss => cases h
  | tinvRange => cases h
  | tinvContext => cases h
  | tinvAll => cases h
  | tinvComplete => cases h
  | tagFreed => cases h
  | hbmChannelRetire => cases h
  | hbmRetireComplete => cases h
  | cxlLinkTrain => cases h
  | cxlPortDown => cases h
  | checkpointSave => cases h
  | checkpointRestore => cases h
  | checkpointSaveEnd => cases h
  | checkpointRestoreEnd => cases h
  | ullerLinkDown => cases h
  | weftPortDown => cases h
  | weftLinkTrain => cases h
  | wrouteWrite => cases h
  | shuttlePeriodStart => cases h
  | shmapWrite => cases h
  | shuttleFlitHop => cases h
  | heddleTableWrite => cases h
  | migrationEpoch => cases h
  | homeMove => cases h
  | homeMoveEnd => cases h
  | migrateHomeAll => cases h
  | triggerDelivered => cases h
  | waitClosedStart => cases h
  | launchEnd => cases h
  | imageLoad => cases h
  | imageLoadEnd => cases h
  | imageUnload => cases h
  | imageForcedUnload => cases h
  | pdefWrite => cases h
  | queueCreate => cases h
  | queueDisable => cases h
  | queueThaw => cases h
  | qtailWrite => cases h
  | queueHeadRead => cases h
  | completionRecordWrite => cases h
  | sequencerSelect => cases h
  | bind => cases h
  | quantumExpiry => cases h
  | preemptRequest => cases h
  | killRequest => cases h
  | preemptWithdraw => cases h
  | contextSave => cases h
  | contextSaveEnd => cases h
  | restoreEnd => cases h
  | ctxareaWrite => cases h
  | tstopResume => cases h
  | powerGood => cases h
  | b2LinkTest => cases h
  | b3Election => cases h
  | electionRound => cases h
  | b4Enumeration => cases h
  | b5Start => cases h
  | lprobe => cases h
  | lecho => cases h
  | elect => cases h
  | enum => cases h
  | accept => cases h
  | refuse => cases h
  | report => cases h
  | lstart => cases h
  | done => cases h
  | enumTimeout => cases h
  | enumerationDeadline => cases h
  | ullerClaimGrant => cases h
  | placementRun => cases h
  | placementEnd => cases h
  | instkeyWrite => cases h
  | activityStep => cases h
  | issueGatePair => cases h
  | droopAlarm => cases h
  | droopBelowFloor => cases h
  | thermalHot => cases h
  | thermalCrit => cases h
  | overtempPowerOff => cases h
  | powerLimitGate => cases h
  | rpctlWrite => cases h
  | rthermWrite => cases h
  | mstagWrite => cases h
  | debugStopRequest => cases h
  | debugStopWithdraw => cases h
  | debugStopFreeze => cases h
  | traceSample => cases h
  | traceRecordWrite => cases h
  | trringWrite => cases h
  | rcRead => cases h
  | registerWrite => cases h
  | powerLoss => cases h
  | ullerLinkTrain => cases h
  | homeAccess => cases h
  | managementWindowWrite => cases h

end Sys2Proof.Machine
end

