-- ==== Sys2Proof/Laws/Issue.lean ====
section
/-! SUPPORT. The end of a bundle's issue and the taking of a trap, each said once: what they change, and what they leave. -/

namespace Sys2Proof.Machine

/-- The fields of TCAUSE after an entry (rule R355). -/
theorem tcauseWord_fields (i d b : Bool) (k : Cause) (hc : k.code < 256) (hs : k.sub < 2 ^ 13) (hl : k.slot < 16) :
    let w := tcauseWord i d b k
    w.getLsbD 63 = i ∧ w.getLsbD 62 = d ∧ w.getLsbD 61 = b ∧ bits w 7 0 = k.code ∧ bits w 15 8 = k.slot ∧
      bits w 28 16 = k.sub ∧ bits w 31 16 = k.sub ∧ bits w 49 32 = k.cba.toNat := by
  have hp : k.cba.toNat < 2 ^ 18 := k.cba.isLt
  have hz (x n j : Nat) (h : x < 2 ^ n) (hj : n ≤ j) : x.testBit j = false :=
    Nat.testBit_lt_two_pow (Nat.lt_of_lt_of_le h (Nat.pow_le_pow_right (by omega) hj))
  have ht (b : Bool) : b.toNat.testBit 0 = b := by cases b <;> rfl
  have ht1 (b : Bool) (j : Nat) (h : 0 < j) : b.toNat.testBit j = false := hz _ 1 _ (by cases b <;> decide) h
  have h2 (b : Bool) : b.toNat < 2 := by cases b <;> decide
  have z0 (b : Bool) (p hi lo : Nat) (h : hi < p) := bits_atBit_above b.toNat p hi lo h
  dsimp only [tcauseWord]
  refine ⟨?_, ?_, ?_, ?_, ?_, ?_, ?_, ?_⟩
  · simp only [BitVec.getLsbD_or, getLsbD_atBit]
    simp [ht, ht1, hz _ 18 31 hp, hz _ 13 47 hs, hz _ 4 55 hl, hz _ 8 63 hc]
  · simp only [BitVec.getLsbD_or, getLsbD_atBit]
    simp [ht, ht1, hz _ 18 30 hp, hz _ 13 46 hs, hz _ 4 54 hl, hz _ 8 62 hc]
  · simp only [BitVec.getLsbD_or, getLsbD_atBit]
    simp [ht, hz _ 18 29 hp, hz _ 13 45 hs, hz _ 4 53 hl, hz _ 8 61 hc]
  · simp [bits_or, z0, bits_atBit_above, bits_atBit k.code 7 0 (by decide) (by simpa using hc)]
  · simp [bits_or, z0, bits_atBit_above, bits_atBit_below k.code 8 0 15 8 hc, bits_atBit k.slot 15 8 (by decide) (by omega)]
  · simp [bits_or, z0, bits_atBit_above, bits_atBit_below k.code 8 0 28 16 hc, bits_atBit_below k.slot 4 8 28 16 hl, bits_atBit k.sub 28 16 (by decide) hs]
  · simp [bits_or, z0, bits_atBit_above, bits_atBit_below k.code 8 0 31 16 hc, bits_atBit_below k.slot 4 8 31 16 hl, bits_atBit k.sub 31 16 (by decide) (by omega)]
  · simp [bits_or, z0, bits_atBit_below k.code 8 0 49 32 hc, bits_atBit_below k.slot 4 8 49 32 hl, bits_atBit_below k.sub 13 16 49 32 hs, bits_atBit k.cba.toNat 49 32 (by decide) hp]

namespace Core

/-- Past a bundle: only control state changes, and in it neither the mode, the hold, the wake time nor the claims. -/
theorem advance_frame (c : Core) (b : Bool) (n : Nat) :
    let d := c.advance b n
    d = { c with ctl := d.ctl } ∧ d.ctl.mode = c.ctl.mode ∧ d.ctl.hold = c.ctl.hold ∧ d.ctl.claims = c.ctl.claims ∧
      d.ctl.cc = c.ctl.cc ∧ d.ctl.wake = c.ctl.wake ∧ d.ctl.active = c.ctl.active := by
  unfold advance discardFetch dropPassed
  dsimp only
  split <;> exact ⟨rfl, rfl, rfl, rfl, rfl, rfl, rfl⟩

/-- A trace record changes the queue of records alone. -/
theorem emit_frame (c : Core) (l : Word) (k : Nat) (a : CodeAddr) (x y : Word) :
    let d := c.emit l k a x y
    d = { c with aux := d.aux } ∧
      d.aux = { c.aux with traceQ := d.aux.traceQ, lost := d.aux.lost, drops := d.aux.drops } := by
  unfold emit; dsimp only; split <;> exact ⟨rfl, rfl⟩

/-- The cause registers of an entry (rules R127, R355, R356). -/
theorem writeCause_spec (c : Core) (k : Cause) (pt : TrapPoint) (defer double : Bool) :
    let d := c.writeCause k pt defer double
    d.idx = c.idx ∧ d.reg = c.reg ∧ d.ctl = c.ctl ∧ d.mem = c.mem ∧
      d.trap.tcause = tcauseWord (double || !defer) defer double k ∧
      d.trap.tepc = (if double then c.trap.tepc else atBit (min 127 pt.idle) 24 ||| atBit pt.pc.toNat 0) ∧
      d.trap.tinfo = (if k.code = 0x0B then c.sys.carderr else k.info) ∧
      d.trap.tloom = (match k.loom with | some l => BitVec.ofNat 64 l | none => pt.loom) ∧
      d.trap.tctl = (if k.code = 0x0D then c.trap.tctl &&& ~~~1#64 else c.trap.tctl) ∧
      d.trap.tvec = c.trap.tvec ∧ d.trap.pend = c.trap.pend ∧ d.trap.shadow = c.trap.shadow ∧
      d.trap.bkpt = c.trap.bkpt ∧ d.trap.wptb = c.trap.wptb ∧ d.trap.wptm = c.trap.wptm ∧ d.trap.tscr = c.trap.tscr ∧
      d.sys = { c.sys with carderr := d.sys.carderr } ∧
      d.sys.carderr = if k.code = 0x0B then cardErrClear c.sys.carderr else c.sys.carderr := by
  unfold writeCause; dsimp only
  by_cases h : k.code = 0x0B
  · simp only [if_pos h]
    split
    · rw [(emit_frame _ _ _ _ _ _).1]; exact ⟨rfl, rfl, rfl, rfl, rfl, rfl, rfl, rfl, rfl, rfl, rfl, rfl, rfl, rfl, rfl, rfl, rfl, rfl⟩
    · exact ⟨rfl, rfl, rfl, rfl, rfl, rfl, rfl, rfl, rfl, rfl, rfl, rfl, rfl, rfl, rfl, rfl, rfl, rfl⟩
  · simp only [if_neg h]
    split
    · rw [(emit_frame _ _ _ _ _ _).1]; exact ⟨rfl, rfl, rfl, rfl, rfl, rfl, rfl, rfl, rfl, rfl, rfl, rfl, rfl, rfl, rfl, rfl, rfl, rfl⟩
    · exact ⟨rfl, rfl, rfl, rfl, rfl, rfl, rfl, rfl, rfl, rfl, rfl, rfl, rfl, rfl, rfl, rfl, rfl, rfl⟩

end Core

namespace State

/-- What a report of a core does beyond it: an entry of the error log, or a pending loss of its context. -/
theorem note_frame (s : State) (k : Nat) (n : Note) :
    let t := s.note k n
    t = { s with module := t.module, parts := t.parts } := by
  unfold note
  split
  · simp only [logEntry]
  · split
    · rfl
    · rfl

theorem notes_frame (ns : List Note) : ∀ (s : State) (k : Nat),
    s.notes k ns = { s with module := (s.notes k ns).module, parts := (s.notes k ns).parts } := by
  induction ns with
  | nil => exact fun s k => rfl
  | cons n ns ih =>
    intro s k
    have h := ih (s.note k n) k
    have e : s.notes k (n :: ns) = (s.note k n).notes k ns := rfl
    rw [e, h, note_frame s k n]

end State

end Sys2Proof.Machine

namespace Sys2Proof.Machine

namespace Core

/-- The entry into the handler (rules R355, R357, R360): outside trap mode, in a partition that runs, with TVEC.V 1. -/
theorem enterTrap_handler (c : Core) (cycle : Nat) (k : Cause) (pt : TrapPoint) (ht : c.inTrap = false)
    (hv : c.trap.tvec.getLsbD 63 = true) :
    let d := (c.enterTrap cycle false k pt).1
    (c.enterTrap cycle false k pt).2 = false ∧ d.idx = c.idx ∧ d.mem = c.mem ∧
      d.trap.tcause = tcauseWord true false false k ∧
      d.trap.tepc = atBit (min 127 pt.idle) 24 ||| atBit pt.pc.toNat 0 ∧
      d.trap.tinfo = (if k.code = 0x0B then c.sys.carderr else k.info) ∧
      d.trap.shadow = some (c.shadowOf pt) ∧ d.trap.returning = false ∧
      d.reg = { c.reg with rotb := .reset, loops := c.reg.loops.map (fun l => { l with act := false }) } ∧
      d.ctl = { c.ctl with
        lands := [], claims := [], hold := none, passed := false, taken := none, skip := none, dueAt := none
        rdLatch := none, redirects := [], redo := 0, idle := 0, fbuf := [], lbuf := [], active := false, issued := false
        mode := .running, wake := cycle + 2, pc := (c.trap.tvec.extractLsb' 0 18) &&& 0x3FFFC } := by
  have h := writeCause_spec c k pt false false
  unfold enterTrap
  simp only [ht, hv, Bool.not_true, Bool.or_self, Bool.false_eq_true, if_false]
  obtain ⟨h1, h2, h3, h4, h5, h6, h7, h8, h9, h10, -⟩ := h
  refine ⟨trivial, h1, h4, h5, h6, h7, trivial, trivial, by rw [h2], by rw [h3, h10]⟩

end Core

end Sys2Proof.Machine

namespace Sys2Proof.Machine.State

/-- What `passed` leaves of the core. -/
theorem passed_core (s : State) : s.passed.core.idx = s.core.idx ∧ s.passed.core.reg = s.core.reg ∧
    s.passed.core.mem = s.core.mem ∧ s.passed.core.sys = s.core.sys ∧ s.passed.core.aux = s.core.aux ∧
    s.passed.core.trap = { s.core.trap with exempt := if s.core.inTrap then s.core.trap.exempt else none } ∧
    s.passed.core.ctl.mode = s.core.ctl.mode ∧
    s.passed.core.ctl.hold = s.core.ctl.hold ∧ s.passed.core.ctl.claims = s.core.ctl.claims := by
  obtain ⟨a1, a2, a3, a4, -⟩ := Core.advance_frame s.core false (if s.core.ctl.mode = .barrier then 0 else s.arg.idle)
  refine ⟨?_, ?_, ?_, ?_, ?_, rfl, a2, a3, a4⟩ <;> (simp only [passed, act_core]; rw [a1])

theorem finish_eq (s : State) : s.finish =
    match firstPending s.core with
    | none => s.passed
    | some k =>
      if s.core.inX || s.core.ctl.mode == .halted || s.core.trap.returning || s.core.ctl.hold.isSome || 0x0D ≤ k.code
      then s.passed
      else (s.passed.claimNow.act (dropPending · k)).trapAt k (s.passed.claimNow.passedPoint s.core.ctl.passed) := by
  obtain ⟨p1, p2, p3, p4, p5, p6, p7, p8, p9⟩ := passed_core s
  unfold finish
  dsimp only
  have hf : firstPending s.passed.core = firstPending s.core := by
    have hm : mayTake s.passed.core = mayTake s.core := by funext k; simp only [mayTake, Core.inTrap, p6]
    simp only [firstPending, p6, hm]
  have hx : s.passed.core.inX = s.core.inX := by simp only [Core.inX, p4]
  have hr : s.passed.core.trap.returning = s.core.trap.returning := by rw [p6]
  rw [hf, hx, hr, p7, p8]
  all_goals cases firstPending s.core <;> rfl

/-- The claims of the acting core's present core cycle: what they leave of it, and of the part. -/
theorem claimNow_core (s : State) : s.core.stored s.claimNow.core ∧
    s.claimNow = { s with core := s.claimNow.core, module := s.claimNow.module, parts := s.claimNow.parts } := by
  have h := notes_frame s.core.runClaims.2 { s with core := s.core.runClaims.1 } s.core.runClaims.1.idx
  have e : s.claimNow = ({ s with core := s.core.runClaims.1 } : State).notes s.core.runClaims.1.idx s.core.runClaims.2 := rfl
  rw [e, h]
  exact ⟨Core.runClaims_stored s.core, rfl⟩

/-- A trap of a core without a hold, outside trap mode, with TVEC.V 1: the core enters its handler, and nothing else
changes (rules R355, R360). -/
theorem trapAt_handler (s : State) (k : Cause) (pt : TrapPoint) (hh : s.core.ctl.hold = none) (ht : s.core.inTrap = false)
    (hv : s.core.trap.tvec.getLsbD 63 = true) :
    s.trapAt k pt = { s with core := (s.core.enterTrap pt.taken false k pt).1 } := by
  have h := (Core.enterTrap_handler s.core pt.taken k pt ht hv).1
  unfold trapAt
  simp only [hh, Option.isSome_none, Bool.false_and]
  rw [if_neg (by rw [h]; simp)]

end Sys2Proof.Machine.State
end

