-- ==== Sys2Proof/Laws/Lanes.lean ====
section
/-! SUPPORT. Lanes of a register built lane by lane, and the lane arithmetic as bit-vector arithmetic. -/

namespace Sys2Proof.Machine

theorem packLanes_lt (w : Nat) (xs : List Nat) : packLanes w xs < 2 ^ (w * xs.length) := by
  induction xs with
  | nil => simp [packLanes]
  | cons x xs ih =>
    have hx : x % 2 ^ w < 2 ^ w := Nat.mod_lt _ (Nat.two_pow_pos w)
    have h1 : 2 ^ w * packLanes w xs + 2 ^ w ≤ 2 ^ w * 2 ^ (w * xs.length) := by
      rw [← Nat.mul_succ]; exact Nat.mul_le_mul_left _ ih
    have h2 : 2 ^ (w * (x :: xs).length) = 2 ^ w * 2 ^ (w * xs.length) := by
      rw [List.length_cons, Nat.mul_succ, Nat.pow_add, Nat.mul_comm]
    unfold packLanes
    omega

/-- Digit `i` of packed lanes is element `i`. -/
theorem packLanes_digit (w : Nat) : ∀ (xs : List Nat) (i : Nat), i < xs.length →
    (packLanes w xs >>> (w * i)) % 2 ^ w = xs.getD i 0 % 2 ^ w := by
  intro xs
  induction xs with
  | nil => intro i h; simp at h
  | cons x xs ih =>
    intro i h
    cases i with
    | zero => simp [packLanes, Nat.add_mul_mod_self_left]
    | succ i =>
      have hx : x % 2 ^ w < 2 ^ w := Nat.mod_lt _ (Nat.two_pow_pos w)
      have hd : packLanes w (x :: xs) >>> (w * (i + 1)) = packLanes w xs >>> (w * i) := by
        rw [Nat.mul_succ, Nat.add_comm, Nat.shiftRight_add, packLanes]
        congr 1
        rw [Nat.shiftRight_eq_div_pow, Nat.add_mul_div_left _ _ (Nat.two_pow_pos w), Nat.div_eq_of_lt hx, Nat.zero_add]
      rw [hd, ih i (by simpa using h)]
      simp

/-- Lane `i` of a register built lane by lane (rule R263). -/
theorem lane_ofLanes (w n : Nat) (f : Nat → Nat) (i : Nat) (h : i < n) (hw : w * n ≤ 2048) :
    lane (ofLanes w n f) w i = f i % 2 ^ w := by
  have hlt := packLanes_lt w ((List.range n).map f)
  have hle := Nat.pow_le_pow_right (n := 2) (by omega) (show w * ((List.range n).map f).length ≤ 2048 by simpa using hw)
  unfold lane ofLanes
  rw [BitVec.toNat_ofNat, Nat.mod_eq_of_lt (Nat.lt_of_lt_of_le hlt hle), packLanes_digit w _ i (by simpa using h)]
  simp [List.getD, h]

theorem lane_lt (v : Vec) (w i : Nat) : lane v w i < 2 ^ w := Nat.mod_lt _ (Nat.two_pow_pos w)

theorem lane_zipLanes (w : Nat) (f : Nat → Nat → Nat) (a b : Vec) (i : Nat) (h : i < 2048 / w) :
    lane (zipLanes w f a b) w i = f (lane a w i) (lane b w i) % 2 ^ w :=
  lane_ofLanes w _ _ i h (Nat.mul_div_le 2048 w)

theorem lane_mapLanes (w : Nat) (f : Nat → Nat) (a : Vec) (i : Nat) (h : i < 2048 / w) :
    lane (mapLanes w f a) w i = f (lane a w i) % 2 ^ w :=
  lane_ofLanes w _ _ i h (Nat.mul_div_le 2048 w)

/-- A lane as the bits of the register. -/
theorem laneAt_eq (w : Nat) (v : Vec) (i : Nat) :
    laneAt w v i = BitVec.ofNat w (lane v w i) := by
  apply BitVec.eq_of_toNat_eq
  simp [laneAt, lane, BitVec.extractLsb']

theorem toNat_laneAt (w : Nat) (v : Vec) (i : Nat) : (laneAt w v i).toNat = lane v w i := by
  simp [laneAt, lane, BitVec.extractLsb']

theorem laneAt_zipLanes (w : Nat) (f : Nat → Nat → Nat) (a b : Vec) (i : Nat) (h : i < 2048 / w) :
    laneAt w (zipLanes w f a b) i
      = BitVec.ofNat w (f (laneAt w a i).toNat (laneAt w b i).toNat) := by
  rw [laneAt_eq, lane_zipLanes w f a b i h, toNat_laneAt, toNat_laneAt]
  apply BitVec.eq_of_toNat_eq; simp

theorem laneAt_mapLanes (w : Nat) (f : Nat → Nat) (a : Vec) (i : Nat) (h : i < 2048 / w) :
    laneAt w (mapLanes w f a) i = BitVec.ofNat w (f (laneAt w a i).toNat) := by
  rw [laneAt_eq, lane_mapLanes w f a i h, toNat_laneAt]
  apply BitVec.eq_of_toNat_eq; simp

theorem laneAt_ofLanes (w n : Nat) (f : Nat → Nat) (i : Nat) (h : i < n) (hw : w * n ≤ 2048) :
    laneAt w (ofLanes w n f) i = BitVec.ofNat w (f i) := by
  rw [laneAt_eq, lane_ofLanes w n f i h hw]
  apply BitVec.eq_of_toNat_eq; simp

/-! ### Lane arithmetic as bit-vector arithmetic -/

theorem sx_toNat {w : Nat} (x : BitVec w) : sx w x.toNat = x.toInt := by
  unfold sx
  rw [BitVec.toInt_eq_toNat_cond]
  rcases w with _ | w
  · simp [BitVec.of_length_zero (x := x)]
  · have h : 2 * 2 ^ w = 2 ^ (w + 1) := by rw [Nat.pow_succ, Nat.mul_comm]
    simp only [Nat.add_sub_cancel]
    split <;> split <;> first | rfl | omega

theorem ofNat_wrap_add {w : Nat} (a b : BitVec w) : BitVec.ofNat w ((a.toNat + b.toNat) % 2 ^ w) = a + b := by
  apply BitVec.eq_of_toNat_eq; simp

theorem ofNat_wrap_sub {w : Nat} (a b : BitVec w) : BitVec.ofNat w ((a.toNat + (2 ^ w - b.toNat)) % 2 ^ w) = a - b := by
  apply BitVec.eq_of_toNat_eq
  have := b.isLt
  rw [BitVec.toNat_sub]; simp [Nat.add_comm]

theorem ofNat_maskLane (w : Nat) (b : Bool) : BitVec.ofNat w (maskLane w b) = if b then BitVec.allOnes w else 0 := by
  unfold maskLane; cases b
  · simp
  · simp only [if_true]; apply BitVec.eq_of_toNat_eq
    simp only [BitVec.toNat_ofNat, BitVec.toNat_allOnes]
    exact Nat.mod_eq_of_lt (Nat.sub_lt (Nat.two_pow_pos w) Nat.one_pos)

theorem ofNat_shlLane {w : Nat} (a b : BitVec w) : BitVec.ofNat w (shlLane w a.toNat b.toNat) = a <<< b.toNat := by
  unfold shlLane
  apply BitVec.eq_of_toNat_eq
  rw [BitVec.toNat_ofNat, BitVec.toNat_shiftLeft, Nat.shiftLeft_eq]
  split
  · rfl
  · rename_i h
    have : 2 ^ b.toNat = 2 ^ w * 2 ^ (b.toNat - w) := by rw [← Nat.pow_add]; congr 1; omega
    rw [this, ← Nat.mul_assoc, Nat.mul_comm a.toNat, Nat.mul_assoc, Nat.mul_mod_right]; simp

theorem ofNat_shrLane {w : Nat} (a b : BitVec w) : BitVec.ofNat w (shrLane w a.toNat b.toNat) = a >>> b.toNat := by
  unfold shrLane
  apply BitVec.eq_of_toNat_eq
  rw [BitVec.toNat_ofNat, BitVec.toNat_ushiftRight, Nat.shiftRight_eq_div_pow]
  have ha := a.isLt
  split
  · exact Nat.mod_eq_of_lt (Nat.lt_of_le_of_lt (Nat.div_le_self _ _) ha)
  · rename_i h
    rw [Nat.zero_mod, Nat.div_eq_of_lt]
    exact Nat.lt_of_lt_of_le ha (Nat.pow_le_pow_right (by omega) (by omega))

theorem ofNat_sraLane {w : Nat} (a b : BitVec w) : BitVec.ofNat w (sraLane w a.toNat b.toNat) = a.sshiftRight b.toNat := by
  unfold sraLane wrap
  rw [sx_toNat]
  have hfd : ∀ n : Nat, a.toInt.fdiv (2 ^ n : Nat) = a.toInt >>> n := by
    intro n; rw [Int.shiftRight_eq_div_pow, Int.fdiv_eq_ediv_of_nonneg _ (Int.natCast_nonneg _)]
  rw [hfd]
  have hmin : a.toInt >>> (min b.toNat (w - 1)) = a.toInt >>> b.toNat := by
    by_cases h : b.toNat ≤ w - 1
    · rw [Nat.min_eq_left h]
    · rw [Nat.min_eq_right (by omega)]
      have hr := BitVec.toInt_lt (x := a)
      have hl := BitVec.le_toInt (x := a)
      rcases w with _ | w
      · simp [BitVec.of_length_zero (x := a)]
      · simp only [Nat.add_sub_cancel] at *
        rw [Int.shiftRight_eq_div_pow, Int.shiftRight_eq_div_pow]
        have hp : ((2:Nat) ^ w : Nat) ≤ 2 ^ b.toNat := Nat.pow_le_pow_right (by omega) (by omega)
        have hpi : ((2 ^ w : Nat) : Int) ≤ ((2 ^ b.toNat : Nat) : Int) := by exact_mod_cast hp
        have hpos : (0:Int) < ((2 ^ w : Nat) : Int) := by have := Nat.two_pow_pos w; omega
        have hle : -((2 ^ w : Nat) : Int) ≤ a.toInt := by push_cast; simpa using hl
        have hlt : a.toInt < ((2 ^ w : Nat) : Int) := by push_cast; simpa using hr
        by_cases hn : 0 ≤ a.toInt
        · rw [Int.ediv_eq_zero_of_lt hn hlt, Int.ediv_eq_zero_of_lt hn (by omega)]
        · have e1 : a.toInt / ((2 ^ w : Nat) : Int) = -1 := by
            rw [Int.ediv_eq_iff_of_pos hpos]; constructor <;> omega
          have e2 : a.toInt / ((2 ^ b.toNat : Nat) : Int) = -1 := by
            rw [Int.ediv_eq_iff_of_pos (by omega)]; constructor <;> omega
          rw [e1, e2]
  rw [hmin]
  apply BitVec.eq_of_toInt_eq
  have hpw := Nat.two_pow_pos w
  have he : ((a.toInt >>> b.toNat).emod ((2 ^ w : Nat) : Int)).toNat = ((a.toInt >>> b.toNat) % ((2 ^ w : Nat) : Int)).toNat := rfl
  rw [he, BitVec.toInt_ofNat', Int.toNat_of_nonneg (Int.emod_nonneg _ (by omega)), ← BitVec.toInt_sshiftRight]
  exact (Int.emod_bmod ..).trans (BitVec.toInt_bmod_cancel _)

/-- A code of `w` bits is the integer modulo 2^w. -/
theorem ofNat_emod (w : Nat) (x : Int) : BitVec.ofNat w (x.emod (2 ^ w : Nat)).toNat = BitVec.ofInt w x := by
  apply BitVec.eq_of_toNat_eq
  have hp := Nat.two_pow_pos w
  have h1 : (0 : Int) ≤ x.emod (2 ^ w : Nat) := Int.emod_nonneg _ (by omega)
  have h2 : x.emod (2 ^ w : Nat) < (2 ^ w : Nat) := Int.emod_lt_of_pos _ (by omega)
  rw [BitVec.toNat_ofNat, BitVec.toNat_ofInt]
  exact Nat.mod_eq_of_lt (by omega)

/-- A signed integer clamped to `w` bits (rule R182). -/
theorem ofNat_satI (w : Nat) (x : Int) (h0 : 0 < w) :
    BitVec.ofNat w (satI x w) = BitVec.ofInt w (max (-(2 ^ (w - 1) : Nat) : Int) (min ((2 ^ (w - 1) : Nat) - 1) x)) := by
  have hw : (Fmt.int w).width = w := by simp only [Fmt.int, Fmt.width, Bool.toNat_true]; omega
  have h1 : (Fmt.int w).kmin = (-(2 ^ (w - 1) : Nat) : Int) := by simp only [Fmt.kmin, hw]; rfl
  have h2 : (Fmt.int w).kmax = ((2 ^ (w - 1) : Nat) : Int) - 1 := by simp only [Fmt.kmax, hw]; rfl
  unfold satI Fmt.encodeInt
  rw [hw, h1, h2, ofNat_emod]

/-- An unsigned integer clamped to `w` bits (rule R182). -/
theorem ofNat_satN (w : Nat) (x : Int) :
    BitVec.ofNat w (satN x w) = BitVec.ofInt w (max 0 (min ((2 ^ w : Nat) - 1) x)) := by
  have hw : (Fmt.nat w).width = w := by simp only [Fmt.nat, Fmt.width, Bool.toNat_false]; omega
  have h1 : (Fmt.nat w).kmin = 0 := rfl
  have h2 : (Fmt.nat w).kmax = ((2 ^ w : Nat) : Int) - 1 := by simp only [Fmt.kmax, hw]; rfl
  unfold satN Fmt.encodeInt
  rw [hw, h1, h2, ofNat_emod]

/-! ### Scalar results as bit-vector arithmetic (rule R240) -/

theorem shlWord_eq (a : Word) (n : Nat) : shlWord a n = a <<< n := by
  unfold shlWord; split
  · rfl
  · rw [BitVec.shiftLeft_eq_zero (by omega)]; rfl

theorem shrWord_eq (a : Word) (n : Nat) : shrWord a n = a >>> n := by
  unfold shrWord; split
  · rfl
  · rw [BitVec.ushiftRight_eq_zero (by omega)]; rfl

theorem sraWord_eq (a : Word) (n : Nat) : sraWord a n = a.sshiftRight n := by
  unfold sraWord; split
  · rfl
  · apply BitVec.eq_of_getLsbD_eq
    intro i hi
    simp only [BitVec.getLsbD_sshiftRight]
    have h1 : 63 ≤ n := by omega
    by_cases hz : i = 0
    · subst hz
      rcases Nat.lt_or_ge n 64 with h | h
      · obtain rfl : n = 63 := by omega
        rfl
      · simp [BitVec.msb_eq_getLsbD_last, show ¬ n < 64 by omega]
    · simp [show ¬ 63 + i < 64 by omega, show ¬ n + i < 64 by omega]

theorem mulhWord_eq (a b : Word) :
    mulhWord a b = (a.signExtend 128 * b.signExtend 128).extractLsb' 64 64 := by
  have hal := BitVec.le_toInt (x := a)
  have hah := BitVec.toInt_lt (x := a)
  have hbl := BitVec.le_toInt (x := b)
  have hbh := BitVec.toInt_lt (x := b)
  have hm : a.signExtend 128 * b.signExtend 128 = BitVec.ofInt 128 (a.toInt * b.toInt) := by
    apply BitVec.eq_of_toInt_eq
    rw [BitVec.toInt_mul, BitVec.toInt_signExtend_of_le (by omega), BitVec.toInt_signExtend_of_le (by omega),
      BitVec.toInt_ofInt]
  rw [hm]
  apply BitVec.eq_of_toNat_eq
  unfold mulhWord
  rw [BitVec.extractLsb'_toNat, Nat.shiftRight_eq_div_pow, BitVec.toNat_ofInt, BitVec.toNat_ofInt]
  generalize a.toInt * b.toInt = z
  rw [show z.fdiv (2 ^ 64) = z / 2 ^ 64 from Int.fdiv_eq_ediv_of_nonneg _ (by omega)]
  omega

theorem mulhnWord_eq (a b : Word) :
    mulhnWord a b = (a.setWidth 128 * b.setWidth 128).extractLsb' 64 64 := by
  have ha := a.isLt
  have hb := b.isLt
  have h : a.toNat * b.toNat < 2 ^ 128 := by
    rw [show (2 : Nat) ^ 128 = 2 ^ 64 * 2 ^ 64 from rfl]; exact Nat.mul_lt_mul'' ha hb
  apply BitVec.eq_of_toNat_eq
  simp only [mulhnWord, BitVec.toNat_ofNat, BitVec.extractLsb'_toNat, BitVec.toNat_mul, BitVec.toNat_setWidth,
    Nat.shiftRight_eq_div_pow]
  rw [Nat.mod_eq_of_lt (a := a.toNat) (by omega), Nat.mod_eq_of_lt (a := b.toNat) (by omega), Nat.mod_eq_of_lt h]

theorem minWord_toInt (a b : Word) : (minWord a b).toInt = min a.toInt b.toInt := by
  unfold minWord; rw [BitVec.slt_eq_decide]; simp only [decide_eq_true_eq]; split <;> omega
theorem maxWord_toInt (a b : Word) : (maxWord a b).toInt = max a.toInt b.toInt := by
  unfold maxWord; rw [BitVec.slt_eq_decide]; simp only [decide_eq_true_eq]; split <;> omega
theorem minnWord_toNat (a b : Word) : (minnWord a b).toNat = min a.toNat b.toNat := by
  unfold minnWord; rw [BitVec.ult_eq_decide]; simp only [decide_eq_true_eq]; split <;> omega
theorem maxnWord_toNat (a b : Word) : (maxnWord a b).toNat = max a.toNat b.toNat := by
  unfold maxnWord; rw [BitVec.ult_eq_decide]; simp only [decide_eq_true_eq]; split <;> omega

/-! ### The residue of a block (rule R205) -/

/-- A power of two is 1 or −1 modulo 3. -/
theorem two_pow_residue (m n : Nat) : ((m * 2 ^ n : Nat) : Int) % 3 = (if n % 2 = 0 then (m : Int) else -m) % 3 := by
  induction n with
  | zero => simp
  | succ n ih =>
    have e : ((m * 2 ^ (n + 1) : Nat) : Int) = ((m * 2 ^ n : Nat) : Int) * 2 := by rw [Nat.pow_succ, ← Nat.mul_assoc]; exact Int.natCast_mul _ 2
    rw [e]
    by_cases h : n % 2 = 0
    · rw [if_pos h] at ih
      rw [if_neg (by omega)]; omega
    · rw [if_neg h] at ih
      rw [if_pos (by omega)]; omega

/-- A sum of a block that no error has struck agrees with ρ (rule R205). -/
theorem blockSum_residue (fa fb : Fmt) (xs : List (Nat × Nat)) : blockSum fa fb xs % 3 = residue fa fb xs % 3 := by
  unfold blockSum residue
  have : ∀ (xs : List (Nat × Nat)) (s t : Int), s % 3 = t % 3 →
      xs.foldl (fun s p => s + blockTerm fa fb p.1 p.2) s % 3 = xs.foldl (fun s p =>
        let (sa, ma, ea) := significand fa p.1
        let (sb, mb, eb) := significand fb p.2
        let m : Int := (ma * mb : Nat)
        let m := if sa != sb then -m else m
        s + (if (ea + eb) % 2 = 0 then m else -m)) t % 3 := by
    intro xs
    induction xs with
    | nil => exact fun s t h => h
    | cons p xs ih =>
      intro s t h
      refine ih _ _ ?_
      simp only [blockTerm]
      generalize significand fa p.1 = u
      generalize significand fb p.2 = v
      obtain ⟨sa, ma, ea⟩ := u
      obtain ⟨sb, mb, eb⟩ := v
      have k := two_pow_residue (ma * mb) (ea + eb)
      dsimp only
      generalize ((ma * mb * 2 ^ (ea + eb) : Nat) : Int) = x at k ⊢
      generalize ((ma * mb : Nat) : Int) = y at k ⊢
      split at k <;> rename_i g <;> simp only [g, if_true, if_false] <;> split <;> omega
  exact this xs 0 0 rfl

end Sys2Proof.Machine
end

