-- ==== Sys2Proof/Laws/PerInstr.lean ====
section
/-! SUPPORT. What is said of every instruction as syntax, one lemma per constructor. -/

open Sys2Proof

/-- A slot instruction has a word and an event has none; an event has no operand that could be ill-formed (rules R211,
R222). -/
def Sys2Proof.Laws.Worded.Statement (i : Instr) : Prop :=
  (encode i).isSome = i.isSlot ∧ (i.isSlot = false → i.wf = true)

namespace Sys2Proof.Laws.Worded

theorem add (sb : Bool) (o : R3Ops) : Statement (.add sb o) := ⟨rfl, fun h => nomatch h⟩
theorem sub (sb : Bool) (o : R3Ops) : Statement (.sub sb o) := ⟨rfl, fun h => nomatch h⟩
theorem and (sb : Bool) (o : R3Ops) : Statement (.and sb o) := ⟨rfl, fun h => nomatch h⟩
theorem or (sb : Bool) (o : R3Ops) : Statement (.or sb o) := ⟨rfl, fun h => nomatch h⟩
theorem xor (sb : Bool) (o : R3Ops) : Statement (.xor sb o) := ⟨rfl, fun h => nomatch h⟩
theorem andn (sb : Bool) (o : R3Ops) : Statement (.andn sb o) := ⟨rfl, fun h => nomatch h⟩
theorem shl (sb : Bool) (o : R3Ops) : Statement (.shl sb o) := ⟨rfl, fun h => nomatch h⟩
theorem shr (sb : Bool) (o : R3Ops) : Statement (.shr sb o) := ⟨rfl, fun h => nomatch h⟩
theorem sra (sb : Bool) (o : R3Ops) : Statement (.sra sb o) := ⟨rfl, fun h => nomatch h⟩
theorem min (sb : Bool) (o : R3Ops) : Statement (.min sb o) := ⟨rfl, fun h => nomatch h⟩
theorem max (sb : Bool) (o : R3Ops) : Statement (.max sb o) := ⟨rfl, fun h => nomatch h⟩
theorem minn (sb : Bool) (o : R3Ops) : Statement (.minn sb o) := ⟨rfl, fun h => nomatch h⟩
theorem maxn (sb : Bool) (o : R3Ops) : Statement (.maxn sb o) := ⟨rfl, fun h => nomatch h⟩
theorem mul (o : R3Ops) : Statement (.mul o) := ⟨rfl, fun h => nomatch h⟩
theorem mulh (o : R3Ops) : Statement (.mulh o) := ⟨rfl, fun h => nomatch h⟩
theorem mulhn (o : R3Ops) : Statement (.mulhn o) := ⟨rfl, fun h => nomatch h⟩
theorem addsh (o : R3xOps) : Statement (.addsh o) := ⟨rfl, fun h => nomatch h⟩
theorem addi (sb : Bool) (o : RisOps) : Statement (.addi sb o) := ⟨rfl, fun h => nomatch h⟩
theorem andi (sb : Bool) (o : RisOps) : Statement (.andi sb o) := ⟨rfl, fun h => nomatch h⟩
theorem ori (sb : Bool) (o : RisOps) : Statement (.ori sb o) := ⟨rfl, fun h => nomatch h⟩
theorem shli (sb : Bool) (o : RisOps) : Statement (.shli sb o) := ⟨rfl, fun h => nomatch h⟩
theorem shri (sb : Bool) (o : RisOps) : Statement (.shri sb o) := ⟨rfl, fun h => nomatch h⟩
theorem srai (sb : Bool) (o : RisOps) : Statement (.srai sb o) := ⟨rfl, fun h => nomatch h⟩
theorem movi (sb : Bool) (o : RiOps) : Statement (.movi sb o) := ⟨rfl, fun h => nomatch h⟩
theorem movis (sb : Bool) (o : RiOps) : Statement (.movis sb o) := ⟨rfl, fun h => nomatch h⟩
theorem cmp (sb : Bool) (o : PcOps) : Statement (.cmp sb o) := ⟨rfl, fun h => nomatch h⟩
theorem cmpi (sb : Bool) (o : PciOps) : Statement (.cmpi sb o) := ⟨rfl, fun h => nomatch h⟩
theorem br (o : BOps) : Statement (.br o) := ⟨rfl, fun h => nomatch h⟩
theorem brL (o : BlOps) : Statement (.brL o) := ⟨rfl, fun h => nomatch h⟩
theorem brInd (o : R1aOps) : Statement (.brInd o) := ⟨rfl, fun h => nomatch h⟩
theorem halt (o : ZOps) : Statement (.halt o) := ⟨rfl, fun h => nomatch h⟩
theorem trap (o : TOps) : Statement (.trap o) := ⟨rfl, fun h => nomatch h⟩
theorem tret (o : ZOps) : Statement (.tret o) := ⟨rfl, fun h => nomatch h⟩
theorem sysRd (o : SyrOps) : Statement (.sysRd o) := ⟨rfl, fun h => nomatch h⟩
theorem sysWr (o : SywOps) : Statement (.sysWr o) := ⟨rfl, fun h => nomatch h⟩
theorem fmtWr (o : FwOps) : Statement (.fmtWr o) := ⟨rfl, fun h => nomatch h⟩
theorem sysBist (o : R2Ops) : Statement (.sysBist o) := ⟨rfl, fun h => nomatch h⟩
theorem margV (o : R2Ops) : Statement (.margV o) := ⟨rfl, fun h => nomatch h⟩
theorem margL (o : R2Ops) : Statement (.margL o) := ⟨rfl, fun h => nomatch h⟩
theorem ldI8 (o : RisOps) : Statement (.ldI8 o) := ⟨rfl, fun h => nomatch h⟩
theorem ldN8 (o : RisOps) : Statement (.ldN8 o) := ⟨rfl, fun h => nomatch h⟩
theorem ldI16 (o : RisOps) : Statement (.ldI16 o) := ⟨rfl, fun h => nomatch h⟩
theorem ldN16 (o : RisOps) : Statement (.ldN16 o) := ⟨rfl, fun h => nomatch h⟩
theorem ldI32 (o : RisOps) : Statement (.ldI32 o) := ⟨rfl, fun h => nomatch h⟩
theorem ldN32 (o : RisOps) : Statement (.ldN32 o) := ⟨rfl, fun h => nomatch h⟩
theorem ldI64 (o : RisOps) : Statement (.ldI64 o) := ⟨rfl, fun h => nomatch h⟩
theorem stB (o : RisOps) : Statement (.stB o) := ⟨rfl, fun h => nomatch h⟩
theorem stH (o : RisOps) : Statement (.stH o) := ⟨rfl, fun h => nomatch h⟩
theorem stW (o : RisOps) : Statement (.stW o) := ⟨rfl, fun h => nomatch h⟩
theorem stD (o : RisOps) : Statement (.stD o) := ⟨rfl, fun h => nomatch h⟩
theorem vld (o : RisOps) : Statement (.vld o) := ⟨rfl, fun h => nomatch h⟩
theorem vst (o : RisOps) : Statement (.vst o) := ⟨rfl, fun h => nomatch h⟩
theorem vldx (o : R3Ops) : Statement (.vldx o) := ⟨rfl, fun h => nomatch h⟩
theorem vstx (o : R3Ops) : Statement (.vstx o) := ⟨rfl, fun h => nomatch h⟩
theorem vbcastW (o : RisOps) : Statement (.vbcastW o) := ⟨rfl, fun h => nomatch h⟩
theorem vgatherW (o : R3Ops) : Statement (.vgatherW o) := ⟨rfl, fun h => nomatch h⟩
theorem vgatherH (o : R3Ops) : Statement (.vgatherH o) := ⟨rfl, fun h => nomatch h⟩
theorem vscatterW (o : R3Ops) : Statement (.vscatterW o) := ⟨rfl, fun h => nomatch h⟩
theorem vscatterH (o : R3Ops) : Statement (.vscatterH o) := ⟨rfl, fun h => nomatch h⟩
theorem vaddF32 (o : R3xOps) : Statement (.vaddF32 o) := ⟨rfl, fun h => nomatch h⟩
theorem vaddF16 (o : R3xOps) : Statement (.vaddF16 o) := ⟨rfl, fun h => nomatch h⟩
theorem vaddBf16 (o : R3xOps) : Statement (.vaddBf16 o) := ⟨rfl, fun h => nomatch h⟩
theorem vsubF32 (o : R3xOps) : Statement (.vsubF32 o) := ⟨rfl, fun h => nomatch h⟩
theorem vsubF16 (o : R3xOps) : Statement (.vsubF16 o) := ⟨rfl, fun h => nomatch h⟩
theorem vsubBf16 (o : R3xOps) : Statement (.vsubBf16 o) := ⟨rfl, fun h => nomatch h⟩
theorem vminF32 (o : R3Ops) : Statement (.vminF32 o) := ⟨rfl, fun h => nomatch h⟩
theorem vminF16 (o : R3Ops) : Statement (.vminF16 o) := ⟨rfl, fun h => nomatch h⟩
theorem vminBf16 (o : R3Ops) : Statement (.vminBf16 o) := ⟨rfl, fun h => nomatch h⟩
theorem vmaxF32 (o : R3Ops) : Statement (.vmaxF32 o) := ⟨rfl, fun h => nomatch h⟩
theorem vmaxF16 (o : R3Ops) : Statement (.vmaxF16 o) := ⟨rfl, fun h => nomatch h⟩
theorem vmaxBf16 (o : R3Ops) : Statement (.vmaxBf16 o) := ⟨rfl, fun h => nomatch h⟩
theorem vminnF32 (o : R3Ops) : Statement (.vminnF32 o) := ⟨rfl, fun h => nomatch h⟩
theorem vminnF16 (o : R3Ops) : Statement (.vminnF16 o) := ⟨rfl, fun h => nomatch h⟩
theorem vminnBf16 (o : R3Ops) : Statement (.vminnBf16 o) := ⟨rfl, fun h => nomatch h⟩
theorem vmaxnF32 (o : R3Ops) : Statement (.vmaxnF32 o) := ⟨rfl, fun h => nomatch h⟩
theorem vmaxnF16 (o : R3Ops) : Statement (.vmaxnF16 o) := ⟨rfl, fun h => nomatch h⟩
theorem vmaxnBf16 (o : R3Ops) : Statement (.vmaxnBf16 o) := ⟨rfl, fun h => nomatch h⟩
theorem vcmpF32 (o : R3xOps) : Statement (.vcmpF32 o) := ⟨rfl, fun h => nomatch h⟩
theorem vcmpF16 (o : R3xOps) : Statement (.vcmpF16 o) := ⟨rfl, fun h => nomatch h⟩
theorem vcmpBf16 (o : R3xOps) : Statement (.vcmpBf16 o) := ⟨rfl, fun h => nomatch h⟩
theorem viaddI8 (o : R3Ops) : Statement (.viaddI8 o) := ⟨rfl, fun h => nomatch h⟩
theorem viaddI16 (o : R3Ops) : Statement (.viaddI16 o) := ⟨rfl, fun h => nomatch h⟩
theorem viaddI32 (o : R3Ops) : Statement (.viaddI32 o) := ⟨rfl, fun h => nomatch h⟩
theorem viaddI64 (o : R3Ops) : Statement (.viaddI64 o) := ⟨rfl, fun h => nomatch h⟩
theorem visubI8 (o : R3Ops) : Statement (.visubI8 o) := ⟨rfl, fun h => nomatch h⟩
theorem visubI16 (o : R3Ops) : Statement (.visubI16 o) := ⟨rfl, fun h => nomatch h⟩
theorem visubI32 (o : R3Ops) : Statement (.visubI32 o) := ⟨rfl, fun h => nomatch h⟩
theorem visubI64 (o : R3Ops) : Statement (.visubI64 o) := ⟨rfl, fun h => nomatch h⟩
theorem viaddsI8 (o : R3Ops) : Statement (.viaddsI8 o) := ⟨rfl, fun h => nomatch h⟩
theorem viaddsI16 (o : R3Ops) : Statement (.viaddsI16 o) := ⟨rfl, fun h => nomatch h⟩
theorem viaddsI32 (o : R3Ops) : Statement (.viaddsI32 o) := ⟨rfl, fun h => nomatch h⟩
theorem viaddsI64 (o : R3Ops) : Statement (.viaddsI64 o) := ⟨rfl, fun h => nomatch h⟩
theorem viaddsN8 (o : R3Ops) : Statement (.viaddsN8 o) := ⟨rfl, fun h => nomatch h⟩
theorem viaddsN16 (o : R3Ops) : Statement (.viaddsN16 o) := ⟨rfl, fun h => nomatch h⟩
theorem viaddsN32 (o : R3Ops) : Statement (.viaddsN32 o) := ⟨rfl, fun h => nomatch h⟩
theorem viaddsN64 (o : R3Ops) : Statement (.viaddsN64 o) := ⟨rfl, fun h => nomatch h⟩
theorem visubsI8 (o : R3Ops) : Statement (.visubsI8 o) := ⟨rfl, fun h => nomatch h⟩
theorem visubsI16 (o : R3Ops) : Statement (.visubsI16 o) := ⟨rfl, fun h => nomatch h⟩
theorem visubsI32 (o : R3Ops) : Statement (.visubsI32 o) := ⟨rfl, fun h => nomatch h⟩
theorem visubsI64 (o : R3Ops) : Statement (.visubsI64 o) := ⟨rfl, fun h => nomatch h⟩
theorem visubsN8 (o : R3Ops) : Statement (.visubsN8 o) := ⟨rfl, fun h => nomatch h⟩
theorem visubsN16 (o : R3Ops) : Statement (.visubsN16 o) := ⟨rfl, fun h => nomatch h⟩
theorem visubsN32 (o : R3Ops) : Statement (.visubsN32 o) := ⟨rfl, fun h => nomatch h⟩
theorem visubsN64 (o : R3Ops) : Statement (.visubsN64 o) := ⟨rfl, fun h => nomatch h⟩
theorem viminI8 (o : R3Ops) : Statement (.viminI8 o) := ⟨rfl, fun h => nomatch h⟩
theorem viminI16 (o : R3Ops) : Statement (.viminI16 o) := ⟨rfl, fun h => nomatch h⟩
theorem viminI32 (o : R3Ops) : Statement (.viminI32 o) := ⟨rfl, fun h => nomatch h⟩
theorem viminI64 (o : R3Ops) : Statement (.viminI64 o) := ⟨rfl, fun h => nomatch h⟩
theorem viminN8 (o : R3Ops) : Statement (.viminN8 o) := ⟨rfl, fun h => nomatch h⟩
theorem viminN16 (o : R3Ops) : Statement (.viminN16 o) := ⟨rfl, fun h => nomatch h⟩
theorem viminN32 (o : R3Ops) : Statement (.viminN32 o) := ⟨rfl, fun h => nomatch h⟩
theorem viminN64 (o : R3Ops) : Statement (.viminN64 o) := ⟨rfl, fun h => nomatch h⟩
theorem vimaxI8 (o : R3Ops) : Statement (.vimaxI8 o) := ⟨rfl, fun h => nomatch h⟩
theorem vimaxI16 (o : R3Ops) : Statement (.vimaxI16 o) := ⟨rfl, fun h => nomatch h⟩
theorem vimaxI32 (o : R3Ops) : Statement (.vimaxI32 o) := ⟨rfl, fun h => nomatch h⟩
theorem vimaxI64 (o : R3Ops) : Statement (.vimaxI64 o) := ⟨rfl, fun h => nomatch h⟩
theorem vimaxN8 (o : R3Ops) : Statement (.vimaxN8 o) := ⟨rfl, fun h => nomatch h⟩
theorem vimaxN16 (o : R3Ops) : Statement (.vimaxN16 o) := ⟨rfl, fun h => nomatch h⟩
theorem vimaxN32 (o : R3Ops) : Statement (.vimaxN32 o) := ⟨rfl, fun h => nomatch h⟩
theorem vimaxN64 (o : R3Ops) : Statement (.vimaxN64 o) := ⟨rfl, fun h => nomatch h⟩
theorem vicmpI8 (o : R3xOps) : Statement (.vicmpI8 o) := ⟨rfl, fun h => nomatch h⟩
theorem vicmpI16 (o : R3xOps) : Statement (.vicmpI16 o) := ⟨rfl, fun h => nomatch h⟩
theorem vicmpI32 (o : R3xOps) : Statement (.vicmpI32 o) := ⟨rfl, fun h => nomatch h⟩
theorem vicmpI64 (o : R3xOps) : Statement (.vicmpI64 o) := ⟨rfl, fun h => nomatch h⟩
theorem vicmpN8 (o : R3xOps) : Statement (.vicmpN8 o) := ⟨rfl, fun h => nomatch h⟩
theorem vicmpN16 (o : R3xOps) : Statement (.vicmpN16 o) := ⟨rfl, fun h => nomatch h⟩
theorem vicmpN32 (o : R3xOps) : Statement (.vicmpN32 o) := ⟨rfl, fun h => nomatch h⟩
theorem vicmpN64 (o : R3xOps) : Statement (.vicmpN64 o) := ⟨rfl, fun h => nomatch h⟩
theorem vand (o : R3Ops) : Statement (.vand o) := ⟨rfl, fun h => nomatch h⟩
theorem vor (o : R3Ops) : Statement (.vor o) := ⟨rfl, fun h => nomatch h⟩
theorem vxor (o : R3Ops) : Statement (.vxor o) := ⟨rfl, fun h => nomatch h⟩
theorem vshl8 (o : R3Ops) : Statement (.vshl8 o) := ⟨rfl, fun h => nomatch h⟩
theorem vshl16 (o : R3Ops) : Statement (.vshl16 o) := ⟨rfl, fun h => nomatch h⟩
theorem vshl32 (o : R3Ops) : Statement (.vshl32 o) := ⟨rfl, fun h => nomatch h⟩
theorem vshl64 (o : R3Ops) : Statement (.vshl64 o) := ⟨rfl, fun h => nomatch h⟩
theorem vshr8 (o : R3Ops) : Statement (.vshr8 o) := ⟨rfl, fun h => nomatch h⟩
theorem vshr16 (o : R3Ops) : Statement (.vshr16 o) := ⟨rfl, fun h => nomatch h⟩
theorem vshr32 (o : R3Ops) : Statement (.vshr32 o) := ⟨rfl, fun h => nomatch h⟩
theorem vshr64 (o : R3Ops) : Statement (.vshr64 o) := ⟨rfl, fun h => nomatch h⟩
theorem vsra8 (o : R3Ops) : Statement (.vsra8 o) := ⟨rfl, fun h => nomatch h⟩
theorem vsra16 (o : R3Ops) : Statement (.vsra16 o) := ⟨rfl, fun h => nomatch h⟩
theorem vsra32 (o : R3Ops) : Statement (.vsra32 o) := ⟨rfl, fun h => nomatch h⟩
theorem vsra64 (o : R3Ops) : Statement (.vsra64 o) := ⟨rfl, fun h => nomatch h⟩
theorem vsel (o : R3Ops) : Statement (.vsel o) := ⟨rfl, fun h => nomatch h⟩
theorem vshufB (o : R3Ops) : Statement (.vshufB o) := ⟨rfl, fun h => nomatch h⟩
theorem vshufH (o : R3Ops) : Statement (.vshufH o) := ⟨rfl, fun h => nomatch h⟩
theorem vshufW (o : R3Ops) : Statement (.vshufW o) := ⟨rfl, fun h => nomatch h⟩
theorem vsplatH (o : DaOps) : Statement (.vsplatH o) := ⟨rfl, fun h => nomatch h⟩
theorem vsplatW (o : DaOps) : Statement (.vsplatW o) := ⟨rfl, fun h => nomatch h⟩
theorem vsplatD (o : DaOps) : Statement (.vsplatD o) := ⟨rfl, fun h => nomatch h⟩
theorem vextD (o : RisOps) : Statement (.vextD o) := ⟨rfl, fun h => nomatch h⟩
theorem vredF32 (o : R3xOps) : Statement (.vredF32 o) := ⟨rfl, fun h => nomatch h⟩
theorem vredF16 (o : R3xOps) : Statement (.vredF16 o) := ⟨rfl, fun h => nomatch h⟩
theorem vredBf16 (o : R3xOps) : Statement (.vredBf16 o) := ⟨rfl, fun h => nomatch h⟩
theorem viredI8 (o : R3Ops) : Statement (.viredI8 o) := ⟨rfl, fun h => nomatch h⟩
theorem viredI16 (o : R3Ops) : Statement (.viredI16 o) := ⟨rfl, fun h => nomatch h⟩
theorem viredI32 (o : R3Ops) : Statement (.viredI32 o) := ⟨rfl, fun h => nomatch h⟩
theorem viredI64 (o : R3Ops) : Statement (.viredI64 o) := ⟨rfl, fun h => nomatch h⟩
theorem vclmul (o : R3Ops) : Statement (.vclmul o) := ⟨rfl, fun h => nomatch h⟩
theorem vmulF32 (o : R3xOps) : Statement (.vmulF32 o) := ⟨rfl, fun h => nomatch h⟩
theorem vmulF16 (o : R3xOps) : Statement (.vmulF16 o) := ⟨rfl, fun h => nomatch h⟩
theorem vmulBf16 (o : R3xOps) : Statement (.vmulBf16 o) := ⟨rfl, fun h => nomatch h⟩
theorem vfmaF32 (o : R3xOps) : Statement (.vfmaF32 o) := ⟨rfl, fun h => nomatch h⟩
theorem vfmaF16 (o : R3xOps) : Statement (.vfmaF16 o) := ⟨rfl, fun h => nomatch h⟩
theorem vfmaBf16 (o : R3xOps) : Statement (.vfmaBf16 o) := ⟨rfl, fun h => nomatch h⟩
theorem vfmsF32 (o : R3xOps) : Statement (.vfmsF32 o) := ⟨rfl, fun h => nomatch h⟩
theorem vfmsF16 (o : R3xOps) : Statement (.vfmsF16 o) := ⟨rfl, fun h => nomatch h⟩
theorem vfmsBf16 (o : R3xOps) : Statement (.vfmsBf16 o) := ⟨rfl, fun h => nomatch h⟩
theorem vcvtF16F32 (o : CvOps) : Statement (.vcvtF16F32 o) := ⟨rfl, fun h => nomatch h⟩
theorem vcvtBf16F32 (o : CvOps) : Statement (.vcvtBf16F32 o) := ⟨rfl, fun h => nomatch h⟩
theorem vcvtF32F16 (o : CvOps) : Statement (.vcvtF32F16 o) := ⟨rfl, fun h => nomatch h⟩
theorem vcvtF32Bf16 (o : CvOps) : Statement (.vcvtF32Bf16 o) := ⟨rfl, fun h => nomatch h⟩
theorem vcvtNfF32 (o : CvfOps) : Statement (.vcvtNfF32 o) := ⟨rfl, fun h => nomatch h⟩
theorem vcvtF32Nf (o : CvfOps) : Statement (.vcvtF32Nf o) := ⟨rfl, fun h => nomatch h⟩
theorem vcvtI32F32 (o : CvOps) : Statement (.vcvtI32F32 o) := ⟨rfl, fun h => nomatch h⟩
theorem vcvtF32I32 (o : CvOps) : Statement (.vcvtF32I32 o) := ⟨rfl, fun h => nomatch h⟩
theorem vcvtN32F32 (o : CvOps) : Statement (.vcvtN32F32 o) := ⟨rfl, fun h => nomatch h⟩
theorem vcvtF32N32 (o : CvOps) : Statement (.vcvtF32N32 o) := ⟨rfl, fun h => nomatch h⟩
theorem vcvtsF16F32 (o : R3Ops) : Statement (.vcvtsF16F32 o) := ⟨rfl, fun h => nomatch h⟩
theorem vcvtsBf16F32 (o : R3Ops) : Statement (.vcvtsBf16F32 o) := ⟨rfl, fun h => nomatch h⟩
theorem vcvtsNfF32 (o : CsOps) : Statement (.vcvtsNfF32 o) := ⟨rfl, fun h => nomatch h⟩
theorem vrcpF32 (o : DaOps) : Statement (.vrcpF32 o) := ⟨rfl, fun h => nomatch h⟩
theorem vrcpF16 (o : DaOps) : Statement (.vrcpF16 o) := ⟨rfl, fun h => nomatch h⟩
theorem vrcpBf16 (o : DaOps) : Statement (.vrcpBf16 o) := ⟨rfl, fun h => nomatch h⟩
theorem vrsqF32 (o : DaOps) : Statement (.vrsqF32 o) := ⟨rfl, fun h => nomatch h⟩
theorem vrsqF16 (o : DaOps) : Statement (.vrsqF16 o) := ⟨rfl, fun h => nomatch h⟩
theorem vrsqBf16 (o : DaOps) : Statement (.vrsqBf16 o) := ⟨rfl, fun h => nomatch h⟩
theorem vexp2F32 (o : DaOps) : Statement (.vexp2F32 o) := ⟨rfl, fun h => nomatch h⟩
theorem vexp2F16 (o : DaOps) : Statement (.vexp2F16 o) := ⟨rfl, fun h => nomatch h⟩
theorem vexp2Bf16 (o : DaOps) : Statement (.vexp2Bf16 o) := ⟨rfl, fun h => nomatch h⟩
theorem vlog2F32 (o : DaOps) : Statement (.vlog2F32 o) := ⟨rfl, fun h => nomatch h⟩
theorem vlog2F16 (o : DaOps) : Statement (.vlog2F16 o) := ⟨rfl, fun h => nomatch h⟩
theorem vlog2Bf16 (o : DaOps) : Statement (.vlog2Bf16 o) := ⟨rfl, fun h => nomatch h⟩
theorem vrand (o : R3Ops) : Statement (.vrand o) := ⟨rfl, fun h => nomatch h⟩
theorem mmStart (o : MsOps) : Statement (.mmStart o) := ⟨rfl, fun h => nomatch h⟩
theorem mmStartLt (o : MslOps) : Statement (.mmStartLt o) := ⟨rfl, fun h => nomatch h⟩
theorem mmLdb (o : MbOps) : Statement (.mmLdb o) := ⟨rfl, fun h => nomatch h⟩
theorem mmScl (o : MqOps) : Statement (.mmScl o) := ⟨rfl, fun h => nomatch h⟩
theorem mmDrain (o : MdOps) : Statement (.mmDrain o) := ⟨rfl, fun h => nomatch h⟩
theorem mmZero (o : MaskOps) : Statement (.mmZero o) := ⟨rfl, fun h => nomatch h⟩
theorem mmCfg (o : R1aOps) : Statement (.mmCfg o) := ⟨rfl, fun h => nomatch h⟩
theorem xsend (o : XaOps) : Statement (.xsend o) := ⟨rfl, fun h => nomatch h⟩
theorem xrecv (o : XaOps) : Statement (.xrecv o) := ⟨rfl, fun h => nomatch h⟩
theorem xraddF32 (o : XaOps) : Statement (.xraddF32 o) := ⟨rfl, fun h => nomatch h⟩
theorem xraddF16 (o : XaOps) : Statement (.xraddF16 o) := ⟨rfl, fun h => nomatch h⟩
theorem xraddBf16 (o : XaOps) : Statement (.xraddBf16 o) := ⟨rfl, fun h => nomatch h⟩
theorem xraddI32 (o : XaOps) : Statement (.xraddI32 o) := ⟨rfl, fun h => nomatch h⟩
theorem phaseEnd (o : R1aOps) : Statement (.phaseEnd o) := ⟨rfl, fun h => nomatch h⟩
theorem gclkRd (o : R1dOps) : Statement (.gclkRd o) := ⟨rfl, fun h => nomatch h⟩
theorem gclkWait (o : R1aOps) : Statement (.gclkWait o) := ⟨rfl, fun h => nomatch h⟩
theorem gclkAln (o : ZOps) : Statement (.gclkAln o) := ⟨rfl, fun h => nomatch h⟩
theorem cardAdv (o : ZOps) : Statement (.cardAdv o) := ⟨rfl, fun h => nomatch h⟩
theorem cardIssue (o : R2Ops) : Statement (.cardIssue o) := ⟨rfl, fun h => nomatch h⟩
theorem recfl (o : R1aOps) : Statement (.recfl o) := ⟨rfl, fun h => nomatch h⟩
theorem recflPart (o : R1aOps) : Statement (.recflPart o) := ⟨rfl, fun h => nomatch h⟩
theorem tokClr (o : MaskOps) : Statement (.tokClr o) := ⟨rfl, fun h => nomatch h⟩
theorem semWait (o : SwOps) : Statement (.semWait o) := ⟨rfl, fun h => nomatch h⟩
theorem lnkSend (o : LkOps) : Statement (.lnkSend o) := ⟨rfl, fun h => nomatch h⟩
theorem lnkRecv (o : LkOps) : Statement (.lnkRecv o) := ⟨rfl, fun h => nomatch h⟩
theorem lnkRaddF32 (o : LkOps) : Statement (.lnkRaddF32 o) := ⟨rfl, fun h => nomatch h⟩
theorem lnkRaddBf16 (o : LkOps) : Statement (.lnkRaddBf16 o) := ⟨rfl, fun h => nomatch h⟩
theorem lnkRaddF16 (o : LkOps) : Statement (.lnkRaddF16 o) := ⟨rfl, fun h => nomatch h⟩
theorem lnkRaddI32 (o : LkOps) : Statement (.lnkRaddI32 o) := ⟨rfl, fun h => nomatch h⟩
theorem trig (o : ZOps) : Statement (.trig o) := ⟨rfl, fun h => nomatch h⟩
theorem fenceErr (o : ZOps) : Statement (.fenceErr o) := ⟨rfl, fun h => nomatch h⟩
theorem loopSet (o : LsOps) : Statement (.loopSet o) := ⟨rfl, fun h => nomatch h⟩
theorem loopSetRot (o : LsOps) : Statement (.loopSetRot o) := ⟨rfl, fun h => nomatch h⟩
theorem loopPair (o : LqOps) : Statement (.loopPair o) := ⟨rfl, fun h => nomatch h⟩
theorem loopEc (o : MaskOps) : Statement (.loopEc o) := ⟨rfl, fun h => nomatch h⟩
theorem rotClr (o : ZOps) : Statement (.rotClr o) := ⟨rfl, fun h => nomatch h⟩
theorem predRegion (o : PrOps) : Statement (.predRegion o) := ⟨rfl, fun h => nomatch h⟩
theorem predAnd (o : P3Ops) : Statement (.predAnd o) := ⟨rfl, fun h => nomatch h⟩
theorem predOr (o : P3Ops) : Statement (.predOr o) := ⟨rfl, fun h => nomatch h⟩
theorem predXor (o : P3Ops) : Statement (.predXor o) := ⟨rfl, fun h => nomatch h⟩
theorem predAndn (o : P3Ops) : Statement (.predAndn o) := ⟨rfl, fun h => nomatch h⟩
theorem predSet (o : PsOps) : Statement (.predSet o) := ⟨rfl, fun h => nomatch h⟩
theorem bundleIssue : Statement .bundleIssue := ⟨rfl, fun _ => rfl⟩
theorem pureDelay : Statement .pureDelay := ⟨rfl, fun _ => rfl⟩
theorem fetchLine : Statement .fetchLine := ⟨rfl, fun _ => rfl⟩
theorem imemLineReload : Statement .imemLineReload := ⟨rfl, fun _ => rfl⟩
theorem resultLanding : Statement .resultLanding := ⟨rfl, fun _ => rfl⟩
theorem unitClaim : Statement .unitClaim := ⟨rfl, fun _ => rfl⟩
theorem trapResume : Statement .trapResume := ⟨rfl, fun _ => rfl⟩
theorem scrubRead : Statement .scrubRead := ⟨rfl, fun _ => rfl⟩
theorem scrubWriteback : Statement .scrubWriteback := ⟨rfl, fun _ => rfl⟩
theorem releaseHoldEnd : Statement .releaseHoldEnd := ⟨rfl, fun _ => rfl⟩
theorem deckPrefetch : Statement .deckPrefetch := ⟨rfl, fun _ => rfl⟩
theorem cardGranule : Statement .cardGranule := ⟨rfl, fun _ => rfl⟩
theorem cardEnd : Statement .cardEnd := ⟨rfl, fun _ => rfl⟩
theorem tokenWaitEnd : Statement .tokenWaitEnd := ⟨rfl, fun _ => rfl⟩
theorem semWaitEnd : Statement .semWaitEnd := ⟨rfl, fun _ => rfl⟩
theorem gclkWaitEnd : Statement .gclkWaitEnd := ⟨rfl, fun _ => rfl⟩
theorem recflHoldEnd : Statement .recflHoldEnd := ⟨rfl, fun _ => rfl⟩
theorem fenceErrHoldEnd : Statement .fenceErrHoldEnd := ⟨rfl, fun _ => rfl⟩
theorem bistEnd : Statement .bistEnd := ⟨rfl, fun _ => rfl⟩
theorem margVSettled : Statement .margVSettled := ⟨rfl, fun _ => rfl⟩
theorem margLSweepEnd : Statement .margLSweepEnd := ⟨rfl, fun _ => rfl⟩
theorem linkPair : Statement .linkPair := ⟨rfl, fun _ => rfl⟩
theorem linkEnd : Statement .linkEnd := ⟨rfl, fun _ => rfl⟩
theorem routerSwitch : Statement .routerSwitch := ⟨rfl, fun _ => rfl⟩
theorem exchangePhaseEnd : Statement .exchangePhaseEnd := ⟨rfl, fun _ => rfl⟩
theorem barrierComplete : Statement .barrierComplete := ⟨rfl, fun _ => rfl⟩
theorem loomRepair : Statement .loomRepair := ⟨rfl, fun _ => rfl⟩
theorem loomSampleRound : Statement .loomSampleRound := ⟨rfl, fun _ => rfl⟩
theorem stragglerEvent : Statement .stragglerEvent := ⟨rfl, fun _ => rfl⟩
theorem launchStart : Statement .launchStart := ⟨rfl, fun _ => rfl⟩
theorem regionStart : Statement .regionStart := ⟨rfl, fun _ => rfl⟩
theorem contextLoss : Statement .contextLoss := ⟨rfl, fun _ => rfl⟩
theorem tinvRange : Statement .tinvRange := ⟨rfl, fun _ => rfl⟩
theorem tinvContext : Statement .tinvContext := ⟨rfl, fun _ => rfl⟩
theorem tinvAll : Statement .tinvAll := ⟨rfl, fun _ => rfl⟩
theorem tinvComplete : Statement .tinvComplete := ⟨rfl, fun _ => rfl⟩
theorem tagFreed : Statement .tagFreed := ⟨rfl, fun _ => rfl⟩
theorem hbmChannelRetire : Statement .hbmChannelRetire := ⟨rfl, fun _ => rfl⟩
theorem hbmRetireComplete : Statement .hbmRetireComplete := ⟨rfl, fun _ => rfl⟩
theorem cxlLinkTrain : Statement .cxlLinkTrain := ⟨rfl, fun _ => rfl⟩
theorem cxlPortDown : Statement .cxlPortDown := ⟨rfl, fun _ => rfl⟩
theorem checkpointSave : Statement .checkpointSave := ⟨rfl, fun _ => rfl⟩
theorem checkpointRestore : Statement .checkpointRestore := ⟨rfl, fun _ => rfl⟩
theorem checkpointSaveEnd : Statement .checkpointSaveEnd := ⟨rfl, fun _ => rfl⟩
theorem checkpointRestoreEnd : Statement .checkpointRestoreEnd := ⟨rfl, fun _ => rfl⟩
theorem ullerLinkDown : Statement .ullerLinkDown := ⟨rfl, fun _ => rfl⟩
theorem weftPortDown : Statement .weftPortDown := ⟨rfl, fun _ => rfl⟩
theorem weftLinkTrain : Statement .weftLinkTrain := ⟨rfl, fun _ => rfl⟩
theorem wrouteWrite : Statement .wrouteWrite := ⟨rfl, fun _ => rfl⟩
theorem shuttlePeriodStart : Statement .shuttlePeriodStart := ⟨rfl, fun _ => rfl⟩
theorem shmapWrite : Statement .shmapWrite := ⟨rfl, fun _ => rfl⟩
theorem shuttleFlitHop : Statement .shuttleFlitHop := ⟨rfl, fun _ => rfl⟩
theorem heddleTableWrite : Statement .heddleTableWrite := ⟨rfl, fun _ => rfl⟩
theorem migrationEpoch : Statement .migrationEpoch := ⟨rfl, fun _ => rfl⟩
theorem homeMove : Statement .homeMove := ⟨rfl, fun _ => rfl⟩
theorem homeMoveEnd : Statement .homeMoveEnd := ⟨rfl, fun _ => rfl⟩
theorem migrateHomeAll : Statement .migrateHomeAll := ⟨rfl, fun _ => rfl⟩
theorem triggerDelivered : Statement .triggerDelivered := ⟨rfl, fun _ => rfl⟩
theorem waitClosedStart : Statement .waitClosedStart := ⟨rfl, fun _ => rfl⟩
theorem launchEnd : Statement .launchEnd := ⟨rfl, fun _ => rfl⟩
theorem imageLoad : Statement .imageLoad := ⟨rfl, fun _ => rfl⟩
theorem imageLoadEnd : Statement .imageLoadEnd := ⟨rfl, fun _ => rfl⟩
theorem imageUnload : Statement .imageUnload := ⟨rfl, fun _ => rfl⟩
theorem imageForcedUnload : Statement .imageForcedUnload := ⟨rfl, fun _ => rfl⟩
theorem pdefWrite : Statement .pdefWrite := ⟨rfl, fun _ => rfl⟩
theorem queueCreate : Statement .queueCreate := ⟨rfl, fun _ => rfl⟩
theorem queueDisable : Statement .queueDisable := ⟨rfl, fun _ => rfl⟩
theorem queueThaw : Statement .queueThaw := ⟨rfl, fun _ => rfl⟩
theorem qtailWrite : Statement .qtailWrite := ⟨rfl, fun _ => rfl⟩
theorem queueHeadRead : Statement .queueHeadRead := ⟨rfl, fun _ => rfl⟩
theorem completionRecordWrite : Statement .completionRecordWrite := ⟨rfl, fun _ => rfl⟩
theorem sequencerSelect : Statement .sequencerSelect := ⟨rfl, fun _ => rfl⟩
theorem bind : Statement .bind := ⟨rfl, fun _ => rfl⟩
theorem quantumExpiry : Statement .quantumExpiry := ⟨rfl, fun _ => rfl⟩
theorem preemptRequest : Statement .preemptRequest := ⟨rfl, fun _ => rfl⟩
theorem killRequest : Statement .killRequest := ⟨rfl, fun _ => rfl⟩
theorem preemptWithdraw : Statement .preemptWithdraw := ⟨rfl, fun _ => rfl⟩
theorem contextSave : Statement .contextSave := ⟨rfl, fun _ => rfl⟩
theorem contextSaveEnd : Statement .contextSaveEnd := ⟨rfl, fun _ => rfl⟩
theorem restoreEnd : Statement .restoreEnd := ⟨rfl, fun _ => rfl⟩
theorem ctxareaWrite : Statement .ctxareaWrite := ⟨rfl, fun _ => rfl⟩
theorem tstopResume : Statement .tstopResume := ⟨rfl, fun _ => rfl⟩
theorem powerGood : Statement .powerGood := ⟨rfl, fun _ => rfl⟩
theorem b2LinkTest : Statement .b2LinkTest := ⟨rfl, fun _ => rfl⟩
theorem b3Election : Statement .b3Election := ⟨rfl, fun _ => rfl⟩
theorem electionRound : Statement .electionRound := ⟨rfl, fun _ => rfl⟩
theorem b4Enumeration : Statement .b4Enumeration := ⟨rfl, fun _ => rfl⟩
theorem b5Start : Statement .b5Start := ⟨rfl, fun _ => rfl⟩
theorem lprobe : Statement .lprobe := ⟨rfl, fun _ => rfl⟩
theorem lecho : Statement .lecho := ⟨rfl, fun _ => rfl⟩
theorem elect : Statement .elect := ⟨rfl, fun _ => rfl⟩
theorem enum : Statement .enum := ⟨rfl, fun _ => rfl⟩
theorem accept : Statement .accept := ⟨rfl, fun _ => rfl⟩
theorem refuse : Statement .refuse := ⟨rfl, fun _ => rfl⟩
theorem report : Statement .report := ⟨rfl, fun _ => rfl⟩
theorem lstart : Statement .lstart := ⟨rfl, fun _ => rfl⟩
theorem done : Statement .done := ⟨rfl, fun _ => rfl⟩
theorem enumTimeout : Statement .enumTimeout := ⟨rfl, fun _ => rfl⟩
theorem enumerationDeadline : Statement .enumerationDeadline := ⟨rfl, fun _ => rfl⟩
theorem ullerClaimGrant : Statement .ullerClaimGrant := ⟨rfl, fun _ => rfl⟩
theorem placementRun : Statement .placementRun := ⟨rfl, fun _ => rfl⟩
theorem placementEnd : Statement .placementEnd := ⟨rfl, fun _ => rfl⟩
theorem instkeyWrite : Statement .instkeyWrite := ⟨rfl, fun _ => rfl⟩
theorem activityStep : Statement .activityStep := ⟨rfl, fun _ => rfl⟩
theorem issueGatePair : Statement .issueGatePair := ⟨rfl, fun _ => rfl⟩
theorem droopAlarm : Statement .droopAlarm := ⟨rfl, fun _ => rfl⟩
theorem droopBelowFloor : Statement .droopBelowFloor := ⟨rfl, fun _ => rfl⟩
theorem thermalHot : Statement .thermalHot := ⟨rfl, fun _ => rfl⟩
theorem thermalCrit : Statement .thermalCrit := ⟨rfl, fun _ => rfl⟩
theorem overtempPowerOff : Statement .overtempPowerOff := ⟨rfl, fun _ => rfl⟩
theorem powerLimitGate : Statement .powerLimitGate := ⟨rfl, fun _ => rfl⟩
theorem rpctlWrite : Statement .rpctlWrite := ⟨rfl, fun _ => rfl⟩
theorem rthermWrite : Statement .rthermWrite := ⟨rfl, fun _ => rfl⟩
theorem mstagWrite : Statement .mstagWrite := ⟨rfl, fun _ => rfl⟩
theorem debugStopRequest : Statement .debugStopRequest := ⟨rfl, fun _ => rfl⟩
theorem debugStopWithdraw : Statement .debugStopWithdraw := ⟨rfl, fun _ => rfl⟩
theorem debugStopFreeze : Statement .debugStopFreeze := ⟨rfl, fun _ => rfl⟩
theorem traceSample : Statement .traceSample := ⟨rfl, fun _ => rfl⟩
theorem traceRecordWrite : Statement .traceRecordWrite := ⟨rfl, fun _ => rfl⟩
theorem trringWrite : Statement .trringWrite := ⟨rfl, fun _ => rfl⟩
theorem rcRead : Statement .rcRead := ⟨rfl, fun _ => rfl⟩
theorem registerWrite : Statement .registerWrite := ⟨rfl, fun _ => rfl⟩
theorem powerLoss : Statement .powerLoss := ⟨rfl, fun _ => rfl⟩
theorem ullerLinkTrain : Statement .ullerLinkTrain := ⟨rfl, fun _ => rfl⟩
theorem homeAccess : Statement .homeAccess := ⟨rfl, fun _ => rfl⟩
theorem managementWindowWrite : Statement .managementWindowWrite := ⟨rfl, fun _ => rfl⟩

end Sys2Proof.Laws.Worded
end

