-- ==== Sys2Proof/Laws/Slots.lean ====
section
/-! SUPPORT. What the shared operations of slot instructions do: the gate `issue`, the end of a slot, and the forms of
result. -/

namespace Sys2Proof.Machine

theorem issue_bundle (i : Instr) (g : BitVec 4) (eff : State → State) (s : State) (h : s.issuing g) :
    issue i g eff s = .next (eff s).close := by
  unfold issue; rw [if_pos h.1, if_pos h.2]

theorem issue_guarded (i : Instr) (g : BitVec 4) (eff : State → State) (s : State) (h : s.arg.bundle = true)
    (hg : s.core.rp g = false) : issue i g eff s = .next s.close := by
  unfold issue; rw [if_pos h, if_neg (by simp [hg])]

theorem issue_alone (i : Instr) (g : BitVec 4) (eff : State → State) (s : State) (h : s.arg.bundle = false) :
    (∀ s', s.vet 0 [slotWordOf i] = .stop s' → issue i g eff s = .next s') ∧
    (∀ v xs, s.vet 0 [slotWordOf i] = .go v xs →
      issue i g eff s = .next (if xs.isEmpty then v.act (fun c => c.advance true v.arg.idle)
        else { (if v.core.rp g then eff v.asSlot else v) with arg := v.arg }.finish)) := by
  unfold issue; rw [if_neg (by simp [h])]
  exact ⟨fun s' hs => by rw [hs], fun v xs hs => by rw [hs]⟩

namespace State

theorem close_mid (s : State) (h : s.arg.bundle = true) (hl : s.arg.last = false) : s.close = s := by
  simp [close, h, hl]
theorem close_last (s : State) (h : s.arg.last = true) : s.close = s.finish := by simp [close, h]
theorem close_alone (s : State) (h : s.arg.bundle = false) : s.close = s.finish := by simp [close, h]

/-- `Core.land` is one more result in flight. -/
theorem act_land (s : State) (sl : Slot) (op lat : Nat) (e : Effect) (n : Option NanInfo) :
    s.act (fun c => c.land sl op lat e n) = s.landing
      { due := s.core.ctl.cc + lat, issued := s.core.ctl.cc, slot := sl.num, cba := s.core.ctl.pc, op := op, eff := e, nan := n } :=
  rfl

/-- `Core.claim` is one more claim recorded. -/
theorem act_claim (s : State) (sl : Slot) (op off : Nat) (us : List (Nat × Nat)) (a : Action) (n : Option NanInfo) :
    s.act (fun c => c.claim sl op off us a n) = s.claiming
      { due := s.core.ctl.cc + off, issued := s.core.ctl.cc, slot := sl.num, cba := s.core.ctl.pc, op := op, units := us
        act := a, nan := n } :=
  rfl

theorem watchHit_unwatched (s : State) (w : Nat) (r1 r2 : List (Nat × Nat)) (h : s.unwatched) :
    watchHit s.core 61 w r1 r2 = none := by
  unfold watchHit
  rcases h with h | h | ⟨h0, h1⟩
  · simp [h]
  · simp [h]
  · split
    · rfl
    · have e0 : s.core.trap.wptm.getD 0 0 = s.core.trap.wptm[0] := by simp [Vector.getD]
      have e1 : s.core.trap.wptm.getD 1 0 = s.core.trap.wptm[1] := by simp [Vector.getD]
      simp only [show List.range 2 = [0, 1] from rfl, List.findSome?_cons, List.findSome?_nil, e0, e1]
      rw [if_pos (by rw [← Bool.not_and, h0]; rfl), if_pos (by rw [← Bool.not_and, h1]; rfl)]

/-- A result already in flight does not change what is landed afterwards. -/
@[simp] theorem landing_core_reg (s : State) (l : Landing) : (s.landing l).core.reg = s.core.reg := rfl
@[simp] theorem landing_core_mem (s : State) (l : Landing) : (s.landing l).core.mem = s.core.mem := rfl
@[simp] theorem landing_core_lands (s : State) (l : Landing) : (s.landing l).core.ctl.lands = s.core.ctl.lands ++ [l] := rfl
@[simp] theorem claiming_core_reg (s : State) (k : Claim) : (s.claiming k).core.reg = s.core.reg := rfl
@[simp] theorem claiming_core_mem (s : State) (k : Claim) : (s.claiming k).core.mem = s.core.mem := rfl
@[simp] theorem claiming_core_claims (s : State) (k : Claim) : (s.claiming k).core.ctl.claims = s.core.ctl.claims ++ [k] := rfl

end State

/-- An instruction whose whole effect is one result completes. -/
theorem slotGives_of {i : Instr} {g : BitVec 4} {sl : Slot} {op lat : Nat} {e : Effect} {eff : State → State} {s : State}
    (hi : exec i s = issue i g eff s) (he : eff s = s.act (fun c => c.land sl op lat e none)) :
    slotGives i g sl lat e s := by
  intro h
  exact ⟨_, ⟨rfl, rfl, rfl, rfl⟩, rfl, rfl, by rw [hi, issue_bundle _ _ _ _ h, he, State.act_land]⟩

theorem slotLanes_of {i : Instr} {g : BitVec 4} {sl : Slot} {op lat : Nat} {d : BitVec 6} {w n : Nat} {f : Nat → BitVec w}
    {x : Vec} {eff : State → State} {s : State} (hi : exec i s = issue i g eff s)
    (he : eff s = s.act (fun c => c.land sl op lat (.vreg (physV s.core.reg.rotb d) x) none))
    (hx : ∀ k, k < n → laneAt w x k = f k) : slotLanes i g sl lat d w n f s := by
  intro h
  exact ⟨_, x, ⟨rfl, rfl, rfl, rfl⟩, rfl, rfl, hx, by rw [hi, issue_bundle _ _ _ _ h, he, State.act_land]⟩

/-- The NaN that a result carries (rule R288). -/
theorem producedNan_spec (q : Fmt) (w n : Nat) (x : Vec) :
    (∀ k, producedNan q w n x = some k → k < n ∧ lane x w k % 2 ^ q.width = q.nanCode ∧
      ∀ j, j < k → lane x w j % 2 ^ q.width ≠ q.nanCode) ∧
    (producedNan q w n x = none → q.hasNan = true → ∀ k, k < n → lane x w k % 2 ^ q.width ≠ q.nanCode) := by
  unfold producedNan nanLane
  constructor
  · intro k hk
    split at hk
    · rw [List.find?_range_eq_some] at hk
      obtain ⟨h1, h2, h3⟩ := hk
      refine ⟨by simpa using h2, by simpa using h1, ?_⟩
      intro j hj; simpa using h3 j hj
    · simp at hk
  · intro hn hq k hk
    rw [if_pos hq, List.find?_range_eq_none] at hn
    simpa using hn k hk

theorem slotFloats_of {i : Instr} {g : BitVec 4} {sl : Slot} {op lat : Nat} {d : BitVec 6} {w n : Nat} {q : Fmt}
    {f : Nat → Nat} {x : Vec} {m : Nat → NanInfo} {eff : State → State} {s : State} (hi : exec i s = issue i g eff s)
    (he : eff s = s.act (fun c => c.land sl op lat (.vreg (physV s.core.reg.rotb d) x) ((producedNan q w n x).map m)))
    (hm : ∀ e, (m e).elem = some e) (hx : x = ofLanes w n f) (hw : w * n ≤ 2048) :
    slotFloats i g sl lat d w n q f s := by
  intro h
  have hs := producedNan_spec q w n x
  refine ⟨_, x, ⟨rfl, rfl, rfl, rfl⟩, rfl, ?_, ?_, ?_, ?_, by rw [hi, issue_bundle _ _ _ _ h, he, State.act_land]⟩
  · intro k hk; rw [hx]; exact laneAt_ofLanes w n f k hk hw
  · rw [hx, ofLanes, BitVec.toNat_ofNat]
    exact Nat.lt_of_le_of_lt (Nat.mod_le _ _) (by simpa using packLanes_lt w ((List.range n).map f))
  · intro y hy
    rw [Option.map_eq_some_iff] at hy
    obtain ⟨k, hk, rfl⟩ := hy
    obtain ⟨h1, h2, h3⟩ := hs.1 k hk
    refine ⟨k, hm k, h1, by rw [toNat_laneAt]; exact h2, ?_⟩
    intro j hj; rw [toNat_laneAt]; exact h3 j hj
  · intro hn hq k hk
    rw [toNat_laneAt]
    exact hs.2 (by simpa using hn) hq k hk

theorem slotClaims_of {i : Instr} {g : BitVec 4} {sl : Slot} {op off : Nat} {us : List (Nat × Nat)} {a : Action}
    {n : Option NanInfo} {eff : State → State} {s : State} (hi : exec i s = issue i g eff s)
    (he : eff s = s.act (fun c => c.claim sl op off us a n)) : slotClaims i g sl off us a s := by
  intro h
  exact ⟨_, ⟨rfl, rfl, rfl, rfl⟩, rfl, rfl, by rw [hi, issue_bundle _ _ _ _ h, he, State.act_claim]⟩

/-- An LM instruction without a matching watchpoint records its claim. -/
theorem lmAccess_unwatched (op : Nat) (f : Core → Access) (s : State) (h : s.unwatched) :
    lmAccess op f s = s.act (fun c => c.claim .lm op (f s.core).off (f s.core).units (f s.core).act (f s.core).nan) := by
  unfold lmAccess
  dsimp only
  rw [State.watchHit_unwatched s _ _ _ h]
  rfl

end Sys2Proof.Machine
end

