-- ==== Sys2Proof/Tests/Slice0.lean ====
section
/-! SUPPORT. Small tests of the model, and a witness for every statement that has hypotheses. The words in the decode tests are
written out bit by bit from the encodings of spec/10 to spec/13. -/

namespace Sys2Proof.Tests
open Sys2Proof.Machine

/-! ### Well-formedness: an ill-formed term for each check of rule R223 -/

theorem test_wf_shli : (Instr.shli false { g := 0, d := 1, a := 2, imm := 64 }).wf = false := by decide
theorem test_wf_shri : (Instr.shri false { g := 0, d := 1, a := 2, imm := 64 }).wf = false := by decide
theorem test_wf_srai : (Instr.srai true { g := 0, d := 1, a := 2, imm := 0xFF }).wf = false := by decide
theorem test_wf_cmp : (Instr.cmp false { g := 0, pd := 1, cc := 6, a := 2, b := 3 }).wf = false := by decide
theorem test_wf_cmpi : (Instr.cmpi false { g := 0, pd := 1, cc := 7, a := 2, imm := 3 }).wf = false := by decide
theorem test_wf_sysRd : (Instr.sysRd { g := 0, d := 1, n := 0x005 }).wf = false := by decide
theorem test_wf_sysWr : (Instr.sysWr { g := 0, a := 1, n := 0x000 }).wf = false := by decide
theorem test_wf_vextD : (Instr.vextD { g := 0, d := 1, a := 2, imm := 32 }).wf = false := by decide
theorem test_wf_vcvt : (Instr.vcvtF16F32 { g := 0, d := 1, a := 2, m := 4 }).wf = false ∧
    (Instr.vcvtBf16F32 { g := 0, d := 1, a := 2, m := 4 }).wf = false ∧
    (Instr.vcvtF32F16 { g := 0, d := 1, a := 2, m := 5 }).wf = false ∧
    (Instr.vcvtF32Bf16 { g := 0, d := 1, a := 2, m := 7 }).wf = false ∧
    (Instr.vcvtNfF32 { g := 0, d := 1, a := 2, m := 4, f := 1 }).wf = false ∧
    (Instr.vcvtF32Nf { g := 0, d := 1, a := 2, m := 4, f := 1 }).wf = false ∧
    (Instr.vcvtI32F32 { g := 0, d := 1, a := 2, m := 4 }).wf = false ∧
    (Instr.vcvtF32I32 { g := 0, d := 1, a := 2, m := 4 }).wf = false ∧
    (Instr.vcvtN32F32 { g := 0, d := 1, a := 2, m := 4 }).wf = false ∧
    (Instr.vcvtF32N32 { g := 0, d := 1, a := 2, m := 4 }).wf = false := by decide
theorem test_wf_mmDrain : (Instr.mmDrain { g := 0, a := 1, acc := 2, f := 3, m := 4, zr := 0 }).wf = false := by decide
theorem test_wf_masks : (Instr.mmZero { g := 0, mask := 0 }).wf = false ∧ (Instr.tokClr { g := 0, mask := 0 }).wf = false := by
  decide
theorem test_wf_cardIssue : (Instr.cardIssue { g := 0, a := 1, b := 62 }).wf = false := by decide
theorem test_wf_semWait : (Instr.semWait { g := 0, m := 1, n := 0 }).wf = false := by decide
theorem test_wf_loopSet : (Instr.loopSet { g := 0, l := 6, a := 1, len := 1 }).wf = false ∧
    (Instr.loopSet { g := 0, l := 5, a := 1, len := 0 }).wf = false ∧
    (Instr.loopSetRot { g := 0, l := 7, a := 1, len := 1 }).wf = false ∧
    (Instr.loopSetRot { g := 0, l := 5, a := 1, len := 0 }).wf = false := by decide
theorem test_wf_loopPair : (Instr.loopPair { g := 0, l := 6, j := 0, s := 1, b := 2 }).wf = false := by decide
theorem test_wf_predRegion : (Instr.predRegion { g := 0, p := 1, n := 0 }).wf = false := by decide

/-! ### Words written out field by field from rules R209, R211, R222 and the opcode maps R224 to R231 -/

theorem test_word_add : decodeSlot .sa (3#4 ++ 0x00#8 ++ 1#6 ++ 2#6 ++ 33#6 ++ 0#2) =
    .ok (.add false { g := 3, d := 1, a := 2, b := 33 }) := by decide
theorem test_word_addi : decodeSlot .sb (0#4 ++ 0x10#8 ++ 5#6 ++ 6#6 ++ 0xFF#8) =
    .ok (.addi true { g := 0, d := 5, a := 6, imm := 0xFF }) := by decide
theorem test_word_movi : decodeSlot .sa (0#4 ++ 0x18#8 ++ 7#6 ++ 0x2345#14) =
    .ok (.movi false { g := 0, d := 7, imm := 0x2345 }) := by decide
theorem test_word_cmp : decodeSlot .sa (0#4 ++ 0x20#8 ++ 4#4 ++ 5#3 ++ 8#6 ++ 9#6 ++ 0#1) =
    .ok (.cmp false { g := 0, pd := 4, cc := 5, a := 8, b := 9 }) := by decide
theorem test_word_br : decodeSlot .sb (0#4 ++ 0x80#8 ++ 0xFFFFE#20) = .ok (.br { g := 0, off := 0xFFFFE }) := by decide
theorem test_word_trap : decodeSlot .sb (0#4 ++ 0x89#8 ++ 0#4 ++ 0xBEEF#16) = .ok (.trap { g := 0, code := 0xBEEF }) := by
  decide
theorem test_word_sysRd : decodeSlot .sb (0#4 ++ 0x90#8 ++ 2#6 ++ 0x031#12 ++ 0#2) =
    .ok (.sysRd { g := 0, d := 2, n := 0x031 }) := by decide
theorem test_word_vadd : decodeSlot .va (0#4 ++ 0x00#8 ++ 1#6 ++ 2#6 ++ 3#6 ++ 1#2) =
    .ok (.vaddF32 { g := 0, d := 1, a := 2, b := 3, x := 1 }) := by decide
theorem test_word_loopSet : decodeSlot .lp (0#4 ++ 0x00#8 ++ 2#3 ++ 9#6 ++ 17#8 ++ 1#1 ++ 0#2) =
    .ok (.loopSetRot { g := 0, l := 2, a := 9, len := 17 }) := by decide
theorem test_word_predSet : decodeSlot .lp (0#4 ++ 0x14#8 ++ 6#4 ++ 1#1 ++ 0#15) =
    .ok (.predSet { g := 0, pd := 6, v := 1 }) := by decide
theorem test_word_mmStart : decodeSlot .mx (0#4 ++ 0x00#8 ++ 3#6 ++ 2#3 ++ 4#4 ++ 5#4 ++ 0#1 ++ 0#2) =
    .ok (.mmStart { g := 0, a := 3, acc := 2, fa := 4, fb := 5 }) := by decide
theorem test_word_xsend : decodeSlot .xc (0#4 ++ 0x00#8 ++ 3#6 ++ 0x3FFF#14) =
    .ok (.xsend { g := 0, a := 3, imm := 0x3FFF }) := by decide
theorem test_word_reserved : decodeSlot .sa (0#4 ++ 0x20#8 ++ 4#4 ++ 5#3 ++ 8#6 ++ 9#6 ++ 1#1) = .bad .illegalEncoding ∧
    decodeSlot .xc (0#4 ++ 0xFF#8 ++ 0#20) = .bad .illegalOpcode := by decide
theorem test_head : decodeHead (0#4 ++ 0#4 ++ 5#7 ++ 1#1 ++ 0x81#8 ++ 0x43#8) 12 =
    .bundle { idle := 5, safe := true, wm := 0x81, sp := 0x43 } := by decide

/-! ### Small states -/

/-- A core with some registers set: s1 = 5, s2 = -1, s3 = 64, s4 = 3, s5 = 0x100, and p1 = 1. -/
def trialRegs : Regs :=
  ((((Regs.reset.setS 1 5).setS 2 0xFFFFFFFFFFFFFFFF).setS 3 64).setS 4 3).setS 5 0x100 |>.setP 1 true

/-- A bundle whose checks have passed is issuing, and more slots follow. -/
def trial : State :=
  { State.reset with
    core := { Core.reset 0 with reg := trialRegs }
    arg := { Arg.none with bundle := true, last := false } }

/-- The same at the last slot of the bundle. -/
def trialLast : State := { trial with arg := { Arg.none with bundle := true } }

/-- What an instruction leaves in flight. -/
def effects (o : Out) : List Effect := match o with | .next t => t.core.ctl.lands.map (·.eff) | _ => []
def actions (o : Out) : List Action := match o with | .next t => t.core.ctl.claims.map (·.act) | _ => []
/-- What holds of the next state. -/
def after (o : Out) (p : State → Bool) : Bool := match o with | .next t => p t | _ => false

theorem trial_issues : trial.issuing 0 ∧ trial.issuing 1 ∧ trialLast.issuing 0 := ⟨⟨rfl, by decide⟩, ⟨rfl, by decide⟩, ⟨rfl, by decide⟩⟩

/-! ### Results, by hand from rules R240 to R244 and R267 -/

theorem test_add_wraps : effects (exec (.add false { g := 0, d := 9, a := 1, b := 2 }) trial) = [.sreg 9 4] := by decide
theorem test_sub : effects (exec (.sub true { g := 0, d := 9, a := 4, b := 1 }) trial) = [.sreg 9 0xFFFFFFFFFFFFFFFE] := by decide
theorem test_andn : effects (exec (.andn false { g := 0, d := 9, a := 2, b := 1 }) trial) = [.sreg 9 0xFFFFFFFFFFFFFFFA] := by decide
theorem test_shl_by_width : effects (exec (.shl false { g := 0, d := 9, a := 1, b := 3 }) trial) = [.sreg 9 0] := by decide
theorem test_sra_by_width : effects (exec (.sra false { g := 0, d := 9, a := 2, b := 3 }) trial) = [.sreg 9 0xFFFFFFFFFFFFFFFF] := by
  decide
theorem test_min_signed : effects (exec (.min false { g := 0, d := 9, a := 1, b := 2 }) trial) = [.sreg 9 0xFFFFFFFFFFFFFFFF] ∧
    effects (exec (.minn false { g := 0, d := 9, a := 1, b := 2 }) trial) = [.sreg 9 5] := by decide
theorem test_mulh : effects (exec (.mulh { g := 0, d := 9, a := 2, b := 1 }) trial) = [.sreg 9 0xFFFFFFFFFFFFFFFF] ∧
    effects (exec (.mulhn { g := 0, d := 9, a := 2, b := 1 }) trial) = [.sreg 9 4] := by decide
theorem test_addsh : effects (exec (.addsh { g := 0, d := 9, a := 1, b := 4, x := 3 }) trial) = [.sreg 9 773] := by decide
theorem test_addi_negative : effects (exec (.addi true { g := 0, d := 9, a := 1, imm := 0xFF }) trial) = [.sreg 9 4] := by decide
theorem test_movis : effects (exec (.movis false { g := 0, d := 1, imm := 0x3FFF }) trial) = [.sreg 1 0x17FFF] := by decide
theorem test_cmp_unsigned : effects (exec (.cmp false { g := 0, pd := 3, cc := 4, a := 1, b := 2 }) trial) = [.preg 3 true] ∧
    effects (exec (.cmp false { g := 0, pd := 3, cc := 2, a := 1, b := 2 }) trial) = [.preg 3 false] := by decide
theorem test_cmpi_extends : effects (exec (.cmpi false { g := 0, pd := 3, cc := 4, a := 1, imm := 0x7F }) trial) = [.preg 3 true] := by
  decide
theorem test_pred_andn_p0 : effects (exec (.predAndn { g := 0, pd := 2, pa := 0, pb := 1 }) trial) = [.preg 2 false] := by decide
theorem test_rotating : effects (exec (.movi false { g := 0, d := 40, imm := 1 }) { trial with
    core := { trial.core with reg := { trialRegs with rotb := { Rotb.reset with srb := 31 } } } }) = [.sreg 39 1] := by decide
theorem test_guard_false : exec (.add false { g := 2, d := 9, a := 1, b := 2 }) trial = .next trial := by rfl
theorem test_branch_back : after (exec (.br { g := 0, off := 0xFFFFF }) trial) (fun t => t.core.ctl.taken == some 0x3FFFC) = true := by
  decide
theorem test_branch_indirect : after (exec (.brInd { g := 0, a := 2 }) trial) (fun t => t.core.ctl.taken == some 0x3FFFC) = true := by
  decide
theorem test_load_address : actions (exec (.ldI32 { g := 0, d := 9, a := 5, imm := 0xFF }) trial) = [.load 0xFC 4 true 9] := by decide
theorem test_store_bytes : actions (exec (.stH { g := 0, d := 2, a := 1, imm := 0 }) trial) = [.store 4 [0xFF, 0xFF]] := by decide
theorem test_local_wraps : actions (exec (.ldI8 { g := 0, d := 9, a := 2, imm := 0 }) trial) = [.load 0x23FFFF 1 true 9] := by decide
theorem test_sysWr : effects (exec (.sysWr { g := 0, a := 1, n := 0x080 }) trial) = [.sysw 0x080 5] := by decide
theorem test_fmtWr_reserved : effects (exec (.fmtWr { g := 0, f := 3, a := 2 }) trial) = [.fmt 3 0x07FFFFC7] := by decide
theorem test_loop_skip : after (exec (.loopSet { g := 0, l := 2, a := 0, len := 4 }) trial) (fun t => t.core.ctl.skip == some 4) = true := by
  decide
theorem test_xsend_address : actions (exec (.xsend { g := 0, a := 5, imm := 1 }) trial) = [.xsend 0x200] := by decide +kernel
theorem test_tokClr : effects (exec (.tokClr { g := 0, mask := 0x81 }) trial) = [.tokClr 0x81] := by decide
theorem test_phaseEnd : after (exec (.phaseEnd { g := 0, a := 0 }) trial) (fun t => t.core.ctl.mode == .barrier) = true := by decide
theorem test_halt : after (exec (.halt { g := 0 }) trial) (fun t => t.core.ctl.mode == .halted) = true := by decide
theorem test_rand32 : rand32 1 0 = 0x514E28B7 ∧ rand32 0 0 = 0 := by decide

/-! The worked example of file 09 (one bundle), and the index of the worked example of file 00. -/

theorem test_example_head : decodeHead 0x00040215 0 = .bundle { idle := 2, safe := false, wm := 2, sp := 0x15 } := by decide
theorem test_example_words : decodeSlot .sa 0x00014518 = .ok (.add false { g := 0, d := 5, a := 5, b := 6 }) ∧
    decodeSlot .lm 0x010A0501 = .ok (.vld { g := 0, d := 40, a := 5, imm := 1 }) ∧
    decodeSlot .vm 0x9042A8A4 = .ok (.vfmaF32 { g := 9, d := 10, a := 40, b := 41, x := 0 }) := by decide
theorem test_example_core : regionOf 17770 = 2 ∧ reticleOf 17770 = 17 ∧ tileOf 17770 = tileOf 17771 := by decide

/-! ### Witnesses: for each statement with hypotheses a state and operands that meet them -/

/-- A state with its acting core changed. -/
def trialCore (f : Core → Core) : State := trial.act f
/-- A state made ready for an event with given operands, on cycle 1000. -/
def eventAt (a : Arg) : State := { State.reset with cycle := 1000, arg := a, agenda := [] }
/-- The same with its module changed. -/
def portState (f : Module → Module) : State := { eventAt Arg.none with module := f Module.reset }

theorem witness_ScalarResultsComplete : trial.issuing 0 ∧ (0#3).toNat ≤ 5 ∧ (5#3).toNat ≤ 5 := ⟨trial_issues.1, by decide⟩
theorem witness_PredicateLogic : trial.issuing 0 ∧ (PsOps.read 0x00008000).v = 1 ∧ (0#4 : BitVec 4) = 0 := ⟨trial_issues.1, by decide⟩

def branching : Core := { (Core.reset 0) with ctl := { Ctl.reset with
  redirects := [{ left := 1, target := 0x40 }, { left := 2, target := 0x80 }], taken := some 0xC0 } }
theorem witness_BranchesComplete : trial.issuing 0 ∧
    branching.ctl.redirects.find? (fun r => r.left == 1 || r.left == 0) = some { left := 1, target := 0x40 } ∧
    (∃ r ∈ branching.ctl.redirects, 1 < r.left) ∧ branching.ctl.taken = some 0xC0 ∧
    (Core.reset 0).ctl.redirects = [] ∧ (Core.reset 0).ctl.skip = none ∧
    (Core.reset 0).reg.loops.toList.all (fun l => !l.act) = true := by
  refine ⟨trial_issues.1, ?_⟩; decide

def someShadow : Shadow :=
  { rotb := .reset, loops := Vector.replicate 6 .reset, pairs := Vector.replicate 24 .reset, redirects := [], redo := 0
    lands := [], claims := [], base := 0, parity := 0, waits := false, safe := false, more := 0, page := [] }
def inHandler (c : Core) : Core :=
  { c with trap := { c.trap with tcause := 0x8000000000000006, shadow := some someShadow } }
theorem witness_HaltCompletes : trial.issuing 0 ∧ (trialCore inHandler).issuing 0 ∧ (trialCore inHandler).core.inTrap = true ∧
    (trialCore inHandler).core.trap.shadow = some someShadow ∧ trial.core.inTrap = false := by
  refine ⟨trial_issues.1, ⟨rfl, by decide⟩, ?_⟩; decide

/-- A running core whose trap handler starts at 0x100. -/
def running (c : Core) : Core :=
  { c with ctl := { c.ctl with mode := .running }, trap := { c.trap with tvec := 0x8000000000000100 } }
theorem witness_TrapAndReturnComplete : trial.issuing 0 ∧
    let s := trialLast.act running
    s.issuing 0 ∧ s.arg.last = true ∧ s.core.inX = false ∧ s.core.inTrap = false ∧ s.core.ctl.mode = .running ∧
      s.core.ctl.hold = none ∧ s.core.trap.pend = [] ∧ s.core.trap.returning = false ∧
      s.core.trap.tvec.getLsbD 63 = true ∧ s.core.ctl.skip = none ∧ s.core.ctl.passed = false ∧
      (s.act (fun c => { c with ctl := { c.ctl with passed := true } })).core.ctl.passed = true := by
  refine ⟨trial_issues.1, ⟨rfl, by decide⟩, ?_⟩; decide
theorem witness_SystemRegistersComplete : trial.issuing 0 ∧ trial.core.ctl.rdLatch = none ∧
    (trialCore (fun c => { c with ctl := { c.ctl with rdLatch := some 7 } })).issuing 0 ∧
    (trialCore (fun c => { c with ctl := { c.ctl with rdLatch := some 7 } })).core.ctl.rdLatch = some 7 :=
  ⟨trial_issues.1, rfl, ⟨rfl, by decide⟩, rfl⟩
theorem witness_SystemRegisterFields : (0x110 ≤ (0x110#12).toNat ∧ (0x117#12).toNat ≤ 0x117) ∧ sysWritable 0x000 = false ∧
    sysWritable 0x10E = false := by decide
theorem witness_SelfTestsComplete : trial.issuing 0 ∧ trial.core.aux.grant = false ∧
    (let x := slotWordOf (.sysBist { g := 0, a := 1, b := 2 });
     x.dec = .ok (.sysBist { g := 0, a := 1, b := 2 }) ∧ trial.core.guard x = true ∧
       trial.testRefusal (.sysBist { g := 0, a := 1, b := 2 }) = some 1) := ⟨trial_issues.1, by decide⟩

def watched (c : Core) : Core := { c with trap := { c.trap with
  wptb := c.trap.wptb.set 0 0x100, wptm := c.trap.wptm.set 0 0xB000000000000003 } }
theorem witness_LocalAccessesComplete : trial.unwatched ∧ trial.issuing 0 ∧
    (let s := trialCore watched
     s.issuing 0 ∧ s.core.inX = false ∧ s.core.inTrap = false ∧ s.core.trap.wptb[0] = 0x100 ∧
       bits 0x100 21 0 = risAddr s.core { g := 0, d := 9, a := 5, imm := 0 } 8 ∧
       s.core.trap.wptm[0] = 0xB000000000000003) :=
  ⟨.inr (.inr ⟨by decide, by decide⟩), trial_issues.1, ⟨rfl, by decide⟩, by decide⟩
theorem witness_GathersAndScattersComplete : trial.unwatched ∧ trial.issuing 0 :=
  ⟨.inr (.inr ⟨by decide, by decide⟩), trial_issues.1⟩
/-- The lane, product, conversion, matrix, loom-count, record, link and loop statements ask for an issue alone. -/
theorem witness_FloatLanesComplete : trial.issuing 0 := trial_issues.1
theorem witness_IntegerLanesComplete : trial.issuing 0 := trial_issues.1
theorem witness_LaneMovementCompletes : trial.issuing 0 := trial_issues.1
theorem witness_ProductLanesComplete : trial.issuing 0 := trial_issues.1
theorem witness_ConversionsComplete : trial.issuing 0 := trial_issues.1
theorem witness_MatrixInstructionsComplete : trial.issuing 0 ∧ 0 < 64 := ⟨trial_issues.1, by decide⟩
theorem witness_ExchangeClaimsComplete : trial.issuing 0 ∧
    (trial.core.mem.ejected.find? (fun e => e.1 == trial.cycle - 2)).isNone = true ∧
    (let s := { trialCore (fun c => { c with mem := { c.mem with ejected := [(8, 5, 0)] } }) with cycle := 10 }
     s.issuing 0 ∧ (s.core.mem.ejected.find? (fun e => e.1 == s.cycle - 2)).isSome = true) :=
  ⟨trial_issues.1, by decide, ⟨rfl, by decide⟩, by decide⟩
theorem witness_RecordFlushesComplete : trial.issuing 0 := trial_issues.1
theorem witness_LinkInstructionsComplete : trial.issuing 0 := trial_issues.1

/-! Contexts -/

def trialImage : Image := { handle := 1, dpa := 0x1000, size := 0x1000, rev := 1, pwid := 1, pht := 1 }
def trialLaunch : Launch := { queue := 3, slot := 5, words := List.replicate 16 0, sseq := 1 }
def trialContext (g : Stage) : Context :=
  { tag := 7, launch := trialLaunch, image := trialImage, stage := g, phases := [{ xlen := 4, pcode := 0, budget := 100 }]
    starts := [], lastStart := 0, step := 0, lastArrival := 0, repairEnd := 0, x0 := none, xphase := none, start := 0, moved := 0
    fired := false, cut := false, trgDone := false, began := none, asked := false, losses := [], badBlocks := [], early := [] }
def trialLoss : Loss := { cause := 0x0E, core := 0, cba := 0, val := 0, loom := 0, step := 0, inX := false }
/-- Partition 0 is region 0, and holds a context. -/
def holding (x : Context) (s : State) : State := s.putPart 0 { Part.reset with pdef := 0x1401, ctx := some x }
def boundAt (x : Context) : State := holding x (eventAt Arg.none)

theorem witness_PhaseEndCompletes :
    let s := holding (trialContext .running) (trialCore (fun c => { c with sys := { c.sys with trctl := 2 } }))
    s.issuing 0 ∧ s.ctxOf s.core.idx = some (0, trialContext .running) ∧ s.core.sys.trctl.getLsbD 1 = true ∧
      s.core.aux.traceQ.length < 8 := ⟨⟨rfl, by decide⟩, by decide⟩
theorem witness_LoomInstructionsComplete : trial.issuing 0 ∧
    (trial.core.rs 0).toNat ≤ (trial.loomOf (reticleOf trial.core.idx)).toNat + 1 ∧
    (trial.loomOf (reticleOf trial.core.idx)).toNat + 1 < (trial.core.rs 4).toNat := ⟨trial_issues.1, by decide⟩

/-- A core whose engine holds a deck of one stage with one read card, of an empty box, and its record. -/
def deckCore (c : Core) : Core :=
  { c with
    sys := { c.sys with deckbase := 0x20, ctxrev := 1, rtlim := 2, tctx := 7 }
    aux := { c.aux with deck := [(0x20, 0x0001000000010001), (0x28, 0), (0x30, 0), (0x38, 0x5A5B5A5A5A5B5A5B), (0x40, 0),
      (0x60, 0x0000000100010000), (0x68, 0), (0x70, 0), (0x78, 0)] } }
def deckRecord : RecEntry :=
  { tag := 7, handle := 1, used := 0
    words := [0, 0x0001000000000100, 0, 0, 0, 0xA5A4A5A5A5A5A4A5, 1, 1, 0] ++ List.replicate 15 0 }
def releasing : State :=
  { (trialCore deckCore) with arg := Arg.none, blocks := [{ idx := 0, recs := [deckRecord] }] }
def settled (a : Settled) : Nat := match a with | .refused _ => 0 | .wait .. => 1 | .released _ => 2
/-- The release of a template needs no fetch; that of a stage whose deck is not buffered is held. -/
def unread (s : State) : State := s.act (fun c => { c with aux := { c.aux with deck := [] } })
theorem witness_CardReleasesComplete : trial.issuing 0 ∧
    (let clear := fun (s : State) (x : SlotWord) => let v := s.landNow
       s.arg.bundle = false ∧ v.core.rp 0 = true ∧ s.boundaryCause v true = none ∧ v.core.inX = false ∧
         v.core.ctl.passed = false ∧ v.preciseCause 0 [x] = none
     let plan := fun (s : State) (i : Bool) => let v := s.landNow
       planRelease v (if i then some (v.issueArgs 0 6) else none)
     let adv := slotWordOf (.cardAdv { g := 0 })
     let one := slotWordOf (.cardIssue { g := 0, a := 0, b := 6 })
     clear releasing adv ∧ clear releasing one ∧ clear (unread releasing) adv ∧ clear (unread releasing) one ∧
       (∀ i ∈ [false, true], holdLength (plan releasing i).2.s .none (plan releasing i).2.cost = 0 ∧
         settled (settlePlan (plan releasing i).2.s (plan releasing i).1) = 2) ∧
       ∀ i ∈ [false, true], (plan (unread releasing) i).2.cost.deck ≠ 0) :=
  ⟨trial_issues.1, by decide +kernel⟩
/-- A look-up that fetches a word takes at least a cycle, whatever the free value. -/
theorem witness_held_release (s : State) (c : Cost) (h : c.deck ≠ 0) : 0 < holdLength s .none c := by
  have : c.walks + c.deck + c.recs ≠ 0 := by omega
  simp only [holdLength, if_neg this]; omega

def trialCard : Card :=
  { id := 4, core := 0, op := .read, handle := 1, pt := 2, scope := 0, rel := false, acq := false, atop := 0, fmt := 0, group := 9
    edges := [], ancestors := [], granules := [], reach := [], buf := [], err := 0, ended := false, notBefore := 0
    endAt := some 900, pages := [], poisonedBlocks := [], startAt := some 500, legs := [], bound := 64, blocked := 0
    released := 400 }
theorem witness_TokensAndSemaphoresComplete :
    let s := trialCore (fun c => { c with reg := c.reg.setSem 1 3 })
    trial.issuing 0 ∧ s.core.ctl.passed = false ∧ (3#16).toNat ≤ (s.core.reg.getSem 1).toNat ∧
      (s.core.reg.getSem 1).toNat < (4#16).toNat ∧
      (let u := { s with cards := [trialCard], cycle := 1000 }
       ∃ c ∈ u.cards, c.core = u.core.idx ∧ c.released < u.cycle) ∧
      (∀ c ∈ s.cards, c.core = s.core.idx → s.cycle ≤ c.released) ∧ (∀ l ∈ s.links, l.core = s.core.idx → s.cycle ≤ l.issued) ∧
      s.core.sys.carderr.getLsbD 63 = false ∧
      (s.act (fun c => { c with sys := { c.sys with carderr := 0x8000000000000000 } })).core.sys.carderr.getLsbD 63 = true ∧
      s.linkFault 1 { g := 0, a := 1, b := 1, m := 0 } = none := by
  refine ⟨trial_issues.1, ?_⟩; decide
def trialLink (op : LinkOp) (id : Nat) : LinkXfer :=
  { id := id, core := 0, op := op, port := 7, tag := 5, addr := 0x100, len := 64, sem := 3, paired := none, moved := 0, err := 0
    endAt := none, issued := 10 }
/-- Eight link instructions of the core, and 256 posted receives at port 7 of another. -/
theorem witness_ninth_link :
    let s := { trial with links := (List.range 8).map (trialLink .send) }
    let o : LkOps := { g := 0, a := 1, b := 1, m := 0 }
    let u := { (trialCore (fun c => { c with reg := c.reg.setS 6 0x700000100 })) with
      links := (List.range 256).map (fun i => { trialLink .recv i with core := 1 }) }
    8 ≤ (s.links.filter (fun l => l.core == s.core.idx)).length ∧ s.linkFault 4 o = some 3 ∧
      (∀ w ∈ [1, 2, 4], s.linkFault w { o with b := 3 } = none) ∧
      bits (u.core.rs 6) 37 32 = 7 ∧
      256 ≤ (u.links.filter (fun l => l.port == bits (u.core.rs 6) 37 32 && l.paired.isNone && l.op != .send)).length ∧
      (∀ w ∈ [1, 2, 4], u.linkFault w { o with a := 6, b := 3 } = none) := by decide +kernel
theorem witness_TrigCompletes : trial.issuing 0 ∧ trial.core.aux.trigger = none ∧
    (let s := trialCore (fun c => { c with aux := { c.aux with trigger := some [] } })
     s.issuing 0 ∧ s.core.aux.trigger.isSome = true) := ⟨trial_issues.1, rfl, ⟨rfl, by decide⟩, rfl⟩
theorem witness_LoopsComplete : trial.issuing 0 ∧ (trial.core.rs 1).toNat ≠ 0 ∧ (trial.core.rs 0).toNat = 0 ∧
    trial.core.rp 1 = true ∧ trial.core.rp 2 = false := ⟨trial_issues.1, by decide⟩
def admitted (a : State.Admit) : Nat := match a with | .stop _ => 0 | .go _ [] => 1 | .go _ _ => 2
theorem witness_SlotsInBundles : (Instr.halt { g := 2 }).isSlot = true ∧ trial.arg.bundle = true ∧
    trial.core.rp ((Instr.halt { g := 2 }).word.extractLsb' 28 4) = false ∧ (eventAt Arg.none).arg.bundle = false ∧
    admitted ((eventAt Arg.none).vet 0 [slotWordOf (.halt { g := 2 })]) = 2 ∧
    (let o : Instr := .halt { g := 0 }
     admitted ((eventAt Arg.none).vet 0 [slotWordOf o]) = 2 ∧ (eventAt Arg.none).landNow.core.rp (o.word.extractLsb' 28 4) = true) ∧
    admitted ((eventAt Arg.none).vet 0 [slotWordOf (.sysBist { g := 0, a := 0, b := 0 })]) = 0 := by decide

/-- One result or one claim is due on core cycle 50. -/
def dueNow (e : Effect) : Landing := { due := 50, issued := 49, slot := 0, cba := 0, op := 0, eff := e, nan := none }
def claimNow_ (a : Action) : Claim := { due := 50, issued := 49, slot := 2, cba := 0, op := 0, units := [(0, 1)], act := a, nan := none }
def cycleOf (ls : List Landing) (ks : List Claim) : State :=
  (eventAt Arg.none).act (fun c => { c with ctl := { c.ctl with active := true, cc := 50, lands := ls, claims := ks } })
/-- Results that are due: every kind alone; several of one register, whose order counts; and none. -/
theorem witness_ResultLandingCompletes :
    ∀ es ∈ ([Effect.sreg 0 1, .sreg 63 1, .vreg 63 1, .preg 0 false, .preg 15 true, .accZero 0x81, .scale 3 1, .fmt 15 1, .tokClr 0xFF,
        .loopSet 5 .reset, .loopPair 23 .reset, .loopEc 7, .rotClr, .latch 0 1, .step 7 0 0 0 0 0 0].map (fun e => [dueNow e])) ++
        [[], [dueNow (.sreg 5 1), { dueNow (.sreg 5 2) with issued := 48 }, { dueNow (.sreg 5 3) with slot := 1 }]],
      let v := (cycleOf es []).ownCore
      v.core.ctl.active = true ∧ v.core.ctl.lands.filter (fun x => x.due == v.core.ctl.cc) = es ∧
        (∀ l ∈ es, l.nan = none ∧ Core.isBack l.eff = false) ∧ v.core.aux.sumHits = [] ∧
        (es.all (fun l => match l.eff with | .step .. => false | _ => true) = true → v.boundaryCause v.landNow false = none) := by
  decide +kernel
/-- A bundle at the END of levels 0 and 1, of which the inner one counts on, drains or has ended, and the outer one rotates. -/
def looping (n : BitVec 32) (rot : Bool) : Core :=
  let g := (Regs.reset.setLoop 0 { act := true, rot := rot, len := 1, start := 0x40, cnt := n, stop := 0x80 }).setLoop 1
    { act := true, rot := true, len := 2, start := 0x20, cnt := 5, stop := 0x80 }
  { (Core.reset 0) with reg := { g.setPair 4 { v := true, reg := 7, stride := 0xFFFFFFFF } with rotb := { Rotb.reset with ec := 2 } }
                        ctl := { Ctl.reset with pc := 0x80 } }
theorem witness_back_edges :
    (∀ x ∈ [(looping 2 false), looping 1 true, looping 1 false],
      (List.range 6).filter (fun l => (x.reg.getLoop l).act && (x.reg.getLoop l).stop == x.ctl.pc) = [0, 1] ∧ x.ctl.redirects = [] ∧
        x.ctl.skip = none) ∧
    (List.range 6).filter (fun l => ((Core.reset 0).reg.getLoop l).act) = [] ∧ (0 < (looping 1 true).reg.rotb.ec.toNat) ∧
    (let r : Redirect := { left := 1, target := 0x100 }
     ({ looping 2 false with ctl := { (looping 2 false).ctl with redirects := [r] } }).ctl.redirects = [r]) := by decide
/-- A claim of each kind, on a word beyond correction and one that is correctable. -/
theorem witness_UnitClaimCompletes :
    ∀ a ∈ [Action.store 0x100 [1, 2], .load 0x100 8 false 3, .load 0x200000 1 true 3, .vload 0x100 3, .bcast 0x100 3,
        .gather 2 [some 0x100, none] 3, .gather 4 [none, some 0x200000] 3, .scatter [(0x100, [1, 2])], .scl 0x100 3, .drain 0x100 [1, 2],
        .step 7 0 0 0 0 { base := 0x100, pitch := 96 } none 0, .step 7 0 0 0 0 { base := 0x100, pitch := 96 } (some { base := 0x800, pitch := 96 }) 0,
        .ldb { base := 0x100, pitch := 96 } 0, .xsend 0x100, .xrecv 0x100 5 1, .xradd 0x100 .f16 none, .xradd 0x100 .i32 (some (5, 1))],
      let s := holding (trialContext .running) (cycleOf [] [claimNow_ a])
      let v := (s.act (fun c => { c with mem := { c.mem with bad := [0x10, 0x20000], soft := [0x11] } })).ownCore
      v.core.ctl.active = true ∧ v.core.ctl.claims.filter (fun x => x.due == v.core.ctl.cc) = [claimNow_ a] ∧
        v.core.mem.bad.contains (0x100 / 16) = true ∧ v.core.mem.bad.contains 0x11 = false ∧ v.core.mem.soft.contains 0x11 = true ∧
        v.core.sys.carderr.getLsbD 63 = false ∧ v.ctxOf v.core.idx = some (0, trialContext .running) := by decide +kernel
/-- Two claims that meet on unit 0, the one that loses a load, a vector load, an XSEND or a store; and with users 5 and 1 the later
is served. -/
theorem witness_conflicts :
    ∀ a ∈ [Action.load 0x100 8 false 3, .vload 0x100 3, .xsend 0x100, .store 0x100 [1]],
      let k := { claimNow_ (.store 0x200 [7]) with units := [(0, 1)] }
      let l := { claimNow_ a with units := [(0, 5)] }
      let v := (holding (trialContext .running) (cycleOf [] [k, l])).ownCore
      v.core.ctl.active = true ∧ v.core.ctl.claims.filter (fun x => x.due == v.core.ctl.cc) = [k, l] ∧ unitOf 0x100 = 0 ∧
        v.ctxOf v.core.idx = some (0, trialContext .running) := by decide +kernel
theorem witness_MemoryReadAfterWrite : Memory.empty.wf = true ∧ (Memory.empty.write 5 [0, 7]).wf = true ∧
    (Memory.empty.write 5 [0, 7]).cells = [(6, 7)] := by decide

/-- A core at bundle address 0 whose IMEM holds given words. -/
def codeAt0 (ws : List Word32) : State :=
  (eventAt Arg.none).act (fun c => { (running c) with
    mem := { c.mem with imem := c.mem.imem.write 0 (ws.flatMap (fun w => toBytes 4 w.toNat)) } })
def headIs (s : State) (w : Word32) (slots : List Slot) : Bool :=
  let v := s.ownCore
  let a := v.core.ctl.pc
  let u := (v.act (fun c => { c with ctl := { c.ctl with
    pc := a, dueAt := some (c.ctl.dueAt.getD v.cycle), hold := none, active := true } })).fetchFor a
  v.core.locate a == (a, false) && !((u.core.captured a).isNone && (u.core.lineAt (Core.lineOf a)).poison) && !u.core.inX &&
    u.core.bundleHead a == w && admitted (u.vet 0 (decodeSlots slots (u.core.bundleWords a slots.length))) == (if slots.isEmpty then 1 else 2)
theorem witness_BundleIssueCompletes :
    headIs (codeAt0 [0x00000001, 0x00014518]) 0x00000001 [.sa] = true ∧
    decodeHead 0x00000001 0 = .bundle { idle := 0, safe := false, wm := 0, sp := 1 } ∧
    headIs (codeAt0 [0x00060000]) 0x00060000 [] = true ∧
    decodeHead 0x00060000 0 = .delay { idle := 3, safe := false, wm := 0, sp := 0 } := by decide +kernel
/-- Every reticle's count runs, from cycle 0. -/
def loomRuns (s : State) : State :=
  { s with reticles := s.reticles.map (fun x => { x with loomOn := true, loomBase := 0 }) }
/-- What is about to issue at bundle address 0, with the state that has fetched it. -/
structure Due where
  u : State
  h : Head
  xs : List SlotWord
def dueAt (s : State) : Option Due :=
  let v := s.ownCore
  let a := v.core.ctl.pc
  let u := (v.act (fun c => { c with ctl := { c.ctl with
    pc := a, dueAt := some (c.ctl.dueAt.getD v.cycle), hold := none, active := true } })).fetchFor a
  match decodeHead (u.core.bundleHead a) (Core.wordOf a) with
  | .bundle h => if v.core.locate a == (a, false) && !u.core.unsound a then
      some { u := u, h := h, xs := decodeSlots h.slots (u.core.bundleWords a (h.words - 1)) } else none
  | _ => none
def dueHas (s : State) (p : Due → Core → Bool) : Bool :=
  match dueAt s with | some d => p d d.u.landNow.core | none => false
/-- No cause stands before those of the bundle's slots. -/
def noneBefore (d : Due) : Bool := (d.u.boundaryCause d.u.landNow true).isNone && !d.u.core.inX && !d.u.core.ctl.passed
def soundSlots (d : Due) (c : Core) : Bool := d.xs.all (fun x => (c.slotFault x).isNone) && (Core.clashing d.xs).isEmpty
/-- The words of instructions, in one bundle behind a head word. -/
def coded (h : Word32) (is : List Instr) : State := codeAt0 (h :: is.map Instr.word)
def addTo (b : Bool) (d : BitVec 6) : Instr := .add b { g := 0, d := d, a := 5, b := 6 }
theorem witness_malformed : decodeHead ((codeAt0 [0x01000001]).ownCore.core.bundleHead 0) 0 = .malformed := by decide +kernel
def faultySlots (h w : Word32) : Bool :=
  dueHas (codeAt0 [h, w]) (fun d c => noneBefore d && d.xs.all (fun x => (c.slotFault x).isSome))
theorem witness_encoding_fault : faultySlots 0x00000002 0x030261A0 = true := by decide +kernel
theorem witness_trap_mode_fault : faultySlots 0x00000002 (Instr.word (.tret { g := 0 })) = true := by decide +kernel
theorem witness_operand_fault : faultySlots 0x00000020 (Instr.word (.mmStart { g := 0, a := 1, acc := 0, fa := 1, fb := 1 })) = true := by
  decide +kernel
theorem witness_clash : dueHas (coded 0x00000003 [addTo false 5, addTo true 5]) (fun d c => noneBefore d &&
    d.xs.all (fun x => (c.slotFault x).isNone) && !(Core.clashing d.xs).isEmpty) = true := by decide +kernel
theorem witness_phase_illegal : dueHas (coded 0x00000040 [.xsend { g := 0, a := 5, imm := 0 }]) (fun d c => noneBefore d && soundSlots d c &&
    d.xs.any (fun x => x.slot == .xc && decide ((opcodeOf x.word).toNat ≤ 5))) = true := by decide +kernel
theorem witness_phase_number :
    dueHas ((coded 0x00000002 [.phaseEnd { g := 0, a := 0 }]).act (fun c => { c with sys := { c.sys with phnum := 1 } })) (fun d c =>
      noneBefore d && soundSlots d c && (c.rs 0).extractLsb' 0 32 != c.sys.phnum.extractLsb' 0 32) = true := by decide +kernel
theorem witness_window_cause :
    dueHas (loomRuns { coded 0x00000020 [.mmZero { g := 0, mask := 1 }] with cycle := 1001 }) (fun d c => noneBefore d && soundSlots d c &&
      (c.phaseCause d.xs).isNone && decide (d.u.loom.toNat % 2 ≠ c.side) && d.u.arr == 0) = true := by decide +kernel
theorem witness_bank_claim : dueHas (coded 0x00000004 [.ldI32 { g := 0, d := 3, a := 0, imm := 0 }]) (fun d c => noneBefore d &&
    soundSlots d c && (c.phaseCause d.xs).isNone && (c.windowCause d.u.arr d.u.loom.toNat d.xs).isNone &&
    match c.newClaims d.u.cycle d.xs with | [(_, off, [(g, n)])] => g == 0 && off == 1 && decide (n < 16) | _ => false) = true := by
  decide +kernel
theorem witness_bank_conflict :
    dueHas (coded 0x00000024 [.ldI32 { g := 0, d := 3, a := 0, imm := 0 }, .mmScl { g := 0, a := 0, q := 1 }]) (fun d c => noneBefore d &&
      soundSlots d c && (c.phaseCause d.xs).isNone && c.newClaims d.u.cycle d.xs == [(.lm, 1, [(0, 1)]), (.mx, 1, [(0, 7)])]) = true := by
  decide +kernel
/-- The bundle with token 0 in the state t, of which no cause stands before those of its tokens. -/
def withToken (h : Word32) (i : Instr) (t : Tok) : Bool :=
  dueHas ((coded h [i]).act (fun c => { c with reg := c.reg.setTok 0 t })) (fun d c => noneBefore d && soundSlots d c &&
    (c.phaseCause d.xs).isNone && (c.windowCause d.u.arr d.u.loom.toNat d.xs).isNone && (c.bankFault d.u.cycle d.xs).isNone &&
    c.bkptCause.isNone && (d.h.wm.getLsbD 0 || t == .pending))
theorem witness_wait_idle : withToken 0x00000101 (addTo false 5) .idle = true := by decide +kernel
theorem witness_clear_pending : withToken 0x00000040 (.tokClr { g := 0, mask := 1 }) .pending = true := by decide +kernel
/-- The bundle in exchange phase. -/
def inExchange (h : Word32) (ws : List Word32) : State := (holding { trialContext .running with xphase := some (1000, 40, 0) }
  (codeAt0 (h :: ws))).act (fun c => { c with sys := { c.sys with phnum := 1 <<< 32 } })
/-- In exchange phase: a bundle of which one slot is faulty, one is phase-illegal and one is sound; and one that waits. -/
theorem witness_exchange_slots :
    dueHas (inExchange 0x0000000B [Instr.word (addTo false 5), 0x030261A0,
        Instr.word (.vaddF32 { g := 0, d := 1, a := 2, b := 3, x := 1 })]) (fun d c =>
      d.u.core.inX && d.u.core.ctl.redo == 0 && (d.u.landNow.ctxOf c.idx).isSome &&
        d.xs.map (fun x => ((c.slotFault x).isSome, c.slotPhaseBad x)) == [(false, false), (true, false), (false, true)]) = true := by
  decide +kernel
theorem witness_exchange_wait :
    dueHas (inExchange 0x00000101 [Instr.word (addTo false 5)])
      (fun d c => d.u.core.inX && d.h.wm.getLsbD 0 && c.reg.getTok 0 == .idle) = true := by decide +kernel
theorem witness_FetchLineCompletes :
    let v := (eventAt { Arg.none with n := 4095 }).ownCore
    v.core.ctl.fbuf.any (fun l => l.num == 4095) = false ∧ v.core.ctl.fbuf.length < 4 ∧ (v.core.imemLine 4095).poison = false ∧
      (let u := ((eventAt Arg.none).act (fun c => { c with mem := { c.mem with imemBad := [0] } })).ownCore
       (u.core.imemLine 0).poison = true ∧ u.core.ctl.fbuf.any (fun l => l.num == 0) = false ∧ u.core.mem.codeLines.contains 0 = false) ∧
      (let u := ((eventAt Arg.none).act (fun c => { c with
         mem := { c.mem with imemBad := [0], imemSoft := [3], reload := [(0, 9)] } })).ownCore
       u.core.mem.reload.any (fun e => e.1 == 0) = true ∧ u.core.mem.imemSoft.contains (4 * 0 + 3) = true) := by decide +kernel

def trialCause : Cause :=
  { code := 6, sub := 8191, slot := 1, cba := 0x3FFFC, info := 1, nan := none, loom := none, key := (0, 0) }
theorem witness_TrapEntry :
    let c := running (Core.reset 0)
    c.inTrap = false ∧ c.trap.tvec.getLsbD 63 = true ∧ trialCause.code < 256 ∧ trialCause.sub < 2 ^ 13 ∧ trialCause.slot < 16 ∧
      trialCause.code ≠ 0x0B ∧ trialCause.code ≠ 0x0D ∧ trialCause.loom = none ∧
      (Core.reset 0).trap.tvec.getLsbD 63 = false ∧ (inHandler c).inTrap = true ∧
      (let s := boundAt (trialContext .running)
       s.partOf s.core.idx = some 0 ∧ relIndex 0 (pdefWid (s.part 0).pdef) s.core.idx < 2 ^ 16 ∧ bits (s.part 0).tstop 47 32 = 0) := by
  decide
/-- The entry of a fence error and of a NaN; the landing of a NaN, which is found or is not; and watchpoint 1, which a card's read
meets. -/
theorem witness_trap_causes :
    (let c := running (Core.reset 0)
     let fence := { trialCause with code := 0x0B }
     let nan := { trialCause with code := 0x0D, loom := some 77, nan := some (1, 2) }
     c.inTrap = false ∧ c.trap.tvec.getLsbD 63 = true ∧ fence.code = 0x0B ∧ fence.nan = none ∧ nan.code = 0x0D ∧ nan.loom = some 77 ∧
       nan.nan = some (1, 2) ∧ nan.sub < 2 ^ 13 ∧ nan.slot < 16) ∧
    (let n : NanInfo := { unit := 1, acc := 0, fa := 0, fb := 0, elem := some 3 }
     let l := { dueNow (.vreg 5 1) with nan := some n }
     let c := (Core.reset 0).applyEffect l.eff
     let on := { c with trap := { c.trap with tctl := 1 } }
     l.nan = some n ∧ n.elem = some 3 ∧ on.trap.tctl.getLsbD 0 = true ∧ on.inTrap = false ∧ on.trap.nanPend = none ∧ c.trap.tctl.getLsbD 0 = false) ∧
    (let s := (eventAt Arg.none).act (fun c => { c with trap := { c.trap with
       wptb := c.trap.wptb.set 1 0x105, wptm := c.trap.wptm.set 1 0xF000000000000003 } })
     s.core.inX = false ∧ s.core.inTrap = false ∧ watchHit s.core 62 57 [(0xF0, 0x18)] [] = some (1, 0x100) ∧
       bits (s.core.trap.wptb.getD 1 0) 56 0 / 2 ^ 3 * 2 ^ 3 = 0x100) := by decide +kernel
/-- A handler returns: to a bundle, after a FETCH_POISON while the line is reloaded, and behind PHASE.END, with and without a
further cause. -/
theorem witness_TrapResumeCompletes :
    let at_ := fun (f : Core → Core) => ((eventAt Arg.none).act (fun c => f (inHandler c))).ownCore
    let waits := fun (c : Core) => { c with trap := { c.trap with shadow := some { someShadow with waits := true } } }
    (let v := at_ id
     v.core.trap.shadow = some someShadow ∧ someShadow.parity < 2 ∧ someShadow.waits = false ∧ v.coreStopped v.core.idx = false ∧
       bits v.core.trap.tcause 7 0 ≠ 0x0F) ∧
    (let v := at_ (fun c => { c with
       trap := { c.trap with tcause := 0x800000000000000F }, mem := { c.mem with reload := [(0, 1200), (1, 1500)] } })
     bits v.core.trap.tcause 7 0 = 0x0F ∧ (v.core.trap.tepc.setWidth 18 : CodeAddr).toNat / 64 = 0 ∧
       v.core.trap.shadow = some someShadow ∧ ¬ ∀ e ∈ v.core.mem.reload, e.1 = 0 → e.2 ≤ v.cycle) ∧
    (let v := at_ (fun c => { waits c with trap := { (waits c).trap with pend := [{ trialCause with code := 0x0D }] } })
     v.core.trap.shadow = some { someShadow with waits := true } ∧ ∀ k ∈ v.core.trap.pend, 0x0D ≤ k.code) ∧
    (let v := at_ (fun c => { waits c with trap := { (waits c).trap with pend := [trialCause] } })
     State.firstPending { v.core with trap := { v.core.trap with tcause := 0 } } = some trialCause ∧ trialCause.code < 0x0D ∧
       v.core.trap.tvec.getLsbD 63 = false) ∧
    (let v := at_ (fun c => { waits c with trap := { (waits c).trap with pend := [trialCause], tvec := 0x8000000000000100 } })
     State.firstPending { v.core with trap := { v.core.trap with tcause := 0 } } = some trialCause ∧
       v.core.trap.tvec.getLsbD 63 = true) ∧
    (eventAt Arg.none).ownCore.core.trap.shadow = none := by decide

/-- The acting core is held. -/
def held (k : HoldKind) (s : State) : State :=
  s.act (fun c => { c with ctl := { c.ctl with hold := some { kind := k, since := 900, till := 1000, late := false } } })
theorem witness_WaitEndsComplete :
    (let v := ((codeAt0 [0x00000001, 0x00014518])).ownCore
     v.core.ctl.mode = .running ∧ v.awake v.core = true ∧ v.coreStopped v.core.idx = false ∧ v.coreDebug v.core.idx = false ∧
       v.core.trap.returning = false ∧ v.core.ctl.idle = 0 ∧ v.core.delayDue = false) ∧
    (let p := (planRelease releasing.landNow none).1
     let v := (held (.release p) releasing).ownCore
     let full := (held (.release p) { releasing with cards := (List.range 16).map (fun i => { trialCard with id := i }) }).ownCore
     releasing.arg.n ≠ 1 ∧ heldPlan v.core = some p ∧ settled (settleRelease v.landNow p) = 2 ∧
       full.core.ctl.hold = some { kind := .release p, since := 900, till := 1000, late := false } ∧ settled (settleRelease full.landNow p) = 1) ∧
    (let p := { (planRelease releasing.landNow none).1 with short := true }
     let v := (held (.release p) { releasing with cards := (List.range 16).map (fun i => { trialCard with id := i }) }).ownCore
     let late := v.act (fun c => { c with ctl := { c.ctl with hold := some { kind := .release p, since := 900, till := 1000, late := true } } })
     settled (settleRelease late.landNow p) = 1 ∧ late.core.ctl.hold = some { kind := .release p, since := 900, till := 1000, late := true }) ∧
    (let v := (held (.recfl 9) (boundAt (trialContext .running))).ownCore
     ∃ h, v.core.ctl.hold = some h ∧ h.kind = .recfl 9) ∧
    (held .fenceErr (eventAt Arg.none)).ownCore.landNow.core.sys.carderr.getLsbD 63 = false ∧
    (held .fenceErr ((eventAt Arg.none).act (fun c => { c with sys := { c.sys with
      carderr := 0x8000000000000000 } }))).ownCore.landNow.core.sys.carderr.getLsbD 63 = true := by
  refine ⟨by decide +kernel, by decide +kernel, by decide +kernel, ⟨_, rfl, rfl⟩, by decide, by decide⟩
theorem witness_SelfTestEndsComplete :
    (∃ h, (held (.bist 1 9 0) (eventAt Arg.none)).ownCore.core.ctl.hold = some h ∧ h.kind = .bist 1 9 0) ∧
    (∃ h, (held (.margV 15 (-16)) (eventAt Arg.none)).ownCore.core.ctl.hold = some h ∧ h.kind = .margV 15 (-16)) ∧
    (∃ h, (held (.margL 0x43 2 40) (eventAt Arg.none)).ownCore.core.ctl.hold = some h ∧ h.kind = .margL 0x43 2 40) ∧
    (held (.bist 1 9 0) (eventAt Arg.none)).ownCore.core.aux.bistHits = [] ∧
    (∀ x ∈ [(1, 9, 8192), (1, 9, 5 * 8192), (2, 3, 5 * 4096 - 2), (4, 0, 4095)],
      let h : BistHit := { at_ := x.2.2, seen := 0x10, check := false }
      ((held (.bist x.1 x.2.1 3) (eventAt Arg.none)).act (fun c => { c with aux := { c.aux with bistHits := [h] } })).ownCore.core.aux.bistHits
        = [h] ∧ (match bistCheck x.1 x.2.1 3 x.2.2 with | some k => k.expect != h.seen | none => false) = true) ∧
    (∀ n ∈ [0, 191, 192, 207], (match bistCheck 3 0 3 n with
      | some k => k.expect != 0x10 && k.code == (if n % 208 < 192 then 3 else 4) | none => false) = true) ∧
    (bistCheck 3 0 3 (1024 * 208 - 1)).isSome = true ∧ bistCheck 3 0 3 (1024 * 208) = none ∧ bistCheck 1 9 3 0 = none ∧ bistCheck 1 9 3 (1000 * 8192) = none ∧ bistCheck 4 0 3 4096 = none :=
  ⟨⟨_, rfl, rfl⟩, ⟨_, rfl, rfl⟩, ⟨_, rfl, rfl⟩, rfl, by decide +kernel, by decide +kernel, rfl, by decide +kernel⟩
theorem witness_BackgroundEventsComplete :
    (let v := ((eventAt { Arg.none with n := 9 }).act (fun c => { c with
        mem := { c.mem with soft := [scrubBase 9], bad := [scrubBase 9] }, aux := { c.aux with fixes := [{ unit := 9, word := scrubBase 9, data := 5 }] }
        sys := { c.sys with cardpos0 := 0x10000 } })).ownCore
     v.core.sys.cardpos0.getLsbD 16 = true ∧ v.core.mem.soft.contains (scrubBase 9) = true ∧
       v.core.mem.bad.contains (scrubBase 9) = true ∧ v.core.aux.scrub.getD 9 0 + 1 ≠ scrubWords 9 ∧
       v.core.aux.fixes.find? (fun f => f.unit == 9) = some { unit := 9, word := scrubBase 9, data := 5 }) ∧
    (eventAt Arg.none).ownCore.core.aux.traceQ.length < 8 ∧ (eventAt Arg.none).ownCore.core.idx < 2 ^ 16 ∧
    (codeAt0 [0x00000001, 0x00014518]).ownCore.trapDue.isNone = true ∧ (codeAt0 [0x00000001, 0x00014518]).ownCore.core.ctl.idle = 0 ∧
    (codeAt0 [0x01000001, 0x00014518]).ownCore.trapDue.isSome = true ∧
    8 ≤ (List.replicate 8 (TraceRec.mk 0 0 0 0)).length := by decide +kernel

/-- A TLB entry covers the deck of a core whose engine holds no word yet. -/
def deckEntry : TlbEntry :=
  { id := 1, pins := 0, tag := 7, va := 0, size := 17, dpa := 0, rd := true, wr := false, at_ := false, cd := false, nm := false
    dying := false, count := 0, used := 0 }
def prefetching : State := (eventAt Arg.none).act (fun c => { c with
  sys := { c.sys with deckbase := 0x20, tctx := 7 }, aux := { c.aux with tlb := [deckEntry] } })
theorem witness_deck_prefetch :
    (let v := prefetching.ownCore
     v.late = [] ∧ v.poison = [] ∧ v.tag ≠ 0 ∧ deckEntry.rd = true ∧ v.core.aux.deck = [] ∧ v.core.sys.cardpos0.getLsbD 16 = false ∧
       bits v.core.sys.deckbase 56 5 * 32 ≠ 0 ∧ inPage 0 17 0x1FFFF = true ∧ (v.readWord 0x20) = 0) ∧
    ∀ a, inPage deckEntry.va deckEntry.size a = true →
      prefetching.ownCore.tlbHit a = some deckEntry ∧ prefetching.ownCore.wayOpen (deckEntry.leaf.addr a) = true := by
  refine ⟨by decide +kernel, fun a h => ?_⟩
  have ha : deckEntry.leaf.addr a = a % 2 ^ 17 := by simp [Leaf.addr, TlbEntry.leaf, deckEntry]
  have hc : dpaClass (a % 2 ^ 17) = 0 := by simp only [dpaClass]; omega
  refine ⟨?_, by rw [ha]; simp only [State.wayOpen, hc]⟩
  have : prefetching.ownCore.core.aux.tlb = [deckEntry] := by decide
  have ht : (deckEntry.tag == prefetching.ownCore.tag && !deckEntry.dying) = true := by decide
  simp only [State.tlbHit, this, List.find?_cons, ht, h, Bool.true_and]

/-! Cards and links -/

def cardAtWork (op : CardOp) (gs : List Granule) : Card := { trialCard with op := op, granules := gs }
def workOf (c : Card) : State := { (eventAt { Arg.none with n := 4 }) with cards := [c] }
/-- Uller link 0 is up, and module 1 is routed over weft port 5. -/
def joined (s : State) : State :=
  { s with module := { s.module with uller := s.module.uller.set 0 .up, weft := s.module.weft.set 5 .up
                                     wroute := Vector.replicate 64 0x8000000000000205 } }
def trialAtom : AtomUnit := { dpa := 0x44, va := 0x44, size := 4, loc := 0x23FFFE, ret := some 0 }
/-- The event's card is open, and the piece named is its next. -/
def inTurn (s : State) (c : Card) (g : Granule) : Bool :=
  s.cardAt s.arg.n == some c && s.cardOpen c && g.ready c &&
    c.granules[if s.arg.sel = 1 then State.nextUnit c else s.arg.m]? == some g && g.targets.all s.wayOpen
def farRead : Card := cardAtWork .read [.fetch [2 ^ 53 + 0x40]]
def farBehind : State :=
  let s := joined (workOf farRead)
  { s with late := [{ card := 3, core := 0, group := 8, granule := 2 ^ 47 + 1, link := s.linkOf 0 (2 ^ 53 + 0x40), scope := 0
                      bytes := [(2 ^ 53 + 0x40, 7)], poison := none, seenBy := [], terms := [] }] }
theorem witness_card_reads :
    (let c := cardAtWork .read [.fetch [0x40, 0x7F]]
     inTurn (workOf c) c (.fetch [0x40, 0x7F]) = true ∧
       [0x40, 0x7F].all (fun a => !((workOf c).behind 0 (0x40 / 64)).poisoned a) = true ∧
       ({ workOf c with poison := [1] }.behind 0 (0x40 / 64)).poisoned 0x7F = true ∧ c.op ≠ .atomic) ∧
    (let c := cardAtWork .read [.fetch [2 ^ 52 + 0x40]]
     (workOf c).cardOpen c = true ∧ (Granule.fetch [2 ^ 52 + 0x40]).ready c = true ∧ (workOf c).wayOpen (2 ^ 52 + 0x40) = false) ∧
    inTurn farBehind farRead (.fetch [2 ^ 53 + 0x40]) = true ∧
    (farBehind.behind 0 (2 ^ 47 + 1)).poisoned (2 ^ 53 + 0x40) = false ∧ (farBehind.behind 0 (2 ^ 47 + 1)).late = [] := by
  decide +kernel
theorem witness_card_fills :
    let g : Granule := .fill [{ src := .fill 7, loc := 0x23FFFF }, { src := .mem 0x40, loc := 0x23FFC0 }]
    let c := { cardAtWork .read [g] with buf := [(0x40, 5, false)] }
    let d := { c with op := .code, buf := [(0x40, 5, true)] }
    inTurn (workOf c) c g = true ∧ c.op ≠ .code ∧ [0x23FFFF, 0x23FFC0].Nodup ∧ inTurn (workOf d) d g = true ∧
      ((ByteSrc.mem 0x40).value d.buf).2 = true ∧ ((ByteSrc.mem 0x40).value c.buf).2 = false ∧
      g.ready { c with buf := [] } = false ∧
      (let w : Granule := .fill ((List.range 16).map (fun i => { src := .fill 7, loc := 0x100 + i }))
       let e := cardAtWork .read [w]
       inTurn (workOf e) e w = true) := by decide +kernel
def putAt (a : Nat) : Granule := .put [(.mem 0x300, a, 0x40), (.mem 0x301, a + 1, 0x41)]
/-- A write card that has read its two bytes. -/
def putCard (a : Nat) : Card := { cardAtWork .write [putAt a] with buf := [(0x300, 5, false), (0x301, 6, false)] }
def putter (a : Nat) : State := joined (workOf (putCard a))
theorem witness_card_takes :
    let g : Granule := .take [0x23FFC0, 0x23FFFF]
    let c := cardAtWork .write [g, putAt 0x40]
    inTurn (workOf c) c g = true ∧ [0x23FFC0, 0x23FFFF].all (fun a => !((workOf c).coreOf 0).mem.bad.contains (a / 16)) = true ∧
      (((workOf c).act (fun k => { k with mem := { k.mem with bad := [0x23FFF] } })).coreOf 0).mem.bad.contains (0x23FFFF / 16) = true := by
  decide +kernel
theorem witness_card_writes :
    (∀ a ∈ [0x40, 2 ^ 53 + 0x40, 2 ^ 54 + 0x40], inTurn (putter a) (putCard a) (putAt a) = true ∧
      (putter a).wayOpen a = true ∧ ((ByteSrc.mem 0x300).value (putCard a).buf).2 = false ∧
      ((ByteSrc.mem 0x301).value (putCard a).buf).2 = false) ∧
    (putCard 0x40).buf.find? (fun x => x.1 == 0x300) = some (0x300, 5, false) ∧
    (putter 0x40).linkOf (blockOf 0) 0x40 = none ∧
    ((putter 0x40).linkOf (blockOf 0) (2 ^ 53 + 0x40)).isSome = true ∧
    ((putter 0x40).linkOf (blockOf 0) (2 ^ 54 + 0x40)).isSome = true ∧
    (let c := { putCard 0x40 with buf := [(0x300, 5, true), (0x301, 6, false)] }
     inTurn (joined (workOf c)) c (putAt 0x40) = true ∧ ((ByteSrc.mem 0x300).value c.buf).2 = true) ∧
    (putAt (2 ^ 52)).ready (putCard (2 ^ 52)) = true ∧ (putter (2 ^ 52)).cardOpen (putCard (2 ^ 52)) = true ∧
    (putter (2 ^ 52)).wayOpen (2 ^ 52) = false := by decide +kernel
theorem witness_card_atomics :
    let far := { trialAtom with dpa := 2 ^ 52 }
    let ops := fun (p : Bool) => (List.range 8).map (fun k => (localKey (canon (trialAtom.loc + k)), (1 : Byte), p))
    let c := { cardAtWork .atomic [.atom trialAtom, .atom far] with atop := 9, fmt := 5, buf := ops false }
    let unit := fun (c : Card) => { workOf c with arg := { Arg.none with n := 4, sel := 1 } }
    let b := { c with granules := [.atom far] }
    inTurn (unit c) c (.atom trialAtom) = true ∧ State.nextUnit c = 0 ∧ c.granules[1]? = some (.atom far) ∧
      (unit c).poisoned 0x44 = false ∧ ({ unit c with poison := [1] }).poisoned 0x44 = true ∧
      inTurn (unit { c with buf := ops true }) { c with buf := ops true } (.atom trialAtom) = true ∧
      (unit b).cardOpen b = true ∧ (Granule.atom far).ready b = true ∧ (unit b).wayOpen far.dpa = false := by decide +kernel
theorem witness_CardWorkCompletes :
    (let c := { trialCard with startAt := none }
     (workOf c).cardAt 4 = some c ∧ (workOf c).cardOpen c = false) ∧
    ((workOf trialCard).cardAt 4 = some trialCard ∧ (workOf trialCard).cardDue trialCard = true ∧ trialCard.err = 0 ∧
       trialCard.pt < 8 ∧ ∀ x ∈ (workOf trialCard).cards, x.core = 0 → x.group = 9 → x.id ≠ 4 → x.ended = true ∧ x.err = 0) ∧
    (let c := { trialCard with endAt := some 1001 }
     (workOf c).cardAt 4 = some c ∧ (workOf c).cardDue c = false) ∧
    (∀ e ∈ [1, 15], let c := { trialCard with err := e, pt := 7 }
     let hot := (workOf c).act (fun k => { k with sys := { k.sys with carderr := 0x800000000000FFFF } })
     (workOf c).cardAt 4 = some c ∧ (workOf c).cardDue c = true ∧ c.handle < 2 ^ 16 ∧
       ((workOf c).coreOf 0).sys.carderr.getLsbD 63 = false ∧ (hot.coreOf 0).sys.carderr.getLsbD 63 = true ∧
       ∀ x ∈ (workOf c).cards, x.core = 0 → x.group = 9 → x.id ≠ 4 → x.ended = true) := by decide +kernel
/-- A send, and a receive-and-add of each type, that have been paired; a source word of theirs is in error; and ends that are due, with
and without an error, one of whose semaphore is full. -/
theorem witness_link_moves :
    let post : LinkPost := { len := 64, bytes := List.replicate 64 1, bad := [3] }
    let live := fun (l : LinkXfer) =>
      { portState (fun m => { m with weft := m.weft.set 7 .up }) with arg := { Arg.none with n := 2, sel := 2 }, links := [l] }
    let found := fun (l : LinkXfer) => (live l).links.find? (fun x => x.id == 2) == some l
    (∀ op ∈ [LinkOp.send, .radd .f32, .radd .i32, .radd .f16, .radd .bf16],
      let l := { trialLink op 2 with paired := some post, endAt := some 900 }
      found l = true ∧ found { l with moved := 64 } = true ∧ (live l).linkHalted l = false ∧ (live { l with err := 3 }).linkHalted { l with err := 3 } = true ∧ min 64 (min l.len post.len - l.moved) = 64 ∧
        (((live l).act (fun c => { c with mem := { c.mem with bad := [0x10] } })).coreOf 0).mem.bad.contains
          (canon (l.addr / 64 * 64 + l.moved) / 16) = true) ∧
    (let due := { trialLink .send 2 with paired := some post, endAt := some 900, moved := 64 }
     let full := (live due).act (fun c => { c with reg := c.reg.setSem 3 0xFFFF })
     (live due).linkDue due = true ∧ (live { due with err := 7 }).linkDue { due with err := 7 } = true ∧ full.linkDue due = true ∧
       (full.coreOf 0).reg.getSem 3 = 0xFFFF ∧ (full.coreOf 0).sys.carderr.getLsbD 63 = false) := by decide +kernel
theorem witness_LinkTransfersComplete :
    let pair := fun (l : LinkXfer) (p : PeerPost) =>
      let s0 := eventAt { Arg.none with n := 7, m := 5, sel := 1 }
      let s := { s0 with links := [l], module := { s0.module with peers := [p] } }
      s.links.find? (State.openLink 7 5 false) = some l ∧
        s.module.peers.find? (fun q => q.port == 7 && q.tag == 5 && q.sends != false) = some p
    let post : LinkPost := { len := 64, bytes := List.replicate 64 1, bad := [3] }
    let live := fun (l : LinkXfer) =>
      { portState (fun m => { m with weft := m.weft.set 7 .up }) with arg := { Arg.none with n := 2, sel := 2 }, links := [l] }
    (eventAt Arg.none).links.find? (State.openLink 0 0 true) = none ∧
    pair (trialLink .recv 2) { port := 7, tag := 5, sends := true, post := post } ∧
    pair { trialLink .recv 2 with len := 0 } { port := 7, tag := 5, sends := true, post := post } ∧
    (let l := { trialLink .recv 2 with paired := some post, endAt := some 900 }
     (live l).links.find? (fun x => x.id == 2) = some l ∧ l.op = .recv ∧ post.bytes.length = post.len ∧
       0 < min 64 (min l.len post.len - l.moved) ∧ post.bad.contains ((l.moved + 63) / 16) = true ∧
       (live l).linkDue l = false ∧ (live l).linkHalted l = false ∧ ({ live l with module := Module.reset }).linkHalted l = true ∧
       (let odd := { trialLink (.radd .f32) 2 with paired := some { post with len := 62, bytes := List.replicate 62 1 } }
        min 64 (min odd.len 62 - odd.moved) = 62 ∧ 62 / 4 * 4 = 60) ∧
       (let m := { l with moved := 64 }
        (live m).links.find? (fun x => x.id == 2) = some m ∧ min 64 (min m.len post.len - m.moved) = 0 ∧ (live m).linkDue m = true) ∧
       (let d := { l with err := 3 }
        (live d).linkDue d = true)) := by decide +kernel

/-! The fabric -/

theorem witness_FabricEventsComplete :
    (let x := { trialContext .running with xphase := some (1000, 4, 0) }
     let s := (boundAt x).putTile { Tile.reset 0 with hdir := [(0, 0x1000)], htab := [(0, 0x8081)] }
     let u := s.act (fun c => { c with mem := { c.mem with inject := some (5, 0x8001) } })
     u.phaseAt 0 = some (0, 0) ∧ activeEntries (u.tileAt 0) 0 0 = [(0, 0x8081)] ∧ entryBad 0x8081 = false ∧
       u.arriving 0 (bits 0x8081 15 13) = some (5, 0x8001) ∧ (0x8081 : Word).getLsbD 7 = true) ∧
    (match (eventAt Arg.none).partOf 0 with | some p => (eventAt Arg.none).halted p | none => true) = true ∧
    (match (boundAt (trialContext .running)).partOf 0 with
      | some p => (boundAt (trialContext .running)).halted p | none => true) = false ∧
    (State.reset.region 0).shnext.getD 0 0 = 0x3410205104102010 ∧ bits 0x6 4 0 < 7 ∧ 24 < bits 0x1F 4 0 ∧ 7 ≤ bits 0x7 4 0 ∧
    bits 0x18 4 0 ≤ 24 ∧
    (let s := fun (q : Option Nat) => loomRuns ({ eventAt Arg.none with cycle := 8192 }.putRegion 0 { Region.reset with period := q })
     (s none).loomOf 0 = 8192 ∧ ((s none).region 0).period = none ∧ ((s (some 2)).region 0).period = some 2 ∧
       8192 / 4096 < 3 ∧ ((s (some 3)).region 0).period = some 3) ∧
    (let class_ := fun (w : Word) (k : Nat) =>
       bits (((State.reset.region 0).shnext.setIfInBounds 0 w).getD (k / 16) 0) (4 * (k % 16) + 3) (4 * (k % 16))
     class_ 0x3410205104102016 0 = 6 ∧ (∀ k, k < 64 → class_ 0x3410205104102010 k < 6 ∨ class_ 0x3410205104102010 k = 15) ∧
       (∃ k, k < 64 ∧ class_ 0x3410205104102010 k = 5)) ∧
    (let f : TraceFlit := { block := 0, ready := 0, record := ⟨0, 0, 0, 0⟩ }
     let s := loomRuns ({ eventAt Arg.none with cycle := 4 }.putRegion 0 { Region.reset with flits := [f] })
     (s.region 0).flits[0]? = some f ∧ f.ready ≤ s.cycle) := by decide +kernel
/-- A flit of region 0 stands at a block while the count brings slot `n`. -/
def flitAt (b n : Nat) (w : Word) : State :=
  let s := { eventAt Arg.none with cycle := n }.putRegion 0 { Region.reset with
    trring := w, flits := [{ block := b, ready := 0, record := ⟨0, 0, 0, 0⟩ }] }
  s.putRet 0 { (s.ret 0) with loomOn := true, loomBase := 0 }
/-- Slot 6 is of the trace class; a flit hops in it, and another reaches the ring at block 1. -/
theorem witness_trace_hops :
    (let s := flitAt 5 6 0
     s.ringRouter 0 = (1, 0) ∧ State.nextBlock 5 1 0 = some 1 ∧ s.traceSlot 5 = true ∧ s.hopped = [] ∧
       (s.traceQueue 5 (some 1)).all (fun h => decide (h.ready ≤ 0)) = true ∧ s.linkWhole 5 1 = true ∧
       (s.traceQueue 1 none).isEmpty = true) ∧
    (flitAt 5 5 0).traceSlot 5 = false ∧
    (flitAt 1 6 0).ringRouter 0 = (1, 0) ∧ (flitAt 1 6 0).traceSlot 1 = true ∧ (flitAt 1 6 0).hopped = [] ∧
    (flitAt 1 6 0x8000000000000007).ringRouter 0 = (1, 0) ∧ (flitAt 1 6 0x8000000000000007).traceSlot 1 = true ∧
    State.nextBlock 1 1 0 = none ∧
    (let s := (eventAt Arg.none).act (fun c => { c with aux := { c.aux with traceQ := [⟨0, 0, 0, 0⟩] } })
     (s.coreOf 0).aux.traceQ = ⟨0, 0, 0, 0⟩ :: [] ∧ s.ringRouter 0 = (1, 0) ∧
       State.nextBlock (blockOf 0) 1 0 = some 1 ∧ (s.traceQueue 0 (some 1)).isEmpty = true) := by decide +kernel
/-- Reticle 0's selvedges E and S are judged OK, and its copy and its neighbours' read the cycle. -/
def aligned (n : Nat) (f : Reticle → Reticle) : State :=
  let s := loomRuns { eventAt Arg.none with cycle := n }
  s.putRet 0 (f { (s.ret 0) with bootst := 0x0006000000000000 })
/-- A round of count 65536 is open, and both samples have arrived. -/
def roundOf (d e : Int) : State :=
  aligned 65600 (fun x => { x with round := some 65536, opened := 65536, deltas := [(1, some d), (2, some e)] })
theorem witness_LoomAlignmentCompletes :
    (eventAt Arg.none).roundDue 0 = false ∧
    ((aligned 65536 id).roundDue 0 = true ∧ (aligned 65536 id).opensRound 0 = true ∧ (aligned 65536 id).alignSels 0 = [1, 2] ∧
      ((aligned 65536 id).ret 0).round = none) ∧
    (let s := (aligned 4096 id).putRet 1 { ((aligned 4096 id).ret 1) with aln := true }
     s.roundDue 0 = true ∧ s.opensRound 0 = false ∧ s.sampleSels 0 = [1]) ∧
    (((aligned 65600 id).ret 0).loomOn = true ∧ (aligned 65600 id).badSamples = [] ∧ ((aligned 65600 id).ret 0).deltas.isEmpty = true ∧
      (roundOf 0 0).alignSels 0 = [1, 2] ∧ (65536 : Word).toNat % 65536 = 0) ∧
    ((aligned 98304 (fun x => { x with opened := 65536, deltas := [(1, some 0)] })).roundOver 0 = true ∧
      (aligned 98303 (fun x => { x with opened := 65536, deltas := [(1, some 0)] })).roundOver 0 = false ∧
      (aligned 98303 (fun x => { x with opened := 65536, deltas := [(1, some 0)] })).alignSels 0 = [1, 2]) ∧
    ((aligned 65600 id).roundOver 0 = false ∧ (roundOf 0 0).roundOver 0 = true ∧
      ((roundOf 0 0).ret 0).round = some 65536) ∧
    (∀ d ∈ [(3 : Int), -3, 4095, 4096, -4096], (roundOf d d).roundOver 0 = true ∧ (roundOf d d).ctxOf 0 = none ∧
      ((roundOf d d).ret 0).deltas.filterMap (fun e => e.2.map (fun δ => (e.1, δ))) = [(1, d), (2, d)]) ∧
    (let s := holding (trialContext .running) (roundOf 3 3)
     let u := holding { trialContext .running with xphase := some (65000, 1000, 0) } (roundOf 3 3)
     s.roundOver 0 = true ∧ s.ctxOf (1024 * 0) = some (0, trialContext .running) ∧ s.exchangedIn 0 0 65536 = false ∧
       u.roundOver 0 = true ∧ u.exchangedIn 0 0 65536 = true) ∧
    (let s := (eventAt Arg.none).putRet 0 { (State.reset.ret 0) with repair := some (-3), loomOn := true }
     (s.ret 0).repair = some (-3) ∧ s.repairTime 0 = true ∧ ((eventAt Arg.none).ret 0).repair = none ∧
     (let u := (eventAt Arg.none).putRet 0 { (State.reset.ret 0) with repair := some 3 }
      (u.ret 0).repair = some 3 ∧ u.repairTime 0 = true ∧ (holding (trialContext .running) (u.act running)).repairTime 0 = false)) := by
  decide +kernel

/-! Contexts at work -/

theorem witness_SuperstepsComplete :
    (let due := fun (s : State) (x : Context) => (s.part 0).ctx = some x ∧ x.x0.any (fun t => decide (t ≤ s.cycle)) = true ∧
       s.stopped 0 = false ∧ ∀ c ∈ s.coresIn 0, c.sys.carderr.getLsbD 63 = false
     let x := { trialContext .running with x0 := some 990 }
     let y := { x with losses := [trialLoss] }
     let asked := (boundAt x).putPart 0 { (boundAt x).part 0 with preq := 1 }
     let safe := asked.act (fun c => { c with ctl := { c.ctl with mode := .halted } })
     let waits := asked.act (fun c => { c with ctl := { c.ctl with mode := .barrier } })
     due (boundAt x) x ∧ bits ((boundAt x).part 0).preq 1 0 ≠ 1 ∧ due (boundAt y) y ∧ y.losses ≠ [] ∧
       due safe x ∧ bits (safe.part 0).preq 1 0 = 1 ∧ safe.safeBarrier 0 = true ∧ due waits x ∧ waits.safeBarrier 0 = false ∧
       (trialContext .running).x0 = none) ∧
    (let x := { trialContext .running with xphase := some (990, 4, 0) }
     let z := { x with losses := [trialLoss] }
     ((boundAt x).part 0).ctx = some x ∧ 990 + 4 ≤ (boundAt x).cycle ∧ x.losses = [] ∧
       ((boundAt z).part 0).ctx = some z ∧ z.losses ≠ [] ∧
       ¬ 990 + 11 ≤ (boundAt { x with xphase := some (990, 11, 0) }).cycle) ∧
    (let x := { trialContext .running with start := 0, phases := [{ xlen := 4, pcode := 0, budget := 100 }] }
     let at_ := fun (pol : Word) => ((boundAt x).act running).putPart 0 { (boundAt x).part 0 with pbar := pol }
     (at_ 0).stragglerDue 0 x = true ∧ (at_ 0x40).stragglerDue 0 x = true ∧ (at_ 0x80).stragglerDue 0 x = true ∧
       ((at_ 0).part 0).ctx = some x ∧ ((at_ 0x40).part 0).ctx = some x ∧ ((at_ 0x80).part 0).ctx = some x ∧
       x.launch.queue < 64 ∧ x.launch.slot < 2 ^ 16 ∧
       (at_ 0).stragglerDue 0 { x with fired := true } = false ∧
       (let y := { x with losses := [trialLoss] }
        ((boundAt y).act running).stragglerDue 0 y = true)) := by decide +kernel
/-- A write of card 4 that Uller link 0 has accepted. -/
def lateOne : LateWrite :=
  { card := 4, core := 0, group := 9, scope := 1, granule := 2 ^ 47, link := some 0, bytes := [], poison := none, seenBy := []
    terms := [] }
/-- Words of a launch record that waits on counter 4 for the value 1. -/
def waiting4 : List Word := [0, 0, 0, 0x8000040000000001] ++ List.replicate 12 0
/-- A core with a trigger that waits for some cards. -/
def posted (ids : List Nat) (s : State) : State := s.act (fun c => { c with
  ctl := { c.ctl with mode := .halted }, aux := { c.aux with trigger := some ids } })
/-- Every core of a state has its trigger delivered. -/
def triggered (s : State) : State := s.act (fun c => { c with aux := { c.aux with delivered := true } })
theorem witness_triggers :
    (State.reset.coreOf 0).aux.trigger = none ∧
    (let s := posted [4] { eventAt Arg.none with cards := [trialCard] }
     (s.coreOf 0).aux.trigger = some [4] ∧ (s.coreOf 0).aux.delivered = false ∧ (∃ c ∈ s.cards, c.id = 4) ∧
       (let w := lateOne
        let t := { s with cards := [], late := [w] }
        (∀ c ∈ t.cards, c.id ≠ 4) ∧ w ∈ t.late ∧ w.card = 4 ∧ w.link.isSome = true ∧
          ({ t with late := [] }).ctxOf 0 = none)) ∧
    (let s := posted [4] (boundAt (trialContext .running))
     s.cards = [] ∧ s.late = [] ∧ s.ctxOf 0 = some (0, trialContext .running) ∧ (trialContext .running).trgDone = false ∧
       (trialContext .running).stage ≠ .lost ∧
       (s.onCore 0 (fun c => { c with aux := { c.aux with delivered := true } })).coresIn 0 =
         [{ s.core with aux := { s.core.aux with delivered := true } }]) ∧
    (let x := { trialContext .running with trgDone := true }
     (posted [4] (boundAt x)).ctxOf 0 = some (0, x) ∧ x.trgDone ≠ false) := by decide +kernel
theorem witness_LaunchesComplete :
    (let s := boundAt (trialContext .waiting)
     let b := boundAt (trialContext (.binding 1000))
     s.allClosed trialLaunch.words = true ∧ s.anyFailed trialLaunch.words = false ∧ s.allClosed waiting4 = false ∧
       s.anyFailed waiting4 = false ∧ (b.part 0).ctx = some (trialContext (.binding 1000)) ∧ 1000 ≤ b.cycle ∧
       b.allClosed trialLaunch.words = true ∧ b.anyFailed trialLaunch.words = false ∧
       (State.waitUsed trialLaunch.words 0 || State.waitUsed trialLaunch.words 1) = false ∧
       (State.waitUsed waiting4 0 || State.waitUsed waiting4 1) = true ∧ b.producedOn 0 waiting4 = [] ∧
       ({ b with sched := { b.sched with dsrc := b.sched.dsrc.set 4 [0] } }).producedOn 0 waiting4 ≠ []) ∧
    (let s := boundAt { trialContext .waiting with launch := { trialLaunch with words := waiting4 } }
     let t := { s with sched := { s.sched with dtrg := s.sched.dtrg.set 4 0x8000000000000000 } }
     t.anyFailed waiting4 = true ∧ t.cardsEnded 0 = true ∧ ({ t with cards := [trialCard] }).cardsEnded 0 = false ∧
       (let x := { trialContext .waiting with launch := { trialLaunch with words := waiting4 }, losses := [trialLoss] }
        ((t.onCtx 0 (fun _ => x)).part 0).ctx = some x ∧ x.losses ≠ [] ∧ (t.onCtx 0 (fun _ => x)).cardsEnded 0 = true)) ∧
    (let s := boundAt (trialContext .waiting)
     s.loomQuiet 0 = true ∧ (s.putRet 0 { (s.ret 0) with repair := some 3 }).loomQuiet 0 = false ∧
       (s.putRet 0 { (s.ret 0) with stall := 2 }).loomQuiet 0 = false) ∧
    ({ trialContext .starting with starts := [(0, 900)] }).starts.any (fun e => e.1 == 0 && decide (e.2 ≤ 1000)) = true ∧
    ({ trialContext .starting with starts := [(0, 1001)] }).starts.any (fun e => e.1 == 0 && decide (e.2 ≤ 1000)) = false ∧
    (let s := triggered (posted [] (boundAt (trialContext .running)))
     let t := s.act (fun c => { c with sys := { c.sys with carderr := 0x8000000000000000 } })
     let l := triggered (posted [] (boundAt { trialContext .running with losses := [trialLoss] }))
     s.launchOver 0 (trialContext .running) = true ∧ (s.coresIn 0).all (fun c => !c.sys.carderr.getLsbD 63) = true ∧
       t.launchOver 0 (trialContext .running) = true ∧ (∃ c ∈ t.coresIn 0, c.sys.carderr.getLsbD 63 = true) ∧
       l.launchOver 0 { trialContext .running with losses := [trialLoss] } = true) ∧
    (posted [] (boundAt (trialContext .running))).launchOver 0 (trialContext .running) = false ∧
    (let x := { trialContext .running with losses := [trialLoss], cut := true }
     (boundAt x).lossNow 0 x = true ∧ (boundAt { x with cut := false }).lossNow 0 { x with cut := false } = false) ∧
    (let x := { trialContext .lost with losses := [trialLoss] }
     State.firstLoss x.losses = some trialLoss ∧ x.stage = .lost ∧ trialLoss.cause < 256 ∧ x.launch.queue < 64 ∧
       x.launch.slot < 2 ^ 16 ∧ (boundAt x).cardsEnded 0 = true ∧ (boundAt x).linksEnded 0 true = true ∧
       ({ boundAt x with cards := [trialCard] }).cardsEnded 0 = false) := by
  decide +kernel
/-- A stopped partition, whose core froze in a way given. -/
def stopped (f : Core → Core) : State :=
  let s := (boundAt (trialContext .running)).act f
  { s.putPart 0 { s.part 0 with tstop := 0x8000000000000000 } with arg := { Arg.none with value := 1 } }
def frozen (w : Word) (c : Core) : Core :=
  { c with ctl := { c.ctl with mode := .frozen .deferred }, trap := { c.trap with tcause := w } }
theorem witness_stops_end :
    bits (stopped id).arg.value 1 0 = 1 ∧ (stopped id).stopped 0 = true ∧
    ((stopped (frozen 0x8000000000000006)).coresIn 0).all (fun c => !State.holdsDouble c) = true ∧
    ((stopped (frozen 0xE000000000000006)).coresIn 0).any State.holdsDouble = true ∧
    (let s := stopped (fun c => { frozen 0x8000000000000006 c with trap := { c.trap with
       shadow := some { someShadow with waits := true }, pend := [trialCause] } })
     ∃ c ∈ s.coresIn 0, c.ctl.mode = .frozen .deferred ∧ (∃ q ∈ c.trap.pend, q.code < 0x0D) ∧
       c.trap.shadow = some { someShadow with waits := true }) ∧
    (boundAt (trialContext .running)).stopped 0 = false := by decide +kernel

theorem witness_ImagesComplete :
    (eventAt Arg.none).sched.imgcmd.getLsbD 0 = false ∧
    (let s := { eventAt Arg.none with sched := { Sched.reset with imgEnd := some 1000, imgcmd := 1 } }
     s.sched.imgEnd = some 1000 ∧ 1000 ≤ s.cycle ∧ s.loadError 0 0x1000 = 2) ∧
    (let s := boundAt (trialContext .running)
     let t := { s with sched := { s.sched with images := [trialImage] } }
     t.sched.imgcmd.getLsbD 0 = false ∧ t.holders 1 = 1 ∧ (∃ x ∈ t.sched.images, x.handle = 1) ∧
       (s.holders 1 = 1 ∧ (eventAt Arg.none).holders 1 = 0) ∧
       (let u := { eventAt Arg.none with sched := { Sched.reset with images := [trialImage] } }
        u.sched.imgcmd.getLsbD 0 = false ∧ (∃ x ∈ u.sched.images, x.handle = 1) ∧ u.holders 1 = 0)) := by decide +kernel
/-- Off-wafer memory of an image at 0x1000 (rules R156, R158, R166): a code section, a pad list of no entry, one phase, and a start
vector whose entries are zero words. -/
def imageMem : Memory :=
  ([(0x1000, 0x574F56454E330001), (0x1008, 0x0001140000000004),
    (0x1010, 0x0100000000000000), (0x1018, 0x100), (0x1020, 64),
    (0x1030, 0x0400000000000000), (0x1038, 0x140), (0x1040, 8),
    (0x1050, 0x0500000000000000), (0x1058, 0x150), (0x1060, 16),
    (0x1070, 0x0700000000000000), (0x1078, 0x180), (0x1080, 0xC020),
    (0x1150, 0x0000000400000000), (0x1180, 0x0001140000000001), (0x1198, 0x3C3D283C3C3C3C3D)] : List (Nat × Nat)).foldl
    (fun m e => m.write e.1 (toBytes 8 e.2)) Memory.empty
theorem witness_line_reload :
    let s := (boundAt (trialContext .running)).act (fun c => { c with mem := { c.mem with reload := [(0, 900)] } })
    let t := { s with mem := imageMem }
    (t.coreOf 0).mem.reload.find? (fun e => e.1 == 0 && decide (e.2 ≤ t.cycle)) = some (0, 900) ∧
      t.ctxOf 0 = some (0, trialContext .running) ∧
      (t.codeSection trialImage (relIndex 0 (pdefWid (t.part 0).pdef) 0)).isSome = true ∧
      (List.range 64).all (fun i => !t.poisoned (0x1000 + 0x100 + i)) = true ∧
      ({ t with poison := [0x1100 / 64] }).poisoned (0x1000 + 0x100) = true := by decide +kernel
def validImage : Image := { trialImage with rev := 1, size := 0xC1A0 }
/-- Partition 0 is on, and queue 3, of layout revision 1, belongs to it. -/
def offering (q : Queue → Queue) (f : Part → Part) : State :=
  let s := (eventAt Arg.none).putPart 0 (f { Part.reset with pdef := 0x1401 })
  let s := s.putQueue 3 (q { Queue.reset with qcfg := 0x0001000400000001, qbase := 0x10000, qcbase := 0x20000 })
  { s with mem := imageMem, sched := { s.sched with images := [validImage] } }
/-- A sound record for image 1. -/
def soundWords : List Word :=
  let ws : List Word := [0x0001010000000000] ++ List.replicate 14 0
  ws ++ [ws.foldl (fun x w => x ^^^ w) 0x9696969696969696]
def chosenLaunch : Launch := { queue := 3, slot := 0, words := soundWords, sseq := 1 }
def chosenState : State := offering id (fun p => { p with chosen := some (chosenLaunch, false) })
theorem image_reads_above (n : Nat) (h : 0x11A0 ≤ n) : imageMem.read n = 0 := by
  refine Memory.read_of_not_mem (fun c hc => ?_)
  have : imageMem.cells.all (fun c => decide (c.1 < 0x11A0)) = true := by decide +kernel
  have := List.all_eq_true.mp this c hc
  simp at this; omega
theorem start_entries (img : Image) (h : img.dpa = 0x1000) (n : Nat) (ho : chosenState.offsetOf img 7 = 0x180) :
    chosenState.startEntry img n = (0, 0) := by
  have hz (a : Nat) (ha : 0x11A0 ≤ a) : chosenState.readWord a = 0 := by
    have : chosenState.mem = imageMem := rfl
    have hr : ∀ i, imageMem.read (a + i) = 0 := fun i => image_reads_above _ (by omega)
    have e : imageMem.readN a 8 = List.replicate 8 0 := by simp [Memory.readN, hr]
    simp only [State.readWord, this, Memory.readNat, e]; decide
  simp only [State.startEntry, State.imgWord, ho, h]
  rw [hz _ (by omega), hz _ (by omega)]
theorem chosen_binds : chosenState.bindFault 0 chosenLaunch validImage = none := by
  have ho : chosenState.offsetOf validImage 7 = 0x180 := by decide +kernel
  have he := fun n => start_entries validImage rfl n ho
  have hc : ∀ n, (chosenState.codeSection validImage n).isNone = false := fun n => by
    simp only [State.codeSection, he]; decide +kernel
  simp only [State.bindFault]
  have h1 : chosenState.headerFault validImage (chosenState.queue chosenLaunch.queue).rev = none := by
    decide +kernel
  have h2 : ∀ m n, chosenState.entryFault validImage m n = none := fun m n => by
    simp only [State.entryFault, he, hc]
    rcases Nat.mod_two_eq_zero_or_one n with h | h <;> simp [h, bits]
  have h3 : chosenState.loopFault validImage = none := by decide +kernel
  have h4 : chosenState.phaseFault validImage = none := by decide +kernel
  have h5 : chosenState.padFault 0 validImage = none := by decide +kernel
  rw [h1, h3, h4, h5]
  have h6 : ∀ k, (List.range k).findSome? (chosenState.entryFault validImage false) = none :=
    fun k => List.findSome?_eq_none_iff.mpr (fun n _ => h2 _ n)
  have h7 : ∀ k, (List.range k).any (fun i => (chosenState.startEntry validImage i).2.getLsbD 23) = false :=
    fun k => by simp [he]
  have h8 : (chosenLaunch.words.getD 2 0).getLsbD 8 = false := by decide
  simp only [h8, h7, Bool.false_and, h6]; rfl
def withHead (h : HeadRec) (x : Queue) : Queue := { x with qtail := 1, head := h }
/-- A region pair whose PDEF write names region 0 alone. -/
theorem witness_QueuesComplete :
    (let s := eventAt { Arg.none with value := 0x1401 }
     ¬ ((0x1401 : Word) &&& 0xFC01 = (s.part 0).pdef &&& 0xFC01) ∧ (s.part 0).ctx = none ∧ (s.part 0).chosen = none ∧
       rectFits 0 1 1 = true ∧ s.cutInside (rectRegions 0 1 1) = false ∧ (∀ r ∈ rectRegions 0 1 1, s.withheld r = false) ∧
       (∀ o, o < 16 → s.partRegions o = [])) ∧
    (rectFits 0 8 3 = false) ∧
    (let s := offering id id
     let w : Word := 0x0001000400000201
     (s.queue 4).on = false ∧ bits w 63 48 = 1 ∧ 4 ≤ bits w 35 32 ∧ bits w 35 32 ≤ 12 ∧ s.baseOk (s.queue 4).base = true ∧
       s.baseOk (s.queue 4).cbase = true ∧ s.baseOk (2 ^ 52) = false ∧
     (s.queue 3).on = true ∧ s.queueBusy 3 = false ∧ chosenState.queueBusy 3 = true) ∧
    (2 ^ 4 < (bits (17 : Word) 15 0 + 2 ^ 16 - 0) % 2 ^ 16 ∧ ¬ 2 ^ 4 < (bits (16 : Word) 15 0 + 2 ^ 16 - 0) % 2 ^ 16) ∧
    (let s := offering (withHead .unread) id
     (s.queue 3).on = true ∧ (s.queue 3).hasHead = true ∧ (s.queue 3).head = .unread ∧ State.recordSound soundWords = true ∧
       State.recordSound (s.readWords ((s.queue 3).base + 128 * ((s.queue 3).hd % 2 ^ (s.queue 3).log2n)) 16) = false ∧
       bits (soundWords.getD 0 0) 63 48 = (s.queue 3).rev ∧ s.recordImage soundWords = some validImage ∧
       validImage.pwid = pdefWid (s.part 0).pdef ∧ validImage.pht = pdefHt (s.part 0).pdef ∧
       s.module.elog.length ≤ 256 ∧ (let v := { s with poison := [0x401] }
         v.poison.filter (fun g => decide (64 * g < 0x10000 + 128) && decide (0x10000 < 64 * g + 64)) = [0x401]) ∧
     (let u := { s with mem := s.mem.write 0x10000 (soundWords.flatMap (fun (w : Word) => toBytes 8 w.toNat)) }
      u.readWords ((u.queue 3).base + 128 * ((u.queue 3).hd % 2 ^ (u.queue 3).log2n)) 16 = soundWords)) ∧
    (let s := offering (fun q => { q with pending := [{ words := [], tag := 0, image := 0, counter := some 5 }] }) id
     (s.queue 3).room = true ∧ (s.queue 3).pending = [{ words := [], tag := 0, image := 0, counter := some 5 }]) ∧
    (∀ h ∈ [HeadRec.read soundWords, .checked soundWords],
      let s := offering (withHead h) id
      let off := offering (withHead h) (fun p => { p with pdef := 0 })
      let wide := offering (withHead h) (fun p => { p with pdef := 0x2401 })
      let gone := { s with sched := { s.sched with images := [] } }
      (s.queue 3).on = true ∧ (s.queue 3).hasHead = true ∧ (s.queue 3).head = h ∧ s.recordImage soundWords = some validImage ∧
        pdefOn (s.part (s.queue 3).part).pdef = true ∧ pdefOn (off.part 0).pdef = false ∧
        validImage.pwid ≠ pdefWid (wide.part 0).pdef ∧ gone.recordImage soundWords = none) := by decide +kernel

def savedOne : Saved :=
  { queue := 3, tag := 7, launch := trialLaunch, image := trialImage, step := 0, pwid := 1, pht := 1, page := 0, pages := 9
    part := 0, badBlocks := [], ready := true, bad := [], imemBad := [], codeLines := [] }
theorem witness_SchedulingCompletes :
    (let s := offering (withHead (.checked soundWords)) id
     s.failing 0 = [] ∧ s.idlePart 0 = true ∧ s.mayOffer 0 = true ∧ (s.takePri 0 1).scan 0 = some (0, 3) ∧
       (s.takePri 0 1).resumeOf 0 3 = none ∧ State.headRecord ((s.takePri 0 1).queue 3) = some soundWords ∧
     (let u := { s with sched := { s.sched with saved := [savedOne] } }
      u.failing 0 = [] ∧ (u.takePri 0 1).scan 0 = some (0, 3) ∧ (u.takePri 0 1).resumeOf 0 3 = some savedOne)) ∧
    ((eventAt Arg.none).failing 0 = [] ∧ (eventAt Arg.none).idlePart 0 = false) ∧
    ((chosenState.part 0).ctx = none ∧ (chosenState.part 0).chosen = some (chosenLaunch, false) ∧
      chosenState.recordImage chosenLaunch.words = some validImage ∧ chosenState.freeTag = some 1 ∧
      (let s := { chosenState with sched := { chosenState.sched with images := [] } }
       s.recordImage chosenLaunch.words = none) ∧
      (chosenState.bindFault 0 chosenLaunch { validImage with rev := 2 }).isSome = true) ∧
    (let ws : List Word := [0, 0, 0x100, 0x8000040000000001]
     let s := boundAt { trialContext (.binding 900) with launch := { trialLaunch with words := ws } }
     s.allClosed ws = false ∧ (ws.getD 2 0).getLsbD 8 = true ∧ (s.part 0).ctx.isSome = true ∧ 900 ≤ s.cycle ∧
       (s.part 0).ctx.map (·.stage) = some (.binding 900) ∧
       s.producedOn 0 ws = [] ∧ ({ s with sched := { s.sched with dsrc := s.sched.dsrc.set 4 [0] } }).producedOn 0 ws = [0]) ∧
    ({ chosenState with sched := { chosenState.sched with saved := [savedOne] } }.sched.saved.find?
      (fun v => v.queue == 3 && v.ready) = some savedOne ∧
      (chosenState.putPart 0 { chosenState.part 0 with pdef := 0x2401 }).shapeOk 0 validImage = false ∧
      chosenState.shapeOk 0 validImage = true) ∧
    (let s := offering (withHead (.checked soundWords)) (fun p => { p with ctx := some { trialContext .running with began := some 0 } })
     let t := { s with cycle := 5000, sched := { s.sched with quant := s.sched.quant.set 0 1 } }
     t.quantumDue 0 = true ∧ s.quantumDue 0 = false ∧ bits (s.part 0).preq 1 0 ≠ 2 ∧
       bits ((t.putPart 0 { t.part 0 with preq := 2 }).part 0).preq 1 0 = 2) ∧
    (let s := boundAt (trialContext .draining)
     let t := { s with sched := { s.sched with ctxarea := 0x000001000000003B } }
     let w := lateOne
     t.drained 0 = true ∧ ({ t with late := [w] }).drained 0 = false ∧ t.areaPlace (State.imagePages (t.coreCount 0)) = some 0) ∧
    ((trialContext (.saving 900)).losses = [] ∧ (trialContext (.restoring 900)).losses = []) ∧
    ((eventAt Arg.none).sched.saved = [] ∧ bits (0x010000000000003B : Word) 21 16 + bits (0x010000000000003B : Word) 5 0 ≤ 59 ∧
      (∀ i, i < 24 → (eventAt Arg.none).module.hbmret.getD i 0 = 0) ∧
      ¬ bits (0x000000000001003B : Word) 21 16 + bits (0x000000000001003B : Word) 5 0 ≤ 59) := by decide +kernel
/-- A core that drains with room in the area: a save, and a restore of what it has written, give it back. -/
theorem witness_save_restore :
    let s := boundAt (trialContext .draining)
    let t := { s with sched := { s.sched with ctxarea := 0x000001000000003B } }
    t.areaOff + t.areaSize ≤ 59 ∧ t.coresIn 0 ≠ [] ∧ (t.coresIn 0).Nodup ∧
      (∀ c ∈ t.coresIn 0, (c.mem.loc.wf = true ∧ (∀ z ∈ c.mem.loc.cells, z.1 < localBytes) ∧ c.mem.imem.wf = true ∧
        (∀ z ∈ c.mem.imem.cells, z.1 < 2 ^ 18) ∧ c.reg.s.getD 0 0 = 0 ∧ (∀ i, i < 16 → c.reg.f.getD i 0 &&& 0x07FFFFC7 = c.reg.f.getD i 0) ∧
        c.reg.mxcfg &&& rwMask 0x080 = c.reg.mxcfg ∧ c.sys.carderr &&& 0xFFE0FFFF0000FFFF = c.sys.carderr ∧
        c.sys.cardpos0 &&& 0xFFFFFFFF0001FFFF = c.sys.cardpos0 ∧ c.sys.phnum.toNat < 2 ^ 33 ∧ c.trap.tvec &&& rwMask 0x108 = c.trap.tvec ∧
        c.trap.tctl &&& rwMask 0x109 = c.trap.tctl ∧ c.sys.sigctl &&& rwMask 0x150 = c.sys.sigctl ∧ c.ctl.redirects = []) ∧
        t.rel 0 c.idx < t.coreCount 0 ∧ ∀ d ∈ t.coresIn 0, t.rel 0 d.idx = t.rel 0 c.idx → d = c) := by decide +kernel
/-- A resume entry of a saved image whose check word holds, and of one whose does not. -/
theorem witness_resume :
    let s := chosenState.putPart 0 { chosenState.part 0 with chosen := some (chosenLaunch, true) }
    let s := { s with sched := { s.sched with saved := [savedOne], ctxarea := 0x000001000000003B } }
    let xor := fun (u : State) => (State.xorCells ((u.savedMemory savedOne).cells.filter (fun c => decide (0x1000 ≤ c.1))) ==
      BitVec.ofNat 64 ((u.savedMemory savedOne).readNat 0x20 8))
    (s.part 0).ctx = none ∧ (s.part 0).chosen = some (chosenLaunch, true) ∧ savedOne.queue = chosenLaunch.queue ∧
      xor { s with mem := Memory.empty } = true ∧ xor { s with mem := Memory.empty.write (s.areaDpa 0x1000) [1] } = false := by decide +kernel
theorem witness_bind_completes : chosenState.bindFault 0 chosenLaunch validImage = none := chosen_binds
/-- Events of reticle 0. -/
def reticleEvent (w : Word) : State := eventAt { Arg.none with win := .reticle 0, value := w }
theorem witness_TranslationEventsComplete :
    ((reticleEvent 0).arg.win = .reticle 0 ∧ ((reticleEvent 0).ret 0).tinvctl.getLsbD 0 = false ∧ bits (0 : Word) 11 10 ≠ 3) ∧
    (State.winReticles (reticleEvent 0).arg = [0] ∧ State.winReticles { Arg.none with win := .everyReticle } = List.range 48 ∧
      bits (0xC00 : Word) 11 10 = 3) ∧
    (let s := (reticleEvent 0).putRet 0 { (State.reset.ret 0) with tinvctl := 1, tinv := some { scope := 2, tag := 0, lo := 0, hi := 1, waits := [] } }
     (s.ret 0).tinvctl.getLsbD 0 = true ∧ (s.ret 0).tinv.isSome = true ∧ s.dyingIn 0 = 0 ∧
     (let e : TlbEntry := { id := 1, pins := 1, tag := 7, va := 0, size := 17, dpa := 0, rd := true, wr := true, at_ := true, cd := false, nm := false
                            dying := true, count := 1, used := 0 }
      let u := s.act (fun c => { c with aux := { c.aux with tlb := [e] } })
      0 < u.dyingIn 0 ∧ u.tagClear 7 = false)) ∧
    (let s := held (.release (planRelease releasing.landNow none).1) (reticleEvent 0)
     let u := fun (c : State) => c.putRet 0 { (c.ret 0) with tinv := some { scope := 2, tag := 0, lo := 0, hi := 1, waits := [0] } }
     s.translatingIn 0 = [0] ∧ ((u s).translatingIn 0).contains 0 = true ∧ (u (reticleEvent 0)).translatingIn 0 = [] ∧
       (reticleEvent 0).translatingIn 0 = [] ∧ ((u s).ret 0).tinv.isSome = true) ∧
    ((eventAt Arg.none).tagHeld 7 = false ∧ (eventAt Arg.none).tagClear 7 = true ∧ (boundAt (trialContext .running)).tagHeld 7 = true) ∧
    (let s := eventAt { Arg.none with value := 0x0840 }
     s.module.hbmrcmd.getLsbD 0 = false ∧ bits s.arg.value 15 11 ≤ 23 ∧ s.channelGone 1 1 = false ∧ s.areaNames 1 = false ∧
       ¬ bits (0xF800 : Word) 15 11 ≤ 23 ∧ s.module.retiring = none ∧
       ({ s with module := { s.module with hbmrcmd := 1 } }).module.hbmrcmd.getLsbD 0 = true) ∧
    (let s := { eventAt Arg.none with module := { Module.reset with retiring := some (1, 1), hbmrcmd := 1 } }
     s.module.retiring = some (1, 1) ∧ s.channelQuiet 1 1 = true ∧
       (let e : TlbEntry := { id := 1, pins := 0, tag := 7, va := 0, size := 17, dpa := 2 ^ 36 + 2 ^ 17, rd := true, wr := true
                              at_ := true, cd := false, nm := false, dying := true, count := 1, used := 0 }
        (s.act (fun c => { c with aux := { c.aux with tlb := [e] } })).channelQuiet 1 1 = false)) := by decide +kernel

theorem witness_PortEventsComplete :
    (eventAt Arg.none).module.cxl.getD 0 .untrained = .untrained ∧
    (portState (fun m => { m with cxl := m.cxl.set 0 .up })).module.cxl.getD 0 .untrained = .up ∧
    (eventAt Arg.none).module.uller.getD 0 .untrained = .untrained ∧
    (let s := portState (fun m => { m with uller := (m.uller.set 0 .up).set 1 .up })
     s.module.uller.getD 0 .untrained = .up ∧ (∃ i, i < 4 ∧ i ≠ 0 ∧ s.module.uller.getD i .untrained = .up)) ∧
    (let s := portState (fun m => { m with uller := m.uller.set 0 .up })
     s.module.uller.getD 0 .untrained = .up ∧ (∀ i, i < 4 → i ≠ 0 → s.module.uller.getD i .untrained ≠ .up)) ∧
    (eventAt Arg.none).module.weft.getD 35 .untrained = .untrained ∧
    (portState (fun m => { m with weft := m.weft.set 35 .up })).module.weft.getD 35 .untrained = .up ∧
    (let c := { trialCard with reach := [2 ^ 46 + 1, 2 ^ 47] }
     c.ended = false ∧ (∃ g ∈ c.reach, dpaClass (64 * g) = 1 ∧ cxlPort (64 * g) = 0) ∧ ∃ g ∈ c.reach, dpaClass (64 * g) = 2) ∧
    (let c := cardAtWork .read [.fetch [2 ^ 54 + 0x40]]
     ∃ g ∈ c.granules, ∃ a ∈ g.targets, a < 2 ^ 56 ∧ dpaClass a = 4 ∧
       bits ((joined (eventAt Arg.none)).module.wroute.getD (peerModule a) 0) 5 0 +
         a / 64 % 8 % max 1 (bits ((joined (eventAt Arg.none)).module.wroute.getD (peerModule a) 0) 11 9) = 5) ∧
    bits (0x8000000000000C1E : Word) 5 0 + bits (0x8000000000000C1E : Word) 11 9 ≤ 36 ∧
    ¬ bits (0x8000000000000C1F : Word) 5 0 + bits (0x8000000000000C1F : Word) 11 9 ≤ 36 := by decide +kernel
/-- The link of a core's far accesses changes when Uller link 0 goes down. -/
theorem witness_link_changes :
    let s := portState (fun m => { m with uller := (m.uller.set 0 .up).set 1 .up })
    let t := portState (fun m => { m with uller := (m.uller.set 0 .down).set 1 .up })
    lateOne.link = s.linkOf (blockOf lateOne.core) (64 * lateOne.granule) ∧ lateOne.link.isSome = true ∧
      lateOne.link ≠ t.linkOf (blockOf lateOne.core) (64 * lateOne.granule) := by decide
/-- Some module number is not this module's, so that its route may be written. -/
theorem witness_route : ∃ n : Nat, n < 64 ∧ n ≠ Config.moduleNumber % 64 := by
  rcases Nat.eq_zero_or_pos (Config.moduleNumber % 64) with h | h
  · exact ⟨1, by decide, by omega⟩
  · exact ⟨0, by decide, by omega⟩

/-- Ports 0 and 1 are up and hold persistent ranges of 6,000 and 6,405 units of 128 MiB. -/
def persists (m : Module) : Module :=
  { m with cxlp := (m.cxlp.set 0 0x8000000000001770).set 1 0x8000000000005905, cxl := (m.cxl.set 0 .up).set 1 .up }
def twoRanges : List (Nat × Nat) := [(2 ^ 52, 6000 * 2 ^ 27), (2 ^ 52 + 2 ^ 41 + 2 ^ 27, 6405 * 2 ^ 27)]
def checkpointing (op : Word) (s : State) : State :=
  { s with module := { persists s.module with ckptEnd := some 900, ckptctl := 1, ckptst := op } }
def homeOf (w : Option Nat) (m : Option Nat) : HomeEntry := { block := 2, unit := 3, want := w, moving := m }
theorem witness_CheckpointsAndHomesComplete :
    ((eventAt Arg.none).module.ckptctl.getLsbD 0 = false ∧ (eventAt Arg.none).parts.toList.all (fun p => p.ctx.isNone) = true ∧
      ((portState persists).persistent.map (·.2)).foldl (· + ·) 0 = 12405 * 2 ^ 27 ∧ ckptSize ≤ 12405 * 2 ^ 27) ∧
    (let s := checkpointing 1 (eventAt Arg.none)
     s.module.ckptEnd.any (fun t => decide (t ≤ s.cycle)) = true ∧ bits s.module.ckptst 3 0 = 1 ∧ s.ckptPortDown = false ∧
       s.persistent = twoRanges ∧ (twoRanges.map (·.2)).foldl (· + ·) 0 = 12405 * 2 ^ 27 ∧
       twoRanges.Pairwise (fun x y => x.1 + x.2 ≤ y.1) ∧ s.memWf = true ∧ s.allCores.all (fun c => decide (c.idx < 49152)) = true ∧
       s.allCores.all (fun c => c.mem.loc.cells.all (fun z => decide (z.1 < localBytes)) &&
         c.mem.imem.cells.all (fun z => decide (z.1 < 2 ^ 18))) = true) ∧
    (let s := checkpointing 2 (eventAt Arg.none)
     s.module.ckptEnd.any (fun t => decide (t ≤ s.cycle)) = true ∧ bits s.module.ckptst 3 0 = 2 ∧ s.ckptPortDown = false ∧
       s.persistent = twoRanges ∧ (regionAt twoRanges 0).getD 0 = 2 ^ 52 ∧ s.poisoned (2 ^ 52) = false ∧
       ({ s with poison := [2 ^ 46] }).poisoned (2 ^ 52) = true ∧
       ({ s with module := { s.module with cxl := s.module.cxl.set 0 .down } }).ckptPortDown = true) ∧
    ((eventAt Arg.none).module.migctl.getLsbD 0 = true ∧
      (portState (fun m => { m with migctl := 0x40100000 })).module.migctl.getLsbD 0 = false) ∧
    (let s := { portState (fun m => { m with homes := [homeOf (some 5) none] }) with arg := { Arg.none with n := 2 } }
     s.module.homes.find? (fun h => h.block == s.arg.n) = some (homeOf (some 5) none) ∧ s.blockInUse s.arg.n = false ∧
       s.heldAt 5 < 32 ∧ s.moveCarried 2 3 5 = true ∧ (eventAt Arg.none).module.homes.find? (fun h => h.block == 2) = none) ∧
    (let s := { portState (fun m => { m with homes := [homeOf (some 11) (some 900)] }) with arg := { Arg.none with n := 2 } }
     s.module.homes.find? (fun h => h.block == s.arg.n && h.moving.any (fun t => decide (t ≤ s.cycle))) =
       some (homeOf (some 11) (some 900)) ∧ s.module.homes.filter (fun x => x.block != s.arg.n) = []) ∧
    (let w := { lateOne with granule := 1, seenBy := [(1, 0)], bytes := [(0x40, 5)] }
     let s := { eventAt { Arg.none with n := 0x40, m := 4, bytes := toBytes 8 1 } with late := [w], poison := [1] }
     s.arg.n / 64 = w.granule ∧ w.link.isSome = true ∧ w.seenBy ≠ [] ∧ s.poisoned s.arg.n = true ∧
       ({ s with poison := [] }).poisoned s.arg.n = false) ∧
    bits (0x00010000 : Word) 23 16 ≠ 0 ∧ bits (0 : Word) 23 16 = 0 ∧ dpaClass 0x40 = 0 ∧ dpaClass (2 ^ 52) = 1 ∧
    dpaClass (2 ^ 53) = 2 ∧ dpaClass (2 ^ 54) = 4 ∧ ¬ (dpaClass (3 * 2 ^ 52) ≤ 2 ∨ dpaClass (3 * 2 ^ 52) = 4) := by decide +kernel
/-- A saved checkpoint has a sound header, whatever the check code is. -/
theorem witness_checkpoint_header :
    let m := Memory.empty.write (2 ^ 52) (State.headerBytes 0)
    m.readNat (2 ^ 52) 8 = 0 ∧ m.readN (2 ^ 52) 16 = State.headerBytes (m.readNat (2 ^ 52) 8) := by
  have hl : (State.headerBytes 0).length = 16 := by simp [State.headerBytes, toBytes]
  have h8 : (State.headerBytes 0).take 8 = toBytes 8 0 := by simp [State.headerBytes, toBytes]
  have h0 : (Memory.empty.write (2 ^ 52) (State.headerBytes 0)).readNat (2 ^ 52) 8 = 0 := by
    rw [Memory.readNat, Memory.readN_write Memory.empty_wf _ _ 8 (by omega), h8]; decide
  refine ⟨h0, ?_⟩
  rw [h0, Memory.readN_write Memory.empty_wf _ _ 16 (by omega), List.take_of_length_le (by omega)]
/-! Boot, power and management -/

/-- Reticle 0 in a boot stage, on a fabric cycle. -/
def bootState (at_ : Nat) (a : Arg) (f : Boot → Boot) : State :=
  ({ eventAt a with cycle := at_ }).putRet 0 { (State.reset.ret 0) with boot := f Boot.reset }
def childOf (sel heard : Nat) : Child := { sel := sel, accepted := false, heard := heard, pieces := [], whole := false }
theorem witness_BootCompletes :
    ((State.reset.power = false ∨ State.reset.cycle = 0) ∧ (eventAt Arg.none).power = true ∧ (eventAt Arg.none).cycle ≠ 0) ∧
    (let s := bootState (40 * 1600000) Arg.none id
     (s.ret 0).boot.stage = .b1 ∧ 40 * 1600000 ≤ s.cycle - (s.ret 0).boot.start ∧ mapSound 0 (s.ret 0).fused = true ∧
       mapSound 0 [] = false) ∧
    (let s := bootState (40 * 1600000) Arg.none (fun b => { b with start := 1 })
     (s.ret 0).boot.stage = .b1 ∧ s.cycle - (s.ret 0).boot.start < 40 * 1600000) ∧
    (let s := fun (n : Nat) => bootState (40 * 1600000 + 640) Arg.none (fun b => { b with stage := .b2, probes := n })
     ((s 1).ret 0).boot.stage = .b2 ∧ ((s 1).ret 0).boot.probes < 1024 ∧
       40 * 1600000 + 640 * ((s 1).ret 0).boot.probes ≤ (s 1).cycle ∧ ¬ 40 * 1600000 + 640 * ((s 2).ret 0).boot.probes ≤ (s 2).cycle) ∧
    ((0 % 8 + 0 / 8) % 2 = 0 ∧ (1 % 8 + 1 / 8) % 2 = 1 ∧ (9 % 8 + 9 / 8) % 2 = 0) ∧
    (let s := bootState (42 * 1600000) Arg.none (fun b => { b with stage := .b2 })
     (s.ret 0).boot.stage = .b2 ∧ 42 * 1600000 ≤ s.cycle) ∧
    (let s := bootState (43 * 1600000) Arg.none (fun b => { b with stage := .b3, ul := true, anyUl := true, round := 47 })
     (s.ret 0).boot.stage = .b3 ∧ (s.ret 0).boot.round < 48 ∧ 42 * 1600000 + 20 * 1600 * 47 ≤ s.cycle ∧
       43 * 1600000 ≤ s.cycle ∧ (State.neighbour 0 1).isSome = true ∧ State.delayOf [48] = 16 ∧
       (s.ret 0).boot.best.2 = 0 ∧ (s.ret 0).boot.anyUl = true) ∧
    (let s := bootState (50 * 1600000) Arg.none (fun b => { b with stage := .b4, inTree := true })
     let u := { s with module := { s.module with granted := true, claims := [(0, 0)], claimAt := some (49 * 1600000) } }
     u.b5Due 0 = true ∧ s.b5Due 0 = false ∧ u.module.claims = (0, 0) :: [] ∧ u.module.claimAt = some (49 * 1600000) ∧
       49 * 1600000 + 500 * 1600 ≤ u.cycle ∧ ¬ 49 * 1600000 + 500 * 1600 ≤ u.cycle - 1600000 ∧ s.module.claims = []) ∧
    (let s := bootState (50 * 1600000) { Arg.none with sel := 1 } (fun b => { b with children := [childOf 1 0] })
     (s.ret 0).boot.children.any (fun c => c.sel == s.arg.sel && s.childLate c) = true) ∧
    (let s := bootState (93 * 1600000) Arg.none (fun b => { b with stage := .b4 })
     93 * 1600000 ≤ s.cycle ∧ (s.ret 0).boot.finished = false ∧ (s.ret 0).boot.stage = .b4) := by decide +kernel

/-- A message of a type from reticle 1 is at reticle 0's east selvedge. -/
def heard (type : Nat) (payload : List Nat) (f : Boot → Boot) : State :=
  bootState 65000000 { Arg.none with sel := 1, bytes := bootBytes type 1 63 payload } f
def hears0 (s : State) (type : Nat) : Bool :=
  bootSound s.arg.bytes && (s.ret 0).boot.stage != .dead && (s.arg.bytes.getD 0 0).toNat == type
theorem witness_BootMessagesComplete :
    bootSound [1, 2, 3] = false ∧ (List.range 9).all (fun i => hears0 (heard (i + 1) [] id) (i + 1)) = true ∧
    State.neighbour 0 1 = some 1 ∧ (heard 1 [] (fun b => { b with stage := .b2 })).mute 0 = false ∧
    (let s := { heard 2 (payloadOf 4 1 ++ payloadOf 4 (probePattern 1)) (fun b => { b with
       stage := .b2, sent := Vector.replicate 4 [64000000, 64000640] }) with cycle := 64000700 }
     let i := payloadNat s.arg.bytes 0 4
     let left := (s.ret 0).boot.sent.getD 1 []
     (s.ret 0).boot.stage = .b2 ∧ i = 1 ∧ i < left.length ∧ payloadNat s.arg.bytes 4 4 = probePattern i ∧
       s.cycle - left.getD i 0 ≤ 512 ∧ ¬ s.cycle + 453 - left.getD i 0 ≤ 512) ∧
    (let s := heard 3 [0, 3, 5, 9] (fun b => { b with stage := .b3, judged := 2 })
     (s.ret 0).boot.stage = .b3 ∧ payloadAt s.arg.bytes 0 = 0 ∧ payloadAt s.arg.bytes 1 % 2 = 1 ∧
       (s.ret 0).boot.judged.getLsbD 1 = true) ∧
    (let s := heard 4 [] (fun b => { b with stage := .b4, judged := 2, called := 2 })
     (s.ret 0).boot.stage = .b4 ∧ s.cycle < 93 * 1600000 ∧ s.bootHealthy 0 1 = true ∧ (s.ret 0).boot.inTree = false) ∧
    (let s := heard 9 [] (fun b => { b with stage := .b4, parent := some 1 })
     (s.ret 0).boot.parent = some 1 ∧ (s.ret 0).loomOn = false ∧ (s.ret 0).boot.finished = false) := by decide +kernel

/-- Where B1 finds the map unsound, the reticle is silent before its own B2, whatever its ROM and tests show. -/
theorem tiles_keep_ret (es : List (Nat × Nat × Nat)) (f : State → Nat × Nat × Nat → Tile) (s : State) (r : Nat) :
    (es.foldl (fun s e => s.putTile (f s e)) s).ret r = s.ret r := by
  induction es generalizing s with
  | nil => rfl
  | cons e es ih => exact (ih _).trans rfl
theorem witness_mute (s : State) (r : Nat) (h : (s.boot r).stage = .b1) (hf : mapSound r (s.ret r).fused = false) (hr : r < 48) :
    s.mute r = true := by
  have e := tiles_keep_ret (r := r) (f := fun s e => { s.tileAt (r * 512 + 32 * e.1 + e.2.1) with detour := e.2.2 })
  have d : (s.selfTest r).bootLive r = false := by
    simp only [State.selfTest, State.bootLive, State.boot, e, State.ret_putRet _ _ _ hr, hf]
    simp
  rw [State.mute, h, d]; rfl
theorem witness_silent : let s := (heard 1 [] id).putRet 0 { ((heard 1 [] id).ret 0) with fused := [] }
    (s.boot 0).stage = .b1 ∧ mapSound 0 (s.ret 0).fused = false ∧ hears0 s 1 = true := by decide +kernel

/-- Region 0 computes, or exchanges, on an even loom cycle whose bit 1 is set. -/
def powered (x : Region) (phase : Option (Nat × Nat × Nat)) : State :=
  loomRuns ({ boundAt { trialContext .running with xphase := phase } with cycle := 1002 }.putRegion 0 x)
theorem witness_PowerEventsComplete :
    (bits (0x000C060000040000 : Word) 47 40 < bits (0x000C060000040000 : Word) 55 48 ∧ bits (0 : Word) 55 48 ≤ bits (0 : Word) 47 40) ∧
    (bits (0x0000695F00000000 : Word) 39 32 < bits (0x0000695F00000000 : Word) 47 40 ∧
      bits (0x0000695F00000000 : Word) 47 40 ≤ 0x78 ∧ 0x78 < bits (0x0000795F00000000 : Word) 47 40) ∧
    (10000 ≤ bits (0x0000000CB2000001 : Word) 35 20 ∧ bits (0x0000000CB2000001 : Word) 35 20 ≤ 52000 ∧
      bits (0 : Word) 35 20 < 10000 ∧ 52000 < bits (0x0000000FFFF00001 : Word) 35 20) ∧
    ((powered .reset none).pairStart 0 = true ∧ ({ powered .reset none with cycle := 1003 }).pairStart 0 = false) ∧
    ((Region.reset.step ≠ some ((1002 : Nat) / 320 - 1)) ∧ ({ Region.reset with step := some 2 }).step = some (1002 / 320 - 1) ∧
      (powered .reset none).loomOf 0 = 1002) ∧
    ((powered .reset none).byStep 0 = false ∧ (powered { Region.reset with act := 2000000 } none).byStep 0 = true) ∧
    ((powered { Region.reset with below := 31 } none).alarmNow 0 = true ∧
      (powered { Region.reset with below := 31 } none).byDroop 0 = true) ∧
    ((powered { Region.reset with below := 31 } (some (1000, 4, 0))).alarmNow 0 = true ∧
      (powered { Region.reset with below := 31 } (some (1000, 4, 0))).inExchange 0 = true ∧
      (powered { Region.reset with below := 31 } (some (1000, 4, 0))).floorNow 0 = false) ∧
    ((powered { Region.reset with below := 61 } (some (1000, 4, 0))).floorNow 0 = true ∧
      (powered { Region.reset with below := 61 } (some (1000, 4, 0))).partOfRegion 0 = some 0) ∧
    (let s := powered { Region.reset with below := 61, rpctl := 0x000C0D0000040000 } none
     s.floorNow 0 = true ∧ s.byDroop 0 = true ∧ s.inExchange 0 = false ∧ s.alarmNow 0 = false) ∧
    ((powered { Region.reset with temp := 1520 } none).byHeat 0 = true ∧
      (powered { Region.reset with temp := 1520 } none).critNow 0 = false ∧
      (powered { Region.reset with temp := 1680 } none).byHeat 0 = true ∧
      (powered { Region.reset with temp := 1680 } none).critNow 0 = true) ∧
    (let s := powered .reset none
     ({ s with module := { s.module with watts := 60000 } }).byPower 0 = true) ∧
    (let e : GranuleLog := { card := some 4, granule := 2 ^ 46, bytes := [(2 ^ 52, 0, 5), (2 ^ 52 + 1, 0, 6)], was := false, mark := none }
     let s := { portState (fun m => { m with cxlp := m.cxlp.set 0 0x8000000000003075 }) with cards := [trialCard], journal := [e, e] }
     s.isPersistent (2 ^ 52) = true ∧ s.isPersistent (2 ^ 52 - 1) = false ∧ s.journal = [] ++ e :: [e] ∧ s.journal = [e] ++ e :: [] ∧
       (e.bytes.map (·.1)).Nodup ∧ (∀ b ∈ e.bytes, b.1 ≠ 2 ^ 52 + 2) ∧ trialCard.id = 4 ∧ ({ s with cards := [] }).cards = []) := by
  decide +kernel

theorem witness_ManagementCompletes :
    ((eventAt Arg.none).module.plcmd.getLsbD 0 = false ∧ (1 : Word).getLsbD 0 = true ∧ (0xFFFF0000 : Word).getLsbD 0 = false ∧
      (portState (fun m => { m with plcmd := 1 })).module.plcmd.getLsbD 0 = true) ∧
    (let s := portState (fun m => { m with plcmd := 1, plEnd := some 900 })
     s.module.plEnd.any (fun t => decide (t ≤ s.cycle)) = true ∧ s.sourceOk s.sourceImage = false) ∧
    (eventAt Arg.none).module.instkey.getD 0 none = none ∧
    ((portState (fun m => { m with instkey := m.instkey.set 0 (some 1) })).module.instkey.getD 0 none).isSome = true ∧
    (let s := (eventAt Arg.none).putPart 0 { Part.reset with tstop := 0x8000000000000000, dstop := 3 }
     s.stopped 0 = true ∧ (s.part 0).dstop.getLsbD 1 = true ∧ (State.reset.part 0).dstop.getLsbD 1 = false) ∧
    (eventAt { Arg.none with win := .region 5 }).arg.win = .region 5 ∧ 0x020 / 8 * 8 = 0x020 ∧
    (eventAt Arg.none).coreOpen 0 = true ∧ (boundAt (trialContext .running)).coreOpen 0 = false ∧
    (eventAt Arg.none).debugOpen 0 = true ∧ (boundAt (trialContext .running)).debugOpen 0 = false ∧
    (let s := (boundAt (trialContext .running)).putPart 0 { (boundAt (trialContext .running)).part 0 with tstop := 0x8000000000000000 }
     s.coreOpen 0 = true ∧ s.debugOpen 0 = false) ∧
    0x285008 / 8 * 8 = 0x285008 ∧ 0x284E80 / 8 * 8 = 0x284E80 ∧ bits (3 : Word) 1 0 = 3 ∧ bits (6 : Word) 1 0 ≠ 3 ∧
    (eventAt Arg.none).partOf (2 * 0) = none ∧
    (let s := boundAt (trialContext .running)
     s.partOf (2 * 0) = some 0 ∧ s.halted 0 = false) := by decide +kernel
theorem witness_ConstantRegisters : (63#6) ≠ 0 ∧ ((Core.reset 0).reg.setS 63 7).getS 63 = 7 := by decide
def agendaSlot (o : Out) : Bool := match o with | .next t => (match t.agenda with | (j, b) :: _ => j.isSlot && b.bundle | [] => false) | _ => false
def outNext (o : Out) (p : State → Bool) : Bool := match o with | .next t => p t | _ => false
/-- S5 = 5 and S6 = 6, and the next bundle adds them into S5. -/
def adding : State :=
  (State.reset.act (fun c => { c with reg := (c.reg.setS 5 5).setS 6 6 })).withFetchWord 32 0x00014518
theorem witness_StepRunsTheDecoded :
    State.reset.agenda = (.powerGood, Arg.none) :: [] ∧
    decodeTableSlot 32 0x00014518 = some (.sa, .add false { g := 0, d := 5, a := 5, b := 6 }) ∧ 0x00014518 < 2 ^ 32 ∧
    (match adding.agenda with
      | (i, a) :: rest => agendaSlot (exec i { adding with agenda := rest, arg := a }) | [] => false) = true := by decide +kernel
/-- One step issues the bundle that stands at the PC: the sum is due, and the PC has passed the bundle's two words. -/
theorem test_step_issues : outNext (step adding) (fun t =>
    t.core.ctl.pc == 8 && t.core.ctl.lands.any (fun l => l.eff == .sreg 5 11)) = true := by decide +kernel
theorem witness_StepNeverRefuses : (let s := { State.reset with agenda := [], power := false }
    s.agenda = [] ∧ s.power = false ∧ s.inbox = []) := by decide
theorem witness_DecodeEncode : (Instr.add false { g := 0, d := 5, a := 5, b := 6 }).wf = true ∧
    encode (.add false { g := 0, d := 5, a := 5, b := 6 }) = some (.sa, 0x00014518) ∧
    decodeSlot .sa 0x00014518 = .ok (.add false { g := 0, d := 5, a := 5, b := 6 }) := by decide
theorem witness_StepKeepsMemoryCanonical : State.reset.memWf = true ∧ outNext (step State.reset) (fun _ => true) = true := by
  decide +kernel
end Sys2Proof.Tests
end

section
/-! The memories: what the canonical form determines. -/

namespace Sys2Proof.Machine
open Sys2Proof

/-- Settles O59: every memory is empty at reset. -/
theorem resetMemoryCanonical : Obligations.ResetMemoryCanonical := by
  unfold Obligations.ResetMemoryCanonical
  rfl

namespace Memory

/-- The cells of a canonical memory are its bytes that differ from 0. -/
theorem mem_cells_iff {m : Memory} (h : m.wf = true) (c : Host.Cell) : c ∈ m.cells ↔ m.read c.1 = c.2 ∧ c.2 ≠ 0 := by
  constructor
  · exact fun hc => ⟨read_of_mem h hc, ((wf_iff m).mp h).2 c hc⟩
  · rintro ⟨hr, hz⟩
    rcases read_cases h c.1 with ⟨hm, -⟩ | ⟨-, h0⟩
    · rwa [hr] at hm
    · exact absurd (hr.symm.trans h0) hz

/-- Canonical memories that read alike are equal. -/
theorem eq_of_read_eq {m m' : Memory} (h : m.wf = true) (h' : m'.wf = true) (hr : ∀ x, m'.read x = m.read x) : m' = m := by
  have hs := ((wf_iff m).mp h).1
  have hs' := ((wf_iff m').mp h').1
  have hmem : ∀ c, c ∈ m'.cells ↔ c ∈ m.cells := fun c => by rw [mem_cells_iff h', mem_cells_iff h, hr]
  have hn {cs : List Host.Cell} (hp : cs.Pairwise (fun c d => c.1 < d.1)) : cs.Nodup :=
    hp.imp (fun hcd he => by rw [he] at hcd; exact lt_irrefl _ hcd)
  have hperm : m'.cells.Perm m.cells := (List.perm_ext_iff_of_nodup (hn hs') (hn hs)).mpr hmem
  have : m'.cells = m.cells := hperm.eq_of_pairwise (fun c d _ _ hcd hdc => absurd (hcd.trans hdc) (lt_irrefl _)) hs' hs
  cases m; cases m'; exact congrArg Memory.mk this

end Memory

/-- Settles O29 from the laws of `Memory.write` and the uniqueness of the canonical form. -/
theorem memoryReadAfterWrite : Obligations.MemoryReadAfterWrite := by
  unfold Obligations.MemoryReadAfterWrite
  intro m a bs h
  refine ⟨fun i hi => ?_, fun x hx => Memory.read_write_out h a bs x hx, Memory.write_wf h a bs, ?_,
    fun m' h' hr => Memory.eq_of_read_eq h h' hr⟩
  · rw [Memory.read_write_in h a bs i hi, List.getD_eq_getElem _ _ hi]
  · rw [Memory.readN_write h a bs bs.length le_rfl, List.take_length]

end Sys2Proof.Machine
end

section
/-! SYS.RD, SYS.WR and FMT.WR: the fields that a read clears and those that a write leaves to be read. -/

namespace Sys2Proof.Machine
open Sys2Proof

/-- Words that agree on a field's bits agree on the field. -/
theorem bits_congr {a b : Word} {hi lo : Nat} (h : ∀ i, lo ≤ i → i ≤ hi → a.getLsbD i = b.getLsbD i) : bits a hi lo = bits b hi lo := by
  apply Nat.eq_of_testBit_eq; intro i
  rw [testBit_bits, testBit_bits]
  by_cases g : i < hi + 1 - lo
  · rw [h (lo + i) (by omega) (by omega)]
  · simp [g]

/-- The RC fields of MEMERR, bits [55:32], are those of `old`; every other bit is that of `now` (rules R11, R69). -/
theorem getLsbD_rcRead (now old : Word) (i : Nat) (h : i < 64) :
    (rcRead now old).getLsbD i = if 32 ≤ i ∧ i < 56 then old.getLsbD i else now.getLsbD i := by
  have hn : ∀ i : Fin 64, (0xFF000000FFFFFFFF#64).getLsbD i = decide (¬ (32 ≤ i.val ∧ i.val < 56)) := by decide
  have ho : ∀ i : Fin 64, (0x00FFFFFF00000000#64).getLsbD i = decide (32 ≤ i.val ∧ i.val < 56) := by decide
  rw [rcRead, BitVec.getLsbD_or, BitVec.getLsbD_and, BitVec.getLsbD_and, hn ⟨i, h⟩, ho ⟨i, h⟩]
  by_cases g : 32 ≤ i ∧ i < 56 <;> simp [g]

theorem bits_rcRead_old (now old : Word) {hi lo : Nat} (hl : 32 ≤ lo) (hh : hi < 56) :
    bits (rcRead now old) hi lo = bits old hi lo :=
  bits_congr (fun i h1 h2 => by rw [getLsbD_rcRead now old i (by omega), if_pos ⟨by omega, by omega⟩])

theorem bits_rcRead_now (now old : Word) {hi lo : Nat} (h : hi < 32 ∨ 56 ≤ lo) (hh : hi < 64) :
    bits (rcRead now old) hi lo = bits now hi lo :=
  bits_congr (fun i h1 h2 => by rw [getLsbD_rcRead now old i (by omega), if_neg (by omega)])

theorem Core.sysReadNow_of_ne (c : Core) (arr : Nat) {n : BitVec 12} (h : n ≠ 0x031) : c.sysReadNow arr n = c.sysRead arr n := by
  rw [sysReadNow, if_neg h]
theorem Core.sysClear_of_ne (c : Core) {n : BitVec 12} (h : n ≠ 0x031) : c.sysClear n = c := by rw [sysClear, if_neg h]
theorem Core.sysClear_memerr (c : Core) : (c.sysClear 0x031).sys.memerr = rcRead c.sys.memerr c.aux.memNew := rfl

/-- SYS.RD leaves its value in flight and clears the RC fields of its register (rule R256). -/
theorem exec_sysRd {s : State} {o : SyrOps} (h : s.issuing o.g) {x : Word}
    (hx : s.core.ctl.rdLatch.getD (s.core.sysReadNow s.arr o.n) = x) :
    ∃ l : Landing, l.of s .sb 2 ∧ l.nan = none ∧ l.eff = .sreg (physS s.core.reg.rotb o.d) x ∧
      exec (.sysRd o) s = .next ((s.landing l).act (fun c => c.sysClear o.n)).close := by
  have hi : exec (.sysRd o) s = issue (.sysRd o) o.g (sysRdEffect o) s := rfl
  subst hx
  rw [hi, issue_bundle _ _ _ _ h]
  exact ⟨{ due := s.core.ctl.cc + 2, issued := s.core.ctl.cc, slot := Slot.sb.num, cba := s.core.ctl.pc, op := 0x90
           eff := .sreg (physS s.core.reg.rotb o.d) _, nan := none }, ⟨rfl, rfl, rfl, rfl⟩, rfl, rfl, rfl⟩

/-- Settles O6: each instruction's effect behind the gate, and the field split of MEMERR. -/
theorem systemRegistersComplete : Obligations.SystemRegistersComplete := by
  unfold Obligations.SystemRegistersComplete
  intro s o w f
  refine ⟨fun h hl => ?_, fun x h hl => ?_, fun hn => s.core.sysClear_of_ne hn, ?_, ?_, ?_⟩
  · obtain ⟨l, hof, hnan, heff, hex⟩ := exec_sysRd h (by rw [hl, Option.getD_none])
    exact ⟨l, hof, hnan, heff, fun hn => s.core.sysReadNow_of_ne s.arr hn, hex⟩
  · obtain ⟨l, hof, hnan, heff, hex⟩ := exec_sysRd h (by rw [hl, Option.getD_some])
    exact ⟨l, hof, hnan, heff, hex⟩
  · rw [Core.sysClear_memerr]
    exact ⟨bits_rcRead_old _ _ (by decide) (by decide), bits_rcRead_old _ _ (by decide) (by decide),
      bits_rcRead_now _ _ (.inr (by decide)) (by decide), bits_rcRead_now _ _ (.inl (by decide)) (by decide)⟩
  · exact slotGives_of (eff := fun s => s.act (fun c => c.land .sb 0x91 1 (.sysw w.n (c.rs w.a)))) rfl rfl
  · rw [← BitVec.setWidth_eq_extractLsb' (by decide)]
    exact slotGives_of (eff := fun s => s.act (fun c =>
      c.land .sb 0x92 1 (.fmt f.f ((c.rs f.a).setWidth 32 &&& 0x07FFFFC7)))) rfl rfl

namespace Core

/-- The scratch registers take every bit (rule R361). -/
theorem sysRead_sysWrite_tscr (c : Core) (arr : Nat) (x : Word) {n : BitVec 12} (h1 : 0x110 ≤ n.toNat) (h2 : n.toNat ≤ 0x117) :
    (c.sysWrite n x).sysRead arr n = x := by
  have hm : rwMask n.toNat = BitVec.allOnes 64 := by
    unfold rwMask
    split
    case h_12 => simp [h1, h2]
    all_goals omega
  have hw : c.sysWrite n x = { c with trap := { c.trap with tscr := c.trap.tscr.setIfInBounds (n.toNat - 0x110) x } } := by
    unfold sysWrite
    simp only [hm, BitVec.and_allOnes]
    iterate 6 rw [if_neg (by omega)]
    rw [if_pos (by simp [h1, h2])]
  rw [hw]
  unfold sysRead
  dsimp only
  iterate 4 rw [if_neg (by simp; omega)]
  rw [if_pos (by simp [h1, h2])]
  simp [Vector.getD, show n.toNat - 0x110 < 8 by omega]

/-- A number that SYS.WR may not name has no effect (rules R219, R257). -/
theorem sysWrite_of_not_writable (c : Core) {n : BitVec 12} (x : Word) (h : sysWritable n = false) : c.sysWrite n x = c := by
  have hk (k : Nat) (hm : sysWritable (BitVec.ofNat 12 k) = true) : n.toNat ≠ k := by
    rintro rfl
    rw [BitVec.ofNat_toNat, BitVec.setWidth_eq, h] at hm
    cases hm
  have ht : ¬ (decide (0x110 ≤ n.toNat) && decide (n.toNat ≤ 0x117)) = true := by
    intro ht
    simp only [Bool.and_eq_true, decide_eq_true_eq] at ht
    simp [sysWritable, ht.1, show n.toNat ≤ 0x11B by omega] at h
  unfold sysWrite
  rw [if_neg (hk _ rfl), if_neg (hk _ rfl), if_neg (hk _ rfl), if_neg (hk _ rfl), if_neg (hk _ rfl), if_neg (hk _ rfl),
    if_neg ht, if_neg (hk _ rfl), if_neg (hk _ rfl), if_neg (hk _ rfl), if_neg (hk _ rfl), if_neg (hk _ rfl), if_neg (hk _ rfl)]

end Core

/-- Settles O7: each named register reads back what the write has left of it. -/
theorem systemRegisterFields : Obligations.SystemRegisterFields := by
  unfold Obligations.SystemRegisterFields
  intro c arr x
  dsimp only
  refine ⟨rfl, rfl, rfl, rfl, ?_, ?_, ?_, ?_, ?_, ?_, rfl, rfl, fun n => c.sysRead_sysWrite_tscr arr x,
    fun n hn => c.sysWrite_of_not_writable x hn⟩
  all_goals simp [Core.applyEffect, Core.sysWrite, Core.sysRead, rwMask]
end Sys2Proof.Machine
end

section
/-! The management windows, placement, installer keys and debug stops. -/

namespace Sys2Proof.Machine
open Sys2Proof

/-! ### Fields of a masked word -/

theorem bits_and (x m : Word) (hi lo : Nat) : bits (x &&& m) hi lo = bits x hi lo &&& bits m hi lo := by
  apply Nat.eq_of_testBit_eq; intro i
  simp only [testBit_bits, Nat.testBit_and, BitVec.getLsbD_and]
  cases decide (i < hi + 1 - lo) <;> simp

/-- A field outside a mask is 0. -/
theorem bits_and_of_zero {x m : Word} {hi lo : Nat} (h : bits m hi lo = 0) : bits (x &&& m) hi lo = 0 := by
  rw [bits_and, h, Nat.and_zero]

/-- A field inside a mask stays. -/
theorem bits_and_of_ones {x m : Word} {hi lo : Nat} (h : bits m hi lo = 2 ^ (hi + 1 - lo) - 1) :
    bits (x &&& m) hi lo = bits x hi lo := by
  rw [bits_and, h, Nat.and_two_pow_sub_one_eq_mod, Nat.mod_eq_of_lt (bits_lt x hi lo)]

theorem length_toBytes (n x : Nat) : (toBytes n x).length = n := by
  induction n generalizing x with
  | zero => rfl
  | succ n ih => rw [toBytes, List.length_cons, ih]

theorem getD_toBytes (n x i : Nat) (h : i < n) : (toBytes n x).getD i 0 = BitVec.ofNat 8 (x / 2 ^ (8 * i)) := by
  induction n generalizing x i with
  | zero => omega
  | succ n ih =>
    cases i with
    | zero => simp [toBytes]
    | succ i =>
      rw [toBytes, List.getD_cons_succ, ih _ _ (by omega), Nat.div_div_eq_div_mul, show 8 * (i + 1) = 8 + 8 * i by omega, Nat.pow_add]

/-- The bytes of a word, read where the word was written. -/
theorem Memory.read_write_word (m : Memory) (a : Nat) (w : Word) (i : Nat) (h : i < 8) :
    (m.write a (toBytes 8 w.toNat)).read (a + i) = w.extractLsb' (8 * i) 8 := by
  rw [read_write, length_toBytes, if_pos ⟨by omega, by omega⟩, Nat.add_sub_cancel_left, getD_toBytes _ _ _ h]
  apply BitVec.eq_of_toNat_eq
  simp [Nat.shiftRight_eq_div_pow]

namespace State

/-! ### The cores after an update of them all -/

theorem insertCore_map {f : Core → Core} (hf : ∀ c, (f c).idx = c.idx) (c : Core) :
    ∀ ds : List Core, insertCore (f c) (ds.map f) = (insertCore c ds).map f
  | [] => rfl
  | d :: ds => by
    rw [List.map_cons, insertCore, insertCore, hf, hf, insertCore_map hf c ds]
    split
    · rfl
    · split <;> rfl

theorem allCores_mapCores (s : State) {f : Core → Core} (hf : ∀ c, (f c).idx = c.idx) :
    (s.mapCores f).allCores = s.allCores.map f := insertCore_map hf s.core s.others

/-- The cores of a partition after an update of them. -/
theorem mem_coresIn_mapPart {s t : State} {p : Nat} {f : Core → Core} (hf : ∀ c, (f c).idx = c.idx)
    (hr : t.partRegions p = s.partRegions p) (hc : t.core = (s.mapPart p f).core) (ho : t.others = (s.mapPart p f).others)
    {c : Core} (h : c ∈ t.coresIn p) : ∃ b ∈ s.coresIn p, f b = c := by
  have ha : t.allCores = s.allCores.map fun c => if (s.partRegions p).contains (regionOf c.idx) then f c else c := by
    rw [← allCores_mapCores s fun c => by split; exacts [hf c, rfl]]
    unfold allCores
    rw [hc, ho]
    rfl
  obtain ⟨hm, hin⟩ := List.mem_filter.mp h
  rw [ha] at hm
  obtain ⟨b, hb, rfl⟩ := List.mem_map.mp hm
  rw [hr] at hin
  by_cases hq : (s.partRegions p).contains (regionOf b.idx) = true
  · rw [if_pos hq] at hin ⊢
    exact ⟨b, List.mem_filter.mpr ⟨hb, hq⟩, rfl⟩
  · rw [if_neg hq] at hin
    exact absurd hin hq

/-- A core frozen for debugging runs again from where it stands, at the next even or odd cycle (rule R409). -/
theorem resumeCore_of_debug (cycle : Nat) {c : Core} (h : c.ctl.mode = .frozen .debug) :
    resumeCore cycle c = { c with ctl := { c.ctl with
      mode := .running, wake := if cycle % 2 = c.ctl.wake % 2 then cycle else cycle + 1 } } := by
  simp only [resumeCore, h]

/-- What withdrawing a debug stop does to one core. -/
def debugResumed (cycle : Nat) (c : Core) : Core := if c.ctl.mode == .frozen .debug then resumeCore cycle c else c

theorem debugResumed_of_ne (cycle : Nat) {c : Core} (h : c.ctl.mode ≠ .frozen .debug) : debugResumed cycle c = c := by
  rw [debugResumed, if_neg (by simpa using h)]

theorem debugResumed_of_debug (cycle : Nat) {c : Core} (h : c.ctl.mode = .frozen .debug) :
    debugResumed cycle c = { c with ctl := { c.ctl with
      mode := .running, wake := if cycle % 2 = c.ctl.wake % 2 then cycle else cycle + 1 } } := by
  rw [debugResumed, if_pos (by simpa using h), resumeCore_of_debug cycle h]

theorem debugResumed_idx (cycle : Nat) (c : Core) : (debugResumed cycle c).idx = c.idx := by
  by_cases h : c.ctl.mode = .frozen .debug
  · rw [debugResumed_of_debug cycle h]
  · rw [debugResumed_of_ne cycle h]

theorem debugWithdraw_eq (s : State) (p : Nat) (h : (s.part p).dstop.getLsbD 1 = false) :
    s.debugWithdraw p = (s.mapPart p (debugResumed s.cycle)).onPart p (fun q => { q with dstop := 0 }) := by
  rw [debugWithdraw, h]; rfl

theorem part_onPart (s : State) (p : Nat) (f : Part → Part) (h : p < 16) : (s.onPart p f).part p = f (s.part p) :=
  part_putPart s p _ h

theorem partRegions_onPart (s : State) (p : Nat) (f : Part → Part) (hf : (f (s.part p)).pdef = (s.part p).pdef) (hp : p < 16) :
    (s.onPart p f).partRegions p = s.partRegions p := by
  rw [partRegions, partRegions, part_onPart s p f hp, hf]

theorem part_mapPart (s : State) (p : Nat) (f : Core → Core) (q : Nat) : (s.mapPart p f).part q = s.part q := by
  simp only [part, mapPart, mapCores_parts]

theorem partRegions_mapPart (s : State) (p : Nat) (f : Core → Core) (q : Nat) : (s.mapPart p f).partRegions q = s.partRegions q := by
  simp only [partRegions, part_mapPart]

/-! ### Debug stops (rules R409, R410) -/

/-- A request that settles differs from one that does not in the partition's stop registers alone. -/
theorem debugSettle_cases (s : State) (p : Nat) : s.debugSettle p = s ∨
    s.debugSettle p = s.onPart p (fun q => { q with dstop := q.dstop ||| 2, tstop := q.tstop ||| (1 <<< 63) }) := by
  unfold debugSettle
  split
  · exact .inr rfl
  · exact .inl rfl

theorem debugRequest_spec (s : State) (p : Nat) (hp : p < 16) :
    let t := s.debugRequest p
    s.coresKept t ∧ s.memKept t ∧ (t.part p).dstop.getLsbD 0 = true ∧ (t.part p).ctx = (s.part p).ctx ∧
      (s.stopped p = true → (s.part p).dstop.getLsbD 1 = false → (t.part p).dstop.getLsbD 1 = true ∧ t.stopped p = true) := by
  have hu := part_onPart s p (fun q => { q with dstop := q.dstop ||| (if s.stopped p then 3 else 1) }) hp
  have h1 : ((s.part p).dstop ||| (if s.stopped p then 3 else 1)).getLsbD 0 = true := by
    split <;> simp
  unfold debugRequest
  generalize hv : s.onPart p (fun q => { q with dstop := q.dstop ||| (if s.stopped p then 3 else 1) }) = u at hu
  have hc : s.coresKept u := by subst hv; exact ⟨rfl, rfl⟩
  have hm : s.memKept u := by subst hv; exact ⟨rfl, rfl, rfl⟩
  rcases debugSettle_cases u p with h | h
  · rw [h]
    refine ⟨hc, hm, by rw [hu]; exact h1, by rw [hu], fun hs _ => ?_⟩
    rw [stopped] at hs ⊢
    rw [hu]
    exact ⟨by simp [stopped, hs], hs⟩
  · rw [h]
    refine ⟨hc, hm, ?_⟩
    rw [stopped, stopped, part_onPart u p _ hp, hu]
    refine ⟨by rw [BitVec.getLsbD_or, h1]; rfl, rfl, fun hs _ => ⟨by simp, by simp⟩⟩

/-- What a core keeps when a debug stop is withdrawn, and where it goes on. -/
theorem debugResumed_spec (cycle : Nat) (b : Core) :
    b.idx = (debugResumed cycle b).idx ∧ (debugResumed cycle b).reg = b.reg ∧ (debugResumed cycle b).mem = b.mem ∧
      (b.ctl.mode ≠ .frozen .debug → debugResumed cycle b = b) ∧
      (b.ctl.mode = .frozen .debug → (debugResumed cycle b).ctl.mode = .running ∧ cycle ≤ (debugResumed cycle b).ctl.wake ∧
        (debugResumed cycle b).ctl.wake ≤ cycle + 1 ∧ (debugResumed cycle b).ctl.pc = b.ctl.pc) := by
  by_cases hd : b.ctl.mode = .frozen .debug
  · rw [debugResumed_of_debug cycle hd]
    have hw : cycle ≤ (if cycle % 2 = b.ctl.wake % 2 then cycle else cycle + 1) ∧
        (if cycle % 2 = b.ctl.wake % 2 then cycle else cycle + 1) ≤ cycle + 1 := by split <;> omega
    exact ⟨rfl, rfl, rfl, fun hn => absurd hd hn, fun _ => ⟨rfl, hw.1, hw.2, rfl⟩⟩
  · rw [debugResumed_of_ne cycle hd]
    exact ⟨rfl, rfl, rfl, fun _ => rfl, fun hn => absurd hn hd⟩

theorem debugWithdraw_spec (s : State) (p : Nat) (hp : p < 16) (h : (s.part p).dstop.getLsbD 1 = false) :
    ∃ t, s.debugWithdraw p = t ∧ s.memKept t ∧ (t.part p).dstop = 0 ∧ (t.part p).ctx = (s.part p).ctx ∧
      ∀ c ∈ t.coresIn p, ∃ b ∈ s.coresIn p, c = debugResumed s.cycle b := by
  have hr := (partRegions_onPart (s.mapPart p (debugResumed s.cycle)) p (fun q => { q with dstop := 0 }) rfl hp).trans
    (partRegions_mapPart s p _ p)
  have hpart := part_onPart (s.mapPart p (debugResumed s.cycle)) p (fun q => { q with dstop := 0 }) hp
  refine ⟨_, debugWithdraw_eq s p h, ⟨rfl, rfl, rfl⟩, congrArg Part.dstop hpart, ?_, fun c hc => ?_⟩
  · rw [hpart, part_mapPart]
  · obtain ⟨b, hb, hbc⟩ := mem_coresIn_mapPart (debugResumed_idx s.cycle) hr rfl rfl hc
    exact ⟨b, hb, hbc.symm⟩

/-! ### Placement (rules R395, R396) -/

theorem placementStart_of_busy {s : State} (h : s.module.plcmd.getLsbD 0 = true) (w : Word) :
    s.placementStart w = { s with module := { s.module with plcmd := (w &&& 0xFFFF0001) ||| 1 } } := if_pos h

theorem placementStart_of_idle {s : State} (h : s.module.plcmd.getLsbD 0 = false) (w : Word) :
    s.placementStart w = if !w.getLsbD 0 then { s with module := { s.module with plcmd := w &&& 0xFFFF0001 } }
      else { s.drawn with module := { s.module with
        plcmd := w &&& 0xFFFF0001, placing := (w &&& 0xFFFF0001, s.module.plsrc, s.module.pldst)
        plEnd := some (s.cycle + 1 + s.free (2 ^ 36)) } } := if_neg (by rw [h]; exact Bool.false_ne_true)

/-- The placement service ends: its result, and the stop of its route. -/
def placed (s : State) (st route : Word) : State :=
  { s with module := { s.module with plEnd := none, plcmd := s.module.plcmd &&& ~~~1, plst := st, plroute := route } }

theorem placementDone_of_early {s : State} (h : s.module.plEnd.any (fun t => decide (t ≤ s.cycle)) = false) :
    s.placementDone = s := by
  unfold placementDone
  rw [if_pos]
  cases hp : s.module.plEnd with
  | none => rfl
  | some t => rw [hp] at h; simpa using h

/-- The image of an accepted part goes to off-wafer memory alone. -/
theorem writePart_frame (s : State) (img : Image) (out : Placed) :
    (s.writePart img out).1.core = s.core ∧ (s.writePart img out).1.others = s.others := by
  simp only [writePart, writeMem]
  split <;> exact ⟨rfl, rfl⟩

/-- PLROUTE after a run. -/
def placedRoute (s : State) : Word :=
  match (s.place s.sourceImage).fail with
  | some f => plrouteWord s.sourceImage.pwid f
  | none => 0

/-- The part that a run accepts fits where it is to be written. -/
def placedFits (s : State) : Bool :=
  s.backedRange (bits s.module.placing.2.2 55 6 * 64) (layOut (s.newSections s.sourceImage (s.place s.sourceImage))).2

section
variable {s : State} (h : s.module.plEnd.any (fun t => decide (t ≤ s.cycle)) = true)
include h

theorem placementDone_over_guard : ¬ s.module.plEnd.all (fun t => decide (s.cycle < t)) = true := by
  cases hp : s.module.plEnd with
  | none => rw [hp] at h; cases h
  | some t => rw [hp] at h; simpa using h

theorem placementDone_of_badSource (hs : s.sourceOk s.sourceImage = false) : s.placementDone = s.placed (plstWord [] 0 1) 0 := by
  unfold placementDone
  rw [if_neg (placementDone_over_guard h)]
  extract_lets src m fin img
  rw [if_pos (by rw [hs]; rfl)]
  rfl

variable (hs : s.sourceOk s.sourceImage = true)
include hs

theorem placementDone_of_noOrigin (ho : (s.origins s.sourceImage).isEmpty = true) :
    s.placementDone = s.placed (plstWord [] 0 4) 0 := by
  unfold placementDone
  rw [if_neg (placementDone_over_guard h)]
  extract_lets src m fin img
  rw [if_neg (by rw [hs]; exact Bool.false_ne_true), if_pos ho]
  rfl

variable (ho : (s.origins s.sourceImage).isEmpty = false)
include ho

theorem placementDone_of_noneAccepted (ha : (s.place s.sourceImage).acc.isEmpty = true) :
    s.placementDone = s.placed (plstWord [] 0 2) s.placedRoute := by
  unfold placementDone
  rw [if_neg (placementDone_over_guard h)]
  extract_lets src m fin img out route
  rw [if_neg (by rw [hs]; exact Bool.false_ne_true), if_neg (by rw [ho]; exact Bool.false_ne_true), if_pos ha]
  rfl

variable (ha : (s.place s.sourceImage).acc.isEmpty = false)
include ha

theorem placementDone_of_unfit (hf : s.placedFits = false) : s.placementDone = s.placed (plstWord [] 0 3) s.placedRoute := by
  unfold placedFits at hf
  unfold placementDone
  rw [if_neg (placementDone_over_guard h)]
  extract_lets src m fin img out route
  rw [if_neg (by rw [hs]; exact Bool.false_ne_true), if_neg (by rw [ho]; exact Bool.false_ne_true),
    if_neg (by rw [ha]; exact Bool.false_ne_true)]
  split
  next xs size hl =>
    rw [show (layOut (s.newSections s.sourceImage (s.place s.sourceImage))).2 = size from congrArg Prod.snd hl] at hf
    rw [if_pos (by rw [hf]; rfl)]
    rfl

theorem placementDone_of_accepted (hf : s.placedFits = true) {t : State} {n : Nat}
    (hw : s.writePart s.sourceImage (s.place s.sourceImage) = (t, n)) :
    s.placementDone = { t with module := (s.placed (plstWord (s.place s.sourceImage).acc n 0) s.placedRoute).module } := by
  unfold placedFits at hf
  unfold placementDone
  rw [if_neg (placementDone_over_guard h)]
  extract_lets src m fin img out route
  rw [if_neg (by rw [hs]; exact Bool.false_ne_true), if_neg (by rw [ho]; exact Bool.false_ne_true),
    if_neg (by rw [ha]; exact Bool.false_ne_true)]
  split
  next xs size hl =>
    rw [show (layOut (s.newSections s.sourceImage (s.place s.sourceImage))).2 = size from congrArg Prod.snd hl] at hf
    rw [if_neg (by rw [hf]; exact Bool.false_ne_true)]
    split
    next u k he =>
      obtain ⟨rfl, rfl⟩ := Prod.mk.inj (hw.symm.trans he)
      rfl

/-- A run that accepts an origin writes the image of its part. -/
theorem placementDone_accepted_spec (hf : s.placedFits = true) :
    let part := s.writePart s.sourceImage (s.place s.sourceImage)
    ∃ t, s.placementDone = t ∧ t.module = (s.placed (plstWord (s.place s.sourceImage).acc part.2 0) s.placedRoute).module ∧
      s.coresKept t ∧ t.mem = part.1.mem := by
  have hk := writePart_frame s s.sourceImage (s.place s.sourceImage)
  cases hw : s.writePart s.sourceImage (s.place s.sourceImage) with
  | mk u n =>
    rw [hw] at hk
    exact ⟨_, placementDone_of_accepted h hs ho ha hf hw, rfl, hk, rfl⟩
end

/-! ### Installer keys (rule R396) -/

theorem instkey_getD (m : Module) {i : Nat} (h : i < 16) (d e : Option Word) : m.instkey.getD i d = m.instkey.getD i e := by
  simp only [Vector.getD, Array.getD, m.instkey.size_toArray, dif_pos h]

theorem instkeySet_of_unset {s : State} {i : Nat} (h : s.module.instkey.getD i (some 0) = none) (w : Word) :
    s.instkeySet i w = { s with module := { s.module with instkey := s.module.instkey.setIfInBounds i (some w) } } := by
  simp only [instkeySet, h]

theorem instkeySet_of_set {s : State} {i : Nat} (h : (s.module.instkey.getD i (some 0)).isSome = true) (w : Word) :
    s.instkeySet i w = s := by
  obtain ⟨k, hk⟩ := Option.isSome_iff_exists.mp h
  simp only [instkeySet, hk]

/-! ### Writes of a core's window (rules R18, R19, R364, R367) -/

theorem coresKept_refl (s : State) : s.coresKept s := ⟨rfl, rfl⟩
theorem memKept_refl (s : State) : s.memKept s := ⟨rfl, rfl, rfl⟩

theorem memKept_trans {s t u : State} (h : s.memKept t) (g : t.memKept u) : s.memKept u :=
  ⟨g.1.trans h.1, g.2.1.trans h.2.1, g.2.2.trans h.2.2⟩

theorem note_drawn_coresKept (s : State) (k : Nat) (n : Note) : s.coresKept (s.note k n).drawn := by
  rw [note_frame]; exact ⟨rfl, rfl⟩

theorem note_drawn_memKept (s : State) (k : Nat) (n : Note) : s.memKept (s.note k n).drawn := by
  rw [note_frame]; exact ⟨rfl, rfl, rfl⟩

theorem coreWrite_of_shut {s : State} {k o : Nat} (h : s.coreOpen k = false ∨ 0x286000 ≤ o ∨ (0x284E80 ≤ o ∧ o < 0x284EC0))
    (w : Word) : s.coreWrite k o w = s := by
  unfold coreWrite
  by_cases hc : (!s.coreOpen k || decide (0x286000 ≤ o)) = true
  · rw [if_pos hc]
  · simp only [Bool.or_eq_true, Bool.not_eq_true', decide_eq_true_eq, not_or] at hc
    obtain ⟨hopen, htop⟩ := hc
    have ho : 0x284E80 ≤ o ∧ o < 0x284EC0 := by
      rcases h with h | h | h
      · exact absurd h hopen
      · exact absurd h htop
      · exact h
    rw [if_neg (by simp [hopen]; omega), if_neg (by omega), if_pos (by simp; omega)]

section
variable {s : State} {k : Nat} (hk : s.coreOpen k = true)
include hk

theorem coreWrite_of_debug {o : Nat} (hlo : 0x285000 ≤ o) (hhi : o < 0x286000) (w : Word) :
    s.coreWrite k o w = if s.debugOpen k then s.onCore k (fun c => c.putDebugWord o w) else s := by
  rw [coreWrite, if_neg (by simp [hk]; omega), if_pos hlo]

theorem coreWrite_of_local {o : Nat} (ho : o < 0x240000) (w : Word) :
    s.coreWrite k o w = (s.drawn.putCore ((s.coreOf k).storeBytes (s.free 8) o (toBytes 8 w.toNat) []).1).notes k
      ((s.coreOf k).storeBytes (s.free 8) o (toBytes 8 w.toNat) []).2 := by
  rw [coreWrite, if_neg (by simp [hk]; omega), if_neg (by omega), if_neg (by simp; omega)]
  dsimp only
  rw [if_pos ho]

/-- The core that a write of its instruction memory leaves. -/
theorem coreWrite_of_imem {o : Nat} (hlo : 0x240000 ≤ o) (hhi : o < 0x280000) (w : Word) :
    ∃ (c : Core) (u : State), u.coresKept (s.coreWrite k o w) ∧ u.memKept (s.coreWrite k o w) ∧ u = s.putCore c ∧ c.idx = k ∧
      c.mem.imem = (s.coreOf k).mem.imem.write (o - 0x240000) (toBytes 8 w.toNat) ∧ c.mem.loc = (s.coreOf k).mem.loc ∧
      c.reg = (s.coreOf k).reg := by
  rw [coreWrite, if_neg (by simp [hk]; omega), if_neg (by omega), if_neg (by simp; omega)]
  extract_lets c bs a src c' s1
  rw [if_neg (by omega), if_pos hhi]
  refine ⟨c', s1, ?_, ?_, rfl, coreOf_idx s k, rfl, rfl, rfl⟩
  · split
    · exact note_drawn_coresKept ..
    · exact coresKept_refl s1
  · split
    · exact note_drawn_memKept ..
    · exact memKept_refl s1

end

/-- Reports of errors leave every core as it was. -/
theorem coreOf_of_coresKept {s t : State} (h : s.coresKept t) (j : Nat) : t.coreOf j = s.coreOf j := by
  simp only [coreOf, h.1, h.2]

theorem notes_coresKept (s : State) (k : Nat) (ns : List Note) : s.coresKept (s.notes k ns) := by
  rw [notes_frame]; exact ⟨rfl, rfl⟩

theorem notes_memKept (s : State) (k : Nat) (ns : List Note) : s.memKept (s.notes k ns) := by
  rw [notes_frame]; exact ⟨rfl, rfl, rfl⟩

theorem putCore_memKept (s : State) (c : Core) : s.memKept (s.putCore c) := by
  unfold putCore
  split <;> exact ⟨rfl, rfl, rfl⟩

section
variable {s : State} {k : Nat} (hk : s.coreOpen k = true)
include hk

/-- A write of local space is read back, and leaves every other byte, the core's registers and the other cores. -/
theorem localWrite_spec {o : Nat} (ho : o < 0x240000) (w : Word) : ∃ t, s.coreWrite k o w = t ∧ s.memKept t ∧
    (∀ i, i < 8 → (t.coreOf k).mem.loc.read (o + i) = w.extractLsb' (8 * i) 8) ∧
    (∀ y, y < o ∨ o + 8 ≤ y → (t.coreOf k).mem.loc.read y = (s.coreOf k).mem.loc.read y) ∧
    (t.coreOf k).reg = (s.coreOf k).reg ∧ (t.coreOf k).mem.imem = (s.coreOf k).mem.imem ∧
    ∀ j, j ≠ k → t.coreOf j = s.coreOf j := by
  rw [coreWrite_of_local hk ho]
  generalize hst : (s.coreOf k).storeBytes (s.free 8) o (toBytes 8 w.toNat) [] = st
  obtain ⟨c, ns⟩ := st
  obtain ⟨hi, hr, -, ⟨him, -⟩, -⟩ := (s.coreOf k).storeBytes_stored (s.free 8) o (toBytes 8 w.toNat) []
  have hl : c.mem.loc = (s.coreOf k).mem.loc.write o (toBytes 8 w.toNat) := by
    have := congrArg Prod.fst hst
    subst this; rfl
  rw [hst] at hi hr him
  have hcore (j : Nat) : ((s.drawn.putCore c).notes k ns).coreOf j = if k = j then c else s.coreOf j := by
    rw [coreOf_of_coresKept (notes_coresKept ..), coreOf_putCore, hi, coreOf_idx]; rfl
  have hself := (hcore k).trans (if_pos rfl)
  refine ⟨_, rfl, ?_, fun i h => ?_, fun y hy => ?_, ?_, ?_, fun j hj => (hcore j).trans (if_neg hj.symm)⟩
  · exact memKept_trans (putCore_memKept s.drawn c) (notes_memKept ..)
  · rw [hself, hl, Memory.read_write_word _ _ _ _ h]
  · rw [hself, hl, Memory.read_write, length_toBytes, if_neg (by omega)]
  · rw [hself, hr]
  · rw [hself, him]

theorem imemWrite_spec {o : Nat} (hlo : 0x240000 ≤ o) (hhi : o < 0x280000) (w : Word) :
    ∃ t, s.coreWrite k o w = t ∧ s.memKept t ∧
    (∀ i, i < 8 → (t.coreOf k).mem.imem.read (o - 0x240000 + i) = w.extractLsb' (8 * i) 8) ∧
    (t.coreOf k).reg = (s.coreOf k).reg ∧ (t.coreOf k).mem.loc = (s.coreOf k).mem.loc ∧
    ∀ j, j ≠ k → t.coreOf j = s.coreOf j := by
  obtain ⟨c, u, hcores, hmem, rfl, hi, him, hl, hr⟩ := coreWrite_of_imem hk hlo hhi w
  have hcore (j : Nat) : (s.coreWrite k o w).coreOf j = if k = j then c else s.coreOf j := by
    rw [coreOf_of_coresKept hcores, coreOf_putCore, hi]
  have hself := (hcore k).trans (if_pos rfl)
  refine ⟨_, rfl, memKept_trans (putCore_memKept s c) hmem, fun i h => ?_, ?_, ?_, fun j hj => (hcore j).trans (if_neg hj.symm)⟩
  · rw [hself, him, Memory.read_write_word _ _ _ _ h]
  · rw [hself, hr]
  · rw [hself, hl]

end

/-! ### Reads and writes through a window -/

theorem exec_rcRead {s : State} {w : Window} {o : Nat} (hw : s.arg.win = w) (ho : s.arg.off / 8 * 8 = o) :
    exec .rcRead s = .next (s.windowRead w o) := by subst hw ho; rfl

theorem exec_registerWrite {s : State} {w : Window} {o : Nat} (hw : s.arg.win = w) (ho : s.arg.off / 8 * 8 = o) :
    exec .registerWrite s = .next (s.windowWrite w o s.arg.value) := by subst hw ho; rfl

/-- A read through a window leaves a state whose answer is the word, and in which no core and no byte of memory has changed. -/
def ReadsWord (s : State) (v : Word) (t : State) : Prop :=
  exec .rcRead s = .next t ∧ t.readback = v ∧ s.coresKept t ∧ s.memKept t

section
variable {s : State} {q : Nat} (hq : q < 16) (hw : s.arg.win = .region q)
include hq hw

theorem reads_shstat (ho : s.arg.off / 8 * 8 = 0x020) : ∃ t, s.ReadsWord (s.region q).shstat t ∧
    bits (t.region q).shstat 31 16 = 0 ∧ bits (t.region q).shstat 15 0 = bits (s.region q).shstat 15 0 ∧
    bits (t.region q).shstat 63 32 = bits (s.region q).shstat 63 32 := by
  refine ⟨_, ⟨exec_rcRead hw ho, rfl, ⟨rfl, rfl⟩, rfl, rfl, rfl⟩, ?_⟩
  have hr : (s.windowRead (.region q) 0x020).region q = _ := region_putRegion s q _ hq
  rw [hr]
  exact ⟨bits_and_of_zero (by decide), bits_and_of_ones (by decide), bits_and_of_ones (by decide)⟩

theorem reads_rpst (ho : s.arg.off / 8 * 8 = 0x110) : ∃ t, s.ReadsWord (s.rpstWord q) t ∧
    bits (t.region q).rpst 63 8 = 0 ∧ bits (t.region q).rpst 7 0 = bits (s.region q).rpst 7 0 := by
  refine ⟨_, ⟨exec_rcRead hw ho, rfl, ⟨rfl, rfl⟩, rfl, rfl, rfl⟩, ?_⟩
  have hr : (s.windowRead (.region q) 0x110).region q = _ := region_putRegion s q _ hq
  rw [hr]
  exact ⟨bits_and_of_zero (by decide), bits_and_of_ones (by decide)⟩

theorem reads_pbar (ho : s.arg.off / 8 * 8 = 0x080) : ∃ t, s.ReadsWord (s.pbarWord q) t ∧ bits (t.part q).pbar 15 8 = 0 := by
  refine ⟨_, ⟨exec_rcRead hw ho, rfl, ⟨rfl, rfl⟩, rfl, rfl, rfl⟩, ?_⟩
  have hr : (s.windowRead (.region q) 0x080).part q = { s.part q with pbar := (s.part q).pbar &&& 0xFFFFFFFFFFFF00FF } :=
    part_onPart s q (fun x => { x with pbar := x.pbar &&& 0xFFFFFFFFFFFF00FF }) hq
  rw [hr]
  exact bits_and_of_zero (by decide)

end

theorem reads_xstat {s : State} {n : Nat} (hw : s.arg.win = .tile n) (ho : s.arg.off / 8 * 8 = 0x8400) :
    ∃ t, s.ReadsWord (s.tileAt n).xstat t ∧
      bits (t.tileAt n).xstat 63 16 = 0 ∧ bits (t.tileAt n).xstat 15 0 = bits (s.tileAt n).xstat 15 0 := by
  have hc : s.readClears (.tile n) 0x8400 =
      if (s.tileAt n).xstat = 0 then s else s.putTile { s.tileAt n with xstat := (s.tileAt n).xstat &&& 0xFFFF } := rfl
  refine ⟨s.windowRead (.tile n) 0x8400, ⟨exec_rcRead hw ho, rfl, ?_⟩, ?_⟩
  · rw [windowRead, hc]
    split
    · exact ⟨⟨rfl, rfl⟩, rfl, rfl, rfl⟩
    · exact ⟨⟨rfl, rfl⟩, rfl, rfl, rfl⟩
  · show bits ((s.readClears (.tile n) 0x8400).tileAt n).xstat 63 16 = 0 ∧ bits ((s.readClears (.tile n) 0x8400).tileAt n).xstat 15 0 = _
    rw [hc]
    split
    · next hz => rw [hz]; exact ⟨bits_zero _ _, rfl⟩
    · rw [tileAt_putTile, if_pos (tileAt_idx s n)]
      exact ⟨bits_and_of_zero (by decide), bits_and_of_ones (by decide)⟩

/-- A tile's ARRMODE may be written: its partition is halted, or it is unbound (rule R174). -/
def tileFree (s : State) (t : Nat) : Bool := match s.partOf (2 * t) with | some p => s.halted p | none => true

theorem arrmodeWrite_eq (s : State) (t : Nat) (w : Word) : s.arrmodeWrite t w =
    if bits w 1 0 = 3 || !s.tileFree t then s else s.putTile { s.tileAt t with arrmode := bits w 1 0 } := rfl

theorem arrmodeWrite_of_free {s : State} {t : Nat} {w : Word} (hf : s.tileFree t = true) (hm : bits w 1 0 ≠ 3) :
    s.arrmodeWrite t w = s.putTile { s.tileAt t with arrmode := bits w 1 0 } := by
  rw [arrmodeWrite_eq, if_neg (by simp [hf, hm])]

theorem arrmodeWrite_of_ignored {s : State} {t : Nat} {w : Word} (h : s.tileFree t = false ∨ bits w 1 0 = 3) :
    s.arrmodeWrite t w = s := by
  rw [arrmodeWrite_eq, if_pos (by rcases h with h | h <;> simp [h])]

end State

/-- Settles O52: each clause is the equation of its event. -/
theorem managementCompletes : Obligations.ManagementCompletes := by
  unfold Obligations.ManagementCompletes
  intro s m w o p g k over_ ends reads
  have endsPlaced {st route : Word} (h : s.placementDone = s.placed st route) : ∃ t, ends t st ∧ s.memKept t :=
    ⟨_, ⟨congrArg Host.Outcome.next h, rfl, rfl, rfl, rfl, rfl⟩, rfl, rfl, rfl⟩
  refine ⟨fun hb => ?_, fun hb hw => ?_, fun hb hw => ?_, fun h => ?_, fun h hs => ?_, fun h hs => ⟨fun ho => ?_, fun ho => ?_⟩,
    ?_, ?_, ?_, ?_, ?_, ?_, ?_, ?_, ?_, ?_, ?_, ?_, ?_⟩
  · exact congrArg Host.Outcome.next (State.placementStart_of_busy hb w)
  · have hn := State.placementStart_of_idle hb w
    rw [hw] at hn
    exact ⟨_, _, congrArg Host.Outcome.next hn, by omega, rfl, ⟨rfl, rfl⟩, rfl, rfl, rfl⟩
  · have hn := State.placementStart_of_idle hb w
    rw [hw] at hn
    exact congrArg Host.Outcome.next hn
  · exact congrArg Host.Outcome.next (State.placementDone_of_early h)
  · exact endsPlaced (State.placementDone_of_badSource h hs)
  · exact endsPlaced (State.placementDone_of_noOrigin h hs ho)
  · refine ⟨fun ha => ?_, fun ha hf => ?_, fun ha hf => ?_⟩
    · exact endsPlaced (State.placementDone_of_noneAccepted h hs ho (List.isEmpty_iff.mpr ha))
    · exact endsPlaced (State.placementDone_of_unfit h hs ho (by simpa using ha) hf)
    · obtain ⟨t, ht, hm, hk, hmem⟩ := State.placementDone_accepted_spec h hs ho (by simpa using ha) hf
      exact ⟨t, ⟨congrArg Host.Outcome.next ht, congrArg Module.plst hm, congrArg Module.plEnd hm, congrArg Module.plcmd hm, hk⟩, hmem⟩
  · intro i hi h16
    subst hi
    have hg : m.instkey.getD s.arg.n none = m.instkey.getD s.arg.n (some 0) := State.instkey_getD m h16 _ _
    refine ⟨fun hn => ?_, fun hn => ?_⟩
    · exact congrArg Host.Outcome.next (State.instkeySet_of_unset (hg ▸ hn) w)
    · exact congrArg Host.Outcome.next (State.instkeySet_of_set (hg ▸ hn) w)
  · exact fun hp => ⟨_, rfl, State.debugRequest_spec s p hp⟩
  · exact fun h => congrArg Host.Outcome.next (if_pos h)
  · intro hp h
    obtain ⟨t, ht, hm, hd, hc, hcores⟩ := State.debugWithdraw_spec s p hp h
    refine ⟨t, congrArg Host.Outcome.next ht, hm, hd, hc, fun c hin => ?_⟩
    obtain ⟨b, hb, rfl⟩ := hcores c hin
    exact ⟨b, hb, State.debugResumed_spec s.cycle b⟩
  · intro q hq hw
    exact ⟨State.reads_shstat hq hw, State.reads_rpst hq hw, State.reads_pbar hq hw, State.exec_rcRead hw⟩
  · exact State.reads_xstat
  · exact fun hw => ⟨State.exec_registerWrite hw, State.exec_registerWrite hw, State.exec_registerWrite hw⟩
  · exact fun hw => ⟨State.exec_registerWrite hw, State.exec_registerWrite hw, State.exec_registerWrite hw, State.exec_registerWrite hw⟩
  · intro hw ho free
    have hx := State.exec_registerWrite hw ho
    exact ⟨fun hf hm => hx.trans (congrArg Host.Outcome.next (State.arrmodeWrite_of_free hf hm)),
      fun h => hx.trans (congrArg Host.Outcome.next (State.arrmodeWrite_of_ignored h))⟩
  · exact fun h => congrArg Host.Outcome.next (State.coreWrite_of_shut h w)
  · intro hk hlo hhi
    have hx := State.coreWrite_of_debug hk hlo hhi w
    refine ⟨fun hd => ?_, fun hd => ?_⟩
    · exact congrArg Host.Outcome.next (hx.trans (if_pos hd))
    · exact congrArg Host.Outcome.next (hx.trans (if_neg (by rw [hd]; exact Bool.false_ne_true)))
  · intro hk ho
    obtain ⟨t, ht, hspec⟩ := State.localWrite_spec hk ho w
    exact ⟨t, congrArg Host.Outcome.next ht, hspec⟩
  · intro hk hlo hhi
    obtain ⟨t, ht, hspec⟩ := State.imemWrite_spec hk hlo hhi w
    exact ⟨t, congrArg Host.Outcome.next ht, hspec⟩

end Sys2Proof.Machine
end

section
/-! Every step keeps every memory canonical: the operations on the tables of cores, on one core and on the part. -/

namespace Sys2Proof.Machine

/-! ### The tables -/

/-- A fold keeps canonical memories when each of its steps does. -/
theorem foldl_memWf {α : Type} {f : State → α → State} (hf : ∀ s a, s.memWf = true → (f s a).memWf = true) :
    ∀ (xs : List α) {s : State}, s.memWf = true → (xs.foldl f s).memWf = true
  | [], _, h => h
  | a :: xs, _, h => foldl_memWf hf xs (hf _ a h)

theorem Core.reset_memWf (k : Nat) : (Core.reset k).memWf = true := rfl

theorem State.memWf_iff (s : State) :
    s.memWf = true ↔ s.mem.wf = true ∧ s.core.memWf = true ∧ ∀ c ∈ s.others, c.memWf = true := by
  simp only [State.memWf, Bool.and_eq_true, List.all_eq_true, and_assoc]

theorem mem_insertCore (c d : Core) : ∀ ds : List Core, d ∈ insertCore c ds → d = c ∨ d ∈ ds
  | [], h => by simpa [insertCore] using h
  | e :: ds, h => by
    have ih := mem_insertCore c d ds
    unfold insertCore at h
    split at h
    · exact List.mem_cons.mp h
    · split at h
      · exact (List.mem_cons.mp h).imp_right (List.mem_cons_of_mem e)
      · rcases List.mem_cons.mp h with rfl | hd
        · exact .inr List.mem_cons_self
        · exact (ih hd).imp_right (List.mem_cons_of_mem e)

namespace State

theorem coreOf_memWf {s : State} (h : s.memWf = true) (k : Nat) : (s.coreOf k).memWf = true := by
  obtain ⟨-, hc, ho⟩ := (memWf_iff s).mp h
  unfold coreOf
  split
  · exact hc
  · cases hf : s.others.find? (fun c => c.idx == k) with
    | none => exact Core.reset_memWf k
    | some d => exact ho d (List.mem_of_find?_eq_some hf)

theorem putCore_memWf {s : State} (h : s.memWf = true) {c : Core} (hc : c.memWf = true) : (s.putCore c).memWf = true := by
  obtain ⟨hm, hs, ho⟩ := (memWf_iff s).mp h
  unfold putCore
  split
  · exact (memWf_iff _).mpr ⟨hm, hc, ho⟩
  · refine (memWf_iff _).mpr ⟨hm, hs, fun d hd => ?_⟩
    rcases mem_insertCore c d _ hd with rfl | hd
    · exact hc
    · exact ho d hd

theorem focus_memWf {s : State} (h : s.memWf = true) (k : Nat) : (s.focus k).memWf = true := by
  obtain ⟨hm, hs, ho⟩ := (memWf_iff s).mp h
  unfold focus
  split
  · exact h
  · refine (memWf_iff _).mpr ⟨hm, coreOf_memWf h k, fun d hd => ?_⟩
    rcases mem_insertCore _ d _ hd with rfl | hd
    · exact hs
    · exact ho d (List.mem_filter.mp hd).1

theorem onCore_memWf {s : State} (h : s.memWf = true) {k : Nat} {f : Core → Core} (hf : (f (s.coreOf k)).memWf = true) :
    (s.onCore k f).memWf = true := putCore_memWf h hf

theorem act_memWf {s : State} (h : s.memWf = true) {f : Core → Core} (hf : (f s.core).memWf = true) : (s.act f).memWf = true := by
  obtain ⟨hm, -, ho⟩ := (memWf_iff s).mp h
  exact (memWf_iff _).mpr ⟨hm, hf, ho⟩

theorem core_memWf {s : State} (h : s.memWf = true) : s.core.memWf = true := ((memWf_iff s).mp h).2.1

theorem allCores_memWf {s : State} (h : s.memWf = true) {c : Core} (hc : c ∈ s.allCores) : c.memWf = true := by
  obtain ⟨-, hs, ho⟩ := (memWf_iff s).mp h
  rcases mem_insertCore _ c _ hc with rfl | hc
  · exact hs
  · exact ho c hc

theorem mapCores_memWf {s : State} (h : s.memWf = true) {f : Core → Core} (hf : ∀ c, c.memWf = true → (f c).memWf = true) :
    (s.mapCores f).memWf = true := by
  obtain ⟨hm, hs, ho⟩ := (memWf_iff s).mp h
  refine (memWf_iff _).mpr ⟨hm, hf _ hs, fun c hc => ?_⟩
  obtain ⟨d, hd, rfl⟩ := List.mem_map.mp hc
  exact hf d (ho d hd)

theorem mapPart_memWf {s : State} (h : s.memWf = true) (p : Nat) {f : Core → Core} (hf : ∀ c, c.memWf = true → (f c).memWf = true) :
    (s.mapPart p f).memWf = true :=
  mapCores_memWf h (fun c hc => by split; exacts [hf c hc, hc])

@[simp] theorem putTile_memWf (s : State) (t : Tile) : (s.putTile t).memWf = s.memWf := rfl
@[simp] theorem putBlock_memWf (s : State) (b : Block) : (s.putBlock b).memWf = s.memWf := rfl
@[simp] theorem putRet_memWf (s : State) (r : Nat) (x : Reticle) : (s.putRet r x).memWf = s.memWf := rfl
@[simp] theorem putRegion_memWf (s : State) (r : Nat) (x : Region) : (s.putRegion r x).memWf = s.memWf := rfl
@[simp] theorem putPart_memWf (s : State) (p : Nat) (x : Part) : (s.putPart p x).memWf = s.memWf := rfl
@[simp] theorem onCtx_memWf (s : State) (p : Nat) (f : Context → Context) : (s.onCtx p f).memWf = s.memWf := rfl
@[simp] theorem onPart_memWf (s : State) (p : Nat) (f : Part → Part) : (s.onPart p f).memWf = s.memWf := rfl
@[simp] theorem drawn_memWf (s : State) : s.drawn.memWf = s.memWf := rfl
@[simp] theorem logEntry_memWf (s : State) (l w : Word) : (s.logEntry l w).memWf = s.memWf := by
  simp only [memWf, logEntry_mem, logEntry_core, logEntry_others]
@[simp] theorem addLoss_memWf (s : State) (p c k a v : Nat) : (s.addLoss p c k a v).memWf = s.memWf := onCtx_memWf ..

@[simp] theorem note_memWf (s : State) (k : Nat) (n : Note) : (s.note k n).memWf = s.memWf := by rw [note_frame]; rfl
@[simp] theorem notes_memWf (s : State) (k : Nat) (ns : List Note) : (s.notes k ns).memWf = s.memWf := by rw [notes_frame]; rfl

end State

namespace Core

theorem stored_memWf {c d : Core} (h : c.stored d) (hc : c.memWf = true) : d.memWf = true := by
  obtain ⟨-, -, -, ⟨hi, -⟩, -, hl⟩ := h
  simp only [memWf, Bool.and_eq_true] at hc ⊢
  exact ⟨hl hc.1, by rw [hi]; exact hc.2⟩

theorem runClaims_memWf {c : Core} (h : c.memWf = true) : c.runClaims.1.memWf = true := stored_memWf c.runClaims_stored h
theorem landDue_memWf {c : Core} (h : c.memWf = true) (l : Nat) : (c.landDue l).memWf = true := by
  rw [memWf, (landDue_landed c l).2.1]; exact h

/-- A fold over cores keeps canonical memories when each of its steps does. -/
theorem foldl_memWf {α : Type} {f : Core → α → Core} (hf : ∀ c a, c.memWf = true → (f c a).memWf = true) :
    ∀ (xs : List α) {c : Core}, c.memWf = true → (xs.foldl f c).memWf = true
  | [], _, h => h
  | a :: xs, _, h => foldl_memWf hf xs (hf _ a h)

theorem ite_memWf {p : Prop} [Decidable p] {c d : Core} (hc : c.memWf = true) (hd : d.memWf = true) :
    (if p then c else d).memWf = true := by split; exacts [hc, hd]

end Core

theorem ite_memWf {p : Prop} [Decidable p] {s t : State} (hs : s.memWf = true) (ht : t.memWf = true) :
    (if p then s else t).memWf = true := by split; exacts [hs, ht]

namespace State

/-- Only off-wafer memory, the acting core and the other cores hold memories. -/
theorem memWf_congr {s t : State} (h : s.memWf = true) (hm : t.mem = s.mem) (hc : t.core = s.core) (ho : t.others = s.others) :
    t.memWf = true := by simpa only [memWf, hm, hc, ho] using h

theorem mem_memWf {s : State} (h : s.memWf = true) : s.mem.wf = true := ((memWf_iff s).mp h).1

/-- A part whose off-wafer memory is replaced by a canonical one keeps canonical memories. -/
theorem withMem_memWf {s : State} (h : s.memWf = true) {m : Memory} (hm : m.wf = true) :
    ({ s with mem := m } : State).memWf = true := by
  obtain ⟨-, hc, ho⟩ := (memWf_iff s).mp h
  exact (memWf_iff _).mpr ⟨hm, hc, ho⟩

/-- An update of a core that leaves its memories keeps canonical memories. -/
theorem onCore_memWf_of_eq {s : State} (h : s.memWf = true) {k : Nat} {f : Core → Core} (hf : ∀ c, (f c).memWf = c.memWf) :
    (s.onCore k f).memWf = true := onCore_memWf h ((hf _).trans (coreOf_memWf h k))

end State

end Sys2Proof.Machine
end

section
/-! Every step keeps every memory canonical: the operations of the model, in the order of its files, up to the step. An operation of
several branches is opened up once, and each branch ends in the lemmas of the operations that it calls; where the branches are many,
`grind` follows them with these lemmas. -/

namespace Sys2Proof.Machine
open Sys2Proof

/-! ### Machine/CoreOps -/

theorem Core.land_memWf {c : Core} (h : c.memWf = true) (slot : Slot) (op lat : Nat) (eff : Effect) (nan : Option NanInfo) :
    (c.land slot op lat eff nan).memWf = true := h

/-! ### Machine/Flags -/

theorem Core.sysClear_memWf {c : Core} (h : c.memWf = true) (n : BitVec 12) : (c.sysClear n).memWf = true := ite_memWf h h

theorem Core.memUe_memWf {c : Core} (h : c.memWf = true) (agent : Nat) (im : Bool) (word : Nat) :
    (c.memUe agent im word).memWf = true := h

theorem Core.memCe_memWf {c : Core} (h : c.memWf = true) : c.memCe.memWf = true := h

/-! ### Machine/Flight -/

theorem Core.sign_memWf {c : Core} (h : c.memWf = true) (sp : Nat) (ws : List (Nat × Byte)) : (c.sign sp ws).memWf = true :=
  ite_memWf h h

theorem Core.addFix_memWf {c : Core} (h : c.memWf = true) (u w : Nat) : (c.addFix u w).memWf = true := ite_memWf h h

theorem Core.storeBytes_memWf {c : Core} (h : c.memWf = true) (agent a : Nat) (bs : List Byte) (p : List Nat) :
    (c.storeBytes agent a bs p).1.memWf = true := Core.stored_memWf (c.storeBytes_stored ..) h

/-! ### Machine/Bundle -/

theorem Core.capture_memWf {c : Core} (h : c.memWf = true) (a : CodeAddr) (ws : List Word32) : (c.capture a ws).memWf = true := by
  unfold capture
  split
  · exact h
  · exact ite_memWf h h

theorem Core.checkLine_memWf {c : Core} (h : c.memWf = true) (n : Nat) : (c.checkLine n).memWf = true := by
  have hs := foldl_memWf (fun d w hd => addFix_memWf (memCe_memWf hd) 10 w) ((lineWords n).filter c.mem.imemSoft.contains) h
  exact foldl_memWf (f := fun d w => d.memUe 4 true w) (fun d w hd => memUe_memWf hd 4 true w) _ hs

theorem Core.fetchInto_memWf {c : Core} (h : c.memWf = true) (n : Nat) : (c.fetchInto n).memWf = true :=
  ite_memWf h (checkLine_memWf h ..)

theorem Core.advance_memWf {c : Core} (h : c.memWf = true) (suppressed : Bool) (len : Nat) :
    (c.advance suppressed len).memWf = true := ite_memWf h h

/-! ### Machine/ControlPage -/

theorem Core.ite_mem {p : Prop} [Decidable p] {c d : Core} {m : Store} (hc : c.mem = m) (hd : d.mem = m) :
    (if p then c else d).mem = m := by split; exacts [hc, hd]

/-- No word of the control part of a core's block is a byte of its memories. -/
theorem Core.putCtlWord_mem (c : Core) (k : Nat) (w : Word) : (c.putCtlWord k w).mem = c.mem := by
  unfold putCtlWord
  extract_lets reg lo
  iterate 8 refine ite_mem rfl ?_
  split <;> rfl

theorem Core.putCtlWord_memWf {c : Core} (h : c.memWf = true) (k : Nat) (w : Word) : (c.putCtlWord k w).memWf = true := by
  rw [memWf, putCtlWord_mem]; exact h

/-! ### Machine/Ops -/

theorem State.xerror_memWf {s : State} (h : s.memWf = true) (cause : Nat) : (s.xerror cause).memWf = true :=
  (note_memWf ..).trans h

theorem State.recordLost_memWf {s : State} (h : s.memWf = true) (t : TraceRec) : (s.recordLost t).memWf = true :=
  onCore_memWf_of_eq h fun _ => rfl

theorem Core.emit_memWf {c : Core} (h : c.memWf = true) (loom : Word) (kind : Nat) (cba : CodeAddr) (w2 w3 : Word) :
    (c.emit loom kind cba w2 w3).memWf = true := ite_memWf h h

theorem Core.writeCause_memWf {c : Core} (h : c.memWf = true) (k : Cause) (pt : TrapPoint) (defer double : Bool) :
    (c.writeCause k pt defer double).memWf = true := by
  grind [Core.writeCause, emit_memWf, Core.memWf]

theorem Core.enterTrap_memWf {c : Core} (h : c.memWf = true) (cycle : Nat) (stopped : Bool) (k : Cause) (pt : TrapPoint) :
    (c.enterTrap cycle stopped k pt).1.memWf = true := by
  grind [Core.enterTrap, writeCause_memWf, Core.memWf]

theorem Core.leaveTrap_memWf {c : Core} (h : c.memWf = true) (from_ : Nat) : (c.leaveTrap from_).memWf = true := by
  unfold leaveTrap
  split <;> exact h

theorem State.stopFor_memWf {s : State} (h : s.memWf = true) (k : Nat) : (s.stopFor k).memWf = true := by
  unfold stopFor
  split <;> exact h

theorem State.trapAt_memWf {s : State} (h : s.memWf = true) (k : Cause) (pt : TrapPoint) : (s.trapAt k pt).memWf = true := by
  grind [State.trapAt, Core.enterTrap_memWf, stopFor_memWf, State.memWf, Core.memWf]

theorem State.trapBefore_memWf {s : State} (h : s.memWf = true) (k : Cause) : (s.trapBefore k).memWf = true := trapAt_memWf h ..

theorem State.dropPending_memWf {c : Core} (h : c.memWf = true) (k : Cause) : (State.dropPending c k).memWf = true := h

theorem State.pending_memWf {s : State} (h : s.memWf = true) (k : Cause) : (s.pending k).memWf = true := h

theorem State.claimNow_memWf {s : State} (h : s.memWf = true) : s.claimNow.memWf = true := by
  grind [State.claimNow, Core.runClaims_memWf, notes_memWf, State.memWf]

theorem State.residueError_memWf {s : State} (h : s.memWf = true) (k block : Nat) (set elem : Nat) :
    (s.residueError k block set elem).memWf = true := (notes_memWf ..).trans (onCore_memWf_of_eq h fun _ => rfl)

theorem State.landNow_memWf {s : State} (h : s.memWf = true) : s.landNow.memWf = true :=
  foldl_memWf (fun _ _ hs => residueError_memWf hs ..) _ (act_memWf h (Core.landDue_memWf (core_memWf h) ..))

theorem State.passed_memWf {s : State} (h : s.memWf = true) : s.passed.memWf = true :=
  act_memWf h (Core.advance_memWf (core_memWf h) ..)

theorem State.finish_memWf {s : State} (h : s.memWf = true) : s.finish.memWf = true := by
  grind [State.finish, passed_memWf, core_memWf, claimNow_memWf, trapAt_memWf, act_memWf, dropPending_memWf]

theorem State.close_memWf {s : State} (h : s.memWf = true) : s.close.memWf = true := ite_memWf (finish_memWf h ..) h

theorem State.holdBefore_memWf {s : State} (h : s.memWf = true) (k : HoldKind) (len : Nat) : (s.holdBefore k len).memWf = true :=
  h

/-! ### Machine/Translate -/

theorem State.logHome_memWf {s : State} (h : s.memWf = true) (granule : Nat) : (s.logHome granule).memWf = true :=
  (logEntry_memWf ..).trans h

theorem State.readHomes_memWf {s : State} (h : s.memWf = true) (ranges : List (Nat × Nat)) : (s.readHomes ranges).memWf = true :=
  foldl_memWf (fun _ _ hs => logHome_memWf hs ..) _ h

theorem State.writeMem_memWf {s : State} (h : s.memWf = true) (a : Nat) (bs : List Byte) : (s.writeMem a bs).memWf = true := by
  grind [State.writeMem, Memory.write_wf, State.memWf]

theorem State.atHome_memWf {s : State} (h : s.memWf = true) (g : Nat) (bytes : List (Nat × Byte)) (p : Option Bool) :
    (s.atHome g bytes p).memWf = true := by
  obtain ⟨hm, hc, ho⟩ := (memWf_iff s).mp h
  exact (memWf_iff _).mpr ⟨Memory.writeAll_wf bytes hm, hc, ho⟩

theorem State.performOne_memWf {s : State} (h : s.memWf = true) (w : LateWrite) : (s.performOne w).memWf = true := by
  have signed {t : State} (ht : t.memWf = true) : (t.onCore w.core (fun c => c.sign 1 w.terms)).memWf = true :=
    onCore_memWf ht (Core.sign_memWf (coreOf_memWf ht _) _ _)
  have put : (s.atHome w.granule w.bytes w.poison).memWf = true := atHome_memWf h _ _ _
  unfold performOne
  split
  · split
    · split
      · exact put
      · exact signed put
    · exact signed put
  · exact signed h

theorem State.performLate_memWf {s : State} (h : s.memWf = true) (w : LateWrite) : (s.performLate w).memWf = true := by
  grind [State.performLate, performOne_memWf, foldl_memWf]

theorem State.performAll_memWf {s : State} (h : s.memWf = true) (p : LateWrite → Bool) : (s.performAll p).memWf = true :=
  foldl_memWf (fun _ _ hs => performLate_memWf hs ..) _ h

theorem State.performSeen_memWf {s : State} (h : s.memWf = true) (granule : Nat) : (s.performSeen granule).memWf = true :=
  performAll_memWf h ..

theorem State.behind_memWf {s : State} (h : s.memWf = true) (core granule : Nat) : (s.behind core granule).memWf = true :=
  performAll_memWf h ..

theorem State.readFrom_memWf {s : State} (h : s.memWf = true) (core group granule : Nat) :
    (s.readFrom core group granule).memWf = true := by
  grind [State.readFrom, performAll_memWf, State.memWf]

theorem State.rerouted_memWf {s : State} (h : s.memWf = true) : s.rerouted.memWf = true := performAll_memWf h ..

theorem State.fillCache_memWf {s : State} (h : s.memWf = true) (l : Leaf) : (s.fillCache l).memWf = true := h

theorem State.touchCache_memWf {s : State} (h : s.memWf = true) (va : Nat) : (s.touchCache va).memWf = true := h

theorem State.fillTlb_memWf {s : State} (h : s.memWf = true) {l : Leaf} {pins : Nat} {t : State × Nat}
    (ht : s.fillTlb l pins = some t) : t.1.memWf = true := by
  obtain ⟨_, -, rfl⟩ := Option.map_eq_some_iff.mp ht
  exact h

theorem State.useTlb_memWf {s : State} (h : s.memWf = true) (id pins : Nat) : (s.useTlb id pins).memWf = true := h

theorem State.markFor_memWf {s : State} (h : s.memWf = true) (dpa : Nat) : (s.markFor dpa).memWf = true := by
  unfold markFor
  split <;> exact h

theorem State.fetchError_memWf {s : State} (h : s.memWf = true) (dpa : Nat) : (s.fetchError dpa).memWf = true :=
  markFor_memWf (logHome_memWf h ..) ..

theorem State.translateFill_memWf {s : State} (h : s.memWf = true) (va : Nat) (need : Nat → Nat) (pins : Nat) :
    (s.translateFill va need pins).1.memWf = true := by
  unfold translateFill
  split
  · exact ite_memWf (markFor_memWf (by rw [logEntry_memWf]; exact h) _) h
  · split
    · exact useTlb_memWf h _ _
    · extract_lets t
      have ht : t.memWf = true := ite_memWf (fillCache_memWf h _) (touchCache_memWf h _)
      split
      · next hf => exact fillTlb_memWf ht hf
      · exact ht

theorem State.translateFetch_memWf {s : State} (h : s.memWf = true) (va : Nat) : (s.translateFetch va).1.memWf = true :=
  translateFill_memWf h ..

/-! ### Machine/Release -/

theorem State.signTaken_memWf {v s : State} (h : s.memWf = true) : (signTaken v s).memWf = true :=
  foldl_memWf (fun _ _ ht => onCore_memWf ht (Core.sign_memWf (coreOf_memWf ht _) _ _)) _ h

theorem State.carry_memWf {v : State} (h0 : v.memWf = true) {s : State} (h1 : s.memWf = true) : (v.carry s).memWf = true := by
  grind [State.carry, signTaken_memWf, State.memWf, Core.memWf]

theorem State.refused_memWf {s : State} (h : s.memWf = true) (r : Refuse) : (s.refused r).memWf = true := h

/-- A step of a release's preparation keeps canonical memories, whether it goes on or fails. -/
def Try.Keeps {α : Type} (x : Try α) : Prop := ∀ p : Prep, p.s.memWf = true → (x.upTo p).2.s.memWf = true

theorem Try.keeps_pure {α : Type} (a : α) : (pure a : Try α).Keeps := fun _ h => h

theorem Try.keeps_throw {α : Type} (r : Refuse) : (throw r : Try α).Keeps := fun _ h => h

theorem Try.keeps_spend (f : Cost → Cost) : (spend f).Keeps := fun _ h => h

theorem Try.keeps_setState {s : State} (h : s.memWf = true) : (setState s).Keeps := fun _ _ => h

theorem Try.keeps_bind {α β : Type} {x : Try α} {f : α → Try β} (hx : x.Keeps) (hf : ∀ a, (f a).Keeps) : (x >>= f).Keeps := by
  intro p h
  have hp := hx p h
  have hb : (x >>= f).upTo p = match x.upTo p with | (.ok a, q) => (f a).upTo q | (.error e, q) => (.error e, q) := by
    show ExceptT.run (ExceptT.bind x f) p = _
    simp only [ExceptT.run, ExceptT.bind, ExceptT.mk, upTo]
    show (let (a, q) := x p; ExceptT.bindCont f a q) = _
    rcases x p with ⟨a | a, q⟩ <;> rfl
  rw [hb]
  rcases hr : x.upTo p with ⟨a | a, q⟩ <;> rw [hr] at hp
  · exact hp
  · exact hf a q hp

/-- What a step reads of the preparation is canonical. -/
theorem Try.keeps_get {β : Type} {f : Prep → Try β} (hf : ∀ p : Prep, p.s.memWf = true → (f p).Keeps) : (get >>= f : Try β).Keeps :=
  fun p h => hf p h p h

theorem Try.keeps_ite {α : Type} {p : Prop} [Decidable p] {x y : Try α} (hx : x.Keeps) (hy : y.Keeps) :
    (if p then x else y).Keeps := by split; exacts [hx, hy]

theorem deckWord_keeps (va card : Nat) : (deckWord va card).Keeps := by
  unfold deckWord
  refine Try.keeps_get fun p hp => ?_
  extract_lets s
  split
  · exact Try.keeps_pure _
  · refine Try.keeps_bind (Try.keeps_spend _) fun _ => ?_
    have ht : (s.translateFetch va).1.memWf = true := State.translateFetch_memWf hp va
    generalize s.translateFetch va = t at ht
    obtain ⟨u, r⟩ := t
    refine Try.keeps_bind (Try.keeps_setState ht) fun _ => ?_
    split
    · exact Try.keeps_throw _
    · extract_lets a v
      have he := Try.keeps_setState (State.fetchError_memWf ht a)
      refine Try.keeps_ite (Try.keeps_bind he fun _ => Try.keeps_throw _) (Try.keeps_ite (Try.keeps_throw _) ?_)
      refine Try.keeps_bind (Try.keeps_setState ?_) fun _ => Try.keeps_pure _
      exact State.act_memWf (State.readFrom_memWf ht _ _ _) (State.core_memWf (State.readFrom_memWf ht _ _ _))

theorem deckWords_keeps (card : Nat) : ∀ vas : List Nat, (deckWords card vas).Keeps
  | [] => Try.keeps_pure _
  | va :: vas => Try.keeps_bind (deckWord_keeps va card) fun _ => Try.keeps_bind (deckWords_keeps card vas) fun _ => Try.keeps_pure _

theorem fetchRecord_keeps (card h : Nat) : (fetchRecord card h).Keeps := by
  unfold fetchRecord
  refine Try.keeps_get fun p hp => ?_
  extract_lets s b va
  split
  · exact Try.keeps_bind (Try.keeps_setState hp) fun _ => Try.keeps_pure _
  · refine Try.keeps_ite (Try.keeps_throw _) (Try.keeps_bind (Try.keeps_spend _) fun _ => ?_)
    have ht : (s.translateFetch va).1.memWf = true := State.translateFetch_memWf hp va
    generalize s.translateFetch va = t at ht
    obtain ⟨u, r⟩ := t
    refine Try.keeps_bind (Try.keeps_setState ht) fun _ => ?_
    split
    · exact Try.keeps_throw _
    · refine Try.keeps_ite (Try.keeps_bind (Try.keeps_setState ?_) fun _ => Try.keeps_throw _) (Try.keeps_ite (Try.keeps_throw _)
        (Try.keeps_bind (Try.keeps_setState ?_) fun _ => Try.keeps_pure _))
      · exact foldl_memWf (fun v i hv => State.fetchError_memWf hv _) _ ht
      · rw [State.putBlock_memWf]
        exact foldl_memWf (fun v i hv => State.readFrom_memWf hv _ _ _) _ ht

theorem fetchHead_keeps : fetchHead.Keeps := by
  unfold fetchHead
  refine Try.keeps_get fun p hp => ?_
  exact Try.keeps_ite (Try.keeps_throw _) (Try.keeps_bind (deckWords_keeps _ _) fun _ => Try.keeps_pure _)

theorem fetchCards_keeps (h : DeckHead) : ∀ cs : List (Nat × Nat), (fetchCards h cs).Keeps
  | [] => Try.keeps_pure _
  | (_, _) :: rest => Try.keeps_bind (deckWords_keeps _ _) fun _ => Try.keeps_bind (fetchCards_keeps h rest) fun _ => Try.keeps_pure _

theorem deckSound_keeps (ok : Bool) : (deckSound ok).Keeps :=
  Try.keeps_ite (Try.keeps_pure _) (Try.keeps_get fun _ _ => Try.keeps_throw _)

theorem fetchStage_keeps : fetchStage.Keeps := by
  unfold fetchStage
  refine Try.keeps_bind fetchHead_keeps fun x => Try.keeps_get fun p hp => Try.keeps_bind (deckWord_keeps _ _) fun e => ?_
  exact Try.keeps_bind (fetchCards_keeps _ _) fun cs => Try.keeps_bind (deckSound_keeps _) fun _ => Try.keeps_pure _

theorem fetchTemplate_keeps (t : Nat) : (fetchTemplate t).Keeps := by
  unfold fetchTemplate
  refine Try.keeps_bind fetchHead_keeps fun x => ?_
  refine Try.keeps_bind (fetchCards_keeps _ _) fun cs => ?_
  exact Try.keeps_bind (deckSound_keeps _) fun _ => Try.keeps_pure _

theorem fetchRecords_keeps : ∀ xs : List (Nat × CardWords), (fetchRecords xs).Keeps
  | [] => Try.keeps_pure _
  | (k, c) :: rest => by
    unfold fetchRecords
    refine Try.keeps_bind (fetchRecord_keeps _ _) fun r => ?_
    extract_lets go_on
    have hj : ∀ rs, (go_on rs).Keeps := fun rs => Try.keeps_bind (fetchRecords_keeps rest) fun _ => Try.keeps_pure _
    exact Try.keeps_ite (Try.keeps_bind (fetchRecord_keeps _ _) fun _ => Try.keeps_bind (Try.keeps_pure _) hj)
      (Try.keeps_bind (Try.keeps_pure _) hj)

theorem cardPages_keeps (x : Pull) (ts : List (Nat × Nat × Nat)) (known : List PageOf) :
    ∀ (fuel cur : Nat) (ps : List PageOf), (cardPages x ts known fuel cur ps).Keeps
  | 0, _, _ => Try.keeps_pure _
  | fuel + 1, cur, ps => by
    unfold cardPages
    refine Try.keeps_get fun p hp => ?_
    extract_lets s
    split
    · exact Try.keeps_pure _
    · next va _ =>
      split
      · exact cardPages_keeps x ts known fuel _ _
      · refine Try.keeps_ite (Try.keeps_throw _) ?_
        have ht := State.translateFill_memWf hp va (fun size => needOf x.card.op (extentsIn ts va size)) 1
        generalize s.translateFill va (fun size => needOf x.card.op (extentsIn ts va size)) 1 = t at ht
        obtain ⟨u, r⟩ := t
        refine Try.keeps_bind (Try.keeps_setState ht) fun _ => Try.keeps_bind (Try.keeps_spend _) fun _ => ?_
        split
        · exact Try.keeps_throw _
        · exact Try.keeps_pure _
        · exact cardPages_keeps x ts known fuel _ _

theorem releasePages_keeps (known : List PageOf) : ∀ (xs : List Pull) (ps : List PageOf), (releasePages known xs ps).Keeps
  | [], _ => Try.keeps_pure _
  | x :: xs, ps => by
    unfold releasePages
    refine Try.keeps_bind (cardPages_keeps _ _ _ _ _ _) fun r => ?_
    exact Try.keeps_ite (Try.keeps_pure _) (releasePages_keeps known xs _)

theorem State.watched_memWf {s : State} (h : s.memWf = true) (slot : Nat) (hit : Option (Nat × Nat)) :
    (s.watched slot hit).memWf = true := by
  unfold watched
  split <;> exact h

theorem State.unpin_memWf {s : State} (h : s.memWf = true) (count : Bool) : (s.unpin count).memWf = true := h

theorem State.pinBlocks_memWf {s : State} (h : s.memWf = true) (cards : List Card) (ps : List PageOf) :
    (s.pinBlocks cards ps).memWf = true := by
  grind [State.pinBlocks, foldl_memWf, State.memWf]

theorem effectRelease_memWf {s : State} (h : s.memWf = true) (p : ReleasePlan) : (effectRelease s p).memWf = true := by
  grind [effectRelease, State.unpin_memWf, State.pinBlocks_memWf, State.act_memWf, Core.emit_memWf, State.watched_memWf,
    State.memWf, Core.memWf]

/-- What a step leaves is canonical in both of its outcomes. -/
theorem Try.Keeps.of_eq {α : Type} {x : Try α} (hx : x.Keeps) {p q : Prep} (h : p.s.memWf = true) {r : Except Refuse α}
    (hr : x.upTo p = (r, q)) : q.s.memWf = true := by
  have := hx p h
  rwa [hr] at this

theorem planRelease_memWf {v : State} (h : v.memWf = true) (t : Option (Nat × List Int)) : (planRelease v t).2.s.memWf = true := by
  unfold planRelease
  extract_lets empty deck
  have hd : deck.Keeps := by
    cases t with
    | none => exact Try.keeps_ite (Try.keeps_throw _) fetchStage_keeps
    | some t => exact fetchTemplate_keeps _
  split
  · next he => exact hd.of_eq h he
  · next hx cs p he =>
    have hp : p.s.memWf = true := hd.of_eq h he
    extract_lets plan placed
    split
    · exact hp
    · split
      · next he => exact (fetchRecords_keeps _).of_eq hp he
      · next rs q he =>
        have hq : q.s.memWf = true := (fetchRecords_keeps _).of_eq hp he
        extract_lets pulled
        split
        · exact hq
        · split
          · next he => exact (releasePages_keeps _ _ _).of_eq hq he
          · next he => exact (releasePages_keeps _ _ _).of_eq hq he

theorem planOn_memWf {v : State} (h : v.memWf = true) (plan : ReleasePlan) : (planOn v plan).2.s.memWf = true := by
  unfold planOn
  split
  · next he => exact (releasePages_keeps _ _ _).of_eq h he
  · next he => exact (releasePages_keeps _ _ _).of_eq h he

/-- The state that a settled or waiting release leaves is canonical. -/
def Settled.memWf : Settled → Bool
  | .refused _ => true
  | .wait _ _ s => s.memWf
  | .released s => s.memWf

theorem settlePlan_memWf {v : State} (h : v.memWf = true) (p : ReleasePlan) : (settlePlan v p).memWf = true := by
  unfold settlePlan
  extract_lets inFlight
  split
  · exact h
  · split
    · rfl
    · rfl
    · exact effectRelease_memWf h p

theorem settleRelease_memWf {v : State} (h : v.memWf = true) (p : ReleasePlan) : (settleRelease v p).memWf = true := by
  unfold settleRelease
  split
  · exact settlePlan_memWf h p
  · have hr := planOn_memWf h p
    generalize planOn v p = x at hr
    obtain ⟨q, r⟩ := x
    dsimp -zeta only at hr ⊢
    extract_lets n
    split
    · exact hr
    · split
      · exact hr
      · exact settlePlan_memWf hr q

/-! ### Machine/CardWork -/

theorem State.putCard_memWf {s : State} (h : s.memWf = true) (c : Card) : (s.putCard c).memWf = true := h

theorem State.cardFails_memWf {s : State} (h : s.memWf = true) (id kind : Nat) : (s.cardFails id kind).memWf = true := by
  unfold cardFails
  split <;> exact h

theorem State.markBlock_memWf {s : State} (h : s.memWf = true) (id dpa : Nat) : (s.markBlock id dpa).memWf = true := by
  unfold markBlock
  split <;> exact h

theorem State.engineWrite_memWf {s : State} (h : s.memWf = true) (k : Nat) (ws : List (Nat × Byte × Bool)) :
    (s.engineWrite k ws).memWf = true := by
  unfold engineWrite
  extract_lets c0
  have h0 : c0.memWf = true := Core.sign_memWf (coreOf_memWf h k) _ _
  rw [notes_memWf]
  refine putCore_memWf h (Core.stored_memWf (Core.foldl_stored _ (fun st r => ?_) (wordRuns ws) (c0, [])) h0)
  exact Core.storeBytes_stored st.1 1 r.1 r.2.1 _

theorem State.codeWrite_memWf {s : State} (h : s.memWf = true) (k : Nat) (ws : List (Nat × Byte × Bool)) :
    (s.codeWrite k ws).memWf = true := by
  grind [State.codeWrite, coreOf_memWf, Memory.writeAll_wf, notes_memWf, putCore_memWf, Core.memWf]

theorem State.engineRead_memWf {s : State} (h : s.memWf = true) (k : Nat) (as : List Nat) :
    (s.engineRead k as).2.2.memWf = true := by
  unfold engineRead
  extract_lets c words bad soft c'
  have hb : (bad.foldl (fun c w => c.memUe (readAgent w) false w) c).memWf = true :=
    Core.foldl_memWf (fun d w hd => Core.memUe_memWf hd _ _ _) bad (coreOf_memWf h k)
  have hc : c'.memWf = true := Core.foldl_memWf (fun d w hd => Core.addFix_memWf (Core.memCe_memWf hd) _ _) soft hb
  rw [notes_memWf]
  exact putCore_memWf h hc

theorem State.homeError_memWf {s : State} (h : s.memWf = true) (id dpa : Nat) : (s.homeError id dpa).memWf = true :=
  markBlock_memWf (logHome_memWf h ..) ..

theorem State.countHome_memWf {s : State} (h : s.memWf = true) (u dpa : Nat) : (s.countHome u dpa).memWf = true := ite_memWf h h

theorem State.logWrite_memWf {s : State} (h : s.memWf = true) (card : Option Nat) (granule : Nat) (bytes : List (Nat × Byte))
    (poison : Option Bool) :
    (s.logWrite card granule bytes poison).memWf = true := ite_memWf h h

theorem State.acceptWrite_memWf {s : State} (h : s.memWf = true) (c : Card) (g : Nat) (bytes : List (Nat × Byte)) (p : Option Bool)
    (terms : List (Nat × Byte)) : (s.acceptWrite c g bytes p terms).memWf = true := by
  have signed {t : State} (ht : t.memWf = true) : (t.onCore c.core (fun k => k.sign 1 terms)).memWf = true :=
    onCore_memWf ht (Core.sign_memWf (coreOf_memWf ht _) _ _)
  have put : ((s.logWrite (some c.id) g bytes p).atHome g bytes p).memWf = true := atHome_memWf (logWrite_memWf h _ _ _ _) _ _ _
  unfold acceptWrite
  extract_lets w
  split
  · split
    · exact signed h
    · exact h
  · split
    · exact signed put
    · split
      · exact put
      · exact signed put

theorem State.performAt_memWf {s : State} (h : s.memWf = true) (id scope : Nat) : (s.performAt id scope).memWf = true :=
  performAll_memWf (performAll_memWf h ..) ..

theorem State.settleSeen_memWf {s : State} (h : s.memWf = true) (c : Card) : (s.settleSeen c).memWf = true :=
  ite_memWf (performAll_memWf h ..) h

theorem State.hold_memWf {s : State} (h : s.memWf = true) (id : Nat) (bs : List (Nat × Byte × Bool)) :
    (s.hold id bs).memWf = true := by
  unfold hold
  split <;> exact h

theorem State.failedHome_memWf {s : State} (h : s.memWf = true) (id a : Nat) : ((s.cardFails id 1).homeError id a).memWf = true :=
  homeError_memWf (cardFails_memWf h _ _) _ _

theorem performGranule_memWf {s : State} (h : s.memWf = true) (c : Card) (g : Granule) : (performGranule s c g).memWf = true := by
  unfold performGranule
  cases g with
  | fetch ds =>
    have hr := State.hold_memWf (State.readFrom_memWf h c.core c.group (ds.headD 0 / 64)) c.id
    exact ite_memWf (State.cardFails_memWf h _ _) (ite_memWf (State.failedHome_memWf (hr _) _ _) (hr _))
  | fill ms => exact ite_memWf (State.codeWrite_memWf h _ _) (State.engineWrite_memWf h _ _)
  | take ls =>
    have hr := State.hold_memWf (State.engineRead_memWf h c.core ls) c.id
    exact ite_memWf (State.cardFails_memWf (hr _) _ _) (hr _)
  | atom u =>
    dsimp -zeta only
    extract_lets held bs g v old sick s1 back x cmp new s2
    have hv : v.memWf = true := State.behind_memWf (State.performSeen_memWf h _) _ _
    have h1 : s1.memWf = true := ite_memWf (State.countHome_memWf hv _ _) hv
    have hb {t : State} (ht : t.memWf = true) (p : Bool) : (back t p).memWf = true := by
      unfold back
      cases u.ret with
      | none => exact ht
      | some r => exact State.hold_memWf ht _ _
    have h2 : s2.memWf = true := State.acceptWrite_memWf h1 _ _ _ _ _
    exact ite_memWf (State.cardFails_memWf h _ _) (ite_memWf (State.failedHome_memWf (hb h1 true) _ _)
      (ite_memWf (State.cardFails_memWf h1 _ _) (hb (State.behind_memWf h2 _ _) false)))
  | put ms =>
    have hw := State.acceptWrite_memWf h c ((ms.map (·.2.1)).headD 0 / 64)
    exact ite_memWf (State.cardFails_memWf h _ _) (ite_memWf (State.markBlock_memWf (hw _ _ _) _ _) (hw _ _ _))

theorem State.dataError_memWf {s : State} (h : s.memWf = true) (k op kind tok handle : Nat) :
    (s.dataError k op kind tok handle).memWf = true :=
  onCore_memWf h (f := fun c => { c with sys := { c.sys with carderr := cardErrAdd c.sys.carderr op kind tok handle } })
    (coreOf_memWf h k)

theorem State.uncount_memWf {s : State} (h : s.memWf = true) (k : Nat) (es : List Nat) : (s.uncount k es).memWf = true :=
  onCore_memWf h (coreOf_memWf h k)

theorem State.endCard_memWf {s : State} (h : s.memWf = true) (id : Nat) : (s.endCard id).memWf = true := by
  unfold endCard
  split
  · exact h
  · next c hc =>
    extract_lets s1 s2 grp tok s3 s4 blocks s5 failed
    have h1 : s1.memWf = true := putCard_memWf h _
    have h2 : s2.memWf = true := ite_memWf h1 (dataError_memWf h1 _ _ _ _ _)
    have h3 : s3.memWf = true := onCore_memWf h2 (coreOf_memWf h2 _)
    have h4 : s4.memWf = true := foldl_memWf (fun _ x ht => uncount_memWf ht _ _) grp h3
    have h5 : s5.memWf = true := by
      unfold s5
      split
      · rw [onCtx_memWf]; exact h4
      · exact h4
    exact ite_memWf h5 h2

theorem State.signal_memWf {s : State} (h : s.memWf = true) (k : Nat) (m : BitVec 4) : (s.signal k m).memWf = true :=
  ite_memWf (onCore_memWf_of_eq h fun _ => rfl) (onCore_memWf_of_eq h fun _ => rfl)

theorem State.linkFails_memWf {s : State} (h : s.memWf = true) (id kind : Nat) : (s.linkFails id kind).memWf = true := h

theorem State.linkStops_memWf {s : State} (h : s.memWf = true) (id : Nat) : (s.linkStops id).memWf = true := h

theorem State.linkMove_memWf {s : State} (h : s.memWf = true) (l : LinkXfer) (off n : Nat) :
    (s.linkMove l off n).memWf = true := by
  grind [State.linkMove, engineRead_memWf, linkFails_memWf, engineWrite_memWf]

theorem State.endLink_memWf {s : State} (h : s.memWf = true) (id : Nat) : (s.endLink id).memWf = true := by
  grind [State.endLink, dataError_memWf, signal_memWf, State.memWf]

/-! ### Machine/Issue -/

def State.Ready.memWf : Ready → Bool
  | .go s => s.memWf
  | .hold _ _ s => s.memWf
  | .refuse _ s => s.memWf

theorem State.readyRelease_memWf {s : State} (h : s.memWf = true) (t : Option (Nat × List Int)) :
    (s.readyRelease t).memWf = true := by
  unfold readyRelease
  split
  · exact h
  · have hr := planRelease_memWf h t
    generalize planRelease s t = x at hr
    obtain ⟨p, r⟩ := x
    dsimp -zeta only at hr ⊢
    extract_lets n
    split
    · exact hr
    · have hp := settlePlan_memWf hr p
      split
      · exact unpin_memWf hr false
      · next he => rw [he] at hp; exact hp
      · next he => rw [he] at hp; exact hp

theorem State.fenceReady_memWf {s : State} (h : s.memWf = true) : s.fenceReady.memWf = true := by
  unfold fenceReady
  split
  · exact h
  · exact act_memWf h (core_memWf h)

theorem State.readyLink_memWf {s : State} (h : s.memWf = true) (recv : Bool) (elem : Nat) (o : LkOps) :
    (s.readyLink recv elem o).memWf = true := by
  unfold readyLink
  split
  · exact h
  · extract_lets
    split <;> exact h

theorem State.ready_memWf {s : State} (h : s.memWf = true) (i : Instr) : (s.ready i).memWf = true := by
  unfold ready
  split
  any_goals exact h
  any_goals exact readyLink_memWf h ..
  · exact readyRelease_memWf h _
  · exact readyRelease_memWf h _
  · split <;> exact h
  · split
    · exact h
    · split
      · exact h
      · exact fenceReady_memWf h

theorem State.dropNan_memWf {s : State} (h : s.memWf = true) : s.dropNan.memWf = true := h

theorem State.boundaryCause_memWf {s : State} (h : s.memWf = true) (v : State) (bundle : Bool) :
    ∀ t, s.boundaryCause v bundle = some t → t.2.memWf = true := by
  grind [State.boundaryCause, act_memWf, dropNan_memWf, dropPending_memWf, State.memWf, Core.memWf]

theorem State.trapBoundary_memWf {s : State} (h : s.memWf = true) (k : Cause) : (s.trapBoundary k).memWf = true :=
  trapAt_memWf h ..

theorem State.admitX_memWf {v : State} (h : v.memWf = true) (wm : BitVec 8) (xs : List SlotWord) :
    (v.admitX wm xs).1.memWf = true := by
  unfold admitX
  extract_lets broken clash faulty sem illegal waits v1 v2 v3
  have h1 : v1.memWf = true := ite_memWf (xerror_memWf h _) h
  have h2 : v2.memWf = true := ite_memWf (xerror_memWf h1 _) h1
  exact ite_memWf (xerror_memWf h2 _) h2

theorem State.readyAll_memWf {v : State} (h : v.memWf = true) (xs : List SlotWord) : (v.readyAll xs).memWf = true := by
  unfold readyAll
  split
  · exact h
  · split
    · split
      · exact ready_memWf h _
      · exact h
    · exact h

theorem State.latchRd_memWf {s : State} (h : s.memWf = true) (v : State) (xs : List SlotWord) :
    (s.latchRd v xs).memWf = true := by
  unfold latchRd
  split <;> exact h

theorem State.trapPrecise_memWf {s : State} (h : s.memWf = true) (k : Cause × Option Word) : (s.trapPrecise k).memWf = true := by
  grind [State.trapPrecise, trapBefore_memWf, act_memWf, State.memWf, Core.memWf]

/-- The trap taken on a bundle's boundary. -/
theorem State.trapBoundary_of_cause {s v : State} (h : s.memWf = true) {b : Bool} {k : Cause} {t : State}
    (ht : s.boundaryCause v b = some (k, t)) : (t.trapBoundary k).memWf = true :=
  trapBoundary_memWf (boundaryCause_memWf h v b _ ht) k

def State.Admit.memWf : Admit → Bool
  | .stop s => s.memWf
  | .go s _ => s.memWf

theorem State.vet_memWf {s : State} (h : s.memWf = true) (wm : BitVec 8) (xs : List SlotWord) : (s.vet wm xs).memWf = true := by
  have hv : s.landNow.memWf = true := landNow_memWf h
  unfold vet
  extract_lets v
  split
  · next hb => exact trapBoundary_of_cause h hb
  · split
    · exact admitX_memWf hv wm xs
    · split
      · exact hv
      · split
        · exact trapPrecise_memWf h _
        · split
          · exact holdBefore_memWf h _ _
          · have hr := readyAll_memWf hv xs
            split
            · next r w he =>
              rw [he] at hr
              exact trapBefore_memWf (refused_memWf (carry_memWf hr h) r) _
            · next kind len w he =>
              rw [he] at hr
              have hc : (w.carry s).memWf = true := carry_memWf hr h
              exact holdBefore_memWf (ite_memWf (latchRd_memWf hc _ xs) hc) _ _
            · next v' he =>
              rw [he] at hr
              exact ite_memWf (latchRd_memWf hr _ xs) hr

/-- A result put into flight is no part of a memory yet. -/
theorem State.actLand_memWf {s : State} (h : s.memWf = true) (sl : Slot) (op lat : Nat) (e : Core → Effect) :
    (s.act (fun c => c.land sl op lat (e c))).memWf = true := act_memWf h (Core.land_memWf (core_memWf h) ..)

/-- The state an outcome leaves is canonical; a fault or a refusal leaves none. -/
def Out.memWf : Out → Bool
  | .next s => s.memWf
  | _ => true

/-- An instruction in a slot keeps canonical memories when its effect does. -/
theorem State.issue_memWf {s : State} (h : s.memWf = true) (i : Instr) (g : BitVec 4) {eff : State → State}
    (he : ∀ v : State, v.memWf = true → (eff v).memWf = true) : (issue i g eff s).memWf = true := by
  unfold issue
  split
  · exact close_memWf (ite_memWf (he s h) h)
  · have hv := vet_memWf h 0 [slotWordOf i]
    split
    · next he => rw [he] at hv; exact hv
    · next v xs ha =>
      rw [ha] at hv
      have hs : v.asSlot.memWf = true := hv
      refine ite_memWf (act_memWf hv (Core.advance_memWf (core_memWf hv) _ _)) (finish_memWf ?_)
      exact ite_memWf (he _ hs) hv

theorem Core.acctFlush_memWf {c : Core} (h : c.memWf = true) : c.acctFlush.memWf = true := ite_memWf (emit_memWf h ..) h

theorem Core.acctAdd_memWf {c : Core} (h : c.memWf = true) (k : Nat) : (c.acctAdd k).memWf = true :=
  ite_memWf h (ite_memWf (acctFlush_memWf h ..) h)

theorem Core.acctCover_memWf {c : Core} (h : c.memWf = true) (loom : Word) : (c.acctCover loom).memWf = true := ite_memWf h h

theorem Core.acctCycle_memWf {c : Core} (h : c.memWf = true) (arr cycle : Nat) (loom : Word) :
    (c.acctCycle arr cycle loom).memWf = true := by
  grind [Core.acctCycle, acctCover_memWf, acctAdd_memWf, Core.memWf]

theorem Core.acctHalt_memWf {c : Core} (h : c.memWf = true) (arr cycle : Nat) (loom : Word) :
    (c.acctHalt arr cycle loom).memWf = true := by
  grind [Core.acctHalt, acctCover_memWf, acctAdd_memWf, acctFlush_memWf, Core.memWf]

theorem Core.acctStop_memWf {c : Core} (h : c.memWf = true) : c.acctStop.memWf = true := ite_memWf h (acctFlush_memWf h ..)

theorem Core.acctClose_memWf {c : Core} (h : c.memWf = true) : c.acctClose.memWf = true := ite_memWf h (acctStop_memWf h ..)

theorem Core.charge_memWf {c : Core} (h : c.memWf = true) : c.charge.memWf = true := ite_memWf h (acctFlush_memWf h ..)

theorem State.readLine_memWf {s : State} (h : s.memWf = true) (n : Nat) : (s.readLine n).memWf = true := by
  grind [State.readLine, core_memWf, act_memWf, Core.fetchInto_memWf, note_memWf, drawn_memWf, Core.memWf]

theorem State.fetchFor_memWf {s : State} (h : s.memWf = true) (a : CodeAddr) : (s.fetchFor a).memWf = true :=
  ite_memWf h (readLine_memWf h ..)

theorem State.chargeMx_memWf {s : State} (h : s.memWf = true) (all live : List SlotWord) :
    (s.chargeMx all live).memWf = true := by
  unfold chargeMx
  split
  · exact h
  · exact act_memWf h (Core.charge_memWf (core_memWf h) ..)

theorem State.issueSlots_memWf {v : State} (h : v.memWf = true) (calm : Bool) (hd : Head) (ws : List Word32) (all xs : List
    SlotWord) :
    (v.issueSlots calm hd ws all xs).memWf = true := by
  grind [State.issueSlots, chargeMx_memWf, putRegion_memWf, act_memWf, Core.capture_memWf, Core.advance_memWf, finish_memWf,
    State.memWf, Core.memWf]

theorem State.issueSuppressed_memWf {s : State} (h : s.memWf = true) (idle : Nat) : (s.issueSuppressed idle).memWf = true := by
  grind [State.issueSuppressed, act_memWf, landNow_memWf, Core.advance_memWf, State.memWf]

theorem State.issueMalformed_memWf {s : State} (h : s.memWf = true) (x : Word32) : (s.issueMalformed x).memWf = true := by
  unfold issueMalformed
  split
  · exact issueSuppressed_memWf (xerror_memWf h _) _
  · extract_lets v
    split
    · next hb => exact trapBoundary_of_cause h hb
    · exact trapBefore_memWf h _

theorem State.issueDelay_memWf {s : State} (h : s.memWf = true) (x : Word32) (hd : Head) : (s.issueDelay x hd).memWf = true := by
  have hv := vet_memWf h hd.wm []
  unfold issueDelay
  split
  · next he => rw [he] at hv; exact hv
  · next v _ he =>
    rw [he] at hv
    exact finish_memWf (act_memWf hv (f := fun c => c.capture c.ctl.pc [x]) (Core.capture_memWf (core_memWf hv) _ _))

theorem State.issuePoisoned_memWf {s : State} (h : s.memWf = true) (line : Nat) : (s.issuePoisoned line).memWf = true := by
  unfold issuePoisoned
  extract_lets lost s1
  have h1 : s1.memWf = true := ite_memWf (by rw [note_memWf]; exact h) h
  split
  · exact issueSuppressed_memWf (xerror_memWf h1 _) _
  · split
    · next hb => exact trapBoundary_of_cause h1 hb
    · exact trapBefore_memWf h1 _

theorem State.atBundle_memWf {s : State} (h : s.memWf = true) : (s.atBundle).1.memWf = true :=
  fetchFor_memWf (act_memWf h (core_memWf h)) ..

theorem State.issueSkipped_memWf {s : State} (h : s.memWf = true) (d : Due) : (s.issueSkipped d).memWf = true := by
  cases d with
  | delay x hd => exact issueSuppressed_memWf h _
  | bundle x hd ws xs => exact issueSuppressed_memWf (chargeMx_memWf h _ _) _
  | poisoned line => exact issueSuppressed_memWf h _
  | malformed x => exact issueSuppressed_memWf h _

theorem State.issueBundle_memWf {s : State} (h : s.memWf = true) : s.issueBundle.memWf = true := by
  have hs := atBundle_memWf h
  unfold issueBundle
  generalize s.atBundle = b at hs
  obtain ⟨s1, lost⟩ := b
  dsimp -zeta only at hs ⊢
  split
  · exact issuePoisoned_memWf hs _
  · next d hd =>
    split
    · exact issueSkipped_memWf hs _
    · split
      · exact issuePoisoned_memWf hs _
      · exact issueMalformed_memWf hs _
      · exact issueDelay_memWf hs _ _
      · next x hdr ws xs _ =>
        have hv := vet_memWf hs hdr.wm xs
        split
        · next he => rw [he] at hv; exact hv
        · next he => rw [he] at hv; exact issueSlots_memWf hv _ _ _ _ _

theorem State.trapDue_memWf {s t : State} (h : s.memWf = true) (ht : s.trapDue = some t) : t.memWf = true := by
  have h1 := atBundle_memWf h
  unfold trapDue at ht
  generalize s.atBundle = b at h1 ht
  obtain ⟨s1, lost⟩ := b
  dsimp -zeta only at h1 ht
  extract_lets v precise at ht
  have hv : v.memWf = true := landNow_memWf h1
  have hp {wm : BitVec 8} {xs : List SlotWord} (he : precise wm xs = some t) : t.memWf = true := by
    unfold precise at he
    split at he
    · obtain rfl := Option.some.inj he
      exact trapPrecise_memWf h1 _
    · split at he
      · cases he
      · have hr := readyAll_memWf hv xs
        split at he
        · next hw =>
          rw [hw] at hr
          obtain rfl := Option.some.inj he
          exact trapBefore_memWf (refused_memWf (carry_memWf hr h1) _) _
        · cases he
  split at ht
  · cases ht
  · split at ht
    · obtain rfl := Option.some.inj ht
      exact issuePoisoned_memWf h1 _
    · obtain rfl := Option.some.inj ht
      exact issueMalformed_memWf h1 _
    · exact hp ht
    · exact hp ht

/-! ### Machine/Scalar -/

theorem putS_memWf {s : State} (h : s.memWf = true) (sl : Slot) (op lat : Nat) (d : BitVec 6) (x : Word) :
    (putS sl op lat d x s).memWf = true := h

theorem putP_memWf {s : State} (h : s.memWf = true) (sl : Slot) (op : Nat) (pd : BitVec 4) (x : Bool) :
    (putP sl op pd x s).memWf = true := h

theorem scalar3_memWf {s : State} (h : s.memWf = true) (sl : Slot) (op lat : Nat) (o : R3Ops) (f : Word → Word → Word) :
    (scalar3 sl op lat o f s).memWf = true := h

theorem scalarImm_memWf {s : State} (h : s.memWf = true) (sl : Slot) (op : Nat) (o : RisOps) (f : Word → BitVec 8 → Word) :
    (scalarImm sl op o f s).memWf = true := h

/-! ### Machine/Control -/

theorem takeBranch_memWf {s : State} (h : s.memWf = true) (target : Core → CodeAddr) : (takeBranch target s).memWf = true := h

theorem State.arrive_memWf {s : State} (h : s.memWf = true) : s.arrive.memWf = true := by
  grind [State.arrive, act_memWf, core_memWf, onCtx_memWf, Core.memWf]

theorem State.arriveCalm_memWf {s : State} (h : s.memWf = true) : s.arriveCalm.memWf = true := arrive_memWf h ..

theorem State.postTrigger_memWf {s : State} (h : s.memWf = true) : s.postTrigger.memWf = true := by
  unfold postTrigger
  split <;> exact h

theorem haltCore_memWf {c : Core} (h : c.memWf = true) : (haltCore c).memWf = true := by
  grind [haltCore, Core.memWf]

theorem haltEffect_memWf {s : State} (h : s.memWf = true) : (haltEffect s).memWf = true := by
  grind [haltEffect, State.act_memWf, State.postTrigger_memWf, State.arrive_memWf, Core.acctHalt_memWf, haltCore_memWf,
    State.memWf]

theorem tretEffect_memWf {s : State} (h : s.memWf = true) : (tretEffect s).memWf = true := h

theorem sysRdEffect_memWf {s : State} (h : s.memWf = true) (o : SyrOps) : (sysRdEffect o s).memWf = true := by
  grind [sysRdEffect, State.core_memWf, State.act_memWf, putS_memWf, Core.sysClear_memWf]

theorem bistEffect_memWf {s : State} (h : s.memWf = true) (o : R2Ops) : (bistEffect o s).memWf = true := h

theorem margVEffect_memWf {s : State} (h : s.memWf = true) (o : R2Ops) : (margVEffect o s).memWf = true := h

theorem margLEffect_memWf {s : State} (h : s.memWf = true) (o : R2Ops) : (margLEffect o s).memWf = true := h

/-! ### Machine/Exchange -/

theorem xcClaim_memWf {s : State} (h : s.memWf = true) (op : Nat) (x : Access) : (xcClaim op x s).memWf = true := h

theorem countEmpty_memWf {s : State} (h : s.memWf = true) : (countEmpty s).memWf = true := by
  unfold countEmpty
  split <;> exact h

theorem receive_memWf {s : State} (h : s.memWf = true) (op : Nat) (f : Nat → Core → Access) : (receive op f s).memWf = true :=
  countEmpty_memWf h ..

theorem phaseEndEffect_memWf {s : State} (h : s.memWf = true) (o : R1aOps) : (phaseEndEffect o s).memWf = true := by
  grind [phaseEndEffect, State.act_memWf, State.arriveCalm_memWf, State.core_memWf, Core.emit_memWf, Core.memWf]

theorem gclkWaitEffect_memWf {s : State} (h : s.memWf = true) (o : R1aOps) : (gclkWaitEffect o s).memWf = true := ite_memWf h h

theorem gclkAlnEffect_memWf {s : State} (h : s.memWf = true) : (gclkAlnEffect s).memWf = true := by
  unfold gclkAlnEffect
  split
  · exact h
  · exact foldl_memWf (fun _ _ hs => (State.putRet_memWf ..).trans hs) _ h

theorem recflEffect_memWf {s : State} (h : s.memWf = true) (o : R1aOps) : (recflEffect o s).memWf = true := h

theorem recflPartEffect_memWf {s : State} (h : s.memWf = true) (o : R1aOps) : (recflPartEffect o s).memWf = true := h

theorem semWaitEffect_memWf {s : State} (h : s.memWf = true) (o : SwOps) : (semWaitEffect o s).memWf = true := h

theorem linkStart_memWf {s : State} (h : s.memWf = true) (op : LinkOp) (o : LkOps) : (linkStart op o s).memWf = true := h

/-! ### Machine/CoreCycle -/

theorem State.readyCore_memWf (s : State) {c : Core} (h : c.memWf = true) : (s.readyCore c).memWf = true := by
  grind [State.readyCore, Core.acctStop_memWf, Core.memWf]

theorem State.proceed_memWf {s : State} (h : s.memWf = true) : s.proceed.memWf = true := by
  grind [State.proceed, act_memWf, readyCore_memWf, State.memWf]

theorem State.endHold_memWf {s : State} (h : s.memWf = true) : s.endHold.memWf = true := h

theorem State.ownCore_memWf {s : State} (h : s.memWf = true) : s.ownCore.memWf = true := focus_memWf h ..

theorem fetchLine_memWf {s : State} (h : s.memWf = true) (n : Nat) : (fetchLine s n).memWf = true :=
  ite_memWf h (State.readLine_memWf h ..)

theorem landEvent_memWf {s : State} (h : s.memWf = true) : (landEvent s).memWf = true := by
  unfold landEvent
  split
  · next hb => exact State.trapBoundary_of_cause h hb
  · exact State.landNow_memWf h

theorem State.rejoin_memWf {s : State} (h : s.memWf = true) : s.rejoin.memWf = true := by
  grind [State.rejoin, core_memWf, trapBoundary_memWf, act_memWf, dropPending_memWf, arriveCalm_memWf]

theorem trapResume_memWf {s : State} (h : s.memWf = true) : (trapResume s).memWf = true := by
  grind [trapResume, State.act_memWf, Core.leaveTrap_memWf, State.rejoin_memWf, State.core_memWf, State.proceed_memWf, Core.memWf]

theorem State.issueHeld_memWf {s : State} (h : s.memWf = true) : s.issueHeld.memWf = true := h

theorem releaseMade_memWf {s : State} (h0 : s.memWf = true) {v : State} (h1 : v.memWf = true) :
    (releaseMade s v).memWf = true := by
  grind [releaseMade, State.carry_memWf, State.issueHeld_memWf, State.memWf, Core.memWf]

theorem releaseHoldEnd_memWf {s : State} (h : s.memWf = true) (early : Bool) : (releaseHoldEnd s early).memWf = true := by
  have hl := State.landNow_memWf h
  unfold releaseHoldEnd
  split
  · exact h
  · next p _ =>
    have hr := settleRelease_memWf hl p
    split
    · exact h
    · split
      · exact State.trapBefore_memWf (State.refused_memWf (State.carry_memWf (State.unpin_memWf hl false) h) _) _
      · next he =>
        rw [he] at hr
        have hc := State.carry_memWf hr h
        exact State.act_memWf hc (State.core_memWf hc)
      · next he => rw [he] at hr; exact releaseMade_memWf h hr

theorem proceedAfter_memWf {s : State} (h : s.memWf = true) : (proceedAfter s).memWf = true := by
  grind [proceedAfter, State.act_memWf, State.readyCore_memWf, State.memWf]

theorem recflHoldEnd_memWf {s : State} (h : s.memWf = true) : (recflHoldEnd s).memWf = true := by
  grind [recflHoldEnd, proceedAfter_memWf, State.endHold_memWf, State.memWf]

theorem fenceErrHoldEnd_memWf {s : State} (h : s.memWf = true) : (fenceErrHoldEnd s).memWf = true := by
  grind [fenceErrHoldEnd, State.trapBefore_memWf, State.refused_memWf, State.issueHeld_memWf, State.act_memWf, State.memWf,
    Core.memWf]

theorem bistLeaves_memWf {c : Core} (h : c.memWf = true) (target unit : Nat) : (bistLeaves target unit c).memWf = true := by
  unfold bistLeaves
  grind [Memory.clearRange_wf, foldl_memWf, State.memWf, Core.memWf]

theorem bistResults_memWf {c : Core} (h : c.memWf = true) (target unit : Nat) (seed : Word) :
    (bistResults target unit seed c).memWf = true := by
  grind [bistResults, Core.memWf]

theorem bistEnd_memWf {s : State} (h : s.memWf = true) : (bistEnd s).memWf = true := by
  grind [bistEnd, State.core_memWf, State.proceed_memWf, State.endHold_memWf, State.act_memWf, bistResults_memWf,
    bistLeaves_memWf]

theorem margVSettled_memWf {s : State} (h : s.memWf = true) : (margVSettled s).memWf = true := by
  grind [margVSettled, State.core_memWf, State.proceed_memWf, State.endHold_memWf, State.act_memWf, Core.memWf]

theorem margLSweepEnd_memWf {s : State} (h : s.memWf = true) : (margLSweepEnd s).memWf = true := by
  grind [margLSweepEnd, State.proceed_memWf, State.endHold_memWf, State.act_memWf, State.memWf, Core.memWf]

theorem deckPrefetch_memWf {s : State} (h : s.memWf = true) : (deckPrefetch s).memWf = true :=
  ite_memWf h (State.carry_memWf (fetchStage_keeps { s := s, cost := .none } h) h)

theorem scrubPass_memWf {c : Core} (h : c.memWf = true) (u : Nat) : (scrubPass c u).memWf = true := Core.ite_memWf h h

theorem scrubRead_memWf {s : State} (h : s.memWf = true) (u : Nat) : (scrubRead s u).memWf = true := by
  grind [scrubRead, State.core_memWf, Core.memUe_memWf, Core.memCe_memWf, Core.addFix_memWf, scrubPass_memWf, State.note_memWf,
    State.memWf, Core.memWf]

theorem scrubWriteback_memWf {c : Core} (h : c.memWf = true) (u : Nat) : (scrubWriteback u c).memWf = true := by
  grind [scrubWriteback, Memory.write_wf, Core.memWf]

theorem freezeDebug_memWf {s : State} (h : s.memWf = true) : (freezeDebug s).memWf = true := by
  grind [freezeDebug, State.act_memWf, Core.acctStop_memWf, Core.emit_memWf, State.memWf, Core.memWf]

theorem debugFreeze_memWf {s : State} (h : s.memWf = true) : (debugFreeze s).memWf = true := by
  refine ite_memWf (freezeDebug_memWf h) ?_
  cases ht : s.trapDue with
  | none => exact freezeDebug_memWf h
  | some t => exact State.trapDue_memWf h ht

/-! ### Machine/CardEvents -/

theorem State.cardGranule_memWf {s : State} (h : s.memWf = true) (id k : Nat) (unit : Bool) :
    (s.cardGranule id k unit).memWf = true := by
  unfold cardGranule
  split
  · exact h
  · next c hc =>
    extract_lets i
    split
    · exact h
    · next g hg =>
      extract_lets s1
      have h1 : s1.memWf = true := performGranule_memWf (putCard_memWf (settleSeen_memWf h c) _) c g
      refine ite_memWf h ?_
      split
      · exact h1
      · exact ite_memWf h1 (ite_memWf (putCard_memWf h1 _) (ite_memWf (putCard_memWf h1 _) h1))

theorem State.linkPair_memWf {s : State} (h : s.memWf = true) (port tag : Nat) (sends : Bool) :
    (s.linkPair port tag sends).memWf = true := by
  unfold linkPair
  split <;> exact h

theorem State.linkGranule_memWf {s : State} (h : s.memWf = true) (id : Nat) : (s.linkGranule id).memWf = true := by
  unfold linkGranule
  split
  · exact h
  · exact ite_memWf h (linkMove_memWf h ..)

theorem State.linkEnd_memWf {s : State} (h : s.memWf = true) (id : Nat) : (s.linkEnd id).memWf = true := by
  unfold linkEnd
  split
  · exact h
  · exact ite_memWf (endLink_memWf h ..) h

/-! ### Machine/Tiers -/

theorem invalidateTlb_memWf {c : Core} (h : c.memWf = true) (p : TlbEntry → Bool) : (invalidateTlb p c).memWf = true := h

theorem State.invalidate_memWf {s : State} (h : s.memWf = true) (r : Nat) (q : TInv) : (s.invalidate r q).memWf = true := by
  grind [State.invalidate, putRet_memWf, mapCores_memWf, invalidateTlb_memWf]

theorem State.acceptTinv_memWf {s : State} (h : s.memWf = true) (r : Nat) (q : TInv) : (s.acceptTinv r q).memWf = true :=
  ite_memWf (invalidate_memWf h ..) h

theorem State.tinvWrite_memWf {s : State} (h : s.memWf = true) (r : Nat) (w : Word) : (s.tinvWrite r w).memWf = true := by
  grind [State.tinvWrite, putRet_memWf, acceptTinv_memWf]

theorem State.tinvGo_memWf {s : State} (h : s.memWf = true) (scope : Nat) : (s.tinvGo scope).memWf = true :=
  foldl_memWf (fun _ _ hs => tinvWrite_memWf hs ..) _ h

theorem State.tinvComplete_memWf {s : State} (h : s.memWf = true) (r : Nat) : (s.tinvComplete r).memWf = true := by
  grind [State.tinvComplete, invalidate_memWf, putRet_memWf]

theorem State.dropTag_memWf {s : State} (h : s.memWf = true) (tag : Nat) : (s.dropTag tag).memWf = true :=
  mapCores_memWf h fun _ hc => hc

theorem State.tagFreed_memWf {s : State} (h : s.memWf = true) (tag : Nat) : (s.tagFreed tag).memWf = true := ite_memWf h h

theorem State.advise_memWf {s : State} (h : s.memWf = true) (b : Nat) : (s.advise b).memWf = true := ite_memWf h h

theorem State.hbmWrite_memWf {s : State} (h : s.memWf = true) (w : Word) : (s.hbmWrite w).memWf = true :=
  ite_memWf h (ite_memWf h (mapCores_memWf h fun _ hc => hc))

theorem State.homeSettled_memWf {s : State} (h : s.memWf = true) : s.homeSettled.memWf = true := ite_memWf h h

theorem State.hbmRetireEnd_memWf {s : State} (h : s.memWf = true) : s.hbmRetireEnd.memWf = true := by
  unfold hbmRetireEnd
  split
  · exact h
  · refine ite_memWf h (advise_memWf (homeSettled_memWf ?_) _)
    exact withMem_memWf h (Memory.filter_wf (mem_memWf h) _)

theorem State.killCards_memWf {s : State} (h : s.memWf = true) (p : Card → Bool) : (s.killCards p).memWf = true := h

theorem State.cxlTrain_memWf {s : State} (h : s.memWf = true) (p : Nat) (w : Word) : (s.cxlTrain p w).memWf = true :=
  ite_memWf h h

theorem State.cxlDown_memWf {s : State} (h : s.memWf = true) (p : Nat) : (s.cxlDown p).memWf = true := ite_memWf h h

theorem State.ullerTrain_memWf {s : State} (h : s.memWf = true) (q : Nat) (ranges : List (Nat × Nat)) :
    (s.ullerTrain q ranges).memWf = true := ite_memWf h (rerouted_memWf h ..)

theorem State.ullerDown_memWf {s : State} (h : s.memWf = true) (q : Nat) : (s.ullerDown q).memWf = true := by
  grind [State.ullerDown, rerouted_memWf, core_memWf, killCards_memWf, State.memWf]

theorem State.weftTrain_memWf {s : State} (h : s.memWf = true) (p : Nat) (short : Bool) : (s.weftTrain p short).memWf = true := by
  grind [State.weftTrain, advise_memWf, State.memWf]

theorem State.weftDown_memWf {s : State} (h : s.memWf = true) (p : Nat) : (s.weftDown p).memWf = true := ite_memWf h h

theorem State.wrouteSet_memWf {s : State} (h : s.memWf = true) (n : Nat) (w : Word) : (s.wrouteSet n w).memWf = true :=
  ite_memWf h (rerouted_memWf h ..)

theorem State.ckptWrite_memWf {s : State} (h : s.memWf = true) (w : Word) : (s.ckptWrite w).memWf = true :=
  ite_memWf h (ite_memWf h h)

theorem State.ckptDone_memWf {s : State} (h : s.memWf = true) (err : Nat) : (s.ckptDone err).memWf = true := h

theorem State.ckptSaveEnd_memWf {s : State} (h : s.memWf = true) : s.ckptSaveEnd.memWf = true := by
  grind [State.ckptSaveEnd, ckptDone_memWf, allCores_memWf, logHome_memWf, Memory.ofCells_wf, foldl_memWf, State.memWf]

theorem State.ckptRestoreEnd_memWf {s : State} (h : s.memWf = true) : s.ckptRestoreEnd.memWf = true := by
  unfold ckptRestoreEnd
  refine ite_memWf h (ite_memWf (ckptDone_memWf h _) ?_)
  extract_lets rs hh saved live dpaAt hbm marks locs ids sick s0 s1 s2
  have h1 : s1.memWf = true :=
    withMem_memWf (s := s0) (foldl_memWf (f := logHome) (fun _ g hs => logHome_memWf hs g) sick h) (Memory.ofCells_wf _)
  have h2 : s2.memWf = true := foldl_memWf (fun _ _ hs => onCore_memWf_of_eq hs fun _ => rfl) ids h1
  refine ite_memWf (ckptDone_memWf (logHome_memWf h _) _) (ite_memWf (ckptDone_memWf h _) (ckptDone_memWf ?_ _))
  refine mapCores_memWf h2 fun c _ => ?_
  simp only [Core.memWf, Memory.ofCells_wf, Bool.and_self]

theorem State.wantHome_memWf {s : State} (h : s.memWf = true) (b u : Nat) : (s.wantHome b u).memWf = true := by
  grind [State.wantHome, State.memWf]

theorem State.unwant_memWf {s : State} (h : s.memWf = true) (b : Nat) : (s.unwant b).memWf = true := h

theorem State.homeStart_memWf {s : State} (h : s.memWf = true) (b : Nat) : (s.homeStart b).memWf = true := by
  unfold homeStart
  split
  · exact h
  · exact ite_memWf h h

theorem State.homeFinish_memWf {s : State} (h : s.memWf = true) (b : Nat) : (s.homeFinish b).memWf = true := by
  unfold homeFinish
  split
  · exact h
  · exact ite_memWf h h

theorem State.epochMove_memWf {s : State} (h : s.memWf = true) (x : HomeCount) : (s.epochMove x).memWf = true := by
  grind [State.epochMove, unwant_memWf, wantHome_memWf]

theorem State.epochEnd_memWf {s : State} (h : s.memWf = true) : s.epochEnd.memWf = true :=
  ite_memWf (foldl_memWf (fun _ _ hs => epochMove_memWf hs ..) _ h) h

theorem State.migWrite_memWf {s : State} (h : s.memWf = true) (w : Word) : (s.migWrite w).memWf = true := by
  grind [State.migWrite, homeSettled_memWf, wantHome_memWf, foldl_memWf, State.memWf]

theorem State.logWrites_memWf {s : State} (h : s.memWf = true) (a : Nat) (bs : List Byte) : (s.logWrites a bs).memWf = true :=
  foldl_memWf (fun _ _ hs => logWrite_memWf hs ..) _ h

theorem State.homeAtomic_memWf {s : State} (h : s.memWf = true) (a atop unit : Nat) (bs : List Byte) :
    (s.homeAtomic a atop unit bs).memWf = true := by
  grind [State.homeAtomic, readHomes_memWf, performSeen_memWf, countHome_memWf, writeMem_memWf, logWrites_memWf, State.memWf]

theorem State.homeUse_memWf {s : State} (h : s.memWf = true) (a how unit : Nat) (bs : List Byte) :
    (s.homeUse a how unit bs).memWf = true := by
  unfold State.homeUse
  grind [readHomes_memWf, core_memWf, performSeen_memWf, writeMem_memWf, logWrites_memWf, homeAtomic_memWf, foldl_memWf,
    State.memWf, Core.memWf]

/-! ### Machine/CoreBlock -/

theorem Core.putBlockWord_memWf {c : Core} (h : c.memWf = true) (o : Nat) (w : Word) : (c.putBlockWord o w).memWf = true := by
  grind [Core.putBlockWord, Memory.write_wf, putCtlWord_memWf, Core.memWf]

/-- A core restored from its block of the context area: the block's first parts are its two memories. -/
theorem Core.ofBlock_memWf (c : Core) {m : Memory} (hm : m.wf = true) : (c.ofBlock m).memWf = true := by
  unfold ofBlock
  extract_lets loc imem src c1
  have hl : loc.wf = true := Memory.filter_wf hm _
  have hi : imem.wf = true := by
    refine Memory.map_wf (Memory.filter_wf hm _) (fun a => a - 0x240000) fun a ha d _ had => ?_
    have := (List.mem_filter.mp ha).2
    simp only [Bool.and_eq_true, decide_eq_true_eq] at this
    omega
  have h1 : c1.memWf = true := by simp only [c1, memWf, hl, hi, Bool.and_self]
  exact foldl_memWf (fun d i hd => putBlockWord_memWf hd _ _) _ h1

theorem Core.putDebugWord_memWf {c : Core} (h : c.memWf = true) (o : Nat) (w : Word) : (c.putDebugWord o w).memWf = true := by
  unfold putDebugWord
  split <;> exact h

/-! ### Machine/Images -/

theorem State.imgError_memWf {s : State} (h : s.memWf = true) (err nbusy : Nat) : (s.imgError err nbusy).memWf = true := h

theorem State.loseImage_memWf {s : State} (h : s.memWf = true) (handle : Nat) : (s.loseImage handle).memWf = true := by
  grind [State.loseImage, addLoss_memWf, foldl_memWf]

theorem State.completeLaunch_memWf {s : State} (h : s.memWf = true) (l : Launch) (code cause step : Nat) (detail : Word) (tag
    image : Nat) :
    (s.completeLaunch l code cause step detail tag image).memWf = true := h

theorem State.freezeQueue_memWf {s : State} (h : s.memWf = true) (q : Nat) : (s.freezeQueue q).memWf = true := h

theorem State.failCounter_memWf {s : State} (h : s.memWf = true) (l : Launch) : (s.failCounter l).memWf = true := ite_memWf h h

theorem State.retire_memWf {s : State} (h : s.memWf = true) (bs : List Nat) : (s.retire bs).memWf = true := by
  grind [State.retire, logEntry_memWf, foldl_memWf, State.memWf]

theorem State.dropSaved_memWf {s : State} (h : s.memWf = true) (handle : Nat) : (s.dropSaved handle).memWf = true := by
  grind [State.dropSaved, dropTag_memWf, completeLaunch_memWf, failCounter_memWf, freezeQueue_memWf, retire_memWf, foldl_memWf,
    State.memWf]

theorem State.forgetHandle_memWf {s : State} (h : s.memWf = true) (handle : Nat) : (s.forgetHandle handle).memWf = true := by
  grind [State.forgetHandle, State.memWf]

theorem State.imgWrite_memWf {s : State} (h : s.memWf = true) (w : Word) : (s.imgWrite w).memWf = true := by
  grind [State.imgWrite, drawn_memWf, imgError_memWf, forgetHandle_memWf, dropSaved_memWf, loseImage_memWf, State.memWf]

theorem State.imgLoadEnd_memWf {s : State} (h : s.memWf = true) : s.imgLoadEnd.memWf = true := by
  grind [State.imgLoadEnd, readHomes_memWf, core_memWf, imgError_memWf, State.memWf]

theorem State.cellsFrom_wf {s : State} (h : s.memWf = true) (base n at_ : Nat) :
    Memory.wfCells (s.cellsFrom base n at_) = true := by
  refine Memory.map_wf (Memory.filter_wf (mem_memWf h) _) (fun a => a - base + at_) fun c hc d _ hcd => ?_
  have := (List.mem_filter.mp hc).2
  simp only [Bool.and_eq_true, decide_eq_true_eq] at this
  omega

theorem State.lineReload_memWf {s : State} (h : s.memWf = true) (k line : Nat) : (s.lineReload k line).memWf = true := by
  grind [State.lineReload, coreOf_memWf, logEntry_memWf, onCtx_memWf, onCore_memWf, Memory.write_wf, foldl_memWf, Core.memWf]

/-! ### Machine/Supersteps -/

theorem State.setFences_memWf {s : State} (h : s.memWf = true) (inside rs : List Nat) : (s.setFences inside rs).memWf = true :=
  foldl_memWf (fun _ _ hs => (putRet_memWf ..).trans hs) _ h

theorem State.freeCore_memWf {c : Core} (h : c.memWf = true) (tag : Nat) (ended : Bool) :
    (State.freeCore tag ended c).memWf = true := h

theorem State.unbind_memWf {s : State} (h : s.memWf = true) (p : Nat) (ended : Bool) : (s.unbind p ended).memWf = true := by
  grind [State.unbind, mapPart_memWf, freeCore_memWf, setFences_memWf, putRegion_memWf, onPart_memWf, foldl_memWf]

theorem State.chooseStart_memWf {s : State} (h : s.memWf = true) (p : Nat) : (s.chooseStart p).memWf = true := h

theorem State.regionStart_memWf {s : State} (h : s.memWf = true) (p r : Nat) : (s.regionStart p r).memWf = true := by
  grind [State.regionStart, mapCores_memWf, onCtx_memWf, onPart_memWf, Core.memWf]

theorem State.cardErrors_memWf {s : State} (h : s.memWf = true) (p : Nat) : (s.cardErrors p).memWf = true := by
  grind [State.cardErrors, addLoss_memWf, foldl_memWf]

theorem State.lossBegins_memWf {s : State} (h : s.memWf = true) (p : Nat) (x : Context) : (s.lossBegins p x).memWf = true := by
  grind [State.lossBegins, mapPart_memWf, Core.acctStop_memWf, onCtx_memWf, State.memWf, Core.memWf]

theorem State.dropImage_memWf {s : State} (h : s.memWf = true) (tag : Nat) : (s.dropImage tag).memWf = true := h

theorem State.lossEnds_memWf {s : State} (h : s.memWf = true) (p : Nat) (x : Context) : (s.lossEnds p x).memWf = true := by
  grind [State.lossEnds, retire_memWf, failCounter_memWf, freezeQueue_memWf, completeLaunch_memWf, onPart_memWf, unbind_memWf,
    dropImage_memWf]

theorem State.contextLoss_memWf {s : State} (h : s.memWf = true) (p : Nat) : (s.contextLoss p).memWf = true := by
  grind [State.contextLoss, lossEnds_memWf, lossBegins_memWf]

theorem State.nextSuperstep_memWf {s : State} (h : s.memWf = true) (p : Nat) : (s.nextSuperstep p).memWf = true := by
  grind [State.nextSuperstep, mapPart_memWf, onCtx_memWf, onPart_memWf, Core.memWf]

theorem State.resumeBarrier_memWf {c : Core} (h : c.memWf = true) (cycle : Nat) : (State.resumeBarrier c cycle).memWf = true :=
  Core.ite_memWf h h

theorem State.skipRedo_memWf {c : Core} (h : c.memWf = true) : (State.skipRedo c).memWf = true := Core.ite_memWf h h

theorem State.coreAtX0_memWf {c : Core} (h : c.memWf = true) (xlen cycle : Nat) (loom : Word) :
    (State.coreAtX0 xlen cycle loom c).memWf = true := by
  grind [State.coreAtX0, resumeBarrier_memWf, skipRedo_memWf, Core.memWf]

theorem State.beginExchange_memWf {s : State} (h : s.memWf = true) (p : Nat) (x : Context) :
    (s.beginExchange p x).memWf = true := by
  grind [State.beginExchange, onCtx_memWf, mapPart_memWf, coreAtX0_memWf, nextSuperstep_memWf]

theorem State.barrierComplete_memWf {s : State} (h : s.memWf = true) (p : Nat) : (s.barrierComplete p).memWf = true := by
  have h1 := cardErrors_memWf h p
  unfold barrierComplete
  split
  · exact h
  · refine ite_memWf h ?_
    extract_lets s1
    split
    · exact h1
    · exact ite_memWf (lossBegins_memWf h1 p _) (ite_memWf h1 (beginExchange_memWf h1 p _))

theorem State.countLate_memWf {s : State} (h : s.memWf = true) (t : Nat) : (s.countLate t).memWf = true := h

theorem State.exchangePhaseEnd_memWf {s : State} (h : s.memWf = true) (p : Nat) : (s.exchangePhaseEnd p).memWf = true := by
  unfold exchangePhaseEnd
  split
  · exact h
  · next x _ =>
    split
    · exact h
    · next x0 n _ _ =>
      refine ite_memWf h ?_
      extract_lets rs mine s1 s2 rest s3 s4
      have h1 : s1.memWf = true := foldl_memWf (fun _ _ hs => countLate_memWf hs _) _ h
      have h2 : s2.memWf = true := foldl_memWf (fun _ _ hs => countLate_memWf hs _) _ h1
      have h3 : s3.memWf = true := mapPart_memWf (s := { s2 with flits := rest }) h2 p (fun c hc => skipRedo_memWf hc)
      have h4 : s4.memWf = true := (onPart_memWf ..).trans (nextSuperstep_memWf h3 p)
      exact ite_memWf h4 (lossBegins_memWf h4 p x)

theorem State.straggler_memWf {s : State} (h : s.memWf = true) (p : Nat) : (s.straggler p).memWf = true := by
  unfold State.straggler
  grind [onCtx_memWf, onPart_memWf, addLoss_memWf, completeLaunch_memWf, mapPart_memWf, contextLoss_memWf, foldl_memWf,
    State.memWf, Core.memWf]

theorem State.launchEnd_memWf {s : State} (h : s.memWf = true) (p : Nat) : (s.launchEnd p).memWf = true := by
  grind [State.launchEnd, cardErrors_memWf, lossBegins_memWf, completeLaunch_memWf, onPart_memWf, unbind_memWf]

theorem State.deliver_memWf {s : State} (h : s.memWf = true) (k : Nat) : (s.deliver k).memWf = true := by
  unfold deliver
  extract_lets c s1
  split
  · exact h
  · refine ite_memWf h ?_
    have h1 : s1.memWf = true := onCore_memWf_of_eq h fun _ => rfl
    split
    · exact h1
    · refine ite_memWf h1 ?_
      split <;> exact h1

theorem State.earlyRelease_memWf {s : State} (h : s.memWf = true) (k : Nat) : (s.earlyRelease k).1.memWf = true := by
  have hv := focus_memWf h k
  unfold earlyRelease
  extract_lets v
  split
  · exact h
  · have hr := planRelease_memWf hv none
    change (planRelease v none).2.s.memWf = true at hr
    generalize planRelease v none = x at hr
    obtain ⟨p, r⟩ := x
    dsimp -zeta only at hr ⊢
    extract_lets back
    have hb : back.memWf = true := focus_memWf (carry_memWf (unpin_memWf hr false) hv) _
    split
    · exact hb
    · have hp := settlePlan_memWf hr p
      split
      · next he =>
        rw [he] at hp
        exact focus_memWf (act_memWf hp (core_memWf hp)) _
      · exact hb
      · exact hb

/-- The state of the cores' early releases, while the list of those still waiting grows. -/
theorem State.earlyFold_memWf (ks : List Nat) : ∀ {x : State × List Nat}, x.1.memWf = true →
    (ks.foldl (fun (x : State × List Nat) k =>
      let (u, more) := x.1.earlyRelease k
      (u, if more then x.2 ++ [k] else x.2)) x).1.memWf = true := by
  induction ks with
  | nil => exact id
  | cons k ks ih => exact fun hx => ih (earlyRelease_memWf hx k)

theorem State.earlyCores_memWf {s : State} (h : s.memWf = true) (p : Nat) (ks : List Nat) : (s.earlyCores p ks).memWf = true := by
  unfold earlyCores
  rw [onCtx_memWf]
  exact earlyFold_memWf ks (x := (s, [])) h

theorem State.earlyReleases_memWf {s : State} (h : s.memWf = true) (p : Nat) : (s.earlyReleases p).memWf = true := by
  unfold earlyReleases
  split
  · exact h
  · exact ite_memWf h (earlyCores_memWf h ..)

theorem State.retryEarly_memWf {s : State} (h : s.memWf = true) (p : Nat) : (s.retryEarly p).memWf = true := by
  unfold retryEarly
  split
  · exact ite_memWf h (earlyCores_memWf h ..)
  · exact h

theorem State.bindOver_memWf {s : State} (h : s.memWf = true) (p : Nat) : (s.bindOver p).memWf = true := by
  unfold bindOver
  split
  · exact ite_memWf (earlyReleases_memWf h ..) h
  · exact h

theorem State.launchStart_memWf {s : State} (h : s.memWf = true) (p : Nat) : (s.launchStart p).memWf = true := by
  grind [State.launchStart, chooseStart_memWf, bindOver_memWf]

theorem State.resumeCore_memWf {c : Core} (h : c.memWf = true) (cycle : Nat) : (State.resumeCore cycle c).memWf = true := by
  unfold resumeCore
  split
  · exact Core.leaveTrap_memWf h ..
  · exact h
  · exact h

theorem State.resumeFrozen_memWf {s : State} (h : s.memWf = true) (k : Nat) : (s.resumeFrozen k).memWf = true := by
  grind [State.resumeFrozen, focus_memWf, rejoin_memWf, act_memWf, resumeCore_memWf, core_memWf]

theorem State.tstopWrite_memWf {s : State} (h : s.memWf = true) (p : Nat) (w : Word) : (s.tstopWrite p w).memWf = true := by
  grind [State.tstopWrite, addLoss_memWf, onPart_memWf, resumeFrozen_memWf, foldl_memWf]

theorem State.discardBound_memWf {s : State} (h : s.memWf = true) (p : Nat) : (s.discardBound p).memWf = true := by
  grind [State.discardBound, lossBegins_memWf, unbind_memWf, completeLaunch_memWf]

theorem State.waitsSettled_memWf {s : State} (h : s.memWf = true) (p : Nat) : (s.waitsSettled p).memWf = true := by
  grind [State.waitsSettled, discardBound_memWf, launchStart_memWf]

/-! ### Machine/Sequencer -/

theorem State.pdefWrite_memWf {s : State} (h : s.memWf = true) (p : Nat) (w : Word) : (s.pdefWrite p w).memWf = true := by
  grind [State.pdefWrite, putPart_memWf]

theorem State.putQueue_memWf {s : State} (h : s.memWf = true) (q : Nat) (x : Queue) : (s.putQueue q x).memWf = true := h

theorem State.qcfgWrite_memWf {s : State} (h : s.memWf = true) (q : Nat) (w : Word) : (s.qcfgWrite q w).memWf = true := by
  grind [State.qcfgWrite, putQueue_memWf]

theorem State.qbaseWrite_memWf {s : State} (h : s.memWf = true) (q : Nat) (w : Word) (completion : Bool) :
    (s.qbaseWrite q w completion).memWf = true := ite_memWf h (ite_memWf h h)

theorem State.qtailSet_memWf {s : State} (h : s.memWf = true) (q : Nat) (w : Word) : (s.qtailSet q w).memWf = true :=
  ite_memWf h h

theorem State.refuseHead_memWf {s : State} (h : s.memWf = true) (q code : Nat) (ws : List Word) :
    (s.refuseHead q code ws).memWf = true := h

theorem State.headRead_memWf {s : State} (h : s.memWf = true) (q : Nat) : (s.headRead q).memWf = true := by
  unfold headRead
  extract_lets x shape at_ ws s1
  have hs {s : State} (h : s.memWf = true) (ws : List Word) : (shape s ws).memWf = true := by
    unfold shape
    extract_lets d
    split
    · exact h
    · split
      · exact refuseHead_memWf h _ _ _
      · exact ite_memWf (refuseHead_memWf h _ _ _) h
  refine ite_memWf h ?_
  split
  · have h1 : s1.memWf = true := readHomes_memWf h _
    have hr (n : Nat) := refuseHead_memWf h1 q n ws
    exact ite_memWf (hr _) (ite_memWf (hr _) (ite_memWf (hr _) (hs h1 ws)))
  · exact hs h _
  · exact ite_memWf (refuseHead_memWf h _ _ _) (hs h _)

theorem State.acctOver_memWf {c : Core} (h : c.memWf = true) (tag : Nat) : (State.acctOver tag c).memWf = true :=
  Core.ite_memWf h h

theorem State.recordWrite_memWf {s : State} (h : s.memWf = true) (q : Nat) : (s.recordWrite q).memWf = true := by
  unfold State.recordWrite
  grind [writeMem_memWf, putQueue_memWf, core_memWf, dropTag_memWf, mapCores_memWf, acctOver_memWf, foldl_memWf, State.memWf,
    Core.memWf]

theorem State.takePri_memWf {s : State} (h : s.memWf = true) (p sseq : Nat) : (s.takePri p sseq).memWf = true := by
  grind [State.takePri, putQueue_memWf, foldl_memWf]

theorem State.select_memWf {s : State} (h : s.memWf = true) (p : Nat) : (s.select p).memWf = true := by
  grind [State.select, refuseHead_memWf, takePri_memWf, onPart_memWf, putQueue_memWf, foldl_memWf]

/-- A core bound afresh keeps its local space, or starts with an empty one; its instruction memory is the image's code section. -/
theorem State.bindCore_memWf {s : State} (h : s.memWf = true) {c : Core} (hc : c.memWf = true) (p tag : Nat) (l : Launch)
    (img : Image) :
    (s.bindCore p tag l img c).memWf = true := by
  simp only [Core.memWf, Bool.and_eq_true] at hc
  have hl : (s.bindCore p tag l img c).mem.loc.wf = true := by
    simp only [bindCore]
    split; exacts [hc.1, rfl]
  have hi : (s.bindCore p tag l img c).mem.imem.wf = true := by
    simp only [bindCore, Memory.wf]
    split; exacts [cellsFrom_wf h _ _ _, rfl]
  simp only [Core.memWf, Bool.and_eq_true]
  exact ⟨hl, hi⟩

theorem State.replaceCores_memWf {s : State} (h : s.memWf = true) {cs : List Core} (hcs : ∀ c ∈ cs, c.memWf = true) :
    (s.replaceCores cs).memWf = true := by
  obtain ⟨hm, hc, ho⟩ := (memWf_iff s).mp h
  unfold replaceCores
  extract_lets ids core rest
  refine (memWf_iff _).mpr ⟨hm, ?_, fun c hx => ?_⟩
  · cases hf : cs.find? (fun c => c.idx == s.core.idx) with
    | none => simpa only [core, hf, Option.getD_none] using hc
    | some d => simpa only [core, hf, Option.getD_some] using hcs d (List.mem_of_find?_eq_some hf)
  · rcases List.mem_append.mp (List.mem_mergeSort.mp hx) with hx | hx
    · exact ho c (List.mem_filter.mp hx).1
    · exact hcs c (List.mem_filter.mp hx).1

theorem State.bindTiles_memWf {s : State} (h : s.memWf = true) (p : Nat) (img : Image) : (s.bindTiles p img).memWf = true :=
  foldl_memWf (fun _ _ hs => (putTile_memWf ..).trans hs) _ h

theorem State.dropRecords_memWf {s : State} (h : s.memWf = true) (p tag : Nat) : (s.dropRecords p tag).memWf = true := h

theorem State.realigned_memWf {s : State} (h : s.memWf = true) (rs : List Nat) : (s.realigned rs).memWf = true := by
  grind [State.realigned, putRet_memWf, foldl_memWf]

theorem State.bindCommon_memWf {s : State} (h : s.memWf = true) (p tag : Nat) (l : Launch) (img : Image) (strags : Nat) :
    (s.bindCommon p tag l img strags).memWf = true := by
  grind [State.bindCommon, realigned_memWf, dropRecords_memWf, bindTiles_memWf, setFences_memWf, onPart_memWf]

theorem State.bindFresh_memWf {s : State} (h : s.memWf = true) (p : Nat) (l : Launch) : (s.bindFresh p l).memWf = true := by
  unfold bindFresh
  extract_lets out
  have ho : out.memWf = true := (onPart_memWf ..).trans h
  split
  · exact completeLaunch_memWf ho ..
  · exact h
  · next img tag _ _ =>
    split
    · exact completeLaunch_memWf ho ..
    · extract_lets cs s1 till sick x s2
      have hcs : ∀ c ∈ cs, c.memWf = true := fun c hc => by
        obtain ⟨k, -, rfl⟩ := List.mem_map.mp hc
        exact bindCore_memWf h (coreOf_memWf h k) _ _ _ _
      have h1 : s1.memWf = true := readHomes_memWf (bindCommon_memWf (replaceCores_memWf h hcs) ..) _
      exact (onPart_memWf ..).trans h1

theorem State.ctxareaSet_memWf {s : State} (h : s.memWf = true) (w : Word) : (s.ctxareaSet w).memWf = true := ite_memWf h h

theorem State.writeArea_memWf {s : State} (h : s.memWf = true) (page pages : Nat) (cs : List Host.Cell) :
    (s.writeArea page pages cs).memWf = true := by
  grind [State.writeArea, Memory.ofCells_wf, State.memWf]

theorem State.contextSave_memWf {s : State} (h : s.memWf = true) (p : Nat) : (s.contextSave p).memWf = true := by
  grind [State.contextSave, completeLaunch_memWf, writeArea_memWf, onCtx_memWf, drawn_memWf, State.memWf]

theorem State.contextSaveEnd_memWf {s : State} (h : s.memWf = true) (p : Nat) : (s.contextSaveEnd p).memWf = true := by
  grind [State.contextSaveEnd, unbind_memWf, State.memWf]

/-- A restored core with its marks: the bad words, the code lines, and whether its trigger has been delivered. -/
def Core.marked (c : Core) (bad imemBad codeLines : List Nat) : Core :=
  { c with aux := { c.aux with delivered := c.aux.trigger.isSome }
           mem := { c.mem with bad := bad, imemBad := imemBad, codeLines := codeLines } }

theorem Core.marked_memWf (c : Core) (bad imemBad codeLines : List Nat) : (c.marked bad imemBad codeLines).memWf = c.memWf := rfl

theorem State.restoreCore_memWf (s : State) (p : Nat) (l : Launch) (v : Saved) {m : Memory} (hm : m.wf = true) (c : Core) :
    (s.restoreCore p l v m c).memWf = true := by
  unfold restoreCore
  extract_lets n o block halted mine _ _ _ _ c1 c2
  change (c2.marked (mine v.bad) (mine v.imemBad) (mine v.codeLines)).memWf = true
  refine (Core.marked_memWf ..).trans (Core.ofBlock_memWf c1 ?_)
  refine Memory.map_wf (Memory.filter_wf hm _) (fun a => a - o) fun a ha d _ had => ?_
  have := (List.mem_filter.mp ha).2
  simp only [Bool.and_eq_true, decide_eq_true_eq] at this
  omega

theorem State.bindResume_memWf {s : State} (h : s.memWf = true) (p : Nat) (l : Launch) : (s.bindResume p l).memWf = true := by
  unfold bindResume
  split
  · exact (onPart_memWf ..).trans h
  · next v _ =>
    extract_lets m strags good cs s1 saved till area sick x0 x src sched s2 s3
    have hcs : ∀ c ∈ cs, c.memWf = true := fun c hc => by
      obtain ⟨k, -, rfl⟩ := List.mem_map.mp hc
      exact restoreCore_memWf s p l v (Memory.ofCells_wf _) _
    have h1 : s1.memWf = true := bindCommon_memWf (replaceCores_memWf h hcs) ..
    have h3 : s3.memWf = true := (onPart_memWf ..).trans (readHomes_memWf h1 area)
    exact ite_memWf h3 ((addLoss_memWf ..).trans h3)

theorem State.restoreEnd_memWf {s : State} (h : s.memWf = true) (p : Nat) : (s.restoreEnd p).memWf = true := by
  grind [State.restoreEnd, completeLaunch_memWf, dropImage_memWf, mapPart_memWf, onCtx_memWf, Core.memWf]

theorem State.bind_memWf {s : State} (h : s.memWf = true) (p : Nat) : (s.bind_ p).memWf = true := by
  grind [State.bind_, bindFresh_memWf, bindResume_memWf, bindOver_memWf, onCtx_memWf]

theorem State.preqWrite_memWf {s : State} (h : s.memWf = true) (p : Nat) (w : Word) : (s.preqWrite p w).memWf = true := by
  grind [State.preqWrite, putPart_memWf, addLoss_memWf]

theorem State.quantumRequest_memWf {s : State} (h : s.memWf = true) (p : Nat) : (s.quantumRequest p).memWf = true :=
  ite_memWf (preqWrite_memWf h ..) h

/-! ### Machine/Fabric -/

theorem State.sendOut_memWf {s : State} (h : s.memWf = true) (t q : Nat) (w : XWord) : (s.sendOut t q w).memWf = true := by
  unfold sendOut
  extract_lets x d r drop
  have hd : drop.memWf = true := by unfold drop; rw [note_memWf]; exact h
  split
  · exact onCore_memWf_of_eq h fun _ => rfl
  · split
    · exact hd
    · exact ite_memWf hd h

theorem State.switchAt_memWf {s : State} (h : s.memWf = true) (t pc o : Nat) : (s.switchAt t pc o).memWf = true := by
  unfold switchAt
  extract_lets x es bad good ins lost corr ue w1 w2 s1 s2 s3 s4 flits
  have h1 : s1.memWf = true := ite_memWf h ((putTile_memWf s _).trans h)
  have h2 : s2.memWf = true := foldl_memWf (fun _ _ hs => (note_memWf ..).trans hs) bad h1
  have h3 : s3.memWf = true := ite_memWf h2 ((notes_memWf ..).trans h2)
  have h4 : s4.memWf = true := by
    refine foldl_memWf (fun s q hs => ?_) _ h3
    split
    · exact hs
    · split
      · exact sendOut_memWf hs _ _ _
      · exact hs
  have h5 : ({ s4 with flits := flits } : State).memWf = true := h4
  clear_value s4
  refine foldl_memWf (fun s i hs => ?_) _ h5
  split
  · exact onCore_memWf_of_eq hs fun _ => rfl
  · exact hs

theorem State.routerSwitch_memWf {s : State} (h : s.memWf = true) (t : Nat) : (s.routerSwitch t).memWf = true := by
  unfold routerSwitch
  split
  · exact switchAt_memWf h ..
  · exact h

theorem State.heddleWrite_memWf {s : State} (h : s.memWf = true) (t o : Nat) (w : Word) : (s.heddleWrite t o w).memWf = true :=
  ite_memWf h (ite_memWf h h)

theorem State.slipped_memWf {s : State} (h : s.memWf = true) (r : Nat) (d : Int) : (s.slipped r d).memWf = true := by
  unfold slipped
  split
  · exact h
  · exact ite_memWf h h

theorem State.classifyRound_memWf {s : State} (h : s.memWf = true) (r : Nat) : (s.classifyRound r).memWf = true := by
  grind [State.classifyRound, putRet_memWf, slipped_memWf]

theorem State.joinRound_memWf {s : State} (h : s.memWf = true) (r sel : Nat) (d : Option Int) :
    (s.joinRound r sel d).memWf = true := ite_memWf (classifyRound_memWf h ..) h

theorem State.sampleArrives_memWf {s : State} (h : s.memWf = true) (m : Sample) : (s.sampleArrives m).memWf = true := by
  grind [State.sampleArrives, joinRound_memWf, putRet_memWf, State.memWf]

theorem State.settleSamples_memWf {s : State} (h : s.memWf = true) : s.settleSamples.memWf = true :=
  foldl_memWf (fun _ _ hs => sampleArrives_memWf hs ..) _ h

theorem State.openRound_memWf {s : State} (h : s.memWf = true) (r : Nat) : (s.openRound r).memWf = true := ite_memWf h h

theorem State.sampleRound_memWf {s : State} (h : s.memWf = true) (r m : Nat) : (s.sampleRound r m).memWf = true := by
  grind [State.sampleRound, openRound_memWf, classifyRound_memWf]

theorem State.loomRepair_memWf {s : State} (h : s.memWf = true) (r : Nat) : (s.loomRepair r).memWf = true := by
  grind [State.loomRepair, putRet_memWf, onCtx_memWf, foldl_memWf]

theorem State.shmapWrite_memWf {s : State} (h : s.memWf = true) (r n : Nat) (w : Word) : (s.shmapWrite r n w).memWf = true :=
  ite_memWf h h

theorem State.loomStarted_memWf {s : State} (h : s.memWf = true) (r : Nat) : (s.loomStarted r).memWf = true := h

theorem State.periodStart_memWf {s : State} (h : s.memWf = true) (r : Nat) : (s.periodStart r).memWf = true := ite_memWf h h

theorem State.traceEnter_memWf {s : State} (h : s.memWf = true) (k : Nat) : (s.traceEnter k).memWf = true := by
  grind [State.traceEnter, coreOf_memWf, onCore_memWf, putRegion_memWf, Core.memWf]

theorem State.traceHop_memWf {s : State} (h : s.memWf = true) (r i : Nat) : (s.traceHop r i).memWf = true := by
  grind [State.traceHop, putRegion_memWf, State.memWf]

theorem State.flitHop_memWf {s : State} (h : s.memWf = true) : s.flitHop.memWf = true := by
  grind [State.flitHop, traceEnter_memWf, traceHop_memWf, linkGranule_memWf]

theorem State.traceWrite_memWf {s : State} (h : s.memWf = true) (r i : Nat) : (s.traceWrite r i).memWf = true := by
  grind [State.traceWrite, recordLost_memWf, putRegion_memWf, writeMem_memWf, State.memWf]

theorem State.trringSet_memWf {s : State} (h : s.memWf = true) (r : Nat) (w : Word) : (s.trringSet r w).memWf = true :=
  ite_memWf h h

/-! ### Machine/Spares -/

theorem State.selfTested_memWf (c : Core) : (selfTested c).memWf = true := rfl

theorem State.selfTest_memWf {s : State} (h : s.memWf = true) (r : Nat) : (s.selfTest r).memWf = true := by
  grind [State.selfTest, mapCores_memWf, selfTested_memWf, putRet_memWf, putTile_memWf, foldl_memWf, State.memWf]

/-! ### Machine/Boot -/

theorem State.onBoot_memWf {s : State} (h : s.memWf = true) (r : Nat) (f : Boot → Boot) : (s.onBoot r f).memWf = true := h

theorem State.setBootst_memWf {s : State} (h : s.memWf = true) (r hi : Nat) (lo v : Nat) : (s.setBootst r hi lo v).memWf = true :=
  h

theorem State.enterStage_memWf {s : State} (h : s.memWf = true) (r : Nat) (g : BootStage) : (s.enterStage r g).memWf = true := h

theorem State.postAt_memWf {s : State} (h : s.memWf = true) (r sel t : Nat) (bs : List Byte) :
    (s.postAt r sel t bs).memWf = true := by
  unfold postAt
  split <;> exact h

theorem State.post_memWf {s : State} (h : s.memWf = true) (r sel : Nat) (t type : Nat) (payload : Nat → List Nat) :
    (s.post r sel t type payload).memWf = true := postAt_memWf h ..

theorem State.noHost_memWf {s : State} (h : s.memWf = true) : s.noHost.memWf = true := by
  grind [State.noHost, advise_memWf, foldl_memWf, State.memWf]

theorem State.powerGood_memWf {s : State} (h : s.memWf = true) : s.powerGood.memWf = true :=
  ite_memWf h (State.memWf_congr h rfl rfl rfl)

theorem State.sendProbe_memWf {s : State} (h : s.memWf = true) (r : Nat) : (s.sendProbe r).memWf = true := by
  grind [State.sendProbe, onBoot_memWf, post_memWf, foldl_memWf]

theorem State.linkTest_memWf {s : State} (h : s.memWf = true) (r : Nat) : (s.linkTest r).memWf = true := by
  grind [State.linkTest, selfTest_memWf, enterStage_memWf, sendProbe_memWf, noHost_memWf]

theorem State.lprobe_memWf {s : State} (h : s.memWf = true) (r sel : Nat) (bs : List Byte) : (s.lprobe r sel bs).memWf = true :=
  ite_memWf h (post_memWf h ..)

theorem State.lecho_memWf {s : State} (h : s.memWf = true) (r sel : Nat) (bs : List Byte) : (s.lecho r sel bs).memWf = true :=
  ite_memWf h h

theorem State.b3_memWf {s : State} (h : s.memWf = true) (r : Nat) : (s.b3 r).memWf = true :=
  ite_memWf h ((putRet_memWf ..).trans h)

theorem State.electionRound_memWf {s : State} (h : s.memWf = true) (r : Nat) : (s.electionRound r).memWf = true := by
  grind [State.electionRound, post_memWf, onBoot_memWf, foldl_memWf]

theorem State.elect_memWf {s : State} (h : s.memWf = true) (r sel : Nat) (bs : List Byte) : (s.elect r sel bs).memWf = true := by
  grind [State.elect, onBoot_memWf]

theorem State.sendEnums_memWf {s : State} (h : s.memWf = true) (r : Nat) (sels : List Nat) : (s.sendEnums r sels).memWf = true :=
  foldl_memWf (fun _ _ hs => post_memWf hs ..) _ h

theorem State.tryReport_memWf {s : State} (h : s.memWf = true) (r : Nat) : (s.tryReport r).memWf = true := by
  grind [State.tryReport, post_memWf, onBoot_memWf, foldl_memWf]

theorem State.b4_memWf {s : State} (h : s.memWf = true) (r : Nat) : (s.b4 r).memWf = true := by
  grind [State.b4, setBootst_memWf, enterStage_memWf, noHost_memWf, putRet_memWf, sendEnums_memWf, onBoot_memWf, core_memWf,
    State.memWf]

theorem State.enum_memWf {s : State} (h : s.memWf = true) (r sel : Nat) (bs : List Byte) : (s.enum r sel bs).memWf = true := by
  grind [State.enum, post_memWf, setBootst_memWf, putRet_memWf, tryReport_memWf, sendEnums_memWf]

theorem State.onChild_memWf {s : State} (h : s.memWf = true) (r sel : Nat) (f : Child → Child) :
    (s.onChild r sel f).memWf = true := h

theorem State.dropChild_memWf {s : State} (h : s.memWf = true) (r sel : Nat) : (s.dropChild r sel).memWf = true :=
  tryReport_memWf (onBoot_memWf h ..) ..

theorem State.accept_memWf {s : State} (h : s.memWf = true) (r sel : Nat) : (s.accept r sel).memWf = true := h

theorem State.refuse_memWf {s : State} (h : s.memWf = true) (r sel : Nat) : (s.refuse r sel).memWf = true := dropChild_memWf h ..

theorem State.report_memWf {s : State} (h : s.memWf = true) (r sel : Nat) (bs : List Byte) : (s.report r sel bs).memWf = true :=
  tryReport_memWf (onChild_memWf h ..) ..

theorem State.enumTimeout_memWf {s : State} (h : s.memWf = true) (r sel : Nat) : (s.enumTimeout r sel).memWf = true :=
  ite_memWf (dropChild_memWf h ..) h

theorem State.deadline_memWf {s : State} (h : s.memWf = true) (r : Nat) : (s.deadline r).memWf = true := by
  grind [State.deadline, enterStage_memWf]

theorem State.claimGrant_memWf {s : State} (h : s.memWf = true) : s.claimGrant.memWf = true := by
  grind [State.claimGrant, setBootst_memWf, enterStage_memWf, foldl_memWf, State.memWf]

theorem State.topology_memWf {s : State} (h : s.memWf = true) (leader : Nat) (present : List Nat) :
    (s.topology leader present).memWf = true := h

theorem State.sendStart_memWf {s : State} (h : s.memWf = true) (r : Nat) : (s.sendStart r).memWf = true :=
  foldl_memWf (fun _ _ hs => post_memWf hs ..) _ h

theorem State.sendDone_memWf {s : State} (h : s.memWf = true) (r : Nat) : (s.sendDone r).memWf = true :=
  foldl_memWf (fun _ _ hs => post_memWf hs ..) _ h

theorem State.bootDone_memWf {s : State} (h : s.memWf = true) (r : Nat) : (s.bootDone r).memWf = true := by
  grind [State.bootDone, sendDone_memWf, enterStage_memWf, onBoot_memWf]

theorem State.b5_memWf {s : State} (h : s.memWf = true) (r : Nat) : (s.b5 r).memWf = true := by
  grind [State.b5, putRet_memWf, sendStart_memWf, topology_memWf, bootDone_memWf, loomStarted_memWf, advise_memWf, foldl_memWf]

theorem State.lstart_memWf {s : State} (h : s.memWf = true) (r sel : Nat) (bs : List Byte) :
    (s.lstart r sel bs).memWf = true := by
  grind [State.lstart, loomStarted_memWf, sendStart_memWf, putRet_memWf]

theorem State.done_memWf {s : State} (h : s.memWf = true) (r sel : Nat) : (s.done r sel).memWf = true :=
  ite_memWf h (bootDone_memWf h ..)

theorem State.heard_memWf {s : State} (h : s.memWf = true) (type : Nat) {f : State → Nat → Nat → List Byte → State}
    (hf : ∀ r sel bs, (f s r sel bs).memWf = true) : (s.heard type f).memWf = true := ite_memWf (hf _ _ _) h

/-! ### Machine/Local -/

theorem lmAccess_memWf {s : State} (h : s.memWf = true) (op : Nat) (f : Core → Access) : (lmAccess op f s).memWf = true :=
  State.watched_memWf (State.act_memWf h (State.core_memWf h)) ..

/-! ### Machine/Loops -/

theorem loopSetEffect_memWf {c : Core} (h : c.memWf = true) (rot : Bool) (o : LsOps) : (loopSetEffect rot o c).memWf = true :=
  Core.ite_memWf h h

theorem loopPairEffect_memWf {c : Core} (h : c.memWf = true) (o : LqOps) : (loopPairEffect o c).memWf = true := h

theorem predLogic_memWf {s : State} (h : s.memWf = true) (op : Nat) (o : P3Ops) (f : Bool → Bool → Bool) :
    (predLogic op o f s).memWf = true := h

/-! ### Machine/Matrix -/

theorem mxAccess_memWf {c : Core} (h : c.memWf = true) (op : Nat) (x : Access) : (mxAccess op x c).memWf = true := h

theorem drainEffect_memWf {c : Core} (h : c.memWf = true) (o : MdOps) : (drainEffect o c).memWf = true := by
  grind [drainEffect, mxAccess_memWf, Core.land_memWf]

/-! ### Machine/Placement -/

theorem State.writePart_memWf {s : State} (h : s.memWf = true) (img : Image) (out : Placed) :
    (s.writePart img out).1.memWf = true := by
  unfold writePart
  extract_lets dst
  generalize layOut (s.newSections img out) = x
  obtain ⟨xs, size⟩ := x
  dsimp -zeta only
  extract_lets w1 head body kept s1 msg
  have h1 : s1.memWf = true := withMem_memWf h (Memory.ofCells_wf _)
  exact writeMem_memWf h1 _ _

theorem State.placementStart_memWf {s : State} (h : s.memWf = true) (w : Word) : (s.placementStart w).memWf = true :=
  ite_memWf h (ite_memWf h h)

theorem State.placementDone_memWf {s : State} (h : s.memWf = true) : s.placementDone.memWf = true := by
  unfold placementDone
  refine ite_memWf h ?_
  extract_lets src m fin img out route
  have hf {s : State} (h : s.memWf = true) (st w : Word) : (fin s st w).memWf = true := h
  refine ite_memWf (hf h _ _) (ite_memWf (hf h _ _) (ite_memWf (hf h _ _) ?_))
  have hw := writePart_memWf h img out
  generalize layOut (s.newSections img out) = x
  generalize s.writePart img out = y at hw
  obtain ⟨xs, size⟩ := x
  obtain ⟨s1, n⟩ := y
  exact ite_memWf (hf h _ _) (hf hw _ _)

theorem State.instkeySet_memWf {s : State} (h : s.memWf = true) (i : Nat) (w : Word) : (s.instkeySet i w).memWf = true := by
  unfold instkeySet
  split <;> exact h

/-! ### Machine/Power -/

theorem State.rpctlSet_memWf {s : State} (h : s.memWf = true) (r : Nat) (w : Word) : (s.rpctlSet r w).memWf = true :=
  ite_memWf h h

theorem State.rthermSet_memWf {s : State} (h : s.memWf = true) (r : Nat) (w : Word) : (s.rthermSet r w).memWf = true :=
  ite_memWf h h

theorem State.mstagSet_memWf {s : State} (h : s.memWf = true) (w : Word) : (s.mstagSet w).memWf = true := ite_memWf h h

theorem State.activityStep_memWf {s : State} (h : s.memWf = true) (r : Nat) : (s.activityStep r).memWf = true := h

theorem State.gate_memWf {s : State} (h : s.memWf = true) (r hi lo : Nat) (counted : Bool) :
    (s.gate r hi lo counted).memWf = true := h

theorem State.issueGate_memWf {s : State} (h : s.memWf = true) (r : Nat) : (s.issueGate r).memWf = true :=
  ite_memWf h (ite_memWf h h)

theorem State.droopAlarm_memWf {s : State} (h : s.memWf = true) (r : Nat) : (s.droopAlarm r).memWf = true := by
  grind [State.droopAlarm, gate_memWf, putRegion_memWf]

theorem State.droopFloor_memWf {s : State} (h : s.memWf = true) (r : Nat) : (s.droopFloor r).memWf = true := by
  grind [State.droopFloor, addLoss_memWf, gate_memWf]

theorem State.thermalHot_memWf {s : State} (h : s.memWf = true) (r : Nat) : (s.thermalHot r).memWf = true := ite_memWf h h

theorem State.thermalCrit_memWf {s : State} (h : s.memWf = true) (r : Nat) : (s.thermalCrit r).memWf = true := ite_memWf h h

theorem State.powerGate_memWf {s : State} (h : s.memWf = true) (r : Nat) : (s.powerGate r).memWf = true := ite_memWf h h

theorem State.putSide_memWf {s : State} (h : s.memWf = true) (e : GranuleLog) (side : Nat × Byte × Byte → Byte) (mark : Option
    Bool) :
    (s.putSide e side mark).memWf = true := atHome_memWf h ..

theorem State.tearCards_memWf {s : State} (h : s.memWf = true) : s.tearCards.memWf = true := by
  have back : ∀ es : List GranuleLog, (es.foldr (fun e s => s.putSide e (·.2.1) (some e.was)) s).memWf = true := by
    intro es
    induction es with
    | nil => exact h
    | cons e es ih => exact putSide_memWf ih _ _ _
  exact foldl_memWf (fun t e ht => ite_memWf ht (putSide_memWf ht _ _ _)) _ (back _)

theorem State.loseDown_memWf {s : State} (h : s.memWf = true) : s.loseDown.memWf = true := by
  unfold loseDown
  extract_lets t keep
  refine (memWf_iff _).mpr ⟨Memory.filter_wf (mem_memWf (tearCards_memWf h)) _, rfl, fun c hc => ?_⟩
  exact absurd hc List.not_mem_nil

theorem State.debugSettle_memWf {s : State} (h : s.memWf = true) (p : Nat) : (s.debugSettle p).memWf = true := ite_memWf h h

theorem State.debugRequest_memWf {s : State} (h : s.memWf = true) (p : Nat) : (s.debugRequest p).memWf = true := ite_memWf h h

theorem State.debugWithdraw_memWf {s : State} (h : s.memWf = true) (p : Nat) : (s.debugWithdraw p).memWf = true := by
  grind [State.debugWithdraw, onPart_memWf, mapPart_memWf, resumeCore_memWf]

/-! ### Machine/VectorA -/

theorem putV_memWf {s : State} (h : s.memWf = true) (sl : Slot) (op lat : Nat) (d : BitVec 6) (x : Vec) :
    (putV sl op lat d x s).memWf = true := h

theorem putLanes_memWf {s : State} (h : s.memWf = true) (sl : Slot) (op lat : Nat) (f : Fmt) (k : Word32) (d : BitVec 6) (x : Vec)
    :
    (putLanes sl op lat f k d x s).memWf = true := h

theorem vaLanes_memWf {s : State} (h : s.memWf = true) (op w : Nat) (o : R3Ops) (f : Nat → Nat → Nat) :
    (vaLanes op w o f s).memWf = true := h

theorem vaCmp_memWf {s : State} (h : s.memWf = true) (op w : Nat) (o : R3xOps) (f : Nat → Int) : (vaCmp op w o f s).memWf = true :=
  h

/-! ### Machine/VectorM -/

theorem cvtOut_memWf {s : State} (h : s.memWf = true) (op : Nat) (f : Fmt) (slot : Nat) (fa fb : Word32) (d : BitVec 6) (x : Vec)
    :
    (cvtOut op f slot fa fb d x s).memWf = true := h

theorem vmSpecial_memWf {s : State} (h : s.memWf = true) (op : Nat) (f : Fmt) (k : Word32) (o : DaOps) (g : Nat → Nat) :
    (vmSpecial op f k o g s).memWf = true := h

/-! ### Machine/Windows -/

theorem State.readClears_memWf {s : State} (h : s.memWf = true) (w : Window) (o : Nat) : (s.readClears w o).memWf = true := by
  unfold State.readClears
  grind [putTile_memWf, putRet_memWf, putRegion_memWf, onPart_memWf, foldl_memWf, State.memWf, Core.memWf]

theorem State.windowRead_memWf {s : State} (h : s.memWf = true) (w : Window) (o : Nat) : (s.windowRead w o).memWf = true :=
  readClears_memWf h ..

theorem State.moduleWrite_memWf {s : State} (h : s.memWf = true) (o : Nat) (v : Word) : (s.moduleWrite o v).memWf = true := by
  unfold moduleWrite
  extract_lets m q
  refine ite_memWf (wrouteSet_memWf h _ _) (ite_memWf (pdefWrite_memWf h _ _) (ite_memWf (preqWrite_memWf h _ _) ?_))
  refine ite_memWf (memWf_congr h rfl rfl rfl) (ite_memWf ?_ (ite_memWf ?_ (ite_memWf (instkeySet_memWf h _ _) ?_)))
  · split
    · exact qcfgWrite_memWf h _ _
    · exact qbaseWrite_memWf h _ _ _
    · exact qbaseWrite_memWf h _ _ _
    · exact qtailSet_memWf h _ _
    · exact putQueue_memWf h _ _
    · exact h
  · exact ite_memWf (memWf_congr h rfl rfl rfl) (memWf_congr h rfl rfl rfl)
  · split
    · exact ckptWrite_memWf h _
    · exact migWrite_memWf h _
    · exact hbmWrite_memWf h _
    · exact imgWrite_memWf h _
    · exact h
    · exact h
    · exact ctxareaSet_memWf h _
    · exact placementStart_memWf h _
    · exact h
    · exact h
    · exact mstagSet_memWf h _
    · exact h

theorem State.regionWrite_memWf {s : State} (h : s.memWf = true) (r o : Nat) (v : Word) : (s.regionWrite r o v).memWf = true := by
  unfold State.regionWrite
  grind [shmapWrite_memWf, putRegion_memWf, onPart_memWf, tstopWrite_memWf, debugRequest_memWf, debugWithdraw_memWf,
    trringSet_memWf, rpctlSet_memWf, rthermSet_memWf, foldl_memWf, State.memWf, Core.memWf]

theorem State.reticleWrite_memWf {s : State} (h : s.memWf = true) (r o : Nat) (v : Word) :
    (s.reticleWrite r o v).memWf = true := by
  unfold State.reticleWrite
  grind [tinvWrite_memWf, putRet_memWf, foldl_memWf, State.memWf, Core.memWf]

theorem State.arrmodeWrite_memWf {s : State} (h : s.memWf = true) (t : Nat) (v : Word) : (s.arrmodeWrite t v).memWf = true :=
  ite_memWf h h

theorem State.tileWrite_memWf {s : State} (h : s.memWf = true) (t o : Nat) (v : Word) : (s.tileWrite t o v).memWf = true := by
  grind [State.tileWrite, heddleWrite_memWf, arrmodeWrite_memWf, putTile_memWf]

theorem State.coreWrite_memWf {s : State} (h : s.memWf = true) (k o : Nat) (v : Word) : (s.coreWrite k o v).memWf = true := by
  grind [State.coreWrite, onCore_memWf, Core.putDebugWord_memWf, coreOf_memWf, Core.storeBytes_memWf, notes_memWf, putCore_memWf,
    drawn_memWf, Memory.write_wf, note_memWf, Core.putBlockWord_memWf, Core.memWf]

theorem State.windowWrite_memWf {s : State} (h : s.memWf = true) (w : Window) (o : Nat) (v : Word) :
    (s.windowWrite w o v).memWf = true := by
  unfold State.windowWrite
  grind [moduleWrite_memWf, regionWrite_memWf, reticleWrite_memWf, tileWrite_memWf, coreWrite_memWf, foldl_memWf, State.memWf,
    Core.memWf]

/-! ### Machine/Clock -/

theorem Core.endCycle_memWf {c : Core} (h : c.memWf = true) (arr cycle : Nat) (loom : Word) :
    (c.endCycle arr cycle loom).memWf = true := acctClose_memWf (acctCycle_memWf h ..) ..

theorem Memory.flipBits_wf {m : Memory} (h : m.wf = true) (word : Nat) (flip : BitVec 128) : (m.flipBits word flip).wf = true :=
  write_wf h _ _

theorem State.countDrops_memWf {s : State} (h : s.memWf = true) : s.countDrops.memWf = true := by
  grind [State.countDrops, putRegion_memWf, mapCores_memWf, foldl_memWf, Core.memWf]

theorem State.nextCycle_memWf {s : State} (h : s.memWf = true) : s.nextCycle.memWf = true :=
  countDrops_memWf (mapCores_memWf h fun _ hc => Core.endCycle_memWf hc ..) ..

theorem State.flipWord_memWf {c : Core} (h : c.memWf = true) (word : Nat) (im double : Bool) (flip : BitVec 128) :
    (flipWord word im double flip c).memWf = true := by
  simp only [Core.memWf, Bool.and_eq_true] at h
  unfold flipWord
  extract_lets bad soft ue bad' soft' flip'
  split
  · exact Bool.and_eq_true_iff.mpr h
  · split
    · exact Bool.and_eq_true_iff.mpr ⟨h.1, Memory.flipBits_wf h.2 ..⟩
    · exact Bool.and_eq_true_iff.mpr ⟨Memory.flipBits_wf h.1 .., h.2⟩

theorem State.dropTrace_memWf {s : State} (h : s.memWf = true) (r : Nat) : (s.dropTrace r).memWf = true := by
  grind [State.dropTrace, putRegion_memWf, recordLost_memWf]

theorem State.shuttleHit_memWf {s : State} (h : s.memWf = true) (hit : Nat × Bool × ShuttleHit) :
    (s.shuttleHit hit).memWf = true := by
  grind [State.shuttleHit, putRegion_memWf, linkStops_memWf, linkFails_memWf, cardFails_memWf, logEntry_memWf, dropTrace_memWf]

theorem State.settleHits_memWf {s : State} (h : s.memWf = true) : s.settleHits.memWf = true :=
  foldl_memWf (fun _ _ hs => shuttleHit_memWf hs ..) _ h

theorem State.dropAccesses_memWf {s : State} (h : s.memWf = true) : s.dropAccesses.memWf = true := by
  grind [State.dropAccesses, foldl_memWf, State.memWf]

theorem State.takeInput_memWf {s : State} (h : s.memWf = true) (i : Input) : (s.takeInput i).memWf = true := by
  cases i with
  | localError k word im double flip => exact onCore_memWf h (flipWord_memWf (coreOf_memWf h k) ..)
  | granuleError a flip => exact withMem_memWf h (Memory.write_wf (mem_memWf h) _ _)
  | sumError k hit => exact onCore_memWf_of_eq h fun _ => rfl
  | bistHit k hit =>
    refine onCore_memWf h ?_
    split <;> exact coreOf_memWf h k
  | _ => exact h

theorem State.takeInputs_memWf {s : State} (h : s.memWf = true) : s.takeInputs.memWf = true :=
  dropAccesses_memWf (foldl_memWf (fun _ x hs => takeInput_memWf hs x.2) _ h)

/-! ### Machine/Schedule -/

theorem State.settlePart_memWf {s : State} (h : s.memWf = true) (p : Nat) : (s.settlePart p).memWf = true := by
  grind [State.settlePart, retryEarly_memWf, debugSettle_memWf, onCtx_memWf]

theorem State.timed_memWf {s : State} (h : s.memWf = true) : s.timed.memWf = true := by
  unfold timed
  extract_lets s1 evs
  have h1 : s1.memWf = true := foldl_memWf (fun _ p hs => settlePart_memWf hs p) _ (settleSamples_memWf (settleHits_memWf h))
  exact memWf_congr h1 rfl rfl rfl

theorem State.switched_memWf {s : State} (h : s.memWf = true) : s.switched.memWf = true := h

theorem State.coreStage_memWf {s : State} (h : s.memWf = true) : s.coreStage.memWf = true := by
  grind [State.coreStage, mapCores_memWf, readyCore_memWf, State.memWf]

/-- The state of the late writes performed, while the list of those that stay grows. -/
theorem State.lateFold_memWf {f : State × List LateWrite → Nat × LateWrite → Bool} (xs : List (Nat × LateWrite)) :
    ∀ {st : State × List LateWrite}, st.1.memWf = true →
    (xs.foldl (fun (st : State × List LateWrite) x =>
      if f st x then (st.1.performLate x.2, st.2) else (st.1, x.2 :: st.2)) st).1.memWf = true := by
  induction xs with
  | nil => exact id
  | cons x xs ih =>
    intro st h
    refine ih ?_
    dsimp only
    split
    · exact performLate_memWf h _
    · exact h

theorem State.settleLate_memWf {s : State} (h : s.memWf = true) : s.settleLate.memWf = true := by
  unfold settleLate
  exact lateFold_memWf (f := fun st x => decide (s.pick (2 ^ 19 + x.1) 2 = 1) &&
    !st.2.any (fun w => w.link == x.2.link && w.granule == x.2.granule)) _ h

theorem State.engines_memWf {s : State} (h : s.memWf = true) : s.engines.memWf = true := settleLate_memWf h

theorem State.records_memWf {s : State} (h : s.memWf = true) : s.records.memWf = true := h

theorem State.nextStage_memWf {s : State} (h : s.memWf = true) : s.nextStage.memWf = true := by
  grind [State.nextStage, timed_memWf, switched_memWf, coreStage_memWf, engines_memWf, records_memWf, takeInputs_memWf,
    nextCycle_memWf, State.memWf]

theorem State.advance_memWf : ∀ (fuel : Nat) {s : State}, s.memWf = true → (s.advance fuel).memWf = true
  | 0, _, h => h
  | fuel + 1, _, h => ite_memWf (advance_memWf fuel (nextStage_memWf h)) (nextStage_memWf h)

theorem State.powerUp_memWf {s : State} (h : s.memWf = true) : s.powerUp.memWf = true := by
  unfold powerUp
  split <;> exact h

/-! ### Dispatch, Run and Step -/

namespace State

theorem execCardEnd_memWf {s : State} (h : s.memWf = true) : Out.memWf (execCardEnd s) = true := by
  simp only [execCardEnd, Out.memWf]
  split
  · exact ite_memWf (endCard_memWf (performAt_memWf h ..) _) h
  · exact h

/-- An instruction of a slot keeps canonical memories: its effect does. -/
theorem exec_slot_memWf {s : State} (h : s.memWf = true) {i : Instr} (hi : i.isSlot = true) : Out.memWf (exec i s) = true := by
  delta exec
  cases i with
  | add | sub | and | or | xor | andn | shl | shr | sra | min | max | minn | maxn | mul | mulh | mulhn =>
    exact issue_memWf h _ _ fun _ hv => scalar3_memWf hv ..
  | addsh | movi | movis | vextD | gclkRd => exact issue_memWf h _ _ fun _ hv => putS_memWf hv ..
  | addi | andi | ori | shli | shri | srai => exact issue_memWf h _ _ fun _ hv => scalarImm_memWf hv ..
  | cmp | cmpi | predSet => exact issue_memWf h _ _ fun _ hv => putP_memWf hv ..
  | br | brInd => exact issue_memWf h _ _ fun _ hv => takeBranch_memWf hv ..
  | brL => exact issue_memWf h _ _ fun _ hv => takeBranch_memWf (putS_memWf hv ..) _
  | halt => exact issue_memWf h _ _ fun _ hv => haltEffect_memWf hv ..
  | trap => exact issue_memWf h _ _ fun _ hv => pending_memWf hv ..
  | tret => exact issue_memWf h _ _ fun _ hv => tretEffect_memWf hv ..
  | sysRd => exact issue_memWf h _ _ fun _ hv => sysRdEffect_memWf hv ..
  | sysWr | fmtWr | mmZero | mmCfg | tokClr | loopEc | rotClr => exact issue_memWf h _ _ fun _ hv => actLand_memWf hv ..
  | sysBist => exact issue_memWf h _ _ fun _ hv => bistEffect_memWf hv ..
  | margV => exact issue_memWf h _ _ fun _ hv => margVEffect_memWf hv ..
  | margL => exact issue_memWf h _ _ fun _ hv => margLEffect_memWf hv ..
  | ldI8 | ldN8 | ldI16 | ldN16 | ldI32 | ldN32 | ldI64 | stB | stH | stW | stD | vld | vst | vldx | vstx | vbcastW |
  vgatherW | vgatherH | vscatterW | vscatterH =>
    exact issue_memWf h _ _ fun _ hv => lmAccess_memWf hv ..
  | vaddF32 | vaddF16 | vaddBf16 | vsubF32 | vsubF16 | vsubBf16 | vminF32 | vminF16 | vminBf16 | vmaxF32 | vmaxF16 |
  vmaxBf16 | vminnF32 | vminnF16 | vminnBf16 | vmaxnF32 | vmaxnF16 | vmaxnBf16 | vredF32 | vredF16 | vredBf16 | vmulF32 |
  vmulF16 | vmulBf16 | vfmaF32 | vfmaF16 | vfmaBf16 | vfmsF32 | vfmsF16 | vfmsBf16 =>
    exact issue_memWf h _ _ fun _ hv => putLanes_memWf hv ..
  | vcmpF32 | vcmpF16 | vcmpBf16 | vand | vor | vxor | vsel | vshufB | vshufH | vshufW | vsplatH | vsplatW | vsplatD |
  viredI8 | viredI16 | viredI32 | viredI64 | vclmul | vcvtI32F32 | vcvtF32I32 | vcvtN32F32 | vcvtF32N32 | vrand =>
    exact issue_memWf h _ _ fun _ hv => putV_memWf hv ..
  | viaddI8 | viaddI16 | viaddI32 | viaddI64 | visubI8 | visubI16 | visubI32 | visubI64 | viaddsI8 | viaddsI16 | viaddsI32 |
  viaddsI64 | viaddsN8 | viaddsN16 | viaddsN32 | viaddsN64 | visubsI8 | visubsI16 | visubsI32 | visubsI64 | visubsN8 |
  visubsN16 | visubsN32 | visubsN64 | viminI8 | viminI16 | viminI32 | viminI64 | viminN8 | viminN16 | viminN32 | viminN64 |
  vimaxI8 | vimaxI16 | vimaxI32 | vimaxI64 | vimaxN8 | vimaxN16 | vimaxN32 | vimaxN64 | vshl8 | vshl16 | vshl32 | vshl64 |
  vshr8 | vshr16 | vshr32 | vshr64 | vsra8 | vsra16 | vsra32 | vsra64 =>
    exact issue_memWf h _ _ fun _ hv => vaLanes_memWf hv ..
  | vicmpI8 | vicmpI16 | vicmpI32 | vicmpI64 | vicmpN8 | vicmpN16 | vicmpN32 | vicmpN64 =>
    exact issue_memWf h _ _ fun _ hv => vaCmp_memWf hv ..
  | vcvtF16F32 | vcvtBf16F32 | vcvtF32F16 | vcvtF32Bf16 | vcvtNfF32 | vcvtF32Nf | vcvtsF16F32 | vcvtsBf16F32 | vcvtsNfF32 =>
    exact issue_memWf h _ _ fun _ hv => cvtOut_memWf hv ..
  | vrcpF32 | vrcpF16 | vrcpBf16 | vrsqF32 | vrsqF16 | vrsqBf16 | vexp2F32 | vexp2F16 | vexp2Bf16 | vlog2F32 | vlog2F16 |
  vlog2Bf16 =>
    exact issue_memWf h _ _ fun _ hv => vmSpecial_memWf hv ..
  | mmStart | mmStartLt | mmLdb | mmScl => exact issue_memWf h _ _ fun _ hv => act_memWf hv (mxAccess_memWf (core_memWf hv) ..)
  | mmDrain => exact issue_memWf h _ _ fun _ hv => act_memWf hv (drainEffect_memWf (core_memWf hv) ..)
  | xsend => exact issue_memWf h _ _ fun _ hv => xcClaim_memWf hv ..
  | xrecv | xraddF32 | xraddF16 | xraddBf16 | xraddI32 => exact issue_memWf h _ _ fun _ hv => receive_memWf hv ..
  | phaseEnd => exact issue_memWf h _ _ fun _ hv => phaseEndEffect_memWf hv ..
  | gclkWait => exact issue_memWf h _ _ fun _ hv => gclkWaitEffect_memWf hv ..
  | gclkAln => exact issue_memWf h _ _ fun _ hv => gclkAlnEffect_memWf hv ..
  | cardAdv | cardIssue | fenceErr => exact issue_memWf h _ _ fun _ hv => hv
  | recfl => exact issue_memWf h _ _ fun _ hv => recflEffect_memWf hv ..
  | recflPart => exact issue_memWf h _ _ fun _ hv => recflPartEffect_memWf hv ..
  | semWait => exact issue_memWf h _ _ fun _ hv => semWaitEffect_memWf hv ..
  | lnkSend | lnkRecv | lnkRaddF32 | lnkRaddBf16 | lnkRaddF16 | lnkRaddI32 =>
    exact issue_memWf h _ _ fun _ hv => linkStart_memWf hv ..
  | trig => exact issue_memWf h _ _ fun _ hv => postTrigger_memWf hv ..
  | loopSet | loopSetRot => exact issue_memWf h _ _ fun _ hv => act_memWf hv (loopSetEffect_memWf (core_memWf hv) ..)
  | loopPair => exact issue_memWf h _ _ fun _ hv => act_memWf hv (loopPairEffect_memWf (core_memWf hv) ..)
  | predRegion => exact issue_memWf h _ _ fun _ hv => ite_memWf hv (act_memWf hv (core_memWf hv))
  | predAnd | predOr | predXor | predAndn => exact issue_memWf h _ _ fun _ hv => predLogic_memWf hv ..
  | _ => nomatch hi

/-- An event keeps canonical memories. -/
theorem exec_event_memWf {s : State} (h : s.memWf = true) {i : Instr} (hi : i.isSlot = false) : Out.memWf (exec i s) = true := by
  cases i with
  | bundleIssue | pureDelay => exact issueBundle_memWf (ownCore_memWf h)
  | fetchLine => exact fetchLine_memWf (ownCore_memWf h) ..
  | imemLineReload => exact lineReload_memWf h ..
  | resultLanding => exact ite_memWf (landEvent_memWf (ownCore_memWf h)) (ownCore_memWf h)
  | unitClaim => exact ite_memWf (claimNow_memWf (ownCore_memWf h)) (ownCore_memWf h)
  | trapResume => exact trapResume_memWf (ownCore_memWf h)
  | scrubRead => exact scrubRead_memWf (ownCore_memWf h) ..
  | scrubWriteback => exact act_memWf (ownCore_memWf h) (scrubWriteback_memWf (core_memWf (ownCore_memWf h)) _)
  | releaseHoldEnd => exact releaseHoldEnd_memWf (ownCore_memWf h) ..
  | deckPrefetch => exact deckPrefetch_memWf (ownCore_memWf h)
  | cardGranule => exact cardGranule_memWf h ..
  | tokenWaitEnd | semWaitEnd | gclkWaitEnd => exact proceed_memWf (endHold_memWf (ownCore_memWf h))
  | recflHoldEnd => exact recflHoldEnd_memWf (ownCore_memWf h)
  | fenceErrHoldEnd => exact fenceErrHoldEnd_memWf (ownCore_memWf h)
  | bistEnd => exact bistEnd_memWf (ownCore_memWf h)
  | margVSettled => exact margVSettled_memWf (ownCore_memWf h)
  | margLSweepEnd => exact margLSweepEnd_memWf (ownCore_memWf h)
  | linkPair => exact linkPair_memWf h ..
  | linkEnd => exact linkEnd_memWf h ..
  | routerSwitch => exact routerSwitch_memWf h ..
  | exchangePhaseEnd => exact exchangePhaseEnd_memWf h ..
  | barrierComplete => exact barrierComplete_memWf h ..
  | loomRepair => exact loomRepair_memWf h ..
  | loomSampleRound => exact sampleRound_memWf h ..
  | stragglerEvent => exact straggler_memWf h ..
  | launchStart => exact launchStart_memWf h ..
  | regionStart => exact regionStart_memWf h ..
  | contextLoss => exact contextLoss_memWf h ..
  | tinvRange | tinvContext | tinvAll => exact tinvGo_memWf h ..
  | tinvComplete => exact foldl_memWf (fun _ _ hs => tinvComplete_memWf hs _) _ h
  | tagFreed => exact tagFreed_memWf h ..
  | hbmChannelRetire => exact hbmWrite_memWf h ..
  | hbmRetireComplete => exact hbmRetireEnd_memWf h
  | cxlLinkTrain => exact cxlTrain_memWf h ..
  | cxlPortDown => exact cxlDown_memWf h ..
  | checkpointSave | checkpointRestore => exact ckptWrite_memWf h ..
  | checkpointSaveEnd => exact ckptSaveEnd_memWf h
  | checkpointRestoreEnd => exact ckptRestoreEnd_memWf h
  | ullerLinkDown => exact ullerDown_memWf h ..
  | weftPortDown => exact weftDown_memWf h ..
  | weftLinkTrain => exact weftTrain_memWf h ..
  | wrouteWrite => exact wrouteSet_memWf h ..
  | shuttlePeriodStart => exact periodStart_memWf h ..
  | shmapWrite => exact shmapWrite_memWf h ..
  | shuttleFlitHop => exact flitHop_memWf h
  | heddleTableWrite => exact heddleWrite_memWf h ..
  | migrationEpoch => exact epochEnd_memWf h
  | homeMove => exact homeStart_memWf h ..
  | homeMoveEnd => exact homeFinish_memWf h ..
  | migrateHomeAll => exact migWrite_memWf h ..
  | triggerDelivered => exact deliver_memWf h ..
  | waitClosedStart => exact waitsSettled_memWf h ..
  | launchEnd => exact launchEnd_memWf h ..
  | imageLoad | imageUnload | imageForcedUnload => exact imgWrite_memWf h ..
  | imageLoadEnd => exact imgLoadEnd_memWf h
  | pdefWrite => exact pdefWrite_memWf h ..
  | queueCreate | queueDisable | queueThaw => exact qcfgWrite_memWf h ..
  | qtailWrite => exact qtailSet_memWf h ..
  | queueHeadRead => exact headRead_memWf h ..
  | completionRecordWrite => exact recordWrite_memWf h ..
  | sequencerSelect => exact select_memWf h ..
  | bind => exact bind_memWf h ..
  | quantumExpiry => exact quantumRequest_memWf h ..
  | preemptRequest | killRequest | preemptWithdraw => exact preqWrite_memWf h ..
  | contextSave => exact contextSave_memWf h ..
  | contextSaveEnd => exact contextSaveEnd_memWf h ..
  | restoreEnd => exact restoreEnd_memWf h ..
  | ctxareaWrite => exact ctxareaSet_memWf h ..
  | tstopResume => exact tstopWrite_memWf h ..
  | powerGood => exact powerGood_memWf h
  | b2LinkTest => exact linkTest_memWf h ..
  | b3Election => exact b3_memWf h ..
  | electionRound => exact electionRound_memWf h ..
  | b4Enumeration => exact b4_memWf h ..
  | b5Start => exact b5_memWf h ..
  | lprobe => exact heard_memWf h _ fun r sel bs => lprobe_memWf h ..
  | lecho => exact heard_memWf h _ fun r sel bs => lecho_memWf h ..
  | elect => exact heard_memWf h _ fun r sel bs => elect_memWf h ..
  | enum => exact heard_memWf h _ fun r sel bs => enum_memWf h ..
  | accept => exact heard_memWf h _ fun r sel bs => accept_memWf h _ _
  | refuse => exact heard_memWf h _ fun r sel bs => refuse_memWf h _ _
  | report => exact heard_memWf h _ fun r sel bs => report_memWf h ..
  | lstart => exact heard_memWf h _ fun r sel bs => lstart_memWf h ..
  | done => exact heard_memWf h _ fun r sel bs => done_memWf h _ _
  | enumTimeout => exact enumTimeout_memWf h ..
  | enumerationDeadline => exact deadline_memWf h ..
  | ullerClaimGrant => exact claimGrant_memWf h
  | placementRun => exact placementStart_memWf h ..
  | placementEnd => exact placementDone_memWf h
  | instkeyWrite => exact instkeySet_memWf h ..
  | activityStep => exact activityStep_memWf h ..
  | issueGatePair => exact issueGate_memWf h ..
  | droopAlarm => exact droopAlarm_memWf h ..
  | droopBelowFloor => exact droopFloor_memWf h ..
  | thermalHot => exact thermalHot_memWf h ..
  | thermalCrit => exact thermalCrit_memWf h ..
  | overtempPowerOff | powerLoss => exact loseDown_memWf h
  | powerLimitGate => exact powerGate_memWf h ..
  | rpctlWrite => exact rpctlSet_memWf h ..
  | rthermWrite => exact rthermSet_memWf h ..
  | mstagWrite => exact mstagSet_memWf h ..
  | debugStopRequest => exact debugRequest_memWf h ..
  | debugStopWithdraw => exact debugWithdraw_memWf h ..
  | debugStopFreeze => exact debugFreeze_memWf (ownCore_memWf h)
  | traceSample => exact act_memWf (ownCore_memWf h) (Core.emit_memWf (core_memWf (ownCore_memWf h)) ..)
  | traceRecordWrite => exact traceWrite_memWf h ..
  | trringWrite => exact trringSet_memWf h ..
  | rcRead => exact windowRead_memWf h ..
  | registerWrite => exact windowWrite_memWf h ..
  | ullerLinkTrain => exact ullerTrain_memWf h ..
  | homeAccess => exact homeUse_memWf h ..
  | managementWindowWrite => exact coreWrite_memWf h ..
  | cardEnd => exact execCardEnd_memWf h
  | _ => nomatch hi

theorem exec_memWf {s : State} (h : s.memWf = true) (i : Instr) : Out.memWf (exec i s) = true := by
  cases hi : i.isSlot with
  | true => exact exec_slot_memWf h hi
  | false => exact exec_event_memWf h hi

theorem runNext_memWf {s : State} (h : s.memWf = true) : Out.memWf s.runNext = true := by
  unfold runNext
  split
  · exact h
  · next rest _ => exact exec_memWf (s := { s with agenda := rest, arg := _ }) (memWf_congr h rfl rfl rfl) _

theorem runSlots_memWf : ∀ (fuel : Nat) {o : Out}, Out.memWf o = true → Out.memWf (runSlots fuel o) = true
  | 0, _, h => h
  | fuel + 1, .next s, h => by
    unfold runSlots
    split
    · exact runSlots_memWf fuel (runNext_memWf h)
    · exact h
  | _ + 1, .fault _, _ => rfl
  | _ + 1, .refused _, _ => rfl

theorem runStep_memWf {s : State} (h : s.memWf = true) : Out.memWf s.runStep = true := by
  unfold runStep
  split
  · exact runSlots_memWf 8 (runNext_memWf h)
  · split
    · exact advance_memWf 5 h
    · split
      · rfl
      · exact powerUp_memWf h

end State

/-- Settles O60: every operation that a step can run keeps the memories canonical, from the writes of one core up to `exec`, and so
do the stages that pass when nothing is due. -/
theorem stepKeepsMemoryCanonical : Obligations.StepKeepsMemoryCanonical := by
  unfold Obligations.StepKeepsMemoryCanonical
  intro s t h ht
  have hs : Out.memWf (step s) = true := State.runStep_memWf h
  rwa [ht] at hs

end Sys2Proof.Machine
end

section
/-! Self-tests: how each holds the core, and the grant that they need. -/

namespace Sys2Proof.Machine
open Sys2Proof

/-- The acting core is held from the cycle after issue, for an even number of cycles of at least 2, and is otherwise as in `s`. -/
def State.testHeld (s t : State) (k : HoldKind) : Prop :=
  ∃ h : Hold, t.core.ctl.hold = some h ∧ h.kind = k ∧ h.since = s.cycle + 1 ∧
    ∃ m, h.till = s.cycle + 1 + 2 * m ∧ 1 ≤ m ∧ t.core = { s.core with ctl := { s.core.ctl with hold := some h } }

theorem State.holdFree_testHeld (s : State) (k : HoldKind) (n : Nat) : s.testHeld (s.holdFree k n) k := by
  have even : roundEven (2 + 2 * s.free (n / 2)) = 2 * (1 + s.free (n / 2)) := by unfold roundEven; omega
  refine ⟨_, rfl, rfl, rfl, 1 + s.free (n / 2), ?_, Nat.le_add_right _ _, rfl⟩
  rw [← even]
  rfl

/-- Without the grant, an instruction whose own refusal is code 1 is refused with it, whatever other cores ask for (rule R259). -/
theorem State.testRefusal_of_ungranted {s : State} {i : Instr} (h : s.ownRefusal i = some 1) : s.testRefusal i = some 1 := by
  simp [testRefusal, h]

/-- Settles O8: each effect is one hold of a free even length, and code 1 comes before every other reason for a refusal. -/
theorem selfTestsComplete : Obligations.SelfTestsComplete := by
  unfold Obligations.SelfTestsComplete
  refine ⟨fun s o h => ⟨?_, ?_, ?_⟩, fun s o z hg => ⟨?_, ?_, ?_, ?_, fun i x hx hr ht => ?_⟩⟩
  · exact ⟨bistEffect o s, issue_bundle _ _ _ _ h, s.holdFree_testHeld _ _, rfl, rfl, rfl⟩
  · have hlt : bits (s.core.rs o.a) 3 0 < 16 := bits_lt _ _ _
    refine ⟨margVEffect o s, issue_bundle _ _ _ _ h, (s.putRegion _ _).holdFree_testHeld _ _, ?_, fun r hne => ?_, rfl, rfl⟩
    · exact congrArg Region.voff (State.region_putRegion s _ _ hlt)
    · exact State.region_putRegion_ne s _ _ _ hne.symm
  · exact ⟨margLEffect o s, issue_bundle _ _ _ _ h, s.holdFree_testHeld _ _, rfl, rfl, rfl⟩
  · exact State.testRefusal_of_ungranted (by simp [State.ownRefusal, State.bistRefusal, hg])
  · exact State.testRefusal_of_ungranted (by simp [State.ownRefusal, State.margVRefusal, hg])
  · exact State.testRefusal_of_ungranted (by simp [State.ownRefusal, State.margLRefusal, hg])
  · exact State.testRefusal_of_ungranted (by simp [State.ownRefusal, hg])
  · exact ⟨s.core.cause 0x08 1 x.slot.num 0, by simp [State.testCause, hx, hr, ht], rfl, rfl, rfl, rfl⟩

end Sys2Proof.Machine
end

section
/-! A core that goes on within the cycle, and the trap of an error fence. -/

namespace Sys2Proof.Machine
open Sys2Proof

/-! ### A core that goes on within the cycle -/

theorem Core.acctStop_frame (c : Core) : c.acctStop = { c with aux := c.acctStop.aux } := by
  unfold acctStop acctFlush
  split
  · rfl
  · dsimp only
    split
    · rw [(emit_frame ..).1]
    · rfl

/-- `d` is the core `c` as it goes on: nothing holds it, and of the rest only accounting and the mode, wake-up and activity of its
control state may differ. -/
def Core.goesOn (c d : Core) : Prop :=
  d.ctl.hold = none ∧ d.ctl.pc = c.ctl.pc ∧ d.ctl.lands = c.ctl.lands ∧ d.ctl.claims = c.ctl.claims ∧ d.ctl.cc = c.ctl.cc ∧
    d.reg = c.reg ∧ d.mem = c.mem ∧ d.trap = c.trap ∧ d.sys = c.sys

/-- The core without its hold. -/
def Core.unheld (c : Core) : Core := { c with ctl := { c.ctl with hold := none } }

theorem Core.skipEnds_unheld (c : Core) : ∀ (k : Nat) (a : CodeAddr), c.unheld.skipEnds k a = c.skipEnds k a
  | 0, _ => rfl
  | k + 1, a => by
    rw [skipEnds, skipEnds, skipEnds_unheld c k]
    rfl

/-- What comes due does not depend on the hold. -/
theorem Core.delayDue_unheld (c : Core) : c.unheld.delayDue = c.delayDue := by
  have hl : c.unheld.locate = c.locate := funext (c.skipEnds_unheld 4096)
  rw [delayDue, delayDue, hl]
  rfl

namespace State

theorem delayedHold_of_free (s : State) {c : Core} (h : c.ctl.hold = none) : s.delayedHold c = none := by
  rw [delayedHold, h, Option.map_none]

theorem readyCore_goesOn (s : State) {c : Core} (h : c.ctl.hold = none) : c.goesOn (s.readyCore c) := by
  unfold readyCore
  split
  · split
    · dsimp only
      rw [Core.acctStop_frame]
      exact ⟨h, rfl, rfl, rfl, rfl, rfl, rfl, rfl, rfl⟩
    · exact ⟨s.delayedHold_of_free h, rfl, rfl, rfl, rfl, rfl, rfl, rfl, rfl⟩
  · exact ⟨h, rfl, rfl, rfl, rfl, rfl, rfl, rfl, rfl⟩
  · exact ⟨h, rfl, rfl, rfl, rfl, rfl, rfl, rfl, rfl⟩

theorem endHold_proceed_goesOn (s : State) : s.core.goesOn s.endHold.proceed.core :=
  s.endHold.readyCore_goesOn (c := s.core.unheld) rfl

/-- A core that nothing holds, delays or stops comes to its bundle. -/
theorem coreEvents_of_due {s : State} {c : Core} (hm : c.ctl.mode = .running) (ha : s.awake c = true)
    (hs : s.coreStopped c.idx = false) (hd : s.coreDebug c.idx = false) (hh : c.ctl.hold = none) (hr : c.trap.returning = false)
    (hi : c.ctl.idle = 0) (hp : c.delayDue = false) :
    s.coreEvents c = (.bundleIssue, coreArg c.idx) :: flightEvents c false := by
  simp [coreEvents, hm, ha, freezesNow, debugNow, hs, hd, hh, hr, hi, hp]

/-- The ends of a token, semaphore or loom-count wait (rules R34, R125, R133, R311). -/
theorem exec_waitEnd {s : State} {i : Instr} (hi : i = .tokenWaitEnd ∨ i = .semWaitEnd ∨ i = .gclkWaitEnd) :
    exec i s = .next s.ownCore.endHold.proceed := by
  rcases hi with rfl | rfl | rfl <;> rfl

/-! ### The trap of an error fence -/

end State

namespace Core

/-- `d` is the core `c` with the cause registers that an entry of cause `k` leaves (rules R127, R355, R356). -/
def causeTaken (k : Cause) (c d : Core) : Prop :=
  (∃ i f b, d.trap.tcause = tcauseWord i f b k) ∧ d.trap.tinfo = (if k.code = 0x0B then c.sys.carderr else k.info) ∧
    d.sys.carderr = if k.code = 0x0B then cardErrClear c.sys.carderr else c.sys.carderr

theorem writeCause_causeTaken (c : Core) (k : Cause) (pt : TrapPoint) (defer double : Bool) :
    causeTaken k c (c.writeCause k pt defer double) := by
  obtain ⟨-, -, -, -, hcause, -, hinfo, -, -, -, -, -, -, -, -, -, -, herr⟩ := c.writeCause_spec k pt defer double
  exact ⟨⟨_, _, _, hcause⟩, hinfo, herr⟩

theorem enterTrap_causeTaken (c : Core) (cycle : Nat) (stopped : Bool) (k : Cause) (pt : TrapPoint) :
    causeTaken k c (c.enterTrap cycle stopped k pt).1 := by
  have h := writeCause_causeTaken c k pt (c.inTrap || stopped || !c.trap.tvec.getLsbD 63) c.inTrap
  unfold enterTrap
  dsimp only
  split <;> exact h

end Core

namespace State

theorem stopFor_core (s : State) (k : Nat) : (s.stopFor k).core = s.core := by
  unfold stopFor
  split <;> rfl

theorem trapAt_causeTaken (s : State) (k : Cause) (pt : TrapPoint) : Core.causeTaken k s.core (s.trapAt k pt).core := by
  unfold trapAt
  extract_lets still
  have h := s.core.enterTrap_causeTaken pt.taken still k pt
  dsimp only
  split
  · rw [stopFor_core]
    exact h
  · exact h

theorem cardErrClear_cleared (w : Word) : (cardErrClear w).getLsbD 63 = false ∧ bits (cardErrClear w) 15 0 = 0 := by
  unfold cardErrClear
  exact ⟨by rw [getLsbD_setBits _ _ _ _ _ (by decide), getLsbD_setBits _ _ _ _ _ (by decide)]; rfl, bits_setBits _ _ _ _ (by decide)⟩

theorem fenceErrHoldEnd_of_clear {s : State} (h : s.landNow.core.sys.carderr.getLsbD 63 = false) :
    fenceErrHoldEnd s = (s.act (fun c => { c with ctl := { c.ctl with passed := true } })).issueHeld := by
  simp only [fenceErrHoldEnd, fenceReady, h, Bool.false_eq_true, if_false]

theorem fenceErrHoldEnd_of_error {s : State} (h : s.landNow.core.sys.carderr.getLsbD 63 = true) :
    fenceErrHoldEnd s = s.trapBefore
      (s.landNow.core.cause 0x0B (bits s.landNow.core.sys.carderr 59 56) 6 s.landNow.core.sys.carderr) := by
  simp only [fenceErrHoldEnd, fenceReady, h, if_true]
  rfl

end State
end Sys2Proof.Machine
end

section
/-! Releases at the end of their hold: what a translation, a settled release and a landing keep. -/

namespace Sys2Proof.Machine
open Sys2Proof

/-! ### What landings leave of off-wafer memory and of the control state -/

namespace State

/-- Off-wafer memory and the writes on their way to it are as they were. -/
def lateKept (s t : State) : Prop := t.mem = s.mem ∧ t.late = s.late

theorem lateKept_refl (s : State) : s.lateKept s := ⟨rfl, rfl⟩

theorem ite_lateKept {p : Prop} [Decidable p] {s t u : State} (ht : s.lateKept t) (hu : s.lateKept u) :
    s.lateKept (if p then t else u) := by split; exacts [ht, hu]

theorem logEntry_lateKept {s t : State} (h : s.lateKept t) (l w : Word) : s.lateKept (t.logEntry l w) :=
  ⟨(logEntry_mem ..).trans h.1, (logEntry_late ..).trans h.2⟩

theorem notes_lateKept {s t : State} (h : s.lateKept t) (k : Nat) (ns : List Note) : s.lateKept (t.notes k ns) := by
  rw [notes_frame]
  exact h

theorem onCore_lateKept {s t : State} (h : s.lateKept t) (k : Nat) (f : Core → Core) : s.lateKept (t.onCore k f) := by
  unfold onCore putCore
  split <;> exact h

theorem notes_core (s : State) (k : Nat) (ns : List Note) : (s.notes k ns).core = s.core := (notes_coresKept s k ns).1

theorem landNow_lateKept (s : State) : s.lateKept s.landNow :=
  List.foldlRecOn (motive := s.lateKept) _ _ (s.lateKept_refl)
    fun _ h _ _ => notes_lateKept (onCore_lateKept h _ _) _ _

theorem landNow_pc (s : State) : s.landNow.core.ctl.pc = s.core.ctl.pc := by
  refine List.foldlRecOn (motive := fun t : State => t.core.ctl.pc = s.core.ctl.pc) _ _ ?_ fun t h e _ => ?_
  · obtain ⟨-, -, -, hctl⟩ := s.core.landDue_landed s.loom.toNat
    rw [act_core, hctl]
  · rw [residueError, notes_core, onCore_self _ _ rfl]
    exact h

/-! ### What a translation keeps -/

theorem markFor_lateKept {s t : State} (h : s.lateKept t) (dpa : Nat) : s.lateKept (t.markFor dpa) := by
  unfold markFor
  split <;> exact h

theorem translateFill_lateKept {s t : State} (h : s.lateKept t) (va : Nat) (need : Nat → Nat) (pins : Nat) :
    s.lateKept (t.translateFill va need pins).1 := by
  unfold translateFill
  split
  · exact ite_lateKept (markFor_lateKept (logEntry_lateKept h _ _) _) h
  · split
    · exact h
    · extract_lets u
      have hu : s.lateKept u := ite_lateKept h h
      split
      · next hf =>
        obtain ⟨_, -, hv⟩ := Option.map_eq_some_iff.mp hf
        rw [← congrArg Prod.fst hv]
        exact hu
      · exact hu

end State

/-! ### Steps of a release's preparation -/

theorem Try.upTo_bind {α β : Type} (x : Try α) (f : α → Try β) (p : Prep) :
    (x >>= f).upTo p = match x.upTo p with | (.ok a, q) => (f a).upTo q | (.error e, q) => (.error e, q) := by
  show (let (a, q) := x p; ExceptT.bindCont f a q) = _
  unfold upTo ExceptT.run
  rcases x p with ⟨a | a, q⟩ <;> rfl

/-- A step of a release's preparation leaves a property of the state true, whether it goes on or fails. -/
def Try.Leaves {α : Type} (P : State → Prop) (x : Try α) : Prop := ∀ p : Prep, P p.s → P (x.upTo p).2.s

section
variable {P : State → Prop}

theorem Try.leaves_pure {α : Type} (a : α) : (pure a : Try α).Leaves P := fun _ h => h

theorem Try.leaves_throw {α : Type} (r : Refuse) : (throw r : Try α).Leaves P := fun _ h => h

theorem Try.leaves_spend (f : Cost → Cost) : (spend f).Leaves P := fun _ h => h

theorem Try.leaves_setState {s : State} (h : P s) : (setState s).Leaves P := fun _ _ => h

theorem Try.leaves_bind {α β : Type} {x : Try α} {f : α → Try β} (hx : x.Leaves P) (hf : ∀ a, (f a).Leaves P) :
    (x >>= f).Leaves P := by
  intro p h
  have hp := hx p h
  rw [upTo_bind]
  generalize x.upTo p = r at hp
  obtain ⟨a | a, q⟩ := r
  · exact hp
  · exact hf a q hp

/-- What a step reads of the preparation has the property. -/
theorem Try.leaves_get {β : Type} {f : Prep → Try β} (hf : ∀ p : Prep, P p.s → (f p).Leaves P) : (get >>= f : Try β).Leaves P :=
  fun p h => hf p h p h

/-- What every translation leaves true, the look-up of a card's pages leaves true. -/
theorem cardPages_leaves (ht : ∀ s va need pins, P s → P (State.translateFill s va need pins).1) (x : Pull)
    (ts : List (Nat × Nat × Nat)) (known : List PageOf) :
    ∀ (fuel cur : Nat) (ps : List PageOf), (cardPages x ts known fuel cur ps).Leaves P
  | 0, _, _ => Try.leaves_pure _
  | fuel + 1, cur, ps => by
    have ih := cardPages_leaves ht x ts known fuel
    unfold cardPages
    refine Try.leaves_get fun p hp => ?_
    extract_lets s
    split
    · exact Try.leaves_pure _
    · split
      · exact ih _ _
      · split
        · exact Try.leaves_throw _
        · refine Try.leaves_bind (Try.leaves_setState (ht _ _ _ _ hp)) fun _ => Try.leaves_bind (Try.leaves_spend _) fun _ => ?_
          split
          · exact Try.leaves_throw _
          · exact Try.leaves_pure _
          · exact ih _ _

theorem releasePages_leaves (ht : ∀ s va need pins, P s → P (State.translateFill s va need pins).1) (known : List PageOf) :
    ∀ (xs : List Pull) (ps : List PageOf), (releasePages known xs ps).Leaves P
  | [], _ => Try.leaves_pure _
  | x :: xs, ps => by
    unfold releasePages
    refine Try.leaves_bind (cardPages_leaves ht _ _ _ _ _ _) fun r => ?_
    dsimp only
    split
    · exact Try.leaves_pure _
    · exact releasePages_leaves ht known xs _

end

/-! ### What a settled release keeps -/

theorem planOn_lateKept {s v : State} (h : s.lateKept v) (plan : ReleasePlan) : s.lateKept (planOn v plan).2.s := by
  have hp := releasePages_leaves (P := s.lateKept) (fun _ _ _ _ h => State.translateFill_lateKept h _ _ _) plan.pages plan.pulls []
    { s := v, cost := { plan.cost with walks := 0, deck := 0, recs := 0 } } h
  unfold planOn
  split <;> (next he => rwa [he] at hp)

theorem State.pinBlocks_lateKept {s t : State} (h : s.lateKept t) (cards : List Card) (ps : List PageOf) :
    s.lateKept (t.pinBlocks cards ps) := by
  unfold pinBlocks
  extract_lets nm hit
  split
  · exact h
  · exact List.foldlRecOn (motive := s.lateKept) _ _ h fun _ h _ _ => h

theorem State.watched_lateKept {s t : State} (h : s.lateKept t) (slot : Nat) (hit : Option (Nat × Nat)) :
    s.lateKept (t.watched slot hit) := by
  unfold watched
  split <;> exact h

theorem effectRelease_lateKept {s v : State} (h : s.lateKept v) (p : ReleasePlan) : s.lateKept (effectRelease v p) := by
  unfold effectRelease
  extract_lets xs cards s1 s2 pts s3 s4 ranges
  have h1 : s.lateKept { s1 with cards := s1.cards ++ cards, nextId := s1.nextId + 80 } := h
  have h2 : s.lateKept s2 := State.pinBlocks_lateKept h1 _ _
  have h3 : s.lateKept s3 := h2
  have h4 : s.lateKept s4 := State.ite_lateKept (t := s3.act _) h3 h3
  exact State.watched_lateKept h4 _ _

/-- The state that a release still waiting or made leaves keeps off-wafer memory and the writes on their way. -/
def Settled.lateKept (s : State) : Settled → Prop
  | .refused _ => True
  | .wait _ _ w => s.lateKept w
  | .released w => s.lateKept w

theorem settlePlan_lateKept {s v : State} (h : s.lateKept v) (p : ReleasePlan) : (settlePlan v p).lateKept s := by
  unfold settlePlan
  extract_lets inFlight
  split
  · exact h
  · split
    · exact trivial
    · exact trivial
    · exact effectRelease_lateKept h p

theorem settleRelease_lateKept {s v : State} (h : s.lateKept v) (p : ReleasePlan) : (settleRelease v p).lateKept s := by
  have hr := planOn_lateKept h p
  unfold settleRelease
  split
  · exact settlePlan_lateKept h p
  · dsimp only
    split
    · exact hr
    · split
      · exact hr
      · exact settlePlan_lateKept hr _

namespace State

/-- A preparation that has performed no late write hands on no signature. -/
theorem signTaken_of_late {w s : State} (h : w.late = s.late) : w.signTaken s = s := by
  unfold signTaken
  rw [List.filter_eq_nil_iff.mpr, List.foldl_nil]
  intro x hx
  rw [h, List.any_eq_true.mpr ⟨x, hx, by simp⟩]
  decide

/-- The core as a preparation's fetches leave it (rule R31). -/
theorem carry_of_late {w s : State} (h : w.late = s.late) :
    (w.carry s).core.idx = s.core.idx ∧ (w.carry s).core.reg = s.core.reg ∧ (w.carry s).core.ctl = s.core.ctl ∧
      (w.carry s).core.mem = s.core.mem ∧ (w.carry s).cards = s.cards := by
  unfold carry
  rw [signTaken_of_late h]
  exact ⟨rfl, rfl, rfl, rfl, rfl⟩

theorem releaseHoldEnd_of_released {s w : State} {p : ReleasePlan} (hp : heldPlan s.core = some p)
    (h : settleRelease s.landNow p = .released w) : releaseHoldEnd s false = releaseMade s w := by
  unfold releaseHoldEnd
  rw [hp]
  simp [h]

theorem releaseHoldEnd_of_wait {s w : State} {p q : ReleasePlan} {n : Nat} (hp : heldPlan s.core = some p)
    (h : settleRelease s.landNow p = .wait n q w) :
    releaseHoldEnd s false = (w.carry s).act (fun c => { c with ctl := { c.ctl with
      hold := c.ctl.hold.map (fun h =>
        { h with kind := .release q, since := if h.late then s.cycle else h.since, till := s.cycle + n, late := false }) } }) := by
  unfold releaseHoldEnd
  rw [hp]
  simp [h]

/-- The regions of the acting core's partition, or its own where it has none. -/
def ownRegions (s : State) : List Nat :=
  match s.partOf s.core.idx with | some p => s.partRegions p | none => [regionOf s.core.idx]

/-- The entry of a handle goes from every engine of the acting core's partition (rule R112). -/
def flushed (s : State) (x : Nat) : State :=
  { s with blocks := s.blocks.map (fun (b : Block) =>
      if s.ownRegions.contains (regionOf (64 * b.idx)) then dropRecord s.tag x b else b) }

theorem recflHoldEnd_of_hold {s : State} {h : Hold} {x : Nat} (hh : s.core.ctl.hold = some h) (hk : h.kind = .recfl x) :
    recflHoldEnd s = proceedAfter (s.flushed x).endHold := by
  unfold recflHoldEnd
  rw [hh]
  simp only [hk]
  rfl

end State

theorem mem_dropRecord (tag x : Nat) (b : Block) (e : RecEntry) :
    e ∈ (dropRecord tag x b).recs ↔ e ∈ b.recs ∧ ¬ (e.tag = tag ∧ e.handle = x) := by
  simp [dropRecord, imp_iff_not_or]

end Sys2Proof.Machine
end

section
/-! The ends of holds. -/

namespace Sys2Proof.Machine
open Sys2Proof

namespace State

theorem ownCore_cycle (s : State) : s.ownCore.cycle = s.cycle := by
  unfold ownCore focus
  split <;> rfl

/-- A release that can be made at the end of its hold (rules R31, R35, R122, R313). -/
theorem releaseHoldEnd_released_spec {v w : State} {p : ReleasePlan} (hp : heldPlan v.core = some p)
    (hw : settleRelease v.landNow p = .released w) :
    ∃ t, releaseHoldEnd v false = t ∧ t.cards = w.cards ∧ t.nextId = w.nextId ∧
      t.core.reg.tok = w.core.reg.tok ∧ t.core.reg = { v.core.reg with tok := w.core.reg.tok } ∧
      t.core.sys.cardpos0 = w.core.sys.cardpos0 ∧ t.core.sys.cardpos1 = w.core.sys.cardpos1 ∧
      t.core.ctl.passed = true ∧ t.core.ctl.hold = none ∧ t.core.ctl.pc = v.core.ctl.pc ∧
      (t.agenda.head? = some (.bundleIssue, coreArg v.core.idx)) ∧ t.core.mem = v.core.mem ∧ t.mem = v.mem := by
  have hkept := settleRelease_lateKept v.landNow_lateKept p
  rw [hw] at hkept
  obtain ⟨hmem, hlate⟩ := hkept
  obtain ⟨hidx, hreg, hctl, hcmem, -⟩ := carry_of_late hlate
  refine ⟨_, releaseHoldEnd_of_released hp hw, rfl, rfl, rfl, ?_, rfl, rfl, rfl, rfl, ?_, ?_, ?_, hmem⟩
  · exact congrArg (fun r : Regs => { r with tok := w.core.reg.tok }) hreg
  · exact (congrArg Ctl.pc hctl :)
  · exact congrArg (fun k => some (Instr.bundleIssue, coreArg k)) hidx
  · exact hcmem

/-- A release that still finds no room (rules R37, R38, R96, R134). -/
theorem releaseHoldEnd_wait_spec {v w : State} {p q : ReleasePlan} {n : Nat} {h : Hold} (hh : v.core.ctl.hold = some h)
    (hk : h.kind = .release p) (hw : settleRelease v.landNow p = .wait n q w) :
    ∃ t, releaseHoldEnd v false = t ∧
      t.core.ctl = { v.core.ctl with hold := some { h with
        kind := .release q, since := if h.late then v.cycle else h.since, till := v.cycle + n, late := false } } ∧
      t.core.reg = v.core.reg ∧ t.core.mem = v.core.mem ∧ t.mem = v.mem ∧ t.cards = v.cards := by
  have hp : heldPlan v.core = some p := by simp only [heldPlan, hh, hk]
  have hkept := settleRelease_lateKept v.landNow_lateKept p
  rw [hw] at hkept
  obtain ⟨hmem, hlate⟩ := hkept
  obtain ⟨-, hreg, hctl, hcmem, hcards⟩ := carry_of_late hlate
  refine ⟨_, releaseHoldEnd_of_wait hp hw, ?_, hreg, hcmem, hmem, hcards⟩
  simp only [act_core, hctl, hh, Option.map_some]

/-- A partition-scope RECFL whose hold ends (rule R112). -/
theorem recflHoldEnd_spec {v : State} {h : Hold} {x : Nat} (hh : v.core.ctl.hold = some h) (hk : h.kind = .recfl x) :
    ∃ t, recflHoldEnd v = t ∧ t.core.ctl.hold = none ∧ t.core.reg = v.core.reg ∧ t.mem = v.mem ∧
      t.blocks.map (·.idx) = v.blocks.map (·.idx) ∧
      ∀ b ∈ t.blocks, ∃ b' ∈ v.blocks, b'.idx = b.idx ∧
        (v.ownRegions.contains (regionOf (64 * b.idx)) = true →
          ∀ e, e ∈ b.recs ↔ e ∈ b'.recs ∧ ¬ (e.tag = v.tag ∧ e.handle = x)) ∧
        (v.ownRegions.contains (regionOf (64 * b.idx)) = false → b = b') := by
  refine ⟨_, recflHoldEnd_of_hold hh hk, ?_⟩
  obtain ⟨hhold, -, -, -, -, hreg, -⟩ := (v.flushed x).endHold.readyCore_goesOn (c := v.core.unheld) rfl
  refine ⟨hhold, hreg, rfl, ?_, fun b hb => ?_⟩
  · show (v.blocks.map _).map _ = _
    rw [List.map_map]
    exact List.map_congr_left fun b _ => by dsimp only [Function.comp]; split <;> rfl
  · obtain ⟨b', hb', rfl⟩ := List.mem_map.mp hb
    refine ⟨b', hb', ?_⟩
    cases hc : v.ownRegions.contains (regionOf (64 * b'.idx)) with
    | true =>
      rw [if_pos rfl]
      exact ⟨rfl, fun _ e => mem_dropRecord .., fun hf => absurd (hc.symm.trans hf) (by decide)⟩
    | false =>
      rw [if_neg (by decide)]
      exact ⟨rfl, fun ht => absurd (hc.symm.trans ht) (by decide), fun _ => rfl⟩

/-- An error fence that finds a recorded error (rules R127, R319). -/
theorem fenceErrHoldEnd_error_spec {v : State} (he : v.landNow.core.sys.carderr.getLsbD 63 = true) :
    ∃ t, fenceErrHoldEnd v = t ∧ bits t.core.trap.tcause 7 0 = 0x0B ∧
      bits t.core.trap.tcause 49 32 = v.core.ctl.pc.toNat ∧
      (v.core.inTrap = false → t.core.trap.tinfo = v.core.sys.carderr ∧ t.core.sys.carderr.getLsbD 63 = false ∧
        bits t.core.sys.carderr 15 0 = 0) := by
  refine ⟨_, fenceErrHoldEnd_of_error he, ?_⟩
  let k := v.landNow.core.cause 0x0B (bits v.landNow.core.sys.carderr 59 56) 6 v.landNow.core.sys.carderr
  obtain ⟨⟨i, f, b, hcause⟩, hinfo, herr⟩ := v.trapAt_causeTaken k v.beforeIssue
  have hsub : k.sub < 2 ^ 13 := Nat.lt_of_lt_of_le (bits_lt _ 59 56) (by decide)
  obtain ⟨-, -, -, hcode, -, -, -, hcba⟩ := tcauseWord_fields i f b k (show 0x0B < 256 by decide) hsub (show 6 < 16 by decide)
  rw [← hcause] at hcode hcba
  obtain ⟨hclear, hcount⟩ := cardErrClear_cleared v.core.sys.carderr
  refine ⟨hcode, hcba.trans (congrArg BitVec.toNat v.landNow_pc), fun _ => ⟨hinfo, ?_, ?_⟩⟩
  · exact (congrArg (BitVec.getLsbD · 63) herr).trans hclear
  · exact (congrArg (bits · 15 0) herr).trans hcount

end State

/-- Settles O34: a wait's end frees the core, a release's end makes or keeps its plan, and a flush or fence ends on its handle or
recorded error. -/
theorem waitEndsComplete : Obligations.WaitEndsComplete := by
  unfold Obligations.WaitEndsComplete
  refine ⟨fun s i hi => ?_, fun s w p hn hp hw => ?_, fun s w p q n h hn hh hk hw => ?_,
    fun s h x => ⟨fun hh hk => ?_, fun he => ?_, fun he => ?_⟩⟩
  · intro v
    obtain ⟨hhold, hpc, hlands, hclaims, hcc, hreg, hmem, htrap, hsys⟩ := v.endHold_proceed_goesOn
    refine ⟨v.endHold.proceed, State.exec_waitEnd hi, hhold, hpc, hlands, hclaims, hcc, hreg, hmem, htrap, hsys, rfl, rfl, rfl,
      s.ownCore_cycle, fun hm ha hs hd hr hi hp => ⟨State.flightEvents v.core.unheld false, ?_⟩⟩
    have hdue : v.core.unheld.delayDue = false := v.core.delayDue_unheld.trans hp
    exact congrArg (· ++ v.agenda) (State.coreEvents_of_due (s := v.endHold) (c := v.core.unheld) hm ha hs hd rfl hr hi hdue)
  · obtain ⟨t, ht, hspec⟩ := State.releaseHoldEnd_released_spec hp hw
    exact ⟨t, by rw [← ht, ← beq_false_of_ne hn]; rfl, hspec⟩
  · obtain ⟨t, ht, hspec⟩ := State.releaseHoldEnd_wait_spec hh hk hw
    rw [State.ownCore_cycle] at hspec
    exact ⟨t, by rw [← ht, ← beq_false_of_ne hn]; rfl, hspec⟩
  · obtain ⟨t, ht, hspec⟩ := State.recflHoldEnd_spec hh hk
    exact ⟨t, congrArg Host.Outcome.next ht, hspec⟩
  · exact ⟨_, congrArg Host.Outcome.next (State.fenceErrHoldEnd_of_clear he), rfl, rfl, rfl, rfl, rfl⟩
  · obtain ⟨t, ht, hspec⟩ := State.fenceErrHoldEnd_error_spec he
    exact ⟨t, congrArg Host.Outcome.next ht, hspec⟩

end Sys2Proof.Machine
end

section
/-! Invalidation in one reticle: what it does there, and that every other reticle stays as it was. -/

namespace Sys2Proof.Machine
open Sys2Proof

/-! ### Translation entries of one core -/

/-- `d` is the core `c` after an invalidation of the entries that `hit` names: of those only dying entries in use are left, and the
others stay (rules R38, R42). -/
def Core.invalidated (hit : TlbEntry → Bool) (c d : Core) : Prop :=
  (∀ e ∈ d.aux.tlb, hit e = true → e.dying = true ∧ (e.count ≠ 0 ∨ e.pins ≠ 0)) ∧
    ∀ e ∈ c.aux.tlb, (hit e = false → e ∈ d.aux.tlb) ∧
      (hit e = true → e.count ≠ 0 ∨ e.pins ≠ 0 → { e with dying := true } ∈ d.aux.tlb)

theorem mem_invalidateTlb (hit : TlbEntry → Bool) (c : Core) (e : TlbEntry) : e ∈ (invalidateTlb hit c).aux.tlb ↔
    ∃ d ∈ c.aux.tlb, (hit d = false ∧ d = e) ∨
      (hit d = true ∧ (d.count ≠ 0 ∨ d.pins ≠ 0) ∧ { d with dying := true } = e) := by
  unfold invalidateTlb
  rw [List.mem_filterMap]
  refine exists_congr fun d => and_congr_right fun _ => ?_
  have hused : (d.count ≠ 0 ∨ d.pins ≠ 0) ↔ ¬ (d.count = 0 ∧ d.pins = 0) := not_and_or.symm
  rw [hused]
  cases hit d with
  | false => simp
  | true => by_cases hu : d.count = 0 ∧ d.pins = 0 <;> simp [hu]

theorem invalidateTlb_invalidated (hit : TlbEntry → Bool) (c : Core) : c.invalidated hit (invalidateTlb hit c) := by
  refine ⟨fun e he h => ?_, fun e he => ⟨fun h => ?_, fun h hu => ?_⟩⟩
  · obtain ⟨d, -, ⟨hn, rfl⟩ | ⟨-, hu, rfl⟩⟩ := (mem_invalidateTlb hit c e).mp he
    · exact absurd (h.symm.trans hn) (by decide)
    · exact ⟨rfl, hu⟩
  · exact (mem_invalidateTlb hit c e).mpr ⟨e, he, .inl ⟨h, rfl⟩⟩
  · exact (mem_invalidateTlb hit c _).mpr ⟨e, he, .inr ⟨h, hu, rfl⟩⟩

/-- An invalidation in the cores of one reticle. -/
def invalidateAt (r : Nat) (hit : TlbEntry → Bool) (c : Core) : Core :=
  if reticleOf c.idx = r then invalidateTlb hit c else c

theorem invalidateAt_idx (r : Nat) (hit : TlbEntry → Bool) (c : Core) : (invalidateAt r hit c).idx = c.idx := by
  unfold invalidateAt
  split <;> rfl

theorem invalidateAt_translating (r : Nat) (hit : TlbEntry → Bool) (c : Core) :
    State.translating (invalidateAt r hit c) = State.translating c := by
  unfold invalidateAt
  split <;> rfl

theorem invalidateAt_data (r : Nat) (hit : TlbEntry → Bool) (c : Core) :
    (invalidateAt r hit c).reg = c.reg ∧ (invalidateAt r hit c).mem.loc = c.mem.loc ∧
      (invalidateAt r hit c).mem.imem = c.mem.imem := by
  unfold invalidateAt
  split <;> exact ⟨rfl, rfl, rfl⟩

theorem invalidateAt_reset (r : Nat) (hit : TlbEntry → Bool) (k : Nat) : invalidateAt r hit (Core.reset k) = Core.reset k := by
  unfold invalidateAt
  split <;> rfl

namespace State

theorem coreOf_mapCores (s : State) {f : Core → Core} (hf : ∀ c, (f c).idx = c.idx)
    (h0 : ∀ k, f (Core.reset k) = Core.reset k) (k : Nat) : (s.mapCores f).coreOf k = f (s.coreOf k) := by
  have hp : (fun c : Core => c.idx == k) ∘ f = fun c => c.idx == k := funext fun c => by rw [Function.comp, hf]
  unfold coreOf
  rw [mapCores_core, mapCores_others, hf, List.find?_map, hp]
  split
  · rfl
  · cases s.others.find? (fun c => c.idx == k) with
    | none => exact (h0 k).symm
    | some c => rfl

theorem translatingIn_mapCores (s : State) {f : Core → Core} (hf : ∀ c, (f c).idx = c.idx)
    (ht : ∀ c, translating (f c) = translating c) (r : Nat) : (s.mapCores f).translatingIn r = s.translatingIn r := by
  unfold translatingIn
  rw [allCores_mapCores s hf, List.filter_map, List.map_map]
  simp only [Function.comp_def, hf, ht]

/-- An update of the cores that leaves a reticle's cores alone leaves the count of its dying entries. -/
theorem dyingIn_mapCores (s : State) {f : Core → Core} (hf : ∀ c, (f c).idx = c.idx) {r : Nat}
    (hr : ∀ c, reticleOf c.idx = r → f c = c) : (s.mapCores f).dyingIn r = s.dyingIn r := by
  have hid : (s.allCores.filter (fun c => reticleOf c.idx == r)).map f = s.allCores.filter (fun c => reticleOf c.idx == r) := by
    refine (List.map_congr_left fun c hc => ?_).trans (List.map_id _)
    exact hr c (beq_iff_eq.mp (List.mem_filter.mp hc).2)
  unfold dyingIn entriesIn
  rw [allCores_mapCores s hf, List.filter_map]
  simp only [Function.comp_def, hf]
  rw [hid]

/-! ### What stays as it was -/

/-- `t` has the reticle `r` and its cores as `s` has them, and the argument of the event. -/
def sameAt (r : Nat) (s t : State) : Prop :=
  t.ret r = s.ret r ∧ (∀ k, reticleOf k = r → t.coreOf k = s.coreOf k) ∧ t.translatingIn r = s.translatingIn r ∧
    t.dyingIn r = s.dyingIn r ∧ t.arg = s.arg

theorem sameAt_refl (r : Nat) (s : State) : sameAt r s s := ⟨rfl, fun _ _ => rfl, rfl, rfl, rfl⟩

theorem sameAt_trans {r : Nat} {s t u : State} (h : sameAt r s t) (g : sameAt r t u) : sameAt r s u := by
  obtain ⟨hret, hcore, htrans, hdying, harg⟩ := h
  obtain ⟨gret, gcore, gtrans, gdying, garg⟩ := g
  exact ⟨gret.trans hret, fun k hk => (gcore k hk).trans (hcore k hk), gtrans.trans htrans, gdying.trans hdying,
    garg.trans harg⟩

theorem sameAt_stays {r : Nat} {s t : State} (h : sameAt r s t) :
    t.ret r = s.ret r ∧ ∀ k, reticleOf k = r → t.coreOf k = s.coreOf k := by
  obtain ⟨hret, hcore, -⟩ := h
  exact ⟨hret, hcore⟩

/-- A step that is taken in each reticle of a list leaves the others as they were. -/
theorem foldl_sameAt {r : Nat} {f : State → Nat → State} (hf : ∀ s q, q ≠ r → sameAt r s (f s q)) {rs : List Nat} (hr : r ∉ rs)
    (s : State) : sameAt r s (rs.foldl f s) :=
  List.foldlRecOn (motive := sameAt r s) _ _ (sameAt_refl r s)
    fun _ h q hq => sameAt_trans h (hf _ q fun e => hr (e ▸ hq))

/-- A reticle sees its own step alone. -/
theorem foldl_own {r : Nat} {f : State → Nat → State} (hf : ∀ s q, q ≠ r → sameAt r s (f s q)) {rs : List Nat} (hn : rs.Nodup)
    (hr : r ∈ rs) (s : State) : ∃ u, sameAt r s u ∧ sameAt r (f u r) (rs.foldl f s) := by
  obtain ⟨before, after, rfl⟩ := List.append_of_mem hr
  obtain ⟨-, hafter, hdisj⟩ := List.nodup_append.mp hn
  refine ⟨before.foldl f s, foldl_sameAt hf (fun hb => hdisj r hb r List.mem_cons_self rfl) s, ?_⟩
  rw [List.foldl_append, List.foldl_cons]
  exact foldl_sameAt hf (List.nodup_cons.mp hafter).1 _

theorem winReticles_nodup (a : Arg) : (winReticles a).Nodup := by
  unfold winReticles
  split
  · exact List.nodup_range
  · exact List.nodup_singleton _
  · exact List.nodup_singleton _

/-- Off-wafer memory, the cards, and the registers and memories of every core are as they were. -/
def tinvKept (s t : State) : Prop := s.memKept t ∧ s.dataKept t ∧ t.cards = s.cards

theorem tinvKept_refl (s : State) : s.tinvKept s := ⟨s.memKept_refl, fun _ => ⟨rfl, rfl, rfl⟩, rfl⟩

theorem mapCores_invalidateAt_dataKept (s : State) (r : Nat) (hit : TlbEntry → Bool) : s.dataKept (s.mapCores (invalidateAt r hit)) := by
  intro k
  rw [coreOf_mapCores s (invalidateAt_idx r hit) (invalidateAt_reset r hit)]
  exact invalidateAt_data r hit _

/-! ### One request in one reticle -/

theorem putRet_sameAt (s : State) {r q : Nat} (h : q ≠ r) (x : Reticle) : sameAt r s (s.putRet q x) :=
  ⟨ret_putRet_ne s q r x h, fun _ _ => rfl, rfl, rfl, rfl⟩

theorem putRet_tinvKept {s t : State} (h : s.tinvKept t) (r : Nat) (x : Reticle) : s.tinvKept (t.putRet r x) := h

theorem invalidate_eq (s : State) (r : Nat) (q : TInv) : s.invalidate r q =
    (s.putRet r { s.ret r with tinv := some q, cache := (s.ret r).cache.filter (fun e => !q.hits e.tag e.va e.size) }).mapCores
      (invalidateAt r (fun e => q.hits e.tag e.va e.size)) := rfl

theorem invalidate_sameAt (s : State) {r p : Nat} (h : p ≠ r) (q : TInv) : sameAt r s (s.invalidate p q) := by
  have hoff (c : Core) (hc : reticleOf c.idx = r) : invalidateAt p (fun e => q.hits e.tag e.va e.size) c = c :=
    if_neg (hc.trans_ne h.symm)
  rw [invalidate_eq]
  refine sameAt_trans (putRet_sameAt s h _) ⟨rfl, fun k hk => ?_, ?_, ?_, rfl⟩
  · rw [coreOf_mapCores _ (invalidateAt_idx _ _) (invalidateAt_reset _ _)]
    exact hoff _ (by rw [coreOf_idx]; exact hk)
  · exact translatingIn_mapCores _ (invalidateAt_idx _ _) (invalidateAt_translating _ _) r
  · exact dyingIn_mapCores _ (invalidateAt_idx _ _) hoff

theorem invalidate_tinvKept {s t : State} (h : s.tinvKept t) (r : Nat) (q : TInv) : s.tinvKept (t.invalidate r q) := by
  obtain ⟨hmem, hdata, hcards⟩ := h
  refine ⟨hmem, fun k => ?_, hcards⟩
  obtain ⟨hreg, hloc, himem⟩ := hdata k
  obtain ⟨ireg, iloc, iimem⟩ := mapCores_invalidateAt_dataKept (t.putRet r _) r (fun e => q.hits e.tag e.va e.size) k
  exact ⟨ireg.trans hreg, iloc.trans hloc, iimem.trans himem⟩

/-- The reticle of a request that acts, and its cores (rule R42). -/
theorem invalidate_spec (s : State) {r : Nat} (hr : r < 48) (q : TInv) :
    (s.invalidate r q).ret r =
        { s.ret r with tinv := some q, cache := (s.ret r).cache.filter (fun e => !q.hits e.tag e.va e.size) } ∧
      ∀ k, reticleOf k = r → (s.coreOf k).invalidated (fun e => q.hits e.tag e.va e.size) ((s.invalidate r q).coreOf k) := by
  rw [invalidate_eq]
  refine ⟨ret_putRet s r _ hr, fun k hk => ?_⟩
  have hcore : invalidateAt r (fun e => q.hits e.tag e.va e.size) (s.coreOf k) =
      invalidateTlb (fun e => q.hits e.tag e.va e.size) (s.coreOf k) := if_pos (by rw [coreOf_idx]; exact hk)
  rw [coreOf_mapCores _ (invalidateAt_idx _ _) (invalidateAt_reset _ _)]
  show (s.coreOf k).invalidated _ (invalidateAt r _ (s.coreOf k))
  rw [hcore]
  exact invalidateTlb_invalidated _ _

end State
end Sys2Proof.Machine
end

section
/-! Invalidation requests, tags and channel retirement, event by event. -/

namespace Sys2Proof.Machine
open Sys2Proof

/-! ### Fields after a write (rules R11, R12) -/

theorem getLsbD_fieldWrite (old new rw w1c : Word) {i : Nat} (h : i < 64) : (fieldWrite old new rw w1c).getLsbD i =
    ((old.getLsbD i && !rw.getLsbD i || new.getLsbD i && rw.getLsbD i) && !(new.getLsbD i && w1c.getLsbD i)) := by
  simp only [fieldWrite, BitVec.getLsbD_or, BitVec.getLsbD_and, BitVec.getLsbD_not, h, decide_true, Bool.true_and]

/-- A bit that a write does not reach. -/
theorem getLsbD_fieldWrite_kept (old new rw w1c : Word) (i : Nat) (h : rw.getLsbD i = false) (h1 : w1c.getLsbD i = false) :
    (fieldWrite old new rw w1c).getLsbD i = old.getLsbD i := by
  by_cases hi : i < 64
  · rw [getLsbD_fieldWrite _ _ _ _ hi, h, h1]
    simp
  · rw [BitVec.getLsbD_of_ge _ _ (by omega), BitVec.getLsbD_of_ge _ _ (by omega)]

/-- A field of RW bits holds what was written. -/
theorem bits_fieldWrite (old new rw w1c : Word) {hi lo : Nat}
    (h : ∀ i ≤ hi, lo ≤ i → rw.getLsbD i = true ∧ w1c.getLsbD i = false) :
    bits (fieldWrite old new rw w1c) hi lo = bits new hi lo := by
  refine bits_congr fun i hl hh => ?_
  obtain ⟨hrw, hw1c⟩ := h i hh hl
  rw [getLsbD_fieldWrite _ _ _ _ (BitVec.lt_of_getLsbD hrw), hrw, hw1c]
  simp

/-- A command word with GO set: its other fields are the ones written. -/
theorem bits_or_one (w : Word) {hi lo : Nat} (h : 0 < lo) : bits (w ||| 1) hi lo = bits w hi lo :=
  bits_congr fun i hl _ => by
    have hi : i ≠ 0 := by omega
    simp [BitVec.getLsbD_one, hi]

theorem getLsbD_or_one (w : Word) : (w ||| 1).getLsbD 0 = true := by simp

namespace State

/-! ### A write of TINVCTL (rules R41, R42, R44) -/

/-- What TINVCTL of a reticle stores of a write, before GO. -/
def tinvStored (s : State) (r : Nat) (w : Word) : Word := fieldWrite (s.ret r).tinvctl w 0xFF0F00 0x6

section
variable {s : State} {r : Nat} {w : Word}

theorem tinvStored_go : (s.tinvStored r w).getLsbD 0 = (s.ret r).tinvctl.getLsbD 0 :=
  getLsbD_fieldWrite_kept _ _ _ _ 0 (by decide) (by decide)

theorem tinvOf_stored (va : Word) : tinvOf (s.tinvStored r w) va = tinvOf w va := by
  have hscope : bits (s.tinvStored r w) 9 8 = bits w 9 8 := bits_fieldWrite _ _ _ _ (by decide)
  have hsize : bits (s.tinvStored r w) 11 10 = bits w 11 10 := bits_fieldWrite _ _ _ _ (by decide)
  have htag : bits (s.tinvStored r w) 23 16 = bits w 23 16 := bits_fieldWrite _ _ _ _ (by decide)
  rw [tinvOf, tinvOf, hscope, hsize, htag]

theorem tinvWrite_of_busy (hg : w.getLsbD 0 = true) (hb : (s.ret r).tinvctl.getLsbD 0 = true) :
    s.tinvWrite r w = s.putRet r { s.ret r with tinvctl := (s.ret r).tinvctl ||| 4 } := by
  simp only [tinvWrite, hg, hb, Bool.not_true, Bool.false_eq_true, if_false, if_true]

theorem tinvWrite_of_refused (hg : w.getLsbD 0 = true) (hb : (s.ret r).tinvctl.getLsbD 0 = false) (hz : bits w 11 10 = 3) :
    s.tinvWrite r w = s.putRet r { s.ret r with tinvctl := s.tinvStored r w ||| 2 } := by
  simp only [tinvWrite, hg, hb, hz, Bool.not_true, Bool.false_eq_true, if_false, decide_true, Bool.or_true, if_true]
  rfl

theorem tinvWrite_of_accepted (hg : w.getLsbD 0 = true) (hb : (s.ret r).tinvctl.getLsbD 0 = false) (hs : bits w 9 8 ≠ 3)
    (hz : bits w 11 10 ≠ 3) : s.tinvWrite r w =
      (s.putRet r { s.ret r with tinvctl := s.tinvStored r w ||| 1 }).acceptTinv r (tinvOf w (s.ret r).tinvva) := by
  rw [← tinvOf_stored (s := s) (r := r)]
  simp only [tinvWrite, hg, hb, hs, hz, Bool.not_true, Bool.false_eq_true, if_false, decide_false, Bool.or_self]
  rfl

end

theorem acceptTinv_sameAt (s : State) {r p : Nat} (h : p ≠ r) (q : TInv) : sameAt r s (s.acceptTinv p q) := by
  unfold acceptTinv
  dsimp only
  split
  · exact invalidate_sameAt s h q
  · exact putRet_sameAt s h _

theorem acceptTinv_tinvKept {s t : State} (h : s.tinvKept t) (r : Nat) (q : TInv) : s.tinvKept (t.acceptTinv r q) := by
  unfold acceptTinv
  dsimp only
  split
  · exact invalidate_tinvKept h r q
  · exact putRet_tinvKept h r _

theorem tinvWrite_sameAt (s : State) {r p : Nat} (h : p ≠ r) (w : Word) : sameAt r s (s.tinvWrite p w) := by
  unfold tinvWrite
  extract_lets x old put v
  split
  · exact putRet_sameAt s h _
  · split
    · exact putRet_sameAt s h _
    · split
      · exact putRet_sameAt s h _
      · exact sameAt_trans (putRet_sameAt s h _) (acceptTinv_sameAt _ h _)

theorem tinvWrite_tinvKept {s t : State} (h : s.tinvKept t) (r : Nat) (w : Word) : s.tinvKept (t.tinvWrite r w) := by
  unfold tinvWrite
  extract_lets x old put v
  split
  · exact putRet_tinvKept h r _
  · split
    · exact putRet_tinvKept h r _
    · split
      · exact putRet_tinvKept h r _
      · exact acceptTinv_tinvKept (putRet_tinvKept h r _) r _

/-- A request that is accepted: it acts at once where no release is translating, and waits for those that are (rules R42, R44). -/
theorem acceptTinv_spec (s : State) {r : Nat} (hr : r < 48) (q : TInv) :
    (s.translatingIn r = [] → s.acceptTinv r q = s.invalidate r q) ∧
      (s.translatingIn r ≠ [] → (s.acceptTinv r q).ret r = { s.ret r with tinv := some { q with waits := s.translatingIn r } } ∧
        ∀ k, (s.acceptTinv r q).coreOf k = s.coreOf k) := by
  unfold acceptTinv
  refine ⟨fun h => by simp [h], fun h => ?_⟩
  dsimp only
  rw [if_neg (by simpa using h)]
  exact ⟨ret_putRet s r _ hr, fun _ => rfl⟩

/-! ### Requests at a reticle, before and after which other reticles have theirs -/

section
variable {s u t : State} {r : Nat}

theorem putRet_between {x : Reticle} (hr : r < 48) (hu : ∀ k, reticleOf k = r → u.coreOf k = s.coreOf k)
    (ht : sameAt r (u.putRet r x) t) : t.ret r = x ∧ ∀ k, reticleOf k = r → t.coreOf k = s.coreOf k := by
  obtain ⟨hret, hcore, -⟩ := ht
  exact ⟨hret.trans (ret_putRet u r x hr), fun k hk => (hcore k hk).trans (hu k hk)⟩

theorem invalidate_between {q : TInv} (hr : r < 48) (hu : ∀ k, reticleOf k = r → u.coreOf k = s.coreOf k)
    (ht : sameAt r (u.invalidate r q) t) :
    t.ret r = { u.ret r with tinv := some q, cache := (u.ret r).cache.filter (fun e => !q.hits e.tag e.va e.size) } ∧
      ∀ k, reticleOf k = r → (s.coreOf k).invalidated (fun e => q.hits e.tag e.va e.size) (t.coreOf k) := by
  obtain ⟨hret, hcore, -⟩ := ht
  obtain ⟨iret, icore⟩ := u.invalidate_spec hr q
  refine ⟨hret.trans iret, fun k hk => ?_⟩
  rw [hcore k hk, ← hu k hk]
  exact icore k hk

end

/-- The word of a GO of a scope (rule R41). -/
def goWord (w : Word) (scope : Nat) : Word := setBits (w ||| 1) 9 8 scope

theorem goWord_go (w : Word) (scope : Nat) : (goWord w scope).getLsbD 0 = true := by
  rw [goWord, getLsbD_setBits _ _ _ _ _ (by decide), if_neg (by decide), getLsbD_or_one]

theorem goWord_scope (w : Word) {scope : Nat} (h : scope < 3) : bits (goWord w scope) 9 8 = scope := by
  rw [goWord, bits_setBits _ _ _ _ (by decide)]
  exact Nat.mod_eq_of_lt (by omega)

theorem goWord_above (w : Word) (scope : Nat) {hi lo : Nat} (h : 9 < lo) : bits (goWord w scope) hi lo = bits w hi lo := by
  rw [goWord, bits_setBits_ne _ _ _ _ _ _ (by decide) (.inr h), bits_or_one _ (by omega)]

/-- The log2 size of the range of a request (rule R41). -/
def tinvSize (w : Word) : Nat := match bits w 11 10 with | 0 => 17 | 1 => 27 | _ => 37

theorem tinvOf_eq (w va : Word) : tinvOf w va =
    { scope := bits w 9 8, tag := bits w 23 16, lo := bits va 56 17 * 2 ^ 17 / 2 ^ tinvSize w * 2 ^ tinvSize w
      hi := bits va 56 17 * 2 ^ 17 / 2 ^ tinvSize w * 2 ^ tinvSize w + 2 ^ tinvSize w, waits := [] } := rfl

/-- The request of a GO, with the cores whose releases it waits for. -/
def tinvRequest (w va : Word) (scope : Nat) (waits : List Nat) : TInv :=
  { scope := scope, tag := bits w 23 16, lo := bits va 56 17 * 2 ^ 17 / 2 ^ tinvSize w * 2 ^ tinvSize w
    hi := bits va 56 17 * 2 ^ 17 / 2 ^ tinvSize w * 2 ^ tinvSize w + 2 ^ tinvSize w, waits := waits }

theorem tinvOf_goWord (w va : Word) {scope : Nat} (h : scope < 3) : tinvOf (goWord w scope) va = tinvRequest w va scope [] := by
  have hsize : tinvSize (goWord w scope) = tinvSize w := by
    rw [tinvSize, tinvSize, goWord_above w scope (by decide)]
  rw [tinvOf_eq, goWord_scope w h, goWord_above w scope (by decide), hsize, tinvRequest]

theorem tinvGo_tinvKept (s : State) (scope : Nat) : s.tinvKept (s.tinvGo scope) :=
  List.foldlRecOn (motive := s.tinvKept) _ _ s.tinvKept_refl fun _ h _ _ => tinvWrite_tinvKept h _ _

theorem tinvGo_sameAt (s : State) (scope : Nat) {r : Nat} (h : r ∉ winReticles s.arg) : sameAt r s (s.tinvGo scope) :=
  foldl_sameAt (fun u _ hq => tinvWrite_sameAt u hq _) h s

theorem tinvGo_own {s : State} {r : Nat} (hm : r ∈ winReticles s.arg) (scope : Nat) :
    ∃ u, sameAt r s u ∧ sameAt r (u.tinvWrite r (goWord s.arg.value scope)) (s.tinvGo scope) := by
  obtain ⟨u, hu, ht⟩ := foldl_own (f := fun u q => u.tinvWrite q (goWord u.arg.value scope))
    (fun u _ hq => tinvWrite_sameAt u hq _) (winReticles_nodup s.arg) hm s
  obtain ⟨-, -, -, -, harg⟩ := id hu
  rw [harg] at ht
  exact ⟨u, hu, ht⟩

section
variable {s : State} {scope r : Nat} (hr : r < 48) (hm : r ∈ winReticles s.arg)
include hr hm

/-- A GO while the reticle is busy (rule R41). -/
theorem tinvGo_busy (hb : (s.ret r).tinvctl.getLsbD 0 = true) :
    (s.tinvGo scope).ret r = { s.ret r with tinvctl := (s.ret r).tinvctl ||| 4 } ∧
      ∀ k, reticleOf k = r → (s.tinvGo scope).coreOf k = s.coreOf k := by
  obtain ⟨u, ⟨hret, hcore, -⟩, ht⟩ := tinvGo_own hm scope
  rw [← hret] at hb ⊢
  rw [tinvWrite_of_busy (goWord_go _ _) hb] at ht
  exact putRet_between hr hcore ht

/-- A GO with a reserved SIZE (rule R41). -/
theorem tinvGo_refused (hb : (s.ret r).tinvctl.getLsbD 0 = false) (hz : bits s.arg.value 11 10 = 3) :
    (s.tinvGo scope).ret r = { s.ret r with tinvctl := ((s.tinvGo scope).ret r).tinvctl } ∧
      ((s.tinvGo scope).ret r).tinvctl.getLsbD 0 = false ∧ ((s.tinvGo scope).ret r).tinvctl.getLsbD 1 = true ∧
      ∀ k, reticleOf k = r → (s.tinvGo scope).coreOf k = s.coreOf k := by
  obtain ⟨u, ⟨hret, hcore, -⟩, ht⟩ := tinvGo_own hm scope
  rw [← hret] at hb ⊢
  rw [tinvWrite_of_refused (goWord_go _ _) hb (by rwa [goWord_above _ _ (by decide)])] at ht
  obtain ⟨tret, tcore⟩ := putRet_between hr hcore ht
  rw [tret]
  refine ⟨rfl, ?_, ?_, tcore⟩
  · rw [BitVec.getLsbD_or, tinvStored_go, hb]
    rfl
  · rw [BitVec.getLsbD_or, show (2 : Word).getLsbD 1 = true by decide, Bool.or_true]

/-- A GO that begins (rules R41, R42, R44). -/
theorem tinvGo_accepted (hs : scope < 3) (hb : (s.ret r).tinvctl.getLsbD 0 = false) (hz : bits s.arg.value 11 10 ≠ 3) :
    let q := tinvRequest s.arg.value (s.ret r).tinvva scope (s.translatingIn r)
    ∃ v : Word, v.getLsbD 0 = true ∧
      (q.waits = [] → (s.tinvGo scope).ret r = { s.ret r with
          tinvctl := v, tinv := some q, cache := (s.ret r).cache.filter (fun e => !q.hits e.tag e.va e.size) } ∧
        ∀ k, reticleOf k = r → (s.coreOf k).invalidated (fun e => q.hits e.tag e.va e.size) ((s.tinvGo scope).coreOf k)) ∧
      (q.waits ≠ [] → (s.tinvGo scope).ret r = { s.ret r with tinvctl := v, tinv := some q } ∧
        ∀ k, reticleOf k = r → (s.tinvGo scope).coreOf k = s.coreOf k) := by
  obtain ⟨u, ⟨hret, hcore, htrans, -⟩, ht⟩ := tinvGo_own hm scope
  rw [← hret] at hb ⊢
  rw [← htrans]
  have hscope : bits (goWord s.arg.value scope) 9 8 ≠ 3 := by
    rw [goWord_scope _ hs]
    omega
  rw [tinvWrite_of_accepted (goWord_go _ _) hb hscope (by rwa [goWord_above _ _ (by decide)]), tinvOf_goWord _ _ hs] at ht
  generalize hv : u.tinvStored r (goWord s.arg.value scope) ||| 1 = v at ht
  have hput := ret_putRet u r { u.ret r with tinvctl := v } hr
  obtain ⟨hnow, hwait⟩ := (u.putRet r { u.ret r with tinvctl := v }).acceptTinv_spec hr
    (tinvRequest s.arg.value (u.ret r).tinvva scope [])
  refine ⟨v, by rw [← hv, getLsbD_or_one], fun hw => ?_, fun hw => ?_⟩
  · rw [hnow hw] at ht
    obtain ⟨iret, icore⟩ := invalidate_between (s := s) (u := u.putRet r { u.ret r with tinvctl := v }) hr hcore ht
    rw [hput] at iret
    refine ⟨?_, icore⟩
    rw [iret, show u.translatingIn r = [] from hw]
  · obtain ⟨aret, acore⟩ := hwait hw
    obtain ⟨tret, tcore, -⟩ := ht
    rw [hput] at aret
    exact ⟨tret.trans aret, fun k hk => (tcore k hk).trans ((acore k).trans (hcore k hk))⟩

end

/-! ### The end of a request (rules R42, R44) -/

section
variable {s : State} {r : Nat} {q : TInv}

theorem tinvComplete_of_early (h : s.tinvDue r = false) : s.tinvComplete r = s := by
  unfold tinvComplete
  extract_lets x
  split
  · rfl
  · rw [if_pos (by simp [h])]

theorem tinvDue_of_none (h : (s.ret r).tinv = none) : s.tinvDue r = false := by
  simp [tinvDue, h]

theorem tinvDue_of_acted (h : (s.ret r).tinv = some q) (hw : q.waits = []) : s.tinvDue r = (s.dyingIn r == 0) := by
  simp [tinvDue, h, hw]

theorem tinvDue_of_waiting (h : (s.ret r).tinv = some q) (hw : q.waits ≠ []) :
    s.tinvDue r = !q.waits.any (s.translatingIn r).contains := by
  simp [tinvDue, h, hw]

theorem tinvComplete_of_acted (h : (s.ret r).tinv = some q) (hw : q.waits = []) (hd : s.dyingIn r = 0) :
    s.tinvComplete r = s.putRet r { s.ret r with
      tinv := none, tinvctl := (s.ret r).tinvctl &&& ~~~1
      tinvst := setBits (s.ret r).tinvst 31 0 ((bits (s.ret r).tinvst 31 0 + 1) % 2 ^ 32) } := by
  have hdue : s.tinvDue r = true := by rw [tinvDue_of_acted h hw, hd]; rfl
  simp only [tinvComplete, h, hdue, hw, List.isEmpty_nil, Bool.not_true, Bool.false_eq_true, if_false]

theorem tinvComplete_of_waiting (h : (s.ret r).tinv = some q) (hw : q.waits ≠ []) (hd : ∀ k ∈ q.waits, k ∉ s.translatingIn r) :
    s.tinvComplete r = s.invalidate r { q with waits := [] } := by
  have hdue : s.tinvDue r = true := by
    rw [tinvDue_of_waiting h hw]
    simpa using hd
  have hne : q.waits.isEmpty = false := by simpa using hw
  simp only [tinvComplete, h, hdue, hne, Bool.not_true, Bool.not_false, Bool.false_eq_true, if_false, if_true]

end

theorem tinvComplete_sameAt (s : State) {r p : Nat} (h : p ≠ r) : sameAt r s (s.tinvComplete p) := by
  unfold tinvComplete
  extract_lets x
  split
  · exact sameAt_refl r s
  · split
    · exact sameAt_refl r s
    · split
      · exact invalidate_sameAt s h _
      · exact putRet_sameAt s h _

theorem tinvComplete_tinvKept {s t : State} (h : s.tinvKept t) (r : Nat) : s.tinvKept (t.tinvComplete r) := by
  unfold tinvComplete
  extract_lets x
  split
  · exact h
  · split
    · exact h
    · split
      · exact invalidate_tinvKept h r _
      · exact putRet_tinvKept h r _

end State
end Sys2Proof.Machine
end

section
/-! The end of invalidation requests, freed tags, and the retirement of memory channels. -/

namespace Sys2Proof.Machine
open Sys2Proof
namespace State

/-! ### The event that ends requests (rule R42) -/

/-- The requests of the reticles that the event names go on. -/
def tinvEnd (s : State) : State := (winReticles s.arg).foldl (fun u r => u.tinvComplete r) s

theorem tinvEnd_tinvKept (s : State) : s.tinvKept s.tinvEnd :=
  List.foldlRecOn (motive := s.tinvKept) _ _ s.tinvKept_refl fun _ h r _ => tinvComplete_tinvKept h r

theorem tinvEnd_sameAt (s : State) {r : Nat} (h : r ∉ winReticles s.arg) : sameAt r s s.tinvEnd :=
  foldl_sameAt (fun u _ hq => tinvComplete_sameAt u hq) h s

theorem tinvEnd_own {s : State} {r : Nat} (hm : r ∈ winReticles s.arg) :
    ∃ u, sameAt r s u ∧ sameAt r (u.tinvComplete r) s.tinvEnd :=
  foldl_own (f := fun u q => u.tinvComplete q) (fun u _ hq => tinvComplete_sameAt u hq) (winReticles_nodup s.arg) hm s

theorem tinvDue_sameAt {r : Nat} {s t : State} (h : sameAt r s t) : t.tinvDue r = s.tinvDue r := by
  obtain ⟨hret, -, htrans, hdying, -⟩ := h
  rw [tinvDue, tinvDue, hret, htrans, hdying]

/-- A request that has nothing to do yet, or a reticle without one. -/
theorem tinvEnd_early {s : State} {r : Nat} (h : s.tinvDue r = false) : sameAt r s s.tinvEnd := by
  by_cases hm : r ∈ winReticles s.arg
  · obtain ⟨u, hu, ht⟩ := tinvEnd_own hm
    rw [tinvComplete_of_early ((tinvDue_sameAt hu).trans h)] at ht
    exact sameAt_trans hu ht
  · exact tinvEnd_sameAt s hm

section
variable {s : State} {r : Nat} {q : TInv} (hr : r < 48) (hm : r ∈ winReticles s.arg) (h : (s.ret r).tinv = some q)
include hr hm h

/-- A request that has acted ends (rules R41, R42). -/
theorem tinvEnd_acted (hw : q.waits = []) (hd : s.dyingIn r = 0) :
    (∀ k, reticleOf k = r → s.tinvEnd.coreOf k = s.coreOf k) ∧
      s.tinvEnd.ret r = { s.ret r with
        tinv := none, tinvctl := (s.ret r).tinvctl &&& ~~~1, tinvst := (s.tinvEnd.ret r).tinvst } ∧
      bits (s.tinvEnd.ret r).tinvst 31 0 = (bits (s.ret r).tinvst 31 0 + 1) % 2 ^ 32 := by
  obtain ⟨u, ⟨hret, hcore, -, hdying, -⟩, ht⟩ := tinvEnd_own hm
  rw [← hret] at h ⊢
  rw [tinvComplete_of_acted h hw (hdying.trans hd)] at ht
  obtain ⟨tret, tcore⟩ := putRet_between hr hcore ht
  rw [tret]
  exact ⟨tcore, rfl, (bits_setBits _ _ _ _ (by decide)).trans (Nat.mod_mod _ _)⟩

/-- A request that has waited acts (rule R44). -/
theorem tinvEnd_waited (hw : q.waits ≠ []) (hd : ∀ k ∈ q.waits, k ∉ s.translatingIn r) :
    s.tinvEnd.ret r = { s.ret r with
        tinv := some { q with waits := [] }, cache := (s.ret r).cache.filter (fun e => !q.hits e.tag e.va e.size) } ∧
      ∀ k, reticleOf k = r → (s.coreOf k).invalidated (fun e => q.hits e.tag e.va e.size) (s.tinvEnd.coreOf k) := by
  obtain ⟨u, ⟨hret, hcore, htrans, -⟩, ht⟩ := tinvEnd_own hm
  rw [← hret] at h ⊢
  rw [← htrans] at hd
  rw [tinvComplete_of_waiting h hw hd] at ht
  exact invalidate_between hr hcore ht

end

/-! ### Freed tags (rule R40) -/

theorem tagFreed_of_used {s : State} {tag : Nat} (h : s.tagHeld tag = true ∨ s.tagClear tag = false) : s.tagFreed tag = s :=
  if_pos (by simpa using h)

theorem tagFreed_of_clear {s : State} {tag : Nat} (hh : s.tagHeld tag = false) (hc : s.tagClear tag = true) :
    s.tagFreed tag = { s with sched := { s.sched with tags := s.sched.tags.filter (· != tag) } } :=
  if_neg (by simp [hh, hc])

/-! ### The retirement of a channel begins (rule R91) -/

/-- What HBMRCMD stores of a write, before GO. -/
def hbmStored (s : State) (w : Word) : Word := fieldWrite s.module.hbmrcmd w 0xFFC0 0x2

/-- HBMRCMD has a value. -/
def hbmPut (s : State) (v : Word) : State := { s with module := { s.module with hbmrcmd := v } }

/-- A channel is retiring, with the command `v`: its cached leaves and its TLB entries go. -/
def hbmRetiring (s : State) (v : Word) (st ch : Nat) : State :=
  ({ s with
    module := { s.module with hbmrcmd := v, retiring := some (st, ch) }
    reticles := s.reticles.map (fun (x : Reticle) =>
      { x with cache := x.cache.filter (fun e => !frameInChannel st ch e.dpa e.size) }) } : State).mapCores
    (invalidateTlb (fun e => frameInChannel st ch e.dpa e.size))

section
variable {s : State} {w : Word}

theorem hbmStored_go : (s.hbmStored w).getLsbD 0 = s.module.hbmrcmd.getLsbD 0 :=
  getLsbD_fieldWrite_kept _ _ _ _ 0 (by decide) (by decide)

theorem hbmStored_stack : bits (s.hbmStored (w ||| 1)) 15 11 = bits w 15 11 :=
  (bits_fieldWrite _ _ _ _ (by decide)).trans (bits_or_one w (by decide))

theorem hbmStored_chan : bits (s.hbmStored (w ||| 1)) 10 6 = bits w 10 6 :=
  (bits_fieldWrite _ _ _ _ (by decide)).trans (bits_or_one w (by decide))

theorem hbmWrite_of_busy (hb : s.module.hbmrcmd.getLsbD 0 = true) : s.hbmWrite w = s.hbmPut (s.hbmStored w) :=
  if_pos (by simp [hb])

/-- STACK and CHAN name a channel that may retire. -/
def mayRetire (s : State) (w : Word) : Prop :=
  bits w 15 11 ≤ 23 ∧ s.channelGone (bits w 15 11) (bits w 10 6) = false ∧ s.areaNames (bits w 15 11) = false

theorem mayRetire_iff : s.mayRetire w ↔
    (23 < bits w 15 11 || s.channelGone (bits w 15 11) (bits w 10 6) || s.areaNames (bits w 15 11)) = false := by
  simp [mayRetire, and_assoc]

/-- A command that is not ignored names the channel that was written. -/
theorem mayRetire_stored : s.mayRetire (s.hbmStored (w ||| 1)) ↔ s.mayRetire w := by
  rw [mayRetire, mayRetire, hbmStored_stack, hbmStored_chan]

/-- A GO while HBMRCMD is not busy. -/
theorem hbmWrite_idle (hb : s.module.hbmrcmd.getLsbD 0 = false) :
    (s.mayRetire w → s.hbmWrite (w ||| 1) = s.hbmRetiring (s.hbmStored (w ||| 1) ||| 1) (bits w 15 11) (bits w 10 6)) ∧
      (¬ s.mayRetire w → s.hbmWrite (w ||| 1) = s.hbmPut (s.hbmStored (w ||| 1) ||| 2)) := by
  have hgo : ¬ (!(w ||| 1).getLsbD 0 || s.module.hbmrcmd.getLsbD 0) = true := by
    rw [getLsbD_or_one, hb]
    decide
  rw [← mayRetire_stored, mayRetire_iff, ← hbmStored_stack (s := s) (w := w), ← hbmStored_chan (s := s) (w := w)]
  refine ⟨fun h => (if_neg hgo).trans (if_neg ?_), fun h => (if_neg hgo).trans (if_pos ?_)⟩
  · exact Bool.eq_false_iff.mp h
  · exact Bool.not_eq_false _ ▸ h

end

theorem hbmRetiring_ret (s : State) (v : Word) (st ch : Nat) {j : Nat} (h : j < 48) : (s.hbmRetiring v st ch).ret j =
    { s.ret j with cache := (s.ret j).cache.filter (fun e => !frameInChannel st ch e.dpa e.size) } := by
  simp [hbmRetiring, mapCores, ret, Vector.getD, h]

theorem hbmRetiring_coreOf (s : State) (v : Word) (st ch k : Nat) :
    (s.hbmRetiring v st ch).coreOf k = invalidateTlb (fun e => frameInChannel st ch e.dpa e.size) (s.coreOf k) :=
  coreOf_mapCores (f := invalidateTlb _) _ (fun _ => rfl) (fun _ => rfl) k

/-! ### The retirement of a channel ends (rule R91; log entry 82) -/

/-- What the end of a retirement leaves, before HOME and the replacement bit. -/
def hbmRetired (s : State) (st ch : Nat) : State :=
  { s with
    mem := { cells := s.mem.cells.filter (fun c => !blockIn st ch (c.1 / 2 ^ 17)) }
    poison := s.poison.filter (fun g => !blockIn st ch (g / 2 ^ 11))
    module := { s.module with
      retiring := none, hbmrcmd := s.module.hbmrcmd &&& ~~~1
      hbmret := s.module.hbmret.setIfInBounds st (s.module.hbmret.getD st 0 ||| (1 <<< ch))
      homes := s.module.homes.filter (fun h => !blockIn st ch h.block) } }

theorem hbmRetireEnd_of_idle {s : State} (h : s.module.retiring = none) : s.hbmRetireEnd = s := by
  simp only [hbmRetireEnd, h]

theorem hbmRetireEnd_of_unquiet {s : State} {st ch : Nat} (h : s.module.retiring = some (st, ch))
    (hq : s.channelQuiet st ch = false) : s.hbmRetireEnd = s := by
  simp [hbmRetireEnd, h, hq]

theorem hbmRetireEnd_of_quiet {s : State} {st ch : Nat} (h : s.module.retiring = some (st, ch))
    (hq : s.channelQuiet st ch = true) : s.hbmRetireEnd = (s.hbmRetired st ch).homeSettled.advise 9 := by
  simp only [hbmRetireEnd, h, hq, Bool.not_true, Bool.false_eq_true, if_false]
  rfl

/-- The bytes of the cells that a filter by address keeps. -/
theorem memory_read_filter (m : Memory) (p : Nat → Bool) (d : Nat) :
    Memory.read { cells := m.cells.filter (fun c => !p c.1) } d = if p d = true then 0 else m.read d := by
  have hfind : (m.cells.filter (fun c => !p c.1)).find? (fun c => c.1 == d) =
      if p d = true then none else m.cells.find? (fun c => c.1 == d) := by
    rw [List.find?_filter]
    split
    · next hp =>
      refine List.find?_eq_none.mpr fun c _ hc => ?_
      obtain ⟨hkept, hat⟩ := of_decide_eq_true hc
      rw [eq_of_beq hat, hp] at hkept
      exact absurd hkept (by decide)
    · next hp =>
      refine congrArg (List.find? · m.cells) (funext fun c => ?_)
      by_cases hat : c.1 = d <;> simp [hat, hp]
  unfold Memory.read
  rw [hfind]
  by_cases hp : p d = true
  · rw [if_pos hp, if_pos hp]
  · rw [if_neg hp, if_neg hp]

theorem getLsbD_shiftLeft_one {n b : Nat} (h : b < n) (j : Nat) : (((1 <<< b : Nat) : BitVec n)).getLsbD j = decide (j = b) := by
  rw [BitVec.natCast_eq_ofNat, BitVec.getLsbD_ofNat, Nat.one_shiftLeft, Nat.testBit_two_pow, Bool.eq_iff_iff]
  simp only [Bool.and_eq_true, decide_eq_true_eq]
  omega

/-- What HOME and the replacement bit leave of the channels' registers. -/
theorem homeSettled_kept (s : State) : s.coresKept s.homeSettled ∧ s.homeSettled.mem = s.mem ∧
    ∃ v, s.homeSettled.module = { s.module with migctl := v } := by
  unfold homeSettled
  split <;> exact ⟨⟨rfl, rfl⟩, rfl, _, rfl⟩

theorem homeSettled_home {s : State} (h : s.module.homes = []) : s.homeSettled.module.migctl.getLsbD 1 = false := by
  have hclear : s.homeSettled.module.migctl = s.module.migctl &&& ~~~2 := by rw [homeSettled, h]; rfl
  rw [hclear, BitVec.getLsbD_and, show (~~~2 : Word).getLsbD 1 = false by decide, Bool.and_false]

theorem advise_kept (s : State) (b : Nat) : s.coresKept (s.advise b) ∧ (s.advise b).mem = s.mem ∧
    ∃ v log n, (s.advise b).module = { s.module with radv := v, elog := log, elogCount := n } := by
  unfold advise
  split <;> exact ⟨⟨rfl, rfl⟩, rfl, _, _, _, rfl⟩

theorem advise_radv (s : State) {b : Nat} (h : b < 64) : (s.advise b).module.radv.getLsbD b = true := by
  unfold advise
  split
  · assumption
  · rw [logEntry, BitVec.getLsbD_or, getLsbD_shiftLeft_one h, decide_eq_true rfl, Bool.or_true]

theorem hbmRetired_read (s : State) (st ch d : Nat) :
    (s.hbmRetired st ch).mem.read d = if blockIn st ch (d / 2 ^ 17) = true then 0 else s.mem.read d :=
  memory_read_filter s.mem (fun a => blockIn st ch (a / 2 ^ 17)) d

theorem hbmRetired_hbmret (s : State) {st ch i : Nat} (j : Nat) (hst : st < 24) (hch : ch < 32) :
    ((s.hbmRetired st ch).module.hbmret.getD i 0).getLsbD j =
      ((s.module.hbmret.getD i 0).getLsbD j || (i == st && j == ch)) := by
  have hget : (s.hbmRetired st ch).module.hbmret.getD i 0 =
      if i = st then s.module.hbmret.getD st 0 ||| (1 <<< ch) else s.module.hbmret.getD i 0 := by
    by_cases hi : i = st <;> simp [hbmRetired, Vector.getD, hi, hst, eq_comm (a := st)]
  rw [hget]
  split
  · next h =>
    rw [h, BitVec.getLsbD_or, getLsbD_shiftLeft_one hch, beq_self_eq_true, Bool.true_and]
    rfl
  · next h => simp [h]

/-- The end of a retirement that is quiet. -/
theorem hbmRetireEnd_spec {s : State} {st ch : Nat} (h : s.module.retiring = some (st, ch)) (hq : s.channelQuiet st ch = true) :
    s.coresKept s.hbmRetireEnd ∧ s.hbmRetireEnd.mem = (s.hbmRetired st ch).mem ∧
      s.hbmRetireEnd.module.radv.getLsbD 9 = true ∧
      (s.hbmRetireEnd.module.homes = [] → s.hbmRetireEnd.module.migctl.getLsbD 1 = false) ∧
      let m := (s.hbmRetired st ch).module
      s.hbmRetireEnd.module.retiring = m.retiring ∧
        s.hbmRetireEnd.module.hbmrcmd = m.hbmrcmd ∧ s.hbmRetireEnd.module.homes = m.homes ∧
        s.hbmRetireEnd.module.hbmret = m.hbmret := by
  rw [hbmRetireEnd_of_quiet h hq]
  obtain ⟨⟨hcore, hothers⟩, hmem, v, hmod⟩ := (s.hbmRetired st ch).homeSettled_kept
  obtain ⟨⟨acore, aothers⟩, amem, r, log, n, amod⟩ := (s.hbmRetired st ch).homeSettled.advise_kept 9
  refine ⟨⟨acore.trans hcore, aothers.trans hothers⟩, amem.trans hmem, advise_radv _ (by decide), ?_, ?_⟩
  · rw [amod]
    show (s.hbmRetired st ch).homeSettled.module.homes = [] → (s.hbmRetired st ch).homeSettled.module.migctl.getLsbD 1 = false
    intro hnone
    rw [hmod] at hnone
    exact homeSettled_home hnone
  · rw [amod, hmod]
    exact ⟨rfl, rfl, rfl, rfl⟩

/-! ### The obligation -/

/-- What a GO of a scope does (rules R41, R42, R44), as the obligation says it. -/
theorem tinvGo_begins (s : State) {scope r : Nat} (hs : scope < 3) (hr : r < 48) (hm : r ∈ winReticles s.arg)
    (hb : (s.ret r).tinvctl.getLsbD 0 = false) (hz : bits s.arg.value 11 10 ≠ 3) :
    ∃ q : TInv, (q.scope = scope ∧ q.tag = bits s.arg.value 23 16 ∧
        q.lo = bits (s.ret r).tinvva 56 17 * 2 ^ 17 / 2 ^ tinvSize s.arg.value * 2 ^ tinvSize s.arg.value ∧
        q.hi = q.lo + 2 ^ tinvSize s.arg.value ∧ q.waits = s.translatingIn r) ∧
      ((s.tinvGo scope).ret r).tinvctl.getLsbD 0 = true ∧
      (q.waits = [] → (s.tinvGo scope).ret r = { s.ret r with
          tinvctl := ((s.tinvGo scope).ret r).tinvctl, tinv := some q
          cache := (s.ret r).cache.filter (fun e => !q.hits e.tag e.va e.size) } ∧
        ∀ k, reticleOf k = r → (s.coreOf k).invalidated (fun e => q.hits e.tag e.va e.size) ((s.tinvGo scope).coreOf k)) ∧
      (q.waits ≠ [] → (s.tinvGo scope).ret r = { s.ret r with tinvctl := ((s.tinvGo scope).ret r).tinvctl, tinv := some q } ∧
        ∀ k, reticleOf k = r → (s.tinvGo scope).coreOf k = s.coreOf k) := by
  obtain ⟨v, hgo, hnow, hwait⟩ := tinvGo_accepted (scope := scope) hr hm hs hb hz
  refine ⟨tinvRequest s.arg.value (s.ret r).tinvva scope (s.translatingIn r), ⟨rfl, rfl, rfl, rfl, rfl⟩, ?_,
    fun hw => ?_, fun hw => ?_⟩
  · by_cases hw : s.translatingIn r = []
    · rw [(hnow hw).1]
      exact hgo
    · rw [(hwait hw).1]
      exact hgo
  · obtain ⟨hret, hcore⟩ := hnow hw
    exact ⟨by rw [hret], hcore⟩
  · obtain ⟨hret, hcore⟩ := hwait hw
    exact ⟨by rw [hret], hcore⟩

end State

/-- Settles O46: a request sees its own reticle's step of the fold alone, and each event's branch is chosen by its guard. -/
theorem translationEventsComplete : Obligations.TranslationEventsComplete := by
  unfold Obligations.TranslationEventsComplete
  intro s w rs gone goes st ch m may
  have hgoes (i : Instr) (scope : Nat) (hs : scope < 3) (hi : exec i s = .next (s.tinvGo scope)) : goes i scope := by
    obtain ⟨hmem, hdata, hcards⟩ := s.tinvGo_tinvKept scope
    refine ⟨_, hi, hmem, hdata, hcards, fun k hk => ?_, fun j _ hj => ?_, fun r hr hm =>
      ⟨State.tinvGo_busy hr hm, State.tinvGo_refused hr hm, fun hb hz => ?_⟩⟩
    · exact (State.sameAt_stays (s.tinvGo_sameAt scope hk)).2 k rfl
    · exact (State.sameAt_stays (s.tinvGo_sameAt scope hj)).1
    · obtain ⟨q, ⟨hscope, htag, hlo, hhi, hwaits⟩, hrest⟩ := s.tinvGo_begins hs hr hm hb hz
      exact ⟨q, hscope, htag, hlo, hhi, hwaits, hrest⟩
  refine ⟨hgoes .tinvRange 0 (by decide) rfl, hgoes .tinvContext 1 (by decide) rfl, hgoes .tinvAll 2 (by decide) rfl, ?_⟩
  refine ⟨⟨s.tinvEnd, rfl, ?_⟩, fun h => congrArg Host.Outcome.next (State.tagFreed_of_used h),
    fun h g => congrArg Host.Outcome.next (State.tagFreed_of_clear h g), fun hb => ?_, fun hb hm => ?_, fun hb hm => ?_,
    fun h => congrArg Host.Outcome.next (State.hbmRetireEnd_of_idle h), fun a b h ha hb => ⟨fun hq => ?_, fun hq => ?_⟩⟩
  · obtain ⟨hmem, hdata, -⟩ := s.tinvEnd_tinvKept
    refine ⟨hmem, hdata, fun r hr => ⟨fun h => State.sameAt_stays ?_, fun q hm hq => ⟨fun hw hd => State.sameAt_stays ?_,
      State.tinvEnd_acted hr hm hq, fun hw hd => State.sameAt_stays ?_, State.tinvEnd_waited hr hm hq⟩⟩⟩
    · exact h.elim s.tinvEnd_sameAt fun hnone => State.tinvEnd_early (State.tinvDue_of_none hnone)
    · refine State.tinvEnd_early ((State.tinvDue_of_acted hq hw).trans ?_)
      exact beq_eq_false_iff_ne.mpr hd
    · refine State.tinvEnd_early ((State.tinvDue_of_waiting hq hw).trans ?_)
      simpa using hd
  · refine ⟨_, congrArg Host.Outcome.next (State.hbmWrite_of_busy hb), rfl, ?_⟩
    exact State.hbmStored_go.trans hb
  · refine ⟨_, congrArg Host.Outcome.next ((State.hbmWrite_idle hb).2 hm), rfl, ?_, ?_⟩
    · show (s.hbmStored (w ||| 1) ||| 2).getLsbD 1 = true
      rw [BitVec.getLsbD_or, show (2 : Word).getLsbD 1 = true by decide, Bool.or_true]
    · show (s.hbmStored (w ||| 1) ||| 2).getLsbD 0 = false
      rw [BitVec.getLsbD_or, State.hbmStored_go, hb]
      rfl
  · refine ⟨_, congrArg Host.Outcome.next ((State.hbmWrite_idle hb).1 hm), ⟨rfl, rfl, rfl⟩, fun k => ?_, rfl, getLsbD_or_one _,
      fun j hj => State.hbmRetiring_ret s _ st ch hj, fun k => ?_⟩
    · rw [State.hbmRetiring_coreOf]
      exact ⟨rfl, rfl, rfl⟩
    · show (s.coreOf k).invalidated _ _
      rw [State.hbmRetiring_coreOf]
      exact invalidateTlb_invalidated _ _
  · exact congrArg Host.Outcome.next (State.hbmRetireEnd_of_unquiet h hq)
  · obtain ⟨hcores, hmem, hadv, hhome, hret, hcmd, hhomes, hbmret⟩ := State.hbmRetireEnd_spec h hq
    refine ⟨_, rfl, hcores, hret, hcmd, hadv, hhomes, hhome, fun d => ?_, fun i j hi => ?_⟩
    · rw [hmem]
      exact s.hbmRetired_read a b d
    · rw [hbmret]
      exact s.hbmRetired_hbmret j ha hb

end Sys2Proof.Machine
end

section
/-! What module reset leaves. -/

namespace Sys2Proof.Machine
open Sys2Proof

/-- A table that holds its default throughout reads it at every number. -/
theorem getD_replicate_default {α : Type} (n i : Nat) (x : α) : (Vector.replicate n x).getD i x = x := by
  by_cases h : i < n <;> simp [Vector.getD, h]

/-- The fused section of a reticle without a defect passes its checks (rules R390, R391). -/
theorem mapSound_fusedWords : ∀ r < 48, mapSound r (fusedWords r) = true := by decide +kernel

namespace State

/-- No core has been acted on at reset: each is as reset leaves it. -/
theorem coreOf_reset (k : Nat) : State.reset.coreOf k = Core.reset k := by
  unfold coreOf
  split
  case isTrue h => exact congrArg Core.reset h
  case isFalse => rfl

theorem ret_reset (r : Nat) : State.reset.ret r = Reticle.reset r := by
  by_cases h : r < 48 <;> simp [ret, Vector.getD, reset, h]

theorem region_reset (r : Nat) : State.reset.region r = Region.reset := getD_replicate_default 16 r _
theorem part_reset (p : Nat) : State.reset.part p = Part.reset := getD_replicate_default 16 p _
theorem queue_reset (q : Nat) : State.reset.queue q = Queue.reset := getD_replicate_default 64 q _

end State

/-- Settles O58: every table reads its reset entry at every number. -/
theorem resetLeaves : Obligations.ResetLeaves := by
  unfold Obligations.ResetLeaves
  simp only [State.coreOf_reset, State.ret_reset, State.region_reset, State.part_reset, State.queue_reset]
  refine ⟨fun k x => ⟨rfl, rfl, rfl, rfl⟩, fun k r => ?_, fun k r => ?_, fun a => rfl,
    fun p => ⟨?_, rfl, rfl, fun i => getD_replicate_default 8 i _⟩, fun q => rfl, rfl, rfl, fun r => ⟨rfl, rfl, fun i h => ?_⟩,
    fun r => ⟨?_, rfl⟩, rfl, rfl, rfl, rfl, mapSound_fusedWords⟩
  · simp [Core.reset, Regs.reset, Regs.getS]
  · simp [Core.reset, Regs.reset, Regs.getV]
  · rw [State.partRegions, State.part_reset]
    rfl
  · simp [Region.reset, Vector.getD, h]
  · rw [State.loomOf, State.ret_reset]
    rfl

end Sys2Proof.Machine
end

section
/-! Local storage: the claims of loads, stores, broadcasts, gathers and scatters, and the watchpoint on a load. -/

namespace Sys2Proof.Machine
open Sys2Proof

/-- An LM instruction without a matching watchpoint records the claim of its access (rule R49). -/
theorem slotClaims_lm {i : Instr} {g : BitVec 4} {op off : Nat} {us : List (Nat × Nat)} {a : Action} {f : Core → Access} {s : State}
    (hu : s.unwatched) (hi : exec i s = issue i g (lmAccess op f) s) (hf : f s.core = { off := off, units := us, act := a, nan := none }) :
    slotClaims i g .lm off us a s :=
  slotClaims_of hi (by rw [lmAccess_unwatched op f s hu, hf])

/-! ### The watchpoint of a load -/

/-- The canonical form of an address aligned to 8 bytes is aligned (rules R16, R17, R47). -/
theorem alignTo_canon (a : Nat) : alignTo (canon (alignTo a 8)) 8 = canon (alignTo a 8) := by
  unfold canon alignTo; dsimp only; split <;> omega

/-- A window of 8 bytes at an aligned address, for reads of local space, matches a load of the 8 bytes, at its lowest (rule R367). -/
theorem watchHit_load {c : Core} {b : Word} {y : Nat} (hx : c.inX = false) (ht : c.inTrap = false) (hb : c.trap.wptb[0] = b)
    (hy : bits b 21 0 = y) (hm : c.trap.wptm[0] = 0xB000000000000003) (ha : alignTo y 8 = y) :
    watchHit c 61 22 [(y, 8)] [] = some (0, y) := by
  have hw : wptWindow b 0xB000000000000003#64 22 = some (y, 8) := by
    have hs : bits 0xB000000000000003#64 5 0 = 3 := by decide
    simp only [wptWindow, hs, hy]
    rw [if_neg (by decide), show (2 : Nat) ^ 3 = 8 from rfl, ha]
  have hl : lowestIn (y, 8) [(y, 8)] = some y := by simp [lowestIn]
  have hb0 : c.trap.wptb.getD 0 0 = b := by simpa [Vector.getD] using hb
  have hm0 : c.trap.wptm.getD 0 0 = 0xB000000000000003#64 := by simpa [Vector.getD] using hm
  have h60 : (0xB000000000000003#64).getLsbD 60 = true := by decide
  have h59 : (0xB000000000000003#64).getLsbD 59 = false := by decide
  rw [watchHit, hx, ht, if_neg (by decide), show List.range 2 = [0, 1] from rfl, List.findSome?_cons]
  dsimp only
  rw [hb0, hm0, if_neg (by decide), hw, h60, h59]
  simp [hl]

/-- Settles O9: each access is one claim behind the gate, and the watched load adds its cause. -/
theorem localAccessesComplete : Obligations.LocalAccessesComplete := by
  unfold Obligations.LocalAccessesComplete
  refine ⟨fun s o x hu => ?_, fun s o b hg hx ht => ?_⟩
  · exact ⟨slotClaims_lm hu rfl rfl, slotClaims_lm hu rfl rfl, slotClaims_lm hu rfl rfl, slotClaims_lm hu rfl rfl,
      slotClaims_lm hu rfl rfl, slotClaims_lm hu rfl rfl, slotClaims_lm hu rfl rfl, slotClaims_lm hu rfl rfl,
      slotClaims_lm hu rfl rfl, slotClaims_lm hu rfl rfl, slotClaims_lm hu rfl rfl, slotClaims_lm hu rfl rfl,
      slotClaims_lm hu rfl rfl, slotClaims_lm hu rfl rfl, slotClaims_lm hu rfl rfl, slotClaims_lm hu rfl rfl⟩
  · intro y hb hy hm
    have hhit : watchHit s.core 61 22 [(y, 8)] [] = some (0, y) := watchHit_load hx ht hb hy hm (alignTo_canon _)
    have hex : exec (.ldI64 o) s = .next (lmAccess 0x06 (fun c => ldAccess 8 false c o) s).close := issue_bundle _ _ _ _ hg
    have hlm : lmAccess 0x06 (fun c => ldAccess 8 false c o) s =
        (s.act (fun c => c.claim .lm 6 1 [(unitOf y, 1)] (.load y 8 false (physS s.core.reg.rotb o.d)) none)).watched 2
          (watchHit s.core 61 22 [(y, 8)] []) := rfl
    rw [hex, hlm, hhit, State.act_claim]
    exact ⟨_, _, ⟨rfl, rfl, rfl, rfl⟩, rfl, rfl, rfl, rfl, rfl, rfl, rfl⟩

/-! ### Gathers and scatters -/

theorem nodup_eraseDups {α : Type} [BEq α] [LawfulBEq α] : ∀ as : List α, as.eraseDups.Nodup
  | [] => List.nodup_nil
  | a :: as => by
    rw [List.eraseDups_cons, List.nodup_cons, List.mem_eraseDups]
    exact ⟨by simp, nodup_eraseDups _⟩
termination_by as => as.length
decreasing_by exact Nat.lt_succ_of_le (List.length_filter_le ..)

/-- The address of lane `i` in the words of rule R271. -/
def laneAddr (c : Core) (o : R3Ops) (n i : Nat) : Option Nat :=
  if (laneAt (8 * n) (c.rv o.b) i).msb then none
  else some (canon (((c.rs o.a).toNat + n * (laneAt (8 * n) (c.rv o.b) i).toNat) % 2 ^ 22 / n * n))

theorem laneAddrs_eq (c : Core) (o : R3Ops) (n : Nat) : laneAddrs c o n = (List.range (256 / n)).map (laneAddr c o n) := by
  unfold laneAddrs laneAddr alignTo
  dsimp only
  refine List.map_congr_left fun i _ => ?_
  rw [BitVec.msb_eq_getLsbD_last, ← BitVec.testBit_toNat, toNat_laneAt]

/-- The claim of a gather or scatter names the units of its active lanes, each once (rule R50). -/
theorem laneUnits_spec (c : Core) (o : R3Ops) (n : Nat) :
    (∀ u, u ∈ (laneUnits (laneAddrs c o n)).map (·, 3) ↔ ∃ i y, i < 256 / n ∧ laneAddr c o n i = some y ∧ u = (unitOf y, 3)) ∧
      ((laneUnits (laneAddrs c o n)).map (·, 3)).Nodup := by
  constructor
  · intro u
    simp only [laneAddrs_eq, laneUnits, List.mem_map, List.mem_eraseDups, List.mem_filterMap, id]
    constructor
    · rintro ⟨v, ⟨y, ⟨z, ⟨i, hi, rfl⟩, hy⟩, rfl⟩, rfl⟩
      exact ⟨i, y, List.mem_range.mp hi, hy, rfl⟩
    · rintro ⟨i, y, hi, hy, rfl⟩
      exact ⟨_, ⟨y, ⟨_, ⟨i, List.mem_range.mpr hi, rfl⟩, hy⟩, rfl⟩, rfl⟩
  · exact (nodup_eraseDups _).map fun a b h => congrArg Prod.fst h

/-- The elements of a scatter, lane by lane. -/
theorem scatterAccess_act (c : Core) (o : R3Ops) (n : Nat) : (scatterAccess n c o).act = .scatter ((List.range (256 / n)).filterMap
    fun i => (laneAddr c o n i).map fun y => (y, toBytes n (laneAt (8 * n) (c.rv o.d) i).toNat)) := by
  unfold scatterAccess
  dsimp only
  rw [laneAddrs_eq, List.length_map, List.length_range]
  congr 1
  refine List.filterMap_congr fun i hi => ?_
  rw [toNat_laneAt, List.getD_eq_getElem?_getD, List.getElem?_map, List.getElem?_range (List.mem_range.mp hi)]
  rfl

/-- A gather or scatter without a matching watchpoint records its claim. -/
theorem claims_lanes {i : Instr} {o : R3Ops} {op n : Nat} {a : Action} {f : Core → Access} {s : State} (hu : s.unwatched)
    (hi : exec i s = issue i o.g (lmAccess op f) s)
    (hf : f s.core = { off := 1, units := (laneUnits (laneAddrs s.core o n)).map (·, 3), act := a, nan := none }) (hg : s.issuing o.g) :
    ∃ k : Claim, k.of s .lm 1 ∧ k.act = a ∧
      (∀ u, u ∈ k.units ↔ ∃ j y, j < 256 / n ∧ laneAddr s.core o n j = some y ∧ u = (unitOf y, 3)) ∧ k.units.Nodup ∧
      exec i s = .next (s.claiming k).close := by
  obtain ⟨k, hk, hus, hact, hex⟩ := slotClaims_lm hu hi hf hg
  obtain ⟨hmem, hnodup⟩ := laneUnits_spec s.core o n
  exact ⟨k, hk, hact, hus ▸ hmem, hus ▸ hnodup, hex⟩

/-- Settles O10: each instruction's units and elements come from its lanes' addresses. -/
theorem gathersAndScattersComplete : Obligations.GathersAndScattersComplete := by
  unfold Obligations.GathersAndScattersComplete
  intro s o hu
  refine ⟨claims_lanes hu rfl ?_, claims_lanes hu rfl ?_, claims_lanes hu rfl ?_, claims_lanes hu rfl ?_⟩
  · rw [gatherAccess, laneAddrs_eq]; rfl
  · rw [gatherAccess, laneAddrs_eq]; rfl
  · exact congrArg (Access.mk 1 _ · none) (scatterAccess_act s.core o 4)
  · exact congrArg (Access.mk 1 _ · none) (scatterAccess_act s.core o 2)

/-! ### Matrix instructions -/

theorem drainBytes_eq (f : Word32) : drainBytes f =
    if fmtType f = 3 then 256 else if fmtType f = 1 ∨ fmtType f = 2 then 128 else if fmtPack f then 32 else 64 := by
  unfold drainBytes drainSlot narrowSlot
  split
  case h_1 h => simp [h]
  case h_2 h => simp [h]
  case h_3 h => simp [h]
  case h_4 h1 h2 h3 =>
    rw [if_neg h3, if_neg (not_or.mpr ⟨h1, h2⟩)]
    split <;> rfl

theorem drainSlot_le (f : Word32) : drainSlot f ≤ 32 := by
  have h := drainBytes_eq f
  unfold drainBytes at h
  split at h
  · omega
  · split at h
    · omega
    · split at h <;> omega

/-- The claim of a drain. -/
def drainClaim (o : MdOps) (c : Core) : Claim :=
  { due := c.ctl.cc + 10, issued := c.ctl.cc, slot := Slot.mx.num, cba := c.ctl.pc, op := 0x03
    units := (drainAccess c o).units, act := (drainAccess c o).act, nan := none }

/-- A drain's mark lands with its bytes when they hold a NaN (rule R301). -/
def drainMark (o : MdOps) (c : Core) : List Landing :=
  if (drainAccess c o).nan.isSome then
    [{ due := c.ctl.cc + 10, issued := c.ctl.cc, slot := Slot.mx.num, cba := c.ctl.pc, op := 0x03
       eff := .mark, nan := (drainAccess c o).nan }]
  else []

/-- With zr = 1 a drain's set becomes +0 for the next core cycle (rule R298). -/
def drainZero (o : MdOps) (c : Core) : List Landing :=
  if o.zr = 1 then
    [{ due := c.ctl.cc + 1, issued := c.ctl.cc, slot := Slot.mx.num, cba := c.ctl.pc, op := 0x03
       eff := .accZero (1 <<< o.acc.toNat), nan := none }]
  else []

theorem drainEffect_eq (o : MdOps) (c : Core) : drainEffect o c = { c with ctl := { c.ctl with
    claims := c.ctl.claims ++ [drainClaim o c], lands := c.ctl.lands ++ drainMark o c ++ drainZero o c } } := by
  unfold drainEffect drainMark drainZero
  dsimp only
  split
  · split
    · rfl
    · rw [List.append_nil]; rfl
  · rw [List.append_nil]
    split
    · rfl
    · rw [List.append_nil]; rfl

theorem eff_of_mem_drainMark {o : MdOps} {c : Core} {l : Landing} (h : l ∈ drainMark o c) : l.eff = .mark := by
  unfold drainMark at h
  split at h
  · rw [List.mem_singleton.mp h]
  · cases h

theorem drainZero_of_one {o : MdOps} (c : Core) (h : o.zr = 1) : drainZero o c =
    [{ due := c.ctl.cc + 1, issued := c.ctl.cc, slot := Slot.mx.num, cba := c.ctl.pc, op := 0x03
       eff := .accZero (1 <<< o.acc.toNat), nan := none }] := if_pos h

theorem mem_drainZero {o : MdOps} {c : Core} {l : Landing} (h : l ∈ drainZero o c) :
    o.zr = 1 ∧ l.eff = .accZero (1 <<< o.acc.toNat) := by
  unfold drainZero at h
  split at h
  case isTrue hz => exact ⟨hz, by rw [List.mem_singleton.mp h]⟩
  case isFalse => cases h

/-- An MX instruction that only claims records the claim of its access (rule R49). -/
theorem slotClaims_mx {i : Instr} {g : BitVec 4} {op off : Nat} {us : List (Nat × Nat)} {a : Action} (f : Core → Access) {s : State}
    (hi : exec i s = issue i g (fun s => s.act (mxAccess op (f s.core))) s)
    (ho : (f s.core).off = off) (hu : (f s.core).units = us) (ha : (f s.core).act = a) : slotClaims i g .mx off us a s := by
  subst ho hu ha
  exact slotClaims_of hi rfl

/-- Settles O16: each access is one claim behind the gate; a drain adds what `drainEffect_eq` lists. -/
theorem matrixInstructionsComplete : Obligations.MatrixInstructionsComplete := by
  unfold Obligations.MatrixInstructionsComplete
  refine ⟨fun s o l b q => ⟨slotClaims_mx (startAccess · o) (Eq.refl (execMmStart o s)) rfl rfl rfl,
      slotClaims_mx (startLtAccess · l) (Eq.refl (execMmStartLt l s)) rfl rfl rfl,
      slotClaims_mx (ldbAccess · b) (Eq.refl (execMmLdb b s)) rfl rfl rfl,
      slotClaims_mx (sclAccess · q) (Eq.refl (execMmScl q s)) rfl rfl rfl⟩,
    fun s o z c => ⟨slotGives_of (eff := fun s => s.act (fun c => c.land .mx 0x04 1 (.accZero z.mask))) rfl rfl,
      slotGives_of (eff := fun s => s.act (fun d => d.land .mx 0x05 1 (.sysw 0x080 (d.rs c.a)))) rfl rfl,
      fun hg => ?_, fun m x f => ⟨drainBytes_eq f, fun e he => ?_⟩⟩⟩
  · have hex : exec (.mmDrain o) s = .next (s.act (drainEffect o)).close :=
      issue_bundle (.mmDrain o) o.g (fun s => s.act (drainEffect o)) s hg
    have hcore : (s.act (drainEffect o)).core = drainEffect o s.core := rfl
    refine ⟨drainClaim o s.core, _, ⟨rfl, rfl, rfl, rfl⟩, rfl, rfl, hex, ?_⟩
    rw [hcore, drainEffect_eq]
    refine ⟨rfl, rfl, rfl, rfl, rfl, rfl, rfl, fun l hl => ?_, ?_⟩
    · rcases List.mem_append.mp hl with h | h
      · exact (List.mem_append.mp h).imp_right fun h => .inl (eff_of_mem_drainMark h)
      · exact .inr (.inr (mem_drainZero h).2)
    · constructor
      · rintro ⟨l, hl, hof, he⟩
        rcases List.mem_append.mp hl with h | h
        · rcases List.mem_append.mp h with h | h
          · exact .inr ⟨l, h, hof, he⟩
          · exact nomatch (eff_of_mem_drainMark h).symm.trans he
        · exact .inl (mem_drainZero h).1
      · rintro (hz | ⟨l, hl, hof, he⟩)
        · have hone := drainZero_of_one s.core hz
          exact ⟨_, List.mem_append_right _ (hone ▸ List.mem_singleton.mpr rfl), ⟨rfl, rfl, rfl, rfl⟩, rfl⟩
        · exact ⟨l, List.mem_append_left _ (List.mem_append_left _ hl), hof, he⟩
  · have := drainSlot_le f
    rw [drainData, laneAt_ofLanes _ _ _ _ he (by omega), toNat_laneAt]

end Sys2Proof.Machine
end

section
/-! Error checks of local words and of IMEM lines: what a check counts, queues and reports. -/

namespace Sys2Proof.Machine
open Sys2Proof

/-! ### MEMERR and CARDERR -/

/-- MEMERR describes an uncorrectable error that `agent` has found (rule R69). -/
def ueFound (w : Word) (agent : Nat) (im : Bool) : Prop :=
  w.getLsbD 31 = true ∧ bits w 30 28 = agent ∧ w.getLsbD 27 = im

theorem memErrUe_found (w : Word) {agent : Nat} (im : Bool) (word : Nat) (h : agent < 8) : ueFound (memErrUe w agent im word) agent im := by
  unfold memErrUe ueFound
  refine ⟨?_, ?_, ?_⟩
  · rw [getLsbD_setBits _ _ _ _ _ (by decide), if_neg (by omega), getLsbD_setBits _ _ _ _ _ (by decide), if_neg (by omega),
      getLsbD_setBits _ _ _ _ _ (by decide), if_neg (by omega), getLsbD_setBits _ _ _ _ _ (by decide), if_pos (by omega)]
    rfl
  · rw [bits_setBits_ne _ _ _ _ _ _ (by decide) (by omega), bits_setBits_ne _ _ _ _ _ _ (by decide) (by omega),
      bits_setBits _ _ _ _ (by decide)]
    exact Nat.mod_eq_of_lt h
  · rw [getLsbD_setBits _ _ _ _ _ (by decide), if_neg (by omega), getLsbD_setBits _ _ _ _ _ (by decide), if_pos (by omega)]
    cases im <;> rfl

theorem memErrCe_found {w : Word} {agent : Nat} {im : Bool} (h : ueFound w agent im) : ueFound (memErrCe w) agent im := by
  obtain ⟨h31, hagent, h27⟩ := h
  unfold memErrCe
  refine ⟨?_, ?_, ?_⟩
  · rwa [getLsbD_setBits _ _ _ _ _ (by decide), if_neg (by omega)]
  · rwa [bits_setBits_ne _ _ _ _ _ _ (by decide) (by omega)]
  · rwa [getLsbD_setBits _ _ _ _ _ (by decide), if_neg (by omega)]

/-- CARDERR holds an error, and describes one of `op` and `kind` where none stood before (rule R127). -/
def cardErrHolds (old now : Word) (op kind : Nat) : Prop :=
  now.getLsbD 63 = true ∧ (old.getLsbD 63 = false → bits now 62 60 = op ∧ bits now 59 56 = kind)

/-- The fields of CARDERR after an error (rule R127). -/
theorem cardErrAdd_fields (w : Word) {op kind tok handle : Nat} (ho : op < 8) (hk : kind < 16) (ht : tok < 8) (hh : handle < 2 ^ 16) :
    let e := cardErrAdd w op kind tok handle
    e.getLsbD 63 = true ∧ bits e 15 0 = min 0xFFFF (bits w 15 0 + 1) ∧
      (w.getLsbD 63 = false → bits e 62 60 = op ∧ bits e 59 56 = kind ∧ bits e 55 53 = tok ∧ bits e 47 32 = handle) ∧
      (w.getLsbD 63 = true → bits e 62 16 = bits w 62 16) := by
  have hn : min 0xFFFF (bits w 15 0 + 1) < 2 ^ 16 := by omega
  unfold cardErrAdd
  dsimp only
  split
  case isTrue h =>
    refine ⟨?_, ?_, fun g => absurd (h.symm.trans g) nofun, fun _ => bits_setBits_ne _ _ _ _ _ _ (by decide) (.inr (by decide))⟩
    · rwa [getLsbD_setBits _ _ _ _ _ (by decide), if_neg (by omega)]
    · rw [bits_setBits _ _ _ _ (by decide)]
      exact Nat.mod_eq_of_lt hn
  case isFalse h =>
    refine ⟨?_, ?_, fun _ => ⟨?_, ?_, ?_, ?_⟩, fun g => absurd g h⟩
    · simp [getLsbD_atBit]
    · simp only [bits_or, bits_atBit_above _ _ _ _ (show 15 < 63 by decide), bits_atBit_above _ _ _ _ (show 15 < 60 by decide),
        bits_atBit_above _ _ _ _ (show 15 < 56 by decide), bits_atBit_above _ _ _ _ (show 15 < 53 by decide),
        bits_atBit_above _ _ _ _ (show 15 < 32 by decide), bits_atBit _ 15 0 (by decide) hn, Nat.zero_or]
    · simp only [bits_or, bits_atBit_above _ _ _ _ (show 62 < 63 by decide), bits_atBit op 62 60 (by decide) ho,
        bits_atBit_below _ 4 56 62 60 hk (by decide), bits_atBit_below _ 3 53 62 60 ht (by decide),
        bits_atBit_below _ 16 32 62 60 hh (by decide), bits_atBit_below _ 16 0 62 60 hn (by decide), Nat.zero_or, Nat.or_zero]
    · simp only [bits_or, bits_atBit_above _ _ _ _ (show 59 < 63 by decide), bits_atBit_above _ _ _ _ (show 59 < 60 by decide),
        bits_atBit kind 59 56 (by decide) hk, bits_atBit_below _ 3 53 59 56 ht (by decide),
        bits_atBit_below _ 16 32 59 56 hh (by decide), bits_atBit_below _ 16 0 59 56 hn (by decide), Nat.zero_or, Nat.or_zero]
    · simp only [bits_or, bits_atBit_above _ _ _ _ (show 55 < 63 by decide), bits_atBit_above _ _ _ _ (show 55 < 60 by decide),
        bits_atBit_above _ _ _ _ (show 55 < 56 by decide), bits_atBit tok 55 53 (by decide) ht,
        bits_atBit_below _ 16 32 55 53 hh (by decide), bits_atBit_below _ 16 0 55 53 hn (by decide), Nat.zero_or, Nat.or_zero]
    · simp only [bits_or, bits_atBit_above _ _ _ _ (show 47 < 63 by decide), bits_atBit_above _ _ _ _ (show 47 < 60 by decide),
        bits_atBit_above _ _ _ _ (show 47 < 56 by decide), bits_atBit_above _ _ _ _ (show 47 < 53 by decide),
        bits_atBit handle 47 32 (by decide) hh, bits_atBit_below _ 16 0 47 32 hn (by decide), Nat.zero_or, Nat.or_zero]

theorem cardErrAdd_holds (w : Word) {op kind : Nat} (ho : op < 8) (hk : kind < 16) :
    cardErrHolds w (cardErrAdd w op kind 0 0) op kind := by
  obtain ⟨hv, -, hfields, -⟩ := cardErrAdd_fields w ho hk (show 0 < 8 by decide) (show 0 < 2 ^ 16 by decide)
  exact ⟨hv, fun h => ⟨(hfields h).1, (hfields h).2.1⟩⟩

/-- A further error leaves the first one described (rule R127). -/
theorem cardErrHolds_add {old now : Word} {op kind : Nat} (h : cardErrHolds old now op kind) (ho : op < 8) (hk : kind < 16) :
    cardErrHolds old (cardErrAdd now op kind 0 0) op kind := by
  obtain ⟨hv, hfirst⟩ := h
  have heq : cardErrAdd now op kind 0 0 = setBits now 15 0 (min 0xFFFF (bits now 15 0 + 1)) := if_pos hv
  refine ⟨(cardErrAdd_holds now ho hk).1, fun g => ?_⟩
  obtain ⟨hop, hkind⟩ := hfirst g
  rw [heq, bits_setBits_ne _ _ _ _ _ _ (by decide) (.inr (by decide)), bits_setBits_ne _ _ _ _ _ _ (by decide) (.inr (by decide))]
  exact ⟨hop, hkind⟩

namespace Core

/-! ### What a check leaves of the core -/

/-- Only error records have changed, and no queued write-back has left its queue. -/
def checked (c d : Core) : Prop :=
  d = { c with
    sys := { c.sys with memerr := d.sys.memerr, carderr := d.sys.carderr }
    aux := { c.aux with memNew := d.aux.memNew, fixes := d.aux.fixes } } ∧ c.aux.fixes ⊆ d.aux.fixes

theorem checked_refl (c : Core) : c.checked c := ⟨rfl, fun _ h => h⟩

theorem checked_trans {a b c : Core} (h : a.checked b) (g : b.checked c) : a.checked c := by
  obtain ⟨hb, hfix⟩ := h
  obtain ⟨hc, gfix⟩ := g
  refine ⟨?_, fun _ hx => gfix (hfix hx)⟩
  rw [hc, hb]

theorem memUe_checked (c : Core) (agent : Nat) (im : Bool) (w : Nat) : c.checked (c.memUe agent im w) := ⟨rfl, fun _ h => h⟩
theorem memUe_found (c : Core) {agent : Nat} (im : Bool) (w : Nat) (h : agent < 8) : ueFound (c.memUe agent im w).sys.memerr agent im :=
  memErrUe_found _ im w h
theorem memCe_checked (c : Core) : c.checked c.memCe := ⟨rfl, fun _ h => h⟩

theorem addFix_checked (c : Core) (u w : Nat) : c.checked (c.addFix u w) := by
  unfold addFix
  split
  · exact c.checked_refl
  · exact ⟨rfl, List.subset_append_left _ _⟩

/-- The word is queued for its write-back (rules R66, R68). -/
def queued (c : Core) (u w : Nat) : Prop := ∃ f ∈ c.aux.fixes, f.unit = u ∧ f.word = w

theorem addFix_queued (c : Core) (u w : Nat) : (c.addFix u w).queued u w := by
  unfold addFix
  split
  case isTrue h => simpa [queued] using h
  case isFalse => exact ⟨_, List.mem_append_right _ (List.mem_singleton.mpr rfl), rfl, rfl⟩

theorem queued_checked {c d : Core} (h : c.checked d) {u w : Nat} (g : c.queued u w) : d.queued u w := by
  obtain ⟨f, hf, hu, hw⟩ := g
  exact ⟨f, h.2 hf, hu, hw⟩

/-- A property of a fold's result that a step on `x` makes true and that no step makes false. -/
theorem foldl_of_mem {α β : Type} {f : β → α → β} {P : β → Prop} (hkeep : ∀ b a, P b → P (f b a)) {x : α} {xs : List α} (hx : x ∈ xs)
    (hmake : ∀ b, P (f b x)) (b : β) : P (xs.foldl f b) := by
  obtain ⟨pre, post, rfl⟩ := List.append_of_mem hx
  rw [List.foldl_append, List.foldl_cons]
  exact List.foldlRecOn (motive := P) _ _ (hmake _) fun b h a _ => hkeep b a h

theorem foldl_checked {α : Type} {f : Core → α → Core} (hf : ∀ (c : Core) a, c.checked (f c a)) (c : Core) (xs : List α) :
    c.checked (xs.foldl f c) :=
  List.foldlRecOn (motive := c.checked) _ _ c.checked_refl fun _ h a _ => checked_trans h (hf _ a)

/-! ### The fetch port (rules R63, R65, R66) -/

/-- The fetch port's checks of a line, before the port is marked as used. -/
def lineChecks (c : Core) (n : Nat) : Core :=
  ((lineWords n).filter c.mem.imemBad.contains).foldl (fun c w => c.memUe 4 true w)
    (((lineWords n).filter c.mem.imemSoft.contains).foldl (fun c w => c.memCe.addFix 10 w) c)

theorem checkLine_eq (c : Core) (n : Nat) :
    c.checkLine n = { c.lineChecks n with ctl := { (c.lineChecks n).ctl with fetched := true } } := rfl

theorem memCe_addFix_checked (c : Core) (u w : Nat) : c.checked (c.memCe.addFix u w) :=
  checked_trans c.memCe_checked (c.memCe.addFix_checked u w)

theorem lineChecks_checked (c : Core) (n : Nat) : c.checked (c.lineChecks n) :=
  checked_trans (foldl_checked (fun c w => c.memCe_addFix_checked 10 w) _ _) (foldl_checked (fun c w => c.memUe_checked 4 true w) _ _)

theorem mem_lineWords {n w : Nat} : w ∈ lineWords n ↔ ∃ i < 4, w = 4 * n + i := by
  simp [lineWords, eq_comm]

/-- A correctable word of a fetched line is queued. -/
theorem lineChecks_queued {c : Core} {n i : Nat} (hi : i < 4) (hs : c.mem.imemSoft.contains (4 * n + i) = true) :
    (c.lineChecks n).queued 10 (4 * n + i) := by
  refine queued_checked (foldl_checked (fun c w => c.memUe_checked 4 true w) _ _) ?_
  refine foldl_of_mem (P := fun c => c.queued 10 (4 * n + i)) (fun d w h => queued_checked (d.memCe_addFix_checked 10 w) h)
    (List.mem_filter.mpr ⟨mem_lineWords.mpr ⟨i, hi, rfl⟩, hs⟩) (fun d => d.memCe.addFix_queued 10 _) c

theorem imemLine_poison_iff {c : Core} {n : Nat} :
    (c.imemLine n).poison = true ↔ ∃ w ∈ lineWords n, c.mem.imemBad.contains w = true := by
  simp [imemLine, lineWords]

/-- A poisoned line is described in MEMERR as found by fetch. -/
theorem lineChecks_found {c : Core} {n : Nat} (h : (c.imemLine n).poison = true) : ueFound (c.lineChecks n).sys.memerr 4 true := by
  obtain ⟨w, hw, hbad⟩ := imemLine_poison_iff.mp h
  exact foldl_of_mem (P := fun d : Core => ueFound d.sys.memerr 4 true) (fun d w _ => d.memUe_found true w (by decide))
    (List.mem_filter.mpr ⟨hw, hbad⟩) (fun d => d.memUe_found true w (by decide)) _

/-- A line that is not buffered joins the buffer while there is room (rule R63). -/
theorem fetchInto_eq {c : Core} {n : Nat} (hn : c.ctl.fbuf.any (fun l => l.num == n) = false) (hr : c.ctl.fbuf.length < 4) :
    c.fetchInto n = { c.lineChecks n with ctl := { c.ctl with fbuf := c.ctl.fbuf ++ [c.imemLine n], fetched := true } } := by
  have hctl : (c.lineChecks n).ctl = c.ctl := by rw [(c.lineChecks_checked n).1]
  rw [fetchInto, hn, if_neg (by decide), checkLine_eq, hctl, List.take_of_length_le (by simpa using hr)]

/-- A line just fetched is served from the buffer. -/
theorem lineAt_of_append {c : Core} {n : Nat} {ls : List Line} (hn : ls.any (fun l => l.num == n) = false) {l : Line} (hl : l.num = n)
    (hc : c.ctl.fbuf = ls ++ [l]) : c.lineAt n = l := by
  have hnone : ls.find? (fun l => l.num == n) = none := by
    rw [List.find?_eq_none]
    simpa using hn
  rw [lineAt, hc, List.find?_append, hnone]
  simp [hl]

end Core

namespace State

theorem readLine_sound {v : State} {n : Nat} (hn : v.core.ctl.fbuf.any (fun l => l.num == n) = false)
    (hp : (v.core.imemLine n).poison = false) : v.readLine n = v.act (fun c => c.fetchInto n) := by
  have hnone : (Core.lineWords n).find? v.core.mem.imemBad.contains = none := by
    rw [List.find?_eq_none]
    intro w hw hbad
    rw [Core.imemLine_poison_iff.mpr ⟨w, hw, hbad⟩] at hp
    cases hp
  rw [readLine]
  dsimp only
  rw [hn, if_neg (by decide), hnone]

/-- A poisoned line is logged once, and its reload is due later unless one is under way or a code-load card wrote it (rule R370). -/
theorem readLine_poisoned {v : State} {n : Nat} (hn : v.core.ctl.fbuf.any (fun l => l.num == n) = false)
    (hp : (v.core.imemLine n).poison = true) : ∃ (w : Nat) (more : List (Nat × Nat)),
    v.readLine n = ((v.act (fun c => c.fetchInto n)).act
      (fun c => { c with mem := { c.mem with reload := c.mem.reload ++ more } })).drawn.note v.core.idx
        (.log (logLocal false v.core.idx 4 true w)) ∧
    more = if v.core.mem.codeLines.contains n || v.core.mem.reload.any (fun e => e.1 == n) then []
      else [(n, v.cycle + 1 + v.free 4096)] := by
  obtain ⟨x, hx, hbad⟩ := Core.imemLine_poison_iff.mp hp
  obtain ⟨w, hw⟩ := Option.isSome_iff_exists.mp (List.find?_isSome.mpr ⟨x, hx, hbad⟩)
  refine ⟨w, _, ?_, rfl⟩
  rw [readLine]
  dsimp only
  rw [hn, if_neg (by decide), hw]

theorem readLine_reload {v : State} {n : Nat} (hn : v.core.ctl.fbuf.any (fun l => l.num == n) = false)
    (hp : (v.core.imemLine n).poison = true) : (v.readLine n).module.elogCount = v.module.elogCount + 1 ∧
    (v.readLine n).core.mem.reload = v.core.mem.reload ++
      if v.core.mem.codeLines.contains n || v.core.mem.reload.any (fun e => e.1 == n) then [] else [(n, v.cycle + 1 + v.free 4096)] := by
  obtain ⟨w, more, ht, rfl⟩ := readLine_poisoned hn hp
  refine ⟨by rw [ht]; rfl, ?_⟩
  have hmem : (v.core.fetchInto n).mem = v.core.mem := by
    rw [Core.fetchInto, hn, if_neg (by decide), Core.checkLine_eq, (v.core.lineChecks_checked n).1]
  rw [ht, note_frame]
  show (v.core.fetchInto n).mem.reload ++ _ = _
  rw [hmem]

/-- What fetch leaves of the part: its core has read the line, and the reloads it waits for may be more. -/
theorem readLine_frame {v : State} {n : Nat} (hn : v.core.ctl.fbuf.any (fun l => l.num == n) = false) :
    ∃ r : List (Nat × Nat), (v.readLine n).core = { v.core.fetchInto n with mem := { (v.core.fetchInto n).mem with reload := r } } ∧
      (v.readLine n).mem = v.mem ∧ (v.readLine n).others = v.others := by
  cases hp : (v.core.imemLine n).poison with
  | false =>
    rw [readLine_sound hn hp]
    exact ⟨_, rfl, rfl, rfl⟩
  | true =>
    obtain ⟨w, more, ht, -⟩ := readLine_poisoned hn hp
    rw [ht, note_frame]
    exact ⟨_, rfl, rfl, rfl⟩

end State

/-- Settles O31: the line's checks and the buffer are `fetchInto`'s; a poisoned line adds its reload and its entry in the log. -/
theorem fetchLineCompletes : Obligations.FetchLineCompletes := by
  unfold Obligations.FetchLineCompletes
  intro s v n
  have hread (h : ¬ 4 ≤ v.core.ctl.fbuf.length) : exec .fetchLine s = .next (v.readLine n) :=
    congrArg Host.Outcome.next (if_neg h)
  refine ⟨fun h => ?_, fun hn hr => ?_⟩
  · by_cases hfull : 4 ≤ v.core.ctl.fbuf.length
    · exact congrArg Host.Outcome.next (if_pos hfull)
    · rw [hread hfull]
      exact congrArg Host.Outcome.next (if_pos (h.resolve_right hfull))
  · obtain ⟨r, hcore, hmem, hothers⟩ := State.readLine_frame hn
    have hinto := Core.fetchInto_eq hn hr
    obtain ⟨hkept, -⟩ := v.core.lineChecks_checked n
    rw [hinto] at hcore
    have hctl : (v.readLine n).core.ctl = { v.core.ctl with fbuf := v.core.ctl.fbuf ++ [v.core.imemLine n], fetched := true } := by
      rw [hcore]
    have haux : (v.readLine n).core.aux = (v.core.lineChecks n).aux := by rw [hcore]
    have hsys : (v.readLine n).core.sys = (v.core.lineChecks n).sys := by rw [hcore]
    have hreload : (v.core.lineChecks n).mem = v.core.mem := by rw [hkept]
    refine ⟨v.readLine n, hread (by omega), hctl, ?_, ?_, ?_, ?_, hmem, hothers, fun i hi hs => ?_, fun hp => State.readLine_sound hn hp,
      fun hp => ?_, fun hp => ?_⟩
    · exact Core.lineAt_of_append hn rfl (by rw [hctl])
    · rw [hcore, hkept]
    · rw [hcore, hkept]
    · rw [hcore, hkept]
    · rw [haux]
      exact Core.lineChecks_queued hi hs
    · obtain ⟨hlog, hr⟩ := State.readLine_reload hn hp
      refine ⟨hlog, fun hk => ?_, fun hk => ⟨v.cycle + 1 + v.free 4096, ?_, ?_⟩⟩
      · rw [hr, if_pos hk, List.append_nil]
      · have : v.cycle = s.cycle := s.ownCore_cycle
        omega
      · rw [hr, if_neg (by rw [hk]; decide)]
    · rw [hsys]
      exact Core.lineChecks_found hp

end Sys2Proof.Machine
end

section
/-! Late writes: what performing them leaves of the part, and the prefetch of the deck. -/

namespace Sys2Proof.Machine
open Sys2Proof

/-- Only the core's run signature has changed (rule R417). -/
def Core.signed (c d : Core) : Prop := d = { c with sys := { c.sys with sig := d.sys.sig } }

theorem Core.signed_refl (c : Core) : c.signed c := rfl
theorem Core.signed_trans {a b c : Core} (h : a.signed b) (g : b.signed c) : a.signed c := by
  unfold Core.signed at h g ⊢
  rw [g, h]

theorem Core.sign_signed (c : Core) (sp : Nat) (ws : List (Nat × Byte)) : c.signed (c.sign sp ws) := by
  unfold sign
  split <;> rfl

namespace State

/-- Late writes have been performed: off-wafer memory, the writes on their way, the companion's copies and signatures have changed alone. -/
def performed (s t : State) : Prop :=
  t = { s with core := t.core, others := t.others, mem := t.mem, poison := t.poison, late := t.late, mirrored := t.mirrored } ∧
    s.core.signed t.core ∧ ∀ k, (s.coreOf k).signed (t.coreOf k)

theorem performed_refl (s : State) : s.performed s := ⟨rfl, rfl, fun _ => rfl⟩

theorem performed_trans {s t u : State} (h : s.performed t) (g : t.performed u) : s.performed u := by
  obtain ⟨ht, hcore, hall⟩ := h
  obtain ⟨hu, gcore, gall⟩ := g
  refine ⟨?_, Core.signed_trans hcore gcore, fun k => Core.signed_trans (hall k) (gall k)⟩
  rw [hu, ht]

theorem foldl_performed {α : Type} {f : State → α → State} (hf : ∀ (s : State) a, s.performed (f s a)) (s : State) (xs : List α) :
    s.performed (xs.foldl f s) :=
  List.foldlRecOn (motive := s.performed) _ _ s.performed_refl fun _ h a _ => performed_trans h (hf _ a)

theorem onCore_sign_performed (s : State) (k sp : Nat) (ws : List (Nat × Byte)) : s.performed (s.onCore k (fun c => c.sign sp ws)) := by
  have hidx (c : Core) : (c.sign sp ws).idx = c.idx := by rw [c.sign_signed sp ws]
  refine ⟨?_, ?_, fun j => ?_⟩
  · unfold onCore putCore
    split <;> rfl
  · unfold onCore putCore
    split
    · next h =>
      rw [hidx, coreOf_idx] at h
      rw [coreOf, if_pos h]
      exact s.core.sign_signed sp ws
    · rfl
  · rw [coreOf_onCore s k _ hidx]
    split
    · next h => subst h; exact Core.sign_signed ..
    · rfl

theorem performOne_performed (s : State) (w : LateWrite) : s.performed (s.performOne w) := by
  have hset (t : State) (h : t = { s with mem := t.mem, poison := t.poison, late := t.late, mirrored := t.mirrored }) :
      s.performed t := by rw [h]; exact ⟨rfl, rfl, fun _ => rfl⟩
  have hsign (t : State) (h : t = { s with mem := t.mem, poison := t.poison, late := t.late, mirrored := t.mirrored }) :
      s.performed (t.onCore w.core (fun c => c.sign 1 w.terms)) := performed_trans (hset t h) (onCore_sign_performed ..)
  unfold performOne
  dsimp only
  split
  · split
    · split
      · exact hset _ rfl
      · exact hsign _ rfl
    · exact hsign _ rfl
  · exact hsign _ rfl

theorem performLate_performed (s : State) (w : LateWrite) : s.performed (s.performLate w) := by
  have h : s.performed (if w.link.isSome then
      ((s.onLinks w.granule).filter (fun v => v.link != w.link && !v.seenBy.isEmpty)).foldl performOne s else s) := by
    split
    · exact foldl_performed performOne_performed _ _
    · exact s.performed_refl
  unfold performLate
  extract_lets s1
  have hs1 : s.performed s1 := h
  split
  · exact performed_trans hs1 (performOne_performed ..)
  · exact hs1

theorem performAll_performed (s : State) (p : LateWrite → Bool) : s.performed (s.performAll p) :=
  foldl_performed performLate_performed _ _

theorem readFrom_performed (s : State) (core group granule : Nat) : s.performed (s.readFrom core group granule) := by
  unfold readFrom
  extract_lets mine s1 s2
  have h1 : s.performed s1 := performAll_performed ..
  split
  · exact s.performed_refl
  · split
    · exact h1
    · exact performed_trans (performed_trans h1 (performAll_performed ..)) ⟨rfl, rfl, fun _ => rfl⟩

/-- Where no write is on its way, none is performed. -/
theorem performAll_of_late {s : State} (h : s.late = []) (p : LateWrite → Bool) : s.performAll p = s := by
  rw [performAll, h]
  rfl

theorem readFrom_of_late {s : State} (h : s.late = []) (core group granule : Nat) : s.readFrom core group granule = s := by
  rw [readFrom, h]
  rfl

end State

end Sys2Proof.Machine
end

section
/-! The prefetch of the deck, and the words that it leaves in the engine's buffer. -/

namespace Sys2Proof.Machine
open Sys2Proof

/-! ### What fetches leave of the buffer -/

namespace State

/-- The engine's buffer keeps its words, and where no write was on its way, off-wafer memory is as it was. -/
def deckGrown (v u : State) : Prop :=
  v.core.aux.deck ⊆ u.core.aux.deck ∧ (v.late = [] → u.mem = v.mem ∧ u.late = [])

theorem deckGrown_of {v t u : State} (h : v.deckGrown t) (hdeck : u.core.aux.deck = t.core.aux.deck) (hl : t.lateKept u) :
    v.deckGrown u :=
  ⟨hdeck ▸ h.1, fun hv => ⟨hl.1.trans (h.2 hv).1, hl.2.trans (h.2 hv).2⟩⟩

theorem fetchError_lateKept (s : State) (a : Nat) : s.lateKept (s.fetchError a) :=
  markFor_lateKept (logEntry_lateKept s.lateKept_refl _ _) _

theorem markFor_core (s : State) (a : Nat) : (s.markFor a).core = s.core := by
  unfold markFor
  split <;> rfl

theorem translateFill_deck (s : State) (va : Nat) (need : Nat → Nat) (pins : Nat) :
    (s.translateFill va need pins).1.core.aux.deck = s.core.aux.deck := by
  unfold translateFill
  split
  · dsimp only
    split
    · rw [markFor_core, logEntry_core]
    · rfl
  · split
    · rfl
    · extract_lets u
      have hu : u.core = s.core := by
        dsimp only [u]
        split <;> rfl
      split
      · next hf =>
        obtain ⟨_, -, hv⟩ := Option.map_eq_some_iff.mp hf
        rw [← congrArg Prod.fst hv, act_core, hu]
      · rw [hu]

theorem readFrom_deckGrown {v s : State} (h : v.deckGrown s) (core group granule : Nat) :
    v.deckGrown (s.readFrom core group granule) := by
  obtain ⟨-, hcore, -⟩ := readFrom_performed s core group granule
  refine ⟨?_, fun hv => ?_⟩
  · rw [hcore]
    exact h.1
  · rw [readFrom_of_late (h.2 hv).2]
    exact h.2 hv

end State

section
variable {v : State}

theorem deckWord_deckGrown (va card : Nat) : (deckWord va card).Leaves v.deckGrown := by
  unfold deckWord
  refine Try.leaves_get fun p hp => ?_
  extract_lets s
  split
  · exact Try.leaves_pure _
  · refine Try.leaves_bind (Try.leaves_spend _) fun _ => ?_
    have ht : v.deckGrown (s.translateFetch va).1 :=
      State.deckGrown_of hp (State.translateFill_deck ..) (State.translateFill_lateKept s.lateKept_refl ..)
    generalize s.translateFetch va = t at ht
    obtain ⟨u, r⟩ := t
    refine Try.leaves_bind (Try.leaves_setState ht) fun _ => ?_
    split
    · exact Try.leaves_throw _
    · extract_lets a b
      have he : v.deckGrown (u.fetchError a) :=
        State.deckGrown_of ht (by rw [State.fetchError, State.markFor_core, State.logHome, State.logEntry_core]) (u.fetchError_lateKept a)
      have hr := State.readFrom_deckGrown ht u.core.idx 0 (a / 64)
      split
      · exact Try.leaves_bind (Try.leaves_setState he) fun _ => Try.leaves_throw _
      · split
        · exact Try.leaves_throw _
        · exact Try.leaves_bind (Try.leaves_setState ⟨List.Subset.trans hr.1 (List.subset_cons_self _ _), hr.2⟩) fun _ => Try.leaves_pure _

theorem deckWords_deckGrown (card : Nat) : ∀ vas : List Nat, (deckWords card vas).Leaves v.deckGrown
  | [] => Try.leaves_pure _
  | _ :: vas => Try.leaves_bind (deckWord_deckGrown _ card) fun _ =>
      Try.leaves_bind (deckWords_deckGrown card vas) fun _ => Try.leaves_pure _

theorem fetchHead_deckGrown : fetchHead.Leaves v.deckGrown := by
  unfold fetchHead
  refine Try.leaves_get fun p _ => ?_
  extract_lets s va
  split
  · exact Try.leaves_throw _
  · exact Try.leaves_bind (deckWords_deckGrown _ _) fun _ => Try.leaves_pure _

theorem fetchCards_deckGrown (h : DeckHead) : ∀ cs : List (Nat × Nat), (fetchCards h cs).Leaves v.deckGrown
  | [] => Try.leaves_pure _
  | (_, _) :: rest => Try.leaves_bind (deckWords_deckGrown _ _) fun _ =>
      Try.leaves_bind (fetchCards_deckGrown h rest) fun _ => Try.leaves_pure _

theorem deckSound_leaves {P : State → Prop} (ok : Bool) : (deckSound ok).Leaves P := by
  unfold deckSound
  split
  · exact Try.leaves_pure _
  · exact Try.leaves_get fun _ _ => Try.leaves_throw _

theorem fetchStage_deckGrown : fetchStage.Leaves v.deckGrown := by
  unfold fetchStage
  refine Try.leaves_bind fetchHead_deckGrown fun _ => Try.leaves_get fun p _ => Try.leaves_bind (deckWord_deckGrown _ _) fun _ => ?_
  exact Try.leaves_bind (fetchCards_deckGrown _ _) fun _ => Try.leaves_bind (deckSound_leaves _) fun _ => Try.leaves_pure _

end

namespace State

theorem signTaken_performed (v s : State) : s.performed (v.signTaken s) :=
  foldl_performed (fun _ _ => onCore_sign_performed ..) _ _

/-- What a preparation's fetches leave of the core: its caches, its buffer and its signature alone may differ. -/
theorem carry_core (u s : State) :
    (u.carry s).core = { s.core with
      sys := { s.core.sys with sig := (u.carry s).core.sys.sig }, aux := { s.core.aux with tlb := u.core.aux.tlb, deck := u.core.aux.deck } } := by
  obtain ⟨-, hcore, -⟩ := signTaken_performed u s
  have h : (u.carry s).core = { (u.signTaken s).core with
    aux := { (u.signTaken s).core.aux with tlb := u.core.aux.tlb, deck := u.core.aux.deck } } := rfl
  rw [h, hcore]

theorem carry_cards (u s : State) : (u.carry s).cards = s.cards := by
  obtain ⟨ht, -⟩ := signTaken_performed u s
  have h : (u.carry s).cards = (u.signTaken s).cards := rfl
  rw [h, ht]

/-- The prefetch adds words to the engine's buffer, and nothing that the core shows (rule R120; log entry 83). -/
theorem deckPrefetch_frame (v : State) :
    let t := deckPrefetch v
    t.core.reg = v.core.reg ∧ t.core.mem = v.core.mem ∧ t.core.ctl = v.core.ctl ∧
      t.core.sys = { v.core.sys with sig := t.core.sys.sig } ∧ t.core.trap = v.core.trap ∧ t.cards = v.cards ∧
      (v.late = [] → t.mem = v.mem ∧ t.core.sys = v.core.sys) ∧
      t.core.aux = { v.core.aux with tlb := t.core.aux.tlb, deck := t.core.aux.deck } ∧
      (∀ e ∈ v.core.aux.deck, e ∈ t.core.aux.deck) ∧ (v.core.sys.cardpos0.getLsbD 16 = true → t = v) := by
  unfold deckPrefetch
  split
  · exact ⟨rfl, rfl, rfl, rfl, rfl, rfl, fun _ => ⟨rfl, rfl⟩, rfl, fun _ h => h, fun _ => rfl⟩
  · next hpos =>
    obtain ⟨hdeck, hlate⟩ := fetchStage_deckGrown (v := v) { s := v, cost := .none } ⟨List.Subset.refl _, fun h => ⟨rfl, h⟩⟩
    generalize (fetchStage.upTo { s := v, cost := .none }).2.s = u at hdeck hlate
    have hcore := carry_core u v
    refine ⟨by rw [hcore], by rw [hcore], by rw [hcore], by rw [hcore], by rw [hcore], carry_cards u v, fun hv => ?_, by rw [hcore],
      by rw [hcore]; exact hdeck, fun h => absurd h hpos⟩
    obtain ⟨hmem, hl⟩ := hlate hv
    refine ⟨hmem, ?_⟩
    unfold carry
    rw [signTaken_of_late (hl.trans hv.symm)]

end State

/-! ### The words of a deck that one page covers -/

/-- A TLB entry without the stamp of its last use. -/
def TlbEntry.unstamped (e : TlbEntry) : TlbEntry := { e with used := 0 }

namespace State

/-- A page of the TLB covers what the core reads: no write is on its way, nothing is poisoned, and every way is open. -/
def covered (v : State) (e : TlbEntry) : Prop :=
  v.late = [] ∧ v.poison = [] ∧ v.tag ≠ 0 ∧ e.rd = true ∧
    ∀ a, inPage e.va e.size a = true → v.tlbHit a = some e ∧ v.wayOpen (e.leaf.addr a) = true

/-- The word that an address names through an entry. -/
def wordAt (v : State) (e : TlbEntry) (a : Nat) : Word := v.readWord (e.leaf.addr a)

/-- The engine has read words of the deck, each at an address of a list and with its value, and used TLB entries. -/
def deckRead (v : State) (word : Nat → Word) (as : List Nat) (u : State) : Prop :=
  u = { v with core := { v.core with aux := { v.core.aux with tlb := u.core.aux.tlb, deck := u.core.aux.deck } } } ∧
    u.core.aux.tlb.map TlbEntry.unstamped = v.core.aux.tlb.map TlbEntry.unstamped ∧
    ∀ x ∈ u.core.aux.deck, x.1 ∈ as ∧ x.2 = word x.1

theorem tlbHit_unstamped {u v : State} (htag : u.tag = v.tag)
    (h : u.core.aux.tlb.map TlbEntry.unstamped = v.core.aux.tlb.map TlbEntry.unstamped) (a : Nat) :
    (u.tlbHit a).map TlbEntry.unstamped = (v.tlbHit a).map TlbEntry.unstamped := by
  have hfind (s : State) : (s.tlbHit a).map TlbEntry.unstamped =
      (s.core.aux.tlb.map TlbEntry.unstamped).find? (fun e => e.tag == s.tag && !e.dying && inPage e.va e.size a) := by
    rw [List.find?_map]
    rfl
  rw [hfind, hfind, h, htag]

/-- A fetch through the covering entry gives its address, and stamps the entry as used. -/
theorem translateFetch_covered {v u : State} {e : TlbEntry} {word : Nat → Word} {as : List Nat} (hv : v.covered e)
    (hu : v.deckRead word as u) {a : Nat} (ha : inPage e.va e.size a = true) :
    ∃ t f i, u.translateFetch a = (t, .ok (e.leaf, f, i)) ∧ v.deckRead word as t ∧ t.core.aux.deck = u.core.aux.deck := by
  obtain ⟨-, -, htag, hrd, hcov⟩ := hv
  obtain ⟨heq, htlb, hdeck⟩ := hu
  have hut : u.tag = v.tag := by
    rw [heq]
    rfl
  obtain ⟨e', hhit, he'⟩ : ∃ e', u.tlbHit a = some e' ∧ e'.unstamped = e.unstamped := by
    have h := tlbHit_unstamped hut htlb a
    rw [(hcov a ha).1] at h
    exact Option.map_eq_some_iff.mp h
  have hleaf : e'.leaf = e.leaf := by
    have h : e'.unstamped.leaf = e.unstamped.leaf := by rw [he']
    exact h
  have hok : allows e.leaf.perms 1 = true := by
    simp only [allows, TlbEntry.leaf, TlbEntry.perms, hrd, Nat.and_one_is_mod, beq_iff_eq, Bool.toNat_true]
    omega
  have htr : u.translate a (fun _ => 1) = .ok (e.leaf, .tlb) := by
    rw [← hut] at htag
    simp only [translate, htag, hhit, hleaf, hok, if_true, if_false]
  refine ⟨u.useTlb e'.id 0, .tlb, some e'.id, ?_, ⟨?_, ?_, hdeck⟩, rfl⟩
  · simp only [translateFetch, translateFill, htr, hhit]
  · unfold useTlb act
    rw [heq]
  · rw [← htlb]
    unfold useTlb
    rw [act_core, List.map_map]
    refine List.map_congr_left fun x _ => ?_
    dsimp only [Function.comp]
    split <;> rfl

end State

/-- A step of a preparation goes on with a value, and its reads leave the words at given addresses in the buffer. -/
def Try.Reads {α : Type} (I : State → Prop) (word : Nat → Word) (as : List Nat) (x : Try α) (b : α) : Prop :=
  ∀ p : Prep, I p.s → ∃ q, x.upTo p = (.ok b, q) ∧ I q.s ∧ p.s.core.aux.deck ⊆ q.s.core.aux.deck ∧
    ∀ a ∈ as, (a, word a) ∈ q.s.core.aux.deck

/-- A step of a preparation, whether it goes on or fails, leaves the words at given addresses in the buffer. -/
def Try.Fetches {α : Type} (I : State → Prop) (word : Nat → Word) (as : List Nat) (x : Try α) : Prop :=
  ∀ p : Prep, I p.s → I (x.upTo p).2.s ∧ p.s.core.aux.deck ⊆ (x.upTo p).2.s.core.aux.deck ∧
    ∀ a ∈ as, (a, word a) ∈ (x.upTo p).2.s.core.aux.deck

section
variable {I : State → Prop} {word : Nat → Word}

theorem Try.reads_pure {α : Type} (b : α) : (pure b : Try α).Reads I word [] b :=
  fun p h => ⟨p, rfl, h, List.Subset.refl _, fun _ h => absurd h List.not_mem_nil⟩

theorem Try.reads_get {β : Type} {f : Prep → Try β} {as : List Nat} {b : β} (hf : ∀ p : Prep, I p.s → (f p).Reads I word as b) :
    (get >>= f : Try β).Reads I word as b := fun p h => hf p h p h

theorem Try.reads_bind {α β : Type} {x : Try α} {f : α → Try β} {as bs : List Nat} {a : α} {b : β} (hx : x.Reads I word as a)
    (hf : (f a).Reads I word bs b) : (x >>= f).Reads I word (as ++ bs) b := by
  intro p h
  obtain ⟨q, hq, hI, hsub, has⟩ := hx p h
  obtain ⟨r, hr, hJ, hsub', hbs⟩ := hf q hI
  refine ⟨r, by rw [upTo_bind, hq]; exact hr, hJ, List.Subset.trans hsub hsub', fun c hc => ?_⟩
  exact (List.mem_append.mp hc).elim (fun hc => hsub' (has c hc)) (hbs c)

theorem Try.fetches_bind {α β : Type} {x : Try α} {f : α → Try β} {as bs : List Nat} {a : α} (hx : x.Reads I word as a)
    (hf : (f a).Fetches I word bs) : (x >>= f).Fetches I word (as ++ bs) := by
  intro p h
  obtain ⟨q, hq, hI, hsub, has⟩ := hx p h
  obtain ⟨hJ, hsub', hbs⟩ := hf q hI
  have heq : (x >>= f).upTo p = (f a).upTo q := by rw [upTo_bind, hq]
  rw [heq]
  exact ⟨hJ, List.Subset.trans hsub hsub', fun c hc => (List.mem_append.mp hc).elim (fun hc => hsub' (has c hc)) (hbs c)⟩

theorem Try.fetches_get {β : Type} {f : Prep → Try β} {as : List Nat} (hf : ∀ p : Prep, I p.s → (f p).Fetches I word as) :
    (get >>= f : Try β).Fetches I word as := fun p h => hf p h p h

/-- A step that leaves every state as it was fetches nothing. -/
theorem Try.fetches_of_leaves {α : Type} {x : Try α} (hx : ∀ s, x.Leaves (· = s)) : x.Fetches I word [] := by
  intro p h
  rw [hx p.s p rfl]
  exact ⟨h, List.Subset.refl _, fun _ h => absurd h List.not_mem_nil⟩

end

section
variable {v : State} {e : TlbEntry} {as : List Nat} (hv : v.covered e) (has : ∀ a ∈ as, inPage e.va e.size a = true)
include hv has

/-- One word of a covered deck: the engine has it, or reads it now. -/
theorem deckWord_reads {a : Nat} (ha : a ∈ as) (card : Nat) :
    (deckWord a card).Reads (v.deckRead (v.wordAt e) as) (v.wordAt e) [a]
      (v.wordAt e a) := by
  intro p hp
  have hp' := hp
  obtain ⟨heq, -, hdeck⟩ := hp
  cases hf : p.s.core.aux.deck.find? (fun x => x.1 == a) with
  | some x =>
    have hmem := List.mem_of_find?_eq_some hf
    have hx : x.1 = a := by simpa using List.find?_some hf
    have hval : x.2 = v.wordAt e a := hx ▸ (hdeck x hmem).2
    refine ⟨p, ?_, hp', List.Subset.refl _, fun b hb => ?_⟩
    · show ((match p.s.core.aux.deck.find? (fun x => x.1 == a) with | some e => pure e.2 | none => _ : Try Word)).upTo p = _
      rw [hf, ← hval]
      rfl
    · rw [List.mem_singleton.mp hb]
      exact (Prod.ext hx hval : x = (a, v.wordAt e a)) ▸ hmem
  | none =>
    obtain ⟨t, f, i, htr, ht, htd⟩ := State.translateFetch_covered hv hp' (has a ha)
    obtain ⟨hlate, hpoison, -, -, hcov⟩ := hv
    obtain ⟨hteq, httlb, htdeck⟩ := ht
    have hl : t.late = [] := by rw [hteq]; exact hlate
    have hbe : t.behind t.core.idx (e.leaf.addr a / 64) = t := State.performAll_of_late hl _
    have hrf : t.readFrom t.core.idx 0 (e.leaf.addr a / 64) = t := State.readFrom_of_late hl ..
    have hps : t.poisoned (e.leaf.addr a) = false := by
      rw [State.poisoned, hteq]
      dsimp only
      rw [hpoison]
      rfl
    have hway : t.wayOpen (e.leaf.addr a) = true := by
      rw [hteq]
      exact (hcov a (has a ha)).2
    have hword : t.readWord (e.leaf.addr a) = v.wordAt e a := by
      rw [hteq]
      rfl
    refine ⟨{ s := t.act (fun c => { c with aux := { c.aux with deck := (a, v.wordAt e a) :: c.aux.deck } })
              cost := { p.cost with deck := p.cost.deck + 1 } }, ?_, ⟨?_, httlb, fun x hx => ?_⟩, ?_, fun b hb => ?_⟩
    · unfold deckWord
      show ((match p.s.core.aux.deck.find? (fun x => x.1 == a) with | some e => pure e.2 | none => _ : Try Word)).upTo p = _
      rw [hf]
      simp only [htr]
      show ((if (t.behind t.core.idx (e.leaf.addr a / 64)).poisoned (e.leaf.addr a) then _ else _ : Try Word)).upTo _ = _
      rw [hbe, hps, hway, hrf, hword]
      rfl
    · unfold State.act
      rw [hteq]
    · rcases List.mem_cons.mp hx with rfl | hx
      · exact ⟨ha, rfl⟩
      · exact htdeck x hx
    · rw [State.act_core]
      exact htd ▸ List.subset_cons_self _ _
    · rw [List.mem_singleton.mp hb, State.act_core]
      exact List.mem_cons_self

theorem deckWords_reads (card : Nat) : ∀ bs : List Nat, (∀ b ∈ bs, b ∈ as) →
    (deckWords card bs).Reads (v.deckRead (v.wordAt e) as) (v.wordAt e) bs
      (bs.map (v.wordAt e))
  | [], _ => Try.reads_pure _
  | b :: bs, h => by
    have hs := deckWords_reads card bs fun x hx => h x (List.mem_cons_of_mem _ hx)
    have hb := deckWord_reads hv has (h b List.mem_cons_self) card
    have hc : ((pure (v.wordAt e b :: bs.map (v.wordAt e)) : Try (List Word))).Reads (v.deckRead (v.wordAt e) as) (v.wordAt e) [] _ :=
      Try.reads_pure _
    have := Try.reads_bind (f := fun w => deckWords card bs >>= fun ws => pure (w :: ws)) hb
      (Try.reads_bind (f := fun ws => pure (v.wordAt e b :: ws)) hs hc)
    rwa [List.append_nil] at this

end

/-! ### The words of the next stage -/

namespace State

/-- The addresses of a deck's header, of the entry of the core's next stage, and of its first card, and how many cards it has
(rules R118, R120). -/
def deckHeadAt (v : State) : Nat := bits v.core.sys.deckbase 56 5 * 32
def deckEntryAt (v : State) : Nat := v.deckHeadAt + 0x20 + 8 * bits v.core.sys.cardpos0 15 0
def deckCardsAt (v : State) (e : TlbEntry) : Nat :=
  (v.deckHeadAt + 0x20 + 8 * bits (v.wordAt e v.deckHeadAt) 15 0 + 31) / 32 * 32 + 32 * bits (v.wordAt e v.deckEntryAt) 31 0
def deckCards (v : State) (e : TlbEntry) : Nat := bits (v.wordAt e v.deckEntryAt) 35 32 + 1

/-- The addresses of the header's words, and of all words of the next stage. -/
def deckHeadWords (v : State) : List Nat := (List.range 4).map (fun i => v.deckHeadAt + 8 * i)
def deckStageWords (v : State) (e : TlbEntry) : List Nat :=
  v.deckHeadWords ++ [v.deckEntryAt] ++ (List.range (4 * v.deckCards e)).map (fun i => v.deckCardsAt e + 8 * i)

end State

/-- The addresses of the words of cards of a deck. -/
def DeckHead.cardWords (h : DeckHead) (cs : List (Nat × Nat)) : List Nat :=
  cs.flatMap (fun x => (List.range 4).map (fun i => h.array + 32 * x.2 + 8 * i))

theorem State.deckRead_sys {v u : State} {word : Nat → Word} {as : List Nat} (h : v.deckRead word as u) :
    u.core.sys = v.core.sys := by
  rw [h.1]

section
variable {v : State} {e : TlbEntry} {as : List Nat} (hv : v.covered e) (has : ∀ a ∈ as, inPage e.va e.size a = true)
include hv has

theorem fetchHead_reads (hhead : v.deckHeadAt ≠ 0) (h : ∀ a ∈ v.deckHeadWords, a ∈ as) :
    fetchHead.Reads (v.deckRead (v.wordAt e) as) (v.wordAt e) v.deckHeadWords
      (let d := deckFields v.deckHeadAt (v.deckHeadWords.map (v.wordAt e))
       (d, deckHeadOk d (bits v.core.sys.ctxrev 15 0) (v.deckHeadWords.map (v.wordAt e)))) := by
  unfold fetchHead
  refine Try.reads_get fun p hp => ?_
  dsimp only
  rw [State.deckRead_sys hp]
  show Try.Reads _ _ _ (if v.deckHeadAt = 0 then _ else _) _
  rw [if_neg hhead]
  have hw := Try.reads_bind (f := fun ws => pure (deckFields v.deckHeadAt ws, deckHeadOk (deckFields v.deckHeadAt ws)
    (bits v.core.sys.ctxrev 15 0) ws)) (deckWords_reads hv has 0 _ h) (Try.reads_pure (I := v.deckRead (v.wordAt e) as) (word := v.wordAt e)
    (deckFields v.deckHeadAt (v.deckHeadWords.map (v.wordAt e)), deckHeadOk (deckFields v.deckHeadAt (v.deckHeadWords.map (v.wordAt e)))
      (bits v.core.sys.ctxrev 15 0) (v.deckHeadWords.map (v.wordAt e))))
  rw [List.append_nil] at hw
  exact hw

theorem fetchCards_reads (h : DeckHead) : ∀ cs : List (Nat × Nat), (∀ a ∈ h.cardWords cs, a ∈ as) →
    ∃ out, (fetchCards h cs).Reads (v.deckRead (v.wordAt e) as) (v.wordAt e) (h.cardWords cs) out
  | [], _ => ⟨[], Try.reads_pure _⟩
  | (k, c) :: cs, hin => by
    obtain ⟨out, hout⟩ := fetchCards_reads h cs fun a ha => hin a (List.mem_append_right _ ha)
    have hws := deckWords_reads hv has k ((List.range 4).map (fun i => h.array + 32 * c + 8 * i))
      fun a ha => hin a (List.mem_append_left _ ha)
    generalize (List.map (v.wordAt e) _ : List Word) = ws at hws
    refine ⟨{ w0 := ws.getD 0 0, w1 := ws.getD 1 0, w2 := ws.getD 2 0, w3 := ws.getD 3 0 } :: out, ?_⟩
    unfold fetchCards
    have hp : h.cardWords ((k, c) :: cs) =
        (List.range 4).map (fun i => h.array + 32 * c + 8 * i) ++ (h.cardWords cs ++ []) := by rw [List.append_nil]; rfl
    rw [hp]
    exact Try.reads_bind hws (Try.reads_bind hout (Try.reads_pure _))

end

/-- The cards of the next stage are read word by word. -/
theorem mem_stageCards (v : State) (e : TlbEntry) (a : Nat) :
    a ∈ (deckFields v.deckHeadAt (v.deckHeadWords.map (v.wordAt e))).cardWords
        ((List.range (v.deckCards e)).map (fun k => (k, bits (v.wordAt e v.deckEntryAt) 31 0 + k))) ↔
      a ∈ (List.range (4 * v.deckCards e)).map (fun i => v.deckCardsAt e + 8 * i) := by
  have harr : (deckFields v.deckHeadAt (v.deckHeadWords.map (v.wordAt e))).array =
      (v.deckHeadAt + 0x20 + 8 * bits (v.wordAt e v.deckHeadAt) 15 0 + 31) / 32 * 32 := rfl
  simp only [DeckHead.cardWords, List.mem_flatMap, List.mem_map, List.mem_range, harr, State.deckCardsAt]
  constructor
  · rintro ⟨x, ⟨k, hk, rfl⟩, i, hi, rfl⟩
    exact ⟨4 * k + i, by omega, by dsimp only; omega⟩
  · rintro ⟨j, hj, rfl⟩
    exact ⟨_, ⟨j / 4, by omega, rfl⟩, j % 4, by omega, by dsimp only; omega⟩

theorem fetchStage_fetches {v : State} {e : TlbEntry} (hv : v.covered e) (hhead : v.deckHeadAt ≠ 0)
    (has : ∀ a ∈ v.deckStageWords e, inPage e.va e.size a = true) :
    fetchStage.Fetches (v.deckRead (v.wordAt e) (v.deckStageWords e)) (v.wordAt e) (v.deckStageWords e) := by
  have hin (a : Nat) : a ∈ v.deckStageWords e ↔ (a ∈ v.deckHeadWords ∨ a = v.deckEntryAt) ∨
      a ∈ (List.range (4 * v.deckCards e)).map (fun i => v.deckCardsAt e + 8 * i) := by
    rw [State.deckStageWords, List.mem_append, List.mem_append, List.mem_singleton]
  obtain ⟨out, hout⟩ := fetchCards_reads hv has (deckFields v.deckHeadAt (v.deckHeadWords.map (v.wordAt e)))
    ((List.range (v.deckCards e)).map (fun k => (k, bits (v.wordAt e v.deckEntryAt) 31 0 + k)))
    fun a ha => (hin a).mpr (Or.inr ((mem_stageCards v e a).mp ha))
  have hh := fetchHead_reads hv has hhead fun a ha => (hin a).mpr (Or.inl (Or.inl ha))
  have he := deckWord_reads hv has ((hin v.deckEntryAt).mpr (Or.inl (Or.inr rfl))) 0
  have hend (x : DeckHead × List CardWords) (ok : Bool) :
      (deckSound ok >>= fun _ => pure x).Fetches (v.deckRead (v.wordAt e) (v.deckStageWords e)) (v.wordAt e) [] :=
    Try.fetches_of_leaves fun _ => Try.leaves_bind (deckSound_leaves _) fun _ => Try.leaves_pure _
  have hall : fetchStage.Fetches (v.deckRead (v.wordAt e) (v.deckStageWords e)) (v.wordAt e)
      (v.deckHeadWords ++ ([v.deckEntryAt] ++ ((deckFields v.deckHeadAt (v.deckHeadWords.map (v.wordAt e))).cardWords
        ((List.range (v.deckCards e)).map (fun k => (k, bits (v.wordAt e v.deckEntryAt) 31 0 + k))) ++ []))) := by
    unfold fetchStage
    refine Try.fetches_bind hh (Try.fetches_get fun p hp => ?_)
    rw [State.deckRead_sys hp]
    exact Try.fetches_bind he (Try.fetches_bind hout (hend _ _))
  intro p hp
  obtain ⟨hI, hsub, hw⟩ := hall p hp
  refine ⟨hI, hsub, fun a ha => hw a ?_⟩
  rw [List.mem_append, List.mem_append, List.mem_singleton, List.append_nil, mem_stageCards]
  exact or_assoc.mp ((hin a).mp ha)

/-- The prefetch of a deck that one page covers leaves every word of the next stage in the buffer (rules R118, R120). -/
theorem State.deckPrefetch_covered {v : State} {e : TlbEntry} (hv : v.covered e) (hdeck : v.core.aux.deck = [])
    (hpos : v.core.sys.cardpos0.getLsbD 16 = false) (hhead : v.deckHeadAt ≠ 0)
    (has : ∀ a ∈ v.deckStageWords e, inPage e.va e.size a = true) :
    let t := deckPrefetch v
    (∀ a ∈ v.deckStageWords e, (a, v.wordAt e a) ∈ t.core.aux.deck) ∧
      ∀ x ∈ t.core.aux.deck, x.1 ∈ v.deckStageWords e ∧ x.2 = v.wordAt e x.1 := by
  have h0 : v.deckRead (v.wordAt e) (v.deckStageWords e) v :=
    ⟨rfl, rfl, fun x hx => absurd (hdeck ▸ hx) List.not_mem_nil⟩
  obtain ⟨⟨-, -, hI⟩, -, hw⟩ := fetchStage_fetches hv hhead has { s := v, cost := .none } h0
  unfold deckPrefetch
  rw [hpos]
  exact ⟨hw, hI⟩

end Sys2Proof.Machine
end

section
/-! Background events: scrubbing, debug freezes and trace samples. -/

namespace Sys2Proof.Machine
open Sys2Proof

namespace Core

/-! ### Scrubbing (rules R66, R68, R69) -/

/-- A word that is queued now has the data of its unit. -/
theorem addFix_data (c : Core) (u w : Nat) : ∃ f ∈ (c.addFix u w).aux.fixes, f.unit = u ∧ f.word = w ∧
    ((∀ e ∈ c.aux.fixes, e.unit ≠ u ∨ e.word ≠ w) →
      f.data = BitVec.ofNat 128 ((if u = 10 then c.mem.imem else c.mem.loc).readNat (16 * w) 16)) := by
  unfold addFix
  split
  case isTrue h =>
    obtain ⟨f, hf, hu, hw⟩ : ∃ f ∈ c.aux.fixes, f.unit = u ∧ f.word = w := by simpa using h
    exact ⟨f, hf, hu, hw, fun hno => ((hno f hf).elim (absurd hu) (absurd hw))⟩
  case isFalse => exact ⟨_, List.mem_append_right _ (List.mem_singleton.mpr rfl), rfl, rfl, fun _ => rfl⟩

/-- A scrubber's check of a word that is beyond correction or correctable: its count, and then its place in the queue. -/
def scrubCount (c : Core) (u w : Nat) (bad soft : Bool) : Core :=
  if bad then c.memUe 3 (u == 10) w else if soft then c.memCe else c
def scrubCheck (c : Core) (u w : Nat) (bad soft : Bool) : Core :=
  if soft then (c.scrubCount u w bad soft).addFix u w else c.scrubCount u w bad soft

theorem scrubCheck_checked (c : Core) (u w : Nat) (bad soft : Bool) : c.checked (c.scrubCheck u w bad soft) := by
  have hce : c.checked (c.scrubCount u w bad soft) := by
    cases bad <;> cases soft <;> exact ⟨rfl, fun _ h => h⟩
  unfold scrubCheck
  split
  · exact checked_trans hce (addFix_checked ..)
  · exact hce

theorem scrubCheck_soft (c : Core) (u w : Nat) (bad : Bool) : ∃ f ∈ (c.scrubCheck u w bad true).aux.fixes, f.unit = u ∧ f.word = w ∧
    ((∀ e ∈ c.aux.fixes, e.unit ≠ u ∨ e.word ≠ w) →
      f.data = BitVec.ofNat 128 ((if u = 10 then c.mem.imem else c.mem.loc).readNat (16 * w) 16)) := by
  cases bad
  · exact addFix_data c.memCe u w
  · exact addFix_data (c.memUe 3 (u == 10) w) u w

theorem scrubCheck_fixes (c : Core) (u w : Nat) (bad : Bool) : (c.scrubCheck u w bad false).aux.fixes = c.aux.fixes := by
  cases bad <;> rfl

theorem addFix_memerr (c : Core) (u w : Nat) : (c.addFix u w).sys.memerr = c.sys.memerr := by
  unfold addFix
  split <;> rfl

theorem scrubCheck_found (c : Core) (u w : Nat) (soft : Bool) : ueFound (c.scrubCheck u w true soft).sys.memerr 3 (u == 10) := by
  have h := c.memUe_found (u == 10) w (show 3 < 8 by decide)
  cases soft
  · exact h
  · show ueFound ((c.memUe 3 (u == 10) w).addFix u w).sys.memerr _ _
    rwa [addFix_memerr]

/-- The end of a pass changes the pass count alone. -/
theorem scrubPass_frame (c : Core) (u : Nat) :
    let d := scrubPass c u
    d.mem = c.mem ∧ d.reg = c.reg ∧ d.ctl = c.ctl ∧ d.aux.scrub = c.aux.scrub ∧ d.aux.fixes = c.aux.fixes := by
  unfold scrubPass
  dsimp only
  split <;> exact ⟨rfl, rfl, rfl, rfl, rfl⟩

end Core

namespace Core

/-- A scrubber's place has moved on by a word (rule R68). -/
def scrubMoved (c d : Core) (u cycle : Nat) : Core :=
  { d with
    aux := { d.aux with
      scrub := c.aux.scrub.setIfInBounds u ((c.aux.scrub.getD u 0 + 1) % scrubWords u)
      scrubWait := c.aux.scrubWait.setIfInBounds u (cycle + 64) } }

/-- The next word of a scrubber, and whether it is beyond correction or correctable. -/
def scrubWord (c : Core) (u : Nat) : Nat := scrubBase u + c.aux.scrub.getD u 0
def scrubBad (c : Core) (u : Nat) : Bool :=
  if u == 10 then c.mem.imemBad.contains (c.scrubWord u) else c.mem.bad.contains (c.scrubWord u)
def scrubSoft (c : Core) (u : Nat) : Bool :=
  if u == 10 then c.mem.imemSoft.contains (c.scrubWord u) else c.mem.soft.contains (c.scrubWord u)

/-- The core after a scrubber has read its next word. -/
def scrubbed (c : Core) (u cycle : Nat) : Core :=
  let d := c.scrubMoved (c.scrubCheck u (c.scrubWord u) (c.scrubBad u) (c.scrubSoft u)) u cycle
  if c.aux.scrub.getD u 0 + 1 = scrubWords u then scrubPass d u else d

end Core

theorem scrubRead_eq (s : State) (u : Nat) : scrubRead s u =
    if s.core.scrubBad u then
      { s with core := s.core.scrubbed u s.cycle }.note s.core.idx (.log (logLocal false s.core.idx 3 (u == 10) (s.core.scrubWord u)))
    else { s with core := s.core.scrubbed u s.cycle } := rfl

theorem scrubRead_frame (s : State) (u : Nat) :
    (scrubRead s u).core = s.core.scrubbed u s.cycle ∧ (scrubRead s u).mem = s.mem := by
  rw [scrubRead_eq]
  split
  · rw [State.note_frame]
    exact ⟨rfl, rfl⟩
  · exact ⟨rfl, rfl⟩

section
variable (c : Core) (u cycle : Nat)

theorem Core.scrubbed_frame :
    let d := c.scrubbed u cycle
    d.mem = c.mem ∧ d.reg = c.reg ∧ d.ctl = c.ctl ∧
      d.aux.scrub = c.aux.scrub.setIfInBounds u ((c.aux.scrub.getD u 0 + 1) % scrubWords u) := by
  obtain ⟨hd, -⟩ := c.scrubCheck_checked u (c.scrubWord u) (c.scrubBad u) (c.scrubSoft u)
  unfold scrubbed
  dsimp only
  split
  · obtain ⟨pm, pr, pc, ps, -⟩ :=
      (c.scrubMoved (c.scrubCheck u (c.scrubWord u) (c.scrubBad u) (c.scrubSoft u)) u cycle).scrubPass_frame u
    rw [pm, pr, pc, ps, hd]
    exact ⟨rfl, rfl, rfl, rfl⟩
  · rw [hd]
    exact ⟨rfl, rfl, rfl, rfl⟩

theorem Core.scrubbed_fixes :
    (c.scrubbed u cycle).aux.fixes = (c.scrubCheck u (c.scrubWord u) (c.scrubBad u) (c.scrubSoft u)).aux.fixes := by
  unfold scrubbed
  dsimp only
  split
  · exact (scrubPass_frame _ u).2.2.2.2
  · rfl

theorem Core.scrubbed_found (hbad : c.scrubBad u = true) (hlast : c.aux.scrub.getD u 0 + 1 ≠ scrubWords u) :
    ueFound (c.scrubbed u cycle).sys.memerr 3 (u == 10) := by
  unfold scrubbed
  rw [if_neg hlast, hbad]
  exact scrubCheck_found ..

end

/-! ### The write-back of a corrected word (rules R58, R66, R68) -/

/-- The two memories that a scrubber's unit chooses from: its own and the other, and its own marks. -/
theorem scrubWriteback_of {c : Core} {u : Nat} {f : Fix} (h : c.aux.fixes.find? (fun f => f.unit == u) = some f) :
    scrubWriteback u c = { c with
      aux := { c.aux with fixes := c.aux.fixes.erase f }
      mem := if u = 10 then { c.mem with
          imem := c.mem.imem.write (16 * f.word) (toBytes 16 f.data.toNat), imemSoft := c.mem.imemSoft.filter (· != f.word)
          imemBad := c.mem.imemBad.filter (· != f.word) }
        else { c.mem with
          loc := c.mem.loc.write (16 * f.word) (toBytes 16 f.data.toNat), soft := c.mem.soft.filter (· != f.word)
          bad := c.mem.bad.filter (· != f.word) } } := by
  unfold scrubWriteback
  rw [h]

theorem contains_filter_ne (xs : List Nat) (w : Nat) :
    (xs.filter (· != w)).contains w = false ∧ ∀ y, y ≠ w → (xs.filter (· != w)).contains y = xs.contains y := by
  refine ⟨by simp, fun y hy => ?_⟩
  rw [Bool.eq_iff_iff]
  simp [hy]

/-! ### Trace records and debug freezes (rules R409, R412) -/

/-- The first word of a trace record names the core, the kind, whether a record was lost, and an address (rule R412). -/
theorem recordWord_fields {idx kind : Nat} (lost : Bool) (a : CodeAddr) (hidx : idx < 2 ^ 16) (hkind : kind < 16) :
    let w := atBit idx 48 ||| atBit kind 44 ||| atBit lost.toNat 43 ||| atBit a.toNat 0
    bits w 63 48 = idx ∧ bits w 47 44 = kind ∧ w.getLsbD 43 = lost ∧ bits w 17 0 = a.toNat := by
  have ha : a.toNat < 2 ^ 18 := a.isLt
  have hl : lost.toNat < 2 ^ 1 := by cases lost <;> decide
  refine ⟨?_, ?_, ?_, ?_⟩
  · simp only [bits_or, bits_atBit idx 63 48 (by decide) hidx, bits_atBit_below _ 4 44 63 48 hkind (by decide),
      bits_atBit_below _ 1 43 63 48 hl (by decide), bits_atBit_below _ 18 0 63 48 ha (by decide), Nat.or_zero]
  · simp only [bits_or, bits_atBit_above _ _ _ _ (show 47 < 48 by decide), bits_atBit kind 47 44 (by decide) hkind,
      bits_atBit_below _ 1 43 47 44 hl (by decide), bits_atBit_below _ 18 0 47 44 ha (by decide), Nat.or_zero, Nat.zero_or]
  · have hhigh : a.toNat.testBit 43 = false := Nat.testBit_lt_two_pow (by omega)
    simp only [BitVec.getLsbD_or, getLsbD_atBit]
    cases lost <;> simp [hhigh]
  · simp only [bits_or, bits_atBit_above _ _ _ _ (show 17 < 48 by decide), bits_atBit_above _ _ _ _ (show 17 < 44 by decide),
      bits_atBit_above _ _ _ _ (show 17 < 43 by decide), bits_atBit _ 17 0 (by decide) ha, Nat.zero_or]

/-- A record that finds eight waiting is dropped. -/
theorem Core.emit_full {c : Core} (h : 8 ≤ c.aux.traceQ.length) (l : Word) (k : Nat) (a : CodeAddr) (x y : Word) :
    (c.emit l k a x y).aux.traceQ = c.aux.traceQ ∧ (c.emit l k a x y).aux.lost = true := by
  rw [emit, if_pos h]
  exact ⟨rfl, rfl⟩

theorem Core.emit_queued {c : Core} (h : c.aux.traceQ.length < 8) (l : Word) (k : Nat) (a : CodeAddr) (x y : Word) :
    (c.emit l k a x y).aux.traceQ = c.aux.traceQ ++ [{ w0 := l, w1 := atBit c.idx 48 ||| atBit k 44 ||| atBit c.aux.lost.toNat 43 ||| atBit a.toNat 0, w2 := x, w3 := y }] ∧
      (c.emit l k a x y).aux.lost = false := by
  rw [emit, if_neg (Nat.not_le.mpr h)]
  exact ⟨rfl, rfl⟩

/-- A core that freezes for a debug stop keeps its place, its registers and its memories (rule R409). -/
theorem freezeDebug_frame (s : State) :
    let t := freezeDebug s
    t.core.ctl.mode = .frozen .debug ∧ t.core.ctl.pc = s.core.ctl.pc ∧ t.core.ctl.lands = s.core.ctl.lands ∧ t.core.reg = s.core.reg ∧
      t.core.mem = s.core.mem ∧ t.core.trap = s.core.trap ∧ t.mem = s.mem ∧ t.others = s.others := by
  unfold freezeDebug
  dsimp only
  rw [State.act_core]
  split
  · rw [(Core.emit_frame ..).1, Core.acctStop_frame]
    exact ⟨rfl, rfl, rfl, rfl, rfl, rfl, rfl, rfl⟩
  · rw [Core.acctStop_frame]
    exact ⟨rfl, rfl, rfl, rfl, rfl, rfl, rfl, rfl⟩

/-- Settles O36. -/
theorem backgroundEventsComplete : Obligations.BackgroundEventsComplete := by
  unfold Obligations.BackgroundEventsComplete
  refine ⟨fun s => ?_, fun s => ?_⟩
  · intro v u w loc far soft bad
    refine ⟨⟨_, rfl, v.deckPrefetch_frame⟩, ?_, ?_, ?_⟩
    · intro e hlate hpoison htag hrd hdeck hpos head word entry first at_ hhead hat hcov
      exact ⟨_, rfl, State.deckPrefetch_covered ⟨hlate, hpoison, htag, hrd, hcov⟩ hdeck hpos hhead hat⟩
    · intro hu
      obtain ⟨hcore, hmem⟩ := scrubRead_frame v u
      obtain ⟨fm, fr, fc, fs⟩ := v.core.scrubbed_frame u v.cycle
      refine ⟨_, rfl, ?_⟩
      show (scrubRead v u).core.mem = _ ∧ (scrubRead v u).core.reg = _ ∧ (scrubRead v u).core.ctl = _ ∧ (scrubRead v u).mem = _ ∧
        (scrubRead v u).core.aux.scrub.getD u 0 = _ ∧ (_ → ∃ f ∈ (scrubRead v u).core.aux.fixes, _) ∧
        (_ → (scrubRead v u).core.aux.fixes = _) ∧ (_ → _ → (scrubRead v u).core.sys.memerr.getLsbD 31 = true ∧ bits (scrubRead v u).core.sys.memerr 30 28 = 3)
      have hsoft : soft v w = v.core.scrubSoft u := by simp only [Core.scrubSoft, beq_iff_eq]; rfl
      have hbad : bad v w = v.core.scrubBad u := by simp only [Core.scrubBad, beq_iff_eq]; rfl
      rw [hcore, hsoft, hbad, v.core.scrubbed_fixes, fs]
      refine ⟨fm, fr, fc, hmem, ?_, fun h => ?_, fun h => ?_, fun h hlast => ?_⟩
      · simp [Vector.getD, hu]
      · rw [h]
        exact v.core.scrubCheck_soft u w _
      · rw [h]
        exact v.core.scrubCheck_fixes u _ _
      · obtain ⟨h31, hagent, -⟩ := v.core.scrubbed_found u v.cycle h hlast
        exact ⟨h31, hagent⟩
    · intro f hu hf
      refine ⟨_, rfl, ?_⟩
      obtain ⟨hmine, hothers⟩ : (∀ xs : List Nat, (xs.filter (· != f.word)).contains f.word = false) ∧
          ∀ xs : List Nat, ∀ y, y ≠ f.word → (xs.filter (· != f.word)).contains y = xs.contains y :=
        ⟨fun xs => (contains_filter_ne xs f.word).1, fun xs => (contains_filter_ne xs f.word).2⟩
      dsimp only [loc, far, soft, bad]
      rw [State.act_core]
      have hw : scrubWriteback s.arg.n s.ownCore.core = _ := scrubWriteback_of (u := u) hf
      by_cases h10 : u = 10
      · simp only [hw, h10, if_true]
        exact ⟨hmine _, hmine _, fun y hy => ⟨hothers _ y hy, hothers _ y hy⟩, rfl, rfl, rfl, rfl⟩
      · simp only [hw, h10, if_false]
        exact ⟨hmine _, hmine _, fun y hy => ⟨hothers _ y hy, hothers _ y hy⟩, rfl, rfl, rfl, rfl⟩
  · intro v
    refine ⟨fun h => ?_, fun u hidle hdue => ?_, ⟨_, rfl, ?_⟩⟩
    · refine ⟨_, rfl, ?_⟩
      have hz : debugFreeze v = freezeDebug v := by
        unfold debugFreeze
        split
        · rfl
        · rw [h.resolve_left ‹_›]
          rfl
      show (debugFreeze v).core.ctl.mode = _ ∧ (debugFreeze v).core.ctl.pc = _ ∧ (debugFreeze v).core.ctl.lands = _ ∧ (debugFreeze v).core.reg = _ ∧
        (debugFreeze v).core.mem = _ ∧ (debugFreeze v).core.trap = _ ∧ (debugFreeze v).mem = _ ∧ (debugFreeze v).others = _
      rw [hz]
      exact freezeDebug_frame v
    · show Host.Outcome.next (debugFreeze v) = _
      rw [debugFreeze, hidle, hdue]
      rfl
    · have hframe := v.core.emit_frame v.loom 1 (v.core.ctl.sent.getD v.core.nextBundle) v.core.sys.phnum (atBit (sampleState v v.core) 0)
      rw [State.act_core]
      refine ⟨?_, ?_, rfl, fun h => Core.emit_full h .., fun h hidx => ?_⟩
      · rw [hframe.1]
      · rw [hframe.1]
      · obtain ⟨hq, hlost⟩ := Core.emit_queued h v.loom 1 (v.core.ctl.sent.getD v.core.nextBundle) v.core.sys.phnum
          (atBit (sampleState v v.core) 0)
        obtain ⟨h1, h2, h3, h4⟩ := recordWord_fields v.core.aux.lost (v.core.ctl.sent.getD v.core.nextBundle) hidx (show 1 < 16 by decide)
        exact ⟨_, hq, hlost, rfl, h1, h2, h3, h4, rfl⟩

end Sys2Proof.Machine
end

section
/-! Losses that become pending, and the bytes of numbers and of local space. -/

namespace Sys2Proof.Machine
open Sys2Proof

/-! ### Losses (rules R373, R376) -/

/-- A list of reports names a loss of a cause. -/
def namesLoss (cause : Nat) (ns : List Note) : Prop := ∃ core cba val, Note.loss cause core cba val ∈ ns

namespace State

theorem partRegions_onCtx (s : State) (p : Nat) (f : Context → Context) (q : Nat) : (s.onCtx p f).partRegions q = s.partRegions q := by
  have h : ((s.onCtx p f).part q).pdef = (s.part q).pdef := by
    unfold onCtx
    by_cases hp : p = q
    · subst hp
      by_cases h16 : p < 16
      · rw [part_putPart _ _ _ h16]
      · simp [part, putPart, Vector.getD, h16]
    · rw [part_putPart_ne _ _ _ _ hp]
  unfold partRegions
  rw [h]

theorem partOf_onCtx (s : State) (p : Nat) (f : Context → Context) (k : Nat) : (s.onCtx p f).partOf k = s.partOf k := by
  unfold partOf partOfRegion
  simp only [partRegions_onCtx]

/-- The context of a core and its partition, taken apart. -/
theorem ctxOf_iff {s : State} {k p : Nat} {x : Context} : s.ctxOf k = some (p, x) ↔ s.partOf k = some p ∧ (s.part p).ctx = some x := by
  unfold ctxOf
  constructor
  · intro h
    obtain ⟨q, hq, hx⟩ := Option.bind_eq_some_iff.mp h
    obtain ⟨y, hy, he⟩ := Option.map_eq_some_iff.mp hx
    obtain ⟨rfl, rfl⟩ := Prod.mk.inj he
    exact ⟨hq, hy⟩
  · rintro ⟨hp, hx⟩
    rw [hp, Option.bind_some, hx]
    rfl

theorem ctxOf_onCtx {s : State} {k p : Nat} {x : Context} (h : s.ctxOf k = some (p, x)) (f : Context → Context) :
    (s.onCtx p f).ctxOf k = some (p, f x) := by
  obtain ⟨hp, hx⟩ := ctxOf_iff.mp h
  refine ctxOf_iff.mpr ⟨by rw [partOf_onCtx, hp], ?_⟩
  rw [part_onCtx _ _ _ (partOf_lt hp), hx]
  rfl

theorem ctxOf_logEntry (s : State) (l w : Word) (k : Nat) : (s.logEntry l w).ctxOf k = s.ctxOf k := by
  unfold ctxOf partOf partOfRegion partRegions part
  rw [logEntry_parts]

theorem addLoss_ctxOf {s : State} {k p : Nat} {x : Context} (h : s.ctxOf k = some (p, x)) (cause core cba val : Nat) :
    ∃ l : Loss, (s.addLoss p cause core cba val).ctxOf k = some (p, { x with losses := x.losses ++ [l] }) ∧ l.cause = cause :=
  ⟨_, ctxOf_onCtx h _, rfl⟩

/-- A reported loss is added to the context that holds the core. -/
theorem note_of_ctx {s : State} {k p : Nat} {x : Context} (h : s.ctxOf k = some (p, x)) (cause core : Nat) (cba : CodeAddr) (val : Nat) :
    s.note k (.loss cause core cba val) =
      s.addLoss p cause core cba.toNat (if offsetCause cause then s.offsetIn x % 2 ^ 24 else val) := by
  unfold note
  rw [h]

/-- A core's context keeps its pending losses. -/
def lossesKept (k p : Nat) (x : Context) (t : State) : Prop := ∃ y, t.ctxOf k = some (p, y) ∧ x.losses ⊆ y.losses

theorem note_lossesKept {s : State} {k p : Nat} {x : Context} (h : s.lossesKept k p x) (n : Note) : (s.note k n).lossesKept k p x := by
  obtain ⟨y, hy, hsub⟩ := h
  cases n with
  | log w => exact ⟨y, (ctxOf_logEntry ..).trans hy, hsub⟩
  | loss cause core cba val =>
    rw [note_of_ctx hy]
    obtain ⟨l, hl, -⟩ := addLoss_ctxOf hy cause core cba.toNat (if offsetCause cause then s.offsetIn y % 2 ^ 24 else val)
    exact ⟨_, hl, fun _ hl => List.mem_append_left _ (hsub hl)⟩

/-- A loss of a cause is pending for the context that holds a core. -/
def lossPending (k p cause : Nat) (t : State) : Prop := ∃ y, t.ctxOf k = some (p, y) ∧ ∃ l ∈ y.losses, l.cause = cause

theorem note_lossPending {s : State} {k p cause : Nat} (h : s.lossPending k p cause) (n : Note) : (s.note k n).lossPending k p cause := by
  obtain ⟨x, hx, l, hl, hc⟩ := h
  obtain ⟨y, hy, hsub⟩ := note_lossesKept ⟨x, hx, List.Subset.refl _⟩ n
  exact ⟨y, hy, l, hsub hl, hc⟩

theorem note_loss {s : State} {k p : Nat} {x : Context} (h : s.ctxOf k = some (p, x)) (cause core : Nat) (cba : CodeAddr) (val : Nat) :
    (s.note k (.loss cause core cba val)).lossPending k p cause := by
  rw [note_of_ctx h]
  obtain ⟨l, hl, hc⟩ := addLoss_ctxOf h cause core cba.toNat (if offsetCause cause then s.offsetIn x % 2 ^ 24 else val)
  exact ⟨_, hl, l, List.mem_append_right _ (List.mem_singleton.mpr rfl), hc⟩

theorem notes_lossPending {s : State} {k p cause : Nat} {x : Context} (h : s.ctxOf k = some (p, x)) {ns : List Note}
    (hn : namesLoss cause ns) : (s.notes k ns).lossPending k p cause := by
  obtain ⟨core, cba, val, hmem⟩ := hn
  obtain ⟨pre, post, rfl⟩ := List.append_of_mem hmem
  unfold notes
  rw [List.foldl_append, List.foldl_cons]
  obtain ⟨y, hy, -⟩ := List.foldlRecOn (motive := lossesKept k p x) pre (fun s n => s.note k n) ⟨x, h, List.Subset.refl _⟩
    fun _ h n _ => note_lossesKept h n
  exact List.foldlRecOn (motive := lossPending k p cause) post (fun s n => s.note k n) (note_loss hy cause core cba val)
    fun _ h n _ => note_lossPending h n

/-- The loss stands with the partition. -/
theorem lossPending_part {t : State} {k p cause : Nat} (h : t.lossPending k p cause) :
    ∃ y, (t.part p).ctx = some y ∧ ∃ l ∈ y.losses, l.cause = cause := by
  obtain ⟨y, hy, hl⟩ := h
  exact ⟨y, (ctxOf_iff.mp hy).2, hl⟩

end State

/-! ### Bytes of numbers (rule R9) -/

theorem ofBytes_lt : ∀ bs : List Byte, ofBytes bs < 2 ^ (8 * bs.length)
  | [] => Nat.one_pos
  | b :: bs => by
    have ih := ofBytes_lt bs
    have hb := b.isLt
    rw [List.length_cons, Nat.mul_succ, pow_add, ofBytes]
    omega

theorem byte_ofBytes : ∀ (bs : List Byte) (i : Nat), BitVec.ofNat 8 (ofBytes bs / 2 ^ (8 * i)) = bs.getD i 0
  | [], i => by simp [ofBytes]
  | b :: bs, 0 => by
    apply BitVec.eq_of_toNat_eq
    have hb := b.isLt
    simp only [ofBytes, Nat.mul_zero, Nat.pow_zero, Nat.div_one, BitVec.toNat_ofNat, List.getD_cons_zero]
    omega
  | b :: bs, i + 1 => by
    have hb := b.isLt
    have hdiv : (b.toNat + 256 * ofBytes bs) / 2 ^ (8 * (i + 1)) = ofBytes bs / 2 ^ (8 * i) := by
      have hpow : 2 ^ (8 * (i + 1)) = 256 * 2 ^ (8 * i) := by
        rw [Nat.mul_succ, pow_add, mul_comm (2 ^ (8 * i))]
        rfl
      rw [hpow, ← Nat.div_div_eq_div_mul, show (b.toNat + 256 * ofBytes bs) / 256 = ofBytes bs by omega]
    rw [ofBytes, hdiv, List.getD_cons_succ]
    exact byte_ofBytes bs i

theorem extract_ofNat {N i : Nat} (h : 8 * i + 8 ≤ N) (x : Nat) :
    (BitVec.ofNat N x).extractLsb' (8 * i) 8 = BitVec.ofNat 8 (x / 2 ^ (8 * i)) := by
  apply BitVec.eq_of_getLsbD_eq
  intro j hj
  rw [BitVec.getLsbD_extractLsb', BitVec.getLsbD_ofNat, BitVec.getLsbD_ofNat, Nat.testBit_div_two_pow]
  rw [Nat.add_comm j (8 * i), decide_eq_true hj, decide_eq_true (show 8 * i + j < N by omega), Bool.true_and]

theorem extract_ofBytes {N i : Nat} (h : 8 * i + 8 ≤ N) (bs : List Byte) :
    (BitVec.ofNat N (ofBytes bs)).extractLsb' (8 * i) 8 = bs.getD i 0 := by
  rw [extract_ofNat h, byte_ofBytes]

/-- The bytes of a register, as memory takes them. -/
theorem getD_vecBytes (v : Vec) {i : Nat} (h : i < 256) : (vecBytes v).getD i 0 = v.extractLsb' (8 * i) 8 := by
  rw [vecBytes, getD_toBytes _ _ _ h, ← extract_ofNat (N := 2048) (by omega), BitVec.ofNat_toNat, BitVec.setWidth_eq]

theorem length_vecBytes (v : Vec) : (vecBytes v).length = 256 := length_toBytes ..

namespace Memory

theorem getD_readN (m : Memory) (a : Nat) {n i : Nat} (h : i < n) : (m.readN a n).getD i 0 = m.read (a + i) := by
  simp [readN, h]

theorem readNat_lt (m : Memory) (a n : Nat) : m.readNat a n < 2 ^ (8 * n) := by
  have h := ofBytes_lt (m.readN a n)
  rwa [length_readN] at h

theorem byte_readNat (m : Memory) (a : Nat) {n i : Nat} (h : i < n) : BitVec.ofNat 8 (m.readNat a n / 2 ^ (8 * i)) = m.read (a + i) := by
  rw [readNat, byte_ofBytes, getD_readN _ _ h]

/-! ### Writes of several ranges -/

/-- The last byte that a list of writes gives an address counts. -/
theorem read_writeAll (ws : List (Nat × Byte)) (x : Nat) : ∀ m : Memory,
    (m.writeAll ws).read x = (((ws.filter (fun b => b.1 == x)).getLast?).map (·.2)).getD (m.read x) := by
  induction ws with
  | nil => exact fun m => rfl
  | cons w ws ih =>
    intro m
    have hw : (m.writeAll (w :: ws)).read x = ((m.write w.1 [w.2]).writeAll ws).read x := rfl
    rw [hw, ih, read_write, List.filter_cons]
    by_cases h : w.1 = x
    · subst h
      simp only [beq_self_eq_true, if_true, List.getLast?_cons, List.length_singleton, Nat.le_refl, Nat.lt_succ_self, and_self,
        Nat.sub_self, List.getD_cons_zero, Option.map_some, Option.getD_some]
      cases (ws.filter (fun b => b.1 == w.1)).getLast? <;> rfl
    · rw [if_neg (by rw [List.length_singleton]; omega), if_neg (by simpa using h)]

end Memory

theorem filter_placed (x : Nat) : ∀ (bs : List Byte) (a : Nat),
    (placed a bs).filter (fun b => b.1 == x) = if a ≤ x ∧ x < a + bs.length then [(x, bs.getD (x - a) 0)] else []
  | [], a => by
    rw [if_neg (by rw [List.length_nil]; omega)]
    rfl
  | b :: bs, a => by
    rw [placed, List.filter_cons, filter_placed x bs (a + 1), List.length_cons]
    by_cases h : a = x
    · subst h
      rw [if_pos (by simp), if_neg (by omega), if_pos (by omega), Nat.sub_self, List.getD_cons_zero]
    · rw [if_neg (by simpa using h)]
      by_cases hin : a ≤ x ∧ x < a + (bs.length + 1)
      · rw [if_pos (by omega), if_pos hin, show x - a = (x - (a + 1)) + 1 by omega, List.getD_cons_succ]
      · rw [if_neg (by omega), if_neg hin]

/-- A write of a range, byte by byte. -/
theorem Memory.read_write_placed (m : Memory) (a : Nat) (bs : List Byte) (x : Nat) : (m.write a bs).read x =
    ((((placed a bs).filter (fun b => b.1 == x)).getLast?).map (·.2)).getD (m.read x) := by
  rw [read_write, filter_placed]
  split <;> rfl

/-! ### Local words -/

theorem mem_wordsOf {a n w : Nat} : w ∈ Core.wordsOf a n ↔ 0 < n ∧ a / 16 ≤ w ∧ 16 * w < a + n := by
  unfold Core.wordsOf
  by_cases hn : n = 0
  · simp [hn]
  · simp only [if_neg hn, List.mem_map, List.mem_range]
    constructor
    · rintro ⟨i, hi, rfl⟩
      omega
    · rintro ⟨-, h1, h2⟩
      exact ⟨w - a / 16, by omega, by omega⟩

theorem canon_word {x y : Nat} (h : x / 16 = y / 16) : canon x / 16 = canon y / 16 := by
  unfold canon
  dsimp only
  split <;> split <;> omega

end Sys2Proof.Machine
end

section
/-! Claims that reach their storage: checks of the words read, writes, and one claim of every kind. -/

namespace Sys2Proof.Machine.Core
open Sys2Proof

/-! ### Checks of the words that a claim reads (rules R66, R67, R371) -/

/-- What the checks of words leave of the core, and what they report. -/
def wordChecks (c : Core) (cba : CodeAddr) (ws : List Nat) : Core × List Note := ws.foldl (checkWord cba) (c, [])

theorem claimRead_eq (c : Core) (cba : CodeAddr) (a n : Nat) :
    c.claimRead cba a n = (c.mem.loc.readN a n, (wordsOf a n).any c.mem.bad.contains, (c.wordChecks cba (wordsOf a n)).1,
      (c.wordChecks cba (wordsOf a n)).2) := rfl

theorem checkWord_checked (cba : CodeAddr) (st : Core × List Note) (w : Nat) : st.1.checked (checkWord cba st w).1 := by
  unfold checkWord
  dsimp only
  split
  · exact ⟨rfl, fun _ h => h⟩
  · split
    · exact memCe_addFix_checked ..
    · exact checked_refl _

/-- An uncorrectable word is counted, reported and lost. -/
theorem checkWord_of_bad {st : Core × List Note} {w : Nat} (cba : CodeAddr) (h : st.1.mem.bad.contains w = true) :
    checkWord cba st w = ({ st.1.memUe 0 false w with sys := { (st.1.memUe 0 false w).sys with
        carderr := cardErrAdd st.1.sys.carderr 6 8 0 0 } },
      st.2 ++ [.log (logLocal true st.1.idx 0 false w), .loss 0x01 st.1.idx cba (unitOf (16 * w) * 2 ^ 26 + w)]) := by
  unfold checkWord
  simp only [h, if_true]
  rfl

theorem checkWord_of_soft {st : Core × List Note} {w : Nat} (cba : CodeAddr) (h : st.1.mem.bad.contains w = false)
    (g : st.1.mem.soft.contains w = true) : checkWord cba st w = (st.1.memCe.addFix (unitOf (16 * w)) w, st.2) := by
  unfold checkWord
  simp only [h, g, if_true, Bool.false_eq_true, if_false]

theorem checkWord_of_sound {st : Core × List Note} {w : Nat} (cba : CodeAddr) (h : st.1.mem.bad.contains w = false)
    (g : st.1.mem.soft.contains w = false) : checkWord cba st w = st := by
  unfold checkWord
  simp only [h, g, Bool.false_eq_true, if_false]

/-- A fold's result has a property that a step on `x` makes true and that no step makes false, under an invariant. -/
theorem foldl_of_mem_inv {α β : Type} {f : β → α → β} {I P : β → Prop} (hI : ∀ b a, I b → I (f b a))
    (hkeep : ∀ b a, I b → P b → P (f b a)) {x : α} {xs : List α} (hx : x ∈ xs) (hmake : ∀ b, I b → P (f b x)) {b : β} (hb : I b) :
    P (xs.foldl f b) := by
  obtain ⟨pre, post, rfl⟩ := List.append_of_mem hx
  rw [List.foldl_append, List.foldl_cons]
  have hpre : I (pre.foldl f b) := List.foldlRecOn (motive := I) _ _ hb fun b h a _ => hI b a h
  exact (List.foldlRecOn (motive := fun b => I b ∧ P b) post f ⟨hI _ x hpre, hmake _ hpre⟩
    fun b h a _ => ⟨hI b a h.1, hkeep b a h.1 h.2⟩).2

/-- Checks have been made of a core: it has its memories, and CARDERR holds what it held, or a local error. -/
def underCheck (c : Core) (st : Core × List Note) : Prop :=
  c.checked st.1 ∧ (st.1.sys.carderr = c.sys.carderr ∨ cardErrHolds c.sys.carderr st.1.sys.carderr 6 8)

/-- An uncorrectable word has been found and reported (rules R67, R371). -/
def reported (c : Core) (st : Core × List Note) : Prop :=
  ueFound st.1.sys.memerr 0 false ∧ cardErrHolds c.sys.carderr st.1.sys.carderr 6 8 ∧ namesLoss 0x01 st.2

theorem underCheck_mem {c : Core} {st : Core × List Note} (h : c.underCheck st) : st.1.mem = c.mem := by
  rw [h.1.1]

theorem cardErrAdd_underCheck {c : Core} {st : Core × List Note} (h : c.underCheck st) :
    cardErrHolds c.sys.carderr (cardErrAdd st.1.sys.carderr 6 8 0 0) 6 8 := by
  rcases h.2 with heq | hold
  · rw [heq]
    exact cardErrAdd_holds _ (by decide) (by decide)
  · exact cardErrHolds_add hold (by decide) (by decide)

theorem checkWord_underCheck {c : Core} {st : Core × List Note} (cba : CodeAddr) (w : Nat) (h : c.underCheck st) :
    c.underCheck (checkWord cba st w) := by
  refine ⟨checked_trans h.1 (checkWord_checked cba st w), ?_⟩
  cases hb : st.1.mem.bad.contains w with
  | true =>
    rw [checkWord_of_bad cba hb]
    exact Or.inr (cardErrAdd_underCheck h)
  | false =>
    cases hs : st.1.mem.soft.contains w with
    | true =>
      rw [checkWord_of_soft cba hb hs]
      have hcarderr : (st.1.memCe.addFix (unitOf (16 * w)) w).sys.carderr = st.1.sys.carderr := by
        unfold addFix
        split <;> rfl
      rw [hcarderr]
      exact h.2
    | false =>
      rw [checkWord_of_sound cba hb hs]
      exact h.2

/-- A later word's check leaves what has been reported. -/
theorem checkWord_reported {c : Core} {st : Core × List Note} (cba : CodeAddr) (w : Nat) (hI : c.underCheck st)
    (h : c.reported st) : c.reported (checkWord cba st w) := by
  obtain ⟨hue, hcard, core, a, val, hloss⟩ := h
  cases hb : st.1.mem.bad.contains w with
  | true =>
    rw [checkWord_of_bad cba hb]
    exact ⟨memErrUe_found _ false w (by decide), cardErrAdd_underCheck hI, core, a, val, List.mem_append_left _ hloss⟩
  | false =>
    cases hs : st.1.mem.soft.contains w with
    | true =>
      rw [checkWord_of_soft cba hb hs]
      have hsys : (st.1.memCe.addFix (unitOf (16 * w)) w).sys = st.1.memCe.sys := by
        unfold addFix
        split <;> rfl
      refine ⟨?_, ?_, core, a, val, hloss⟩
      · rw [hsys]
        exact memErrCe_found hue
      · rw [hsys]
        exact hcard
    | false =>
      rw [checkWord_of_sound cba hb hs]
      exact ⟨hue, hcard, core, a, val, hloss⟩

section
variable (c : Core) (cba : CodeAddr) (ws : List Nat)

theorem wordChecks_underCheck : c.underCheck (c.wordChecks cba ws) :=
  List.foldlRecOn (motive := c.underCheck) _ _ ⟨c.checked_refl, Or.inl rfl⟩ fun _ h w _ => checkWord_underCheck cba w h

theorem wordChecks_checked : c.checked (c.wordChecks cba ws).1 := (c.wordChecks_underCheck cba ws).1

/-- An uncorrectable word among those read is reported. -/
theorem wordChecks_reported {w : Nat} (hw : w ∈ ws) (hbad : c.mem.bad.contains w = true) : c.reported (c.wordChecks cba ws) :=
  foldl_of_mem_inv (I := c.underCheck) (P := c.reported) (fun _ w h => checkWord_underCheck cba w h)
    (fun _ w hI h => checkWord_reported cba w hI h) hw
    (fun st hI => by
      rw [checkWord_of_bad cba (by rw [underCheck_mem hI]; exact hbad)]
      exact ⟨memErrUe_found _ false w (by decide), cardErrAdd_underCheck hI, _, _, _, List.mem_append_right _ (List.mem_cons_of_mem _ List.mem_cons_self)⟩)
    ⟨c.checked_refl, Or.inl rfl⟩

/-- A correctable word among those read is queued for its write-back. -/
theorem wordChecks_queued {w : Nat} (hw : w ∈ ws) (hbad : c.mem.bad.contains w = false) (hsoft : c.mem.soft.contains w = true) :
    (c.wordChecks cba ws).1.queued (unitOf (16 * w)) w :=
  foldl_of_mem_inv (I := c.underCheck) (P := fun st : Core × List Note => st.1.queued (unitOf (16 * w)) w)
    (fun _ w h => checkWord_underCheck cba w h)
    (fun st w _ h => queued_checked (checkWord_checked cba st w) h) hw
    (fun st hI => by
      rw [checkWord_of_soft cba (by rw [underCheck_mem hI]; exact hbad) (by rw [underCheck_mem hI]; exact hsoft)]
      exact addFix_queued ..)
    ⟨c.checked_refl, Or.inl rfl⟩

end

/-! ### Rows of operands (rule R291) -/

/-- The words that the rows of an operand touch. -/
def rowWords (o : Operand) : List Nat :=
  ((List.range 8).map (fun i => (List.range 7).map (fun k => o.addr i (min 95 (16 * k)) / 16) ++ [o.addr i 95 / 16])).flatten.eraseDups

theorem claimRows_eq (c : Core) (cba : CodeAddr) (o : Operand) :
    c.claimRows cba o = (c.operandRows o, (c.wordChecks cba (rowWords o)).1, (c.wordChecks cba (rowWords o)).2) := rfl

theorem mem_rowWords (o : Operand) {i j : Nat} (hi : i < 8) (hj : j < 96) : o.addr i j / 16 ∈ rowWords o := by
  rw [rowWords, List.mem_eraseDups, List.mem_flatten]
  refine ⟨_, List.mem_map.mpr ⟨i, List.mem_range.mpr hi, rfl⟩, List.mem_append_left _ (List.mem_map.mpr ?_)⟩
  have hk : ∃ k < 7, (o.base + i * o.pitch + min 95 (16 * k)) / 16 = (o.base + i * o.pitch + j) / 16 := by
    generalize o.base + i * o.pitch = x
    by_cases h : (x + 16 * (j / 16)) / 16 = (x + j) / 16
    · exact ⟨j / 16, by omega, by rw [Nat.min_eq_right (by omega)]; exact h⟩
    · refine ⟨j / 16 + 1, by omega, ?_⟩
      omega
  obtain ⟨k, hk, he⟩ := hk
  exact ⟨k, List.mem_range.mpr hk, canon_word he⟩

theorem byte_operandRows (c : Core) (o : Operand) {i j : Nat} (hi : i < 8) (hj : j < 96) :
    (c.operandRows o).extractLsb' (8 * (96 * i + j)) 8 = c.mem.loc.read (o.addr i j) := by
  rw [operandRows, extract_ofBytes (by omega)]
  rw [List.getD_eq_getElem _ _ (by simp; omega)]
  simp only [List.getElem_map, List.getElem_range]
  rw [show (96 * i + j) / 96 = i by omega, show (96 * i + j) % 96 = j by omega]

/-! ### Writes (rules R66, R67) -/

/-- A range of bytes covers a word whole. -/
def covers (a n w : Nat) : Bool := decide (a ≤ 16 * w) && decide (16 * w + 16 ≤ a + n)

/-- A word written whole is sound, or poisoned where its data are; another keeps its mark. -/
theorem storeBytes_bad (c : Core) (agent a : Nat) (bs : List Byte) (sick : List Nat) (w : Nat) :
    (c.storeBytes agent a bs sick).1.mem.bad.contains w =
      ((c.mem.bad.contains w && !covers a bs.length w) || ((wordsOf a bs.length).contains w && sick.contains w)) := by
  have hwhole : covers a bs.length w = true → w ∈ wordsOf a bs.length := by
    simp only [covers, Bool.and_eq_true, decide_eq_true_eq, mem_wordsOf]
    omega
  rw [Bool.eq_iff_iff]
  simp only [storeBytes, List.contains_eq_mem, decide_eq_true_eq, List.mem_append, List.mem_filter, Bool.or_eq_true, Bool.and_eq_true,
    Bool.not_eq_true', decide_eq_false_iff_not]
  simp only [covers, Bool.and_eq_true, decide_eq_true_eq] at hwhole
  simp only [covers, Bool.and_eq_false_iff, decide_eq_false_iff_not]
  tauto

/-- A claim's write: local space takes the bytes, and what is in flight, the error registers and the exchange word stay. -/
theorem claimWrite_frame (c : Core) (a : Nat) (bs : List Byte) (sick : List Nat) :
    let d := (c.claimWrite a bs sick).1
    d.ctl = c.ctl ∧ d.mem.loc = c.mem.loc.write a bs ∧ d.mem.inject = c.mem.inject ∧ d.sys = { c.sys with sig := d.sys.sig } ∧
      ∀ w, d.mem.bad.contains w =
        ((c.mem.bad.contains w && !covers a bs.length w) || ((wordsOf a bs.length).contains w && sick.contains w)) := by
  have hsign := c.sign_signed 0 (placed a bs)
  unfold claimWrite
  refine ⟨?_, ?_, ?_, ?_, fun w => ?_⟩
  · show (c.sign 0 (placed a bs)).ctl = _
    rw [hsign]
  · show (c.sign 0 (placed a bs)).mem.loc.write a bs = _
    rw [hsign]
  · show (c.sign 0 (placed a bs)).mem.inject = _
    rw [hsign]
  · show (c.sign 0 (placed a bs)).sys = { c.sys with sig := (c.sign 0 (placed a bs)).sys.sig }
    rw [hsign]
  · rw [storeBytes_bad, show (c.sign 0 (placed a bs)).mem = c.mem by rw [hsign]]

end Sys2Proof.Machine.Core
end

section
/-! One claim of every kind: what it reads, gives and writes. -/

namespace Sys2Proof.Machine.Core
open Sys2Proof

/-! ### Reads (rules R49, R50, R67) -/

/-- Checks that follow other reports append theirs. -/
theorem foldl_checkWord (cba : CodeAddr) (ws : List Nat) : ∀ (c : Core) (ns : List Note),
    ws.foldl (checkWord cba) (c, ns) = ((c.wordChecks cba ws).1, ns ++ (c.wordChecks cba ws).2) := by
  unfold wordChecks
  induction ws with
  | nil => exact fun c ns => by rw [List.foldl_nil, List.foldl_nil, List.append_nil]
  | cons w ws ih =>
    intro c ns
    have hstep : checkWord cba (c, ns) w = ((checkWord cba (c, []) w).1, ns ++ (checkWord cba (c, []) w).2) := by
      unfold checkWord
      dsimp only
      split
      · rfl
      · split <;> rw [List.append_nil]
    rw [List.foldl_cons, List.foldl_cons, hstep]
    generalize checkWord cba (c, []) w = x
    obtain ⟨d, ms⟩ := x
    rw [ih d (ns ++ ms), ih d ms, List.append_assoc]

theorem wordChecks_append (c : Core) (cba : CodeAddr) (xs ys : List Nat) :
    c.wordChecks cba (xs ++ ys) = (((c.wordChecks cba xs).1.wordChecks cba ys).1,
      (c.wordChecks cba xs).2 ++ ((c.wordChecks cba xs).1.wordChecks cba ys).2) := by
  rw [wordChecks, List.foldl_append, ← wordChecks, ← Prod.mk.eta (p := c.wordChecks cba xs), foldl_checkWord]

theorem operandRows_of_mem {c d : Core} (h : d.mem = c.mem) (o : Operand) : d.operandRows o = c.operandRows o := by
  unfold operandRows
  rw [h]

/-- A claim reads words and its result is in flight. -/
def claimGives (c : Core) (k : Claim) (ws : List Nat) (lat : Nat) (e : Effect) : Prop :=
  ∃ nan, c.runClaim [] k = ((c.wordChecks k.cba ws).1.landOf k lat e nan, (c.wordChecks k.cba ws).2)

section
variable {c : Core} {k : Claim}

theorem runClaim_load {y n : Nat} {signed : Bool} {d : BitVec 6} (h : k.act = .load y n signed d) :
    c.claimGives k (wordsOf y n) (loadLat (unitOf y)) (.sreg d (if signed then BitVec.ofInt 64 (sx (8 * n) (c.mem.loc.readNat y n))
      else BitVec.ofNat 64 (c.mem.loc.readNat y n))) := by
  refine ⟨none, ?_⟩
  unfold runClaim
  rw [h]
  rfl

theorem runClaim_vload {y : Nat} {d : BitVec 6} (h : k.act = .vload y d) :
    c.claimGives k (wordsOf y 256) (loadLat (unitOf y)) (.vreg d (vecOf (c.mem.loc.readN y 256))) := by
  refine ⟨none, ?_⟩
  unfold runClaim
  rw [h]
  rfl

theorem runClaim_bcast {y : Nat} {d : BitVec 6} (h : k.act = .bcast y d) :
    c.claimGives k (wordsOf y 4) (loadLat (unitOf y)) (.vreg d (ofLanes 32 64 (fun _ => c.mem.loc.readNat y 4))) := by
  refine ⟨none, ?_⟩
  unfold runClaim
  rw [h]
  rfl

/-- The words that a gather's active lanes name. -/
def gatherWords (ys : List (Option Nat)) : List Nat := ((ys.filterMap id).map (· / 16)).eraseDups

/-- The vector that a gather takes. -/
def gathered (m : Memory) (ew : Nat) (ys : List (Option Nat)) : Vec :=
  ofLanes (8 * ew) (256 / ew) (fun i => match ys.getD i none with | some a => m.readNat a ew | none => 0)

theorem runClaim_gather {ew : Nat} {ys : List (Option Nat)} {d : BitVec 6} (h : k.act = .gather ew ys d) :
    c.claimGives k (gatherWords ys) (if (ys.filterMap id).any (fun a => decide (8 ≤ unitOf a)) then 5 else 4)
      (.vreg d (gathered c.mem.loc ew ys)) := by
  have hlive : ys.map (fun a => a.bind (fun a => if ([] : List Nat).contains (unitOf a) then none else some a)) = ys := by
    have hid (a : Option Nat) : a.bind (fun a => if ([] : List Nat).contains (unitOf a) then none else some a) = a := by cases a <;> rfl
    simp only [hid, List.map_id']
  refine ⟨none, ?_⟩
  unfold runClaim
  rw [h]
  dsimp only
  rw [hlive]
  rfl

theorem runClaim_step {acc : BitVec 3} {fa fb qa qb A B latched} (h : k.act = .step acc fa fb qa qb A B latched) :
    c.claimGives k (rowWords A ++ B.elim [] rowWords) 12
      (.step acc fa fb qa qb (c.operandRows A) (B.elim latched c.operandRows)) := by
  refine ⟨k.nan, ?_⟩
  have hmem : (c.wordChecks k.cba (rowWords A)).1.mem = c.mem := underCheck_mem (c.wordChecks_underCheck k.cba (rowWords A))
  unfold runClaim
  rw [h]
  cases B with
  | none =>
    dsimp only [Option.elim]
    rw [List.append_nil, claimRows_eq]
    simp only [List.contains_nil, Bool.false_eq_true, if_false, List.append_nil]
  | some B =>
    dsimp only [Option.elim]
    rw [wordChecks_append, ← operandRows_of_mem hmem B, claimRows_eq]
    rfl

theorem runClaim_ldb {B : Operand} {f} (h : k.act = .ldb B f) :
    c.claimGives k (rowWords B) 2 (.latch (c.operandRows B) f) := by
  refine ⟨none, ?_⟩
  unfold runClaim
  rw [h]
  rfl

theorem runClaim_scl {y : Nat} {q} (h : k.act = .scl y q) :
    c.claimGives k (wordsOf y 64) 6 (.scale q (BitVec.ofNat 512 (ofBytes (c.mem.loc.readN y 64)))) := by
  refine ⟨none, ?_⟩
  unfold runClaim
  rw [h]
  rfl

/-- XSEND takes its bytes for the exchange plane, with their poisoned groups. -/
theorem runClaim_xsend {y : Nat} (h : k.act = .xsend y) : c.runClaim [] k =
    ({ (c.wordChecks k.cba (wordsOf y 256)).1 with mem := { (c.wordChecks k.cba (wordsOf y 256)).1.mem with
        inject := some (vecOf (c.mem.loc.readN y 256), if (wordsOf y 256).any c.mem.bad.contains then c.badGroups y else 0) } },
      (c.wordChecks k.cba (wordsOf y 256)).2) := by
  unfold runClaim
  rw [h]
  rfl

theorem runClaim_store {y : Nat} {bs : List Byte} (h : k.act = .store y bs ∨ k.act = .drain y bs) :
    c.runClaim [] k = c.claimWrite y bs [] := by
  unfold runClaim
  rcases h with h | h <;> rw [h] <;> rfl

theorem runClaim_xrecv {y : Nat} {w : Vec} {m : BitVec 16} (h : k.act = .xrecv y w m) :
    c.runClaim [] k = c.claimWrite y (vecBytes w) (groupWords y m) := by
  unfold runClaim
  rw [h]
  rfl

theorem runClaim_xradd_none {y : Nat} {ty : RaddType} (h : k.act = .xradd y ty none) : c.runClaim [] k = (c, []) := by
  unfold runClaim
  rw [h]

/-- XRADD checks its 256 bytes and writes the lanes' sums over them. -/
theorem runClaim_xradd {y : Nat} {ty : RaddType} {w : Vec} {m : BitVec 16} (h : k.act = .xradd y ty (some (w, m))) :
    c.runClaim [] k =
      (((c.wordChecks k.cba (wordsOf y 256)).1.claimWrite y (vecBytes (xraddLanes ty (vecOf (c.mem.loc.readN y 256)) w))
          (if m != 0 || (wordsOf y 256).any c.mem.bad.contains then wordsOf y 256 else [])).1,
        (c.wordChecks k.cba (wordsOf y 256)).2 ++ ((c.wordChecks k.cba (wordsOf y 256)).1.claimWrite y
          (vecBytes (xraddLanes ty (vecOf (c.mem.loc.readN y 256)) w))
          (if m != 0 || (wordsOf y 256).any c.mem.bad.contains then wordsOf y 256 else [])).2) := by
  unfold runClaim
  rw [h]
  rfl

theorem runClaim_scatter {ls : List (Nat × List Byte)} (h : k.act = .scatter ls) :
    c.runClaim [] k = (c.sign 0 (ls.flatMap (fun l => placed l.1 l.2))).storeScattered 0 (ls.flatMap (fun l => placed l.1 l.2)) := by
  have hlive : ls.filter (fun l => !([] : List Nat).contains (unitOf l.1)) = ls := List.filter_eq_self.mpr fun _ _ => rfl
  unfold runClaim
  rw [h]
  dsimp only
  rw [hlive, ← List.flatMap_def]

end

end Sys2Proof.Machine.Core
end

section
/-! Due claims: what they leave, what one gives, and which of two is served. -/

namespace Sys2Proof.Machine.Core
open Sys2Proof

/-! ### What every claim leaves -/

/-- A claim has reached its storage: results may have joined those in flight, and BCINFO is as it was; unless it `sends`, so is the word
for the exchange plane. -/
def reached (sends : Bool) (c d : Core) : Prop :=
  d.ctl = { c.ctl with lands := d.ctl.lands } ∧ c.ctl.lands ⊆ d.ctl.lands ∧ d.sys.bcinfo = c.sys.bcinfo ∧
    (sends = false → d.mem.inject = c.mem.inject)

theorem reached_refl (sends : Bool) (c : Core) : reached sends c c := ⟨rfl, List.Subset.refl _, rfl, fun _ => rfl⟩

theorem reached_trans {sends : Bool} {a b c : Core} (h : reached sends a b) (g : reached sends b c) : reached sends a c := by
  obtain ⟨hctl, hl, hb, hi⟩ := h
  obtain ⟨gctl, gl, gb, gi⟩ := g
  exact ⟨by rw [gctl, hctl], List.Subset.trans hl gl, gb.trans hb, fun hs => (gi hs).trans (hi hs)⟩

theorem checked_reached (sends : Bool) {c d : Core} (h : c.checked d) : reached sends c d := by
  obtain ⟨h, -⟩ := h
  rw [h]
  exact ⟨rfl, List.Subset.refl _, rfl, fun _ => rfl⟩

theorem landOf_reached (sends : Bool) (c : Core) (k : Claim) (lat : Nat) (e : Effect) (nan : Option NanInfo) :
    reached sends c (c.landOf k lat e nan) := ⟨rfl, List.subset_append_left _ _, rfl, fun _ => rfl⟩

theorem claimWrite_reached (sends : Bool) (c : Core) (a : Nat) (bs : List Byte) (sick : List Nat) :
    reached sends c (c.claimWrite a bs sick).1 := by
  obtain ⟨hctl, -, hi, hsys, -⟩ := c.claimWrite_frame a bs sick
  exact ⟨by rw [hctl], by rw [hctl]; exact List.Subset.refl _, by rw [hsys], fun _ => hi⟩

/-- A claim whose action sends a word to the exchange plane. -/
def sendsWord (k : Claim) : Bool := match k.act with | .xsend _ => true | _ => false

theorem runClaim_reached (c : Core) (sup : List Nat) (k : Claim) : reached (sendsWord k) c (c.runClaim sup k).1 := by
  have hland (d : Core) (lat : Nat) (e : Effect) (nan : Option NanInfo) (h : reached (sendsWord k) c d) :
      reached (sendsWord k) c (d.landOf k lat e nan) := reached_trans h (landOf_reached ..)
  have hr (b : Bool) (x : List Byte) (a n : Nat) :
      reached (sendsWord k) c (if b = true then (x, false, c, []) else c.claimRead k.cba a n).2.2.1 := by
    split
    · exact reached_refl ..
    · exact checked_reached _ (c.wordChecks_checked k.cba (wordsOf a n))
  have hw (b : Bool) (a : Nat) (bs : List Byte) (p : List Nat) :
      reached (sendsWord k) c (if b = true then (c, []) else c.claimWrite a bs p).1 := by
    split
    · exact reached_refl ..
    · exact claimWrite_reached ..
  have ho (d : Core) (b : Bool) (o : Operand) (h : reached (sendsWord k) c d) :
      reached (sendsWord k) c (if b = true then ((0 : Rows), d, []) else d.claimRows k.cba o).2.1 := by
    split
    · exact h
    · exact reached_trans h (checked_reached _ (d.wordChecks_checked k.cba (rowWords o)))
  unfold runClaim
  cases hk : k.act with
  | load a n sg d => exact hland _ _ _ _ (hr ..)
  | vload a d => exact hland _ _ _ _ (hr ..)
  | bcast a d => exact hland _ _ _ _ (hr ..)
  | gather ew as d => exact hland _ _ _ _ (checked_reached _ (c.wordChecks_checked k.cba _))
  | store a bs => exact hw ..
  | scatter ls =>
    have hsign := c.sign_signed 0 ((ls.filter (fun l => !sup.contains (unitOf l.1))).map (fun l => placed l.1 l.2)).flatten
    refine reached_trans (b := c.sign 0 _) ?_ ⟨rfl, List.Subset.refl _, rfl, fun _ => rfl⟩
    rw [hsign]
    exact ⟨rfl, List.Subset.refl _, rfl, fun _ => rfl⟩
  | step acc fa fb qa qb A B latched =>
    cases B with
    | none => exact hland _ _ _ _ (ho c _ _ (reached_refl ..))
    | some B => exact hland _ _ _ _ (ho _ _ _ (ho c _ _ (reached_refl ..)))
  | ldb B f => exact hland _ _ _ _ (ho c _ _ (reached_refl ..))
  | scl a q => exact hland _ _ _ _ (hr ..)
  | drain a bs => exact hw ..
  | xsend a =>
    obtain ⟨hctl, hl, hb, -⟩ := hr (sup.contains (unitOf a)) [] a 256
    exact ⟨hctl, hl, hb, fun h => by simp [sendsWord, hk] at h⟩
  | xrecv a w p => exact hw ..
  | xradd a ty w =>
    cases w with
    | none => exact reached_refl ..
    | some w =>
      dsimp only
      split
      · exact reached_refl ..
      · exact reached_trans (checked_reached _ (c.wordChecks_checked k.cba (wordsOf a 256))) (claimWrite_reached ..)

/-! ### What one claim gives -/

/-- A claim's result is in flight, and local space is as it was. -/
def gave (c d : Core) (k : Claim) (n : Nat) (e : Effect) : Prop :=
  (d.mem.loc = c.mem.loc ∧ d.mem.bad = c.mem.bad) ∧ ∃ l : Landing, d.ctl.lands = c.ctl.lands ++ [l] ∧
    l.due = k.issued + n ∧ l.issued = k.issued ∧ l.slot = k.slot ∧ l.eff = e

theorem claimGives_gave {c : Core} {k : Claim} {ws : List Nat} {lat : Nat} {e : Effect} (h : c.claimGives k ws lat e) :
    gave c (c.runClaim [] k).1 k lat e := by
  obtain ⟨nan, heq⟩ := h
  obtain ⟨hc, -⟩ := c.wordChecks_checked k.cba ws
  rw [heq, hc]
  exact ⟨⟨rfl, rfl⟩, _, rfl, rfl, rfl, rfl, rfl⟩

/-- What claims of an action read: the words that they touch. -/
def claimTouched (a : Action) : List Nat :=
  let rows := fun (o : Operand) => (List.range 8).flatMap (fun i => (List.range 96).map (fun j => o.addr i j / 16))
  match a with
  | .load y n _ _ => wordsOf y n | .vload y _ => wordsOf y 256 | .bcast y _ => wordsOf y 4
  | .gather _ ys _ => (ys.filterMap id).map (· / 16)
  | .step _ _ _ _ _ A B _ => rows A ++ (match B with | some B => rows B | none => [])
  | .ldb B _ => rows B | .scl y _ => wordsOf y 64 | .xsend y => wordsOf y 256 | .xradd y _ (some _) => wordsOf y 256
  | .xradd _ _ none => [] | .store _ _ => [] | .drain _ _ => [] | .scatter _ => [] | .xrecv _ _ _ => []

/-- The checks of some words have shaped a claim's outcome: its error records and reports, and unless the claim adds, the queue of
write-backs. -/
def checkedBy (c : Core) (k : Claim) (ws : List Nat) : Prop :=
  let r := c.runClaim [] k
  let x := c.wordChecks k.cba ws
  (r.1.sys.memerr = x.1.sys.memerr ∧ r.1.sys.carderr = x.1.sys.carderr) ∧ x.2 ⊆ r.2 ∧
    ((∀ y ty m, k.act ≠ .xradd y ty m) → x.1.aux.fixes ⊆ r.1.aux.fixes)

theorem claimGives_checkedBy {c : Core} {k : Claim} {ws : List Nat} {lat : Nat} {e : Effect} (h : c.claimGives k ws lat e) :
    c.checkedBy k ws := by
  obtain ⟨nan, heq⟩ := h
  unfold checkedBy
  rw [heq]
  exact ⟨⟨rfl, rfl⟩, List.Subset.refl _, fun _ => List.Subset.refl _⟩

theorem mem_rowWords_of_rows {o : Operand} {w : Nat}
    (h : w ∈ (List.range 8).flatMap (fun i => (List.range 96).map (fun j => o.addr i j / 16))) : w ∈ rowWords o := by
  obtain ⟨i, hi, hw⟩ := List.mem_flatMap.mp h
  obtain ⟨j, hj, rfl⟩ := List.mem_map.mp hw
  exact mem_rowWords o (List.mem_range.mp hi) (List.mem_range.mp hj)

/-- Every word that a claim touches is among those that it checks. -/
theorem checkedBy_touched (c : Core) (k : Claim) {w : Nat} (hw : w ∈ claimTouched k.act) :
    ∃ ws, w ∈ ws ∧ c.checkedBy k ws := by
  obtain ⟨act, hk⟩ : ∃ act, k.act = act := ⟨_, rfl⟩
  rw [hk] at hw
  cases act with
  | load a n sg d => exact ⟨_, hw, claimGives_checkedBy (runClaim_load hk)⟩
  | vload a d => exact ⟨_, hw, claimGives_checkedBy (runClaim_vload hk)⟩
  | bcast a d => exact ⟨_, hw, claimGives_checkedBy (runClaim_bcast hk)⟩
  | gather ew as d => exact ⟨_, List.mem_eraseDups.mpr hw, claimGives_checkedBy (runClaim_gather hk)⟩
  | store a bs => exact absurd hw List.not_mem_nil
  | scatter ls => exact absurd hw List.not_mem_nil
  | step acc fa fb qa qb A B latched =>
    refine ⟨_, ?_, claimGives_checkedBy (runClaim_step hk)⟩
    cases B with
    | none => exact List.mem_append_left _ (mem_rowWords_of_rows (by simpa only [claimTouched, List.append_nil] using hw))
    | some B =>
      exact (List.mem_append.mp hw).elim (fun h => List.mem_append_left _ (mem_rowWords_of_rows h))
        (fun h => List.mem_append_right _ (mem_rowWords_of_rows h))
  | ldb B f => exact ⟨_, mem_rowWords_of_rows hw, claimGives_checkedBy (runClaim_ldb hk)⟩
  | scl a q => exact ⟨_, hw, claimGives_checkedBy (runClaim_scl hk)⟩
  | drain a bs => exact absurd hw List.not_mem_nil
  | xsend a =>
    refine ⟨wordsOf a 256, hw, ?_⟩
    unfold checkedBy
    rw [runClaim_xsend hk]
    exact ⟨⟨rfl, rfl⟩, List.Subset.refl _, fun _ => List.Subset.refl _⟩
  | xrecv a w p => exact absurd hw List.not_mem_nil
  | xradd a ty w =>
    cases w with
    | none => exact absurd hw List.not_mem_nil
    | some w =>
      refine ⟨wordsOf a 256, hw, ?_⟩
      unfold checkedBy
      rw [runClaim_xradd hk]
      dsimp only
      rw [(claimWrite_frame ..).2.2.2.1]
      exact ⟨⟨rfl, rfl⟩, List.subset_append_left _ _, fun h => absurd hk (h _ _ _)⟩

/-- An uncorrectable word that a claim touches is counted, recorded and lost (rules R67, R371). -/
theorem runClaim_reported (c : Core) (k : Claim) {w : Nat} (hw : w ∈ claimTouched k.act) (hbad : c.mem.bad.contains w = true) :
    c.reported (c.runClaim [] k) := by
  obtain ⟨ws, hmem, ⟨hue, hcard⟩, hns, -⟩ := c.checkedBy_touched k hw
  obtain ⟨g1, g2, core, a, val, g3⟩ := c.wordChecks_reported k.cba ws hmem hbad
  exact ⟨by rw [hue]; exact g1, by rw [hcard]; exact g2, core, a, val, hns g3⟩

/-- A correctable word that a claim reads is queued for its write-back (rule R66). -/
theorem runClaim_queued (c : Core) (k : Claim) {w : Nat} (hw : w ∈ claimTouched k.act) (hbad : c.mem.bad.contains w = false)
    (hsoft : c.mem.soft.contains w = true) (hx : ∀ y ty m, k.act ≠ .xradd y ty m) : (c.runClaim [] k).1.queued (unitOf (16 * w)) w := by
  obtain ⟨ws, hmem, -, -, hfix⟩ := c.checkedBy_touched k hw
  obtain ⟨f, hf, hu, hw⟩ := c.wordChecks_queued k.cba ws hmem hbad hsoft
  exact ⟨f, hfix hx hf, hu, hw⟩

end Sys2Proof.Machine.Core
end

section
/-! The claims of a core cycle: one alone, and two that meet on a unit. -/

namespace Sys2Proof.Machine.Core
open Sys2Proof

/-! ### The claims of a core cycle (rules R49, R55, R56) -/

/-- The core with the claims of the present core cycle taken from those recorded. -/
def begun (c : Core) : Core :=
  { c with ctl := { c.ctl with
    claims := c.ctl.claims.filter (fun x => x.due != c.ctl.cc)
    claimed := c.ctl.claimed ++ ((c.ctl.claims.filter (fun x => x.due == c.ctl.cc)).map Claim.unitCodes).flatten } }

/-- A claim alone meets none. -/
theorem settle_one (c : Core) (k : Claim) : c.settle [k] = ([[]], c, []) := by
  unfold settle
  refine List.foldlRecOn (motive := fun st => st = ([[]], c, [])) _ _ rfl fun st h unit _ => ?_
  subst h
  cases hu : k.units.find? (fun u => u.1 == unit) with
  | none => simp [usersOf, hu, served]
  | some u => simp [usersOf, hu, served, firstLost]

theorem runClaims_one {c : Core} {k : Claim} (h : c.ctl.claims.filter (fun x => x.due == c.ctl.cc) = [k]) :
    c.runClaims = c.begun.runClaim [] k := by
  have hs := c.begun.settle_one k
  unfold runClaims
  dsimp only
  rw [begun, h] at hs
  rw [h, hs, begun, h]
  rfl

/-- BCINFO of two claims that meet on a unit, the second of which is suppressed (rule R55). -/
def meetWord (c : Core) (g : Nat) (a b : Nat × Claim) : Word :=
  bcWord 1 g a.1 b.1 (c.ctl.cc - b.2.issued) ((b.2.issued : Int) - a.2.issued)

theorem usersOf_meet {k₁ k₂ : Claim} {g u₁ u₂ : Nat} (h₁ : k₁.units = [(g, u₁)]) (h₂ : k₂.units = [(g, u₂)]) :
    usersOf [k₁, k₂] g = [(0, u₁, k₁), (1, u₂, k₂)] ∧ ∀ j, j ≠ g → usersOf [k₁, k₂] j = [] := by
  refine ⟨?_, fun j hj => ?_⟩
  · simp [usersOf, List.range_succ, h₁, h₂]
  · have hne : g ≠ j := fun h => hj h.symm
    simp [usersOf, List.range_succ, h₁, h₂, hne]

/-- A fold that one member changes. -/
theorem foldl_of_unique {α β : Type} {f : β → α → β} {x : α} {xs : List α} (hn : xs.Nodup) (hx : x ∈ xs)
    (hf : ∀ b y, y ≠ x → f b y = b) (b : β) : xs.foldl f b = f b x := by
  obtain ⟨pre, post, rfl⟩ := List.append_of_mem hx
  have hpre (y : α) (hy : y ∈ pre) : y ≠ x := fun h => List.disjoint_of_nodup_append hn hy (h ▸ List.mem_cons_self)
  have hpost (y : α) (hy : y ∈ post) : y ≠ x := fun h => (List.nodup_cons.mp (List.nodup_append.mp hn).2.1).1 (h ▸ hy)
  have hid (ys : List α) (hys : ∀ y ∈ ys, y ≠ x) (b : β) : ys.foldl f b = b :=
    List.foldlRecOn (motive := fun a => a = b) _ _ rfl fun a h y hy => by rw [hf a y (hys y hy), h]
  rw [List.foldl_append, List.foldl_cons, hid pre hpre, hid post hpost]

section
variable {c : Core} {k₁ k₂ : Claim} {g u₁ u₂ : Nat} (h₁ : k₁.units = [(g, u₁)]) (h₂ : k₂.units = [(g, u₂)]) (hg : g < 10)
include h₁ h₂ hg

/-- The first of two claims that meet is served where its rank is no lower. -/
theorem settle_first (hr : userRank u₁ ≤ userRank u₂) : c.settle [k₁, k₂] =
    ([[], [g]], { c with sys := { c.sys with bcinfo := c.meetWord g (u₁, k₁) (u₂, k₂) } }, [.loss 0x05 c.idx k₂.cba 0]) := by
  obtain ⟨hu, hne⟩ := usersOf_meet h₁ h₂
  unfold settle
  rw [foldl_of_unique List.nodup_range (List.mem_range.mpr hg) (fun b j hj => by simp [hne j hj, served])]
  have hs : served [(0, u₁, k₁), (1, u₂, k₂)] = some (0, u₁, k₁) := by simp [served, Nat.not_lt.mpr hr]
  dsimp only
  rw [hu, hs]
  rfl

theorem settle_second (hr : userRank u₂ < userRank u₁) : c.settle [k₁, k₂] =
    ([[g], []], { c with sys := { c.sys with bcinfo := c.meetWord g (u₂, k₂) (u₁, k₁) } }, [.loss 0x05 c.idx k₁.cba 0]) := by
  obtain ⟨hu, hne⟩ := usersOf_meet h₁ h₂
  unfold settle
  rw [foldl_of_unique List.nodup_range (List.mem_range.mpr hg) (fun b j hj => by simp [hne j hj, served])]
  have hs : served [(0, u₁, k₁), (1, u₂, k₂)] = some (1, u₂, k₂) := by simp [served, hr]
  dsimp only
  rw [hu, hs]
  rfl

end

/-- The core with BCINFO written. -/
def withBc (c : Core) (w : Word) : Core := { c with sys := { c.sys with bcinfo := w } }

/-- Two claims in recorded order, the units that each loses given. -/
def runTwo (c : Core) (s₁ s₂ : List Nat) (k₁ k₂ : Claim) : Core := ((c.runClaim s₁ k₁).1.runClaim s₂ k₂).1

theorem runClaims_two {c : Core} {k₁ k₂ : Claim} {s₁ s₂ : List Nat} {w : Word} {n : Note}
    (h : c.ctl.claims.filter (fun x => x.due == c.ctl.cc) = [k₁, k₂])
    (hs : c.begun.settle [k₁, k₂] = ([s₁, s₂], c.begun.withBc w, [n])) :
    c.runClaims.1 = (c.begun.withBc w).runTwo s₁ s₂ k₁ k₂ ∧ n ∈ c.runClaims.2 := by
  unfold runClaims
  dsimp only
  rw [begun, h] at hs
  rw [h, hs, begun, h]
  exact ⟨rfl, List.mem_append_left _ (List.mem_append_left _ (List.mem_singleton.mpr rfl))⟩

/-! ### A claim whose access is suppressed (rule R56) -/

section
variable {c : Core} {k : Claim} {g : Nat}

theorem ofBytes_zeros : ∀ n : Nat, ofBytes (List.replicate n 0) = 0
  | 0 => rfl
  | n + 1 => by
    rw [List.replicate_succ, ofBytes, ofBytes_zeros n]
    rfl

theorem contains_unit {y : Nat} (h : unitOf y = g) : [g].contains (unitOf y) = true := by simp [h]

theorem runClaim_load_lost {y n : Nat} {signed : Bool} {d : BitVec 6} (h : k.act = .load y n signed d) (hy : unitOf y = g) :
    c.runClaim [g] k = (c.landOf k (loadLat g) (.sreg d 0), []) := by
  have hsx : (if signed then BitVec.ofInt 64 (sx (8 * n) 0) else BitVec.ofNat 64 0) = 0 := by
    simp [sx]
  subst hy
  unfold runClaim
  rw [h]
  simp only [contains_unit rfl, if_true, ofBytes_zeros, hsx]

theorem runClaim_vload_lost {y : Nat} {d : BitVec 6} (h : k.act = .vload y d) (hy : unitOf y = g) :
    c.runClaim [g] k = (c.landOf k (loadLat g) (.vreg d 0), []) := by
  subst hy
  unfold runClaim
  rw [h]
  simp only [contains_unit rfl, if_true]
  rfl

theorem runClaim_xsend_lost {y : Nat} (h : k.act = .xsend y) (hy : unitOf y = g) :
    c.runClaim [g] k = ({ c with mem := { c.mem with inject := some (0, 0) } }, []) := by
  unfold runClaim
  rw [h]
  simp only [contains_unit hy, if_true]
  rfl

theorem runClaim_store_lost {y : Nat} {bs : List Byte} (h : k.act = .store y bs) (hy : unitOf y = g) : c.runClaim [g] k = (c, []) := by
  unfold runClaim
  rw [h]
  simp only [contains_unit hy, if_true]

end

/-- Of two claims one is lost: it runs with its unit suppressed, before or after the other. -/
def oneLost (c : Core) (g : Nat) (kept lost : Claim) (d : Core) : Prop :=
  d = c.runTwo [g] [] lost kept ∨ d = c.runTwo [] [g] kept lost

section
variable {c d : Core} {g : Nat} {kept lost : Claim} (h : c.oneLost g kept lost d)
include h

theorem oneLost_bcinfo : d.sys.bcinfo = c.sys.bcinfo := by
  rcases h with rfl | rfl
  all_goals
    obtain ⟨-, -, h1, -⟩ := runClaim_reached c _ _
    obtain ⟨-, -, h2, -⟩ := runClaim_reached _ _ _
    exact h2.trans h1

/-- What the lost claim lands, the core has in flight. -/
theorem oneLost_lands {lat : Nat} {e : Effect} (hl : ∀ x : Core, x.runClaim [g] lost = (x.landOf lost lat e, [])) :
    ∃ l ∈ d.ctl.lands, l.eff = e ∧ l.due = lost.issued + lat := by
  have hland (x : Core) : ∃ l ∈ (x.landOf lost lat e).ctl.lands, l.eff = e ∧ l.due = lost.issued + lat :=
    ⟨_, List.mem_append_right _ (List.mem_singleton.mpr rfl), rfl, rfl⟩
  rcases h with rfl | rfl
  · obtain ⟨-, hsub, -⟩ := runClaim_reached (c.runClaim [g] lost).1 [] kept
    obtain ⟨l, hmem, hl'⟩ := hland c
    rw [hl] at hsub
    rw [runTwo, hl]
    exact ⟨l, hsub hmem, hl'⟩
  · rw [runTwo, hl]
    exact hland _

theorem oneLost_inject {y : Nat} (hl : lost.act = .xsend y) (hy : unitOf y = g) (hk : ∀ z, kept.act ≠ .xsend z) :
    d.mem.inject = some (0, 0) := by
  have hs : sendsWord kept = false := by
    unfold sendsWord
    split
    · next z hz => exact absurd hz (hk z)
    · rfl
  rcases h with rfl | rfl
  · obtain ⟨-, -, -, hi⟩ := runClaim_reached (c.runClaim [g] lost).1 [] kept
    rw [runTwo, hi hs, runClaim_xsend_lost hl hy]
  · rw [runTwo, runClaim_xsend_lost hl hy]

/-- Of two stores that meet one reaches local space. -/
theorem oneLost_store {y z : Nat} {bs cs : List Byte} (hl : lost.act = .store y bs) (hy : unitOf y = g) (hk : kept.act = .store z cs) :
    d.mem.loc = c.mem.loc.write z cs := by
  rcases h with rfl | rfl
  · rw [runTwo, runClaim_store_lost hl hy, runClaim_store (Or.inl hk), (claimWrite_frame ..).2.1]
  · rw [runTwo, runClaim_store_lost hl hy, runClaim_store (Or.inl hk), (claimWrite_frame ..).2.1]

end

end Sys2Proof.Machine.Core
end

section
/-! UNIT_CLAIM: a due claim of every kind, and two that meet. -/

namespace Sys2Proof.Machine
open Sys2Proof

/-! ### Bytes of what claims give -/

/-- A byte of a register made of lanes. -/
theorem byte_ofLanes {e n i j : Nat} (f : Nat → Nat) (hi : i < n) (hj : j < e) (h : 8 * e * n ≤ 2048) :
    (ofLanes (8 * e) n f).extractLsb' (8 * (e * i + j)) 8 = BitVec.ofNat 8 (f i / 2 ^ (8 * j)) := by
  have hsub : (ofLanes (8 * e) n f).extractLsb' (8 * (e * i + j)) 8 = (laneAt (8 * e) (ofLanes (8 * e) n f) i).extractLsb' (8 * j) 8 := by
    apply BitVec.eq_of_getLsbD_eq
    intro b hb
    simp only [laneAt, BitVec.getLsbD_extractLsb']
    rw [decide_eq_true hb, decide_eq_true (show 8 * j + b < 8 * e by omega), Bool.true_and, Bool.true_and, Bool.true_and]
    congr 1
    rw [Nat.mul_add, Nat.mul_assoc, Nat.add_assoc]
  rw [hsub, laneAt_ofLanes _ _ _ _ hi h, extract_ofNat (by omega)]

theorem holds_vecOf (m : Memory) (y : Nat) {i : Nat} (h : i < 256) : (vecOf (m.readN y 256)).extractLsb' (8 * i) 8 = m.read (y + i) := by
  rw [vecOf, extract_ofBytes (by omega), Memory.getD_readN _ _ h]

theorem byte_bcast (m : Memory) (y : Nat) {i : Nat} (h : i < 256) :
    (ofLanes 32 64 (fun _ => m.readNat y 4)).extractLsb' (8 * i) 8 = m.read (y + i % 4) := by
  have hb := byte_ofLanes (e := 4) (n := 64) (i := i / 4) (j := i % 4) (fun _ => m.readNat y 4) (by omega) (by omega) (by decide)
  rw [show 4 * (i / 4) + i % 4 = i by omega] at hb
  rw [← Memory.byte_readNat m y (show i % 4 < 4 by omega)]
  exact hb

theorem byte_gathered (m : Memory) {ew i j : Nat} (ys : List (Option Nat)) (he : ew = 2 ∨ ew = 4) (hi : i < 256 / ew) (hj : j < ew) :
    (Core.gathered m ew ys).extractLsb' (8 * (ew * i + j)) 8 = match ys.getD i none with | some y => m.read (y + j) | none => 0 := by
  have hwide : 8 * ew * (256 / ew) ≤ 2048 := by rcases he with rfl | rfl <;> decide
  rw [Core.gathered, byte_ofLanes _ hi hj hwide]
  cases ys.getD i none with
  | none => simp
  | some y => exact Memory.byte_readNat m y hj

/-- A load's number, zero- or sign-extended (rule R268). -/
theorem signed_value {n x : Nat} (signed : Bool) (hx : x < 2 ^ (8 * n)) :
    (if signed then BitVec.ofInt 64 (sx (8 * n) x) else BitVec.ofNat 64 x) =
      if signed && decide (2 * x ≥ 2 ^ (8 * n)) then BitVec.ofNat 64 x - BitVec.ofNat 64 (2 ^ (8 * n)) else BitVec.ofNat 64 x := by
  have hhalf : x < 2 ^ (8 * n - 1) ↔ ¬ 2 * x ≥ 2 ^ (8 * n) := by
    cases n with
    | zero => simp at hx ⊢
    | succ n =>
      have hpow : 2 ^ (8 * (n + 1)) = 2 * 2 ^ (8 * (n + 1) - 1) := by
        rw [← Nat.pow_succ', Nat.succ_eq_add_one, Nat.sub_add_cancel (by omega)]
      omega
  cases signed with
  | false => rfl
  | true =>
    by_cases h : 2 * x ≥ 2 ^ (8 * n)
    · simp only [sx, hhalf, h, not_true_eq_false, if_false, if_true, Bool.true_and, decide_true]
      rw [Int.sub_eq_add_neg, BitVec.ofInt_add, BitVec.ofInt_neg, BitVec.ofInt_natCast, BitVec.ofInt_natCast, BitVec.sub_eq_add_neg]
    · simp only [sx, hhalf, h, not_false_eq_true, if_true, Bool.true_and, decide_false, Bool.false_eq_true, if_false,
        BitVec.ofInt_natCast]

/-- A mask built bit by bit. -/
theorem getLsbD_foldl_mask (p : Nat → Bool) (n j : Nat) (hj : j < 16) :
    ((List.range n).foldl (fun (m : BitVec 16) i => if p i then m ||| (1#16 <<< i) else m) 0).getLsbD j = (decide (j < n) && p j) := by
  induction n with
  | zero => simp
  | succ n ih =>
    rw [List.range_succ, List.foldl_append, List.foldl_cons, List.foldl_nil]
    have hone : (1#16 <<< n).getLsbD j = decide (j = n) := by
      rw [BitVec.getLsbD_shiftLeft, decide_eq_true hj, Bool.true_and]
      by_cases h : j < n
      · simp [h, show j ≠ n by omega]
      · simp [h, show (j - n = 0) ↔ j = n by omega, BitVec.getLsbD_one]
    split
    · next hp =>
      rw [BitVec.getLsbD_or, ih, hone]
      by_cases h : j = n
      · subst h; simp [hp]
      · simp [h, show (j < n + 1) ↔ j < n by omega]
    · next hp =>
      rw [ih]
      by_cases h : j = n
      · subst h; simp [hp]
      · simp [show (j < n + 1) ↔ j < n by omega]

theorem getLsbD_badGroups (c : Core) (a : Nat) {i : Nat} (h : i < 16) : (c.badGroups a).getLsbD i = c.mem.bad.contains (a / 16 + i) := by
  rw [Core.badGroups, getLsbD_foldl_mask (fun i => c.mem.bad.contains (a / 16 + i)) 16 i h, decide_eq_true h, Bool.true_and]

/-- The poisoned groups of an XSEND, sound where no word is poisoned (rules R72, R305). -/
theorem sentMask (c : Core) (y : Nat) {i : Nat} (h : i < 16) :
    (if (Core.wordsOf y 256).any c.mem.bad.contains then c.badGroups y else 0).getLsbD i = c.mem.bad.contains (y / 16 + i) := by
  split
  · exact getLsbD_badGroups c y h
  · next hno =>
    have hw : y / 16 + i ∈ Core.wordsOf y 256 := mem_wordsOf.mpr (by omega)
    rw [List.any_eq_true] at hno
    cases hb : c.mem.bad.contains (y / 16 + i) with
    | false => simp
    | true => exact absurd ⟨_, hw, hb⟩ hno

theorem contains_groupWords (y : Nat) (m : BitVec 16) {i : Nat} (h : i < 16) : (groupWords y m).contains (y / 16 + i) = m.getLsbD i := by
  rw [Bool.eq_iff_iff]
  simp [groupWords, h]

/-! ### Sums of XRADD (rule R307) -/

/-- Numbers of so many bytes are equal where their bytes are. -/
theorem eq_of_bytes {n x y : Nat} (hx : x < 2 ^ (8 * n)) (hy : y < 2 ^ (8 * n))
    (h : ∀ j, j < n → BitVec.ofNat 8 (x / 2 ^ (8 * j)) = BitVec.ofNat 8 (y / 2 ^ (8 * j))) : x = y := by
  refine Nat.eq_of_testBit_eq fun b => ?_
  by_cases hb : b < 8 * n
  · have hbyte := congrArg (fun z : BitVec 8 => z.getLsbD (b % 8)) (h (b / 8) (by omega))
    have hlt : b % 8 < 8 := Nat.mod_lt _ (by decide)
    simp only [BitVec.getLsbD_ofNat, Nat.testBit_div_two_pow, decide_eq_true hlt, Bool.true_and] at hbyte
    rwa [show b % 8 + 8 * (b / 8) = b by omega] at hbyte
  · have hpow : 2 ^ (8 * n) ≤ 2 ^ b := Nat.pow_le_pow_right (by decide) (by omega)
    rw [Nat.testBit_lt_two_pow (hx.trans_le hpow), Nat.testBit_lt_two_pow (hy.trans_le hpow)]

/-- A lane of a register read from memory. -/
theorem lane_vecOf (m : Memory) (y : Nat) {n i : Nat} (h : n * i + n ≤ 256) :
    lane (vecOf (m.readN y 256)) (8 * n) i = m.readNat (y + n * i) n := by
  refine eq_of_bytes (Nat.mod_lt _ (Nat.two_pow_pos _)) (Memory.readNat_lt ..) fun j hj => ?_
  rw [Memory.byte_readNat _ _ hj, ← extract_ofNat (N := 8 * n) (by omega), ← laneAt_eq, Nat.add_assoc,
    ← holds_vecOf m y (show n * i + j < 256 by omega)]
  apply BitVec.eq_of_getLsbD_eq
  intro b hb
  simp only [laneAt, BitVec.getLsbD_extractLsb']
  rw [decide_eq_true hb, decide_eq_true (show 8 * j + b < 8 * n by omega), Bool.true_and, Bool.true_and, Bool.true_and]
  congr 1
  rw [Nat.mul_add, Nat.mul_assoc, Nat.add_assoc]

/-- The bytes of an XRADD's lane, and its sum. -/
def raddBytes (ty : RaddType) : Nat := match ty with | .f32 => 4 | .i32 => 4 | .f16 => 2 | .bf16 => 2
def raddSum (ty : RaddType) (a b : Nat) : Nat := match ty with
  | .f32 => fAdd .f32 .rne a b | .f16 => fAdd .f16 .rne a b | .bf16 => fAdd .bf16 .rne a b | .i32 => (a + b) % 2 ^ 32

theorem raddBytes_cases (ty : RaddType) : raddBytes ty = 2 ∨ raddBytes ty = 4 := by
  cases ty <;> simp [raddBytes]

theorem xraddLanes_eq (ty : RaddType) (x w : Vec) : xraddLanes ty x w = zipLanes (8 * raddBytes ty) (raddSum ty) x w := by
  cases ty <;> rfl

theorem byte_xraddLanes (m : Memory) (y : Nat) (ty : RaddType) (w : Vec) {i j : Nat} (hi : i < 256 / raddBytes ty) (hj : j < raddBytes ty) :
    (vecBytes (xraddLanes ty (vecOf (m.readN y 256)) w)).getD (raddBytes ty * i + j) 0 =
      (toBytes (raddBytes ty) (raddSum ty (m.readNat (y + raddBytes ty * i) (raddBytes ty))
        (w.extractLsb' (8 * raddBytes ty * i) (8 * raddBytes ty)).toNat)).getD j 0 := by
  rw [xraddLanes_eq]
  have hn24 := raddBytes_cases ty
  generalize raddBytes ty = n at hi hj hn24 ⊢
  have hfit : n * i + n ≤ 256 := by rcases hn24 with rfl | rfl <;> omega
  have hwide : 2048 / (8 * n) = 256 / n := by rcases hn24 with rfl | rfl <;> rfl
  have hw : (w.extractLsb' (8 * n * i) (8 * n)).toNat = lane w (8 * n) i := toNat_laneAt (8 * n) w i
  rw [getD_vecBytes _ (by omega), zipLanes, byte_ofLanes _ (by rw [hwide]; exact hi) hj (Nat.mul_div_le _ _), lane_vecOf m y hfit,
    getD_toBytes _ _ _ hj, hw]

/-! ### UNIT_CLAIM -/

/-- The event runs the due claims of a core cycle that has begun, and its losses become pending. -/
theorem unitClaim_of_active {s : State} (ha : s.ownCore.core.ctl.active = true) :
    ∃ t : State, exec .unitClaim s = .next t ∧ t.core = s.ownCore.core.runClaims.1 ∧ t.others = s.ownCore.others ∧ t.mem = s.ownCore.mem ∧
      ∀ cause, namesLoss cause s.ownCore.core.runClaims.2 → ∀ p x, s.ownCore.ctxOf s.ownCore.core.idx = some (p, x) →
        ∃ y, (t.part p).ctx = some y ∧ ∃ l ∈ y.losses, l.cause = cause := by
  have hex : exec .unitClaim s = .next (if s.ownCore.core.ctl.active then s.ownCore.claimNow else s.ownCore) := rfl
  obtain ⟨hidx, -⟩ := s.ownCore.core.runClaims_stored
  obtain ⟨-, hframe⟩ := State.claimNow_core s.ownCore
  refine ⟨s.ownCore.claimNow, by rw [hex, ha, if_pos rfl], State.notes_core .., by rw [hframe], by rw [hframe], fun cause hn p x hx => ?_⟩
  have hx' : ({ s.ownCore with core := s.ownCore.core.runClaims.1 } : State).ctxOf s.ownCore.core.runClaims.1.idx = some (p, x) := by
    rw [hidx]
    exact hx
  exact State.lossPending_part (State.notes_lossPending hx' hn)

namespace Core

/-- What the one due claim of a core cycle leaves. -/
theorem runClaims_one_frame {c : Core} {k : Claim} (h : c.ctl.claims.filter (fun x => x.due == c.ctl.cc) = [k]) :
    c.runClaims.1.mem.imem = c.mem.imem ∧ c.runClaims.1.reg = c.reg ∧ c.runClaims.1.trap = c.trap ∧
      c.runClaims.1.ctl.claims = c.ctl.claims.filter (fun x => x.due != c.ctl.cc) := by
  obtain ⟨-, hreg, htrap, ⟨himem, -⟩, -, -⟩ := c.runClaims_stored
  obtain ⟨hctl, -⟩ := c.begun.runClaim_reached [] k
  refine ⟨himem, hreg, htrap, ?_⟩
  rw [runClaims_one h, hctl]
  rfl

/-- A write's bytes are read back, and others as before. -/
theorem claimWrite_bytes (c : Core) (y : Nat) (bs : List Byte) (sick : List Nat) :
    (∀ i, i < bs.length → (c.claimWrite y bs sick).1.mem.loc.read (y + i) = bs.getD i 0) ∧
      ∀ x, x < y ∨ y + bs.length ≤ x → (c.claimWrite y bs sick).1.mem.loc.read x = c.mem.loc.read x := by
  obtain ⟨-, hloc, -⟩ := c.claimWrite_frame y bs sick
  rw [hloc]
  refine ⟨fun i hi => ?_, fun x hx => ?_⟩
  · rw [Memory.read_write, if_pos (by omega), Nat.add_sub_cancel_left]
  · rw [Memory.read_write, if_neg (by omega)]

/-- The marks of 256 aligned bytes that a claim writes whole. -/
theorem claimWrite_aligned (c : Core) {y : Nat} {bs : List Byte} (hlen : bs.length = 256) (sick : List Nat) (hy : y % 16 = 0) {i : Nat} (hi : i < 16) :
    (c.claimWrite y bs sick).1.mem.bad.contains (y / 16 + i) = sick.contains (y / 16 + i) := by
  obtain ⟨-, -, -, -, hbad⟩ := c.claimWrite_frame y bs sick
  have hcov : covers y bs.length (y / 16 + i) = true := by
    rw [covers, hlen, decide_eq_true (by omega), decide_eq_true (by omega), Bool.and_self]
  have hmem : (wordsOf y bs.length).contains (y / 16 + i) = true := by
    rw [hlen, List.contains_eq_mem, decide_eq_true (mem_wordsOf.mpr (by omega))]
  rw [hbad, hcov, hmem, Bool.not_true, Bool.and_false, Bool.false_or, Bool.true_and]

/-- The words of 256 aligned bytes. -/
theorem any_wordsOf {y : Nat} (hy : y % 16 = 0) (p : Nat → Bool) : (wordsOf y 256).any p = (List.range 16).any (fun j => p (y / 16 + j)) := by
  rw [Bool.eq_iff_iff, List.any_eq_true, List.any_eq_true]
  constructor
  · rintro ⟨w, hw, hp⟩
    rw [mem_wordsOf] at hw
    exact ⟨w - y / 16, List.mem_range.mpr (by omega), by rwa [show y / 16 + (w - y / 16) = w by omega]⟩
  · rintro ⟨j, hj, hp⟩
    exact ⟨_, mem_wordsOf.mpr (by rw [List.mem_range] at hj; omega), hp⟩

end Core

/-- BCINFO's fields (rule R55). -/
theorem bcWord_fields {g a b : Nat} (delta : Nat) (off : Int) (hg : g < 16) (ha : a < 16) (hb : b < 16) :
    let w := bcWord 1 g a b delta off
    bits w 31 28 = 1 ∧ bits w 27 24 = g ∧ bits w 23 20 = a ∧ bits w 19 16 = b ∧ bits w 15 8 = delta % 256 := by
  have ho : ((max (-128) (min 127 off)).emod 256).toNat < 2 ^ 8 := by
    have h1 := Int.emod_lt_of_pos (max (-128) (min 127 off)) (show (0 : Int) < 256 by decide)
    have h2 := Int.emod_nonneg (max (-128) (min 127 off)) (show (256 : Int) ≠ 0 by decide)
    change (max (-128) (min 127 off) % 256).toNat < 2 ^ 8
    omega
  have hd : delta % 256 < 2 ^ 8 := Nat.mod_lt _ (by decide)
  unfold bcWord
  generalize ((max (-128) (min 127 off)).emod 256).toNat = o at ho
  dsimp only
  generalize delta % 256 = d at hd
  simp only [bits_or]
  refine ⟨?_, ?_, ?_, ?_, ?_⟩
  · rw [bits_atBit 1 31 28 (by decide) (by decide), bits_atBit_below g 4 24 31 28 hg (by decide), bits_atBit_below a 4 20 31 28 ha (by decide),
      bits_atBit_below b 4 16 31 28 hb (by decide), bits_atBit_below d 8 8 31 28 hd (by decide), bits_atBit_below o 8 0 31 28 ho (by decide)]
    rfl
  · rw [bits_atBit_above 1 _ _ _ (by decide), bits_atBit g 27 24 (by decide) hg, bits_atBit_below a 4 20 27 24 ha (by decide),
      bits_atBit_below b 4 16 27 24 hb (by decide), bits_atBit_below d 8 8 27 24 hd (by decide), bits_atBit_below o 8 0 27 24 ho (by decide)]
    simp
  · rw [bits_atBit_above 1 _ _ _ (by decide), bits_atBit_above g _ _ _ (by decide), bits_atBit a 23 20 (by decide) ha,
      bits_atBit_below b 4 16 23 20 hb (by decide), bits_atBit_below d 8 8 23 20 hd (by decide), bits_atBit_below o 8 0 23 20 ho (by decide)]
    simp
  · rw [bits_atBit_above 1 _ _ _ (by decide), bits_atBit_above g _ _ _ (by decide), bits_atBit_above a _ _ _ (by decide),
      bits_atBit b 19 16 (by decide) hb, bits_atBit_below d 8 8 19 16 hd (by decide), bits_atBit_below o 8 0 19 16 ho (by decide)]
    simp
  · rw [bits_atBit_above 1 _ _ _ (by decide), bits_atBit_above g _ _ _ (by decide), bits_atBit_above a _ _ _ (by decide),
      bits_atBit_above b _ _ _ (by decide), bits_atBit d 15 8 (by decide) hd, bits_atBit_below o 8 0 15 8 ho (by decide)]
    simp

/-- Of two claims that meet, one is served, the other's access is suppressed, and BCINFO and a loss name both (rules R55, R56). -/
theorem Core.runClaims_meet {c : Core} {k₁ k₂ : Claim} {g u₁ u₂ : Nat}
    (h : c.ctl.claims.filter (fun x => x.due == c.ctl.cc) = [k₁, k₂]) (h₁ : k₁.units = [(g, u₁)]) (h₂ : k₂.units = [(g, u₂)]) (hg : g < 10) :
    let first := decide (userRank u₁ ≤ userRank u₂)
    let kept := if first then k₁ else k₂
    let lost := if first then k₂ else k₁
    let w := c.meetWord g (if first then u₁ else u₂, kept) (if first then u₂ else u₁, lost)
    (c.begun.withBc w).oneLost g kept lost c.runClaims.1 ∧ namesLoss 0x05 c.runClaims.2 := by
  by_cases hr : userRank u₁ ≤ userRank u₂
  · simp only [decide_eq_true hr, if_true]
    obtain ⟨hcore, hn⟩ := runClaims_two h (c.begun.settle_first h₁ h₂ hg hr)
    exact ⟨Or.inr hcore, _, _, _, hn⟩
  · simp only [decide_eq_false hr, Bool.false_eq_true, if_false]
    obtain ⟨hcore, hn⟩ := runClaims_two h (c.begun.settle_second h₁ h₂ hg (Nat.not_le.mp hr))
    exact ⟨Or.inl hcore, _, _, _, hn⟩

end Sys2Proof.Machine
end

section
/-! UNIT_CLAIM completes. -/

namespace Sys2Proof.Machine
open Sys2Proof

/-- A rank of a user code, as the statement writes it (rule R56). -/
theorem userRank_eq (u : Nat) : (if u = 10 ∨ u = 11 then 0 else if u = 9 then 1 else if 4 ≤ u ∧ u ≤ 8 then 2
    else if u = 2 ∨ u = 3 ∨ u = 12 then 3 else 4) = Core.userRank u := by
  simp only [Core.userRank, Bool.or_eq_true, Bool.and_eq_true, decide_eq_true_eq, or_assoc]

/-- Settles O28: one due claim of each kind, and two that meet. -/
theorem unitClaimCompletes : Obligations.UnitClaimCompletes := by
  unfold Obligations.UnitClaimCompletes
  refine ⟨?_, ?_⟩
  · intro s k v c byte lat row holds poisoned outside ha hk
    obtain ⟨t, hex, hcore, hothers, hmem, hloss⟩ := unitClaim_of_active ha
    obtain ⟨himem, hreg, htrap, hclaims⟩ := Core.runClaims_one_frame hk
    have hrun : c.runClaims = c.begun.runClaim [] k := Core.runClaims_one hk
    have hcore' : t.core = (c.begun.runClaim [] k).1 := by rw [hcore]; exact congrArg Prod.fst hrun
    have hgave {ws : List Nat} {n : Nat} {e : Effect} (h : c.begun.claimGives k ws n e) : c.begun.gave t.core k n e := by
      rw [hcore']
      exact Core.claimGives_gave h
    have hlat (y : Nat) : Core.loadLat (unitOf y) = lat y := by
      by_cases h : unitOf y < 8
      · simp only [Core.loadLat, lat, h, if_true, Nat.not_le.mpr h, if_false]
      · simp only [Core.loadLat, lat, h, if_false, Nat.not_lt.mp h, if_true]
    refine ⟨t, hex, by rw [hcore]; exact himem, by rw [hcore]; exact hreg, by rw [hcore]; exact htrap, by rw [hcore]; exact hclaims,
      hothers, hmem, ?_⟩
    intro still gives
    refine ⟨?load, ?vload, ?bcast, ?gather, ?step, ?ldb, ?scl, ?xsend, ?store, ?scatter, ?xrecv, ?xraddNone, ?xradd, ?touched⟩
    case load =>
      intro y n signed d hact hn x
      have h := hgave (Core.runClaim_load hact)
      rw [hlat, signed_value signed (Memory.readNat_lt ..)] at h
      exact h
    case vload =>
      intro y d hact
      have h := hgave (Core.runClaim_vload hact)
      rw [hlat] at h
      exact ⟨_, h, fun i hi => holds_vecOf _ y hi⟩
    case bcast =>
      intro y d hact
      have h := hgave (Core.runClaim_bcast hact)
      rw [hlat] at h
      exact ⟨_, h, fun i hi => byte_bcast _ y hi⟩
    case gather =>
      intro ew ys d hact he
      exact ⟨_, hgave (Core.runClaim_gather hact), fun i j hi hj => byte_gathered _ ys he hi hj⟩
    case step =>
      intro acc fa fb qa qb A B latched hact
      refine ⟨_, _, hgave (Core.runClaim_step hact), fun i j hi hj => Core.byte_operandRows c.begun A hi hj, ?_⟩
      cases B with
      | none => rfl
      | some B => exact fun i j hi hj => Core.byte_operandRows c.begun B hi hj
    case ldb =>
      intro B f hact
      exact ⟨_, hgave (Core.runClaim_ldb hact), fun i j hi hj => Core.byte_operandRows c.begun B hi hj⟩
    case scl =>
      intro y q hact
      refine ⟨_, hgave (Core.runClaim_scl hact), fun i hi => ?_⟩
      rw [extract_ofBytes (by omega), Memory.getD_readN _ _ hi]
      rfl
    case xsend =>
      intro y hact
      obtain ⟨hc, -⟩ := c.begun.wordChecks_checked k.cba (Core.wordsOf y 256)
      dsimp only [still]
      rw [hcore', Core.runClaim_xsend hact, hc]
      exact ⟨⟨rfl, rfl⟩, rfl, _, _, rfl, fun i hi => holds_vecOf _ y hi, fun i hi => sentMask c.begun y hi⟩
    case store =>
      intro y bs hact
      have hw := Core.runClaim_store (c := c.begun) hact
      obtain ⟨hctl, -, -, -, hbad⟩ := c.begun.claimWrite_frame y bs []
      obtain ⟨hin, hout⟩ := c.begun.claimWrite_bytes y bs []
      dsimp only [poisoned]
      rw [hcore', hw]
      refine ⟨by rw [hctl]; rfl, hin, hout, fun w => ?_⟩
      rw [hbad, List.contains_nil, Bool.and_false, Bool.or_false]
      rfl
    case scatter =>
      intro ls hact
      have hsign := c.begun.sign_signed 0 (ls.flatMap (fun l => placed l.1 l.2))
      dsimp only [outside]
      rw [hcore', Core.runClaim_scatter hact]
      generalize ls.flatMap (fun l => placed l.1 l.2) = bs at hsign ⊢
      have hmem : (c.begun.sign 0 bs).mem = c.mem := by rw [hsign]; rfl
      have hctl : (c.begun.sign 0 bs).ctl = c.begun.ctl := by rw [hsign]
      refine ⟨?_, fun x => ?_, ?_⟩
      · show (c.begun.sign 0 bs).ctl.lands = _
        rw [hctl]
        rfl
      · show ((c.begun.sign 0 bs).mem.loc.writeAll bs).read x = _
        rw [hmem, Memory.read_writeAll]
      · show (c.begun.sign 0 bs).mem.bad = _
        rw [hmem]
    case xrecv =>
      intro y w m hact
      obtain ⟨hctl, hloc, -⟩ := c.begun.claimWrite_frame y (vecBytes w) (groupWords y m)
      obtain ⟨hin, -⟩ := c.begun.claimWrite_bytes y (vecBytes w) (groupWords y m)
      dsimp only [poisoned, outside]
      rw [hcore', Core.runClaim_xrecv hact]
      refine ⟨by rw [hctl]; rfl, fun x => ?_, fun i hi => ?_, fun hy i hi => ?_⟩
      · rw [hloc, Memory.read_write_placed]
        rfl
      · rw [hin i (by rw [length_vecBytes]; exact hi), getD_vecBytes _ hi]
      · rw [Core.claimWrite_aligned _ (length_vecBytes w) _ hy hi, contains_groupWords y m hi]
    case xraddNone =>
      intro y ty hact
      dsimp only [still]
      rw [hcore', Core.runClaim_xradd_none hact]
      exact ⟨rfl, rfl, rfl⟩
    case xradd =>
      intro y ty w m hact
      have hcm : (c.begun.wordChecks k.cba (Core.wordsOf y 256)).1.mem = c.begun.mem :=
        Core.underCheck_mem (c.begun.wordChecks_underCheck k.cba (Core.wordsOf y 256))
      obtain ⟨hc, -⟩ := c.begun.wordChecks_checked k.cba (Core.wordsOf y 256)
      dsimp only [poisoned]
      rw [hcore', Core.runClaim_xradd hact]
      dsimp only
      generalize (c.begun.wordChecks k.cba (Core.wordsOf y 256)).1 = d at hc hcm
      obtain ⟨hctl, -⟩ := d.claimWrite_frame y (vecBytes (xraddLanes ty (vecOf (c.begun.mem.loc.readN y 256)) w))
        (if m != 0 || (Core.wordsOf y 256).any c.begun.mem.bad.contains then Core.wordsOf y 256 else [])
      obtain ⟨hin, hout⟩ := d.claimWrite_bytes y (vecBytes (xraddLanes ty (vecOf (c.begun.mem.loc.readN y 256)) w))
        (if m != 0 || (Core.wordsOf y 256).any c.begun.mem.bad.contains then Core.wordsOf y 256 else [])
      refine ⟨by rw [hctl, hc]; rfl, fun i j hi hj => ?_, fun x hx => ?_, fun hy i hi => ?_⟩
      · have hlt : raddBytes ty * i + j < 256 := by
          change i < 256 / raddBytes ty at hi
          change j < raddBytes ty at hj
          rcases raddBytes_cases ty with h | h <;> rw [h] at hi hj ⊢ <;> omega
        have h := hin (raddBytes ty * i + j) (by rw [length_vecBytes]; exact hlt)
        rw [← Nat.add_assoc] at h
        exact h.trans (byte_xraddLanes c.mem.loc y ty w hi hj)
      · rw [hout x (by rw [length_vecBytes]; exact hx), hcm]
        rfl
      · rw [Core.claimWrite_aligned _ (length_vecBytes _) _ hy hi]
        rw [Core.any_wordsOf hy c.begun.mem.bad.contains]
        cases hsick : m != 0 || (List.range 16).any (fun j => c.begun.mem.bad.contains (y / 16 + j)) with
        | true =>
          rw [if_pos rfl, List.contains_eq_mem]
          exact (decide_eq_true (mem_wordsOf.mpr ⟨by decide, by omega, by omega⟩)).trans hsick.symm
        | false => exact hsick.symm
    case touched =>
      intro rows touched
      have hidx : c.begun.idx = c.idx := rfl
      refine ⟨fun w hw hbad => ?_, fun w hw hbad hsoft hx => ?_⟩
      · obtain ⟨⟨h31, hagent, -⟩, ⟨h63, hfirst⟩, hn⟩ := c.begun.runClaim_reported k hw hbad
        rw [hcore']
        refine ⟨h31, hagent, h63, hfirst, fun p x _ hp => hloss 0x01 ?_ p x hp⟩
        rw [show s.ownCore.core.runClaims = c.begun.runClaim [] k from hrun]
        exact hn
      · rw [hcore']
        exact c.begun.runClaim_queued k hw hbad hsoft hx
  · intro s k₁ k₂ g u₁ u₂ v c rank first kept lost ha hk h₁ h₂ hg hu₁ hu₂
    obtain ⟨t, hex, hcore, -, hmem, hloss⟩ := unitClaim_of_active ha
    obtain ⟨-, hreg, -⟩ := c.runClaims_stored
    have hfirst : first = decide (Core.userRank u₁ ≤ Core.userRank u₂) := by
      have hr (u : Nat) : rank u = Core.userRank u := userRank_eq u
      show decide (rank u₁ ≤ rank u₂) = _
      rw [decide_eq_decide, hr, hr]
    obtain ⟨hone, hn⟩ := Core.runClaims_meet hk h₁ h₂ hg
    rw [← hfirst] at hone
    have hone' : (c.begun.withBc (c.meetWord g (if first then u₁ else u₂, kept) (if first then u₂ else u₁, lost))).oneLost g kept lost t.core := by
      rw [hcore]
      exact hone
    have hbc := Core.oneLost_bcinfo hone'
    have hua : (if first then u₁ else u₂) < 16 := by split <;> assumption
    have hub : (if first then u₂ else u₁) < 16 := by split <;> assumption
    obtain ⟨b1, b2, b3, b4, b5⟩ := bcWord_fields (c.ctl.cc - lost.issued) ((lost.issued : Int) - kept.issued) (by omega) hua hub (g := g)
    have hlat : Core.loadLat g = if g < 8 then 4 else 5 := by
      by_cases h : g < 8
      · simp only [Core.loadLat, h, if_true, Nat.not_le.mpr h, if_false]
      · simp only [Core.loadLat, h, if_false, Nat.not_lt.mp h, if_true]
    refine ⟨t, hex, by rw [hcore]; exact hreg, hmem, by rw [hbc]; exact b1, by rw [hbc]; exact b2, by rw [hbc]; exact b3,
      by rw [hbc]; exact b4, by rw [hbc]; exact b5, fun p x _ hp => hloss 0x05 hn p x hp, ?_, ?_, ?_, ?_⟩
    · intro y n signed d hact hy
      rw [← hlat]
      exact Core.oneLost_lands hone' fun x => Core.runClaim_load_lost hact hy
    · intro y d hact hy
      rw [← hlat]
      exact Core.oneLost_lands hone' fun x => Core.runClaim_vload_lost hact hy
    · intro y hact hy hno
      exact Core.oneLost_inject hone' hact hy hno
    · intro y bs z cs hact hy hact'
      have hloc : t.core.mem.loc = c.mem.loc.write z cs := Core.oneLost_store hone' hact hy hact'
      rw [hloc]
      refine ⟨fun i hi _ => ?_, fun x hx => ?_⟩
      · rw [Memory.read_write, if_pos (by omega), Nat.add_sub_cancel_left]
      · rw [Memory.read_write, if_neg (by omega)]

end Sys2Proof.Machine
end

section
/-! Bundles that come to issue: what fetch and landings leave, which instructions slots hold, and traps taken before issue. -/

namespace Sys2Proof.Machine
open Sys2Proof

/-! ### What landings leave (rule R221) -/

namespace Core

theorem sysWrite_phnum (c : Core) (n : BitVec 12) (x : Word) : (c.sysWrite n x).sys.phnum = c.sys.phnum := by
  have hi (p : Prop) [Decidable p] (a b : Core) (ha : a.sys.phnum = c.sys.phnum) (hb : b.sys.phnum = c.sys.phnum) :
      (if p then a else b).sys.phnum = c.sys.phnum := by split <;> assumption
  unfold sysWrite
  iterate 13 refine hi _ _ _ rfl ?_
  rfl

theorem applyEffect_phnum (c : Core) (e : Effect) : (c.applyEffect e).sys.phnum = c.sys.phnum := by
  cases e with
  | sysw n x => exact c.sysWrite_phnum n x
  | _ => rfl

theorem landOne_phnum (loom : Nat) (c : Core) (l : Landing) : (landOne loom c l).sys.phnum = c.sys.phnum := by
  unfold landOne
  dsimp only
  split
  · exact c.applyEffect_phnum l.eff
  · split <;> exact c.applyEffect_phnum l.eff

theorem landDue_phnum (c : Core) (loom : Nat) : (c.landDue loom).sys.phnum = c.sys.phnum := by
  unfold landDue
  exact List.foldlRecOn (motive := fun d : Core => d.sys.phnum = c.sys.phnum) _ _ rfl
    fun d h l _ => (landOne_phnum loom d l).trans h

end Core

namespace State

/-- Results have landed: the core's place, phase, memories and bookkeeping are as they were, and beyond the core, pending losses and the
error log alone have changed. -/
def landedState (s t : State) : Prop :=
  s.core.landed t.core ∧ t.core.sys.phnum = s.core.sys.phnum ∧ t = { s with core := t.core, module := t.module, parts := t.parts }

theorem landNow_landedState (s : State) : s.landedState s.landNow := by
  unfold landNow
  refine List.foldlRecOn (motive := s.landedState) _ _ ⟨s.core.landDue_landed _, s.core.landDue_phnum _, rfl⟩ fun t h e _ => ?_
  obtain ⟨hland, hph, ht⟩ := h
  rw [residueError, onCore_self _ _ rfl, notes_frame]
  refine ⟨⟨hland.1, hland.2.1, hland.2.2.1, hland.2.2.2⟩, hph, ?_⟩
  rw [ht]
  rfl

theorem landNow_inX (s : State) : s.landNow.core.inX = s.core.inX := by
  obtain ⟨-, hph, -⟩ := s.landNow_landedState
  rw [Core.inX, hph, Core.inX]

theorem landNow_idx (s : State) : s.landNow.core.idx = s.core.idx := s.landNow_landedState.1.1

theorem landNow_cycle (s : State) : s.landNow.cycle = s.cycle := by
  rw [s.landNow_landedState.2.2]

theorem landNow_arr (s : State) : s.landNow.arr = s.arr := by
  have hidx := s.landNow_idx
  rw [arr, hidx, s.landNow_landedState.2.2]
  rfl

theorem landNow_loom (s : State) : s.landNow.loom = s.loom := by
  have hidx := s.landNow_idx
  rw [loom, hidx, s.landNow_landedState.2.2]
  rfl

/-! ### The bundle due (rules R63, R210) -/

theorem fetchFor_pc (s : State) (a : CodeAddr) : (s.fetchFor a).core.ctl.pc = s.core.ctl.pc := by
  unfold fetchFor
  split
  · rfl
  · by_cases hn : s.core.ctl.fbuf.any (fun l => l.num == Core.lineOf a) = true
    · unfold readLine
      simp only [hn, if_true]
    · obtain ⟨r, hcore, -⟩ := readLine_frame (Bool.not_eq_true _ ▸ hn)
      obtain ⟨hc, -⟩ := s.core.lineChecks_checked (Core.lineOf a)
      rw [hcore]
      show (s.core.fetchInto (Core.lineOf a)).ctl.pc = _
      rw [Core.fetchInto, if_neg hn, Core.checkLine_eq, hc]

/-- The acting core as its bundle at `a` comes due: the line is fetched. -/
def dueAt (v : State) (a : CodeAddr) : State :=
  (v.act (fun c => { c with ctl := { c.ctl with
    pc := a, dueAt := some (c.ctl.dueAt.getD v.cycle), hold := none, active := true } })).fetchFor a

section
variable {v : State} {a : CodeAddr} (hpc : v.core.ctl.pc = a) (hl : v.core.locate a = (a, false))
include hpc hl

theorem atBundle_eq : v.atBundle = (v.dueAt a, false) := by
  unfold atBundle
  rw [hpc, hl]
  rfl

omit hl in
omit hpc in
theorem dueAt_pc : (v.dueAt a).core.ctl.pc = a := fetchFor_pc ..

variable (hs : (v.dueAt a).core.unsound a = false)
include hs

theorem issueBundle_malformed (hd : decodeHead ((v.dueAt a).core.bundleHead a) (Core.wordOf a) = .malformed)
    (hx : (v.dueAt a).core.inX = false) :
    v.issueBundle = (v.dueAt a).issueMalformed ((v.dueAt a).core.bundleHead a) := by
  unfold issueBundle
  rw [atBundle_eq hpc hl]
  simp only [comingUp, dueAt_pc, hs, hd, hx, Bool.and_false, Bool.false_eq_true, if_false]

theorem issueBundle_delay {h : Head} (hd : decodeHead ((v.dueAt a).core.bundleHead a) (Core.wordOf a) = .delay h)
    (hx : (v.dueAt a).core.inX = false) :
    v.issueBundle = (v.dueAt a).issueDelay ((v.dueAt a).core.bundleHead a) h := by
  unfold issueBundle
  rw [atBundle_eq hpc hl]
  simp only [comingUp, dueAt_pc, hs, hd, hx, Bool.and_false, Bool.false_eq_true, if_false]

theorem issueBundle_bundle {h : Head} (hd : decodeHead ((v.dueAt a).core.bundleHead a) (Core.wordOf a) = .bundle h)
    (hx : (v.dueAt a).core.inX = false ∨ (v.dueAt a).core.ctl.redo = 0) :
    v.issueBundle = match (v.dueAt a).vet h.wm (decodeSlots h.slots ((v.dueAt a).core.bundleWords a (h.words - 1))) with
      | .stop t => t
      | .go w ys => w.issueSlots (v.dueAt a).core.quiet h
          ((v.dueAt a).core.bundleHead a :: (v.dueAt a).core.bundleWords a (h.words - 1))
          (decodeSlots h.slots ((v.dueAt a).core.bundleWords a (h.words - 1))) ys := by
  have hredo : (decide (0 < (v.dueAt a).core.ctl.redo) && (v.dueAt a).core.inX) = false := by
    rcases hx with h | h
    · rw [h, Bool.and_false]
    · rw [h]
      rfl
  unfold issueBundle
  rw [atBundle_eq hpc hl]
  simp only [comingUp, dueAt_pc, hs, hd, hredo, Bool.false_eq_true, if_false]
  rfl

end

end State

/-! ### The slots of a bundle -/

theorem mem_decodeSlots {x : SlotWord} : ∀ {ss : List Slot} {ws : List Word32}, x ∈ decodeSlots ss ws →
    x.slot ∈ ss ∧ x.dec = decodeSlot x.slot x.word
  | [], _, h => absurd h List.not_mem_nil
  | _ :: _, [], h => absurd h List.not_mem_nil
  | s :: ss, w :: ws, h => by
    rcases List.mem_cons.mp h with rfl | h
    · exact ⟨List.mem_cons_self, rfl⟩
    · obtain ⟨hs, hd⟩ := mem_decodeSlots h
      exact ⟨List.mem_cons_of_mem _ hs, hd⟩

theorem decodeSlots_sublist : ∀ (ss : List Slot) (ws : List Word32), ((decodeSlots ss ws).map (·.slot)).Sublist ss
  | [], _ => List.Sublist.refl _
  | _ :: _, [] => List.nil_sublist _
  | _ :: ss, _ :: ws => (decodeSlots_sublist ss ws).cons_cons _

/-- A bundle has each slot once. -/
theorem decodeSlots_inj {h : Head} {ws : List Word32} {x y : SlotWord} (hx : x ∈ decodeSlots h.slots ws)
    (hy : y ∈ decodeSlots h.slots ws) (he : x.slot = y.slot) : x = y := by
  have hall : Slot.all.Nodup := by decide
  have hn : ((decodeSlots h.slots ws).map (·.slot)).Nodup := (hall.filter _).sublist (decodeSlots_sublist ..)
  exact List.inj_on_of_nodup_map hn hx hy he

/-- An instruction that only an XC word holds, as far as causes before issue look for one. -/
def Instr.isXcOnly : Instr → Bool
  | .phaseEnd _ => true
  | .tokClr _ => true
  | _ => false

def Decoded.isXcOnly : Decoded → Bool
  | .ok i => Instr.isXcOnly i
  | .bad _ => false

theorem row_isXcOnly {w : Word32} {m k : BitVec 20} {i : Instr} (h : Instr.isXcOnly i = false) :
    Decoded.isXcOnly (row w m k i) = false := by
  unfold row
  split
  · split
    · exact h
    · rfl
  · rfl

theorem decodeSa_isXcOnly (w : Word32) : Decoded.isXcOnly (decodeSa w) = false := by
  unfold decodeSa
  split
  case h_28 => rfl
  all_goals exact row_isXcOnly rfl

theorem decodeSb_isXcOnly (w : Word32) : Decoded.isXcOnly (decodeSb w) = false := by
  unfold decodeSb
  split
  case h_36 => rfl
  all_goals exact row_isXcOnly rfl

theorem decodeLm_isXcOnly (w : Word32) : Decoded.isXcOnly (decodeLm w) = false := by
  unfold decodeLm
  split
  case h_21 => rfl
  all_goals exact row_isXcOnly rfl

theorem decodeVa_isXcOnly (w : Word32) : Decoded.isXcOnly (decodeVa w) = false := by
  unfold decodeVa
  split
  case h_101 => rfl
  all_goals exact row_isXcOnly rfl

theorem decodeVm_isXcOnly (w : Word32) : Decoded.isXcOnly (decodeVm w) = false := by
  unfold decodeVm
  split
  case h_36 => rfl
  all_goals exact row_isXcOnly rfl

theorem decodeMx_isXcOnly (w : Word32) : Decoded.isXcOnly (decodeMx w) = false := by
  unfold decodeMx
  split
  case h_1 => split <;> exact row_isXcOnly rfl
  case h_7 => rfl
  all_goals exact row_isXcOnly rfl

theorem decodeLp_isXcOnly (w : Word32) : Decoded.isXcOnly (decodeLp w) = false := by
  unfold decodeLp
  split
  case h_1 => split <;> exact row_isXcOnly rfl
  case h_11 => rfl
  all_goals exact row_isXcOnly rfl

/-- Of the slots only XC decodes to PHASE.END and TOK.CLR. -/
theorem slot_of_isXcOnly {sl : Slot} {w : Word32} (h : Decoded.isXcOnly (decodeSlot sl w) = true) : sl = .xc := by
  cases sl with
  | sa => exact absurd h (Bool.eq_false_iff.mp (decodeSa_isXcOnly w))
  | sb => exact absurd h (Bool.eq_false_iff.mp (decodeSb_isXcOnly w))
  | lm => exact absurd h (Bool.eq_false_iff.mp (decodeLm_isXcOnly w))
  | va => exact absurd h (Bool.eq_false_iff.mp (decodeVa_isXcOnly w))
  | vm => exact absurd h (Bool.eq_false_iff.mp (decodeVm_isXcOnly w))
  | mx => exact absurd h (Bool.eq_false_iff.mp (decodeMx_isXcOnly w))
  | xc => rfl
  | lp => exact absurd h (Bool.eq_false_iff.mp (decodeLp_isXcOnly w))

theorem row_eq_ok {w : Word32} {m k : BitVec 20} {i j : Instr} (h : row w m k i = .ok j) : i = j := by
  unfold row at h
  split at h
  · split at h
    · exact Decoded.ok.inj h
    · cases h
  · cases h

/-- An instruction of the exchange class, by the opcodes of XC below 0x06. -/
theorem decodeXc_phaseEnd {w : Word32} {o : R1aOps} (h : decodeXc w = .ok (.phaseEnd o)) : (opcodeOf w).toNat = 0x10 := by
  unfold decodeXc at h
  split at h
  case h_7 hop => exact hop
  case h_13 => split at h <;> cases row_eq_ok h
  case h_24 => cases h
  all_goals cases row_eq_ok h

end Sys2Proof.Machine
end

section
/-! Causes found before issue, in their order, and the traps that name them. -/

namespace Sys2Proof.Machine
open Sys2Proof

/-! ### Traps before issue (rules R354 to R357) -/

namespace Core

/-- A trap leaves the registers but rotation and loops, the memories, and BCINFO. -/
def trapKept (c d : Core) : Prop :=
  d.reg = { c.reg with rotb := d.reg.rotb, loops := d.reg.loops } ∧ d.mem = c.mem ∧ d.sys.bcinfo = c.sys.bcinfo

theorem enterTrap_trapKept (c : Core) (cycle : Nat) (stopped : Bool) (k : Cause) (pt : TrapPoint) :
    c.trapKept (c.enterTrap cycle stopped k pt).1 := by
  obtain ⟨-, hreg, -, hmem, -, -, -, -, -, -, -, -, -, -, -, -, hsys, -⟩ :=
    c.writeCause_spec k pt (c.inTrap || stopped || !c.trap.tvec.getLsbD 63) c.inTrap
  unfold enterTrap
  dsimp only
  split
  · exact ⟨by rw [hreg], hmem, by rw [hsys]⟩
  · exact ⟨by rw [hreg], hmem, by rw [hsys]⟩

end Core

namespace State

theorem stopFor_mem (s : State) (k : Nat) : (s.stopFor k).mem = s.mem ∧ (s.stopFor k).cards = s.cards := by
  unfold stopFor
  split <;> exact ⟨rfl, rfl⟩

theorem trapAt_kept (s : State) (k : Cause) (pt : TrapPoint) :
    s.core.trapKept (s.trapAt k pt).core ∧ (s.trapAt k pt).mem = s.mem ∧ (s.trapAt k pt).cards = s.cards := by
  unfold trapAt
  extract_lets still
  have h := s.core.enterTrap_trapKept pt.taken still k pt
  dsimp only
  split
  · rw [stopFor_core, (stopFor_mem ..).1, (stopFor_mem ..).2]
    exact ⟨h, rfl, rfl⟩
  · exact ⟨h, rfl, rfl⟩

/-- A trap names a cause: TCAUSE and TINFO hold it, and what registers, memories and cards hold stays. -/
def names (u t : State) (code sub slot : Nat) (cba : CodeAddr) (info : Word) : Prop :=
  (t.core.reg.s = u.core.reg.s ∧ t.core.reg.v = u.core.reg.v ∧ t.core.reg.p = u.core.reg.p ∧ t.core.reg.a = u.core.reg.a ∧
      t.core.mem = u.core.mem ∧ t.mem = u.mem ∧ t.cards = u.cards) ∧
    bits t.core.trap.tcause 7 0 = code ∧ bits t.core.trap.tcause 15 8 = slot ∧ bits t.core.trap.tcause 28 16 = sub ∧
    bits t.core.trap.tcause 49 32 = cba.toNat ∧ t.core.trap.tinfo = info

theorem trapBefore_names (u : State) (k : Cause) (hcode : k.code < 0x0B) (hsub : k.sub < 2 ^ 13) (hslot : k.slot < 16) :
    u.names (u.trapBefore k) k.code k.sub k.slot k.cba k.info ∧ (u.trapBefore k).core.sys.bcinfo = u.core.sys.bcinfo := by
  obtain ⟨⟨i, f, b, hcause⟩, hinfo, -⟩ := u.trapAt_causeTaken k u.beforeIssue
  obtain ⟨⟨hreg, hmem, hbc⟩, hm, hcards⟩ := u.trapAt_kept k u.beforeIssue
  obtain ⟨-, -, -, h1, h2, h3, -, h4⟩ := tcauseWord_fields i f b k (by omega) hsub hslot
  rw [← hcause] at h1 h2 h3 h4
  rw [if_neg (by omega)] at hinfo
  exact ⟨⟨⟨by rw [trapBefore, hreg], by rw [trapBefore, hreg], by rw [trapBefore, hreg], by rw [trapBefore, hreg], hmem, hm, hcards⟩,
    h1, h2, h3, h4, hinfo⟩, hbc⟩

theorem trapPrecise_names (u : State) (k : Cause) (w : Option Word) (hcode : k.code < 0x0B) (hsub : k.sub < 2 ^ 13) (hslot : k.slot < 16) :
    u.names (u.trapPrecise (k, w)) k.code k.sub k.slot k.cba k.info ∧
      (u.trapPrecise (k, w)).core.sys.bcinfo = w.getD u.core.sys.bcinfo := by
  cases w with
  | none => exact u.trapBefore_names k hcode hsub hslot
  | some w => exact (u.act (fun c => { c with sys := { c.sys with bcinfo := w } })).trapBefore_names k hcode hsub hslot

/-! ### The order of causes (rules R53 to R55, R354) -/

/-- A bundle in compute phase that meets a precise cause takes its trap. -/
theorem vet_precise {u : State} {wm : BitVec 8} {xs : List SlotWord} {k : Cause × Option Word}
    (hb : u.boundaryCause u.landNow true = none) (hx : u.core.inX = false) (hp : u.landNow.core.ctl.passed = false)
    (hk : u.landNow.preciseCause wm xs = some k) : u.vet wm xs = .stop (u.trapPrecise k) := by
  unfold vet
  simp only [hb, landNow_inX, hx, hp, hk, Bool.false_eq_true, if_false]

theorem preciseCause_of_early {v : State} {wm : BitVec 8} {xs : List SlotWord} {k : Cause × Option Word}
    (h : v.earlyCause wm xs = some k) : v.preciseCause wm xs = some k := by
  rw [preciseCause, h, Option.some_or]

section
variable {v : State} {wm : BitVec 8} {xs : List SlotWord}

theorem earlyCause_of_encoding {k : Cause} (h : v.core.encodingCause xs = some k) : v.earlyCause wm xs = some (k, none) := by
  unfold earlyCause
  simp only [h, Option.some_or]

theorem earlyCause_of_phase {k : Cause} (he : v.core.encodingCause xs = none) (h : v.core.phaseCause xs = some k) :
    v.earlyCause wm xs = some (k, none) := by
  unfold earlyCause
  simp only [he, h, Option.none_or, Option.some_or]

theorem earlyCause_of_window {k : Cause} (he : v.core.encodingCause xs = none) (hp : v.core.phaseCause xs = none)
    (h : v.core.windowCause v.arr v.loom.toNat xs = some k) : v.earlyCause wm xs = some (k, none) := by
  unfold earlyCause
  simp only [he, hp, h, Option.none_or]

theorem earlyCause_of_bank {b : Core.BankFault} (he : v.core.encodingCause xs = none) (hp : v.core.phaseCause xs = none)
    (hw : v.core.windowCause v.arr v.loom.toNat xs = none) (h : v.core.bankFault v.cycle xs = some b) :
    v.earlyCause wm xs = some (v.core.cause 0x05 (bits b.bcinfo 31 28) b.slot.num 0, some b.bcinfo) := by
  unfold earlyCause
  simp only [he, hp, hw, h, Option.none_or]

theorem earlyCause_of_token {k : Cause} (he : v.core.encodingCause xs = none) (hp : v.core.phaseCause xs = none)
    (hw : v.core.windowCause v.arr v.loom.toNat xs = none) (hb : v.core.bankFault v.cycle xs = none) (hk : v.core.bkptCause = none)
    (h : v.core.tokenCause wm xs = some k) : v.earlyCause wm xs = some (k, none) := by
  unfold earlyCause
  simp only [he, hp, hw, hb, hk, h, Option.none_or, Option.map_some]

end

end State

/-! ### Each cause -/

namespace Core
variable {c : Core} {xs : List SlotWord}

theorem encodingCause_of_slot {pre post : List SlotWord} {x : SlotWord} {n : Nat} (hxs : xs = pre ++ x :: post)
    (hpre : ∀ y ∈ pre, c.slotFault y = none) (hx : c.slotFault x = some n) :
    c.encodingCause xs = some (c.cause n 0 x.slot.num (x.word.setWidth 64)) := by
  have hnone : pre.findSome? (fun x => (c.slotFault x).map (fun code => c.cause code 0 x.slot.num (x.word.setWidth 64))) = none := by
    rw [List.findSome?_eq_none_iff]
    intro y hy
    rw [hpre y hy]
    rfl
  unfold encodingCause
  rw [hxs, List.findSome?_append, hnone, Option.none_or, List.findSome?_cons, hx]
  rfl

theorem noSlotFault (h : ∀ x ∈ xs, c.slotFault x = none) :
    xs.findSome? (fun x => (c.slotFault x).map (fun code => c.cause code 0 x.slot.num (x.word.setWidth 64))) = none := by
  rw [List.findSome?_eq_none_iff]
  intro y hy
  rw [h y hy]
  rfl

theorem encodingCause_of_clash (h : ∀ x ∈ xs, c.slotFault x = none) (hc : clashing xs ≠ []) :
    c.encodingCause xs = some (c.cause 0x02 0 8 0) := by
  unfold encodingCause
  rw [noSlotFault h]
  dsimp only
  rw [if_neg (by rwa [List.isEmpty_iff])]

theorem encodingCause_none (h : ∀ x ∈ xs, c.slotFault x = none) (hc : clashing xs = []) : c.encodingCause xs = none := by
  unfold encodingCause
  rw [noSlotFault h, hc]
  rfl

/-- The cause that one slot gives for its phase. -/
def slotPhaseCause (c : Core) (x : SlotWord) : Option Cause :=
  if c.slotPhaseBad x then some (c.cause 0x03 1 x.slot.num 0)
  else
    match x.dec with
    | .ok (.phaseEnd o) =>
      let m := (c.rs o.a).extractLsb' 0 32
      let n := c.sys.phnum.extractLsb' 0 32
      if c.guard x && m != n then some (c.cause 0x03 2 x.slot.num (n ++ m)) else none
    | _ => none

theorem phaseCause_eq (c : Core) (xs : List SlotWord) : c.phaseCause xs = xs.findSome? c.slotPhaseCause := rfl

/-- In compute phase only XC slots meet a cause of their phase. -/
theorem slotPhaseCause_none (hx : c.inX = false) {x : SlotWord} (hd : x.dec = decodeSlot x.slot x.word) (hs : x.slot ≠ .xc) :
    c.slotPhaseCause x = none := by
  have hclass : phaseClass x.slot (opcodeOf x.word).toNat ≠ .exchange := by
    unfold phaseClass
    cases hslot : x.slot with
    | xc => exact absurd hslot hs
    | sb => dsimp only; split <;> nofun
    | _ => nofun
  have hbad : c.slotPhaseBad x = false := by
    unfold slotPhaseBad
    split
    · rfl
    · exact hx
    · next h => exact absurd h hclass
  unfold slotPhaseCause
  rw [hbad]
  split
  · next h => cases h
  · split
    · next o ho =>
      refine absurd (slot_of_isXcOnly (sl := x.slot) (w := x.word) ?_) hs
      rw [← hd, ho]
      rfl
    · rfl

/-- A property of one member gives the first hit of a search that no other member hits. -/
theorem findSome?_of_unique {α β : Type} {f : α → Option β} {x : α} {b : β} {xs : List α} (hx : x ∈ xs) (hb : f x = some b)
    (hf : ∀ y ∈ xs, f y ≠ none → y = x) : xs.findSome? f = some b := by
  cases hs : xs.findSome? f with
  | none => rw [List.findSome?_eq_none_iff.mp hs x hx] at hb; cases hb
  | some d =>
    obtain ⟨y, hy, hd⟩ := List.exists_of_findSome?_eq_some hs
    have hyx := hf y hy (by rw [hd]; nofun)
    rw [hyx, hb] at hd
    exact hd.symm

theorem phaseCause_of_slot {h : Head} {ws : List Word32} (hx : c.inX = false) {x : SlotWord} (hm : x ∈ decodeSlots h.slots ws)
    (hs : x.slot = .xc) {k : Cause} (hk : c.slotPhaseCause x = some k) : c.phaseCause (decodeSlots h.slots ws) = some k := by
  rw [phaseCause_eq]
  refine findSome?_of_unique hm hk fun y hy hne => ?_
  refine decodeSlots_inj hy hm ?_
  rw [hs]
  exact Classical.byContradiction fun hns => hne (slotPhaseCause_none hx (mem_decodeSlots hy).2 hns)

/-- An exchange-only slot in compute phase (rule R173). -/
theorem phaseCause_of_exchange {h : Head} {ws : List Word32} (hx : c.inX = false) {x : SlotWord} (hm : x ∈ decodeSlots h.slots ws)
    (hs : x.slot = .xc) (hop : (opcodeOf x.word).toNat ≤ 0x05) :
    c.phaseCause (decodeSlots h.slots ws) = some (c.cause 0x03 1 6 0) := by
  refine phaseCause_of_slot hx hm hs ?_
  have hbad : c.slotPhaseBad x = true := by
    unfold slotPhaseBad phaseClass
    simp [hs, hop, hx]
  unfold slotPhaseCause
  rw [hbad, if_pos rfl, hs]
  rfl

/-- A PHASE.END that names another phase (rule R167). -/
theorem phaseCause_of_phaseEnd {h : Head} {ws : List Word32} (hx : c.inX = false) {x : SlotWord} (hm : x ∈ decodeSlots h.slots ws)
    {o : R1aOps} (ho : x.dec = .ok (.phaseEnd o)) (hg : c.guard x = true)
    (hne : (c.rs o.a).extractLsb' 0 32 ≠ c.sys.phnum.extractLsb' 0 32) :
    c.phaseCause (decodeSlots h.slots ws) =
      some (c.cause 0x03 2 x.slot.num (c.sys.phnum.extractLsb' 0 32 ++ (c.rs o.a).extractLsb' 0 32)) := by
  have hd := (mem_decodeSlots hm).2
  have hs : x.slot = .xc := slot_of_isXcOnly (sl := x.slot) (w := x.word) (by rw [← hd, ho]; rfl)
  have hop : (opcodeOf x.word).toNat = 0x10 := decodeXc_phaseEnd (o := o) (by rw [← ho, hd, hs]; rfl)
  refine phaseCause_of_slot hx hm hs ?_
  have hbad : c.slotPhaseBad x = false := by
    unfold slotPhaseBad phaseClass
    simp [hs, hop, hx]
  unfold slotPhaseCause
  rw [hbad, if_neg (by decide), ho]
  dsimp only
  rw [hg, Bool.true_and, if_pos (by simpa using hne)]

/-- An MX slot outside the core's window (rule R175). -/
theorem windowCause_of_slot {arr loom : Nat} (hmx : ∃ x ∈ xs, x.slot = .mx ∧ c.guard x = true) (hout : c.inWindow arr loom = false) :
    c.windowCause arr loom xs = some (c.cause 0x04 0 5 (atBit (loom % 2) 0)) := by
  obtain ⟨x, hx, hs, hg⟩ := hmx
  unfold windowCause
  cases hf : xs.findSome? (fun x =>
      if x.slot = .mx && c.guard x && !c.inWindow arr loom then some (c.cause 0x04 0 5 (atBit (loom % 2) 0)) else none) with
  | none =>
    have := List.findSome?_eq_none_iff.mp hf x hx
    simp [hs, hg, hout] at this
  | some k =>
    obtain ⟨y, -, hy⟩ := List.exists_of_findSome?_eq_some hf
    split at hy
    · exact hy.symm
    · cases hy

theorem inWindow_eq (c : Core) (arr loom : Nat) :
    c.inWindow arr loom = if arr = 1 then c.side == 0 else if arr = 2 then c.side == 1 else loom % 2 == c.side := by
  unfold inWindow
  split
  · rfl
  · rfl
  · next h1 h2 => rw [if_neg h1, if_neg h2]

/-- The placement error of one slot (rule R51). -/
def slotPlacement (c : Core) (x : SlotWord) : Option BankFault :=
  match x.dec with
  | .ok i => if c.guard x then (placementOf c i).map (fun m => { slot := x.slot, bcinfo := bcWord m.kind m.unit m.first m.second 1 0 }) else none
  | .bad _ => none

theorem bankFault_eq (c : Core) (now : Nat) (xs : List SlotWord) :
    c.bankFault now xs = (xs.findSome? c.slotPlacement).or (c.conflicts [] (c.newClaims now xs)) := by
  have h : c.bankFault now xs =
      match xs.findSome? c.slotPlacement with | some f => some f | none => c.conflicts [] (c.newClaims now xs) := rfl
  rw [h]
  cases xs.findSome? c.slotPlacement <;> rfl

theorem bankFault_of_placed {now : Nat} (h : ∀ x ∈ xs, ∀ i, x.dec = .ok i → placementOf c i = none) :
    c.bankFault now xs = c.conflicts [] (c.newClaims now xs) := by
  have hnone : xs.findSome? c.slotPlacement = none := by
    rw [List.findSome?_eq_none_iff]
    intro x hx
    unfold slotPlacement
    split
    · next i hi =>
      rw [h x hx i hi]
      split <;> rfl
    · rfl
  rw [bankFault_eq, hnone, Option.none_or]

/-- A new claim meets one recorded earlier (rule R55). -/
theorem conflicts_recorded {sl : Slot} {off g m n : Nat} {k : Claim} (hk : c.ctl.claims = [k]) (hd : k.due = c.ctl.cc + off)
    (hu : k.units = [(g, m)]) :
    c.conflicts [] [(sl, off, [(g, n)])] = some { slot := sl, bcinfo := bcWord 1 g m n off ((c.ctl.cc : Int) - k.issued) } := by
  simp [conflicts, conflictOf, hk, hd, hu, meet]

/-- Two new claims meet: the later slot is named (rule R55). -/
theorem conflicts_new {sl sl' : Slot} {off g m n : Nat} (hk : c.ctl.claims = []) :
    c.conflicts [] [(sl, off, [(g, m)]), (sl', off, [(g, n)])] = some { slot := sl', bcinfo := bcWord 1 g m n off 0 } := by
  simp [conflicts, conflictOf, hk, meet]

end Core

end Sys2Proof.Machine
end

section
/-! The remaining causes before issue: faults of one slot, formats, tokens; and what BCINFO says. -/

namespace Sys2Proof.Machine
open Sys2Proof

/-- The oldest field of BCINFO: the earlier claim's distance, clamped to a signed byte (rule R55). -/
theorem bcWord_back {g a b : Nat} (delta : Nat) (off : Int) :
    bits (bcWord 1 g a b delta off) 7 0 = ((max (-128) (min 127 off)).emod 256).toNat := by
  have ho : ((max (-128) (min 127 off)).emod 256).toNat < 2 ^ 8 := by
    have h1 := Int.emod_lt_of_pos (max (-128) (min 127 off)) (show (0 : Int) < 256 by decide)
    have h2 := Int.emod_nonneg (max (-128) (min 127 off)) (show (256 : Int) ≠ 0 by decide)
    change (max (-128) (min 127 off) % 256).toNat < 2 ^ 8
    omega
  unfold bcWord
  dsimp only
  simp only [bits_or]
  rw [bits_atBit_above 1 _ _ _ (by decide), bits_atBit_above g _ _ _ (by decide), bits_atBit_above a _ _ _ (by decide),
    bits_atBit_above b _ _ _ (by decide), bits_atBit_above _ _ _ _ (by decide), bits_atBit _ 7 0 (by decide) ho]
  simp

/-! ### Legal formats (rules R188, R189) -/

theorem fmtReserved_bit : ∀ j < 32, (0x06FFFFC0#32).getLsbD j = (decide (6 ≤ j ∧ j < 24) || decide (25 ≤ j ∧ j < 27)) := by decide

/-- The bits that a format of TYPE 1 to 3 keeps 0. -/
theorem fmtReserved_iff (r : BitVec 32) :
    ((r &&& 0x06FFFFC0#32) == 0) = true ↔ (r.extractLsb' 6 18).toNat = 0 ∧ (r.extractLsb' 25 2).toNat = 0 := by
  have hzero {n : Nat} (x : BitVec n) : x.toNat = 0 ↔ x = 0#n := by rw [← BitVec.toNat_inj, BitVec.toNat_ofNat, Nat.zero_mod]
  rw [beq_iff_eq, hzero, hzero]
  change r &&& 0x06FFFFC0#32 = 0#32 ↔ _
  constructor
  · intro h
    have hbit (j : Nat) (hj : (6 ≤ j ∧ j < 24) ∨ (25 ≤ j ∧ j < 27)) : r.getLsbD j = false := by
      have := congrArg (·.getLsbD j) h
      have hm : (0x06FFFFC0#32).getLsbD j = true := by
        rw [fmtReserved_bit j (by omega)]
        simpa using hj
      rwa [BitVec.getLsbD_and, hm, Bool.and_true, BitVec.getLsbD_zero] at this
    constructor
    · ext i hi
      rw [BitVec.getElem_extractLsb', hbit _ (by omega), BitVec.getElem_zero]
    · ext i hi
      rw [BitVec.getElem_extractLsb', hbit _ (by omega), BitVec.getElem_zero]
  · rintro ⟨h₁, h₂⟩
    have hlow (j : Nat) (hj : 6 ≤ j ∧ j < 24) : r.getLsbD j = false := by
      have := congrArg (·.getLsbD (j - 6)) h₁
      simpa [show j - 6 < 18 by omega, show 6 + (j - 6) = j by omega] using this
    have hhigh (j : Nat) (hj : 25 ≤ j ∧ j < 27) : r.getLsbD j = false := by
      have := congrArg (·.getLsbD (j - 25)) h₂
      simpa [show j - 25 < 2 by omega, show 25 + (j - 25) = j by omega] using this
    apply BitVec.eq_of_getLsbD_eq
    intro j hj
    rw [BitVec.getLsbD_and, fmtReserved_bit j hj, BitVec.getLsbD_zero]
    by_cases h6 : 6 ≤ j ∧ j < 24
    · rw [hlow j h6, Bool.false_and]
    · by_cases h25 : 25 ≤ j ∧ j < 27
      · rw [hhigh j h25, Bool.false_and]
      · simp [h6, h25]

theorem getLsbD_23_iff (r : BitVec 32) : r.getLsbD 23 = true ↔ (r.extractLsb' 23 1).toNat = 1 := by
  have h : r.extractLsb' 23 1 = BitVec.ofBool (r.getLsbD 23) := by
    ext i hi
    obtain rfl : i = 0 := by omega
    rw [BitVec.getElem_extractLsb', BitVec.getElem_ofBool]
  rw [h]
  cases r.getLsbD 23 <;> decide

/-- A legal format, as the table of rule R189 says. -/
theorem fmtLegal_iff (r : BitVec 32) :
    let field := fun (lo n : Nat) => (r.extractLsb' lo n).toNat
    let w := field 6 1 + field 7 3 + field 10 3
    fmtLegal r = true ↔
      ((field 0 3 = 1 ∨ field 0 3 = 2 ∨ field 0 3 = 3) ∧ field 6 18 = 0 ∧ field 25 2 = 0) ∨
      (field 0 3 = 0 ∧ field 7 3 < 6 ∧ w ≤ 8 ∧ field 25 2 ≠ 3 ∧ (field 23 1 = 1 → w ≤ 4) ∧
        ((field 21 2 = 3 ∧ field 7 3 = 0 ∧ 1 ≤ w) ∨ (field 21 2 = 1 ∧ 2 ≤ field 7 3 ∧ 1 ≤ field 10 3) ∨
          ((field 21 2 = 0 ∨ field 21 2 = 2) ∧ 1 ≤ field 7 3))) := by
  have hres := fmtReserved_iff r
  have hpack := getLsbD_23_iff r
  have hcls := (r.extractLsb' 21 2).isLt
  unfold fmtLegal
  dsimp only
  generalize (r.extractLsb' 21 2).toNat = cls at *
  generalize (r.extractLsb' 25 2).toNat = scf at *
  generalize (r.extractLsb' 0 3).toNat = ty at *
  generalize (r.extractLsb' 7 3).toNat = eb at *
  generalize (r.extractLsb' 10 3).toNat = mb at *
  generalize (r.extractLsb' 23 1).toNat = pk at *
  generalize (r.extractLsb' 6 1).toNat + eb + mb = w at *
  have htail : (decide (w ≤ 8) && decide (scf ≠ 3) && (!r.getLsbD 23 || decide (w ≤ 4))) = true ↔ w ≤ 8 ∧ scf ≠ 3 ∧ (pk = 1 → w ≤ 4) := by
    rw [← hpack]
    cases r.getLsbD 23 <;> simp [and_assoc]
  by_cases hty : ty = 1 ∨ ty = 2 ∨ ty = 3
  · rw [if_pos (by simpa [or_assoc] using hty), hres]
    constructor
    · exact fun h => .inl ⟨hty, h⟩
    · rintro (⟨-, h⟩ | ⟨h, -⟩)
      · exact h
      · omega
  · rw [if_neg (by simpa [or_assoc] using hty)]
    by_cases h0 : ty = 0
    · rw [if_neg (not_not.mpr h0)]
      split
      · exact ⟨nofun, by omega⟩
      · split
        · rw [Bool.and_eq_true, Bool.and_eq_true, htail, decide_eq_true_eq, decide_eq_true_eq]
          omega
        · split
          · rw [Bool.and_eq_true, Bool.and_eq_true, htail, decide_eq_true_eq, decide_eq_true_eq]
            omega
          · rw [Bool.and_eq_true, htail, decide_eq_true_eq]
            omega
    · rw [if_pos h0]
      exact ⟨nofun, by omega⟩

/-- A format that an instruction names is illegal: the instruction's formats are not in order (rules R189, R202, R265, R293). -/
theorem pairLegal_left {a b : BitVec 32} (h : fmtLegal a = false) : pairLegal a b = false := by
  rw [pairLegal, h, Bool.false_and, Bool.false_and]

theorem pairLegal_right {a b : BitVec 32} (h : fmtLegal b = false) : pairLegal a b = false := by
  rw [pairLegal, h, Bool.and_false, Bool.false_and]

namespace Core
variable {c : Core}

theorem formatsOk_vcvtNfF32 {o} (h : fmtLegal (c.rf o.f) = false) : c.formatsOk (.vcvtNfF32 o) = false := by
  rw [formatsOk]
  dsimp only
  rw [h, Bool.false_and]

theorem formatsOk_vcvtF32Nf {o} (h : fmtLegal (c.rf o.f) = false) : c.formatsOk (.vcvtF32Nf o) = false := by
  rw [formatsOk]
  dsimp only
  rw [h, Bool.false_and]

theorem formatsOk_vcvtsNfF32 {o} (h : fmtLegal (c.rf (o.f.setWidth 4)) = false) : c.formatsOk (.vcvtsNfF32 o) = false := by
  rw [formatsOk]
  dsimp only
  rw [h, Bool.false_and]

theorem formatsOk_mmStart_left {o} (h : fmtLegal (c.rf o.fa) = false) : c.formatsOk (.mmStart o) = false := pairLegal_left h

theorem formatsOk_mmStart_right {o} (h : fmtLegal (c.rf o.fb) = false) : c.formatsOk (.mmStart o) = false := pairLegal_right h

theorem formatsOk_mmStartLt {o} (h : fmtLegal (c.rf o.fa) = false) : c.formatsOk (.mmStartLt o) = false := pairLegal_left h

theorem formatsOk_mmLdb {o} (h : fmtLegal (c.rf o.fb) = false) : c.formatsOk (.mmLdb o) = false := by
  rw [formatsOk]
  rw [h, Bool.false_and]

theorem formatsOk_mmDrain {o} (h : fmtLegal (c.rf o.f) = false) : c.formatsOk (.mmDrain o) = false := h

/-! ### Faults of one slot (rules R213, R255, R304, R361) -/

/-- The slot's opcode does not belong to the mode, in trap mode or outside it. -/
def outOfTrap (c : Core) (x : SlotWord) : Bool :=
  let op := (opcodeOf x.word).toNat
  if c.inTrap then x.slot == .mx || (x.slot == .xc && !(op == 0x11 || op == 0x22 || op == 0x30)) else x.slot == .sb && op == 0x8A

theorem trapLegal_eq (c : Core) (x : SlotWord) : (!trapLegal c.inTrap x.slot (opcodeOf x.word).toNat) = c.outOfTrap x := by
  unfold trapLegal outOfTrap
  cases c.inTrap with
  | true => cases x.slot <;> simp
  | false => cases x.slot <;> simp

/-- The encoding fault of a slot in compute phase. -/
theorem slotFault_compute (hx : c.inX = false) (x : SlotWord) : c.slotFault x = match x.dec with
    | .bad .illegalOpcode => some 0x01
    | .bad .illegalEncoding => some 0x02
    | .ok i => if c.outOfTrap x || !c.formatsOk i then some 0x02 else none := by
  unfold slotFault
  rcases x.dec with i | e
  · dsimp only
    rw [trapLegal_eq, hx]
    cases c.outOfTrap x with
    | true => rfl
    | false => simp
  · cases e <;> rfl

/-- The encoding fault of a slot in exchange phase, where formats are not looked at. -/
theorem slotFault_exchange (hx : c.inX = true) (x : SlotWord) : (c.slotFault x).isSome = match x.dec with
    | .bad _ => true
    | .ok _ => c.outOfTrap x := by
  unfold slotFault
  rcases x.dec with i | e
  · dsimp only
    rw [trapLegal_eq, hx]
    cases c.outOfTrap x <;> rfl
  · cases e <;> rfl

/-! ### Tokens (rule R124) -/

/-- The tokens that a slot clears, if it is a TOK.CLR whose guard reads true. -/
def clears (c : Core) (x : SlotWord) : Option (BitVec 8) :=
  match x.dec with
  | .ok (.tokClr o) => if c.guard x then some o.mask else none
  | _ => none

/-- A slot clears token `j`. -/
def clearsTok (c : Core) (j : Nat) (x : SlotWord) : Bool :=
  match x.dec with
  | .ok (.tokClr o) => c.guard x && o.mask.getLsbD j
  | _ => false

theorem clearsTok_eq (c : Core) (j : Nat) (x : SlotWord) : c.clearsTok j x = (c.clears x).any (·.getLsbD j) := by
  unfold clearsTok clears
  split
  · cases c.guard x <;> rfl
  · rfl

theorem slot_of_clears {h : Head} {ws : List Word32} {x : SlotWord} (hx : x ∈ decodeSlots h.slots ws) (hc : c.clears x ≠ none) :
    x.slot = .xc := by
  unfold clears at hc
  split at hc
  · next o ho =>
    refine slot_of_isXcOnly (w := x.word) ?_
    rw [← (mem_decodeSlots hx).2, ho]
    rfl
  · exact absurd rfl hc

/-- The mask that a bundle's TOK.CLR leaves for the search. -/
def clearMask (c : Core) (xs : List SlotWord) : BitVec 8 := xs.foldl (fun m x => (c.clears x).getD m) 0

theorem clearMask_getLsbD (c : Core) (h : Head) (ws : List Word32) (j : Nat) :
    (c.clearMask (decodeSlots h.slots ws)).getLsbD j = (decodeSlots h.slots ws).any (c.clearsTok j) := by
  by_cases hex : ∃ x ∈ decodeSlots h.slots ws, c.clears x ≠ none
  · obtain ⟨x, hx, hc⟩ := hex
    have huniq (y : SlotWord) (hy : y ∈ decodeSlots h.slots ws) (hcy : c.clears y ≠ none) : y = x :=
      decodeSlots_inj hy hx (by rw [slot_of_clears hy hcy, slot_of_clears hx hc])
    obtain ⟨m, hm⟩ := Option.ne_none_iff_exists'.mp hc
    obtain ⟨pre, post, hxs⟩ := List.append_of_mem hx
    have hmask : c.clearMask (decodeSlots h.slots ws) = m := by
      unfold clearMask
      rw [hxs, List.foldl_append, List.foldl_cons, hm]
      refine List.foldlRecOn (motive := fun a => a = m) _ _ rfl fun a ha y hy => ?_
      by_cases hcy : c.clears y = none
      · rw [hcy]
        exact ha
      · rw [huniq y (hxs ▸ by simp [hy]) hcy, hm]
        rfl
    rw [hmask, Bool.eq_iff_iff, List.any_eq_true]
    simp only [clearsTok_eq]
    constructor
    · exact fun hj => ⟨x, hx, by rw [hm]; exact hj⟩
    · rintro ⟨y, hy, hj⟩
      have hcy : c.clears y ≠ none := fun hn => by rw [hn] at hj; cases hj
      rw [huniq y hy hcy, hm] at hj
      exact hj
  · have hnone (y : SlotWord) (hy : y ∈ decodeSlots h.slots ws) : c.clears y = none :=
      Classical.byContradiction fun hne => hex ⟨y, hy, hne⟩
    have hmask : c.clearMask (decodeSlots h.slots ws) = 0 := by
      unfold clearMask
      refine List.foldlRecOn (motive := fun a : BitVec 8 => a = 0) _ _ rfl fun a ha y hy => ?_
      rw [hnone y hy]
      exact ha
    rw [hmask, Eq.comm, BitVec.ofNat_eq_ofNat, BitVec.getLsbD_zero, List.any_eq_false]
    intro y hy
    rw [clearsTok_eq, hnone y hy]
    exact Bool.false_ne_true

/-- The misuse of token `j` that a bundle's wait mask or TOK.CLR makes: its code and its slot. -/
def misuse (c : Core) (wm : BitVec 8) (xs : List SlotWord) (j : Nat) : Option (Nat × Nat) :=
  if wm.getLsbD j && c.reg.getTok j == .idle then some (1, 8)
  else if xs.any (c.clearsTok j) && c.reg.getTok j == .pending then some (4, 6)
  else none

/-- The first hit of a search through the numbers below `n`. -/
theorem findSome?_range_of_first {β : Type} {f : Nat → Option β} {b : β} {j : Nat} (hnone : ∀ i < j, f i = none) (hj : f j = some b) :
    ∀ {n : Nat}, j < n → (List.range n).findSome? f = some b
  | n + 1, h => by
    rw [List.range_succ, List.findSome?_append]
    rcases Nat.lt_succ_iff_lt_or_eq.mp h with hlt | rfl
    · rw [findSome?_range_of_first hnone hj hlt, Option.some_or]
    · have : (List.range j).findSome? f = none := by
        rw [List.findSome?_eq_none_iff]
        exact fun i hi => hnone i (List.mem_range.mp hi)
      rw [this, Option.none_or, List.findSome?_cons, hj]

theorem tokenCause_eq (c : Core) (wm : BitVec 8) (h : Head) (ws : List Word32) : c.tokenCause wm (decodeSlots h.slots ws) =
    (List.range 8).findSome? (fun k => (c.misuse wm (decodeSlots h.slots ws) k).map (fun m => c.cause 0x07 m.1 m.2 (atBit k 0))) := by
  have hclr : (decodeSlots h.slots ws).foldl (fun m x => match x.dec with
      | .ok (.tokClr o) => if c.guard x then o.mask else m
      | _ => m) 0 = c.clearMask (decodeSlots h.slots ws) := by
    unfold clearMask
    congr
    funext m x
    unfold clears
    split
    · split <;> rfl
    · rfl
  have hdef : c.tokenCause wm (decodeSlots h.slots ws) = (List.range 8).findSome? (fun k =>
      if wm.getLsbD k && c.reg.getTok k == .idle then some (c.cause 0x07 1 8 (atBit k 0))
      else if ((decodeSlots h.slots ws).foldl (fun m x => match x.dec with
        | .ok (.tokClr o) => if c.guard x then o.mask else m
        | _ => m) (0 : BitVec 8)).getLsbD k && c.reg.getTok k == .pending then some (c.cause 0x07 4 6 (atBit k 0))
      else none) := rfl
  rw [hdef, hclr]
  congr
  funext k
  rw [clearMask_getLsbD, misuse]
  split
  · rfl
  · split <;> rfl

/-- The lowest misused token is reported, with the lower code (rule R124). -/
theorem tokenCause_of_first {wm : BitVec 8} {h : Head} {ws : List Word32} {j k sl : Nat} (hj : j < 8)
    (hnone : ∀ i < j, c.misuse wm (decodeSlots h.slots ws) i = none) (hm : c.misuse wm (decodeSlots h.slots ws) j = some (k, sl)) :
    c.tokenCause wm (decodeSlots h.slots ws) = some (c.cause 0x07 k sl (BitVec.ofNat 64 j)) := by
  rw [tokenCause_eq]
  refine findSome?_range_of_first (fun i hi => by rw [hnone i hi]; rfl) ?_ hj
  rw [hm, Option.map_some, atBit, BitVec.shiftLeft_zero]

/-- A misuse of the wait mask is code 1 and names no slot; one of TOK.CLR is code 4 and names XC. -/
theorem misuse_fields {wm : BitVec 8} {xs : List SlotWord} {j k sl : Nat} (h : c.misuse wm xs j = some (k, sl)) : k < 8 ∧ sl < 16 := by
  unfold misuse at h
  split at h
  · cases h
    decide
  · split at h
    · cases h
      decide
    · cases h

end Core

end Sys2Proof.Machine
end

section
/-! The issue itself: the slots of an admitted bundle on the agenda, a pure delay, and a bundle in exchange phase. -/

namespace Sys2Proof.Machine
open Sys2Proof

namespace Core

/-- The core as an issuing bundle leaves it before its slots: of its control state the loop buffer alone has changed, and registers,
memory, trap state and phase have not. -/
structure readied (c d : Core) : Prop where
  idx : d.idx = c.idx
  reg : d.reg = c.reg
  mem : d.mem = c.mem
  trap : d.trap = c.trap
  phnum : d.sys.phnum = c.sys.phnum
  ctl : d.ctl = { c.ctl with lbuf := d.ctl.lbuf }

theorem readied.trans {c d e : Core} (h : c.readied d) (h' : d.readied e) : c.readied e :=
  ⟨h'.idx.trans h.idx, h'.reg.trans h.reg, h'.mem.trans h.mem, h'.trap.trans h.trap, h'.phnum.trans h.phnum, by rw [h'.ctl, h.ctl]⟩

theorem readied.inX {c d : Core} (h : c.readied d) : d.inX = c.inX := by rw [Core.inX, h.phnum, Core.inX]

theorem acctFlush_readied (c : Core) : c.readied c.acctFlush := by
  unfold acctFlush
  dsimp only
  split
  · have h := (c.emit_frame c.aux.acctAt 6 (c.sys.mxchg.setWidth 18)
      (atBit (c.aux.acct.getD 3 0).toNat 48 ||| atBit (c.aux.acct.getD 2 0).toNat 32 ||| atBit (c.aux.acct.getD 1 0).toNat 16 |||
        atBit (c.aux.acct.getD 0 0).toNat 0) (atBit (c.aux.acct.getD 4 0).toNat 0)).1
    rw [h]
    exact ⟨rfl, rfl, rfl, rfl, rfl, rfl⟩
  · exact ⟨rfl, rfl, rfl, rfl, rfl, rfl⟩

theorem charge_readied (c : Core) : c.readied c.charge := by
  unfold charge
  dsimp only
  split
  · exact ⟨rfl, rfl, rfl, rfl, rfl, rfl⟩
  · exact c.acctFlush_readied.trans ⟨rfl, rfl, rfl, rfl, rfl, rfl⟩

theorem capture_readied (c : Core) (a : CodeAddr) (ws : List Word32) : c.readied (c.capture a ws) := by
  unfold capture
  split
  · exact ⟨rfl, rfl, rfl, rfl, rfl, rfl⟩
  · split <;> exact ⟨rfl, rfl, rfl, rfl, rfl, rfl⟩

/-- No loop level is active. -/
def loopFree (c : Core) : Prop := c.reg.loops.toList.all (fun l => !l.act) = true

theorem getLoop_of_loopFree {c : Core} (h : c.loopFree) (l : Nat) : (c.reg.getLoop l).act = false := by
  unfold Regs.getLoop
  split
  · next hl =>
    have := List.all_eq_true.mp h c.reg.loops[l] (by simp)
    simpa using this
  · rfl

/-- Outside all loops the loop buffer captures nothing. -/
theorem capture_of_loopFree {c : Core} (h : c.loopFree) (a : CodeAddr) (ws : List Word32) : c.capture a ws = c := by
  have hb : c.bodyLevel a = none := by
    unfold bodyLevel
    rw [List.find?_eq_none]
    intro l _
    simp [getLoop_of_loopFree h l]
  unfold capture
  rw [hb]

theorem backEdges_of_inactive {a : CodeAddr} {e : Edge} (h : ∀ l, (e.regs.getLoop l).act = false) : ∀ ls, backEdges a ls e = e
  | [] => rfl
  | l :: ls => by
    unfold backEdges
    simp only [h l, Bool.false_and, Bool.false_eq_true, if_false]
    exact backEdges_of_inactive h ls

theorem edgesAt_of_loopFree {c : Core} (h : c.loopFree) (a : CodeAddr) :
    c.edgesAt a = { regs := c.reg, writes := [], levels := [], p8 := [], jump := none, exits := false } :=
  backEdges_of_inactive (getLoop_of_loopFree h) _

/-- In compute phase, outside loops and with no redirect or skip due, the bundle that follows in sequence is next (rule R246). -/
theorem advance_plain {c : Core} {len : Nat} (h : c.loopFree) (hr : c.ctl.redirects = []) (hs : c.ctl.skip = none) :
    let d := c.advance false len
    d.ctl.pc = c.past c.ctl.pc ∧ d.ctl.idle = len ∧ d.ctl.issued = true ∧ d.reg = c.reg ∧ d.mem = c.mem := by
  unfold advance dropPassed
  simp [edgesAt_of_loopFree h, hr, hs, countDown]

theorem advance_suppressed_lands (c : Core) (n : Nat) : (c.advance true n).ctl.lands = c.ctl.lands := by
  unfold advance discardFetch dropPassed
  dsimp only
  split <;> exact List.append_nil _

end Core

namespace State

theorem chargeMx_readied (v : State) (all live : List SlotWord) :
    v.core.readied (v.chargeMx all live).core ∧ v.chargeMx all live = { v with core := (v.chargeMx all live).core } := by
  unfold chargeMx
  split
  · exact ⟨⟨rfl, rfl, rfl, rfl, rfl, rfl⟩, rfl⟩
  · exact ⟨v.core.charge_readied.trans ⟨rfl, rfl, rfl, rfl, rfl, rfl⟩, rfl⟩

/-- The state in which the slots of an issuing bundle go onto the agenda. -/
def issueReady (v : State) (calm : Bool) (h : Head) (ws : List Word32) (all xs : List SlotWord) : State :=
  let live := xs.filter v.core.guard
  let r := regionOf v.core.idx
  let reg := v.region r
  ((v.putRegion r { reg with act := reg.act + live.foldl (fun n x => n + weight x) 0 }).chargeMx all live).act
    (fun c => let d := c.capture c.ctl.pc ws; { d with aux := { d.aux with safe := h.safe && calm } })

section
variable (v : State) (calm : Bool) (h : Head) (ws : List Word32) (all xs : List SlotWord)

theorem issueReady_readied : v.core.readied (v.issueReady calm h ws all xs).core ∧
    v.issueReady calm h ws all xs =
      { v with core := (v.issueReady calm h ws all xs).core, regions := (v.issueReady calm h ws all xs).regions } := by
  unfold issueReady
  extract_lets live r reg
  generalize hq : v.putRegion r _ = q
  obtain ⟨hc, hv⟩ := q.chargeMx_readied all live
  subst hq
  refine ⟨hc.trans ((Core.capture_readied _ _ _).trans ⟨rfl, rfl, rfl, rfl, rfl, rfl⟩), ?_⟩
  rw [hv]
  rfl

/-- The instruction of a slot, where it decodes. -/
def slotInstr (x : SlotWord) : Option Instr := match x.dec with | .ok i => some i | .bad _ => none

theorem issueSlots_eq : v.issueSlots calm h ws all xs =
    match ((xs.filter v.core.guard).filterMap slotInstr).reverse with
    | [] =>
      if xs.isEmpty then (v.issueReady calm h ws all xs).act (fun c => c.advance true h.idle.toNat)
      else { v.issueReady calm h ws all xs with arg := { v.arg with bundle := true, last := true, idle := h.idle.toNat } }.finish
    | l :: rest => { v.issueReady calm h ws all xs with
        agenda := rest.reverse.map (fun i => (i, { v.arg with bundle := true, last := false, idle := h.idle.toNat })) ++
          (l, { v.arg with bundle := true, last := true, idle := h.idle.toNat }) :: v.agenda } := by
  have hag : (v.issueReady calm h ws all xs).agenda = v.agenda := by rw [(v.issueReady_readied calm h ws all xs).2]
  conv_rhs => rw [← hag]
  rfl

/-- The guarded slots of an admitted bundle stand next on the agenda, in SP order and marked as one bundle (rules R209, R246). -/
theorem issueSlots_front (hlive : ∃ x ∈ xs, v.core.guard x = true ∧ ∃ i, x.dec = .ok i) :
    let t := v.issueSlots calm h ws all xs
    (t.core.reg = v.core.reg ∧ t.core.mem = v.core.mem ∧ t.mem = v.mem) ∧ ∃ front, t.agenda = front ++ v.agenda ∧
      front.map (·.1) = (xs.filter v.core.guard).filterMap slotInstr ∧
      (∀ e ∈ front, e.2.bundle = true ∧ e.2.idle = h.idle.toNat) ∧ front.getLast?.map (·.2.last) = some true ∧
      ∀ e ∈ front.dropLast, e.2.last = false := by
  obtain ⟨x, hx, hg, i, hi⟩ := hlive
  have hmem : i ∈ (xs.filter v.core.guard).filterMap slotInstr :=
    List.mem_filterMap.mpr ⟨x, List.mem_filter.mpr ⟨hx, hg⟩, by rw [slotInstr, hi]⟩
  obtain ⟨hr, hs⟩ := v.issueReady_readied calm h ws all xs
  rw [issueSlots_eq]
  cases hrev : ((xs.filter v.core.guard).filterMap slotInstr).reverse with
  | nil => rw [List.reverse_eq_nil_iff.mp hrev] at hmem; cases hmem
  | cons l rest =>
    have his : (xs.filter v.core.guard).filterMap slotInstr = rest.reverse ++ [l] := by
      rw [← List.reverse_reverse ((xs.filter v.core.guard).filterMap slotInstr), hrev, List.reverse_cons]
    refine ⟨⟨hr.reg, hr.mem, by rw [hs]⟩, rest.reverse.map (fun i => (i, { v.arg with bundle := true, last := false, idle := h.idle.toNat })) ++
      [(l, { v.arg with bundle := true, last := true, idle := h.idle.toNat })], ?_, ?_, ?_, ?_, ?_⟩
    · rw [List.append_assoc]
      rfl
    · rw [his, List.map_append, List.map_map]
      simp [Function.comp_def]
    · intro e he
      rcases List.mem_append.mp he with he | he
      · obtain ⟨j, -, rfl⟩ := List.mem_map.mp he
        exact ⟨rfl, rfl⟩
      · rw [List.mem_singleton.mp he]
        exact ⟨rfl, rfl⟩
    · rw [List.getLast?_concat]
      rfl
    · intro e he
      rw [List.dropLast_concat] at he
      obtain ⟨j, -, rfl⟩ := List.mem_map.mp he
      rfl

theorem finish_exchange {s : State} (hx : s.core.inX = true) : s.finish = s.passed := by
  rw [finish_eq]
  split
  · rfl
  · rw [hx]
    rfl

/-- In exchange phase no issue takes a trap: losses stand as they were. -/
theorem issueSlots_parts (hx : v.core.inX = true) : (v.issueSlots calm h ws all xs).parts = v.parts := by
  obtain ⟨hr, hs⟩ := v.issueReady_readied calm h ws all xs
  have hp : (v.issueReady calm h ws all xs).parts = v.parts := by rw [hs]
  rw [issueSlots_eq]
  split
  · split
    · exact hp
    · exact (congrArg State.parts (finish_exchange (s := { v.issueReady calm h ws all xs with
        arg := { v.arg with bundle := true, last := true, idle := h.idle.toNat } }) (hr.inX.trans hx))).trans hp
  · exact hp

/-- A bundle all of whose slots are suppressed passes on, with no back-edge (rules R173, R213, R246). -/
theorem issueSlots_nil : let t := v.issueSlots calm h ws all []
    t.core.reg = v.core.reg ∧ t.core.mem = v.core.mem ∧ t.core.ctl.lands = v.core.ctl.lands ∧ t.agenda = v.agenda := by
  obtain ⟨hr, hs⟩ := v.issueReady_readied calm h ws all []
  have he : v.issueSlots calm h ws all [] = (v.issueReady calm h ws all []).act (fun c => c.advance true h.idle.toNat) := issueSlots_eq ..
  obtain ⟨ha, -⟩ := (v.issueReady calm h ws all []).core.advance_frame true h.idle.toNat
  rw [he]
  refine ⟨?_, ?_, ?_, ?_⟩
  · show ((v.issueReady calm h ws all []).core.advance true h.idle.toNat).reg = _
    rw [ha]
    exact hr.reg
  · show ((v.issueReady calm h ws all []).core.advance true h.idle.toNat).mem = _
    rw [ha]
    exact hr.mem
  · show ((v.issueReady calm h ws all []).core.advance true h.idle.toNat).ctl.lands = _
    rw [Core.advance_suppressed_lands, hr.ctl]
  · show (v.issueReady calm h ws all []).agenda = _
    rw [hs]

end

/-! ### Pure delays (rule R210) -/

theorem finish_quiet {s : State} (h : s.core.trap.pend = []) : s.finish = s.passed := by
  have : firstPending s.core = none := by
    unfold firstPending
    rw [h]
    rfl
  rw [finish_eq, this]

/-- A pure delay that is admitted passes on with its remaining empty core cycles. -/
theorem issueDelay_go {u w : State} {x : Word32} {h : Head} {xs : List SlotWord} (hv : u.vet h.wm [] = .go w xs)
    (hp : w.core.trap.pend = []) (hl : w.core.loopFree) (hr : w.core.ctl.redirects = []) (hs : w.core.ctl.skip = none)
    (hm : w.core.ctl.mode = .running) :
    let t := u.issueDelay x h
    t.core.ctl.pc = w.core.past w.core.ctl.pc ∧ t.core.ctl.idle = h.idle.toNat - 1 ∧ t.core.ctl.issued = true ∧
      t.core.reg = w.core.reg ∧ t.core.mem = w.core.mem := by
  have hw : w.act (fun c => c.capture c.ctl.pc [x]) = w := by
    simp only [act, Core.capture_of_loopFree hl]
  have hnot : w.core.ctl.mode ≠ .barrier := by rw [hm]; nofun
  have ht : u.issueDelay x h = { w with arg := { w.arg with bundle := true, last := true, idle := h.idle.toNat - 1 } }.passed := by
    unfold issueDelay
    rw [hv]
    dsimp only
    rw [hw]
    exact finish_quiet hp
  rw [ht]
  unfold passed
  simp only [act, if_neg hnot]
  exact Core.advance_plain hl hr hs

/-- What a bundle without slots is admitted into: the core's place is as it was. -/
theorem vet_nil_go {u w : State} {wm : BitVec 8} {xs : List SlotWord} (hx : u.core.inX = false) (hv : u.vet wm [] = .go w xs) :
    w.core.ctl.pc = u.core.ctl.pc := by
  have hw : w = u.landNow := by
    unfold vet at hv
    simp only [landNow_inX, hx, Bool.false_eq_true, if_false] at hv
    split at hv
    · cases hv
    · split at hv
      · cases hv
        rfl
      · split at hv
        · cases hv
        · split at hv
          · cases hv
          · cases hv
            rfl
  rw [hw, landNow_pc]

end State

/-! ### A bundle in exchange phase (rules R56, R126, R173, R213) -/

namespace Core

/-- In exchange phase a slot is at fault by itself: it does not decode, or does not belong to the mode. -/
def brokenX (c : Core) (x : SlotWord) : Bool := match x.dec with | .bad _ => true | .ok _ => c.outOfTrap x

/-- A slot is left out for its encoding. -/
def faultyX (c : Core) (xs : List SlotWord) (x : SlotWord) : Bool := c.brokenX x || (!xs.any c.brokenX && (clashing xs).contains x.slot)

/-- The slot's instruction belongs to compute phase alone. -/
def computeOnly (x : SlotWord) : Bool :=
  match x.slot with
  | .va => true
  | .vm => true
  | .mx => true
  | .xc => decide (0x05 < (opcodeOf x.word).toNat) && (opcodeOf x.word).toNat != 0x11
  | .sb => decide (0x88 ≤ (opcodeOf x.word).toNat) && (opcodeOf x.word).toNat != 0x90
  | _ => false

/-- A slot is left out for its phase. -/
def illegalX (c : Core) (xs : List SlotWord) (x : SlotWord) : Bool := !c.faultyX xs x && computeOnly x

/-- The wait mask names a token that is not yet done. -/
def waitsX (c : Core) (wm : BitVec 8) : Bool :=
  (List.range 8).any (fun j => wm.getLsbD j && (c.reg.getTok j == .pending || c.reg.getTok j == .idle))

/-- The slots that issue in exchange phase. -/
def liveX (c : Core) (xs : List SlotWord) : List SlotWord := xs.filter (fun x => !c.faultyX xs x && !c.illegalX xs x)

theorem slotPhaseBad_exchange {c : Core} (hx : c.inX = true) (x : SlotWord) : c.slotPhaseBad x = computeOnly x := by
  unfold slotPhaseBad phaseClass computeOnly
  rw [hx]
  generalize (opcodeOf x.word).toNat = op
  cases x.slot with
  | sb =>
    dsimp only
    cases decide (0x88 ≤ op) && op != 0x90 <;> rfl
  | xc =>
    dsimp only
    by_cases h5 : op ≤ 0x05
    · simp [h5]
    · by_cases h11 : op = 0x11
      · simp [h11]
      · simp [h5, h11]
        omega
  | _ => rfl

theorem brokenX_eq {c : Core} (hx : c.inX = true) (x : SlotWord) : (c.slotFault x).isSome = c.brokenX x := by
  rw [slotFault_exchange hx]
  rfl

theorem ok_of_liveX {c : Core} {xs : List SlotWord} {x : SlotWord} (hx : x ∈ c.liveX xs) : ∃ i, x.dec = .ok i := by
  obtain ⟨-, hl⟩ := List.mem_filter.mp hx
  rcases hd : x.dec with i | e
  · exact ⟨i, rfl⟩
  · simp [faultyX, brokenX, hd] at hl

end Core

namespace State

theorem xerror_frame (s : State) (n : Nat) : s.xerror n = { s with module := (s.xerror n).module, parts := (s.xerror n).parts } :=
  note_frame ..

/-- What an exchange-phase bundle reports, as losses pending. -/
def reportX (v : State) (b : Bool) (n : Nat) : State := if b then v.xerror n else v

theorem reportX_frame (v : State) (b : Bool) (n : Nat) :
    v.reportX b n = { v with module := (v.reportX b n).module, parts := (v.reportX b n).parts } := by
  unfold reportX
  split
  · exact v.xerror_frame n
  · rfl

theorem reportX_core (v : State) (b : Bool) (n : Nat) : (v.reportX b n).core = v.core := by rw [reportX_frame]

theorem reportX_lossesKept {v : State} {k p : Nat} {x : Context} (h : v.lossesKept k p x) (hk : v.core.idx = k) (b : Bool) (n : Nat) :
    (v.reportX b n).lossesKept k p x := by
  unfold reportX xerror
  rw [hk]
  split
  · exact note_lossesKept h _
  · exact h

theorem reportX_lossPending {v : State} {k p n : Nat} (h : v.lossPending k p n) (hk : v.core.idx = k) (b : Bool) (m : Nat) :
    (v.reportX b m).lossPending k p n := by
  unfold reportX xerror
  rw [hk]
  split
  · exact note_lossPending h _
  · exact h

theorem reportX_loss {v : State} {k p : Nat} {x : Context} (h : v.lossesKept k p x) (hk : v.core.idx = k) {b : Bool} (hb : b = true)
    (n : Nat) : (v.reportX b n).lossPending k p n := by
  obtain ⟨y, hy, -⟩ := h
  unfold reportX xerror
  rw [if_pos hb, hk]
  exact note_loss hy ..

/-- The semaphore waits of an exchange-phase bundle report what its wait mask does (rule R133). -/
def semWaitX (v : State) (xs : List SlotWord) : Bool :=
  xs.any (fun x => v.core.illegalX xs x && (match x.dec with | .ok (.semWait _) => true | _ => false) && v.core.guard x)

theorem admitX_eq {v : State} (hx : v.core.inX = true) (wm : BitVec 8) (xs : List SlotWord) : v.admitX wm xs =
    (((v.reportX (xs.any (v.core.faultyX xs)) 0x0A).reportX (v.core.waitsX wm || v.semWaitX xs) 0x08).reportX
      (xs.any (v.core.illegalX xs)) 0x09, v.core.liveX xs) := by
  have hf (x : SlotWord) : (v.core.brokenX x || (if xs.any v.core.brokenX then [] else Core.clashing xs).contains x.slot) =
      v.core.faultyX xs x := by
    rw [Core.faultyX]
    cases xs.any v.core.brokenX <;> rfl
  unfold admitX
  simp only [Core.brokenX_eq hx, Core.slotPhaseBad_exchange hx, hf]
  rfl

/-- What an exchange-phase bundle is admitted into: beyond the losses pending and the error log nothing has changed. -/
theorem admitX_frame {v : State} (hx : v.core.inX = true) (wm : BitVec 8) (xs : List SlotWord) :
    (v.admitX wm xs).1 = { v with module := (v.admitX wm xs).1.module, parts := (v.admitX wm xs).1.parts } := by
  rw [admitX_eq hx]
  dsimp only
  rw [reportX_frame, reportX_frame, reportX_frame]

/-- Each kind of fault leaves a loss pending (rules R126, R173, R213). -/
theorem admitX_losses {v : State} (hx : v.core.inX = true) (wm : BitVec 8) (xs : List SlotWord) {p : Nat} {x : Context}
    (hc : v.ctxOf v.core.idx = some (p, x)) :
    (xs.any (v.core.faultyX xs) = true → (v.admitX wm xs).1.lossPending v.core.idx p 0x0A) ∧
    (v.core.waitsX wm = true → (v.admitX wm xs).1.lossPending v.core.idx p 0x08) ∧
    (xs.any (v.core.illegalX xs) = true → (v.admitX wm xs).1.lossPending v.core.idx p 0x09) := by
  have h0 : v.lossesKept v.core.idx p x := ⟨x, hc, List.Subset.refl _⟩
  have h1 := reportX_lossesKept h0 rfl (xs.any (v.core.faultyX xs)) 0x0A
  have k1 : (v.reportX (xs.any (v.core.faultyX xs)) 0x0A).core.idx = v.core.idx := by rw [reportX_core]
  have h2 := reportX_lossesKept h1 k1 (v.core.waitsX wm || v.semWaitX xs) 0x08
  have k2 : ((v.reportX (xs.any (v.core.faultyX xs)) 0x0A).reportX (v.core.waitsX wm || v.semWaitX xs) 0x08).core.idx = v.core.idx := by
    rw [reportX_core, k1]
  rw [admitX_eq hx]
  refine ⟨fun h => ?_, fun h => ?_, fun h => ?_⟩
  · exact reportX_lossPending (reportX_lossPending (reportX_loss h0 rfl h _) k1 _ _) k2 _ _
  · exact reportX_lossPending (reportX_loss h1 k1 (by rw [h, Bool.true_or]) _) k2 _ _
  · exact reportX_loss h2 k2 h _

/-- In exchange phase nothing traps: the bundle issues without the slots at fault. -/
theorem vet_exchange {u : State} (hx : u.core.inX = true) (wm : BitVec 8) (xs : List SlotWord) :
    u.vet wm xs = .go (u.landNow.admitX wm xs).1 (u.landNow.admitX wm xs).2 := by
  have hb : u.boundaryCause u.landNow true = none := by
    unfold boundaryCause
    simp [hx]
  unfold vet
  simp only [hb, landNow_inX, hx, if_true]

end State

end Sys2Proof.Machine
end

section
/-! The issue of a bundle (rules R53 to R56, R124, R167, R173, R175, R189, R209, R210, R213, R246, R355). -/

namespace Sys2Proof.Machine
open Sys2Proof

theorem slotNum_lt (sl : Slot) : sl.num < 16 := by cases sl <;> decide

namespace State
section
variable {v : State} {a : CodeAddr} {h : Head} (hpc : v.core.ctl.pc = a) (hl : v.core.locate a = (a, false))
  (hs : (v.dueAt a).core.unsound a = false) (hx : (v.dueAt a).core.inX = false)
  (hb : (v.dueAt a).boundaryCause (v.dueAt a).landNow true = none)
include hpc hl hs hx hb

omit hpc hl hs hx hb in
theorem dueAt_landNow_pc : (v.dueAt a).landNow.core.ctl.pc = a := (landNow_pc _).trans dueAt_pc

/-- A malformed head word traps (rules R210, R213). -/
theorem issueBundle_names_malformed (hd : decodeHead ((v.dueAt a).core.bundleHead a) (Core.wordOf a) = .malformed) :
    (v.dueAt a).names v.issueBundle 0x02 0 8 a (((v.dueAt a).core.bundleHead a).setWidth 64) := by
  have hpc' : ((v.dueAt a).core.cause 0x02 0 8 (((v.dueAt a).core.bundleHead a).setWidth 64)).cba = a := dueAt_pc
  have he : v.issueBundle = (v.dueAt a).trapBefore ((v.dueAt a).core.cause 0x02 0 8 (((v.dueAt a).core.bundleHead a).setWidth 64)) := by
    rw [issueBundle_malformed hpc hl hs hd hx, issueMalformed, if_neg (by rw [hx]; nofun)]
    simp only [hb]
  obtain ⟨hn, -⟩ := (v.dueAt a).trapBefore_names ((v.dueAt a).core.cause 0x02 0 8 (((v.dueAt a).core.bundleHead a).setWidth 64))
    (show 0x02 < 0x0B by decide) (show 0 < 2 ^ 13 by decide) (show 8 < 16 by decide)
  rw [hpc'] at hn
  rw [he]
  exact hn

/-- The first precise cause of a bundle is named by its trap (rules R54, R354). -/
theorem issueBundle_names (hd : decodeHead ((v.dueAt a).core.bundleHead a) (Core.wordOf a) = .bundle h)
    (hp : (v.dueAt a).landNow.core.ctl.passed = false) {code sub slot : Nat} {info : Word} {w : Option Word}
    (hk : (v.dueAt a).landNow.earlyCause h.wm (decodeSlots h.slots ((v.dueAt a).core.bundleWords a (h.words - 1))) =
      some ((v.dueAt a).landNow.core.cause code sub slot info, w))
    (hcode : code < 0x0B) (hsub : sub < 2 ^ 13) (hslot : slot < 16) :
    (v.dueAt a).names v.issueBundle code sub slot a info ∧ v.issueBundle.core.sys.bcinfo = w.getD (v.dueAt a).core.sys.bcinfo := by
  have he : v.issueBundle = (v.dueAt a).trapPrecise ((v.dueAt a).landNow.core.cause code sub slot info, w) := by
    rw [issueBundle_bundle hpc hl hs hd (.inl hx), vet_precise hb hx hp (preciseCause_of_early hk)]
  have hpc' : ((v.dueAt a).landNow.core.cause code sub slot info).cba = a := dueAt_landNow_pc
  obtain ⟨hn, hw⟩ := (v.dueAt a).trapPrecise_names ((v.dueAt a).landNow.core.cause code sub slot info) w hcode hsub hslot
  rw [hpc'] at hn
  rw [he]
  exact ⟨hn, hw⟩

/-- Causes of the encoding: the first slot at fault (rule R213). -/
theorem issueBundle_names_slot (hd : decodeHead ((v.dueAt a).core.bundleHead a) (Core.wordOf a) = .bundle h)
    (hp : (v.dueAt a).landNow.core.ctl.passed = false) {pre post : List SlotWord} {x : SlotWord} {n : Nat}
    (hxs : decodeSlots h.slots ((v.dueAt a).core.bundleWords a (h.words - 1)) = pre ++ x :: post)
    (hpre : ∀ y ∈ pre, (v.dueAt a).landNow.core.slotFault y = none) (hn : (v.dueAt a).landNow.core.slotFault x = some n) :
    (v.dueAt a).names v.issueBundle n 0 x.slot.num a (x.word.setWidth 64) := by
  have hlt : n < 0x0B := by
    unfold Core.slotFault at hn
    split at hn
    · cases hn; decide
    · cases hn; decide
    · split at hn
      · cases hn; decide
      · split at hn
        · cases hn; decide
        · cases hn
  exact (issueBundle_names hpc hl hs hx hb hd hp (earlyCause_of_encoding (Core.encodingCause_of_slot hxs hpre hn)) hlt (by decide)
    (slotNum_lt x.slot)).1

/-- A claim that meets another: the trap, and what BCINFO says of the two (rules R53, R55). -/
theorem issueBundle_names_conflict (hd : decodeHead ((v.dueAt a).core.bundleHead a) (Core.wordOf a) = .bundle h)
    (hp : (v.dueAt a).landNow.core.ctl.passed = false) {sl : Slot} {g m n off : Nat} {back : Int} {xs : List SlotWord}
    (hxs : decodeSlots h.slots ((v.dueAt a).core.bundleWords a (h.words - 1)) = xs) (hg : g < 16) (hm : m < 16) (hn : n < 16)
    (hoff : off < 256) (he : (v.dueAt a).landNow.core.encodingCause xs = none) (hph : (v.dueAt a).landNow.core.phaseCause xs = none)
    (hw : (v.dueAt a).landNow.core.windowCause (v.dueAt a).arr (v.dueAt a).loom.toNat xs = none)
    (hbank : (v.dueAt a).landNow.core.bankFault (v.dueAt a).cycle xs = some { slot := sl, bcinfo := bcWord 1 g m n off back }) :
    let t := v.issueBundle
    (v.dueAt a).names t 0x05 1 sl.num a 0 ∧
      bits t.core.sys.bcinfo 31 28 = 1 ∧ bits t.core.sys.bcinfo 27 24 = g ∧ bits t.core.sys.bcinfo 23 20 = m ∧
      bits t.core.sys.bcinfo 19 16 = n ∧ bits t.core.sys.bcinfo 15 8 = off ∧
      bits t.core.sys.bcinfo 7 0 = ((max (-128) (min 127 back)).emod 256).toNat := by
  obtain ⟨h1, h2, h3, h4, h5⟩ := bcWord_fields off back hg hm hn
  rw [Nat.mod_eq_of_lt hoff] at h5
  have hearly := earlyCause_of_bank (wm := h.wm) he hph (by rw [landNow_arr, landNow_loom]; exact hw) (by rw [landNow_cycle]; exact hbank)
  rw [h1, ← hxs] at hearly
  obtain ⟨hnames, hbc⟩ := issueBundle_names hpc hl hs hx hb hd hp hearly (by decide) (by decide) (slotNum_lt sl)
  rw [Option.getD_some] at hbc
  refine ⟨hnames, ?_⟩
  rw [hbc]
  exact ⟨h1, h2, h3, h4, h5, bcWord_back ..⟩

end
/-- An admitted bundle of compute phase and a pure delay (rules R209, R210, R246). -/
theorem issueBundle_admitted {v w : State} {a : CodeAddr} {h : Head} {xs : List SlotWord} (hpc : v.core.ctl.pc = a)
    (hl : v.core.locate a = (a, false)) (hs : (v.dueAt a).core.unsound a = false) (hx : (v.dueAt a).core.inX = false)
    (hd : decodeHead ((v.dueAt a).core.bundleHead a) (Core.wordOf a) = .bundle h)
    (hv : (v.dueAt a).vet h.wm (decodeSlots h.slots ((v.dueAt a).core.bundleWords a (h.words - 1))) = .go w xs) :
    v.issueBundle = w.issueSlots (v.dueAt a).core.quiet h
      ((v.dueAt a).core.bundleHead a :: (v.dueAt a).core.bundleWords a (h.words - 1))
      (decodeSlots h.slots ((v.dueAt a).core.bundleWords a (h.words - 1))) xs := by
  rw [issueBundle_bundle hpc hl hs hd (.inl hx), hv]

/-- A bundle of exchange phase (rules R56, R126, R173, R213). -/
theorem issueBundle_exchange {v : State} {a : CodeAddr} {h : Head} (hpc : v.core.ctl.pc = a)
    (hl : v.core.locate a = (a, false)) (hs : (v.dueAt a).core.unsound a = false) (hx : (v.dueAt a).core.inX = true)
    (hr : (v.dueAt a).core.ctl.redo = 0) (hd : decodeHead ((v.dueAt a).core.bundleHead a) (Core.wordOf a) = .bundle h) :
    let xs := decodeSlots h.slots ((v.dueAt a).core.bundleWords a (h.words - 1))
    v.issueBundle = ((v.dueAt a).landNow.admitX h.wm xs).1.issueSlots (v.dueAt a).core.quiet h
      ((v.dueAt a).core.bundleHead a :: (v.dueAt a).core.bundleWords a (h.words - 1)) xs ((v.dueAt a).landNow.core.liveX xs) := by
  rw [issueBundle_bundle hpc hl hs hd (.inr hr), vet_exchange hx]
  dsimp only
  rw [congrArg Prod.snd (admitX_eq (by rw [landNow_inX, hx]) _ _)]

/-- What an exchange-phase bundle leaves: losses for its faults, and the slots that issue on the agenda. -/
theorem admitX_issueSlots {w : State} (hx : w.core.inX = true) (calm : Bool) (h : Head) (ws : List Word32) (xs : List SlotWord) :
    let t := (w.admitX h.wm xs).1.issueSlots calm h ws xs (w.core.liveX xs)
    (∀ p y, w.ctxOf w.core.idx = some (p, y) → ∀ b n, (b, n) ∈ [(xs.any (w.core.faultyX xs), 0x0A), (w.core.waitsX h.wm, 0x08),
      (xs.any (w.core.illegalX xs), 0x09)] → b = true → ∃ z, (t.part p).ctx = some z ∧ ∃ l ∈ z.losses, l.cause = n) ∧
    ((∃ x ∈ w.core.liveX xs, w.core.guard x = true) → t.core.reg = w.core.reg ∧ t.core.mem = w.core.mem ∧ t.mem = w.mem ∧ ∃ front,
      t.agenda = front ++ w.agenda ∧ front.map (·.1) = ((w.core.liveX xs).filter w.core.guard).filterMap slotInstr) ∧
    (w.core.liveX xs = [] → t.core.reg = w.core.reg ∧ t.core.mem = w.core.mem ∧ t.core.ctl.lands = w.core.ctl.lands ∧
      t.agenda = w.agenda) := by
  have hframe := admitX_frame hx h.wm xs
  have hlosses := fun p y => admitX_losses (p := p) (x := y) hx h.wm xs
  generalize (w.admitX h.wm xs).1 = q at hframe hlosses
  have hcore : q.core = w.core := by rw [hframe]
  have hag : q.agenda = w.agenda := by rw [hframe]
  have hmem : q.mem = w.mem := by rw [hframe]
  have hparts := q.issueSlots_parts calm h ws xs (w.core.liveX xs) (by rw [hcore]; exact hx)
  refine ⟨fun p y hy b n hbn hb => ?_, fun ⟨x, hm, hg⟩ => ?_, fun hnil => ?_⟩
  · have hp : q.lossPending w.core.idx p n := by
      obtain ⟨h1, h2, h3⟩ := hlosses p y hy
      simp only [List.mem_cons, Prod.mk.injEq, List.not_mem_nil, or_false] at hbn
      rcases hbn with ⟨rfl, rfl⟩ | ⟨rfl, rfl⟩ | ⟨rfl, rfl⟩
      · exact h1 hb
      · exact h2 hb
      · exact h3 hb
    unfold part
    rw [hparts]
    exact lossPending_part hp
  · obtain ⟨⟨hreg, hcm, hm'⟩, front, hfront, hins, -⟩ := q.issueSlots_front calm h ws xs (w.core.liveX xs)
      ⟨x, hm, by rw [hcore]; exact hg, Core.ok_of_liveX hm⟩
    rw [hcore] at hreg hcm hins
    exact ⟨hreg, hcm, hm'.trans hmem, front, hfront.trans (by rw [hag]), hins⟩
  · obtain ⟨hreg, hcm, hlands, hagenda⟩ := q.issueSlots_nil calm h ws xs
    rw [hnil]
    rw [hcore] at hreg hcm hlands
    exact ⟨hreg, hcm, hlands, hagenda.trans hag⟩

end State

/-- Settles O30: the branches of an issue in the order of rule R354, each by its own lemma. -/
theorem bundleIssueCompletes : Obligations.BundleIssueCompletes := by
  unfold Obligations.BundleIssueCompletes
  refine ⟨fun s w h xs => ?_, fmtLegal_iff, fun s h => ?_⟩
  · intro v a u hl hs hx
    have hu : u = v.dueAt a := rfl
    clear_value u
    subst hu
    refine ⟨fun hd hv hlive => ?_, fun hd hv hp hloop hr hskip hm => ⟨rfl, ?_⟩⟩
    · obtain ⟨⟨hreg, hcm, hmem⟩, front, hag, hins, hmark, hlast, hinit⟩ := w.issueSlots_front (v.dueAt a).core.quiet h
        ((v.dueAt a).core.bundleHead a :: (v.dueAt a).core.bundleWords a (h.words - 1))
        (decodeSlots h.slots ((v.dueAt a).core.bundleWords a (h.words - 1))) xs hlive
      exact ⟨_, congrArg Host.Outcome.next (State.issueBundle_admitted rfl hl hs hx hd hv), front, hag, hins, hmark, hlast, hinit, hreg,
        hcm, hmem⟩
    · obtain ⟨hpc, hrest⟩ := State.issueDelay_go (x := (v.dueAt a).core.bundleHead a) hv hp hloop hr hskip hm
      rw [State.vet_nil_go hx hv, State.dueAt_pc] at hpc
      exact ⟨_, congrArg Host.Outcome.next (State.issueBundle_delay rfl hl hs hd hx), hpc, hrest⟩
  · intro v a u head xs w c loom op names outOfTrap broken sound outside misuse kept traps takes conflict hl hs
    have hexec (t : State) (ht : v.issueBundle = t) : exec .bundleIssue s = .next t := congrArg Host.Outcome.next ht
    refine ⟨?_, fun hx hb => ?_, fun hx hr hd => ?_⟩
    · intro i f hf hbad
      simp only [names] at hf
      split at hf
      · rw [List.mem_singleton.mp hf] at hbad
        exact Core.formatsOk_vcvtNfF32 hbad
      · rw [List.mem_singleton.mp hf] at hbad
        exact Core.formatsOk_vcvtF32Nf hbad
      · rw [List.mem_singleton.mp hf] at hbad
        exact Core.formatsOk_vcvtsNfF32 hbad
      · rcases List.mem_pair.mp hf with rfl | rfl
        · exact Core.formatsOk_mmStart_left hbad
        · exact Core.formatsOk_mmStart_right hbad
      · rw [List.mem_singleton.mp hf] at hbad
        exact Core.formatsOk_mmStartLt hbad
      · rw [List.mem_singleton.mp hf] at hbad
        exact Core.formatsOk_mmLdb hbad
      · rw [List.mem_singleton.mp hf] at hbad
        exact Core.formatsOk_mmDrain hbad
      · cases hf
    · have hcx : c.inX = false := (State.landNow_inX u).trans hx
      have hbroken (x : SlotWord) : c.slotFault x = broken x := Core.slotFault_compute hcx x
      have hfault (h0 : ∀ x ∈ xs, broken x = none) : ∀ x ∈ xs, c.slotFault x = none := fun x hm => (hbroken x).trans (h0 x hm)
      have hsound (h0 : sound) : c.encodingCause xs = none := Core.encodingCause_none (hfault h0.1) h0.2
      have harr (k : Option Cause) (hk : c.windowCause u.arr loom xs = k) : c.windowCause w.arr w.loom.toNat xs = k := by
        rw [State.landNow_arr, State.landNow_loom]
        exact hk
      have hcyc (k : Option Core.BankFault) (hk : c.bankFault u.cycle xs = k) : c.bankFault w.cycle xs = k := by
        rw [State.landNow_cycle]
        exact hk
      refine ⟨fun hd => ?_, fun hd hp => ?_⟩
      · exact ⟨_, hexec _ rfl, State.issueBundle_names_malformed rfl hl hs hx hb hd⟩
      · have htakes {code sub slot : Nat} {info : Word} (hk : w.earlyCause h.wm xs = some (c.cause code sub slot info, none))
            (hcode : code < 0x0B) (hsub : sub < 2 ^ 13) (hslot : slot < 16) : takes code sub slot info :=
          ⟨_, hexec _ rfl, (State.issueBundle_names rfl hl hs hx hb hd hp hk hcode hsub hslot).1⟩
        refine ⟨fun pre x post n hxs hpre hn => ?_, fun h0 hclash => ?_, fun h0 => ⟨fun x hm hslot hop => ?_, fun x hm o ho hg hne => ?_⟩,
          fun h0 hph hmx hout => ?_, fun h0 hph hw hplace => ?_, fun h0 hph hw hbank hbk j hj hnone k sl hmis => ?_⟩
        · exact ⟨_, hexec _ rfl, State.issueBundle_names_slot rfl hl hs hx hb hd hp hxs
            (fun y hy => (hbroken y).trans (hpre y hy)) ((hbroken x).trans hn)⟩
        · exact htakes (State.earlyCause_of_encoding (Core.encodingCause_of_clash (hfault h0) hclash)) (by decide) (by decide) (by decide)
        · exact htakes (State.earlyCause_of_phase (hsound h0) (Core.phaseCause_of_exchange hcx hm hslot hop))
            (by decide) (by decide) (by decide)
        · exact htakes (State.earlyCause_of_phase (hsound h0) (Core.phaseCause_of_phaseEnd hcx hm ho hg hne))
            (by decide) (by decide) (slotNum_lt x.slot)
        · have hin : c.inWindow u.arr loom = false := by
            rw [Core.inWindow_eq]
            simp only [outside] at hout
            split
            · next h1 => simpa [h1] using hout
            · next h1 =>
              split
              · next h2 => simpa [h1, h2] using hout
              · next h2 => simpa [h1, h2] using hout
          have := htakes (State.earlyCause_of_window (wm := h.wm) (hsound h0) hph (harr _ (Core.windowCause_of_slot hmx hin)))
            (by decide) (by decide) (by decide)
          rwa [atBit, BitVec.shiftLeft_zero] at this
        · have hplaced := Core.bankFault_of_placed (now := u.cycle) hplace
          refine ⟨fun sl off g m n k hg hm hn hoff hnew hk hdue hunits => ?_, fun sl sl' off g m n hg hm hn hoff hk hnew => ?_⟩
          · rw [hnew, Core.conflicts_recorded hk hdue hunits] at hplaced
            obtain ⟨hn, hbc⟩ := State.issueBundle_names_conflict rfl hl hs hx hb hd hp rfl hg hm hn hoff (hsound h0) hph hw hplaced
            exact ⟨_, ⟨hexec _ rfl, hn⟩, hbc⟩
          · rw [hnew, Core.conflicts_new hk] at hplaced
            obtain ⟨hn, hbc⟩ := State.issueBundle_names_conflict rfl hl hs hx hb hd hp rfl hg hm hn hoff (hsound h0) hph hw hplaced
            exact ⟨_, ⟨hexec _ rfl, hn⟩, hbc⟩
        · obtain ⟨hk, hsl⟩ := Core.misuse_fields hmis
          exact htakes (State.earlyCause_of_token (hsound h0) hph (harr _ hw) (hcyc _ hbank) hbk (Core.tokenCause_of_first hj hnone hmis))
            (by decide) (by omega) hsl
    · intro broken faulty illegal live waits lost
      obtain ⟨hloss, hfront, hnone⟩ := State.admitX_issueSlots (w := w) ((State.landNow_inX u).trans hx) u.core.quiet h
        (head :: u.core.bundleWords a (h.words - 1)) xs
      exact ⟨_, hexec _ (State.issueBundle_exchange rfl hl hs hx hr hd),
        fun hb p y _ hy => hloss p y hy _ _ (.head _) hb, fun hb p y _ hy => hloss p y hy _ _ (.tail _ (.head _)) hb,
        fun hb p y _ hy => hloss p y hy _ _ (.tail _ (.tail _ (.head _))) hb, hfront, hnone⟩

end Sys2Proof.Machine
end

section
/-! Cards at work: how a card is replaced among those in flight, and late writes performed beside it. -/

namespace Sys2Proof.Machine
open Sys2Proof

namespace Card

/-- The first error that a card meets stays (rule R127). -/
def failed (c : Card) (n : Nat) : Card := { c with err := if c.err = 0 then n else c.err }

/-- The engine keeps bytes for the card. -/
def holding (c : Card) (bs : List (Nat × Byte × Bool)) : Card := { c with buf := c.buf ++ bs }

/-- A block of the card is marked for retirement (rule R374). -/
def marking (c : Card) (a : Nat) : Card := { c with poisonedBlocks := (a / 2 ^ 17) :: c.poisonedBlocks }

/-- The card without the piece of its work at place `i`. -/
def without (c : Card) (i : Nat) : Card := { c with granules := c.granules.eraseIdx i }

end Card

namespace State

/-! ### A card by its identifier -/

theorem cardAt_id {s : State} {n : Nat} {c : Card} (h : s.cardAt n = some c) : c.id = n := by
  simpa using List.find?_some h

theorem cardAt_cards {s t : State} (h : t.cards = s.cards) (n : Nat) : t.cardAt n = s.cardAt n := by
  rw [cardAt, h, cardAt]

/-- A card is in flight under the identifier of `d`. -/
def inFlight (s : State) (d : Card) : Prop := (s.cardAt d.id).isSome = true

theorem inFlight_of_cardAt {s : State} {n : Nat} {c d : Card} (h : s.cardAt n = some c) (hd : d.id = c.id) : s.inFlight d := by
  rw [inFlight, hd, cardAt_id h, h]
  rfl

theorem cardAt_putCard {s : State} {d : Card} (h : s.inFlight d) : (s.putCard d).cardAt d.id = some d := by
  obtain ⟨c, hc⟩ := Option.isSome_iff_exists.mp h
  unfold cardAt at hc ⊢
  rw [show (s.putCard d).cards = s.cards.map (fun x => if x.id == d.id then d else x) from rfl]
  generalize s.cards = xs at hc ⊢
  induction xs with
  | nil => cases hc
  | cons x xs ih =>
    rw [List.map_cons, List.find?_cons]
    by_cases hx : x.id = d.id
    · simp [hx]
    · have hx' : (x.id == d.id) = false := beq_false_of_ne hx
      rw [List.find?_cons, hx'] at hc
      simp only [hx', Bool.false_eq_true, if_false]
      exact ih hc

theorem putCard_putCard (s : State) {d e : Card} (h : d.id = e.id) : (s.putCard d).putCard e = s.putCard e := by
  have hm : (fun x : Card => if (if x.id == d.id then d else x).id == e.id then e else if x.id == d.id then d else x) =
      fun x => if x.id == e.id then e else x := by
    funext x
    by_cases hx : x.id = e.id <;> simp [hx, h]
  unfold putCard
  simp only [List.map_map, Function.comp_def, hm]

theorem putCard_cards {s t : State} (h : t.cards = s.cards) (d : Card) : (t.putCard d).cards = (s.putCard d).cards := by
  unfold putCard
  rw [h]

theorem mem_putCard {s : State} {d x : Card} (h : x ∈ (s.putCard d).cards) : x = d ∨ (x ∈ s.cards ∧ x.id ≠ d.id) := by
  obtain ⟨y, hy, rfl⟩ := List.mem_map.mp h
  by_cases hid : y.id = d.id
  · rw [if_pos (by simpa using hid)]
    exact .inl rfl
  · rw [if_neg (by simpa using hid)]
    exact .inr ⟨hy, hid⟩

theorem logHome_cards (s : State) (g : Nat) : (s.logHome g).cards = s.cards := by
  unfold logHome logEntry
  rfl

/-! ### A card's record, while the part changes around it -/

/-- The cards of `t` are those of `b` with `d` in its place. -/
def atWork (b t : State) (d : Card) : Prop := b.inFlight d ∧ t.cards = (b.putCard d).cards

theorem atWork_putCard {b : State} {d : Card} (h : b.inFlight d) : b.atWork (b.putCard d) d := ⟨h, rfl⟩

theorem atWork_of_cards {b t u : State} {d : Card} (h : b.atWork t d) (hu : u.cards = t.cards) : b.atWork u d := ⟨h.1, hu.trans h.2⟩

theorem atWork_cardAt {b t : State} {d : Card} (h : b.atWork t d) : t.cardAt d.id = some d := by
  rw [cardAt_cards h.2, cardAt_putCard h.1]

/-- A new record for a card at work: of the state its cards alone change. -/
theorem atWork_put {b t : State} {d e : Card} (h : b.atWork t d) (he : e.id = d.id) : b.atWork (t.putCard e) e := by
  refine ⟨by rw [inFlight, he]; exact h.1, ?_⟩
  have hc : (t.putCard e).cards = ((b.putCard d).putCard e).cards := by
    show t.cards.map _ = (b.putCard d).cards.map _
    rw [h.2]
  rw [hc, putCard_putCard _ he.symm]

theorem atWork_replace {b t : State} {d e : Card} (h : b.atWork (t.putCard d) d) (he : e.id = d.id) : b.atWork (t.putCard e) e := by
  have := atWork_put h he
  rwa [putCard_putCard t he.symm] at this

section
variable {b t : State} {d : Card} (h : b.atWork t d)
include h

theorem hold_atWork (bs : List (Nat × Byte × Bool)) : t.hold d.id bs = t.putCard (d.holding bs) := by
  unfold hold
  rw [atWork_cardAt h]
  rfl

theorem cardFails_atWork (n : Nat) : t.cardFails d.id n = t.putCard (d.failed n) := by
  unfold cardFails
  rw [atWork_cardAt h]
  rfl

theorem markBlock_atWork (a : Nat) : t.markBlock d.id a = t.putCard (d.marking a) := by
  unfold markBlock
  rw [atWork_cardAt h]
  rfl

/-- A home's uncorrectable granule is logged, and the card's block marked (rules R374, R378). -/
theorem homeError_atWork (a : Nat) : t.homeError d.id a = (t.logHome (a / 64)).putCard (d.marking a) :=
  markBlock_atWork (atWork_of_cards h (t.logHome_cards _)) a

end

section
variable (s : State) (d : Card)

theorem putCard_holding (bs : List (Nat × Byte × Bool)) : (s.putCard d).putCard (d.holding bs) = s.putCard (d.holding bs) :=
  putCard_putCard s rfl

theorem putCard_failed (n : Nat) : (s.putCard d).putCard (d.failed n) = s.putCard (d.failed n) := putCard_putCard s rfl

end

theorem logHome_kept (s : State) (g : Nat) : s.memKept (s.logHome g) ∧ s.coresKept (s.logHome g) ∧ (s.logHome g).late = s.late := by
  unfold logHome logEntry
  exact ⟨⟨rfl, rfl, rfl⟩, ⟨rfl, rfl⟩, rfl⟩

/-! ### Late writes are performed whatever the cards are -/

def withCards (s : State) (cs : List Card) : State := { s with cards := cs }

/-- What a part does that neither reads nor changes its cards in flight. -/
def besideCards (f : State → State) : Prop := ∀ s cs, f (s.withCards cs) = (f s).withCards cs

theorem besideCards_cards {f : State → State} (h : besideCards f) (s : State) : (f s).cards = s.cards := by
  have := congrArg State.cards (h s s.cards)
  exact this

theorem besideCards_putCard {f : State → State} (h : besideCards f) (s : State) (d : Card) : f (s.putCard d) = (f s).putCard d := by
  have hput (t : State) : t.putCard d = t.withCards (t.cards.map (fun x => if x.id == d.id then d else x)) := rfl
  rw [hput, h, hput, besideCards_cards h]

theorem besideCards_foldl {α : Type} {f : State → α → State} (h : ∀ a, besideCards (f · a)) (xs : List α) (s : State) (cs : List Card) :
    xs.foldl f (s.withCards cs) = (xs.foldl f s).withCards cs := by
  induction xs generalizing s with
  | nil => rfl
  | cons x xs ih =>
    have hx : f (s.withCards cs) x = (f s x).withCards cs := h x s cs
    rw [List.foldl_cons, hx, ih, List.foldl_cons]

theorem besideCards_onCore (k : Nat) (f : Core → Core) : besideCards (fun s => s.onCore k f) := by
  intro s cs
  show (s.withCards cs).putCore (f (s.coreOf k)) = (s.putCore (f (s.coreOf k))).withCards cs
  unfold putCore withCards
  dsimp only
  split <;> rfl

/-- The late writes that are left when `w` reaches its next point. -/
def lateAfter (s : State) (w : LateWrite) : List LateWrite :=
  let copy : LateWrite := { w with link := none, bytes := [], poison := none }
  if w.link.isSome && dpaClass (64 * w.granule) = 4 then s.late.erase w ++ [if w.scope = 3 then copy else { copy with terms := [] }]
  else s.late.erase w

/-- A late write has reached its next point; nothing has joined a signature. -/
def arrived (s : State) (w : LateWrite) : State :=
  match w.link with
  | some _ => { s.atHome w.granule w.bytes w.poison with late := s.lateAfter w }
  | none => { s with late := s.lateAfter w, mirrored := s.mirrored.filter (· != w.granule) }

theorem performOne_eq (s : State) (w : LateWrite) : s.performOne w =
    if w.link.isSome ∧ dpaClass (64 * w.granule) = 4 ∧ w.scope = 3 then s.arrived w
    else (s.arrived w).onCore w.core (fun c => c.sign 1 w.terms) := by
  unfold performOne arrived lateAfter
  rcases hl : w.link with _ | l
  · simp
  · by_cases hc : dpaClass (64 * w.granule) = 4
    · by_cases h3 : w.scope = 3 <;> simp [hc, h3]
    · simp [hc]

theorem besideCards_performOne (w : LateWrite) : besideCards (fun s => s.performOne w) := by
  intro s cs
  have ha : (s.withCards cs).arrived w = (s.arrived w).withCards cs := by
    unfold arrived
    split <;> rfl
  dsimp only
  rw [performOne_eq, performOne_eq, ha]
  split
  · rfl
  · exact besideCards_onCore w.core (fun c => c.sign 1 w.terms) _ cs

theorem besideCards_performLate (w : LateWrite) : besideCards (fun s => s.performLate w) := by
  intro s cs
  have h1 : (if w.link.isSome then
      (((s.withCards cs).onLinks w.granule).filter (fun v => v.link != w.link && !v.seenBy.isEmpty)).foldl performOne (s.withCards cs)
        else s.withCards cs) =
      State.withCards (if w.link.isSome then
        ((s.onLinks w.granule).filter (fun v => v.link != w.link && !v.seenBy.isEmpty)).foldl performOne s else s) cs := by
    split
    · exact besideCards_foldl besideCards_performOne _ s cs
    · rfl
  unfold performLate
  dsimp only
  rw [h1]
  generalize (if w.link.isSome then
    ((s.onLinks w.granule).filter (fun v => v.link != w.link && !v.seenBy.isEmpty)).foldl performOne s else s) = t
  by_cases hw : t.late.contains w = true
  · rw [if_pos hw, if_pos (show (t.withCards cs).late.contains w = true from hw)]
    exact besideCards_performOne w t cs
  · rw [if_neg hw, if_neg (show ¬ (t.withCards cs).late.contains w = true from hw)]

theorem besideCards_performAll (p : LateWrite → Bool) : besideCards (fun s => s.performAll p) :=
  fun s cs => besideCards_foldl besideCards_performLate (withEarlier p s.late) s cs

theorem besideCards_behind (core granule : Nat) : besideCards (fun s => s.behind core granule) :=
  fun s cs => besideCards_performAll (s.onMyLink core granule) s cs

theorem besideCards_performSeen (granule : Nat) : besideCards (fun s => s.performSeen granule) :=
  besideCards_performAll _

/-- The marks that a read leaves on the late writes that it takes. -/
def marked (s : State) (mine : LateWrite → Bool) (core group : Nat) : State :=
  { s with late := s.late.map (fun w => if mine w then { w with seenBy := (w.seenBy ++ [(core, group)]).eraseDups } else w) }

theorem readFrom_eq (s : State) (core group granule : Nat) : s.readFrom core group granule =
    let mine := s.onMyLink core granule
    if !s.late.any mine then s
    else
      let s1 := s.performAll (fun w => mine w && decide (1 ≤ w.scope))
      if !s1.late.any mine then s1
      else (s1.performAll (fun w => w.link.isSome && w.granule == granule && !mine w && !w.seenBy.isEmpty)).marked mine core group := rfl

theorem besideCards_readFrom (core group granule : Nat) : besideCards (fun s => s.readFrom core group granule) := by
  intro s cs
  dsimp only
  rw [readFrom_eq, readFrom_eq]
  have hmine : (s.withCards cs).onMyLink core granule = s.onMyLink core granule := rfl
  extract_lets mine s1 mine' s1'
  have h1 : s1 = s1'.withCards cs := by
    simp only [s1, mine, hmine]
    exact besideCards_performAll _ s cs
  by_cases ha : (!s.late.any mine') = true
  · rw [if_pos ha]
    exact if_pos ha
  · rw [if_neg ha, if_neg (show ¬ (!(s.withCards cs).late.any mine) = true from ha), h1]
    by_cases hb : (!s1'.late.any mine') = true
    · rw [if_pos hb]
      exact if_pos hb
    · rw [if_neg hb, if_neg (show ¬ (!(s1'.withCards cs).late.any mine) = true from hb)]
      exact congrArg (fun t => State.marked t mine core group) (besideCards_performAll _ s1' cs)

end State

end Sys2Proof.Machine
end

section
/-! Late writes that have been performed are no longer on their way (rules R139 to R143). -/

namespace Sys2Proof.Machine
open Sys2Proof

namespace State

theorem onCore_late (s : State) (k : Nat) (f : Core → Core) : (s.onCore k f).late = s.late := by
  unfold onCore putCore
  split <;> rfl

theorem onCore_mem (s : State) (k : Nat) (f : Core → Core) : (s.onCore k f).mem = s.mem := by
  unfold onCore putCore
  split <;> rfl

theorem arrived_late (s : State) (w : LateWrite) : (s.arrived w).late = s.lateAfter w := by
  unfold arrived
  split <;> rfl

theorem performOne_late (s : State) (w : LateWrite) : (s.performOne w).late = s.lateAfter w := by
  rw [performOne_eq]
  split
  · exact s.arrived_late w
  · rw [onCore_late, arrived_late]

/-- Of writes on links none is added, and `w` is taken away once. -/
theorem lateAfter_count (s : State) (w : LateWrite) {x : LateWrite} (hx : x.link.isSome = true ∨ w.link = none) :
    (s.lateAfter w).count x = s.late.count x - if w = x then 1 else 0 := by
  have he : (s.late.erase w).count x = s.late.count x - if w = x then 1 else 0 := by
    rw [List.count_erase]
    simp only [beq_iff_eq]
  unfold lateAfter
  extract_lets copy
  split
  · next h =>
    have hlink : x.link.isSome = true := by
      rcases hx with hx | hx
      · exact hx
      · rw [hx] at h
        cases h
    have hne : (if w.scope = 3 then copy else { copy with terms := [] }) ≠ x := by
      intro heq
      have : x.link = none := by
        rw [← heq]
        split <;> rfl
      rw [this] at hlink
      cases hlink
    rw [List.count_append, he, List.count_cons_of_ne hne, List.count_nil, Nat.add_zero]
  · exact he

theorem foldl_performOne_count {x : LateWrite} (hx : x.link.isSome = true) (ws : List LateWrite) (s : State) :
    (ws.foldl performOne s).late.count x ≤ s.late.count x :=
  List.foldlRecOn (motive := fun t : State => t.late.count x ≤ s.late.count x) _ _ (Nat.le_refl _) fun t h w _ => by
    rw [performOne_late, lateAfter_count t w (.inl hx)]
    omega

/-- A write that is performed is taken from those on their way. -/
theorem performLate_count (s : State) (w : LateWrite) {x : LateWrite} (hx : x.link.isSome = true ∨ w.link = none) :
    (s.performLate w).late.count x ≤ s.late.count x - if w = x then 1 else 0 := by
  have h1 : (if w.link.isSome then
      ((s.onLinks w.granule).filter (fun v => v.link != w.link && !v.seenBy.isEmpty)).foldl performOne s else s).late.count x ≤
      s.late.count x := by
    split
    · next hw =>
      rcases hx with hx | hx
      · exact foldl_performOne_count hx _ s
      · rw [hx] at hw
        cases hw
    · exact Nat.le_refl _
  unfold performLate
  extract_lets s1
  change s1.late.count x ≤ _ at h1
  split
  · rw [performOne_late, lateAfter_count s1 w hx]
    omega
  · next hn =>
    split
    · next h =>
      rw [← h, List.count_eq_zero.mpr (by simpa using hn)]
      exact Nat.zero_le _
    · omega

theorem foldl_performLate_count {x : LateWrite} (ws : List LateWrite) (hx : x.link.isSome = true ∨ ∀ w ∈ ws, w.link = none) (s : State) :
    (ws.foldl performLate s).late.count x ≤ s.late.count x - ws.count x := by
  induction ws generalizing s with
  | nil => exact Nat.le_refl _
  | cons w ws ih =>
    have hw : x.link.isSome = true ∨ w.link = none := hx.imp_right fun h => h w List.mem_cons_self
    have h1 := performLate_count s w hw
    have h2 := ih (hx.imp_right fun h v hv => h v (List.mem_cons_of_mem _ hv)) (s.performLate w)
    rw [List.foldl_cons, List.count_cons]
    by_cases he : w = x
    · subst he
      simp only [if_true, beq_self_eq_true] at h1 ⊢
      omega
    · simp only [if_neg he, beq_iff_eq] at h1 ⊢
      omega

theorem withEarlier_count {p : LateWrite → Bool} {x : LateWrite} (hp : p x = true) :
    ∀ ws : List LateWrite, (withEarlier p ws).count x = ws.count x
  | [] => rfl
  | w :: ws => by
    have ih := withEarlier_count hp ws
    unfold withEarlier
    dsimp only
    split
    · rw [List.count_cons, List.count_cons, ih]
    · next h =>
      have hne : w ≠ x := by
        rintro rfl
        rw [hp] at h
        exact h (Bool.true_or _)
      rw [ih, List.count_cons_of_ne hne]

theorem withEarlier_of_none {p : LateWrite → Bool} : ∀ {ws : List LateWrite}, (∀ w ∈ ws, p w = false) → withEarlier p ws = []
  | [], _ => rfl
  | w :: ws, h => by
    unfold withEarlier
    dsimp only
    rw [withEarlier_of_none fun v hv => h v (List.mem_cons_of_mem _ hv), h w List.mem_cons_self]
    simp

/-- Writes on links that are named for performing are on their way no more. -/
theorem performAll_clears (s : State) {p : LateWrite → Bool} {x : LateWrite} (hx : x.link.isSome = true) (hp : p x = true) :
    x ∉ (s.performAll p).late := by
  have h := foldl_performLate_count (x := x) (withEarlier p s.late) (.inl hx) s
  rw [withEarlier_count hp, Nat.sub_self] at h
  exact List.count_eq_zero.mp (Nat.le_zero.mp h)

/-- Performing adds no write on a link. -/
theorem performAll_mem (s : State) (p : LateWrite → Bool) {x : LateWrite} (hx : x.link.isSome = true) (h : x ∈ (s.performAll p).late) :
    x ∈ s.late := by
  have hc := foldl_performLate_count (x := x) (withEarlier p s.late) (.inl hx) s
  have hpos : 0 < (s.performAll p).late.count x := List.count_pos_iff.mpr h
  change (s.performAll p).late.count x ≤ _ at hc
  exact List.count_pos_iff.mp (by omega)

/-- Where no write named is on a link, none that goes with it is. -/
theorem withEarlier_link {p : LateWrite → Bool} : ∀ {ws : List LateWrite}, (∀ w ∈ ws, p w = true → w.link = none) →
    ∀ w ∈ withEarlier p ws, w.link = none
  | [], _, w, hw => by cases hw
  | v :: ws, h, w, hw => by
    have ih := withEarlier_link fun u hu => h u (List.mem_cons_of_mem _ hu)
    unfold withEarlier at hw
    dsimp only at hw
    split at hw
    · next hv =>
      rcases List.mem_cons.mp hw with rfl | hw
      · rcases Bool.or_eq_true _ _ ▸ hv with hp | hlink
        · exact h _ List.mem_cons_self hp
        · obtain ⟨hsome, hany⟩ := Bool.and_eq_true _ _ ▸ hlink
          obtain ⟨u, hu, hlu⟩ := List.any_eq_true.mp hany
          have hl : u.link = w.link := by
            have := (Bool.and_eq_true _ _ ▸ hlu).1
            simpa using this
          rw [← hl, ih u hu]
      · exact ih w hw
    · exact ih w hw

/-- Once a card's writes are performed at a scope, none is left on its way (rule R140). -/
theorem performAt_clears (s : State) (id scope : Nat) : ∀ w ∈ (s.performAt id scope).late, lateOf id scope w = false := by
  intro w hw
  by_contra hl
  rw [Bool.not_eq_false] at hl
  generalize hp : lateOf id scope = p at hl
  unfold performAt at hw
  rw [hp] at hw
  have hlinks : ∀ v ∈ (s.performAll p).late, p v = true → v.link = none := by
    intro v hv hpv
    by_contra hne
    exact performAll_clears s (Option.isSome_iff_ne_none.mpr hne) hpv hv
  have hc := foldl_performLate_count (x := w) (withEarlier p (s.performAll p).late) (.inr (withEarlier_link hlinks)) (s.performAll p)
  rw [withEarlier_count hl, Nat.sub_self] at hc
  exact List.count_eq_zero.mp (Nat.le_zero.mp hc) hw

end State

end Sys2Proof.Machine
end

section
/-! A granule of a card's work: which work is done, reads of off-wafer and local bytes, and ways that are dead. -/

namespace Sys2Proof.Machine
open Sys2Proof

namespace State

theorem settleSeen_performed (s : State) (c : Card) : s.performed (s.settleSeen c) := by
  unfold settleSeen
  split
  · exact performAll_performed ..
  · exact s.performed_refl

theorem performed_cards {s t : State} (h : s.performed t) : t.cards = s.cards := by rw [h.1]

theorem performed_module {s t : State} (h : s.performed t) : t.module = s.module := by rw [h.1]

theorem performed_dataKept {s t : State} (h : s.performed t) : s.dataKept t := fun k => by
  rw [h.2.2 k]
  exact ⟨rfl, rfl, rfl⟩

theorem dataKept_of_cores {s t : State} (h : s.coresKept t) : s.dataKept t := fun k => by
  rw [coreOf_of_coresKept h]
  exact ⟨rfl, rfl, rfl⟩

theorem dataKept_trans {s t u : State} (h : s.dataKept t) (g : t.dataKept u) : s.dataKept u := fun k => by
  obtain ⟨h1, h2, h3⟩ := h k
  obtain ⟨g1, g2, g3⟩ := g k
  exact ⟨g1.trans h1, g2.trans h2, g3.trans h3⟩

theorem wayOpen_of_module {s t : State} (h : t.module = s.module) (a : Nat) : t.wayOpen a = s.wayOpen a := by
  unfold wayOpen weftOpen weftPortOf
  rw [h]

theorem linkOf_of_module {s t : State} (h : t.module = s.module) (block a : Nat) : t.linkOf block a = s.linkOf block a := by
  unfold linkOf ullerOf weftPortOf
  rw [h]

/-! ### Which work is done (rules R97, R131) -/

/-- What a card does after a piece of its work has met its first error: at a dead way it stops, and an atomic card at any error. -/
def cardStops (t : State) (c : Card) : State :=
  match t.cardAt c.id with
  | none => t
  | some d =>
    if d.err = 0 || c.err != 0 then t
    else if c.op = .atomic then t.putCard { d with granules := d.granules.filterMap (returned d) }
    else if d.err = 3 then t.putCard { d with granules := [] }
    else t

section
variable {b t : State} {c d : Card} (h : b.atWork t d) (hid : d.id = c.id)
include h hid

theorem cardStops_of_kept (he : d.err = 0 ∨ c.err ≠ 0 ∨ (c.op ≠ .atomic ∧ d.err ≠ 3)) : t.cardStops c = t := by
  unfold cardStops
  rw [← hid, atWork_cardAt h]
  rcases he with he | he | ⟨ha, he⟩
  · simp [he]
  · simp [he]
  · simp [ha, he]

theorem cardStops_of_deadWay (hc : c.err = 0) (ha : c.op ≠ .atomic) (he : d.err = 3) : t.cardStops c = t.putCard { d with granules := [] } := by
  unfold cardStops
  rw [← hid, atWork_cardAt h]
  simp [hc, ha, he]

theorem cardStops_of_atomic (hc : c.err = 0) (ha : c.op = .atomic) (he : d.err ≠ 0) :
    t.cardStops c = t.putCard { d with granules := d.granules.filterMap (returned d) } := by
  unfold cardStops
  rw [← hid, atWork_cardAt h]
  simp [hc, ha, he]

end

/-- Of an atomic card that stops, no unit is left. -/
theorem atom_not_returned (d : Card) (gs : List Granule) (u : AtomUnit) : Granule.atom u ∉ gs.filterMap (returned d) := by
  intro hm
  obtain ⟨g, -, hg⟩ := List.mem_filterMap.mp hm
  cases g with
  | fill ms =>
    rw [returned] at hg
    split at hg
    · cases hg
    · cases hg
  | _ => cases hg

section
variable {s : State} {n k i : Nat} {unit : Bool} {c : Card} (hc : s.cardAt n = some c) (hi : (if unit then nextUnit c else k) = i)
include hc

/-- The card's record is at work once its piece of work is taken out. -/
theorem atWork_without (i : Nat) : (s.settleSeen c).atWork ((s.settleSeen c).putCard (c.without i)) (c.without i) := by
  refine atWork_putCard (inFlight_of_cardAt (c := c) (n := n) ?_ rfl)
  rw [cardAt_cards (performed_cards (s.settleSeen_performed c)), hc]

include hi

theorem cardGranule_of_idle {g : Granule} (hg : c.granules[i]? = some g)
    (h : s.cardOpen c = false ∨ g.ready c = false ∨ (g.isUnit = true ∧ i ≠ nextUnit c)) : s.cardGranule n k unit = s := by
  unfold cardGranule
  simp only [hc, hi, hg]
  rcases h with h | h | ⟨h1, h2⟩
  · simp [h]
  · simp [h]
  · simp [h1, h2]

theorem cardGranule_of_closed (h : s.cardOpen c = false) : s.cardGranule n k unit = s := by
  unfold cardGranule
  simp only [hc, hi]
  split
  · rfl
  · rw [h]
    rfl

theorem cardGranule_eq {g : Granule} (ho : s.cardOpen c = true) (hr : g.ready c = true) (hg : c.granules[i]? = some g)
    (hu : g.isUnit = false ∨ i = nextUnit c) :
    s.cardGranule n k unit = (performGranule ((s.settleSeen c).putCard (c.without i)) c g).cardStops c := by
  obtain rfl := cardAt_id hc
  have hgo : (!s.cardOpen c || !g.ready c || (g.isUnit && i != nextUnit c)) = false := by
    rcases hu with hu | hu <;> simp [ho, hr, hu]
  unfold cardGranule
  simp only [hc, hi, hg, hgo, Bool.false_eq_true, if_false]
  rfl

end

theorem wayOpen_settled (s : State) (c d : Card) (a : Nat) : ((s.settleSeen c).putCard d).wayOpen a = s.wayOpen a :=
  wayOpen_of_module (performed_module (s.settleSeen_performed c)) a

/-! ### Dead ways (rules R97, R127) -/

/-- A card that meets a dead way fails with kind 3, and stops. -/
theorem cardStops_deadWay {b : State} {c : Card} {i : Nat} (hw : b.atWork (b.putCard (c.without i)) (c.without i)) (ha : c.op ≠ .atomic) :
    ((b.putCard (c.without i)).cardFails c.id 3).cardStops c =
      b.putCard { (c.without i).failed 3 with granules := if c.err = 0 then [] else (c.without i).granules } := by
  have hfail : (b.putCard (c.without i)).cardFails c.id 3 = b.putCard ((c.without i).failed 3) :=
    (cardFails_atWork hw 3).trans (putCard_failed ..)
  have hw' : b.atWork (b.putCard ((c.without i).failed 3)) ((c.without i).failed 3) := atWork_putCard hw.1
  rw [hfail]
  by_cases he : c.err = 0
  · rw [cardStops_of_deadWay (c := c) hw' rfl he ha (if_pos he), if_pos he]
    exact putCard_putCard b rfl
  · rw [cardStops_of_kept (c := c) hw' rfl (.inr (.inl he)), if_neg he]
    rfl

theorem performGranule_fetch_dead {t : State} {c : Card} {ds : List Nat} (h : ∃ a ∈ ds, t.wayOpen a = false) :
    performGranule t c (.fetch ds) = t.cardFails c.id 3 := by
  unfold performGranule
  dsimp only
  rw [if_pos]
  obtain ⟨a, ha, hw⟩ := h
  exact List.any_eq_true.mpr ⟨a, ha, by rw [hw]; rfl⟩

theorem performGranule_put_dead {t : State} {c : Card} {ms : List (ByteSrc × Nat × Nat)}
    (h : t.wayOpen ((ms.map (·.2.1)).headD 0) = false) : performGranule t c (.put ms) = t.cardFails c.id 3 := by
  unfold performGranule
  dsimp only
  rw [if_pos (by rw [h]; rfl)]

theorem performGranule_atom_dead {t : State} {c : Card} {u : AtomUnit} (h : t.wayOpen u.dpa = false) :
    performGranule t c (.atom u) = t.cardFails c.id 3 := by
  unfold performGranule
  dsimp only
  rw [if_pos (by rw [h]; rfl)]

/-! ### Reads of off-wafer bytes (rules R97, R139) -/

theorem performGranule_fetch {t : State} {c : Card} {ds : List Nat} (h : ∀ a ∈ ds, t.wayOpen a = true) :
    let g := ds.headD 0 / 64
    let v := t.behind c.core g
    let t2 := (t.readFrom c.core c.group g).hold c.id (ds.map (fun a => (a, v.mem.read a, ds.any v.poisoned)))
    performGranule t c (.fetch ds) = if ds.any v.poisoned then (t2.cardFails c.id 1).homeError c.id (ds.headD 0) else t2 := by
  have hopen : ds.any (fun a => !t.wayOpen a) = false := by
    rw [List.any_eq_false]
    intro a ha
    rw [h a ha]
    decide
  intro g v t2
  unfold performGranule
  dsimp only
  rw [if_neg (by rw [hopen]; decide)]

section
variable {s : State} {n k i : Nat} {unit : Bool} {c : Card} {ds : List Nat} (hc : s.cardAt n = some c)
  (hi : (if unit then nextUnit c else k) = i) (ho : s.cardOpen c = true) (hg : c.granules[i]? = some (.fetch ds))
  (hway : ∀ a ∈ ds, s.wayOpen a = true)
include hc hi ho hg hway

/-- What the engine keeps of a granule of off-wafer bytes, and the record of its card. -/
theorem cardGranule_fetch :
    let b := s.settleSeen c
    let g := ds.headD 0 / 64
    let v := b.behind c.core g
    let r := b.readFrom c.core c.group g
    let d := (c.without i).holding (ds.map (fun a => (a, v.mem.read a, ds.any v.poisoned)))
    s.cardGranule n k unit =
      (if ds.any v.poisoned then ((r.putCard d).cardFails c.id 1).homeError c.id (ds.headD 0) else r.putCard d).cardStops c ∧
      b.atWork (r.putCard d) d := by
  intro b g v r d
  have hw := atWork_without hc i
  have hway' (a : Nat) (ha : a ∈ ds) : (b.putCard (c.without i)).wayOpen a = true := by rw [wayOpen_settled]; exact hway a ha
  have hr : (b.putCard (c.without i)).readFrom c.core c.group g = r.putCard (c.without i) :=
    besideCards_putCard (besideCards_readFrom c.core c.group g) _ _
  have hv : (b.putCard (c.without i)).behind c.core g = v.putCard (c.without i) :=
    besideCards_putCard (besideCards_behind c.core g) _ _
  have hwr : b.atWork (r.putCard (c.without i)) (c.without i) := by
    rw [← hr]
    exact atWork_of_cards hw (besideCards_cards (besideCards_readFrom c.core c.group g) _)
  have hhold (bs : List (Nat × Byte × Bool)) : (r.putCard (c.without i)).hold c.id bs = r.putCard ((c.without i).holding bs) :=
    (hold_atWork hwr bs).trans (putCard_holding ..)
  refine ⟨?_, ?_⟩
  · rw [cardGranule_eq hc hi ho rfl hg (.inl rfl), performGranule_fetch hway', hr, hv, hhold]
    rfl
  · exact atWork_replace hwr rfl

/-- Sound bytes are kept, and the part is as the read leaves it. -/
theorem cardGranule_fetch_sound :
    let b := s.settleSeen c
    let g := ds.headD 0 / 64
    let v := b.behind c.core g
    ds.any v.poisoned = false → s.cardGranule n k unit = (b.readFrom c.core c.group g).putCard
      ((c.without i).holding (ds.map (fun a => (a, v.mem.read a, false)))) := by
  intro b g v hbad
  obtain ⟨he, hw⟩ := cardGranule_fetch hc hi ho hg hway
  change ds.any (State.poisoned ((s.settleSeen c).behind c.core (ds.headD 0 / 64))) = false at hbad
  simp only [hbad, Bool.false_eq_true, if_false] at he hw
  have hkept : c.err = 0 ∨ c.err ≠ 0 ∨ (c.op ≠ .atomic ∧ c.err ≠ 3) := (em _).imp_right .inl
  rw [he, cardStops_of_kept (c := c) hw rfl hkept]

/-- Bytes of a granule beyond correction are kept marked: an error of kind 1 (rule R127). -/
theorem cardGranule_fetch_bad (ha : c.op ≠ .atomic) :
    let b := s.settleSeen c
    let g := ds.headD 0 / 64
    let v := b.behind c.core g
    let r := b.readFrom c.core c.group g
    let t := s.cardGranule n k unit
    ds.any v.poisoned = true → r.memKept t ∧ r.coresKept t ∧ t.late = r.late ∧
      t.cards = (r.putCard ((((c.without i).holding (ds.map (fun a => (a, v.mem.read a, true)))).failed 1).marking (ds.headD 0))).cards := by
  intro b g v r t hbad
  obtain ⟨he, hw⟩ := cardGranule_fetch hc hi ho hg hway
  change ds.any (State.poisoned ((s.settleSeen c).behind c.core (ds.headD 0 / 64))) = true at hbad
  simp only [hbad, if_true] at he hw
  generalize hd : (c.without i).holding (ds.map (fun a => (a, v.mem.read a, true))) = d at *
  have hid : c.id = d.id := by rw [← hd]; rfl
  have herr : (d.failed 1).err = if c.err = 0 then 1 else c.err := by rw [← hd]; rfl
  have hw1 : b.atWork (r.putCard (d.failed 1)) (d.failed 1) := atWork_replace hw rfl
  have hw2 : b.atWork (((r.putCard (d.failed 1)).logHome (ds.headD 0 / 64)).putCard ((d.failed 1).marking (ds.headD 0)))
      ((d.failed 1).marking (ds.headD 0)) := atWork_put (atWork_of_cards hw1 (logHome_cards ..)) rfl
  have hkept : (d.failed 1).err = 0 ∨ c.err ≠ 0 ∨ (c.op ≠ .atomic ∧ (d.failed 1).err ≠ 3) := by
    rw [herr]
    split
    · exact .inr (.inr ⟨ha, by decide⟩)
    · next hne => exact .inr (.inl hne)
  have ht : t = ((r.putCard (d.failed 1)).logHome (ds.headD 0 / 64)).putCard ((d.failed 1).marking (ds.headD 0)) := by
    have hfail : (r.putCard d).cardFails c.id 1 = r.putCard (d.failed 1) := by rw [hid, cardFails_atWork hw, putCard_failed]
    have hhome : (r.putCard (d.failed 1)).homeError c.id (ds.headD 0) =
        ((r.putCard (d.failed 1)).logHome (ds.headD 0 / 64)).putCard ((d.failed 1).marking (ds.headD 0)) := by
      rw [hid]
      exact homeError_atWork hw1 (ds.headD 0)
    change s.cardGranule n k unit = _
    rw [he]
    change (((r.putCard d).cardFails c.id 1).homeError c.id (ds.headD 0)).cardStops c = _
    rw [hfail, hhome, cardStops_of_kept (c := c) hw2 hid.symm hkept]
  rw [ht]
  obtain ⟨hm, hcores, hlate⟩ := (r.putCard (d.failed 1)).logHome_kept (ds.headD 0 / 64)
  exact ⟨hm, hcores, hlate, (putCard_cards (logHome_cards ..) _).trans (congrArg State.cards (putCard_putCard r rfl))⟩

end

end State

end Sys2Proof.Machine
end

section
/-! A granule of a card's work: reads of local bytes (rules R57, R58, R66), and writes of off-wafer bytes (rules R97, R139, R140). -/

namespace Sys2Proof.Machine
open Sys2Proof

namespace State

/-! ### Reads of local bytes -/

/-- The core after an engine's checks of words. -/
def engineChecked (c : Core) (as : List Nat) : Core :=
  let words := (as.map (· / 16)).eraseDups
  (words.filter c.mem.soft.contains).foldl (fun c w => c.memCe.addFix (unitOf (16 * w)) w)
    ((words.filter c.mem.bad.contains).foldl (fun c w => c.memUe (readAgent w) false w) c)

theorem engineChecked_checked (c : Core) (as : List Nat) : c.checked (engineChecked c as) :=
  Core.checked_trans (Core.foldl_checked (fun c w => c.memUe_checked (readAgent w) false w) _ _)
    (Core.foldl_checked (fun c w => c.memCe_addFix_checked (unitOf (16 * w)) w) _ _)

theorem notes_dataKept (s : State) (k : Nat) (ns : List Note) : s.dataKept (s.notes k ns) := dataKept_of_cores (notes_coresKept ..)

theorem putCore_cards (s : State) (c : Core) : (s.putCore c).cards = s.cards := by
  unfold putCore
  split <;> rfl

theorem notes_cards (s : State) (k : Nat) (ns : List Note) : (s.notes k ns).cards = s.cards := by rw [notes_frame]

/-- A core replaced by one with its registers and memories. -/
theorem putCore_dataKept {s : State} {c : Core} (hreg : c.reg = (s.coreOf c.idx).reg) (hmem : c.mem = (s.coreOf c.idx).mem) :
    s.dataKept (s.putCore c) := fun j => by
  rw [coreOf_putCore]
  split
  · next h =>
    subst h
    rw [hreg, hmem]
    exact ⟨rfl, rfl, rfl⟩
  · exact ⟨rfl, rfl, rfl⟩

/-- An engine's read: the bytes, whether a word of them is beyond correction, and the part after it. -/
theorem engineRead_spec (s : State) (k : Nat) (as : List Nat) :
    let r := s.engineRead k as
    r.1 = as.map (s.coreOf k).mem.loc.read ∧ r.2.1 = as.any (fun a => (s.coreOf k).mem.bad.contains (a / 16)) ∧
      s.memKept r.2.2 ∧ s.dataKept r.2.2 ∧ r.2.2.cards = s.cards ∧ ∀ j, j ≠ k → r.2.2.coreOf j = s.coreOf j := by
  obtain ⟨hc, -⟩ := engineChecked_checked (s.coreOf k) as
  have hidx : (engineChecked (s.coreOf k) as).idx = k := by rw [hc]; exact s.coreOf_idx k
  have hcore : ∀ j, j ≠ k → (s.putCore (engineChecked (s.coreOf k) as)).coreOf j = s.coreOf j := fun j hj => by
    rw [coreOf_putCore, hidx, if_neg (Ne.symm hj)]
  have hdata : s.dataKept (s.putCore (engineChecked (s.coreOf k) as)) :=
    putCore_dataKept (by rw [hidx, hc]) (by rw [hidx, hc])
  refine ⟨rfl, ?_, ?_, dataKept_trans hdata (notes_dataKept _ _ _), (notes_cards ..).trans (putCore_cards ..), fun j hj => ?_⟩
  · rw [Bool.eq_iff_iff]
    show (!(((as.map (· / 16)).eraseDups.filter (s.coreOf k).mem.bad.contains).isEmpty)) = true ↔ _
    rw [Bool.not_eq_true', List.isEmpty_eq_false_iff, ← List.length_pos_iff_ne_nil, List.length_pos_iff_exists_mem, List.any_eq_true]
    simp only [List.mem_filter, List.mem_eraseDups, List.mem_map]
    constructor
    · rintro ⟨w, ⟨a, ha, rfl⟩, hw⟩
      exact ⟨a, ha, hw⟩
    · rintro ⟨a, ha, hw⟩
      exact ⟨_, ⟨a, ha, rfl⟩, hw⟩
  · obtain ⟨h1, h2, h3⟩ := s.putCore_memKept (engineChecked (s.coreOf k) as)
    obtain ⟨n1, n2, n3⟩ := (s.putCore (engineChecked (s.coreOf k) as)).notes_memKept k
      ((((as.map (· / 16)).eraseDups).filter (s.coreOf k).mem.bad.contains).map (fun w => .log (logLocal false k (readAgent w) false w)))
    exact ⟨n1.trans h1, n2.trans h2, n3.trans h3⟩
  · exact (coreOf_of_coresKept (notes_coresKept ..) j).trans (hcore j hj)

theorem zip_map_self {α β : Type} (f : α → β) : ∀ xs : List α, xs.zip (xs.map f) = xs.map (fun x => (x, f x))
  | [] => rfl
  | x :: xs => by rw [List.map_cons, List.zip_cons_cons, zip_map_self f xs, List.map_cons]

/-- Local bytes are read into the engine, each with its mark. -/
theorem cardGranule_take {s : State} {n k i : Nat} {unit : Bool} {c : Card} {ls : List Nat} (hc : s.cardAt n = some c)
    (hi : (if unit then nextUnit c else k) = i) (ho : s.cardOpen c = true) (hg : c.granules[i]? = some (.take ls)) :
    let b := s.settleSeen c
    let sick := fun (a : Nat) => (b.coreOf c.core).mem.bad.contains (a / 16)
    let d := (c.without i).holding (ls.map (fun a => (localKey a, (b.coreOf c.core).mem.loc.read a, sick a)))
    let t := s.cardGranule n k unit
    b.memKept t ∧ b.dataKept t ∧
      t.cards = (b.putCard (if c.op ≠ .atomic ∧ ls.any sick = true then d.failed 2 else d)).cards ∧
      ∀ j, j ≠ c.core → t.coreOf j = b.coreOf j := by
  intro b sick d t
  have hw := atWork_without hc i
  obtain ⟨hbytes, hbad, hm, hd, hcards, hcores⟩ := (b.putCard (c.without i)).engineRead_spec c.core ls
  have he : t = (performGranule (b.putCard (c.without i)) c (.take ls)).cardStops c := cardGranule_eq hc hi ho rfl hg (.inl rfl)
  generalize hr : (b.putCard (c.without i)).engineRead c.core ls = r at *
  obtain ⟨bs, bad, u⟩ := r
  have hwu : b.atWork u (c.without i) := atWork_of_cards hw hcards
  have hhold : u.hold c.id ((ls.zip bs).map (fun x => (localKey x.1, x.2, sick x.1))) = u.putCard d := by
    rw [show bs = ls.map (b.coreOf c.core).mem.loc.read from hbytes, zip_map_self, List.map_map]
    exact hold_atWork hwu _
  have hwd : b.atWork (u.putCard d) d := atWork_put hwu rfl
  have hp : performGranule (b.putCard (c.without i)) c (.take ls) =
      if bad && c.op != .atomic then (u.putCard d).cardFails c.id 2 else u.putCard d := by
    unfold performGranule
    simp only [hr]
    rw [show (b.putCard (c.without i)).coreOf = b.coreOf from rfl, hhold]
  rw [he, hp]
  have hbad' : bad = ls.any sick := hbad
  by_cases hf : c.op ≠ .atomic ∧ ls.any sick = true
  · have hfail : (u.putCard d).cardFails c.id 2 = u.putCard (d.failed 2) := (cardFails_atWork hwd 2).trans (putCard_failed ..)
    have hwf : b.atWork (u.putCard (d.failed 2)) (d.failed 2) := atWork_replace hwd rfl
    have hkept : (d.failed 2).err = 0 ∨ c.err ≠ 0 ∨ (c.op ≠ .atomic ∧ (d.failed 2).err ≠ 3) := by
      by_cases h0 : c.err = 0
      · refine .inr (.inr ⟨hf.1, ?_⟩)
        show (if c.err = 0 then 2 else c.err) ≠ 3
        rw [if_pos h0]
        decide
      · exact .inr (.inl h0)
    rw [if_pos (by rw [hbad', hf.2]; simpa using hf.1), if_pos hf, hfail, cardStops_of_kept (c := c) hwf rfl hkept]
    exact ⟨hm, hd, hwf.2, hcores⟩
  · rw [if_neg (by rw [hbad']; simp only [Bool.and_eq_true, bne_iff_ne]; tauto), if_neg hf,
      cardStops_of_kept (c := c) hwd rfl ((em _).imp_right .inl)]
    exact ⟨hm, hd, hwd.2, hcores⟩

end State

end Sys2Proof.Machine
end

section
/-! A granule of a card's work: writes of off-wafer bytes (rules R97, R139 to R141, R374). -/

namespace Sys2Proof.Machine
open Sys2Proof

theorem eraseDups_of_nodup {α : Type} [BEq α] [LawfulBEq α] : ∀ {xs : List α}, xs.Nodup → xs.eraseDups = xs
  | [], _ => rfl
  | x :: xs, h => by
    obtain ⟨hx, hn⟩ := List.nodup_cons.mp h
    have hf : xs.filter (fun y => !y == x) = xs := by
      rw [List.filter_eq_self]
      intro y hy
      have : y ≠ x := fun he => hx (he ▸ hy)
      simpa using this
    rw [List.eraseDups_cons, hf, eraseDups_of_nodup hn]

/-- Writes to addresses that are all different: each address has its own byte. -/
theorem Memory.read_writeAll_of_mem {m : Memory} {ws : List (Nat × Byte)} (hn : (ws.map (·.1)).Nodup) {w : Nat × Byte} (hw : w ∈ ws) :
    (m.writeAll ws).read w.1 = w.2 := by
  have hlast : (ws.filter (fun b => b.1 == w.1)).getLast? = some w := by
    obtain ⟨l, hl⟩ : ∃ l, (ws.filter (fun b => b.1 == w.1)).getLast? = some l := by
      rw [← Option.isSome_iff_exists, List.getLast?_isSome]
      exact List.ne_nil_of_mem (List.mem_filter.mpr ⟨hw, by simp⟩)
    have hm := List.mem_filter.mp (List.mem_of_getLast? hl)
    rw [hl, List.inj_on_of_nodup_map hn hm.1 hw (by simpa using hm.2)]
  rw [Memory.read_writeAll, hlast]
  rfl

theorem Memory.read_writeAll_of_not_mem {m : Memory} {ws : List (Nat × Byte)} {x : Nat} (hx : x ∉ ws.map (·.1)) :
    (m.writeAll ws).read x = m.read x := by
  have hnil : ws.filter (fun b => b.1 == x) = [] := by
    rw [List.filter_eq_nil_iff]
    intro w hw he
    exact hx (List.mem_map.mpr ⟨w, hw, by simpa using he⟩)
  rw [Memory.read_writeAll, hnil]
  rfl

namespace State

/-- The write of a card that a link has accepted. -/
def acceptedWrite (s : State) (c : Card) (granule : Nat) (bytes : List (Nat × Byte)) (poison : Option Bool) (terms : List (Nat × Byte)) :
    LateWrite :=
  { card := c.id, core := c.core, group := c.group, scope := c.scope, granule := granule
    link := s.linkOf (blockOf c.core) (64 * granule), bytes := bytes, poison := poison
    seenBy := [], terms := if c.scope = 0 then [] else terms }

section
variable (s : State) (c : Card) (granule : Nat) (bytes : List (Nat × Byte)) (poison : Option Bool) (terms : List (Nat × Byte))

theorem logWrite_frame (card : Option Nat) :
    s.logWrite card granule bytes poison = { s with journal := (s.logWrite card granule bytes poison).journal } := by
  unfold logWrite
  split <;> rfl

/-- What a sign of terms or none, on top of a change beside the cores, keeps. -/
theorem onCore_sign_dataKept {s t : State} (h : s.coresKept t) (k sp : Nat) (ws : List (Nat × Byte)) :
    s.dataKept (t.onCore k (fun c => c.sign sp ws)) :=
  dataKept_trans (dataKept_of_cores h) (performed_dataKept (onCore_sign_performed ..))

theorem onCore_sign_keeps (k sp : Nat) (ws : List (Nat × Byte)) :
    let t := s.onCore k (fun c => c.sign sp ws)
    t.mem = s.mem ∧ t.poison = s.poison ∧ t.retired = s.retired ∧ t.late = s.late ∧ t.cards = s.cards ∧ t.module = s.module := by
  unfold onCore putCore
  dsimp only
  split <;> exact ⟨rfl, rfl, rfl, rfl, rfl, rfl⟩

/-- A write with no link on its way reaches its home (rule R139). -/
theorem acceptWrite_home (hl : s.linkOf (blockOf c.core) (64 * granule) = none) :
    let t := s.acceptWrite c granule bytes poison terms
    t.mem = s.mem.writeAll bytes ∧ t.poison = (s.atHome granule bytes poison).poison ∧ s.dataKept t ∧ t.cards = s.cards ∧
      t.module = s.module := by
  unfold acceptWrite
  simp only [hl, Option.isSome_none, Bool.false_eq_true, if_false]
  generalize hu : (s.logWrite (some c.id) granule bytes poison).atHome granule bytes poison = u
  have hmem : u.mem = s.mem.writeAll bytes := by rw [← hu, logWrite_frame]; rfl
  have hpoison : u.poison = (s.atHome granule bytes poison).poison := by rw [← hu, logWrite_frame]; rfl
  have hcores : s.coresKept u := by rw [← hu, logWrite_frame]; exact ⟨rfl, rfl⟩
  have hcards : u.cards = s.cards := by rw [← hu, logWrite_frame]; rfl
  have hmod : u.module = s.module := by rw [← hu, logWrite_frame]; rfl
  clear hu
  have hsigned (v : State) (hv : v = { u with late := v.late }) :
      let t := v.onCore c.core (fun k => k.sign 1 terms)
      t.mem = s.mem.writeAll bytes ∧ t.poison = (s.atHome granule bytes poison).poison ∧ s.dataKept t ∧ t.cards = s.cards ∧
        t.module = s.module := by
    obtain ⟨h1, h2, -, -, h5, h6⟩ := v.onCore_sign_keeps c.core 1 terms
    have hvc : s.coresKept v := by rw [hv]; exact hcores
    exact ⟨h1.trans (by rw [hv]; exact hmem), h2.trans (by rw [hv]; exact hpoison), onCore_sign_dataKept hvc _ _ _,
      h5.trans (by rw [hv]; exact hcards), h6.trans (by rw [hv]; exact hmod)⟩
  split
  · exact hsigned u rfl
  · split
    · exact ⟨hmem, hpoison, dataKept_of_cores hcores, hcards, hmod⟩
    · exact hsigned _ rfl

/-- A write that a link accepts waits on it (rules R139, R141). -/
theorem acceptWrite_link (hl : (s.linkOf (blockOf c.core) (64 * granule)).isSome = true) :
    let t := s.acceptWrite c granule bytes poison terms
    s.memKept t ∧ s.dataKept t ∧ t.cards = s.cards ∧ t.module = s.module ∧
      ∃ early, t.late = joinLate c (s.acceptedWrite c granule bytes poison terms) early s.late := by
  unfold acceptWrite acceptedWrite
  simp only [hl, if_true]
  split
  · next h0 =>
    obtain ⟨h1, h2, h3, h4, h5, h6⟩ := s.onCore_sign_keeps c.core 1 terms
    refine ⟨⟨h1, h2, h3⟩, onCore_sign_dataKept ⟨rfl, rfl⟩ _ _ _, h5, h6, (s.onCore c.core (fun k => k.sign 1 terms)).free 2 == 1, ?_⟩
    rw [← h4]
  · exact ⟨⟨rfl, rfl, rfl⟩, dataKept_of_cores ⟨rfl, rfl⟩, rfl, rfl, _, rfl⟩

end

theorem atHome_poison_same (s : State) (g : Nat) (bytes : List (Nat × Byte)) (p : Option Bool) :
    (s.atHome g bytes p).poison.contains g = p.getD (s.poison.contains g) := by
  rcases p with _ | p
  · rfl
  · cases p <;> simp [atHome]

theorem atHome_poison_other (s : State) {g x : Nat} (hx : x ≠ g) (bytes : List (Nat × Byte)) (p : Option Bool) :
    (s.atHome g bytes p).poison.contains x = s.poison.contains x := by
  rcases p with _ | p
  · rfl
  · cases p <;> simp [atHome, hx]

/-- The poison mark that a card's write sets (rules R97, R374). -/
def putMark (bad : Bool) (n : Nat) : Option Bool := if bad then some true else if 64 ≤ n then some false else none

theorem putMark_getD (bad p : Bool) (n : Nat) : (putMark bad n).getD p = (bad || (p && decide (n < 64))) := by
  unfold putMark
  cases bad with
  | true => rfl
  | false =>
    by_cases h : 64 ≤ n
    · simp [h]
    · simp [h, Nat.lt_of_not_le h]

theorem performGranule_put {t : State} {c : Card} {ms : List (ByteSrc × Nat × Nat)} (h : t.wayOpen ((ms.map (·.2.1)).headD 0) = true)
    (hn : (ms.map (·.2.1)).Nodup) :
    let a0 := (ms.map (·.2.1)).headD 0
    let bad := ms.any (fun m => (m.1.value c.buf).2)
    let u := t.acceptWrite c (a0 / 64) (ms.map (fun m => (m.2.1, (m.1.value c.buf).1))) (putMark bad ms.length)
      (ms.map (fun m => (m.2.2, (m.1.value c.buf).1)))
    performGranule t c (.put ms) = if bad then u.markBlock c.id a0 else u := by
  have hbad : (ms.map (fun m => m.1.value c.buf)).any (·.2) = ms.any (fun m => (m.1.value c.buf).2) := by
    rw [List.any_map]
    rfl
  have hbytes (f : ByteSrc × Nat × Nat → Nat) : (ms.map f).zip ((ms.map (fun m => m.1.value c.buf)).map (·.1)) =
      ms.map (fun m => (f m, (m.1.value c.buf).1)) := by
    rw [List.map_map, List.zip_map']
    rfl
  have hwhole : decide (64 ≤ (ms.map (·.2.1)).eraseDups.length) = decide (64 ≤ ms.length) := by
    rw [eraseDups_of_nodup hn, List.length_map]
  intro a0 bad u
  unfold performGranule
  simp only [h, hbad, hbytes, hwhole, Bool.not_true, Bool.false_eq_true, if_false, decide_eq_true_eq]
  rfl

section
variable {s : State} {n k i : Nat} {unit : Bool} {c : Card} {ms : List (ByteSrc × Nat × Nat)} (hc : s.cardAt n = some c)
  (hi : (if unit then nextUnit c else k) = i) (ho : s.cardOpen c = true) (hr : (Granule.put ms).ready c = true)
  (hg : c.granules[i]? = some (.put ms)) (hway : s.wayOpen ((ms.map (·.2.1)).headD 0) = true) (hn : (ms.map (·.2.1)).Nodup)
include hc hi ho hr hg hway hn

/-- A card's write of a granule is what its home or its link accepts; the card's record tells a block that it has written poisoned. -/
theorem cardGranule_put :
    let b := s.settleSeen c
    let a0 := (ms.map (·.2.1)).headD 0
    let bad := ms.any (fun m => (m.1.value c.buf).2)
    let u := (b.putCard (c.without i)).acceptWrite c (a0 / 64) (ms.map (fun m => (m.2.1, (m.1.value c.buf).1))) (putMark bad ms.length)
      (ms.map (fun m => (m.2.2, (m.1.value c.buf).1)))
    let t := s.cardGranule n k unit
    u.cards = (b.putCard (c.without i)).cards →
      t = u.withCards t.cards ∧ t.cards = (b.putCard (if bad then (c.without i).marking a0 else c.without i)).cards := by
  intro b a0 bad u t hu
  have hw := atWork_without hc i
  have hwu : b.atWork u (c.without i) := atWork_of_cards hw hu
  have he : t = (if bad then u.markBlock c.id a0 else u).cardStops c := by
    have hway' : (b.putCard (c.without i)).wayOpen a0 = true := by rw [wayOpen_settled]; exact hway
    exact (cardGranule_eq hc hi ho hr hg (.inl rfl)).trans (congrArg (·.cardStops c) (performGranule_put hway' hn))
  have hkept : c.err = 0 ∨ c.err ≠ 0 ∨ (c.op ≠ .atomic ∧ c.err ≠ 3) := (em _).imp_right .inl
  by_cases hb : bad = true
  · have hm : u.markBlock c.id a0 = u.putCard ((c.without i).marking a0) := markBlock_atWork hwu a0
    have hwm : b.atWork (u.putCard ((c.without i).marking a0)) ((c.without i).marking a0) := atWork_put hwu rfl
    rw [he, if_pos hb, if_pos hb, hm, cardStops_of_kept (c := c) hwm rfl hkept]
    exact ⟨rfl, hwm.2⟩
  · rw [he, if_neg hb, if_neg hb, cardStops_of_kept (c := c) hwu rfl hkept]
    exact ⟨rfl, hwu.2⟩

/-- Bytes of classes with no link reach their home at once. -/
theorem cardGranule_put_home :
    let b := s.settleSeen c
    let a0 := (ms.map (·.2.1)).headD 0
    let bad := ms.any (fun m => (m.1.value c.buf).2)
    let t := s.cardGranule n k unit
    s.linkOf (blockOf c.core) (64 * (a0 / 64)) = none →
      b.dataKept t ∧ t.cards = (b.putCard (if bad then (c.without i).marking a0 else c.without i)).cards ∧
      (∀ m ∈ ms, t.mem.read m.2.1 = (m.1.value c.buf).1) ∧ (∀ x, x ∉ ms.map (·.2.1) → t.mem.read x = b.mem.read x) ∧
      t.poison.contains (a0 / 64) = (bad || (b.poison.contains (a0 / 64) && decide (ms.length < 64))) ∧
      ∀ g, g ≠ a0 / 64 → t.poison.contains g = b.poison.contains g := by
  intro b a0 bad t hl
  have hl' : (b.putCard (c.without i)).linkOf (blockOf c.core) (64 * (a0 / 64)) = none :=
    (linkOf_of_module (performed_module (s.settleSeen_performed c)) _ _).trans hl
  obtain ⟨hmem, hpoison, hdata, hcards, -⟩ := (b.putCard (c.without i)).acceptWrite_home c (a0 / 64)
    (ms.map (fun m => (m.2.1, (m.1.value c.buf).1))) (putMark bad ms.length) (ms.map (fun m => (m.2.2, (m.1.value c.buf).1))) hl'
  obtain ⟨ht, hcs⟩ := cardGranule_put hc hi ho hr hg hway hn hcards
  have haddr : (ms.map (fun m => (m.2.1, (m.1.value c.buf).1))).map (·.1) = ms.map (·.2.1) := by
    rw [List.map_map]
    rfl
  have hmt : t.mem = b.mem.writeAll (ms.map (fun m => (m.2.1, (m.1.value c.buf).1))) := (congrArg State.mem ht).trans hmem
  have hpt : t.poison = _ := (congrArg State.poison ht).trans hpoison
  refine ⟨?_, hcs, fun m hm => ?_, fun x hx => ?_, ?_, fun g hg => ?_⟩
  · rw [show t = _ from ht]
    exact hdata
  · rw [hmt]
    exact Memory.read_writeAll_of_mem (by rw [haddr]; exact hn) (List.mem_map.mpr ⟨m, hm, rfl⟩)
  · rw [hmt]
    exact Memory.read_writeAll_of_not_mem (by rw [haddr]; exact hx)
  · rw [hpt, atHome_poison_same, putMark_getD]
    rfl
  · rw [hpt, atHome_poison_other _ hg]
    rfl

/-- Bytes of the other classes wait, accepted by their link. -/
theorem cardGranule_put_link :
    let b := s.settleSeen c
    let a0 := (ms.map (·.2.1)).headD 0
    let bad := ms.any (fun m => (m.1.value c.buf).2)
    let t := s.cardGranule n k unit
    (s.linkOf (blockOf c.core) (64 * (a0 / 64))).isSome = true →
      b.dataKept t ∧ t.cards = (b.putCard (if bad then (c.without i).marking a0 else c.without i)).cards ∧ b.memKept t ∧
      ∃ early, t.late = joinLate c (s.acceptedWrite c (a0 / 64) (ms.map (fun m => (m.2.1, (m.1.value c.buf).1))) (putMark bad ms.length)
        (ms.map (fun m => (m.2.2, (m.1.value c.buf).1)))) early b.late := by
  intro b a0 bad t hl
  have hb : b.module = s.module := performed_module (s.settleSeen_performed c)
  have hmod : (b.putCard (c.without i)).module = s.module := hb
  obtain ⟨hmem, hdata, hcards, -, early, hlate⟩ := (b.putCard (c.without i)).acceptWrite_link c (a0 / 64)
    (ms.map (fun m => (m.2.1, (m.1.value c.buf).1))) (putMark bad ms.length) (ms.map (fun m => (m.2.2, (m.1.value c.buf).1)))
    (by rw [linkOf_of_module hmod]; exact hl)
  obtain ⟨ht, hcs⟩ := cardGranule_put hc hi ho hr hg hway hn hcards
  refine ⟨?_, hcs, ?_, early, ?_⟩
  · rw [show t = _ from ht]
    exact hdata
  · rw [show t = _ from ht]
    exact hmem
  · have : t.late = _ := (congrArg State.late ht).trans hlate
    rw [this, acceptedWrite, linkOf_of_module hmod]
    rfl

end

end State

end Sys2Proof.Machine
end

section
/-! Bytes by 128-bit word, as an engine writes them: each word's runs of consecutive bytes (rules R60, R67). -/

namespace Sys2Proof.Machine
open Sys2Proof

/-! ### Items gathered by a key -/

section
variable {α : Type} (key : α → Nat)

theorem gather_flatten : ∀ xs : List α, (gather key xs).flatten = xs
  | [] => rfl
  | x :: xs => by
    have ih := gather_flatten xs
    unfold gather
    split
    · next h =>
      rw [h] at ih
      rw [← ih]
      rfl
    · next g gs h =>
      rw [h] at ih
      split
      · rw [List.flatten_cons, List.cons_append, ← List.flatten_cons, ih]
      · rw [List.flatten_cons, ih]
        rfl

/-- A group has items, and one key. -/
theorem gather_same {xs g : List α} (hg : g ∈ gather key xs) : g ≠ [] ∧ ∀ a ∈ g, ∀ b ∈ g, key a = key b := by
  induction xs generalizing g with
  | nil => cases hg
  | cons x xs ih =>
    unfold gather at hg
    split at hg
    · rw [List.mem_singleton.mp hg]
      refine ⟨List.cons_ne_nil _ _, fun a ha b hb => ?_⟩
      rw [List.mem_singleton.mp ha, List.mem_singleton.mp hb]
    · next g0 gs h =>
      have ih0 := ih (g := g0) (by rw [h]; exact List.mem_cons_self)
      split at hg
      · next hk =>
        rcases List.mem_cons.mp hg with rfl | hg
        · obtain ⟨y, ys, rfl⟩ := List.exists_cons_of_ne_nil ih0.1
          have hy : key y = key x := by simpa using hk
          refine ⟨List.cons_ne_nil _ _, fun a ha b hb => ?_⟩
          have hall : ∀ z ∈ x :: y :: ys, key z = key x := fun z hz => by
            rcases List.mem_cons.mp hz with rfl | hz
            · rfl
            · rw [ih0.2 z hz y List.mem_cons_self, hy]
          rw [hall a ha, hall b hb]
        · exact ih (by rw [h]; exact List.mem_cons_of_mem _ hg)
      · rcases List.mem_cons.mp hg with rfl | hg
        · refine ⟨List.cons_ne_nil _ _, fun a ha b hb => ?_⟩
          rw [List.mem_singleton.mp ha, List.mem_singleton.mp hb]
        · exact ih (by rw [h]; exact hg)

/-- The groups of sorted items have rising keys. -/
theorem gather_rising {xs : List α} (hs : xs.Pairwise (fun a b => key a ≤ key b)) :
    (gather key xs).Pairwise (fun g h => ∀ a ∈ g, ∀ b ∈ h, key a < key b) := by
  induction xs with
  | nil => exact List.Pairwise.nil
  | cons x xs ih =>
    obtain ⟨hx, hs⟩ := List.pairwise_cons.mp hs
    have ih := ih hs
    have hflat := gather_flatten key xs
    have hsame := fun g => gather_same key (xs := xs) (g := g)
    unfold gather
    split
    · exact List.pairwise_singleton ..
    · next g0 gs h =>
      rw [h] at ih hflat hsame
      obtain ⟨hg0, hgs⟩ := List.pairwise_cons.mp ih
      obtain ⟨hne, hsame0⟩ := hsame g0 List.mem_cons_self
      obtain ⟨y, ys, rfl⟩ := List.exists_cons_of_ne_nil hne
      split
      · next hk =>
        have hy : key y = key x := by simpa using hk
        refine List.pairwise_cons.mpr ⟨fun g hg a ha b hb => ?_, hgs⟩
        rcases List.mem_cons.mp ha with rfl | ha
        · rw [← hy]
          exact hg0 g hg y List.mem_cons_self b hb
        · exact hg0 g hg a ha b hb
      · next hk =>
        have hy : key y ≠ key x := by simpa using hk
        have hlt : key x < key y := by
          have := hx y (by rw [← hflat]; exact List.mem_flatten.mpr ⟨_, List.mem_cons_self, List.mem_cons_self⟩)
          omega
        refine List.pairwise_cons.mpr ⟨fun g hg a ha b hb => ?_, ih⟩
        rw [List.mem_singleton.mp ha]
        rcases List.mem_cons.mp hg with rfl | hg
        · rwa [hsame0 b hb y List.mem_cons_self]
        · exact hlt.trans (hg0 g hg y List.mem_cons_self b hb)

/-- Of sorted items, a group has all those of its key. -/
theorem mem_gather_of_key {xs g : List α} (hs : xs.Pairwise (fun a b => key a ≤ key b)) (hg : g ∈ gather key xs) {a x : α} (ha : a ∈ g)
    (hx : x ∈ xs) (hk : key x = key a) : x ∈ g := by
  rw [← gather_flatten key xs] at hx
  obtain ⟨h, hh, hx⟩ := List.mem_flatten.mp hx
  have hp : (gather key xs).Pairwise (fun g h => ∀ a ∈ g, ∀ b ∈ h, key a ≠ key b) :=
    (gather_rising key hs).imp fun h a ha b hb => Nat.ne_of_lt (h a ha b hb)
  have hsym : Std.Symm (fun g h : List α => ∀ a ∈ g, ∀ b ∈ h, key a ≠ key b) := ⟨fun g h hgh a ha b hb => (hgh b hb a ha).symm⟩
  by_contra hne
  have hgh : h ≠ g := by
    rintro rfl
    exact hne hx
  exact hp.forall hh hg hgh x hx a ha hk

end

/-! ### Runs of consecutive bytes -/

theorem byteRuns_mem {xs : List (Nat × Byte)} {r : Nat × List Byte} (hr : r ∈ byteRuns xs) :
    r.2 ≠ [] ∧ ∀ j < r.2.length, (r.1 + j, r.2.getD j 0) ∈ xs := by
  induction xs generalizing r with
  | nil => cases hr
  | cons x xs ih =>
    obtain ⟨a, b⟩ := x
    have hone (j : Nat) (hj : j < [b].length) : (a + j, [b].getD j 0) ∈ (a, b) :: xs := by
      obtain rfl : j = 0 := by simpa using hj
      exact List.mem_cons_self
    unfold byteRuns at hr
    split at hr
    · next a' bs gs h =>
      split at hr
      · next ha =>
        rcases List.mem_cons.mp hr with rfl | hr
        · obtain ⟨-, ih⟩ := ih (r := (a', bs)) (by rw [h]; exact List.mem_cons_self)
          refine ⟨List.cons_ne_nil _ _, fun j hj => ?_⟩
          match j with
          | 0 => exact List.mem_cons_self
          | j + 1 =>
            have := ih j (by simpa using hj)
            rw [← ha] at this
            rw [List.getD_cons_succ, show a + (j + 1) = a + 1 + j by omega]
            exact List.mem_cons_of_mem _ this
        · obtain ⟨hne, ih⟩ := ih (r := r) (by rw [h]; exact List.mem_cons_of_mem _ hr)
          exact ⟨hne, fun j hj => List.mem_cons_of_mem _ (ih j hj)⟩
      · rcases List.mem_cons.mp hr with rfl | hr
        · exact ⟨List.cons_ne_nil _ _, hone⟩
        · obtain ⟨hne, ih⟩ := ih (r := r) (by rw [h]; exact hr)
          exact ⟨hne, fun j hj => List.mem_cons_of_mem _ (ih j hj)⟩
    · rw [List.mem_singleton.mp hr]
      exact ⟨List.cons_ne_nil _ _, hone⟩

theorem byteRuns_cover {xs : List (Nat × Byte)} {x : Nat × Byte} (hx : x ∈ xs) :
    ∃ r ∈ byteRuns xs, r.1 ≤ x.1 ∧ x.1 < r.1 + r.2.length := by
  induction xs with
  | nil => cases hx
  | cons y xs ih =>
    obtain ⟨a, b⟩ := y
    unfold byteRuns
    split
    · next a' bs gs h =>
      rw [h] at ih
      split
      · next ha =>
        rcases List.mem_cons.mp hx with rfl | hx
        · exact ⟨_, List.mem_cons_self, Nat.le_refl _, by rw [List.length_cons]; dsimp only; omega⟩
        · obtain ⟨r, hr, h1, h2⟩ := ih hx
          rcases List.mem_cons.mp hr with rfl | hr
          · refine ⟨_, List.mem_cons_self, ?_, ?_⟩
            · dsimp only at h1 ⊢
              omega
            · dsimp only at h2 ⊢
              rw [List.length_cons]
              omega
          · exact ⟨r, List.mem_cons_of_mem _ hr, h1, h2⟩
      · rcases List.mem_cons.mp hx with rfl | hx
        · exact ⟨_, List.mem_cons_self, Nat.le_refl _, by simp⟩
        · obtain ⟨r, hr, h1, h2⟩ := ih hx
          exact ⟨r, List.mem_cons_of_mem _ hr, h1, h2⟩
    · next h =>
      rw [h] at ih
      rcases List.mem_cons.mp hx with rfl | hx
      · exact ⟨_, List.mem_cons_self, Nat.le_refl _, by simp⟩
      · obtain ⟨r, hr, -⟩ := ih hx
        cases hr

/-- Consecutive bytes are one run. -/
theorem byteRuns_consecutive {xs : List (Nat × Byte)} {a n : Nat} (h : xs.map (·.1) = List.range' a (n + 1)) :
    byteRuns xs = [(a, xs.map (·.2))] := by
  induction n generalizing xs a with
  | zero =>
    match xs, h with
    | [x], h =>
      have : x.1 = a := by simpa using h
      rw [← this]
      rfl
  | succ n ih =>
    match xs, h with
    | x :: xs, h =>
      rw [List.map_cons, List.range'_succ] at h
      obtain ⟨hx, hxs⟩ := List.cons.inj h
      have hrest := ih hxs
      unfold byteRuns
      rw [hrest]
      dsimp only
      rw [if_pos (by rw [hx]), hx]
      rfl

end Sys2Proof.Machine
end

section
/-! A granule of a card's work: what the engine writes into local space and IMEM (rules R57, R60, R67, R68, R370, R417). -/

namespace Sys2Proof.Machine
open Sys2Proof

/-! ### The runs of a list of bytes -/

section
variable (ws : List (Nat × Byte × Bool))

/-- The bytes in ascending address. -/
def ascending : List (Nat × Byte × Bool) := ws.mergeSort (fun a b => decide (a.1 ≤ b.1))

theorem mem_ascending {w : Nat × Byte × Bool} : w ∈ ascending ws ↔ w ∈ ws := (List.mergeSort_perm ..).mem_iff

theorem ascending_sorted : (ascending ws).Pairwise (fun a b => a.1 ≤ b.1) :=
  (List.pairwise_mergeSort (fun a b c hab hbc => by simp only [decide_eq_true_eq] at *; omega)
    (fun a b => by simp only [Bool.or_eq_true, decide_eq_true_eq]; omega) ws).imp fun h => by simpa using h

theorem ascending_words : (ascending ws).Pairwise (fun a b => a.1 / 16 ≤ b.1 / 16) :=
  (ascending_sorted ws).imp fun h => Nat.div_le_div_right h

variable {ws}

theorem mem_wordRuns {r : Nat × List Byte × Bool} : r ∈ wordRuns ws ↔ ∃ g ∈ gather (fun w => w.1 / 16) (ascending ws),
    (r.1, r.2.1) ∈ byteRuns (g.map (fun w => (w.1, w.2.1))) ∧ r.2.2 = g.any (·.2.2) := by
  unfold wordRuns
  rw [List.mem_flatMap]
  constructor
  · rintro ⟨g, hg, hr⟩
    obtain ⟨q, hq, rfl⟩ := List.mem_map.mp hr
    exact ⟨g, hg, hq, rfl⟩
  · rintro ⟨g, hg, hr, hs⟩
    refine ⟨g, hg, List.mem_map.mpr ⟨_, hr, ?_⟩⟩
    rw [← hs]

theorem mem_of_mem_group {g : List (Nat × Byte × Bool)} (hg : g ∈ gather (fun w => w.1 / 16) (ascending ws)) {w : Nat × Byte × Bool}
    (hw : w ∈ g) : w ∈ ws := by
  rw [← mem_ascending, ← gather_flatten (fun w => w.1 / 16) (ascending ws)]
  exact List.mem_flatten.mpr ⟨g, hg, hw⟩

/-- A run's bytes are bytes of the list, of one word. -/
theorem wordRuns_mem {r : Nat × List Byte × Bool} (hr : r ∈ wordRuns ws) : r.2.1 ≠ [] ∧
    ∀ j < r.2.1.length, (r.1 + j) / 16 = r.1 / 16 ∧ ∃ w ∈ ws, w.1 = r.1 + j ∧ w.2.1 = r.2.1.getD j 0 := by
  obtain ⟨g, hg, hq, -⟩ := mem_wordRuns.mp hr
  obtain ⟨hne, hbytes⟩ := byteRuns_mem hq
  have hof (j : Nat) (hj : j < r.2.1.length) : ∃ w ∈ g, w.1 = r.1 + j ∧ w.2.1 = r.2.1.getD j 0 := by
    obtain ⟨w, hw, he⟩ := List.mem_map.mp (hbytes j hj)
    exact ⟨w, hw, congrArg Prod.fst he, congrArg Prod.snd he⟩
  refine ⟨hne, fun j hj => ?_⟩
  obtain ⟨w, hw, hw1, hw2⟩ := hof j hj
  obtain ⟨v, hv, hv1, -⟩ := hof 0 (List.length_pos_iff.mpr hne)
  have hk : w.1 / 16 = v.1 / 16 := (gather_same _ hg).2 w hw v hv
  rw [hw1, hv1] at hk
  exact ⟨hk, w, mem_of_mem_group hg hw, hw1, hw2⟩

/-- A run is poisoned where a byte of its word is. -/
theorem wordRuns_sick {r : Nat × List Byte × Bool} (hr : r ∈ wordRuns ws) :
    r.2.2 = ws.any (fun w => w.1 / 16 == r.1 / 16 && w.2.2) := by
  obtain ⟨g, hg, hq, hs⟩ := mem_wordRuns.mp hr
  obtain ⟨hne, hbytes⟩ := byteRuns_mem hq
  obtain ⟨v, hv, he⟩ := List.mem_map.mp (hbytes 0 (List.length_pos_iff.mpr hne))
  have hv1 : v.1 = r.1 := congrArg Prod.fst he
  rw [hs, Bool.eq_iff_iff, List.any_eq_true, List.any_eq_true]
  constructor
  · rintro ⟨w, hw, hsick⟩
    have hk : w.1 / 16 = v.1 / 16 := (gather_same _ hg).2 w hw v hv
    exact ⟨w, mem_of_mem_group hg hw, by simp [hsick, hk, hv1]⟩
  · rintro ⟨w, hw, hsick⟩
    rw [Bool.and_eq_true, beq_iff_eq, ← hv1] at hsick
    exact ⟨w, mem_gather_of_key _ (ascending_words ws) hg hv ((mem_ascending ws).mpr hw) hsick.1, hsick.2⟩

/-- Every byte stands in a run of its word. -/
theorem wordRuns_cover {w : Nat × Byte × Bool} (hw : w ∈ ws) :
    ∃ r ∈ wordRuns ws, r.1 ≤ w.1 ∧ w.1 < r.1 + r.2.1.length ∧ r.1 / 16 = w.1 / 16 := by
  rw [← mem_ascending, ← gather_flatten (fun w => w.1 / 16) (ascending ws)] at hw
  obtain ⟨g, hg, hw⟩ := List.mem_flatten.mp hw
  obtain ⟨q, hq, h1, h2⟩ := byteRuns_cover (List.mem_map.mpr ⟨w, hw, rfl⟩ : (w.1, w.2.1) ∈ g.map (fun w => (w.1, w.2.1)))
  have hr : (q.1, q.2, g.any (·.2.2)) ∈ wordRuns ws := mem_wordRuns.mpr ⟨g, hg, hq, rfl⟩
  obtain ⟨-, hall⟩ := wordRuns_mem hr
  have hk := (hall (w.1 - q.1) (by dsimp only at *; omega)).1
  refine ⟨_, hr, h1, h2, ?_⟩
  dsimp only at *
  rw [← hk, Nat.add_sub_cancel' h1]

/-- A word all of whose bytes are written is one run. -/
theorem wordRuns_whole (hn : (ws.map (·.1)).Nodup) {n : Nat} (h : ∀ x, x / 16 = n → x ∈ ws.map (·.1)) :
    ∃ r ∈ wordRuns ws, r.1 = 16 * n ∧ r.2.1.length = 16 := by
  obtain ⟨v, hv, hv1⟩ := List.mem_map.mp (h (16 * n) (by omega))
  rw [← mem_ascending, ← gather_flatten (fun w => w.1 / 16) (ascending ws)] at hv
  obtain ⟨g, hg, hv⟩ := List.mem_flatten.mp hv
  have hsub : g.Sublist (ascending ws) := by
    rw [← gather_flatten (fun w => w.1 / 16) (ascending ws)]
    exact List.sublist_flatten_of_mem hg
  have hmem (x : Nat) : x ∈ g.map (·.1) ↔ x ∈ List.range' (16 * n) 16 := by
    rw [List.mem_range'_1]
    constructor
    · intro hx
      obtain ⟨w, hw, rfl⟩ := List.mem_map.mp hx
      have hk : w.1 / 16 = v.1 / 16 := (gather_same _ hg).2 w hw v hv
      omega
    · intro hx
      obtain ⟨w, hw, rfl⟩ := List.mem_map.mp (h x (by omega))
      exact List.mem_map.mpr ⟨w, mem_gather_of_key _ (ascending_words ws) hg hv ((mem_ascending ws).mpr hw) (by omega), rfl⟩
  have hnodup : (g.map (·.1)).Nodup :=
    (((List.mergeSort_perm ws _).map (·.1)).nodup_iff.mpr hn).sublist (hsub.map _)
  have hperm : (g.map (·.1)).Perm (List.range' (16 * n) 16) :=
    (List.perm_ext_iff_of_nodup hnodup (List.nodup_range' ..)).mpr hmem
  have heq : g.map (·.1) = List.range' (16 * n) 16 := by
    refine List.Perm.eq_of_pairwise (le := (· ≤ ·)) (fun a b _ _ hab hba => Nat.le_antisymm hab hba) ?_ ?_ hperm
    · exact List.pairwise_map.mpr ((ascending_sorted ws).sublist hsub)
    · exact (List.pairwise_lt_range' ..).imp fun h => Nat.le_of_lt h
  have hruns : byteRuns (g.map (fun w => (w.1, w.2.1))) = [(16 * n, (g.map (fun w => (w.1, w.2.1))).map (·.2))] := by
    refine byteRuns_consecutive (n := 15) ?_
    rw [List.map_map]
    exact heq
  refine ⟨(16 * n, (g.map (fun w => (w.1, w.2.1))).map (·.2), g.any (·.2.2)), mem_wordRuns.mpr ⟨g, hg, ?_, rfl⟩, rfl, ?_⟩
  · rw [hruns]
    exact List.mem_singleton.mpr rfl
  · have := congrArg List.length heq
    simpa using this

/-- Where the bytes' addresses all differ, a run gives each its own. -/
theorem wordRuns_byte (hn : (ws.map (·.1)).Nodup) {r : Nat × List Byte × Bool} {b : Nat × Byte × Bool} (hr : r ∈ wordRuns ws)
    (hb : b ∈ ws) (h1 : r.1 ≤ b.1) (h2 : b.1 < r.1 + r.2.1.length) : r.2.1.getD (b.1 - r.1) 0 = b.2.1 := by
  obtain ⟨-, hall⟩ := wordRuns_mem hr
  obtain ⟨-, v, hv, hv1, hv2⟩ := hall (b.1 - r.1) (by omega)
  rw [← hv2, List.inj_on_of_nodup_map hn hv hb (by omega)]

end

/-! ### Writes into local space -/

namespace Core

/-- A core with a run of bytes written by an engine. -/
def storeRun (c : Core) (r : Nat × List Byte × Bool) : Core := (c.storeBytes 1 r.1 r.2.1 (if r.2.2 then [r.1 / 16] else [])).1

theorem storeRun_frame (c : Core) (r : Nat × List Byte × Bool) : c.storeRun r = { c with
    mem := { c.mem with loc := c.mem.loc.write r.1 r.2.1, bad := (c.storeRun r).mem.bad, soft := (c.storeRun r).mem.soft }
    aux := (c.storeRun r).aux } := rfl

theorem storeRun_bad (c : Core) {r : Nat × List Byte × Bool} (hne : r.2.1 ≠ []) (hin : ∀ j < r.2.1.length, (r.1 + j) / 16 = r.1 / 16)
    (w : Nat) : (c.storeRun r).mem.bad.contains w =
      ((c.mem.bad.contains w && !(r.1 == 16 * w && r.2.1.length == 16)) || (r.1 / 16 == w && r.2.2)) := by
  have hpos : 0 < r.2.1.length := List.length_pos_iff.mpr hne
  have hlast := hin (r.2.1.length - 1) (by omega)
  have hcov : covers r.1 r.2.1.length w = (r.1 == 16 * w && r.2.1.length == 16) := by
    rw [Bool.eq_iff_iff]
    simp only [covers, Bool.and_eq_true, decide_eq_true_eq, beq_iff_eq]
    omega
  have hword : ((wordsOf r.1 r.2.1.length).contains w && (if r.2.2 then [r.1 / 16] else []).contains w) = (r.1 / 16 == w && r.2.2) := by
    cases r.2.2 with
    | false => simp
    | true =>
      rw [Bool.eq_iff_iff]
      simp only [if_true, Bool.and_eq_true, List.contains_eq_mem, decide_eq_true_eq, mem_wordsOf, List.mem_singleton, beq_iff_eq,
        and_true]
      omega
  rw [storeRun, storeBytes_bad, hcov, hword]

/-- A property that every write of a run of `rs` keeps. -/
theorem foldl_of_kept {α β : Type} {f : β → α → β} {P : β → Prop} {xs : List α} (hkeep : ∀ b, ∀ a ∈ xs, P b → P (f b a)) {b : β} (hb : P b) :
    P (xs.foldl f b) := List.foldlRecOn (motive := P) _ _ hb fun b h a ha => hkeep b a ha h

/-- A property that the write of one run makes and that those of the others keep. -/
theorem foldl_of_made {α β : Type} {f : β → α → β} {P : β → Prop} {xs : List α} (hkeep : ∀ b, ∀ a ∈ xs, P b → P (f b a)) {x : α}
    (hx : x ∈ xs) (hmake : ∀ b, P (f b x)) (b : β) : P (xs.foldl f b) := by
  obtain ⟨pre, post, rfl⟩ := List.append_of_mem hx
  rw [List.foldl_append, List.foldl_cons]
  exact List.foldlRecOn (motive := P) _ _ (hmake _) fun b h a ha =>
    hkeep b a (List.mem_append_right _ (List.mem_cons_of_mem _ ha)) h

section
variable (c : Core) {ws : List (Nat × Byte × Bool)}

/-- A core with all runs written. -/
def storeRuns (ws : List (Nat × Byte × Bool)) : Core := (wordRuns ws).foldl storeRun c

theorem storeRuns_frame : c.storeRuns ws = { c with
    mem := { c.mem with loc := (c.storeRuns ws).mem.loc, bad := (c.storeRuns ws).mem.bad, soft := (c.storeRuns ws).mem.soft }
    aux := (c.storeRuns ws).aux } :=
  foldl_of_kept (P := fun d : Core => d = { c with
    mem := { c.mem with loc := d.mem.loc, bad := d.mem.bad, soft := d.mem.soft }, aux := d.aux })
    (fun d r _ hd => by rw [d.storeRun_frame r, hd]) rfl

theorem storeRuns_read (hn : (ws.map (·.1)).Nodup) {b : Nat × Byte × Bool} (hb : b ∈ ws) :
    (c.storeRuns ws).mem.loc.read b.1 = b.2.1 := by
  have hwrite (d : Core) (r : Nat × List Byte × Bool) (hr : r ∈ wordRuns ws) (h1 : r.1 ≤ b.1) (h2 : b.1 < r.1 + r.2.1.length) :
      (d.storeRun r).mem.loc.read b.1 = b.2.1 := by
    rw [storeRun_frame]
    dsimp only
    rw [Memory.read_write, if_pos ⟨h1, h2⟩, wordRuns_byte hn hr hb h1 h2]
  obtain ⟨r, hr, h1, h2, -⟩ := wordRuns_cover hb
  refine foldl_of_made (P := fun d : Core => d.mem.loc.read b.1 = b.2.1) (fun d q hq hd => ?_) hr (fun d => hwrite d r hr h1 h2) c
  by_cases hin : q.1 ≤ b.1 ∧ b.1 < q.1 + q.2.1.length
  · exact hwrite d q hq hin.1 hin.2
  · rw [storeRun_frame]
    dsimp only
    rw [Memory.read_write, if_neg hin]
    exact hd

theorem storeRuns_read_other {x : Nat} (hx : x ∉ ws.map (·.1)) : (c.storeRuns ws).mem.loc.read x = c.mem.loc.read x := by
  refine foldl_of_kept (P := fun d : Core => d.mem.loc.read x = c.mem.loc.read x) (fun d r hr hd => ?_) rfl
  have hout : ¬ (r.1 ≤ x ∧ x < r.1 + r.2.1.length) := by
    rintro ⟨h1, h2⟩
    obtain ⟨-, w, hw, hw1, -⟩ := (wordRuns_mem hr).2 (x - r.1) (by omega)
    exact hx (List.mem_map.mpr ⟨w, hw, by omega⟩)
  rw [storeRun_frame]
  dsimp only
  rw [Memory.read_write, if_neg hout]
  exact hd

/-- A word that takes a marked byte is poisoned (rules R60, R97). -/
theorem storeRuns_sick {b : Nat × Byte × Bool} (hb : b ∈ ws) (hs : b.2.2 = true) :
    (c.storeRuns ws).mem.bad.contains (b.1 / 16) = true := by
  have hflag (r : Nat × List Byte × Bool) (hr : r ∈ wordRuns ws) (hk : r.1 / 16 = b.1 / 16) : r.2.2 = true := by
    rw [wordRuns_sick hr]
    exact List.any_eq_true.mpr ⟨b, hb, by simp [hk, hs]⟩
  obtain ⟨r, hr, -, -, hk⟩ := wordRuns_cover hb
  refine foldl_of_made (P := fun d : Core => d.mem.bad.contains (b.1 / 16) = true) (fun d q hq hd => ?_) hr (fun d => ?_) c
  · obtain ⟨hne, hin⟩ := wordRuns_mem hq
    rw [storeRun_bad d hne (fun j hj => (hin j hj).1), hd]
    by_cases hq16 : q.1 / 16 = b.1 / 16
    · simp [hflag q hq hq16, hq16]
    · have : q.1 ≠ 16 * (b.1 / 16) := by omega
      simp [this]
  · obtain ⟨hne, hin⟩ := wordRuns_mem hr
    rw [storeRun_bad d hne (fun j hj => (hin j hj).1)]
    simp [hflag r hr hk, hk]

/-- A word written whole with sound bytes is sound (rule R67). -/
theorem storeRuns_sound (hn : (ws.map (·.1)).Nodup) {w : Nat} (hall : ∀ x, x / 16 = w → x ∈ ws.map (·.1))
    (hs : ∀ b ∈ ws, b.1 / 16 = w → b.2.2 = false) : (c.storeRuns ws).mem.bad.contains w = false := by
  have hflag (r : Nat × List Byte × Bool) (hr : r ∈ wordRuns ws) : (r.1 / 16 == w && r.2.2) = false := by
    rw [wordRuns_sick hr]
    by_cases hk : r.1 / 16 = w
    · rw [hk, beq_self_eq_true, Bool.true_and, List.any_eq_false]
      intro b hb
      by_cases hb16 : b.1 / 16 = w
      · simp [hs b hb hb16]
      · simp [hb16]
    · simp [hk]
  obtain ⟨r, hr, h1, h2⟩ := wordRuns_whole hn hall
  refine foldl_of_made (P := fun d : Core => d.mem.bad.contains w = false) (fun d q hq hd => ?_) hr (fun d => ?_) c
  · obtain ⟨hne, hin⟩ := wordRuns_mem hq
    rw [storeRun_bad d hne (fun j hj => (hin j hj).1), hd, hflag q hq]
    rfl
  · obtain ⟨hne, hin⟩ := wordRuns_mem hr
    rw [storeRun_bad d hne (fun j hj => (hin j hj).1), hflag r hr, h1, h2]
    simp

/-- A word that no byte reaches keeps its mark. -/
theorem storeRuns_bad_other {w : Nat} (hw : ∀ x ∈ ws.map (·.1), x / 16 ≠ w) :
    (c.storeRuns ws).mem.bad.contains w = c.mem.bad.contains w := by
  refine foldl_of_kept (P := fun d : Core => d.mem.bad.contains w = c.mem.bad.contains w) (fun d r hr hd => ?_) rfl
  obtain ⟨hne, hin⟩ := wordRuns_mem hr
  obtain ⟨h0, v, hv, hv1, -⟩ := hin 0 (List.length_pos_iff.mpr hne)
  have hk : r.1 / 16 ≠ w := by
    have := hw v.1 (List.mem_map.mpr ⟨v, hv, rfl⟩)
    rwa [hv1, Nat.add_zero] at this
  have h16 : r.1 ≠ 16 * w := by omega
  rw [storeRun_bad d hne (fun j hj => (hin j hj).1), hd, beq_false_of_ne hk, beq_false_of_ne h16]
  simp

end

end Core

end Sys2Proof.Machine
end

section
/-! A granule of a card's work: fills of local space and code loads (rules R57, R60, R67, R68, R370, R417). -/

namespace Sys2Proof.Machine
open Sys2Proof

namespace State

/-- What an engine's write of bytes leaves, whatever their addresses. -/
theorem engineWrite_eq (s : State) (k : Nat) (ws : List (Nat × Byte × Bool)) :
    ∃ ns, s.engineWrite k ws = (s.putCore (((s.coreOf k).sign 0 (ws.map (fun w => (w.1, w.2.1)))).storeRuns ws)).notes k ns := by
  have hfst (rs : List (Nat × List Byte × Bool)) (st : Core × List Note) :
      (rs.foldl (fun (st : Core × List Note) r =>
        let (c, n) := st.1.storeBytes 1 r.1 r.2.1 (if r.2.2 then [r.1 / 16] else [])
        (c, st.2 ++ n)) st).1 = rs.foldl Core.storeRun st.1 := by
    induction rs generalizing st with
    | nil => rfl
    | cons r rs ih =>
      rw [List.foldl_cons, List.foldl_cons, ih]
      rfl
  refine ⟨((wordRuns ws).foldl (fun (st : Core × List Note) r =>
        let (c, n) := st.1.storeBytes 1 r.1 r.2.1 (if r.2.2 then [r.1 / 16] else [])
        (c, st.2 ++ n)) ((s.coreOf k).sign 0 (ws.map (fun w => (w.1, w.2.1))), [])).2, ?_⟩
  rw [Core.storeRuns, ← hfst _ (_, [])]
  rfl

/-- Bytes are written into a core's local space: each address takes its byte, and each word its mark; nothing else of the core's
registers and memories, and no other core, changes. -/
theorem engineWrite_spec (s : State) (k : Nat) {ws : List (Nat × Byte × Bool)} (hn : (ws.map (·.1)).Nodup) :
    let t := s.engineWrite k ws
    let m := (s.coreOf k).mem
    let m' := (t.coreOf k).mem
    (s.memKept t ∧ t.cards = s.cards ∧ (t.coreOf k).reg = (s.coreOf k).reg ∧ m'.imem = m.imem ∧ ∀ j, j ≠ k → t.coreOf j = s.coreOf j) ∧
      (∀ b ∈ ws, m'.loc.read b.1 = b.2.1) ∧ (∀ x, x ∉ ws.map (·.1) → m'.loc.read x = m.loc.read x) ∧
      (∀ b ∈ ws, b.2.2 = true → m'.bad.contains (b.1 / 16) = true) ∧
      (∀ w, (∀ x, x / 16 = w → x ∈ ws.map (·.1)) → (∀ b ∈ ws, b.1 / 16 = w → b.2.2 = false) → m'.bad.contains w = false) ∧
      (∀ w, (∀ x ∈ ws.map (·.1), x / 16 ≠ w) → m'.bad.contains w = m.bad.contains w) := by
  obtain ⟨ns, he⟩ := s.engineWrite_eq k ws
  generalize hd : ((s.coreOf k).sign 0 (ws.map (fun w => (w.1, w.2.1)))).storeRuns ws = d at he
  have hsign := (s.coreOf k).sign_signed 0 (ws.map (fun w => (w.1, w.2.1)))
  have hframe := ((s.coreOf k).sign 0 (ws.map (fun w => (w.1, w.2.1)))).storeRuns_frame (ws := ws)
  rw [hd] at hframe
  have hmem : ((s.coreOf k).sign 0 (ws.map (fun w => (w.1, w.2.1)))).mem = (s.coreOf k).mem := by rw [hsign]
  have hidx : d.idx = k := by
    rw [hframe, hsign]
    exact s.coreOf_idx k
  have hcore (j : Nat) : (s.engineWrite k ws).coreOf j = if k = j then d else s.coreOf j := by
    rw [he, coreOf_of_coresKept (notes_coresKept ..), coreOf_putCore, hidx]
  intro t m m'
  have hm' : m' = d.mem := by
    show (t.coreOf k).mem = _
    rw [show t.coreOf k = _ from hcore k, if_pos rfl]
  refine ⟨⟨?_, ?_, ?_, ?_, fun j hj => ?_⟩, fun b hb => ?_, fun x hx => ?_, fun b hb hs => ?_, fun w hall hs => ?_, fun w hw => ?_⟩
  · rw [show t = _ from he]
    obtain ⟨h1, h2, h3⟩ := s.putCore_memKept d
    obtain ⟨n1, n2, n3⟩ := (s.putCore d).notes_memKept k ns
    exact ⟨n1.trans h1, n2.trans h2, n3.trans h3⟩
  · rw [show t = _ from he, notes_cards, putCore_cards]
  · rw [show t.coreOf k = _ from hcore k, if_pos rfl, hframe, hsign]
  · rw [hm', hframe]
    show ((s.coreOf k).sign 0 (ws.map (fun w => (w.1, w.2.1)))).mem.imem = _
    rw [hmem]
  · rw [show t.coreOf j = _ from hcore j, if_neg (Ne.symm hj)]
  · rw [hm', ← hd, Core.storeRuns_read _ hn hb]
  · rw [hm', ← hd, Core.storeRuns_read_other _ hx, hmem]
  · rw [hm', ← hd, Core.storeRuns_sick _ hb hs]
  · rw [hm', ← hd, Core.storeRuns_sound _ hn hall hs]
  · rw [hm', ← hd, Core.storeRuns_bad_other _ hw, hmem]

/-- The core that a code load leaves. -/
def codeLoaded (c : Core) (ws : List (Nat × Byte × Bool)) : Core :=
  let rs := wordRuns ws
  let words := rs.map (·.1 / 16)
  let whole := (rs.filter (fun r => r.2.1.length == 16)).map (·.1 / 16)
  let sick := (rs.filter (·.2.2)).map (·.1 / 16)
  let kept := c.mem.imemBad.filter (fun w => !whole.contains w)
  { c with
    mem := { c.mem with
      imem := c.mem.imem.writeAll (ws.map (fun w => (w.1, w.2.1)))
      imemBad := kept ++ sick.filter (fun w => !kept.contains w)
      imemSoft := c.mem.imemSoft.filter (fun w => !words.contains w)
      codeLines := (c.mem.codeLines ++ words.map (· / 4)).eraseDups }
    aux := (c.dropFixes true words).aux }

theorem codeWrite_eq (s : State) (k : Nat) (ws : List (Nat × Byte × Bool)) :
    ∃ ns, s.codeWrite k ws = (s.putCore (codeLoaded (s.coreOf k) ws)).notes k ns := ⟨_, rfl⟩

/-- A word of IMEM is beyond correction after a code load. -/
theorem codeLoaded_bad (c : Core) (ws : List (Nat × Byte × Bool)) (w : Nat) : (codeLoaded c ws).mem.imemBad.contains w = true ↔
    (c.mem.imemBad.contains w = true ∧ ¬ ∃ r ∈ wordRuns ws, r.2.1.length = 16 ∧ r.1 / 16 = w) ∨
      ∃ r ∈ wordRuns ws, r.2.2 = true ∧ r.1 / 16 = w := by
  unfold codeLoaded
  simp only [List.contains_eq_mem, decide_eq_true_eq, List.mem_append, List.mem_filter, List.mem_map, Bool.not_eq_true',
    decide_eq_false_iff_not, beq_iff_eq, and_assoc]
  tauto

/-- Bytes are written into a core's IMEM by a code load. -/
theorem codeWrite_spec (s : State) (k : Nat) {ws : List (Nat × Byte × Bool)} (hn : (ws.map (·.1)).Nodup) :
    let t := s.codeWrite k ws
    let m := (s.coreOf k).mem
    let m' := (t.coreOf k).mem
    (s.memKept t ∧ t.cards = s.cards ∧ (t.coreOf k).reg = (s.coreOf k).reg ∧ m'.loc = m.loc ∧ ∀ j, j ≠ k → t.coreOf j = s.coreOf j) ∧
      (∀ b ∈ ws, m'.imem.read b.1 = b.2.1) ∧ (∀ x, x ∉ ws.map (·.1) → m'.imem.read x = m.imem.read x) ∧
      (∀ b ∈ ws, b.2.2 = true → m'.imemBad.contains (b.1 / 16) = true) ∧
      (∀ w, (∀ x, x / 16 = w → x ∈ ws.map (·.1)) → (∀ b ∈ ws, b.1 / 16 = w → b.2.2 = false) → m'.imemBad.contains w = false) ∧
      (∀ w, (∀ x ∈ ws.map (·.1), x / 16 ≠ w) → m'.imemBad.contains w = m.imemBad.contains w) ∧
      ∀ b ∈ ws, m'.codeLines.contains (b.1 / 64) = true := by
  obtain ⟨ns, he⟩ := s.codeWrite_eq k ws
  have hcore (j : Nat) : (s.codeWrite k ws).coreOf j = if k = j then codeLoaded (s.coreOf k) ws else s.coreOf j := by
    rw [he, coreOf_of_coresKept (notes_coresKept ..), coreOf_putCore]
    show (if (s.coreOf k).idx = j then _ else _) = _
    rw [s.coreOf_idx k]
  have haddr : (ws.map (fun w => (w.1, w.2.1))).map (·.1) = ws.map (·.1) := by
    rw [List.map_map]
    rfl
  intro t m m'
  have hm' : m' = (codeLoaded (s.coreOf k) ws).mem := by
    show (t.coreOf k).mem = _
    rw [show t.coreOf k = _ from hcore k, if_pos rfl]
  refine ⟨⟨?_, ?_, ?_, ?_, fun j hj => ?_⟩, fun b hb => ?_, fun x hx => ?_, fun b hb hs => ?_, fun w hall hs => ?_, fun w hw => ?_,
    fun b hb => ?_⟩
  · rw [show t = _ from he]
    obtain ⟨h1, h2, h3⟩ := s.putCore_memKept (codeLoaded (s.coreOf k) ws)
    obtain ⟨n1, n2, n3⟩ := (s.putCore (codeLoaded (s.coreOf k) ws)).notes_memKept k ns
    exact ⟨n1.trans h1, n2.trans h2, n3.trans h3⟩
  · rw [show t = _ from he, notes_cards, putCore_cards]
  · rw [show t.coreOf k = _ from hcore k, if_pos rfl]
    rfl
  · rw [hm']
    rfl
  · rw [show t.coreOf j = _ from hcore j, if_neg (Ne.symm hj)]
  · rw [hm']
    exact Memory.read_writeAll_of_mem (w := (b.1, b.2.1)) (by rw [haddr]; exact hn) (List.mem_map.mpr ⟨b, hb, rfl⟩)
  · rw [hm']
    exact Memory.read_writeAll_of_not_mem (by rw [haddr]; exact hx)
  · obtain ⟨r, hr, -, -, hk⟩ := wordRuns_cover hb
    rw [hm', codeLoaded_bad]
    refine .inr ⟨r, hr, ?_, hk⟩
    rw [wordRuns_sick hr]
    exact List.any_eq_true.mpr ⟨b, hb, by simp [hk, hs]⟩
  · obtain ⟨r, hr, h1, h2⟩ := wordRuns_whole hn hall
    rw [hm', Bool.eq_false_iff, Ne, codeLoaded_bad]
    rintro (⟨-, hno⟩ | ⟨q, hq, hsick, hk⟩)
    · exact hno ⟨r, hr, h2, by omega⟩
    · rw [wordRuns_sick hq, List.any_eq_true] at hsick
      obtain ⟨b, hb, hbs⟩ := hsick
      rw [Bool.and_eq_true, beq_iff_eq, hk] at hbs
      rw [hs b hb hbs.1] at hbs
      cases hbs.2
  · have hno (r : Nat × List Byte × Bool) (hr : r ∈ wordRuns ws) : r.1 / 16 ≠ w := by
      obtain ⟨hne, hin⟩ := wordRuns_mem hr
      obtain ⟨-, v, hv, hv1, -⟩ := hin 0 (List.length_pos_iff.mpr hne)
      have := hw v.1 (List.mem_map.mpr ⟨v, hv, rfl⟩)
      rwa [hv1, Nat.add_zero] at this
    rw [hm', Bool.eq_iff_iff, codeLoaded_bad]
    constructor
    · rintro (⟨h, -⟩ | ⟨q, hq, -, hk⟩)
      · exact h
      · exact absurd hk (hno q hq)
    · exact fun h => .inl ⟨h, fun ⟨q, hq, _, hk⟩ => hno q hq hk⟩
  · obtain ⟨r, hr, -, -, hk⟩ := wordRuns_cover hb
    rw [hm']
    unfold codeLoaded
    simp only [List.contains_eq_mem, decide_eq_true_eq, List.mem_eraseDups, List.mem_append, List.mem_map]
    exact .inr ⟨_, ⟨r, hr, rfl⟩, by omega⟩

/-- The bytes that a fill writes, with their marks. -/
def filled (c : Card) (ms : List ByteMove) : List (Nat × Byte × Bool) := ms.map (fun m => (m.loc, m.src.value c.buf))

theorem filled_addrs (c : Card) (ms : List ByteMove) : (filled c ms).map (·.1) = ms.map (·.loc) := by
  unfold filled
  rw [List.map_map]
  rfl

theorem mem_filled {c : Card} {ms : List ByteMove} {m : ByteMove} (h : m ∈ ms) : (m.loc, m.src.value c.buf) ∈ filled c ms :=
  List.mem_map.mpr ⟨m, h, rfl⟩

theorem performGranule_fill (t : State) (c : Card) (ms : List ByteMove) : performGranule t c (.fill ms) =
    if c.op = .code then t.codeWrite c.core (filled c ms) else t.engineWrite c.core (filled c ms) := rfl

/-- What the engine holds is written to local bytes, or by a code load to IMEM; a word that takes a marked byte is poisoned. -/
theorem cardGranule_fill {s : State} {n k i : Nat} {unit : Bool} {c : Card} {ms : List ByteMove} (hc : s.cardAt n = some c)
    (hi : (if unit then nextUnit c else k) = i) (ho : s.cardOpen c = true) (hr : (Granule.fill ms).ready c = true)
    (hg : c.granules[i]? = some (.fill ms)) (hn : (ms.map (·.loc)).Nodup) :
    let b := s.settleSeen c
    let bad := fun (t : State) (w : Nat) =>
      if c.op = .code then (t.coreOf c.core).mem.imemBad.contains w else (t.coreOf c.core).mem.bad.contains w
    let byte := fun (t : State) (x : Nat) =>
      if c.op = .code then (t.coreOf c.core).mem.imem.read x else (t.coreOf c.core).mem.loc.read x
    let t := s.cardGranule n k unit
    b.memKept t ∧ t.cards = (b.putCard (c.without i)).cards ∧ (∀ m ∈ ms, byte t m.loc = (m.src.value c.buf).1) ∧
      (∀ x, x ∉ ms.map (·.loc) → byte t x = byte b x) ∧
      (∀ m ∈ ms, (m.src.value c.buf).2 = true → bad t (m.loc / 16) = true) ∧
      (∀ w, (∀ x, x / 16 = w → x ∈ ms.map (·.loc)) → (∀ m ∈ ms, m.loc / 16 = w → (m.src.value c.buf).2 = false) → bad t w = false) ∧
      (∀ w, (∀ x ∈ ms.map (·.loc), x / 16 ≠ w) → bad t w = bad b w) ∧
      (c.op = .code → (t.coreOf c.core).mem.loc = (b.coreOf c.core).mem.loc ∧
        ∀ m ∈ ms, (t.coreOf c.core).mem.codeLines.contains (m.loc / 64) = true) ∧
      (c.op ≠ .code → (t.coreOf c.core).mem.imem = (b.coreOf c.core).mem.imem) ∧
      (t.coreOf c.core).reg = (b.coreOf c.core).reg ∧ ∀ j, j ≠ c.core → t.coreOf j = b.coreOf j := by
  have hw := atWork_without hc i
  have hn' : ((filled c ms).map (·.1)).Nodup := by rw [filled_addrs]; exact hn
  have hsound {w : Nat} (h : ∀ m ∈ ms, m.loc / 16 = w → (m.src.value c.buf).2 = false) : ∀ b ∈ filled c ms, b.1 / 16 = w → b.2.2 = false := by
    intro b hb hk
    obtain ⟨m, hm, rfl⟩ := List.mem_map.mp hb
    exact h m hm hk
  have he := cardGranule_eq hc hi ho hr hg (.inl rfl)
  have hkept : c.err = 0 ∨ c.err ≠ 0 ∨ (c.op ≠ .atomic ∧ c.err ≠ 3) := (em _).imp_right .inl
  rw [performGranule_fill] at he
  intro b bad byte t
  have hb : (b.putCard (c.without i)).coreOf = b.coreOf := rfl
  by_cases hop : c.op = .code
  · rw [if_pos hop] at he
    obtain ⟨⟨hm, hcards, hreg, hloc, hcores⟩, hread, hother, hsick, hfine, hleft, hlines⟩ :=
      (b.putCard (c.without i)).codeWrite_spec c.core hn'
    rw [cardStops_of_kept (c := c) (atWork_of_cards hw hcards) rfl hkept] at he
    simp only [bad, byte, if_pos hop, t, he]
    rw [filled_addrs] at hother hfine hleft
    exact ⟨hm, hcards, fun m hm => hread _ (mem_filled hm), hother, fun m hm => hsick _ (mem_filled hm),
      fun w hall hs => hfine w hall (hsound hs), hleft, fun _ => ⟨hloc, fun m hm => hlines _ (mem_filled hm)⟩,
      fun hne => absurd hop hne, hreg, hcores⟩
  · rw [if_neg hop] at he
    obtain ⟨⟨hm, hcards, hreg, himem, hcores⟩, hread, hother, hsick, hfine, hleft⟩ :=
      (b.putCard (c.without i)).engineWrite_spec c.core hn'
    rw [cardStops_of_kept (c := c) (atWork_of_cards hw hcards) rfl hkept] at he
    simp only [bad, byte, if_neg hop, t, he]
    rw [filled_addrs] at hother hfine hleft
    exact ⟨hm, hcards, fun m hm => hread _ (mem_filled hm), hother, fun m hm => hsick _ (mem_filled hm),
      fun w hall hs => hfine w hall (hsound hs), hleft, fun h => absurd h hop, fun _ => himem, hreg, hcores⟩

end State

end Sys2Proof.Machine
end

section
/-! A granule of a card's work: the units of an atomic card (rules R97, R130, R131, R135, R139, R141). -/

namespace Sys2Proof.Machine
open Sys2Proof

namespace State

/-! ### A write behind those that its core has made -/

theorem joinLate_split (c : Card) (w : LateWrite) (early : Bool) (late : List LateWrite) :
    ∃ pre post, joinLate c w early late = pre ++ w :: post ∧ pre ++ post = late := by
  unfold joinLate
  dsimp only
  split
  · exact ⟨_, _, rfl, List.take_append_drop ..⟩
  · exact ⟨late, [], rfl, List.append_nil _⟩

/-- Once the writes that a core's accesses stand behind are performed, none is left on its link. -/
theorem behind_clears (s : State) (core granule : Nat) :
    ∀ x ∈ (s.behind core granule).late, s.onMyLink core granule x = false := by
  intro x hx
  by_contra hp
  rw [Bool.not_eq_false] at hp
  have hlink : x.link.isSome = true := by
    unfold onMyLink at hp
    simp only [Bool.and_eq_true] at hp
    exact hp.1.1
  exact performAll_clears s hlink hp hx

/-- Once what reads have taken of a granule is performed, no write of it on a link has been taken. -/
theorem performSeen_clears (s : State) (granule : Nat) : ∀ x ∈ (s.performSeen granule).late, x.link.isSome = true → x.granule = granule →
    x.seenBy.isEmpty = true := by
  intro x hx hlink hg
  by_contra hs
  exact performAll_clears s hlink (p := fun w => w.link.isSome && w.granule == granule && !w.seenBy.isEmpty)
    (by simp [hlink, hg, hs]) hx

theorem withEarlier_single {p : LateWrite → Bool} {w : LateWrite} {pre post : List LateWrite} (hp : p w = true)
    (hpre : ∀ x ∈ pre, p x = false ∧ ¬ (x.link.isSome = true ∧ w.link = x.link ∧ w.granule = x.granule))
    (hpost : ∀ x ∈ post, p x = false) : withEarlier p (pre ++ w :: post) = [w] := by
  induction pre with
  | nil =>
    rw [List.nil_append, withEarlier, withEarlier_of_none hpost]
    simp [hp]
  | cons x pre ih =>
    obtain ⟨hx, hne⟩ := hpre x List.mem_cons_self
    rw [List.cons_append, withEarlier, ih fun y hy => hpre y (List.mem_cons_of_mem _ hy)]
    rw [if_neg]
    simp only [hx, Bool.false_or, List.any_cons, List.any_nil, Bool.or_false, Bool.and_eq_true, beq_iff_eq]
    exact hne

section
variable {s : State} {w : LateWrite} {core g : Nat}

/-- A core's new write alone stands on its link: an access behind it performs it and no other. -/
theorem behind_of_joined {c : Card} {early : Bool} {late : List LateWrite} (hlate : s.late = joinLate c w early late)
    (hg : w.granule = g) (hsome : w.link.isSome = true) (hlink : w.link = s.linkOf (blockOf core) (64 * g))
    (hmine : ∀ x ∈ late, s.onMyLink core g x = false)
    (hseen : ∀ x ∈ late, x.link.isSome = true → x.granule = g → x.seenBy.isEmpty = true) : s.behind core g = s.performOne w := by
  obtain ⟨pre, post, hjoin, hsplit⟩ := joinLate_split c w early late
  rw [hjoin] at hlate
  have hin (x : LateWrite) (hx : x ∈ s.late) : x = w ∨ x ∈ late := by
    rw [hlate] at hx
    rw [← hsplit]
    simp only [List.mem_append, List.mem_cons] at hx ⊢
    tauto
  have hw : s.onMyLink core g w = true := by
    unfold onMyLink
    rw [hsome, hg, ← hlink]
    simp
  have hall : withEarlier (s.onMyLink core g) s.late = [w] := by
    rw [hlate]
    refine withEarlier_single hw (fun x hx => ?_) fun x hx => ?_
    · have hx := hmine x (by rw [← hsplit]; exact List.mem_append_left _ hx)
      refine ⟨hx, fun ⟨h1, h2, h3⟩ => ?_⟩
      unfold onMyLink at hx
      rw [h1, ← h2, ← h3, hg, ← hlink] at hx
      simp at hx
    · exact hmine x (by rw [← hsplit]; exact List.mem_append_right _ hx)
  have hfirst : (s.onLinks w.granule).filter (fun v => v.link != w.link && !v.seenBy.isEmpty) = [] := by
    rw [List.filter_eq_nil_iff]
    intro x hx hne
    obtain ⟨hm, hx⟩ := List.mem_filter.mp hx
    simp only [Bool.and_eq_true, beq_iff_eq] at hx
    rcases hin x hm with rfl | hm
    · simp at hne
    · simp [hseen x hm hx.1 (hx.2.trans hg)] at hne
  have hlate' : s.performLate w = s.performOne w := by
    unfold performLate
    rw [hfirst, List.foldl_nil, ite_self]
    exact if_pos (by rw [hlate]; simp)
  show (withEarlier (s.onMyLink core g) s.late).foldl performLate s = _
  rw [hall, List.foldl_cons, List.foldl_nil, hlate']

/-- With no link to take, an access stands behind nothing. -/
theorem behind_of_noLink (h : s.linkOf (blockOf core) (64 * g) = none) : s.behind core g = s := by
  have hnone : withEarlier (s.onMyLink core g) s.late = [] := by
    refine withEarlier_of_none fun x _ => ?_
    unfold onMyLink
    rw [h]
    rcases x.link with _ | l <;> simp
  show (withEarlier (s.onMyLink core g) s.late).foldl performLate s = s
  rw [hnone]
  rfl

theorem performOne_mem (h : w.link.isSome = true) : (s.performOne w).mem = s.mem.writeAll w.bytes := by
  have ha : (s.arrived w).mem = s.mem.writeAll w.bytes := by
    unfold arrived
    split
    · rfl
    · next hn =>
      rw [hn] at h
      cases h
  rw [performOne_eq]
  split
  · exact ha
  · rw [onCore_mem, ha]

end

/-- The links that cores take from a part. -/
def sameWays (s t : State) : Prop :=
  t.module.weft = s.module.weft ∧ t.module.wroute = s.module.wroute ∧ t.module.uller = s.module.uller

theorem linkOf_of_sameWays {s t : State} (h : s.sameWays t) (block a : Nat) : t.linkOf block a = s.linkOf block a := by
  obtain ⟨-, h2, h3⟩ := h
  unfold linkOf ullerOf weftPortOf
  rw [h2, h3]

theorem sameWays_of_module {s t : State} (h : t.module = s.module) : s.sameWays t := by
  unfold sameWays
  rw [h]
  exact ⟨rfl, rfl, rfl⟩

/-- An access that writes a granule at its home, behind the core's own writes: its bytes are there (rules R131, R139). -/
theorem acceptWrite_behind {s v : State} (c : Card) {g : Nat} (bytes : List (Nat × Byte)) (terms : List (Nat × Byte))
    (hmine : ∀ x ∈ v.late, v.onMyLink c.core g x = false)
    (hseen : ∀ x ∈ v.late, x.link.isSome = true → x.granule = g → x.seenBy.isEmpty = true)
    (hlate : s.late = v.late) (hways : v.sameWays s) :
    let t := (s.acceptWrite c g bytes none terms).behind c.core g
    t.mem = s.mem.writeAll bytes ∧ s.dataKept t ∧ t.cards = s.cards := by
  cases hl : s.linkOf (blockOf c.core) (64 * g) with
  | none =>
    obtain ⟨hmem, -, hdata, hcards, hmod⟩ := s.acceptWrite_home c g bytes none terms hl
    intro t
    have ht : t = s.acceptWrite c g bytes none terms := behind_of_noLink (by rw [linkOf_of_module hmod]; exact hl)
    rw [ht]
    exact ⟨hmem, hdata, hcards⟩
  | some l =>
    obtain ⟨⟨hmem, -, -⟩, hdata, hcards, hmod, early, hjoin⟩ := s.acceptWrite_link c g bytes none terms (by rw [hl]; rfl)
    rw [hlate] at hjoin
    have hlink : (s.acceptedWrite c g bytes none terms).link = some l := hl
    have hmine' : (s.acceptWrite c g bytes none terms).onMyLink c.core g = v.onMyLink c.core g := by
      funext x
      unfold onMyLink
      rw [linkOf_of_module hmod, linkOf_of_sameWays hways]
    intro t
    have ht : t = (s.acceptWrite c g bytes none terms).performOne (s.acceptedWrite c g bytes none terms) :=
      behind_of_joined hjoin rfl (by rw [hlink]; rfl) (by rw [linkOf_of_module hmod]; rfl) (by rw [hmine']; exact hmine) hseen
    have hperf := (s.acceptWrite c g bytes none terms).performOne_performed (s.acceptedWrite c g bytes none terms)
    rw [ht]
    refine ⟨?_, dataKept_trans hdata (performed_dataKept hperf), (performed_cards hperf).trans hcards⟩
    rw [performOne_mem (by rw [hlink]; rfl), hmem]
    rfl

end State

end Sys2Proof.Machine
end

section
/-! The units of an atomic card, one by one (rules R97, R127, R130, R131). -/

namespace Sys2Proof.Machine
open Sys2Proof

/-- The operand bytes of a unit, as the engine holds them, with their marks. -/
def heldOperands (c : Card) (u : AtomUnit) : List (Byte × Bool) := (u.operands c).map (fun a => heldByte c.buf (localKey a))

/-- The new value of a unit's bytes. -/
def atomResult (c : Card) (u : AtomUnit) (old : List Byte) : Nat :=
  let bs := (heldOperands c u).map (·.1)
  atomNew c.atop c.fmt u.size (ofBytes old) (ofBytes (if c.atop = 9 then bs.drop u.size else bs)) (ofBytes (bs.take u.size))

/-- The bytes that a unit returns. -/
def returnBytes (u : AtomUnit) (old : List Byte) (p : Bool) : List (Nat × Byte × Bool) :=
  match u.ret with
  | some r => (List.range u.size).map (fun j => (retKey (r + j), old.getD j 0, p))
  | none => []

namespace State

theorem onMyLink_of_module {s t : State} (h : t.module = s.module) (core g : Nat) : t.onMyLink core g = s.onMyLink core g := by
  funext x
  unfold onMyLink
  rw [linkOf_of_module h]

/-- The engine keeps what a unit returns. -/
def returning (s : State) (c : Card) (u : AtomUnit) (old : List Byte) (p : Bool) : State :=
  match u.ret with
  | none => s
  | some r => s.hold c.id ((List.range u.size).map (fun j => (retKey (r + j), old.getD j 0, p)))

theorem withCards_self (s : State) : s.withCards s.cards = s := rfl

theorem returning_atWork {b t : State} {c d : Card} (h : b.atWork t d) (hid : d.id = c.id) (u : AtomUnit) (old : List Byte) (p : Bool) :
    let v := t.returning c u old p
    b.atWork v (d.holding (returnBytes u old p)) ∧ v = t.withCards v.cards := by
  unfold returning returnBytes
  rcases u.ret with _ | r
  · have hd : d.holding [] = d := by
      unfold Card.holding
      rw [List.append_nil]
    refine ⟨?_, rfl⟩
    dsimp only
    rw [hd]
    exact h
  · dsimp only
    rw [← hid, hold_atWork h]
    exact ⟨atWork_put h rfl, rfl⟩

/-- The home's count of a unit's agents (rule R135). -/
def atomCounted (v : State) (c : Card) (u : AtomUnit) (sick : Bool) : State :=
  if sick || unitsLeft c (u.dpa / 64) ≤ 1 then v.countHome (rimUnit c.core) u.dpa else v

theorem countHome_frame (s : State) (u dpa : Nat) :
    s.countHome u dpa = { s with module := { s.module with counts := (s.countHome u dpa).module.counts } } := by
  unfold countHome
  split <;> rfl

theorem atomCounted_kept (v : State) (c : Card) (u : AtomUnit) (sick : Bool) : let t := v.atomCounted c u sick
    v.memKept t ∧ v.coresKept t ∧ t.late = v.late ∧ t.cards = v.cards ∧ v.sameWays t := by
  unfold atomCounted
  split
  · rw [countHome_frame]
    exact ⟨⟨rfl, rfl, rfl⟩, ⟨rfl, rfl⟩, rfl, rfl, rfl, rfl, rfl⟩
  · exact ⟨⟨rfl, rfl, rfl⟩, ⟨rfl, rfl⟩, rfl, rfl, rfl, rfl, rfl⟩

/-- A unit of an atomic card, applied behind what its core and other observers have taken. -/
theorem performGranule_atom {t v : State} {c : Card} {u : AtomUnit} (h : t.wayOpen u.dpa = true)
    (hv : (t.performSeen (u.dpa / 64)).behind c.core (u.dpa / 64) = v) :
    let g := u.dpa / 64
    let old := v.mem.readN u.dpa u.size
    let sick := v.poisoned u.dpa || (heldOperands c u).any (·.2)
    let s1 := v.atomCounted c u sick
    let new := toBytes u.size (atomResult c u old)
    performGranule t c (.atom u) =
      if v.poisoned u.dpa then ((s1.returning c u old true).cardFails c.id 1).homeError c.id u.dpa
      else if sick then s1.cardFails c.id 2
      else ((s1.acceptWrite c g (Machine.placed u.dpa new) none (Machine.placed u.va new)).behind c.core g).returning c u old false := by
  subst hv
  unfold performGranule
  dsimp only
  rw [h, Bool.not_true, if_neg Bool.false_ne_true]
  rfl

/-- An atomic card that stops: what it still writes is left. -/
def cutShort (d : Card) : Card := { d with granules := d.granules.filterMap (returned d) }

/-- After an error an atomic card applies no further unit. -/
theorem cardStops_atomic {b t : State} {c d : Card} {e : Nat} (h : b.atWork t d) (hid : d.id = c.id) (hop : c.op = .atomic)
    (he : d.err = if c.err = 0 then e else c.err) (hne : e ≠ 0) :
    let v := t.cardStops c
    v = t.withCards v.cards ∧ ∃ x, v.cardAt c.id = some x ∧ x.err = (if c.err = 0 then e else c.err) ∧
      (c.err = 0 → ∀ y, Granule.atom y ∉ x.granules) := by
  by_cases h0 : c.err = 0
  · have hd : d.err ≠ 0 := by rw [he, if_pos h0]; exact hne
    rw [cardStops_of_atomic h hid h0 hop hd]
    have hw : b.atWork (t.putCard (cutShort d)) (cutShort d) := atWork_put h rfl
    have hx : (t.putCard (cutShort d)).cardAt c.id = some (cutShort d) := by
      rw [← hid]
      exact atWork_cardAt hw
    exact ⟨rfl, _, hx, he, fun _ y => atom_not_returned d _ y⟩
  · rw [cardStops_of_kept h hid (.inr (.inl h0))]
    exact ⟨rfl, d, hid ▸ atWork_cardAt h, he, fun hc => absurd hc h0⟩

section
variable {s : State} {n k i : Nat} {unit : Bool} {c : Card} {u : AtomUnit} (hc : s.cardAt n = some c)
  (hi : (if unit then nextUnit c else k) = i) (ho : s.cardOpen c = true) (hr : (Granule.atom u).ready c = true)
  (hg : c.granules[i]? = some (.atom u)) (hu : i = nextUnit c)
include hc hi ho hr hg hu

/-- A dead way is an error of kind 3. -/
theorem cardGranule_atom_dead (hop : c.op = .atomic) (hway : s.wayOpen u.dpa = false) :
    let b := s.settleSeen c
    let t := s.cardGranule n k unit
    b.memKept t ∧ b.coresKept t ∧ ∃ x, t.cardAt n = some x ∧ x.err = (if c.err = 0 then 3 else c.err) ∧
      (c.err = 0 → ∀ y, Granule.atom y ∉ x.granules) := by
  intro b t
  obtain rfl := cardAt_id hc
  have hw := atWork_without hc i
  have hway' : (b.putCard (c.without i)).wayOpen u.dpa = false := by rw [wayOpen_settled]; exact hway
  have hfail : (b.putCard (c.without i)).cardFails c.id 3 = b.putCard ((c.without i).failed 3) :=
    (cardFails_atWork hw 3).trans (putCard_failed ..)
  have he : t = (b.putCard ((c.without i).failed 3)).cardStops c := by
    have := cardGranule_eq hc hi ho hr hg (.inr hu)
    rw [performGranule_atom_dead hway', hfail] at this
    exact this
  have hwf : b.atWork (b.putCard ((c.without i).failed 3)) ((c.without i).failed 3) := atWork_putCard hw.1
  obtain ⟨hframe, hx⟩ := cardStops_atomic (c := c) hwf rfl hop (e := 3) rfl (by decide)
  rw [← he] at hframe hx
  rw [hframe] at hx ⊢
  exact ⟨⟨rfl, rfl, rfl⟩, ⟨rfl, rfl⟩, hx⟩

section
variable (hway : s.wayOpen u.dpa = true)
include hway

theorem cardGranule_atom :
    let b := s.settleSeen c
    let g := u.dpa / 64
    let v := (b.performSeen g).behind c.core g
    let old := v.mem.readN u.dpa u.size
    let sick := v.poisoned u.dpa || (heldOperands c u).any (·.2)
    let s1 := (v.putCard (c.without i)).atomCounted c u sick
    let new := toBytes u.size (atomResult c u old)
    s.cardGranule n k unit =
      (if v.poisoned u.dpa then ((s1.returning c u old true).cardFails c.id 1).homeError c.id u.dpa
      else if sick then s1.cardFails c.id 2
      else ((s1.acceptWrite c g (Machine.placed u.dpa new) none (Machine.placed u.va new)).behind c.core g).returning c u old false).cardStops c ∧
    b.atWork s1 (c.without i) ∧ v.memKept s1 ∧ v.coresKept s1 ∧ s1.late = v.late ∧ v.sameWays s1 := by
  intro b g v old sick s1 new
  have hw := atWork_without hc i
  have hway' : (b.putCard (c.without i)).wayOpen u.dpa = true := by rw [wayOpen_settled]; exact hway
  have hv : ((b.putCard (c.without i)).performSeen g).behind c.core g = v.putCard (c.without i) := by
    rw [show (b.putCard (c.without i)).performSeen g = (b.performSeen g).putCard (c.without i) from
      besideCards_putCard (besideCards_performSeen g) _ _]
    exact besideCards_putCard (besideCards_behind c.core g) _ _
  have hcards : (v.putCard (c.without i)).cards = (b.putCard (c.without i)).cards :=
    putCard_cards ((besideCards_cards (besideCards_behind c.core g) _).trans (besideCards_cards (besideCards_performSeen g) _)) _
  obtain ⟨hm, hcores, hlate, hcs, hways⟩ := (v.putCard (c.without i)).atomCounted_kept c u sick
  refine ⟨?_, atWork_of_cards hw (hcs.trans hcards), hm, hcores, hlate, hways⟩
  have he := cardGranule_eq hc hi ho hr hg (.inr hu)
  rw [he]
  exact congrArg (·.cardStops c) (performGranule_atom hway' hv)

/-- A unit combines the old value and the operand. -/
theorem cardGranule_atom_sound :
    let b := s.settleSeen c
    let v := (b.performSeen (u.dpa / 64)).behind c.core (u.dpa / 64)
    let old := v.mem.readN u.dpa u.size
    let t := s.cardGranule n k unit
    v.poisoned u.dpa = false → (heldOperands c u).any (·.2) = false →
      v.dataKept t ∧ t.mem = v.mem.writeAll (Machine.placed u.dpa (toBytes u.size (atomResult c u old))) ∧
      t.cards = (b.putCard ((c.without i).holding (returnBytes u old false))).cards := by
  intro b v old t hp hs
  obtain ⟨he, hw, hm, hcores, hlate, hways⟩ := cardGranule_atom hc hi ho hr hg hu hway
  have hp' : State.poisoned (((s.settleSeen c).performSeen (u.dpa / 64)).behind c.core (u.dpa / 64)) u.dpa = false := hp
  simp only [hp', hs, Bool.or_false, Bool.false_eq_true, if_false] at he hw hm hcores hlate hways
  generalize ((((s.settleSeen c).performSeen (u.dpa / 64)).behind c.core (u.dpa / 64)).putCard (c.without i)).atomCounted c u
      false = s1 at he hw hm hcores hlate hways
  have hmine : ∀ x ∈ v.late, v.onMyLink c.core (u.dpa / 64) x = false := by
    have hmod : v.module = (b.performSeen (u.dpa / 64)).module := performed_module (performAll_performed ..)
    rw [onMyLink_of_module hmod]
    exact (b.performSeen (u.dpa / 64)).behind_clears c.core (u.dpa / 64)
  have hseen : ∀ x ∈ v.late, x.link.isSome = true → x.granule = u.dpa / 64 → x.seenBy.isEmpty = true :=
    fun x hx hl => performSeen_clears b (u.dpa / 64) x (performAll_mem (b.performSeen (u.dpa / 64)) _ hl hx) hl
  obtain ⟨hmem, hdata, hcards⟩ := acceptWrite_behind (s := s1) c (Machine.placed u.dpa (toBytes u.size (atomResult c u old)))
    (Machine.placed u.va (toBytes u.size (atomResult c u old))) hmine hseen hlate hways
  obtain ⟨hwr, hframe⟩ := returning_atWork (c := c) (atWork_of_cards hw hcards) rfl u old false
  have ht : t = State.returning ((s1.acceptWrite c (u.dpa / 64) (Machine.placed u.dpa (toBytes u.size (atomResult c u old))) none
      (Machine.placed u.va (toBytes u.size (atomResult c u old)))).behind c.core (u.dpa / 64)) c u old false :=
    he.trans (cardStops_of_kept (c := c) hwr rfl ((em _).imp_right .inl))
  rw [← ht] at hwr hframe
  refine ⟨?_, ?_, hwr.2⟩
  · rw [hframe]
    exact dataKept_trans (dataKept_of_cores hcores) hdata
  · rw [hframe]
    exact hmem.trans (by rw [hm.1])

/-- Over bytes beyond correction a unit changes none, and its card fails. -/
theorem cardGranule_atom_sick (hop : c.op = .atomic) :
    let b := s.settleSeen c
    let v := (b.performSeen (u.dpa / 64)).behind c.core (u.dpa / 64)
    let t := s.cardGranule n k unit
    v.poisoned u.dpa = true ∨ (heldOperands c u).any (·.2) = true →
      v.memKept t ∧ v.coresKept t ∧ ∃ x, t.cardAt n = some x ∧
        x.err = (if c.err = 0 then (if v.poisoned u.dpa then 1 else 2) else c.err) ∧ (c.err = 0 → ∀ y, Granule.atom y ∉ x.granules) := by
  intro b v t hbad
  obtain rfl := cardAt_id hc
  obtain ⟨he, hw, hm, hcores, -, -⟩ := cardGranule_atom hc hi ho hr hg hu hway
  cases hp : v.poisoned u.dpa with
  | true =>
    have hp' : State.poisoned (((s.settleSeen c).performSeen (u.dpa / 64)).behind c.core (u.dpa / 64)) u.dpa = true := hp
    simp only [hp', Bool.true_or, if_true] at he hw hm hcores
    generalize ((((s.settleSeen c).performSeen (u.dpa / 64)).behind c.core (u.dpa / 64)).putCard (c.without i)).atomCounted c u
      true = s1 at he hw hm hcores
    obtain ⟨hwr, hframe⟩ := returning_atWork (c := c) hw rfl u (v.mem.readN u.dpa u.size) true
    generalize hd : (c.without i).holding (returnBytes u (v.mem.readN u.dpa u.size) true) = d at hwr
    generalize hs2 : s1.returning c u (v.mem.readN u.dpa u.size) true = s2 at hwr hframe
    have hid : c.id = d.id := by rw [← hd]; rfl
    have hwf : b.atWork (s2.putCard (d.failed 1)) (d.failed 1) := atWork_put hwr rfl
    have hwm : b.atWork (((s2.putCard (d.failed 1)).logHome (u.dpa / 64)).putCard ((d.failed 1).marking u.dpa)) ((d.failed 1).marking u.dpa) :=
      atWork_put (atWork_of_cards hwf (logHome_cards ..)) rfl
    have ht : t = (((s2.putCard (d.failed 1)).logHome (u.dpa / 64)).putCard ((d.failed 1).marking u.dpa)).cardStops c := by
      have h1 : s2.cardFails c.id 1 = s2.putCard (d.failed 1) := by rw [hid, cardFails_atWork hwr]
      have h2 : (s2.putCard (d.failed 1)).homeError c.id u.dpa =
          ((s2.putCard (d.failed 1)).logHome (u.dpa / 64)).putCard ((d.failed 1).marking u.dpa) := by
        rw [hid]
        exact homeError_atWork hwf u.dpa
      rw [← h2, ← h1, ← hs2]
      exact he
    obtain ⟨hst, hx⟩ := cardStops_atomic (c := c) hwm hid.symm hop (e := 1) (by rw [← hd]; rfl) (by decide)
    rw [← ht] at hst hx
    obtain ⟨lm, lc, -⟩ := (s2.putCard (d.failed 1)).logHome_kept (u.dpa / 64)
    obtain ⟨m1, m2, m3⟩ : v.memKept s2 := by rw [hframe]; exact hm
    obtain ⟨c1, c2⟩ : v.coresKept s2 := by rw [hframe]; exact hcores
    generalize (s2.putCard (d.failed 1)).logHome (u.dpa / 64) = w at lm lc hst
    refine ⟨?_, ?_, hx⟩
    · rw [hst]
      exact ⟨lm.1.trans m1, lm.2.1.trans m2, lm.2.2.trans m3⟩
    · rw [hst]
      exact ⟨lc.1.trans c1, lc.2.trans c2⟩
  | false =>
    have hp' : State.poisoned (((s.settleSeen c).performSeen (u.dpa / 64)).behind c.core (u.dpa / 64)) u.dpa = false := hp
    have hs : (heldOperands c u).any (·.2) = true := by
      rcases hbad with h | h
      · rw [hp] at h
        cases h
      · exact h
    simp only [hp', hs, Bool.or_true, Bool.false_eq_true, if_false, if_true] at he hw hm hcores
    generalize ((((s.settleSeen c).performSeen (u.dpa / 64)).behind c.core (u.dpa / 64)).putCard (c.without i)).atomCounted c u
      true = s1 at he hw hm hcores
    have hwf : b.atWork (s1.putCard ((c.without i).failed 2)) ((c.without i).failed 2) := atWork_put hw rfl
    have ht : t = (s1.putCard ((c.without i).failed 2)).cardStops c := by
      have h1 : s1.cardFails c.id 2 = s1.putCard ((c.without i).failed 2) := cardFails_atWork hw 2
      rw [← h1]
      exact he
    obtain ⟨hst, hx⟩ := cardStops_atomic (c := c) hwf rfl hop (e := 2) rfl (by decide)
    rw [← ht] at hst hx
    refine ⟨?_, ?_, hx⟩
    · rw [hst]
      exact hm
    · rw [hst]
      exact hcores

end
end

end State

end Sys2Proof.Machine
end

section
/-! The end of a card: its token, its error, and the retirement of its group (rules R38, R107, R122, R127). -/

namespace Sys2Proof.Machine
open Sys2Proof

theorem Regs.getTok_setTok (r : Regs) {k : Nat} (hk : k < 8) (x : Tok) : (r.setTok k x).getTok k = x := by
  simp [Regs.getTok, Regs.setTok, hk]

theorem Regs.getTok_setTok_ne (r : Regs) {j k : Nat} (h : j ≠ k) (x : Tok) : (r.setTok k x).getTok j = r.getTok j := by
  unfold Regs.getTok Regs.setTok
  dsimp only
  split
  · rw [Vector.getElem_setIfInBounds_ne _ h.symm]
  · rfl

namespace State

/-- Beside one core and the bookkeeping of contexts nothing has changed. -/
structure coreOnly (k : Nat) (s t : State) : Prop where
  memory : s.memKept t
  late : t.late = s.late
  cards : t.cards = s.cards
  others : ∀ j, j ≠ k → t.coreOf j = s.coreOf j

theorem coreOnly.trans {k : Nat} {s t u : State} (h : s.coreOnly k t) (g : t.coreOnly k u) : s.coreOnly k u := by
  obtain ⟨h1, h2, h3⟩ := h.memory
  obtain ⟨g1, g2, g3⟩ := g.memory
  exact ⟨⟨g1.trans h1, g2.trans h2, g3.trans h3⟩, g.late.trans h.late, g.cards.trans h.cards, fun j hj => (g.others j hj).trans (h.others j hj)⟩

theorem onCore_coreOnly (s : State) (k : Nat) {f : Core → Core} (hf : ∀ c, (f c).idx = c.idx) :
    s.coreOnly k (s.onCore k f) ∧ (s.onCore k f).coreOf k = f (s.coreOf k) := by
  have hcore := s.coreOf_onCore k f hf
  refine ⟨⟨s.putCore_memKept _, s.onCore_late k f, s.putCore_cards _, fun j hj => ?_⟩, ?_⟩
  · rw [hcore, if_neg (Ne.symm hj)]
  · rw [hcore, if_pos rfl]

/-- Cards that retire count in their TLB entries no more: of the core its bookkeeping alone changes. -/
theorem uncount_coreOnly (s : State) (k : Nat) (es : List Nat) : s.coreOnly k (s.uncount k es) ∧
    (s.uncount k es).coreOf k = { s.coreOf k with aux := ((s.uncount k es).coreOf k).aux } := by
  obtain ⟨h, hcore⟩ := s.onCore_coreOnly k (f := fun c =>
    let less := c.aux.tlb.map (fun e => { e with count := e.count - (es.filter (· == e.id)).length })
    { c with aux := { c.aux with tlb := less.filter (fun e => !(e.dying && e.count == 0 && e.pins == 0)) } }) (fun _ => rfl)
  refine ⟨h, ?_⟩
  change (s.uncount k es).coreOf k = _ at hcore
  rw [hcore]

theorem foldl_uncount_coreOnly (k : Nat) (xs : List Card) (s : State) :
    let t := xs.foldl (fun s x => s.uncount k x.pages) s
    s.coreOnly k t ∧ t.coreOf k = { s.coreOf k with aux := (t.coreOf k).aux } := by
  refine List.foldlRecOn (motive := fun t : State => s.coreOnly k t ∧ t.coreOf k = { s.coreOf k with aux := (t.coreOf k).aux }) _ _
    ⟨⟨⟨rfl, rfl, rfl⟩, rfl, rfl, fun _ _ => rfl⟩, rfl⟩ fun t ⟨ht, htc⟩ x _ => ?_
  obtain ⟨h, hc⟩ := t.uncount_coreOnly k x.pages
  exact ⟨ht.trans h, by rw [hc, htc]⟩

/-- The record of a card's error (rule R127). -/
def errorRecorded (s : State) (c : Card) : State := if c.err = 0 then s else s.dataError c.core c.op.num c.err c.pt c.handle

theorem errorRecorded_coreOnly (s : State) (c : Card) : s.coreOnly c.core (s.errorRecorded c) ∧
    (s.errorRecorded c).coreOf c.core = { s.coreOf c.core with sys := { (s.coreOf c.core).sys with
      carderr := if c.err = 0 then (s.coreOf c.core).sys.carderr
        else cardErrAdd (s.coreOf c.core).sys.carderr c.op.num c.err c.pt c.handle } } := by
  unfold errorRecorded
  by_cases h0 : c.err = 0
  · simp only [if_pos h0]
    exact ⟨⟨⟨rfl, rfl, rfl⟩, rfl, rfl, fun _ _ => rfl⟩, trivial⟩
  · simp only [if_neg h0]
    exact s.onCore_coreOnly c.core (fun _ => rfl)

/-- The cards of a group. -/
def groupOf (s : State) (c : Card) : List Card := s.cards.filter (fun x => x.core == c.core && x.group == c.group)

theorem mem_groupOf {s : State} {c x : Card} : x ∈ s.groupOf c ↔ x ∈ s.cards ∧ x.core = c.core ∧ x.group = c.group := by
  simp [groupOf]

/-- A card waits for a group that has retired no more, and fails with it (rules R107, R123). -/
def afterGroup (cycle : Nat) (c : Card) (failed : Bool) (x : Card) : Card :=
  if x.core = c.core && x.edges.contains c.group then
    let es := x.edges.filter (· != c.group)
    let dead := failed && !x.ended
    { x with
      edges := es
      err := if dead && x.err = 0 then 4 else x.err
      granules := if dead then [] else x.granules
      startAt := if es.isEmpty || dead then some (x.startAt.getD cycle) else x.startAt
      endAt := if dead then some (x.endAt.getD (cycle + 2))
        else if es.isEmpty && x.granules.isEmpty then some (x.endAt.getD (cycle + 2)) else x.endAt }
  else x

theorem afterGroup_names (cycle : Nat) (c : Card) (failed : Bool) (x : Card) :
    (afterGroup cycle c failed x).core = x.core ∧ (afterGroup cycle c failed x).group = x.group := by
  unfold afterGroup
  split <;> exact ⟨rfl, rfl⟩

/-- The blocks of cards that end are marked for retirement with the context (rule R374). -/
def blocksMarked (s : State) (k : Nat) (blocks : List Nat) : State :=
  match s.ctxOf k with
  | some (p, _) => s.onCtx p (fun x => { x with badBlocks := (x.badBlocks ++ blocks).eraseDups })
  | none => s

theorem blocksMarked_kept (s : State) (k : Nat) (blocks : List Nat) : let t := s.blocksMarked k blocks
    s.memKept t ∧ s.coresKept t ∧ t.late = s.late ∧ t.cards = s.cards := by
  unfold blocksMarked
  split <;> exact ⟨⟨rfl, rfl, rfl⟩, ⟨rfl, rfl⟩, rfl, rfl⟩

/-- The token of a card leaves pending, and the cores of its group's cards no longer count them. -/
def tokenLeaves (s : State) (c : Card) (tok : Tok) : State :=
  ((s.groupOf c).foldl (fun s x => s.uncount c.core x.pages) (s.onCore c.core (fun k => { k with reg := k.reg.setTok c.pt tok }))).blocksMarked
    c.core ((s.groupOf c).flatMap (·.poisonedBlocks))

theorem tokenLeaves_coreOnly (s : State) (c : Card) (tok : Tok) : let t := s.tokenLeaves c tok
    s.coreOnly c.core t ∧ (t.coreOf c.core).mem = (s.coreOf c.core).mem ∧ (t.coreOf c.core).sys = (s.coreOf c.core).sys ∧
      (t.coreOf c.core).reg = (s.coreOf c.core).reg.setTok c.pt tok := by
  obtain ⟨h3, c3⟩ := s.onCore_coreOnly c.core (f := fun k => { k with reg := k.reg.setTok c.pt tok }) (fun _ => rfl)
  unfold tokenLeaves
  generalize s.onCore c.core (fun k => { k with reg := k.reg.setTok c.pt tok }) = s3 at h3 c3
  obtain ⟨h4, c4⟩ := s3.foldl_uncount_coreOnly c.core (s.groupOf c)
  generalize (s.groupOf c).foldl (fun s x => s.uncount c.core x.pages) s3 = s4 at h4 c4
  obtain ⟨m5, k5, l5, cs5⟩ := s4.blocksMarked_kept c.core ((s.groupOf c).flatMap (·.poisonedBlocks))
  have h5 : s4.coreOnly c.core (s4.blocksMarked c.core ((s.groupOf c).flatMap (·.poisonedBlocks))) :=
    ⟨m5, l5, cs5, fun j _ => coreOf_of_coresKept k5 j⟩
  refine ⟨(h3.trans h4).trans h5, ?_, ?_, ?_⟩
  · rw [coreOf_of_coresKept k5, c4, c3]
  · rw [coreOf_of_coresKept k5, c4, c3]
  · rw [coreOf_of_coresKept k5, c4, c3]

/-- The cards of a group retire. -/
def groupRetires (s : State) (cycle : Nat) (c : Card) (tok : Tok) : State :=
  { s with cards := (s.cards.filter (fun x => !(x.core == c.core && x.group == c.group))).map (afterGroup cycle c (tok == .error)) }

theorem groupRetires_cards (s : State) (cycle : Nat) (c : Card) (tok : Tok) :
    ∀ x ∈ (s.groupRetires cycle c tok).cards, ¬ (x.core = c.core ∧ x.group = c.group) := by
  intro x hx
  obtain ⟨y, hy, rfl⟩ := List.mem_map.mp hx
  obtain ⟨h1, h2⟩ := afterGroup_names cycle c (tok == .error) y
  have := (List.mem_filter.mp hy).2
  rw [h1, h2]
  rintro ⟨hcore, hgroup⟩
  simp [hcore, hgroup] at this

/-- What a card's end leaves of its group's token. -/
def endToken (s : State) (c : Card) : Tok := if (s.groupOf c).any (fun x => x.err != 0) then .error else .done

theorem endCard_eq {s : State} {n : Nat} {c : Card} (hc : s.cardAt n = some c) : s.endCard n =
    let s2 := (s.putCard { c with ended := true }).errorRecorded c
    if (s2.groupOf c).all (·.ended) then (s2.tokenLeaves c (s2.endToken c)).groupRetires s.cycle c (s2.endToken c) else s2 := by
  unfold endCard
  rw [hc]
  rfl

section
variable {s : State} {n : Nat} {c : Card} (hc : s.cardAt n = some c)
  (hall : ∀ x ∈ s.cards, x.core = c.core → x.group = c.group → x.id ≠ c.id → x.ended = true)
include hc hall

/-- The last card of a group ends: its error is recorded, its token leaves pending and the group retires. -/
theorem endCard_last {tok : Tok} (htok : ((s.putCard { c with ended := true }).errorRecorded c).endToken c = tok) :
    let t := s.endCard n
    s.memKept t ∧ t.late = s.late ∧ (t.coreOf c.core).mem = (s.coreOf c.core).mem ∧
      (t.coreOf c.core).reg = (s.coreOf c.core).reg.setTok c.pt tok ∧
      (t.coreOf c.core).sys.carderr = (if c.err = 0 then (s.coreOf c.core).sys.carderr
        else cardErrAdd (s.coreOf c.core).sys.carderr c.op.num c.err c.pt c.handle) ∧
      (∀ x ∈ t.cards, ¬ (x.core = c.core ∧ x.group = c.group)) ∧ ∀ j, j ≠ c.core → t.coreOf j = s.coreOf j := by
  obtain ⟨h2, c2⟩ := (s.putCard { c with ended := true }).errorRecorded_coreOnly c
  have he := endCard_eq hc
  dsimp only at he
  rw [htok] at he
  generalize (s.putCard { c with ended := true }).errorRecorded c = s2 at *
  have hended : (s2.groupOf c).all (·.ended) = true := by
    rw [List.all_eq_true]
    intro x hx
    obtain ⟨hx, hcore, hgroup⟩ := mem_groupOf.mp hx
    rw [h2.cards] at hx
    rcases mem_putCard hx with rfl | ⟨hx, hid⟩
    · rfl
    · exact hall x hx hcore hgroup hid
  rw [if_pos hended] at he
  obtain ⟨h3, hmem, hsys, hreg⟩ := s2.tokenLeaves_coreOnly c tok
  obtain ⟨hm, hlate, -, hothers⟩ := h2.trans h3
  rw [he]
  refine ⟨hm, hlate, ?_, ?_, ?_, groupRetires_cards _ _ _ _, hothers⟩
  · exact hmem.trans (by rw [c2]; rfl)
  · exact hreg.trans (by rw [c2]; rfl)
  · exact (congrArg (·.carderr) hsys).trans (by rw [c2])

omit hall in
/-- A card that ends in error leaves its token in error. -/
theorem endToken_of_error (h : c.err ≠ 0) : ((s.putCard { c with ended := true }).errorRecorded c).endToken c = .error := by
  have hcards := ((s.putCard { c with ended := true }).errorRecorded_coreOnly c).1.cards
  have hin : s.inFlight { c with ended := true } := inFlight_of_cardAt hc rfl
  have hmem : { c with ended := true } ∈ (s.putCard { c with ended := true }).cards := List.mem_of_find?_eq_some (cardAt_putCard hin)
  rw [← hcards] at hmem
  have hgroup := (mem_groupOf (c := c)).mpr ⟨hmem, rfl, rfl⟩
  unfold endToken
  exact if_pos (List.any_eq_true.mpr ⟨_, hgroup, by simpa using h⟩)

omit hc hall in
/-- A group all of whose cards have ended without error leaves its token done. -/
theorem endToken_of_done (h : c.err = 0) (hgood : ∀ x ∈ s.cards, x.core = c.core → x.group = c.group → x.id ≠ c.id → x.err = 0) :
    ((s.putCard { c with ended := true }).errorRecorded c).endToken c = .done := by
  have hcards := ((s.putCard { c with ended := true }).errorRecorded_coreOnly c).1.cards
  unfold endToken
  rw [if_neg]
  rw [Bool.not_eq_true, List.any_eq_false]
  intro x hx
  obtain ⟨hx, hcore, hgroup⟩ := mem_groupOf.mp hx
  rw [hcards] at hx
  rcases mem_putCard hx with rfl | ⟨hx, hid⟩
  · simpa using h
  · simpa using hgood x hx hcore hgroup hid

end

end State

end Sys2Proof.Machine
end

section
/-! Card work (rules R60, R67, R97, R107, R122, R127, R130, R131, R139, R140, R370, R417). -/

namespace Sys2Proof.Machine
open Sys2Proof

namespace State

theorem heldOperands_eq (c : Card) (u : AtomUnit) : heldOperands c u =
    (List.range (if c.atop = 9 then 2 * u.size else u.size)).map (fun j => heldByte c.buf (localKey (canon (u.loc + j)))) := by
  unfold heldOperands AtomUnit.operands
  rw [List.map_map]
  rfl

/-- A write of a range, read byte by byte. -/
theorem read_placed (m : Memory) (a x : Nat) (bs : List Byte) : (m.writeAll (Machine.placed a bs)).read x =
    if a ≤ x ∧ x < a + bs.length then bs.getD (x - a) 0 else m.read x := by
  rw [Memory.read_writeAll, ← Memory.read_write_placed, Memory.read_write]

/-- A card that is due ends: its writes are performed at its scope first (rule R140). -/
theorem execCardEnd_due {s : State} {c : Card} (hc : s.cardAt s.arg.n = some c) (hd : s.cardDue c = true) :
    exec .cardEnd s = .next ((s.performAt c.id c.scope).endCard c.id) := by
  show Host.Outcome.next (match s.cardAt s.arg.n with
    | some c => if s.cardDue c then (s.performAt c.id c.scope).endCard c.id else s
    | none => s) = _
  rw [hc]
  dsimp only
  rw [if_pos hd]

theorem performAt_performed (s : State) (id scope : Nat) : s.performed (s.performAt id scope) :=
  performed_trans (performAll_performed ..) (performAll_performed ..)

/-- Work that meets a dead way: the card fails with kind 3, and stops (rules R97, R127). -/
theorem cardGranule_deadWay {s : State} {n k i : Nat} {unit : Bool} {c : Card} {g : Granule} (hc : s.cardAt n = some c)
    (hi : (if unit then nextUnit c else k) = i) (ho : s.cardOpen c = true) (hr : g.ready c = true) (hg : c.granules[i]? = some g)
    (hu : g.isUnit = false) (hop : c.op ≠ .atomic)
    (hdead : performGranule ((s.settleSeen c).putCard (c.without i)) c g = ((s.settleSeen c).putCard (c.without i)).cardFails c.id 3) :
    s.cardGranule n k unit = (s.settleSeen c).putCard
      { (c.without i).failed 3 with granules := if c.err = 0 then [] else (c.without i).granules } := by
  rw [cardGranule_eq hc hi ho hr hg (.inl hu), hdead, cardStops_deadWay (atWork_without hc i) hop]

section
variable {s : State} {n : Nat} {c : Card} (hc : s.cardAt n = some c)
  (hothers : ∀ x ∈ s.cards, x.core = c.core → x.group = c.group → x.id ≠ c.id → x.ended = true)
include hc hothers

/-- The end of the last card of a group, once its writes are performed at its scope. -/
theorem endCard_performed {tok : Tok}
    (htok : (((s.performAt c.id c.scope).putCard { c with ended := true }).errorRecorded c).endToken c = tok) (hpt : c.pt < 8) :
    let p := s.performAt c.id c.scope
    let t := p.endCard c.id
    p.memKept t ∧ t.late = p.late ∧ (t.coreOf c.core).mem = (s.coreOf c.core).mem ∧
      (t.coreOf c.core).reg = (s.coreOf c.core).reg.setTok c.pt tok ∧ (t.coreOf c.core).reg.getTok c.pt = tok ∧
      (∀ j, j ≠ c.pt → (t.coreOf c.core).reg.getTok j = (s.coreOf c.core).reg.getTok j) ∧
      (t.coreOf c.core).sys.carderr = (if c.err = 0 then (s.coreOf c.core).sys.carderr
        else cardErrAdd (s.coreOf c.core).sys.carderr c.op.num c.err c.pt c.handle) ∧
      (∀ x ∈ t.cards, ¬ (x.core = c.core ∧ x.group = c.group)) ∧ ∀ j, j ≠ c.core → t.coreOf j = p.coreOf j := by
  have hperf := s.performAt_performed c.id c.scope
  have hcards := performed_cards hperf
  have hsigned := hperf.2.2 c.core
  have hcp : (s.performAt c.id c.scope).cardAt c.id = some c := by rw [cardAt_cards hcards, cardAt_id hc, hc]
  obtain ⟨hm, hlate, hmem, hreg, herr, hgone, hcores⟩ := endCard_last hcp (by rw [hcards]; exact hothers) htok
  have hreg' := hreg.trans (show _ = (s.coreOf c.core).reg.setTok c.pt tok by rw [hsigned])
  refine ⟨hm, hlate, hmem.trans (by rw [hsigned]), hreg', ?_, fun j hj => ?_, herr.trans (by rw [hsigned]), hgone, hcores⟩
  · rw [hreg', Regs.getTok_setTok _ hpt]
  · rw [hreg', Regs.getTok_setTok_ne _ hj]

end

theorem cardOpNum_lt (o : CardOp) : o.num < 8 := by cases o <;> decide

end State

/-- Settles O37: each kind of work and each way that a card ends, by its own lemma. -/
theorem cardWorkCompletes : Obligations.CardWorkCompletes := by
  unfold Obligations.CardWorkCompletes
  intro s c hc k i b rest loc sick next turn fails link a0 held
  have hi : (if (s.arg.sel == 1) = true then State.nextUnit c else s.arg.m) = i := by
    simp only [beq_iff_eq]
    rfl
  have hexec (t : State) (ht : s.cardGranule s.arg.n s.arg.m (s.arg.sel == 1) = t) : exec .cardGranule s = .next t :=
    congrArg Host.Outcome.next ht
  have hlink (a : Nat) : s.linkOf (blockOf c.core) (64 * (a / 64)) = link a := rfl
  refine ⟨fun ds ht => ?_, fun ls ht => ?_, fun ms ht hn => ?_, fun ms ht hway hn => ?_, fun a e he => ?_, fun u ht hop hu => ?_,
    fun ds hnext hop hdead => ?_, fun ms hnext hop hdead => ?_, fun u hnext hu hop hdead => ?_, fun ho => ?_, fun g hg hr => ?_,
    fun u hg hu => ?_, fun hdue herr hpt hothers => ?_, fun hdue herr hkind hpt hhandle hothers => ?_, fun hdue => ?_⟩
  · obtain ⟨⟨ho, hr, hg⟩, hway⟩ := ht
    intro g v bad r d
    refine ⟨fun hbad => hexec _ ?_, fun hbad hop => ?_⟩
    · rw [State.cardGranule_fetch_sound hc hi ho hg hway hbad]
      show _ = r.putCard { rest with buf := c.buf ++ ds.map (fun a => (a, v.mem.read a, bad)) }
      rw [hbad]
      rfl
    · obtain ⟨hm, hcores, hlate, hcards⟩ := State.cardGranule_fetch_bad hc hi ho hg hway hop hbad
      refine ⟨_, hexec _ rfl, hm, State.dataKept_of_cores hcores, hlate, hcards.trans ?_⟩
      show _ = (r.putCard { rest with
        buf := c.buf ++ ds.map (fun a => (a, v.mem.read a, bad)), err := fails 1
        poisonedBlocks := ds.headD 0 / 2 ^ 17 :: c.poisonedBlocks }).cards
      rw [hbad]
      rfl
  · obtain ⟨⟨ho, hr, hg⟩, -⟩ := ht
    obtain ⟨hm, hdata, hcards, hcores⟩ := State.cardGranule_take hc hi ho hg
    refine ⟨_, hexec _ rfl, hm, hdata, hcards.trans ?_, hcores⟩
    by_cases h : c.op ≠ .atomic ∧ ls.any sick = true
    · rw [if_pos h]
      exact (congrArg (fun n => (b.putCard { rest with
        buf := c.buf ++ ls.map (fun a => (localKey a, loc b a, sick a)), err := n }).cards) (if_pos h)).symm
    · rw [if_neg h]
      exact (congrArg (fun n => (b.putCard { rest with
        buf := c.buf ++ ls.map (fun a => (localKey a, loc b a, sick a)), err := n }).cards) (if_neg h)).symm
  · obtain ⟨⟨ho, hr, hg⟩, -⟩ := ht
    obtain ⟨hm, hcards, h1, h2, h3, h4, h5, h6, h7, hreg, hcores⟩ := State.cardGranule_fill hc hi ho hr hg hn
    refine ⟨_, hexec _ rfl, hm, hcards, h1, h2, h3, h4, h5, h6, h7, hreg.trans ?_, hcores⟩
    exact (State.performed_dataKept (s.settleSeen_performed c) c.core).1
  · obtain ⟨⟨ho, hr, hg⟩, -⟩ := ht
    intro bad signs
    have hrec : (b.putCard (if bad then (c.without i).marking (a0 ms) else c.without i)).cards =
        (b.putCard { rest with poisonedBlocks := if bad then a0 ms / 2 ^ 17 :: c.poisonedBlocks else c.poisonedBlocks }).cards := by
      cases bad <;> rfl
    cases hl : link (a0 ms) with
    | none =>
      obtain ⟨hdata, hcards, hread, hother, hmark, hmarks⟩ := State.cardGranule_put_home hc hi ho hr hg hway hn hl
      exact ⟨_, hexec _ rfl, hdata, hcards.trans hrec, fun _ => ⟨hread, hother, hmark, hmarks⟩, nofun⟩
    | some l =>
      obtain ⟨hdata, hcards, hm, early, hlate⟩ := State.cardGranule_put_link hc hi ho hr hg hway hn
        (show (link (a0 ms)).isSome = true by rw [hl]; rfl)
      exact ⟨_, hexec _ rfl, hdata, hcards.trans hrec, nofun, fun _ => ⟨hm, _, early, hlate, rfl, rfl, rfl, rfl, rfl, hl, rfl, rfl, rfl, rfl⟩⟩
  · show heldByte c.buf a = e.2
    unfold heldByte
    rw [he]
    rfl
  · obtain ⟨⟨ho, hr, hg⟩, hway⟩ := ht
    have hway' : s.wayOpen u.dpa = true := hway _ (List.mem_singleton.mpr rfl)
    intro n ops bs v old new back
    have hops : heldOperands c u = ops := State.heldOperands_eq c u
    have hnew : atomResult c u old = new := by
      unfold atomResult
      rw [hops]
    refine ⟨fun hp hs => ?_, fun hbad => ?_⟩
    · obtain ⟨hdata, hmem, hcards⟩ := State.cardGranule_atom_sound hc hi ho hr hg hu hway' hp (by rw [hops]; exact hs)
      have hread (x : Nat) := congrArg (·.read x) hmem
      simp only [State.read_placed, length_toBytes] at hread
      refine ⟨_, hexec _ rfl, hdata, fun j hj => ?_, fun x hx => ?_, hcards⟩
      · rw [hread, if_pos (by omega), Nat.add_sub_cancel_left]
        exact congrArg (fun y => (toBytes u.size y).getD j 0) hnew
      · rw [hread, if_neg (by omega)]
    · obtain ⟨hm, hcores, x, hx, herr, hatoms⟩ := State.cardGranule_atom_sick hc hi ho hr hg hu hway' hop (by rw [hops]; exact hbad)
      exact ⟨_, x, hexec _ rfl, hm, State.dataKept_of_cores hcores, hx, herr, hatoms⟩
  · obtain ⟨ho, hr, hg⟩ := hnext
    obtain ⟨a, ha, hway⟩ := hdead
    exact hexec _ (State.cardGranule_deadWay hc hi ho hr hg rfl hop
      (State.performGranule_fetch_dead ⟨a, ha, (State.wayOpen_settled ..).trans hway⟩))
  · obtain ⟨ho, hr, hg⟩ := hnext
    exact hexec _ (State.cardGranule_deadWay hc hi ho hr hg rfl hop
      (State.performGranule_put_dead ((State.wayOpen_settled ..).trans hdead)))
  · obtain ⟨ho, hr, hg⟩ := hnext
    obtain ⟨hm, hcores, x, hx⟩ := State.cardGranule_atom_dead hc hi ho hr hg hu hop hdead
    exact ⟨_, x, hexec _ rfl, hm, hcores, hx⟩
  · exact hexec _ (State.cardGranule_of_closed hc hi ho)
  · exact hexec _ (State.cardGranule_of_idle hc hi hg (.inr (.inl hr)))
  · exact hexec _ (State.cardGranule_of_idle hc hi hg (.inr (.inr ⟨rfl, hu⟩)))
  · intro p
    have hp : p.cards = s.cards := State.performed_cards (s.performAt_performed c.id c.scope)
    obtain ⟨hm, hlate, hmem, hreg, htok, hkeep, -, hgone, hcores⟩ := State.endCard_performed hc
      (fun x hx h1 h2 h3 => (hothers x hx h1 h2 h3).1)
      (State.endToken_of_done herr fun x hx h1 h2 h3 => (hothers x (hp ▸ hx) h1 h2 h3).2) hpt
    refine ⟨_, State.execCardEnd_due hc hdue, hm, hmem, ?_, hreg, htok, hkeep, hgone, hcores⟩
    rw [hlate]
    exact s.performAt_clears c.id c.scope
  · intro p e
    have hcp : p.cardAt c.id = some c := by
      rw [State.cardAt_cards (State.performed_cards (s.performAt_performed c.id c.scope)), State.cardAt_id hc, hc]
    obtain ⟨hm, -, hmem, hreg, htok, hkeep, hcard, hgone, hcores⟩ := State.endCard_performed hc hothers
      (State.endToken_of_error hcp herr) hpt
    rw [if_neg herr] at hcard
    obtain ⟨hv, hcount, hfields, hfirst⟩ := cardErrAdd_fields (s.coreOf c.core).sys.carderr (State.cardOpNum_lt c.op) hkind hpt hhandle
    rw [← hcard] at hv hcount hfields hfirst
    exact ⟨_, State.execCardEnd_due hc hdue, hm, hmem, hreg, htok, hkeep, hv, hcount, hfields, hfirst, hgone, hcores⟩
  · show Host.Outcome.next (match s.cardAt s.arg.n with
      | some c => if s.cardDue c then (s.performAt c.id c.scope).endCard c.id else s
      | none => s) = _
    rw [hc]
    dsimp only
    rw [hdue]
    rfl

end Sys2Proof.Machine
end

section
/-! The exchange plane: the entries of a tile's tables, and a router that switches (rules R72, R73, R75, R77 to R80). -/

namespace Sys2Proof.Machine
open Sys2Proof

/-! ### Sparse tables (rule R75) -/

@[simp] theorem tableGet_nil (i : Nat) : tableGet [] i = 0 := rfl

theorem tableGet_cons (e : Nat × Word) (es : Table) (i : Nat) : tableGet (e :: es) i = if e.1 = i then e.2 else tableGet es i := by
  unfold tableGet
  by_cases h : e.1 = i <;> simp [h]

/-- An index that no entry has reads 0. -/
theorem tableGet_of_absent {t : Table} {i : Nat} (h : ∀ j ∈ t.map (·.1), j ≠ i) : tableGet t i = 0 := by
  induction t with
  | nil => rfl
  | cons e es ih =>
    rw [tableGet_cons, if_neg (h _ (by simp)), ih fun j hj => h j (by simp_all)]

theorem mem_tablePut {i j : Nat} {w : Word} {t : Table} (h : j ∈ (tablePut i w t).map (·.1)) : j = i ∨ j ∈ t.map (·.1) := by
  induction t with
  | nil =>
    unfold tablePut at h
    split at h <;> simp_all
  | cons e es ih =>
    unfold tablePut at h
    split at h
    · split at h <;> simp_all
    · split at h
      · split at h <;> simp_all
      · rw [List.map_cons, List.mem_cons] at h ⊢
        rcases h with h | h
        · exact .inr (.inl h)
        · exact (ih h).imp_right .inr

/-- A write keeps the entries in index order. -/
theorem tablePut_sorted {t : Table} (h : (t.map (·.1)).Pairwise (· < ·)) (i : Nat) (w : Word) :
    ((tablePut i w t).map (·.1)).Pairwise (· < ·) := by
  induction t with
  | nil =>
    unfold tablePut
    split <;> simp
  | cons e es ih =>
    obtain ⟨hlow, htail⟩ := List.pairwise_cons.mp h
    unfold tablePut
    split
    · next hi =>
      split
      · exact h
      · exact List.pairwise_cons.mpr ⟨fun j hj => (List.mem_cons.mp hj).elim (· ▸ hi) fun hj => hi.trans (hlow j hj), h⟩
    · split
      · next hi =>
        split
        · exact htail
        · exact List.pairwise_cons.mpr ⟨hi ▸ hlow, htail⟩
      · exact List.pairwise_cons.mpr ⟨fun j hj => (mem_tablePut hj).elim (fun _ => show e.1 < j by omega) (hlow j), ih htail⟩

/-- What a table in index order reads after a write. -/
theorem tableGet_tablePut {t : Table} (h : (t.map (·.1)).Pairwise (· < ·)) (i j : Nat) (w : Word) :
    tableGet (tablePut i w t) j = if j = i then w else tableGet t j := by
  induction t with
  | nil =>
    unfold tablePut
    split
    · simp_all
    · simp only [tableGet_cons, eq_comm]
  | cons e es ih =>
    obtain ⟨hlow, htail⟩ := List.pairwise_cons.mp h
    have habsent (hi : i ≤ e.1) : tableGet es i = 0 := tableGet_of_absent fun k hk => (hi.trans_lt (hlow k hk)).ne'
    unfold tablePut
    split
    · next hi =>
      split
      · next hw =>
        split
        · next hj => rw [tableGet_cons, if_neg (by omega), hj, habsent (by omega), hw]
        · rfl
      · simp only [tableGet_cons _ (e :: es), eq_comm]
    · split
      · next hi =>
        split
        · next hw =>
          split
          · next hj => rw [hj, habsent (by omega), hw]
          · rw [tableGet_cons, if_neg (by omega)]
        · rw [tableGet_cons, tableGet_cons]
          by_cases hj : j = i
          · simp [hj]
          · rw [if_neg (Ne.symm hj), if_neg hj, if_neg (by omega)]
      · rw [tableGet_cons, tableGet_cons, ih htail]
        by_cases hj : e.1 = j
        · rw [if_pos hj, if_neg (by omega), if_pos hj]
        · rw [if_neg hj, if_neg hj]

namespace State

/-! ### Writes of HTAB and HDIR (rule R75) -/

/-- The partition of a tile lets its tables be written: it is halted, or there is none. -/
def tableOpen (s : State) (t : Nat) : Bool := match s.partOf (2 * t) with | some p => s.halted p | none => true

theorem heddleWrite_eq (s : State) (t o : Nat) (w : Word) : s.heddleWrite t o w =
    if !s.tableOpen t || 0x8400 ≤ o then s
    else if o < 0x8000 then s.putTile { s.tileAt t with htab := tablePut (o / 8) w (s.tileAt t).htab }
    else s.putTile { s.tileAt t with
      hdir := tablePut ((o - 0x8000) / 8 * 2 + 1) ((w &&& 0x01FFFFFF01FFFFFF) >>> 32)
        (tablePut ((o - 0x8000) / 8 * 2) (w &&& 0x01FFFFFF01FFFFFF &&& 0xFFFFFFFF) (s.tileAt t).hdir) } := rfl

section
variable {s : State} {t o : Nat} (w : Word) (ho : s.tableOpen t = true)
include ho

/-- A write of HTAB. -/
theorem heddleWrite_htab (h : o < 0x8000) (hs : ((s.tileAt t).htab.map (·.1)).Pairwise (· < ·)) :
    ((s.heddleWrite t o w).tileAt t).hdir = (s.tileAt t).hdir ∧
      ∀ i, tableGet ((s.heddleWrite t o w).tileAt t).htab i = if i = o / 8 then w else tableGet (s.tileAt t).htab i := by
  rw [heddleWrite_eq, ho, if_neg (by rw [Bool.not_true, Bool.false_or, decide_eq_true_iff]; omega), if_pos h, tileAt_putTile,
    if_pos (tileAt_idx s t)]
  exact ⟨rfl, fun i => tableGet_tablePut hs _ _ _⟩

/-- A write of two words of HDIR: of each the 25 bits that it holds. -/
theorem heddleWrite_hdir (h : 0x8000 ≤ o) (h' : o < 0x8400) (hs : ((s.tileAt t).hdir.map (·.1)).Pairwise (· < ·)) :
    ((s.heddleWrite t o w).tileAt t).htab = (s.tileAt t).htab ∧
      ∀ i, tableGet ((s.heddleWrite t o w).tileAt t).hdir i =
        if i = (o - 0x8000) / 8 * 2 then w &&& 0x1FFFFFF
        else if i = (o - 0x8000) / 8 * 2 + 1 then (w >>> 32) &&& 0x1FFFFFF else tableGet (s.tileAt t).hdir i := by
  have hlo : w &&& 0x01FFFFFF01FFFFFF &&& 0xFFFFFFFF = w &&& 0x1FFFFFF := by
    rw [BitVec.and_assoc]
    rfl
  have hhi : (w &&& 0x01FFFFFF01FFFFFF) >>> 32 = (w >>> 32) &&& 0x1FFFFFF := by
    rw [BitVec.ushiftRight_and_distrib]
    rfl
  rw [heddleWrite_eq, ho, if_neg (by rw [Bool.not_true, Bool.false_or, decide_eq_true_iff]; omega), if_neg (by omega), tileAt_putTile,
    if_pos (tileAt_idx s t), hlo, hhi]
  refine ⟨rfl, fun i => ?_⟩
  dsimp only
  rw [tableGet_tablePut (tablePut_sorted hs _ _), tableGet_tablePut hs]
  by_cases hi : i = (o - 0x8000) / 8 * 2
  · rw [if_neg (by omega), if_pos hi, if_pos hi]
  · rw [if_neg hi, if_neg hi]

end

theorem heddleWrite_of_running {s : State} {t : Nat} (h : s.tableOpen t = false) (o : Nat) (w : Word) : s.heddleWrite t o w = s := by
  rw [heddleWrite_eq, h]
  rfl

/-- A write of a tile's tables leaves the cores and off-wafer memory. -/
theorem heddleWrite_kept (s : State) (t o : Nat) (w : Word) : s.coresKept (s.heddleWrite t o w) ∧ s.memKept (s.heddleWrite t o w) := by
  rw [heddleWrite_eq]
  split
  · exact ⟨s.coresKept_refl, s.memKept_refl⟩
  · split <;> exact ⟨⟨rfl, rfl⟩, rfl, rfl, rfl⟩

/-! ### A router switches (rules R72, R73, R77 to R80) -/

/-- What the steps of a router's cycle leave: off-wafer memory, what the cores hold, the delays of the tile `n`, the fences, and the
words that are already on links. -/
structure routed (n : Nat) (s t : State) : Prop where
  memory : s.memKept t
  data : s.dataKept t
  cycle : t.cycle = s.cycle
  reticles : t.reticles = s.reticles
  pad : (t.tileAt n).pad = (s.tileAt n).pad
  detour : (t.tileAt n).detour = (s.tileAt n).detour
  flits : ∀ f ∈ s.flits, f ∈ t.flits

theorem routed_refl (n : Nat) (s : State) : s.routed n s :=
  ⟨s.memKept_refl, fun _ => ⟨rfl, rfl, rfl⟩, rfl, rfl, rfl, rfl, fun _ h => h⟩

theorem routed_trans {n : Nat} {s t u : State} (h : s.routed n t) (g : t.routed n u) : s.routed n u :=
  ⟨memKept_trans h.memory g.memory, dataKept_trans h.data g.data, g.cycle.trans h.cycle, g.reticles.trans h.reticles,
    g.pad.trans h.pad, g.detour.trans h.detour, fun f hf => g.flits f (h.flits f hf)⟩

theorem foldl_routed {α : Type} {n : Nat} {f : State → α → State} (hf : ∀ (s : State) a, s.routed n (f s a)) (xs : List α) (s : State) :
    s.routed n (xs.foldl f s) :=
  List.foldlRecOn (motive := s.routed n) _ _ (routed_refl n s) fun t h a _ => routed_trans h (hf t a)

theorem notes_routed (n : Nat) (s : State) (k : Nat) (xs : List Note) : s.routed n (s.notes k xs) := by
  rw [notes_frame]
  exact ⟨⟨rfl, rfl, rfl⟩, fun _ => ⟨rfl, rfl, rfl⟩, rfl, rfl, rfl, rfl, fun _ h => h⟩

theorem note_routed (n : Nat) (s : State) (k : Nat) (x : Note) : s.routed n (s.note k x) := notes_routed n s k [x]

/-- XSTAT is no part of what a router goes by. -/
theorem putTile_xstat_routed (n : Nat) (s : State) (x : Word) : s.routed n (s.putTile { s.tileAt n with xstat := x }) := by
  refine ⟨s.memKept_refl, fun _ => ⟨rfl, rfl, rfl⟩, rfl, rfl, ?_, ?_, fun _ h => h⟩ <;>
    rw [tileAt_putTile, if_pos (tileAt_idx s n)]

/-- A core's ports change: the words that the router presents to it and takes from it. -/
theorem onCore_ports_routed (n : Nat) (s : State) (k : Nat) {f : Core → Core} (hidx : ∀ c, (f c).idx = c.idx)
    (hreg : ∀ c, (f c).reg = c.reg) (hloc : ∀ c, (f c).mem.loc = c.mem.loc) (himem : ∀ c, (f c).mem.imem = c.mem.imem) :
    s.routed n (s.onCore k f) := by
  have hcores : s.dataKept (s.onCore k f) := fun j => by
    rw [coreOf_onCore s k f hidx]
    split
    · next h => subst h; exact ⟨hreg _, hloc _, himem _⟩
    · exact ⟨rfl, rfl, rfl⟩
  have hrest : (s.onCore k f).cycle = s.cycle ∧ (s.onCore k f).reticles = s.reticles ∧ (s.onCore k f).tiles = s.tiles ∧
      (s.onCore k f).flits = s.flits := by
    unfold onCore putCore
    split <;> exact ⟨rfl, rfl, rfl, rfl⟩
  obtain ⟨hcycle, hret, htiles, hflits⟩ := hrest
  have htile : (s.onCore k f).tileAt n = s.tileAt n := by unfold tileAt; rw [htiles]
  exact ⟨putCore_memKept s _, hcores, hcycle, hret, by rw [htile], by rw [htile], fun _ h => hflits ▸ h⟩

/-- The word that a router puts on a link, as it arrives at the tile `u` beyond (rules R72, R73, R392). -/
def linkFlit (s : State) (n q u : Nat) (cross : Bool) (w : XWord) : Flit :=
  { tile := u, port := (q + 2) % 4
    arrive := s.cycle + 1 + ((s.tileAt n).pad + (s.tileAt n).detour) + (if cross then 3 else 0)
    sender := n, word := w.1, poison := w.2 }

theorem linkFlit_of_routed {n : Nat} {s t : State} (h : s.routed n t) (q u : Nat) (cross : Bool) (w : XWord) :
    t.linkFlit n q u cross w = s.linkFlit n q u cross w := by
  unfold linkFlit
  rw [h.cycle, h.pad, h.detour]

/-- A link is fenced where a selvedge is in XFENCE (rule R79). -/
def linkFenced (s : State) (n q : Nat) (cross : Bool) : Bool := cross && (s.ret (reticleOf (2 * n))).xfence.getLsbD q

theorem linkFenced_of_routed {n : Nat} {s t : State} (h : s.routed n t) (q : Nat) (cross : Bool) :
    t.linkFenced n q cross = s.linkFenced n q cross := by
  unfold linkFenced ret
  rw [h.reticles]

/-- A word leaves over a link that is not fenced. -/
theorem sendOut_link {s : State} {n q u : Nat} {cross : Bool} (hq : q < 4) (hu : tileBeyond n q = some (u, cross))
    (hx : s.linkFenced n q cross = false) (w : XWord) :
    s.sendOut n q w = { s with flits := s.flits ++ [s.linkFlit n q u cross w] } := by
  unfold linkFenced at hx
  unfold sendOut
  rw [if_neg (by omega), hu]
  dsimp only
  rw [if_neg (by rw [hx]; exact Bool.false_ne_true)]
  rfl

theorem sendOut_routed (s : State) (n q : Nat) (w : XWord) : s.routed n (s.sendOut n q w) := by
  have hdrop : s.routed n
      ((s.putTile { s.tileAt n with xstat := countIn (s.tileAt n).xstat 23 16 1 }).note (2 * n) (.loss 7 (2 * n) 0 0)) :=
    routed_trans (putTile_xstat_routed n s _) (note_routed n _ _ _)
  unfold sendOut
  extract_lets x d r drop
  split
  · exact onCore_ports_routed n s _ (fun _ => rfl) (fun _ => rfl) (fun _ => rfl) fun _ => rfl
  · split
    · exact hdrop
    · split
      · exact hdrop
      · exact ⟨s.memKept_refl, fun _ => ⟨rfl, rfl, rfl⟩, rfl, rfl, rfl, rfl, fun _ h => List.mem_append_left _ h⟩

/-- The word of the input that an output's entry names. -/
def outWord (s : State) (n : Nat) (good : List (Nat × Word)) (q : Nat) : Option XWord :=
  (takes good q).bind (fun e => ((List.range 6).map (fun i => s.arriving n i)).getD (bits e.2 15 13) none)

theorem outWord_of_takes {s : State} {n q : Nat} {good : List (Nat × Word)} {e : Nat × Word} {w : XWord} (he : takes good q = some e)
    (hi : bits e.2 15 13 < 6) (hw : s.arriving n (bits e.2 15 13) = some w) : s.outWord n good q = some w := by
  unfold outWord
  rw [he, Option.bind_some, List.getD_eq_getElem _ _ (by simpa using hi), List.getElem_map, List.getElem_range, hw]

/-- A sound entry names one of the six inputs (rule R76). -/
theorem input_lt_of_sound {e : Word} (h : entryBad e = false) : bits e 15 13 < 6 := by
  simp only [entryBad, Bool.or_eq_false_iff, decide_eq_false_iff_not, not_le] at h
  obtain ⟨⟨⟨⟨-, hin⟩, -⟩, -⟩, -⟩ := h
  exact hin

/-- The one sound entry that is active has every output that it names. -/
theorem takes_single {e : Nat × Word} {es : List (Nat × Word)} {q : Nat} (hes : es = [e]) (hgood : entryBad e.2 = false)
    (hq : e.2.getLsbD (7 + q) = true) : takes (es.filter (fun e => !entryBad e.2)) q = some e := by
  subst hes
  simp [takes, hgood, hq]

/-- A router's cycle: what it leaves, and the word that it puts on each link that takes one. -/
theorem switchAt_spec (s : State) (n pc o : Nat) :
    s.memKept (s.switchAt n pc o) ∧ s.dataKept (s.switchAt n pc o) ∧
      ∀ q u cross w, q < 4 → s.outWord n ((activeEntries (s.tileAt n) pc o).filter (fun e => !entryBad e.2)) q = some w →
        tileBeyond n q = some (u, cross) → s.linkFenced n q cross = false →
        s.linkFlit n q u cross w ∈ (s.switchAt n pc o).flits := by
  unfold switchAt
  extract_lets x es bad good ins lost corr ue w1 w2 s1 s2 s3 s4 flits
  have h1 : s.routed n s1 := by
    unfold s1
    split
    · exact routed_refl n s
    · exact putTile_xstat_routed n s _
  have h3 : s.routed n s3 := by
    have h2 : s.routed n s2 := routed_trans h1 (foldl_routed (fun _ _ => note_routed ..) bad s1)
    unfold s3
    split
    · exact h2
    · exact routed_trans h2 (notes_routed ..)
  have hstep (t : State) (q : Nat) : t.routed n
      (match takes good q with
        | none => t
        | some e => (match ins.getD (bits e.2 15 13) none with | some w => t.sendOut n q w | none => t)) := by
    split
    · exact routed_refl n t
    · split
      · exact sendOut_routed ..
      · exact routed_refl n t
  have h4 : s.routed n s4 := routed_trans h3 (foldl_routed hstep _ s3)
  have h5 := foldl_routed (n := n) (f := fun s i => if (s.coreOf (2 * n + i)).mem.inject.isSome then
      s.onCore (2 * n + i) (fun c => { c with mem := { c.mem with inject := none } }) else s) (fun t i => by
    split
    · exact onCore_ports_routed n t _ (fun _ => rfl) (fun _ => rfl) (fun _ => rfl) fun _ => rfl
    · exact routed_refl n t) (List.range 2) { s4 with flits := flits }
  refine ⟨memKept_trans (t := { s4 with flits := flits }) h4.memory h5.memory,
    dataKept_trans (t := { s4 with flits := flits }) h4.data h5.data, fun q u cross w hq hw hu hx => h5.flits _ ?_⟩
  have hsent : s.linkFlit n q u cross w ∈ s4.flits := by
    refine Core.foldl_of_mem_inv (I := s.routed n) (P := fun t => s.linkFlit n q u cross w ∈ t.flits)
      (fun t p h => routed_trans h (hstep t p)) (fun t p _ h => (hstep t p).flits _ h) (List.mem_range.mpr (by omega : q < 6))
      (fun t h => ?_) h3
    obtain ⟨e, he, hin⟩ := Option.bind_eq_some_iff.mp hw
    have hin' : ins.getD (bits e.2 15 13) none = some w := hin
    have he' : takes good q = some e := he
    rw [he']
    dsimp only
    rw [hin']
    dsimp only
    rw [sendOut_link hq hu (by rw [linkFenced_of_routed h]; exact hx), linkFlit_of_routed h]
    exact List.mem_append_right _ (List.mem_singleton.mpr rfl)
  refine List.mem_filter.mpr ⟨hsent, ?_⟩
  have harrive : (s.linkFlit n q u cross w).arrive ≠ s4.cycle := by
    rw [h4.cycle]
    unfold linkFlit
    dsimp only
    omega
  simp [← h4.cycle, harrive]

theorem routerSwitch_of_phase {s : State} {n pc o : Nat} (h : s.phaseAt n = some (pc, o)) : s.routerSwitch n = s.switchAt n pc o := by
  unfold routerSwitch
  rw [h]

end State
end Sys2Proof.Machine
end

section
/-! Slot maps and periods of the shuttle plane, and the way of trace flits (rules R86 to R88, R413). -/

namespace Sys2Proof.Machine
open Sys2Proof

namespace State

/-! ### Slot maps and periods (rules R87, R88) -/

/-- The class of slot `k` of a map (rule R87). -/
def mapSlot (m : Vector Word 4) (k : Nat) : Nat := bits (m.getD (k / 16) 0) (4 * (k % 16) + 3) (4 * (k % 16))

theorem slotClass_eq (m : Vector Word 4) {k : Nat} (h : k < 64) : slotClass m k = mapSlot m k := by
  unfold slotClass mapSlot
  rw [Nat.mod_eq_of_lt h, Nat.mul_comm (k % 16)]

/-- A map that rule R88 accepts: no slot of a reserved class, and a slot for management. -/
def slotMapSound (m : Vector Word 4) : Prop := (∀ k < 64, mapSlot m k < 6 ∨ mapSlot m k = 15) ∧ ∃ k < 64, mapSlot m k = 5

/-- The tests of `shmapWrite` are those of rule R88. -/
theorem mapTests_iff (m : Vector Word 4) :
    ((List.range 64).any (fun k => 6 ≤ slotClass m k && slotClass m k != 15) || !(List.range 64).any (fun k => slotClass m k == 5)) = false ↔
      slotMapSound m := by
  rw [Bool.or_eq_false_iff, Bool.not_eq_false', List.any_eq_false, List.any_eq_true]
  refine and_congr (forall_congr' fun k => ?_) (exists_congr fun k => ?_) <;> rw [List.mem_range]
  · refine imp_congr_right fun hk => ?_
    rw [slotClass_eq m hk, Bool.and_eq_true, decide_eq_true_iff, bne_iff_ne]
    omega
  · refine and_congr_right fun hk => ?_
    rw [slotClass_eq m hk, beq_iff_eq]

theorem shmapWrite_refused {s : State} {r n : Nat} {w : Word} (h : ¬ slotMapSound ((s.region r).shnext.setIfInBounds n w)) :
    s.shmapWrite r n w = s.putRegion r { s.region r with shstat := (s.region r).shstat ||| 1 } :=
  if_pos (Bool.of_not_eq_false (mt (mapTests_iff _).mp h))

theorem shmapWrite_accepted {s : State} {r n : Nat} {w : Word} (h : slotMapSound ((s.region r).shnext.setIfInBounds n w)) :
    s.shmapWrite r n w = s.putRegion r { s.region r with shnext := (s.region r).shnext.setIfInBounds n w } :=
  if_neg (Bool.eq_false_iff.mp ((mapTests_iff _).mpr h))

/-- A period that the region has not begun before takes the accepted map and is counted. -/
theorem periodStart_new {s : State} {r : Nat} (h : ∀ q, (s.region r).period = some q → q ≤ (s.regionLoom r).toNat / 4096) :
    s.periodStart r = s.putRegion r { s.region r with
      shmap := (s.region r).shnext
      shstat := setBits (s.region r).shstat 63 32 ((bits (s.region r).shstat 63 32 + 1) % 2 ^ 32)
      period := some ((s.regionLoom r).toNat / 4096) } :=
  if_neg fun hlate => by
    obtain ⟨q, hq, hlt⟩ := (Option.any_eq_true ..).mp hlate
    exact absurd (h q hq) (by simpa using hlt)

/-- A repair has set the count back into an earlier period. -/
theorem periodStart_back {s : State} {r q : Nat} (hq : (s.region r).period = some q) (h : (s.regionLoom r).toNat / 4096 < q) :
    s.periodStart r = s.putRegion r { s.region r with period := some ((s.regionLoom r).toNat / 4096) } :=
  if_pos (by rw [hq]; simpa using h)

/-! ### Trace flits (rules R86, R87, R413) -/

theorem onCore_regions (s : State) (k : Nat) (f : Core → Core) : (s.onCore k f).regions = s.regions := by
  unfold onCore putCore
  split <;> rfl

/-- It is a trace flit's turn on a link, or at the rim port: it heads its queue, in a slot of its class that no other has taken. -/
def hopTurn (s : State) (f : TraceFlit) (out : Option Nat) : Prop :=
  f.ready ≤ s.cycle ∧ (∀ h ∈ s.traceQueue f.block out, f.ready ≤ h.ready) ∧ s.traceSlot f.block = true ∧ (f.block, out) ∉ s.hopped

theorem hopTurn_iff (s : State) (f : TraceFlit) (out : Option Nat) :
    s.hopTurn f out ↔ s.headsQueue f out = true ∧ s.linkFree f.block out = true := by
  simp [hopTurn, headsQueue, linkFree, and_assoc]

section
variable {s : State} {r rx ry : Nat} (hrim : s.ringRouter r = (rx, ry))
include hrim

/-- A record enters the queue of its block's router. -/
theorem traceEnter_of_room {k : Nat} {tr : TraceRec} {rest : List TraceRec} (hr : regionOf k = r)
    (hq : (s.coreOf k).aux.traceQ = tr :: rest) (hroom : (s.traceQueue (blockOf k) (nextBlock (blockOf k) rx ry)).length < 4) :
    s.traceEnter k = (s.onCore k (fun c => { c with aux := { c.aux with traceQ := rest } })).putRegion r { s.region r with
      flits := (s.region r).flits ++ [{ block := blockOf k, ready := s.cycle + 1, record := tr }] } := by
  have hregion (f : Core → Core) : (s.onCore k f).region r = s.region r := congrArg (·.getD r .reset) (onCore_regions ..)
  unfold traceEnter
  dsimp only
  rw [hr, hrim, hq]
  dsimp only
  rw [if_neg (by omega), hregion]

variable {i : Nat} {f : TraceFlit} (hf : (s.region r).flits[i]? = some f)
include hf

/-- The link to a block lets a flit pass that is whole and has room behind it: one hop, and what keeps a flit where it is. -/
theorem traceHop_spec {b : Nat} (hb : nextBlock f.block rx ry = some b) :
    let free := s.hopTurn f (some b) ∧ s.linkWhole f.block b = true ∧ (s.traceQueue b (nextBlock b rx ry)).length < 4
    (free → s.traceHop r i = ({ s with hopped := (f.block, some b) :: s.hopped }).putRegion r { s.region r with
      flits := (s.region r).flits.set i { f with
        block := b, ready := s.cycle + 1 + (if f.block / 16 = b / 16 then 0 else 3) } }) ∧
      (¬ free → s.traceHop r i = s) := by
  intro free
  have hstay : (!s.headsQueue f (some b) || !s.linkFree f.block (some b) || !s.linkWhole f.block b
      || decide (4 ≤ (s.traceQueue b (nextBlock b rx ry)).length)) = true ↔ ¬ free := by
    unfold free
    rw [hopTurn_iff]
    simp [imp_iff_not_or, or_assoc]
  unfold traceHop
  dsimp only
  rw [hrim, hf]
  dsimp only
  rw [hb]
  dsimp only
  refine ⟨fun h => ?_, fun h => if_pos (hstay.mpr h)⟩
  rw [if_neg fun hs => hstay.mp hs h]
  by_cases hc : f.block / 16 = b / 16 <;> simp [hc]

/-- What keeps a flit from its ring: it is not at the rim yet, or it is not its turn. -/
theorem traceWrite_of_waiting (h : (nextBlock f.block rx ry).isSome = true ∨ ¬ s.hopTurn f (nextBlock f.block rx ry)) :
    s.traceWrite r i = s := by
  have hwait : ((nextBlock f.block rx ry).isSome || !s.headsQueue f none || !s.linkFree f.block none) = true := by
    cases hout : nextBlock f.block rx ry with
    | some b => rfl
    | none =>
      rw [hout, hopTurn_iff] at h
      simpa [imp_iff_not_or] using h
  unfold traceWrite
  dsimp only
  rw [hrim, hf]
  exact if_pos hwait

section
variable (hout : nextBlock f.block rx ry = none) (h : s.hopTurn f none)
include hout h

/-- At the rim, with no ring in use, the record is dropped. -/
theorem traceWrite_dropped (hv : (s.region r).trring.getLsbD 63 = false) : s.traceWrite r i =
    (({ s with hopped := (f.block, none) :: s.hopped }).putRegion r { s.region r with
      flits := (s.region r).flits.eraseIdx i, trdrop := min 0xFFFFFFFF ((s.region r).trdrop + 1) }).recordLost f.record := by
  obtain ⟨hheads, hfree⟩ := (hopTurn_iff s f none).mp h
  unfold traceWrite
  dsimp only
  rw [hrim, hf]
  dsimp only
  rw [if_neg (by simp [hout, hheads, hfree]), if_pos (by rw [hv]; rfl)]

/-- At the rim, with a ring in use, the record is written. -/
theorem traceWrite_written (hv : (s.region r).trring.getLsbD 63 = true) : s.traceWrite r i =
    (({ s with hopped := (f.block, none) :: s.hopped }).putRegion r { s.region r with
      flits := (s.region r).flits.eraseIdx i, trhead := (s.region r).trhead + 1 }).writeMem
      (bits (s.region r).trring 55 12 * 4096 + 32 * ((s.region r).trhead.toNat % 2 ^ bits (s.region r).trring 4 0))
      ([f.record.w0, f.record.w1, f.record.w2, f.record.w3].flatMap (fun (w : Word) => toBytes 8 w.toNat)) := by
  obtain ⟨hheads, hfree⟩ := (hopTurn_iff s f none).mp h
  unfold traceWrite
  dsimp only
  rw [hrim, hf]
  dsimp only
  rw [if_neg (by simp [hout, hheads, hfree]), if_neg (by rw [hv]; exact Bool.false_ne_true)]

end
end

theorem flitHop_enter {s : State} (h : s.arg.sel = 0) : s.flitHop = s.traceEnter s.arg.core := by
  unfold flitHop
  rw [h]
  rfl

theorem flitHop_hop {s : State} (h : s.arg.sel = 1) : s.flitHop = s.traceHop s.arg.region s.arg.n := by
  unfold flitHop
  rw [h]
  rfl

end State

/-- Settles O39: each event's equation, and `switchAt_spec` for the routers. -/
theorem fabricEventsComplete : Obligations.FabricEventsComplete := by
  unfold Obligations.FabricEventsComplete
  intro s n r x g
  rcases hrim : s.ringRouter r with ⟨rx, ry⟩
  refine ⟨fun pc o e w hphase hes hgood hw => ?_, fun hopen hoff htab hdir => ?_, fun hopen => ?_, ⟨?_, fun hc hm => ?_⟩,
    ⟨fun h => ⟨setBits g.shstat 63 32 ((bits g.shstat 63 32 + 1) % 2 ^ 32), ?_, ?_, ?_⟩, fun q hq h => ?_⟩, fun h => ?_, fun h1 h2 => ?_,
    fun k tr rest hsel hk hr hq hroom => ?_, fun f hf => ⟨fun b hb hsel => ?_, fun hout ht hv => ?_, fun hout ht hv => ?_, fun h => ?_⟩⟩
  · obtain ⟨hmem, hdata, hsent⟩ := s.switchAt_spec n pc o
    refine ⟨_, congrArg Host.Outcome.next (State.routerSwitch_of_phase hphase), hmem, hdata, fun q u cross hq he hu hx => ?_⟩
    exact ⟨_, hsent q u cross w hq
      (State.outWord_of_takes (State.takes_single hes hgood he) (State.input_lt_of_sound hgood) hw) hu hx, rfl, rfl, rfl, rfl, rfl, rfl⟩
  · obtain ⟨hcores, hmem⟩ := s.heddleWrite_kept n s.arg.off s.arg.value
    exact ⟨_, rfl, hcores, hmem, fun h => State.heddleWrite_htab _ hopen h htab, fun h => State.heddleWrite_hdir _ hopen h hoff hdir⟩
  · exact congrArg Host.Outcome.next (State.heddleWrite_of_running hopen ..)
  · rintro (⟨k, hk, h6, h15⟩ | h) <;> refine congrArg Host.Outcome.next (State.shmapWrite_refused fun ⟨hc, j, hj, hm⟩ => ?_)
    · rcases hc k hk with hlow | htop
      · exact absurd h6 (Nat.not_le.mpr hlow)
      · exact absurd htop h15.ne
    · exact h j hj hm
  · exact congrArg Host.Outcome.next (State.shmapWrite_accepted ⟨hc, hm⟩)
  · exact bits_setBits_ne _ _ _ _ _ _ (by decide) (.inl (by decide))
  · rw [bits_setBits _ _ _ _ (by decide), Nat.mod_mod]
  · exact congrArg Host.Outcome.next (State.periodStart_new h)
  · exact congrArg Host.Outcome.next (State.periodStart_back hq h)
  · exact congrArg Host.Outcome.next (if_pos (by simpa using h))
  · exact congrArg Host.Outcome.next (if_neg (by simpa using ⟨h1, h2⟩))
  · subst hk
    exact congrArg Host.Outcome.next ((State.flitHop_enter hsel).trans (State.traceEnter_of_room hrim hr hq hroom))
  · rw [hb]
    obtain ⟨hgoes, hstays⟩ := State.traceHop_spec hrim hf hb
    exact ⟨fun ht ho => congrArg Host.Outcome.next ((State.flitHop_hop hsel).trans (hgoes ⟨ht, ho⟩)),
      fun h => congrArg Host.Outcome.next ((State.flitHop_hop hsel).trans (hstays h))⟩
  · rw [hout] at ht ⊢
    exact congrArg Host.Outcome.next (State.traceWrite_dropped hrim hf hout ht hv)
  · rw [hout] at ht ⊢
    exact congrArg Host.Outcome.next (State.traceWrite_written hrim hf hout ht hv)
  · exact congrArg Host.Outcome.next (State.traceWrite_of_waiting hrim hf h)

end Sys2Proof.Machine
end

section
/-! Loom alignment: rounds of samples, what they show, and repairs (rules R82 to R85). -/

namespace Sys2Proof.Machine
open Sys2Proof

/-- A counting field after a count: it saturates. -/
theorem bits_countIn (w : Word) {hi : Nat} (lo n : Nat) (h : hi < 64) :
    bits (countIn w hi lo n) hi lo = min (2 ^ (hi + 1 - lo) - 1) (bits w hi lo + n) := by
  have hpos := Nat.two_pow_pos (hi + 1 - lo)
  unfold countIn
  rw [bits_setBits _ _ _ _ h, Nat.mod_eq_of_lt (by omega)]

namespace State

/-! ### What a round leaves -/

/-- What an alignment event at reticle `r` leaves: the cores, off-wafer memory, the reticle's own count, and every other reticle. -/
def roundKept (r : Nat) (s t : State) : Prop :=
  s.coresKept t ∧ s.memKept t ∧ t.loomOf r = s.loomOf r ∧ ∀ q, q ≠ r → t.ret q = s.ret q

theorem roundKept_trans {r : Nat} {s t u : State} (h : s.roundKept r t) (g : t.roundKept r u) : s.roundKept r u := by
  obtain ⟨⟨hcore, hothers⟩, hmem, hloom, hrets⟩ := h
  obtain ⟨⟨gcore, gothers⟩, gmem, gloom, grets⟩ := g
  exact ⟨⟨gcore.trans hcore, gothers.trans hothers⟩, memKept_trans hmem gmem, gloom.trans hloom,
    fun q hq => (grets q hq).trans (hrets q hq)⟩

/-- A copy's count is what its reticle and the cycle make it. -/
theorem loomOf_congr {s t : State} {r : Nat} (hcycle : t.cycle = s.cycle) (hon : (t.ret r).loomOn = (s.ret r).loomOn)
    (hbase : (t.ret r).loomBase = (s.ret r).loomBase) : t.loomOf r = s.loomOf r := by
  unfold loomOf
  dsimp only
  rw [hcycle, hon, hbase]

theorem putRet_roundKept (s : State) {r : Nat} (hr : r < 48) {x : Reticle} (hon : x.loomOn = (s.ret r).loomOn)
    (hbase : x.loomBase = (s.ret r).loomBase) : s.roundKept r (s.putRet r x) := by
  have hx := ret_putRet s r x hr
  exact ⟨⟨rfl, rfl⟩, ⟨rfl, rfl, rfl⟩, loomOf_congr rfl (by rw [hx, hon]) (by rw [hx, hbase]), fun q hq => ret_putRet_ne s r q x hq.symm⟩

/-! ### Samples that leave (rules R82, R85) -/

/-- The samples that a reticle sends on this cycle. -/
def sentSamples (s : State) (r : Nat) : List Sample :=
  (s.sampleSels r).filterMap (fun sel => (neighbour r sel).map (fun m =>
    { ret := m, sel := (sel + 2) % 4, arrive := s.cycle + crossing r sel, count := s.loomOf r }))

theorem mem_sentSamples {s : State} {r sel q : Nat} (hsel : sel ∈ s.sampleSels r) (hq : neighbour r sel = some q) :
    { ret := q, sel := (sel + 2) % 4, arrive := s.cycle + crossing r sel, count := s.loomOf r } ∈ s.sentSamples r :=
  List.mem_filterMap.mpr ⟨sel, hsel, by rw [hq]; rfl⟩

/-- A reticle that opens a round sends over every selvedge that takes part. -/
theorem sampleSels_of_opens {s : State} {r : Nat} (h : s.opensRound r = true) : s.sampleSels r = s.alignSels r := by
  have hn : (s.loomOf r).toNat % 4096 = 0 := by
    simp only [opensRound, Bool.or_eq_true, beq_iff_eq, Bool.and_eq_true] at h
    omega
  unfold sampleSels
  dsimp only
  rw [if_neg (not_not.mpr hn), h]
  exact List.filter_eq_self.mpr fun _ _ => rfl

theorem openRound_spec {s : State} {r : Nat} (hr : r < 48) (h : s.opensRound r = true) :
    s.roundKept r (s.openRound r) ∧
      (∀ sel ∈ s.alignSels r, ∀ q, neighbour r sel = some q →
        { ret := q, sel := (sel + 2) % 4, arrive := s.cycle + crossing r sel, count := s.loomOf r } ∈ (s.openRound r).samples) ∧
      (s.openRound r).ret r = { s.ret r with round := some (s.loomOf r), aln := false } ∧ (s.openRound r).parts = s.parts := by
  have hopen : s.openRound r =
      ({ s with samples := s.samples ++ s.sentSamples r }).putRet r { s.ret r with round := some (s.loomOf r), aln := false } :=
    if_neg (by rw [h]; exact Bool.false_ne_true)
  rw [hopen]
  exact ⟨putRet_roundKept s hr rfl rfl, fun sel hsel q hq => List.mem_append_right _ (mem_sentSamples (sampleSels_of_opens h ▸ hsel) hq),
    ret_putRet s r _ hr, rfl⟩

/-- Samples that only an extra round beyond asks for. -/
theorem openRound_extra {s : State} {r : Nat} (h : s.opensRound r = false) :
    s.openRound r = { s with samples := (s.openRound r).samples } ∧
      ∀ sel ∈ s.sampleSels r, ∀ q, neighbour r sel = some q →
        { ret := q, sel := (sel + 2) % 4, arrive := s.cycle + crossing r sel, count := s.loomOf r } ∈ (s.openRound r).samples := by
  have hopen : s.openRound r = { s with samples := s.samples ++ s.sentSamples r } := if_pos (by rw [h]; rfl)
  rw [hopen]
  exact ⟨rfl, fun sel hsel q hq => List.mem_append_right _ (mem_sentSamples hsel hq)⟩

section
variable {s : State} {r m : Nat}

theorem sampleRound_idle (hm : m = 0) (h : s.roundDue r = false) : s.sampleRound r m = s :=
  (if_pos hm).trans (if_neg (by rw [h]; exact Bool.false_ne_true))

theorem sampleRound_due (hm : m = 0) (h : s.roundDue r = true) : s.sampleRound r m = s.openRound r := (if_pos hm).trans (if_pos h)

theorem sampleRound_open (hm : m ≠ 0) (h : s.roundOver r = false) : s.sampleRound r m = s :=
  (if_neg hm).trans (if_neg (by rw [h]; exact Bool.false_ne_true))

theorem sampleRound_over (hm : m ≠ 0) (h : s.roundOver r = true) : s.sampleRound r m = s.classifyRound r :=
  (if_neg hm).trans (if_pos h)

end

/-! ### Samples that arrive (rules R82, R83) -/

/-- A sample joins the round under way; without one it begins one. -/
def roundBegun (s : State) (r sel : Nat) : Reticle :=
  if (s.ret r).deltas.isEmpty then { s.ret r with before := (s.ret r).opened, opened := s.cycle - s.selDelay r sel } else s.ret r

theorem joinRound_eq {s : State} {r sel : Nat} (h : ∀ e ∈ (s.ret r).deltas, e.1 ≠ sel) (d : Option Int) :
    s.joinRound r sel d = s.putRet r { s.roundBegun r sel with deltas := (s.roundBegun r sel).deltas ++ [(sel, d)] } := by
  have hnew : ¬ (s.ret r).deltas.any (fun e => e.1 == sel) = true := by
    rw [List.any_eq_true]
    rintro ⟨e, he, hsel⟩
    exact h e he (beq_iff_eq.mp hsel)
  unfold joinRound
  rw [if_neg hnew]
  rfl

/-- The first sample begins a round. -/
theorem joinRound_first {s : State} {r : Nat} (h : (s.ret r).deltas = []) (sel : Nat) (d : Option Int) :
    s.joinRound r sel d = s.putRet r { s.ret r with
      before := (s.ret r).opened, opened := s.cycle - s.selDelay r sel, deltas := [(sel, d)] } := by
  have hbegun : s.roundBegun r sel = { s.ret r with before := (s.ret r).opened, opened := s.cycle - s.selDelay r sel } :=
    if_pos (by rw [h]; rfl)
  rw [joinRound_eq (by rw [h]; exact fun e he => absurd he List.not_mem_nil), hbegun, h, List.nil_append]

/-- A further sample joins the round. -/
theorem joinRound_next {s : State} {r sel : Nat} (h : (s.ret r).deltas ≠ []) (hsel : ∀ e ∈ (s.ret r).deltas, e.1 ≠ sel) (d : Option Int) :
    s.joinRound r sel d = s.putRet r { s.ret r with deltas := (s.ret r).deltas ++ [(sel, d)] } := by
  have hbegun : s.roundBegun r sel = s.ret r := if_neg (by simpa using h)
  rw [joinRound_eq hsel, hbegun]

/-- A good sample gives the own count less the sample's count and the delay. -/
theorem sampleArrives_good {s : State} {m : Sample} (h : s.takesSample m = true) (hbad : (m.ret, m.sel) ∉ s.badSamples) :
    s.sampleArrives m =
      s.joinRound m.ret m.sel (some (s.loomOf m.ret - (m.count + BitVec.ofNat 64 (s.selDelay m.ret m.sel))).toInt) := by
  unfold sampleArrives
  rw [h, if_neg (by decide), if_neg (by simpa using hbad)]

theorem takesSample_of {s : State} {m : Sample} (hon : (s.ret m.ret).loomOn = true) (hsel : m.sel ∈ s.alignSels m.ret)
    (hcount : m.count.toNat % 65536 = 0 ∨ (s.ret m.ret).aln = true ∨
      ∃ b : Word, (s.ret m.ret).round = some b ∧ b.toNat % 65536 ≠ 0) : s.takesSample m = true := by
  have hmine : (m.count.toNat % 65536 == 0 || (s.ret m.ret).aln || (s.ret m.ret).round.any (fun n => n.toNat % 65536 != 0)) = true := by
    rcases hcount with h | h | ⟨b, hb, h⟩
    · simp [h]
    · simp [h]
    · simp [hb, h]
  unfold takesSample
  dsimp only
  rw [hon, List.contains_iff_mem.mpr hsel, hmine]
  rfl

/-- A round is over once every selvedge that takes part has given a sample, or after half the time to the next. -/
theorem roundOver_iff (s : State) (r : Nat) : s.roundOver r = true ↔ (s.ret r).deltas ≠ [] ∧
    ((∀ sel ∈ s.alignSels r, ∃ e ∈ (s.ret r).deltas, e.1 = sel) ∨ (s.ret r).opened + 32768 ≤ s.cycle) := by
  simp [roundOver]

/-! ### What a round shows (rules R83, R85) -/

/-- The δ of a round, by selvedge: a bad sample gives none. -/
def roundDeltas (x : Reticle) : List (Nat × Int) := x.deltas.filterMap (fun e => e.2.map (fun d => (e.1, d)))
/-- The selvedges with a nonzero δ. -/
def slippedSels (ds : List (Nat × Int)) : List Nat := (ds.filter (fun d => d.2 != 0)).map (·.1)
def selMask (l : List Nat) : BitVec 4 := BitVec.ofNat 4 (l.foldl (fun m i => m ||| 2 ^ i) 0)

/-- A reticle whose round is over: the round is closed, and what it showed is noted. -/
def closed (x : Reticle) : Reticle :=
  let nz := slippedSels (roundDeltas x)
  { x with
    round := none, deltas := [], nonzero := selMask nz
    loomst := x.loomst ||| ((selMask nz &&& x.nonzero).setWidth 64 <<< 20)
      ||| ((selMask (classify (roundDeltas x) (bits x.loomst 15 12)).2).setWidth 64 <<< 16) }

theorem classifyRound_eq {s : State} {r : Nat} (h : (s.ret r).deltas ≠ []) : s.classifyRound r =
    (classify (roundDeltas (s.ret r)) (bits (s.ret r).loomst 15 12)).1.elim (s.putRet r (closed (s.ret r)))
      (fun d => (s.putRet r (closed (s.ret r))).slipped r d) := by
  have hsome : (s.ret r).deltas.isEmpty = false := List.isEmpty_eq_false_iff.mpr h
  unfold classifyRound
  dsimp only
  rw [hsome, if_neg Bool.false_ne_true]
  unfold closed roundDeltas
  dsimp only
  cases (classify ((s.ret r).deltas.filterMap (fun e => e.2.map (fun d => (e.1, d)))) (bits (s.ret r).loomst 15 12)).1 <;> rfl

theorem slippedSels_of_zero {ds : List (Nat × Int)} (h : ∀ e ∈ ds, e.2 = 0) : slippedSels ds = [] := by
  unfold slippedSels
  rw [List.filter_eq_nil_iff.mpr fun e he => by simp [h e he]]
  rfl

theorem classify_of_zero {ds : List (Nat × Int)} (h : ∀ e ∈ ds, e.2 = 0) (parent : Nat) : classify ds parent = (none, []) := by
  cases ds with
  | nil => rfl
  | cons e rest => exact if_pos (List.isEmpty_iff.mpr (slippedSels_of_zero h))

/-- One nonzero δ of all selvedges is what the copy has slipped by. -/
theorem classify_of_same {ds : List (Nat × Int)} {d : Int} (hne : ds ≠ []) (h : ∀ e ∈ ds, e.2 = d) (hd : d ≠ 0) (parent : Nat) :
    classify ds parent = (some d, []) := by
  have hall : ds.filter (fun d => d.2 != 0) = ds := List.filter_eq_self.mpr fun e he => by simp [h e he, hd]
  cases ds with
  | nil => exact absurd rfl hne
  | cons e rest =>
    have hfirst : e.2 = d := h e List.mem_cons_self
    have hrest : rest.all (fun x => x.2 == e.2) = true :=
      List.all_eq_true.mpr fun x hx => by simp [hfirst, h x (List.mem_cons_of_mem _ hx)]
    unfold classify
    dsimp only
    rw [hall, if_neg (by simp), if_neg (by simp), if_pos hrest, hfirst]

/-- Where every δ is 0 the round alone is closed. -/
theorem closed_of_zero {x : Reticle} (h : ∀ e ∈ roundDeltas x, e.2 = 0) :
    closed x = { x with round := none, deltas := [], nonzero := 0 } := by
  unfold closed
  rw [slippedSels_of_zero h, classify_of_zero h]
  simp [selMask]

theorem classifyRound_zero {s : State} {r : Nat} (hr : r < 48) (h : (s.ret r).deltas ≠ []) (hz : ∀ e ∈ roundDeltas (s.ret r), e.2 = 0) :
    let t := s.classifyRound r
    s.roundKept r t ∧ t.parts = s.parts ∧ (t.ret r).deltas = [] ∧ (t.ret r).round = none ∧ (t.ret r).repair = (s.ret r).repair ∧
      (t.ret r).loomst = (s.ret r).loomst := by
  intro t
  have ht : t = s.putRet r { s.ret r with round := none, deltas := [], nonzero := 0 } := by
    rw [← closed_of_zero hz]
    refine (classifyRound_eq h).trans ?_
    rw [classify_of_zero hz]
    rfl
  rw [ht, ret_putRet s r _ hr]
  exact ⟨putRet_roundKept s hr rfl rfl, rfl, rfl, rfl, rfl, rfl⟩

/-! ### Slips (rule R85) -/

/-- What a slip by δ makes of its reticle: a repair is pending, or it waits for the realignment. -/
def slipNoted (x : Reticle) (d : Int) : Reticle :=
  if 4096 ≤ d.natAbs then { x with realign := some d, repair := none, loomst := x.loomst &&& ~~~1 }
  else { x with repair := some d, realign := none, loomst := x.loomst ||| 1 }

/-- A slip loses the context: it is too large to be repaired, or an exchange phase met the window. -/
def slipLoses (s : State) (r p : Nat) (d : Int) : Prop :=
  4096 ≤ d.natAbs ∨ s.exchangedIn p (s.ret r).before (s.ret r).opened = true

theorem slipNoted_loom (x : Reticle) (d : Int) : (slipNoted x d).loomOn = x.loomOn ∧ (slipNoted x d).loomBase = x.loomBase ∧
    (slipNoted x d).deltas = x.deltas ∧ (slipNoted x d).round = x.round := by
  unfold slipNoted
  split <;> exact ⟨rfl, rfl, rfl, rfl⟩

theorem slipped_eq (s : State) (r : Nat) (d : Int) : s.slipped r d =
    (s.ctxOf (1024 * r)).elim (s.putRet r (slipNoted (s.ret r) d)) (fun e =>
      if decide (4096 ≤ d.natAbs) || s.exchangedIn e.1 (s.ret r).before (s.ret r).opened then
        (s.putRet r { slipNoted (s.ret r) d with loomst := (slipNoted (s.ret r) d).loomst ||| 2 }).addLoss e.1 0x0B 0xFFFF 0
          (r * 2 ^ 24 + sat16 d)
      else s.putRet r (slipNoted (s.ret r) d)) := by
  unfold slipped slipNoted
  dsimp only
  cases s.ctxOf (1024 * r) <;> by_cases hbig : 4096 ≤ d.natAbs <;> simp [hbig]

theorem slipped_of_free {s : State} {r : Nat} (h : s.ctxOf (1024 * r) = none) (d : Int) :
    s.slipped r d = s.putRet r (slipNoted (s.ret r) d) := by
  rw [slipped_eq, h]
  rfl

section
variable {s : State} {r p : Nat} {y : Context} {d : Int} (h : s.ctxOf (1024 * r) = some (p, y))
include h

theorem slipped_of_calm (hl : ¬ s.slipLoses r p d) : s.slipped r d = s.putRet r (slipNoted (s.ret r) d) := by
  rw [slipped_eq, h]
  exact if_neg (by simpa [slipLoses] using hl)

theorem slipped_of_loss (hl : s.slipLoses r p d) : s.slipped r d =
    (s.putRet r { slipNoted (s.ret r) d with loomst := (slipNoted (s.ret r) d).loomst ||| 2 }).addLoss p 0x0B 0xFFFF 0
      (r * 2 ^ 24 + sat16 d) := by
  rw [slipped_eq, h]
  exact if_pos (by simpa [slipLoses] using hl)

/-- The loss that a slip makes pending. -/
theorem slipped_lossPending (hr : r < 48) (hl : s.slipLoses r p d) : ((s.slipped r d).ret r).loomst.getLsbD 1 = true ∧
    ∃ l : Loss, l.cause = 0x0B ∧ ((s.slipped r d).part p).ctx = some { y with losses := y.losses ++ [l] } := by
  rw [slipped_of_loss h hl]
  constructor
  · show ((s.putRet r _).ret r).loomst.getLsbD 1 = true
    rw [ret_putRet s r _ hr]
    simp
  · obtain ⟨l, hctx, hcause⟩ := addLoss_ctxOf (s := s.putRet r { slipNoted (s.ret r) d with
      loomst := (slipNoted (s.ret r) d).loomst ||| 2 }) h 0x0B 0xFFFF 0 (r * 2 ^ 24 + sat16 d)
    exact ⟨l, hcause, (ctxOf_iff.mp hctx).2⟩

end

/-- A slip changes its reticle, and of the rest no more than the losses of the context there. -/
theorem slipped_frame (s : State) (r : Nat) (d : Int) : ∃ (w : Word) (ps : Vector Part 16), w.getLsbD 0 = false ∧
    s.slipped r d = { s.putRet r { slipNoted (s.ret r) d with loomst := (slipNoted (s.ret r) d).loomst ||| w } with parts := ps } := by
  have hnone : (slipNoted (s.ret r) d).loomst ||| 0 = (slipNoted (s.ret r) d).loomst := BitVec.or_zero
  cases hctx : s.ctxOf (1024 * r) with
  | none => exact ⟨0, s.parts, rfl, by rw [slipped_of_free hctx, hnone]; rfl⟩
  | some e =>
    by_cases hl : s.slipLoses r e.1 d
    · exact ⟨2, _, rfl, slipped_of_loss hctx hl⟩
    · exact ⟨0, s.parts, rfl, by rw [slipped_of_calm hctx hl, hnone]; rfl⟩

theorem slipped_kept (s : State) {r : Nat} (hr : r < 48) (d : Int) : s.roundKept r (s.slipped r d) := by
  obtain ⟨w, ps, -, h⟩ := s.slipped_frame r d
  obtain ⟨hon, hbase, -, -⟩ := slipNoted_loom (s.ret r) d
  rw [h]
  exact putRet_roundKept s hr (x := { slipNoted (s.ret r) d with loomst := (slipNoted (s.ret r) d).loomst ||| w }) hon hbase

/-- A round whose δ all agree is a slip by δ of the reticle whose round is closed. -/
theorem classifyRound_same {s : State} {r : Nat} {d : Int} (h : (s.ret r).deltas ≠ []) (hne : roundDeltas (s.ret r) ≠ [])
    (hsame : ∀ e ∈ roundDeltas (s.ret r), e.2 = d) (hd : d ≠ 0) :
    s.classifyRound r = (s.putRet r (closed (s.ret r))).slipped r d := by
  rw [classifyRound_eq h, classify_of_same hne hsame hd]
  rfl

/-- Closing the round changes nothing that a loss by the slip goes by. -/
theorem slipLoses_closed (s : State) {r : Nat} (hr : r < 48) (p : Nat) (d : Int) :
    (s.putRet r (closed (s.ret r))).slipLoses r p d ↔ s.slipLoses r p d := by
  unfold slipLoses
  rw [ret_putRet s r _ hr]
  rfl

/-- What a slip leaves at its reticle: a small one is repaired, a large one waits for the realignment. -/
theorem slipped_ret {s : State} {r : Nat} (hr : r < 48) (d : Int) :
    let y := (s.slipped r d).ret r
    y.deltas = (s.ret r).deltas ∧ y.round = (s.ret r).round ∧
      (d.natAbs < 4096 → y.repair = some d ∧ y.realign = none ∧ y.loomst.getLsbD 0 = true) ∧
      (4096 ≤ d.natAbs → y.repair = none ∧ y.realign = some d ∧ y.loomst.getLsbD 0 = false) := by
  obtain ⟨w, ps, hw, h⟩ := s.slipped_frame r d
  have hret : (s.slipped r d).ret r = { slipNoted (s.ret r) d with loomst := (slipNoted (s.ret r) d).loomst ||| w } := by
    rw [h]
    exact ret_putRet s r _ hr
  obtain ⟨-, -, hdeltas, hround⟩ := slipNoted_loom (s.ret r) d
  rw [hret]
  refine ⟨hdeltas, hround, fun hsmall => ?_, fun hbig => ?_⟩
  · have hnote : slipNoted (s.ret r) d = _ := if_neg (Nat.not_le.mpr hsmall)
    rw [hnote]
    exact ⟨rfl, rfl, by rw [BitVec.getLsbD_or, getLsbD_or_one]; rfl⟩
  · have hnote : slipNoted (s.ret r) d = _ := if_pos hbig
    rw [hnote]
    exact ⟨rfl, rfl, by rw [BitVec.getLsbD_or, hw]; simp⟩

/-- A round that shows one nonzero δ: what becomes of its reticle, and of the context that is bound there. -/
theorem classifyRound_slip {s : State} {r : Nat} {d : Int} (hr : r < 48) (h : (s.ret r).deltas ≠ []) (hne : roundDeltas (s.ret r) ≠ [])
    (hsame : ∀ e ∈ roundDeltas (s.ret r), e.2 = d) (hd : d ≠ 0) :
    let t := s.classifyRound r
    let y := t.ret r
    s.roundKept r t ∧ y.deltas = [] ∧ y.round = none ∧
      (d.natAbs < 4096 → y.repair = some d ∧ y.realign = none ∧ y.loomst.getLsbD 0 = true) ∧
      (4096 ≤ d.natAbs → y.repair = none ∧ y.realign = some d ∧ y.loomst.getLsbD 0 = false) ∧
      (s.ctxOf (1024 * r) = none → t.parts = s.parts) ∧
      ∀ p x, s.ctxOf (1024 * r) = some (p, x) →
        (s.slipLoses r p d → y.loomst.getLsbD 1 = true ∧
          ∃ l : Loss, l.cause = 0x0B ∧ (t.part p).ctx = some { x with losses := x.losses ++ [l] }) ∧
        (¬ s.slipLoses r p d → t.parts = s.parts) := by
  intro t y
  let u := s.putRet r (closed (s.ret r))
  have hu : u.ret r = closed (s.ret r) := ret_putRet s r _ hr
  have ht : t = u.slipped r d := classifyRound_same h hne hsame hd
  have hkept := u.slipped_kept hr d
  obtain ⟨hdeltas, hround, hsmall, hbig⟩ := slipped_ret (s := u) hr d
  rw [hu] at hdeltas hround
  rw [← ht] at hkept hdeltas hround hsmall hbig
  refine ⟨roundKept_trans (putRet_roundKept s hr (x := closed (s.ret r)) rfl rfl) hkept, hdeltas, hround, hsmall, hbig, fun hfree => ?_,
    fun p x hctx => ⟨fun hl => ?_, fun hl => ?_⟩⟩
  · rw [ht, slipped_of_free (s := u) hfree]
    rfl
  · have hloss := slipped_lossPending (s := u) hctx hr ((s.slipLoses_closed hr p d).mpr hl)
    rwa [← ht] at hloss
  · rw [ht, slipped_of_calm (s := u) hctx (mt (s.slipLoses_closed hr p d).mp hl)]
    rfl

/-! ### Repairs (rule R84) -/

/-- A reticle whose pending repair of δ is applied: its count jumps forward, or stands still. -/
def repaired (x : Reticle) (d : Int) : Reticle :=
  let y := { x with
    repair := none, nonzero := 0, deltas := [], loomst := countIn (setBits (setBits x.loomst 0 0 0) 47 32 (sat16 d)) 63 48 1 }
  if d < 0 then { y with loomBase := y.loomBase + BitVec.ofInt 64 d } else { y with stall := d.toNat }

theorem repaired_fields (x : Reticle) (d : Int) : (repaired x d).loomOn = x.loomOn ∧ (repaired x d).repair = none ∧
    (repaired x d).loomst = countIn (setBits (setBits x.loomst 0 0 0) 47 32 (sat16 d)) 63 48 1 := by
  unfold repaired
  dsimp only
  split <;> exact ⟨rfl, rfl, rfl⟩

/-- A repair clears LOOMST's bit of a pending repair and is counted. -/
theorem repaired_loomst (x : Reticle) (d : Int) : (repaired x d).loomst.getLsbD 0 = false ∧
    bits (repaired x d).loomst 63 48 = min 0xFFFF (bits x.loomst 63 48 + 1) := by
  obtain ⟨-, -, hst⟩ := repaired_fields x d
  rw [hst]
  constructor
  · unfold countIn
    rw [getLsbD_setBits _ _ _ _ _ (by decide), if_neg (by decide), getLsbD_setBits _ _ _ _ _ (by decide), if_neg (by decide),
      getLsbD_setBits _ _ _ _ _ (by decide), if_pos (by decide), Nat.zero_testBit]
  · rw [bits_countIn _ _ _ (by decide), bits_setBits_ne _ _ _ _ _ _ (by decide) (.inr (by decide)),
      bits_setBits_ne _ _ _ _ _ _ (by decide) (.inr (by decide))]
    rfl

theorem neighbour_ne {r e q : Nat} (h : neighbour r e = some q) : q ≠ r := by
  unfold neighbour at h
  split at h <;> (split at h <;> simp at h; omega)

/-- The neighbours of a repaired reticle forget what they saw of it. -/
def forgotten (s : State) (r sel : Nat) : State :=
  match neighbour r sel with
  | some n => s.putRet n { s.ret n with nonzero := (s.ret n).nonzero &&& ~~~(BitVec.ofNat 4 (2 ^ ((sel + 2) % 4))) }
  | none => s

/-- What the rest of a repair leaves: the cores, off-wafer memory, the cycle, and the reticle itself. -/
def repairKept (r : Nat) (s t : State) : Prop := s.coresKept t ∧ s.memKept t ∧ t.cycle = s.cycle ∧ t.ret r = s.ret r

theorem forgotten_repairKept {r : Nat} {s t : State} (h : s.repairKept r t) (sel : Nat) : s.repairKept r (t.forgotten r sel) := by
  unfold forgotten
  split
  · next n hn =>
    obtain ⟨hcores, hmem, hcycle, hret⟩ := h
    exact ⟨hcores, hmem, hcycle, (ret_putRet_ne t n r _ (neighbour_ne hn)).trans hret⟩
  · exact h

theorem onCtx_repairKept {r : Nat} {s t : State} (h : s.repairKept r t) (p : Nat) (f : Context → Context) :
    s.repairKept r (t.onCtx p f) := h

/-- A repair at its own reticle and its neighbours. -/
def repairSpread (s : State) (r : Nat) (d : Int) : State :=
  (List.range 4).foldl (fun s sel => s.forgotten r sel) (s.putRet r (repaired (s.ret r) d))

theorem repairSpread_kept (s : State) (r : Nat) (d : Int) :
    (s.putRet r (repaired (s.ret r) d)).repairKept r (s.repairSpread r d) :=
  List.foldlRecOn (motive := repairKept r _) _ _ ⟨⟨rfl, rfl⟩, ⟨rfl, rfl, rfl⟩, rfl, rfl⟩ fun _ h sel _ => forgotten_repairKept h sel

/-- A repair that is pending and may be applied is; a barrier of its partition waits for it. -/
theorem loomRepair_eq {s : State} {r : Nat} {d : Int} (hd : (s.ret r).repair = some d) (ht : s.repairTime r = true) :
    s.loomRepair r = ((s.repairSpread r d).ctxOf (1024 * r)).elim (s.repairSpread r d) (fun e =>
      (s.repairSpread r d).onCtx e.1 (fun y => { y with
        repairEnd := max e.2.repairEnd (s.cycle + (if d < 0 then 1 else d.toNat)), x0 := none })) := by
  unfold loomRepair
  extract_lets x
  have hx : x.repair = some d := hd
  rw [hx, ht]
  show (match (s.repairSpread r d).ctxOf (1024 * r) with
    | some (p, c) => (s.repairSpread r d).onCtx p (fun y => { y with
        repairEnd := max c.repairEnd (s.cycle + (if d < 0 then 1 else d.toNat)), x0 := none })
    | none => s.repairSpread r d) = _
  cases (s.repairSpread r d).ctxOf (1024 * r) <;> rfl

theorem loomRepair_spec {s : State} {r : Nat} {d : Int} (hr : r < 48) (hd : (s.ret r).repair = some d) (ht : s.repairTime r = true) :
    s.coresKept (s.loomRepair r) ∧ s.memKept (s.loomRepair r) ∧ (s.loomRepair r).cycle = s.cycle ∧
      (s.loomRepair r).ret r = repaired (s.ret r) d := by
  have hkept : (s.putRet r (repaired (s.ret r) d)).repairKept r (s.loomRepair r) := by
    rw [loomRepair_eq hd ht]
    cases (s.repairSpread r d).ctxOf (1024 * r) with
    | none => exact repairSpread_kept s r d
    | some e => exact onCtx_repairKept (repairSpread_kept s r d) _ _
  obtain ⟨hcores, hmem, hcycle, hret⟩ := hkept
  exact ⟨hcores, hmem, hcycle, hret.trans (ret_putRet s r _ hr)⟩

theorem loomRepair_of_idle {s : State} {r : Nat} (h : (s.ret r).repair = none ∨ s.repairTime r = false) : s.loomRepair r = s := by
  unfold loomRepair
  dsimp only
  split
  · rfl
  · next d hd =>
    rcases h with h | h
    · exact absurd (hd.symm.trans h) (Option.some_ne_none d)
    · rw [h]; rfl

/-- The copy of a repaired reticle: ahead by −δ, or as it was and about to stand still. -/
theorem loomRepair_loomOf {s : State} {r : Nat} {d : Int} (hr : r < 48) (hd : (s.ret r).repair = some d) (ht : s.repairTime r = true) :
    (d < 0 → (s.ret r).loomOn = true → (s.loomRepair r).loomOf r = s.loomOf r - BitVec.ofInt 64 d) ∧
      (0 ≤ d → ((s.loomRepair r).ret r).stall = d.toNat ∧ (s.loomRepair r).loomOf r = s.loomOf r) := by
  obtain ⟨-, -, hcycle, hret⟩ := loomRepair_spec hr hd ht
  obtain ⟨hon, -, -⟩ := repaired_fields (s.ret r) d
  constructor
  · intro hneg hrun
    have hbase : (repaired (s.ret r) d).loomBase = (s.ret r).loomBase + BitVec.ofInt 64 d := by
      unfold repaired
      dsimp only
      rw [if_pos hneg]
    unfold loomOf
    dsimp only
    rw [hret, hcycle, hon, hbase, if_pos hrun, if_pos hrun, sub_add_eq_sub_sub]
  · intro hpos
    have hstill : (repaired (s.ret r) d).stall = d.toNat ∧ (repaired (s.ret r) d).loomBase = (s.ret r).loomBase := by
      unfold repaired
      dsimp only
      rw [if_neg (Int.not_lt.mpr hpos)]
      exact ⟨rfl, rfl⟩
    exact ⟨by rw [hret, hstill.1], loomOf_congr hcycle (by rw [hret, hon]) (by rw [hret, hstill.2])⟩

end State

/-- Settles O40: samples by `openRound` and `joinRound`, a round's end by `classifyRound_zero` and `classifyRound_slip`, repairs by `loomRepair_spec`. -/
theorem loomAlignmentCompletes : Obligations.LoomAlignmentCompletes := by
  unfold Obligations.LoomAlignmentCompletes
  intro s r d hr hr48 x n kept sent ds
  subst hr
  refine ⟨fun hm hdue => ?_, fun hm hdue ho => ?_, fun hm hdue ho => ?_, fun sel a hon hsel hbad hcount => ?_,
    s.roundOver_iff _, fun hm ho => ?_, fun hm ho => ⟨fun hz => ?_, fun hne hsame hd => ?_⟩, fun h => ?_, fun hd ht => ?_⟩
  · exact congrArg Host.Outcome.next (State.sampleRound_idle hm hdue)
  · obtain ⟨hkept, hsent, hret, hparts⟩ := State.openRound_spec hr48 ho
    exact ⟨_, congrArg Host.Outcome.next (State.sampleRound_due hm hdue), hkept, hsent, hret, hparts⟩
  · obtain ⟨ht, hsent⟩ := State.openRound_extra ho
    exact ⟨_, congrArg Host.Outcome.next (State.sampleRound_due hm hdue), ht, hsent⟩
  · have hgood := State.sampleArrives_good (s := s) (m := { ret := s.arg.ret, sel := sel, arrive := s.cycle, count := a })
      (State.takesSample_of hon hsel hcount) hbad
    exact ⟨fun h => hgood.trans (State.joinRound_first h ..), fun h hnew => hgood.trans (State.joinRound_next h hnew _)⟩
  · exact congrArg Host.Outcome.next (State.sampleRound_open hm ho)
  · obtain ⟨hkept, hparts, hdeltas, hround, hrepair, hst⟩ := State.classifyRound_zero hr48 ((s.roundOver_iff _).mp ho).1 hz
    exact ⟨_, congrArg Host.Outcome.next (State.sampleRound_over hm ho), hkept, hparts, hdeltas, hround, hrepair, hst⟩
  · obtain ⟨hkept, hdeltas, hround, hsmall, hbig, hfree, hbound⟩ :=
      State.classifyRound_slip hr48 ((s.roundOver_iff _).mp ho).1 hne hsame hd
    exact ⟨_, congrArg Host.Outcome.next (State.sampleRound_over hm ho), hkept, hdeltas, hround, hsmall, hbig, hfree,
      fun p y hctx _ => hbound p y hctx⟩
  · exact congrArg Host.Outcome.next (State.loomRepair_of_idle h)
  · obtain ⟨hcores, hmem, hcycle, hret⟩ := State.loomRepair_spec hr48 hd ht
    obtain ⟨-, hrepair, -⟩ := State.repaired_fields x d
    obtain ⟨hbit, hcount⟩ := State.repaired_loomst x d
    obtain ⟨hahead, hstill⟩ := State.loomRepair_loomOf hr48 hd ht
    refine ⟨s.loomRepair s.arg.ret, rfl, hcores, hmem, ?_, ?_, ?_, hahead, hstill⟩ <;> rw [hret]
    · exact hrepair
    · exact hbit
    · exact hcount

end Sys2Proof.Machine
end

section
/-! Records that an engine forgets (rules R112, R316). -/

namespace Sys2Proof.Machine
open Sys2Proof

/-- Of an engine's records the one of the handle goes, and no other. -/
theorem dropRecord_only (tag x : Nat) (b : Block) : (∀ e ∈ (dropRecord tag x b).recs, e ∈ b.recs) ∧
    ∀ e ∈ b.recs, e ∉ (dropRecord tag x b).recs → e.tag = tag ∧ e.handle = x := by
  refine ⟨fun e he => ((mem_dropRecord ..).mp he).1, fun e he hn => ?_⟩
  by_contra h
  exact hn ((mem_dropRecord ..).mpr ⟨he, h⟩)

theorem recflPartEffect_blocks (o : R1aOps) (s : State) : (recflPartEffect o s).blocks = s.blocks.map (fun b =>
    if s.ownRegions.contains (regionOf (64 * b.idx)) && Config.freeNat (s.seed + b.idx) % 2 = 1
      then dropRecord s.tag (bits (s.core.rs o.a) 15 0) b else b) := rfl

/-- Each engine after RECFL.PART: as it was, or without the record of the handle. -/
theorem recflPartEffect_block {o : R1aOps} {s : State} {x : Block} (hx : x ∈ (recflPartEffect o s).blocks) :
    ∃ y ∈ s.blocks, x = y ∨ x = dropRecord s.tag (bits (s.core.rs o.a) 15 0) y := by
  rw [recflPartEffect_blocks] at hx
  obtain ⟨y, hy, rfl⟩ := List.mem_map.mp hx
  exact ⟨y, hy, (ite_eq_or_eq ..).symm⟩

theorem recflPartEffect_idx (o : R1aOps) (s : State) : (recflPartEffect o s).blocks.map (·.idx) = s.blocks.map (·.idx) := by
  rw [recflPartEffect_blocks, List.map_map]
  exact List.map_congr_left fun b _ => by dsimp only [Function.comp]; split <;> rfl

/-- Settles O21: RECFL filters the records of one engine, RECFL.PART those of some, and both by the tag and the handle alone. -/
theorem recordFlushesComplete : Obligations.RecordFlushesComplete := by
  unfold Obligations.RecordFlushesComplete
  intro s o hi h b blat kept k
  refine ⟨issue_bundle (.recfl o) o.g (recflEffect o) s hi, recflPartEffect o s,
    issue_bundle (.recflPart o) o.g (recflPartEffect o) s hi, rfl, recflPartEffect_idx o s, rfl, fun x hx => ?_⟩
  obtain ⟨y, hy, rfl | rfl⟩ := recflPartEffect_block hx
  · exact ⟨x, hy, rfl, fun e he => he, fun e he hn => absurd he hn⟩
  · exact ⟨y, hy, rfl, dropRecord_only ..⟩

end Sys2Proof.Machine
end

section
/-! Late writes that reach their homes: the bytes of memory that they change (rules R139 to R141). -/

namespace Sys2Proof.Machine
open Sys2Proof

theorem withEarlier_subset (p : LateWrite → Bool) : ∀ ws : List LateWrite, withEarlier p ws ⊆ ws
  | [] => List.Subset.refl _
  | w :: ws => by
    have ih := withEarlier_subset p ws
    unfold withEarlier
    dsimp only
    split
    · exact List.cons_subset_cons w ih
    · exact List.subset_cons_of_subset w ih

namespace State

/-- The bytes of a write are all among those of the writes on their way. -/
def carries (s : State) (w : LateWrite) : Prop := ∀ b ∈ w.bytes, ∃ x ∈ s.late, b ∈ x.bytes

/-- A byte of memory is that of no write on its way. -/
def untouched (s : State) (a : Nat) : Prop := ∀ x ∈ s.late, ∀ b ∈ x.bytes, b.1 ≠ a

/-- Writes on their way may have reached their homes: those that are left carry no new byte, and memory has changed at no byte that
none of them carries. -/
def homed (s t : State) : Prop := (∀ x ∈ t.late, s.carries x) ∧ ∀ a, s.untouched a → t.mem.read a = s.mem.read a

theorem carries_of_mem {s : State} {w : LateWrite} (h : w ∈ s.late) : s.carries w := fun _ hb => ⟨w, h, hb⟩

theorem homed_refl (s : State) : s.homed s := ⟨fun _ => carries_of_mem, fun _ _ => rfl⟩

/-- Neither memory nor the bytes of the writes on their way have changed since. -/
theorem homed_of {s t u : State} (h : s.homed t) (hlate : ∀ x ∈ u.late, ∃ y ∈ t.late, x.bytes = y.bytes) (hmem : u.mem = t.mem) :
    s.homed u := by
  obtain ⟨hl, hm⟩ := h
  refine ⟨fun x hx b hb => ?_, fun a ha => by rw [hmem, hm a ha]⟩
  obtain ⟨y, hy, he⟩ := hlate x hx
  exact hl y hy b (he ▸ hb)

theorem homed_trans {s t u : State} (h : s.homed t) (g : t.homed u) : s.homed u := by
  obtain ⟨hl, hm⟩ := h
  obtain ⟨gl, gm⟩ := g
  refine ⟨fun x hx b hb => ?_, fun a ha => ?_⟩
  · obtain ⟨y, hy, hby⟩ := gl x hx b hb
    exact hl y hy b hby
  · rw [gm a, hm a ha]
    intro y hy b hb
    obtain ⟨z, hz, hbz⟩ := hl y hy b hb
    exact ha z hz b hbz

theorem bytes_of_lateAfter {s : State} {w x : LateWrite} (h : x ∈ s.lateAfter w) : x ∈ s.late ∨ x.bytes = [] := by
  unfold lateAfter at h
  extract_lets copy at h
  split at h
  · rcases List.mem_append.mp h with h | h
    · exact .inl (List.mem_of_mem_erase h)
    · rw [List.mem_singleton.mp h]
      split <;> exact .inr rfl
  · exact .inl (List.mem_of_mem_erase h)

theorem performOne_read (s : State) {w : LateWrite} {a : Nat} (h : ∀ b ∈ w.bytes, b.1 ≠ a) :
    (s.performOne w).mem.read a = s.mem.read a := by
  have ha : (s.arrived w).mem.read a = s.mem.read a := by
    unfold arrived
    split
    · refine Memory.read_writeAll_of_not_mem fun hmem => ?_
      obtain ⟨b, hb, he⟩ := List.mem_map.mp hmem
      exact h b hb he
    · rfl
  rw [performOne_eq]
  split
  · exact ha
  · rw [onCore_mem, ha]

theorem performOne_homed {s t : State} (h : s.homed t) {w : LateWrite} (hw : s.carries w) : s.homed (t.performOne w) := by
  refine ⟨fun x hx => ?_, fun a ha => ?_⟩
  · rw [performOne_late] at hx
    rcases bytes_of_lateAfter hx with hx | hx
    · exact h.1 x hx
    · intro b hb
      rw [hx] at hb
      cases hb
  · rw [performOne_read, h.2 a ha]
    intro b hb
    obtain ⟨x, hx, hbx⟩ := hw b hb
    exact ha x hx b hbx

theorem performLate_homed {s t : State} (h : s.homed t) {w : LateWrite} (hw : s.carries w) : s.homed (t.performLate w) := by
  unfold performLate
  extract_lets s1
  have h1 : s.homed s1 := by
    simp only [s1]
    split
    · refine Core.foldl_of_kept (P := s.homed) (fun u v hv hu => performOne_homed hu (h.1 v ?_)) h
      exact (List.mem_filter.mp (List.mem_filter.mp hv).1).1
    · exact h
  split
  · exact performOne_homed h1 hw
  · exact h1

theorem performAll_homed (s : State) (p : LateWrite → Bool) : s.homed (s.performAll p) :=
  Core.foldl_of_kept (P := s.homed) (fun _ _ hw ht => performLate_homed ht (carries_of_mem (withEarlier_subset p _ hw))) s.homed_refl

theorem performAll_of_none {s : State} {p : LateWrite → Bool} (h : ∀ w ∈ s.late, p w = false) : s.performAll p = s := by
  rw [performAll, withEarlier_of_none h]
  rfl

theorem performed_retired {s t : State} (h : s.performed t) : t.retired = s.retired := by rw [h.1]

theorem readFrom_homed (s : State) (core group granule : Nat) : s.homed (s.readFrom core group granule) := by
  rw [readFrom_eq]
  extract_lets mine s1
  have h1 : s.homed s1 := performAll_homed s _
  split
  · exact s.homed_refl
  · split
    · exact h1
    · refine homed_of (homed_trans h1 (performAll_homed ..)) (fun x hx => ?_) rfl
      obtain ⟨y, hy, rfl⟩ := List.mem_map.mp hx
      refine ⟨y, hy, ?_⟩
      split <;> rfl

end State

end Sys2Proof.Machine
end

section
/-! Ports and links: the cards and the late writes of a way that changes (rules R92, R95, R139, R141, R325). -/

namespace Sys2Proof.Machine
open Sys2Proof

namespace State

/-- The cards that `hit` names and that have not ended have nothing left to do, carry an error and end soon; the others are as they
were. -/
def killed (s t : State) (hit : Card → Prop) : Prop :=
  t.cards.length = s.cards.length ∧
    ∀ (i : Nat) (c : Card), s.cards[i]? = some c → ∃ d : Card, t.cards[i]? = some d ∧
      (c.ended = false → hit c → ∃ e : Nat, e ≤ max c.notBefore (s.cycle + 2) ∧
        d = { c with granules := [], err := if c.err = 0 then 3 else c.err, endAt := some e }) ∧
      (c.ended = true ∨ ¬ hit c → d = c)

theorem killCards_killed {s u : State} (hc : u.cards = s.cards) (hy : u.cycle = s.cycle) {p : Card → Bool} {hit : Card → Prop}
    (h : ∀ c, p c = true ↔ hit c) : s.killed (u.killCards p) hit := by
  unfold killed killCards
  rw [hc, hy]
  refine ⟨List.length_map _, fun i c hi => ⟨_, by rw [List.getElem?_map, hi]; rfl, fun he hh => ?_, fun hn => ?_⟩⟩
  · refine ⟨_, Nat.min_le_right .., if_neg ?_⟩
    simp [he, (h c).mpr hh]
  · refine if_pos ?_
    rcases hn with he | hh
    · simp [he]
    · simp [(h c).not.mpr hh]

/-- A way has changed: no write stays on a link that its core's accesses no longer take, and beyond writes that have reached their homes
nothing of memory or of the cores' data has changed. -/
def moved (s t : State) : Prop :=
  s.dataKept t ∧ t.retired = s.retired ∧
    (∀ x ∈ t.late, x.link.isSome = true → x.link = t.linkOf (blockOf x.core) (64 * x.granule)) ∧
    (∀ a, s.untouched a → t.mem.read a = s.mem.read a) ∧
    ((∀ x ∈ s.late, x.link.isSome = true → x.link = t.linkOf (blockOf x.core) (64 * x.granule)) →
      s.memKept t ∧ s.coresKept t ∧ t.late = s.late)

theorem rerouted_moved {s u : State} (hc : s.coresKept u) (hm : s.memKept u) (hl : u.late = s.late) : s.moved u.rerouted := by
  have hp : u.performed u.rerouted := performAll_performed ..
  have hlink (b a : Nat) : u.rerouted.linkOf b a = u.linkOf b a := linkOf_of_module (performed_module hp) b a
  refine ⟨dataKept_trans (dataKept_of_cores hc) (performed_dataKept hp), (performed_retired hp).trans hm.2.2, fun x hx hs => ?_,
    fun a ha => ?_, fun hall => ?_⟩
  · by_contra hne
    rw [hlink] at hne
    exact performAll_clears u hs (by simpa [hs] using hne) hx
  · obtain ⟨-, hread⟩ : u.homed u.rerouted := performAll_homed ..
    rw [hread a (by unfold untouched; rwa [hl]), hm.1]
  · have hstay : u.rerouted = u := performAll_of_none fun x hx => by
      cases hs : x.link.isSome with
      | false => rfl
      | true =>
        have := hall x (hl ▸ hx) hs
        rw [hlink] at this
        simpa using this
    rw [hstay]
    exact ⟨hm, hc, hl⟩

theorem moved_of {s t u : State} (h : s.moved t) (hc : t.coresKept u) (hm : t.memKept u) (hl : u.late = t.late)
    (hmod : u.module = t.module) : s.moved u := by
  obtain ⟨hdata, hret, hlink, hmem, hstay⟩ := h
  have hway (b a : Nat) : u.linkOf b a = t.linkOf b a := linkOf_of_module hmod b a
  simp only [moved, hway, hl]
  refine ⟨dataKept_trans hdata (dataKept_of_cores hc), hm.2.2.trans hret, hlink, fun a ha => by rw [hm.1, hmem a ha], fun hall => ?_⟩
  obtain ⟨km, kc, kl⟩ := hstay hall
  exact ⟨memKept_trans km hm, ⟨hc.1.trans kc.1, hc.2.trans kc.2⟩, kl⟩

/-! ### Expander ports (rules R92, R93) -/

theorem cxlTrain_of_new {s : State} {p : Nat} (h : s.module.cxl.getD p .untrained = .untrained) (w : Word) :
    s.cxlTrain p w = { s with module := { s.module with
      cxl := s.module.cxl.setIfInBounds p .up, cxlp := s.module.cxlp.setIfInBounds p (w &&& 0x800000000FFFFFFF) } } := by
  rw [cxlTrain, h]
  rfl

theorem cxlTrain_of_trained {s : State} {p : Nat} (h : s.module.cxl.getD p .untrained ≠ .untrained) (w : Word) : s.cxlTrain p w = s :=
  if_pos (by simpa using h)

/-- The part once a port is down, its cards being as they were. -/
def cxlLost (s : State) (p : Nat) : State := { s with module := { s.module with cxl := s.module.cxl.setIfInBounds p .down } }

theorem cxlDown_of_up {s : State} {p : Nat} (h : s.module.cxl.getD p .untrained = .up) :
    s.cxlDown p = (s.cxlLost p).killCards (reaches (fun a => dpaClass a == 1 && cxlPort a == p)) := by
  rw [cxlDown, h]
  rfl

theorem cxlDown_of_not_up {s : State} {p : Nat} (h : s.module.cxl.getD p .untrained ≠ .up) : s.cxlDown p = s :=
  if_pos (by simpa using h)

theorem reaches_iff (p : Nat → Bool) (c : Card) : reaches p c = true ↔ ∃ g ∈ c.reach, p (64 * g) = true := List.any_eq_true

/-! ### Uller links (rules R95, R382) -/

def ullerUp (s : State) (q : Nat) (ranges : List (Nat × Nat)) : State :=
  { s with module := { s.module with
    uller := s.module.uller.setIfInBounds q .up, ullerRanges := s.module.ullerRanges ++ ranges } }

/-- The reticle beside an Uller link that has trained: UL is set while it is in stage B1, before the end of B1. -/
def ullerHeard (s : State) (q : Nat) : Reticle :=
  let x := s.ret (ullerCorner q)
  { x with boot := { x.boot with ul := x.boot.ul || (x.boot.stage == BootStage.b1 && decide (s.cycle < x.boot.start + linkTestAt)) } }

theorem ullerTrain_of_new {s : State} {q : Nat} (h : s.module.uller.getD q .untrained = .untrained) (ranges : List (Nat × Nat)) :
    s.ullerTrain q ranges = (s.ullerUp q ranges).rerouted.putRet (ullerCorner q) (s.ullerHeard q) := by
  rw [ullerTrain, h]
  rfl

theorem ullerTrain_of_trained {s : State} {q : Nat} (h : s.module.uller.getD q .untrained ≠ .untrained) (ranges : List (Nat × Nat)) :
    s.ullerTrain q ranges = s := if_pos (by simpa using h)

theorem ullerCorner_lt {q : Nat} (h : q < 4) : ullerCorner q < 48 := by
  rcases (by omega : q = 0 ∨ q = 1 ∨ q = 2 ∨ q = 3) with rfl | rfl | rfl | rfl <;> decide

def ullerLost (s : State) (q : Nat) : State := { s with module := { s.module with uller := s.module.uller.setIfInBounds q .down } }

theorem ullerLost_live (s : State) {q : Nat} : (s.ullerLost q).rerouted.module.uller.toList.any (· == .up) = true ↔
    ∃ i, i < 4 ∧ i ≠ q ∧ s.module.uller.getD i .untrained = .up := by
  have hmod : (s.ullerLost q).rerouted.module = (s.ullerLost q).module := performed_module (performAll_performed ..)
  rw [hmod, List.any_eq_true]
  constructor
  · rintro ⟨x, hx, hup⟩
    obtain ⟨i, hi, hget⟩ := List.mem_iff_getElem.mp hx
    have h4 : i < 4 := by simpa using hi
    have hup : x = .up := by simpa using hup
    rw [hup, Vector.getElem_toList] at hget
    have hne : i ≠ q := by
      rintro rfl
      simp [ullerLost] at hget
    refine ⟨i, h4, hne, ?_⟩
    simpa [ullerLost, Vector.getD, h4, hne, hne.symm, Vector.getElem_setIfInBounds] using hget
  · rintro ⟨i, h4, hne, hup⟩
    refine ⟨.up, List.mem_iff_getElem.mpr ⟨i, by simpa using h4, ?_⟩, rfl⟩
    simpa [ullerLost, Vector.getD, h4, hne, hne.symm, Vector.getElem_setIfInBounds] using hup

theorem ullerDown_of_up {s : State} {q : Nat} (h : s.module.uller.getD q .untrained = .up) :
    s.ullerDown q = if (s.ullerLost q).rerouted.module.uller.toList.any (· == .up) then (s.ullerLost q).rerouted
      else (s.ullerLost q).rerouted.killCards (reaches (fun a => dpaClass a == 2)) := by
  rw [ullerDown, h]
  rfl

theorem ullerDown_of_not_up {s : State} {q : Nat} (h : s.module.uller.getD q .untrained ≠ .up) : s.ullerDown q = s :=
  if_pos (by simpa using h)

/-! ### Weft ports and routes (rules R324, R325, R397) -/

def weftUp (s : State) (p : Nat) : State := { s with module := { s.module with weft := s.module.weft.setIfInBounds p .up } }

theorem weftTrain_of_new {s : State} {p : Nat} (h : s.module.weft.getD p .untrained = .untrained) (short : Bool) :
    s.weftTrain p short = if short then (s.weftUp p).advise 8 else s.weftUp p := by
  rw [weftTrain, h]
  rfl

theorem weftTrain_of_trained {s : State} {p : Nat} (h : s.module.weft.getD p .untrained ≠ .untrained) (short : Bool) :
    s.weftTrain p short = s := if_pos (by simpa using h)

def weftLost (s : State) (p : Nat) : State := { s with module := { s.module with weft := s.module.weft.setIfInBounds p .down } }

/-- The link instructions of a port that is down end in error (rule R324). -/
def linksEnd (s t : State) (p : Nat) : State :=
  { t with links := t.links.map (fun l => if l.port == p then
    { l with err := if l.err = 0 then 3 else l.err, endAt := some (s.cycle + 1) } else l) }

theorem weftDown_of_up {s : State} {p : Nat} (h : s.module.weft.getD p .untrained = .up) : s.weftDown p =
    s.linksEnd ((s.weftLost p).killCards (stillReaches (fun a => dpaClass a == 4 && s.weftPortOf a == p))) p := by
  rw [weftDown, h]
  rfl

theorem weftDown_of_not_up {s : State} {p : Nat} (h : s.module.weft.getD p .untrained ≠ .up) : s.weftDown p = s :=
  if_pos (by simpa using h)

theorem stillReaches_iff (p : Nat → Bool) (c : Card) :
    stillReaches p c = true ↔ ∃ g ∈ c.granules, ∃ a ∈ g.targets, a < 2 ^ 56 ∧ p a = true := by
  simp only [stillReaches, List.any_eq_true, Bool.and_eq_true, decide_eq_true_eq]

/-- A route entry that is taken names a port count of 1 to 6 where it is valid, ports that exist, and another module. -/
def routeSound (n : Nat) (w : Word) : Prop :=
  (w.getLsbD 63 = true → 1 ≤ bits w 11 9 ∧ bits w 11 9 ≤ 6) ∧ bits w 5 0 + bits w 11 9 ≤ 36 ∧ n ≠ Config.moduleNumber % 64

theorem wrouteSet_test (n : Nat) (w : Word) : let v := w &&& 0x8000000000000E3F
    ((v.getLsbD 63 && (bits v 11 9 == 0 || bits v 11 9 == 7)) || decide (36 < bits v 5 0 + bits v 11 9)
      || n == Config.moduleNumber % 64) = true ↔ ¬ routeSound n w := by
  intro v
  have h63 : v.getLsbD 63 = w.getLsbD 63 := by
    rw [BitVec.getLsbD_and, show (0x8000000000000E3F : Word).getLsbD 63 = true by decide, Bool.and_true]
  have hcount : bits v 11 9 = bits w 11 9 := bits_and_of_ones (by decide)
  have hport : bits v 5 0 = bits w 5 0 := bits_and_of_ones (by decide)
  have hlt := bits_lt w 11 9
  unfold routeSound
  simp only [h63, hcount, hport, Bool.or_eq_true, Bool.and_eq_true, beq_iff_eq, decide_eq_true_eq]
  rw [not_and_or, not_and_or, Classical.not_imp]
  refine or_assoc.trans (or_congr (and_congr_right fun _ => ?_) (or_congr ?_ ?_))
  · omega
  · omega
  · exact not_ne_iff.symm

theorem wrouteSet_of_bad {s : State} {n : Nat} {w : Word} (h : ¬ routeSound n w) : s.wrouteSet n w = s :=
  if_pos ((wrouteSet_test n w).mpr h)

def routePut (s : State) (n : Nat) (w : Word) : State :=
  { s with module := { s.module with wroute := s.module.wroute.setIfInBounds n (w &&& 0x8000000000000E3F) } }

theorem wrouteSet_of_good {s : State} {n : Nat} {w : Word} (h : routeSound n w) : s.wrouteSet n w = (s.routePut n w).rerouted :=
  if_neg fun ht => (wrouteSet_test n w).mp ht h

end State

end Sys2Proof.Machine
end

section
/-! The events of ports, links and routes. -/

namespace Sys2Proof.Machine
open Sys2Proof

namespace State

/-- An Uller link trains (rules R95, R382). -/
theorem ullerTrain_spec {s : State} {q : Nat} (h : s.module.uller.getD q .untrained = .untrained) (hq : q < 4)
    (ranges : List (Nat × Nat)) : let t := s.ullerTrain q ranges
    s.moved t ∧ t.module = (s.ullerUp q ranges).module ∧ t.ret (ullerCorner q) = s.ullerHeard q ∧
      ∀ r, r ≠ ullerCorner q → t.ret r = s.ret r := by
  have hp : (s.ullerUp q ranges).performed (s.ullerUp q ranges).rerouted := performAll_performed ..
  have hmove : s.moved (s.ullerUp q ranges).rerouted := rerouted_moved ⟨rfl, rfl⟩ ⟨rfl, rfl, rfl⟩ rfl
  dsimp only
  rw [ullerTrain_of_new h]
  refine ⟨moved_of hmove ⟨rfl, rfl⟩ ⟨rfl, rfl, rfl⟩ rfl rfl, (performed_module hp :), ret_putRet _ _ _ (ullerCorner_lt hq), fun r hr => ?_⟩
  rw [ret_putRet_ne _ _ _ _ hr.symm, ret, hp.1]
  rfl

/-- An Uller link goes down (rule R95). -/
theorem ullerDown_spec {s : State} {q : Nat} (h : s.module.uller.getD q .untrained = .up) : let t := s.ullerDown q
    s.moved t ∧ t.module = (s.ullerLost q).module ∧
      ((∃ i, i < 4 ∧ i ≠ q ∧ s.module.uller.getD i .untrained = .up) → t.cards = s.cards) ∧
      ((∀ i, i < 4 → i ≠ q → s.module.uller.getD i .untrained ≠ .up) → s.killed t (fun c => ∃ g ∈ c.reach, dpaClass (64 * g) = 2)) := by
  have hp : (s.ullerLost q).performed (s.ullerLost q).rerouted := performAll_performed ..
  have hmove : s.moved (s.ullerLost q).rerouted := rerouted_moved ⟨rfl, rfl⟩ ⟨rfl, rfl, rfl⟩ rfl
  have hcards : (s.ullerLost q).rerouted.cards = s.cards := (performed_cards hp :)
  have hcycle : (s.ullerLost q).rerouted.cycle = s.cycle := by
    rw [hp.1]
    rfl
  dsimp only
  rw [ullerDown_of_up h]
  split
  · next hlive =>
    obtain ⟨i, hi, hne, hup⟩ := s.ullerLost_live.mp hlive
    exact ⟨hmove, performed_module hp, fun _ => hcards, fun hnone => absurd hup (hnone i hi hne)⟩
  · next hdead =>
    refine ⟨moved_of hmove ⟨rfl, rfl⟩ ⟨rfl, rfl, rfl⟩ rfl rfl, (performed_module hp :), fun hlive => absurd (s.ullerLost_live.mpr hlive) hdead,
      fun _ => killCards_killed hcards hcycle fun c => ?_⟩
    simp only [reaches_iff, beq_iff_eq]

/-- A weft port trains (rule R397). -/
theorem weftTrain_spec {s : State} {p : Nat} (h : s.module.weft.getD p .untrained = .untrained) (short : Bool) :
    let t := s.weftTrain p short
    s.memKept t ∧ s.coresKept t ∧ t.module.weft = s.module.weft.setIfInBounds p .up ∧
      (short = true → t.module.radv.getLsbD 8 = true) ∧ (short = false → t.module.radv = s.module.radv) := by
  dsimp only
  rw [weftTrain_of_new h]
  cases short with
  | false => exact ⟨⟨rfl, rfl, rfl⟩, ⟨rfl, rfl⟩, rfl, Bool.noConfusion, fun _ => rfl⟩
  | true =>
    rw [if_pos rfl]
    obtain ⟨hcores, hmem, _, _, _, hmod⟩ := (s.weftUp p).advise_kept 8
    refine ⟨⟨hmem, ?_, ?_⟩, hcores, by rw [hmod]; rfl, fun _ => advise_radv _ (by decide), Bool.noConfusion⟩ <;>
    · unfold advise
      split <;> rfl

end State

/-- Settles O47: each event's branch is chosen by the state of its port; cards end by `killCards_killed`, writes leave links by
`rerouted_moved`. -/
theorem portEventsComplete : Obligations.PortEventsComplete := by
  unfold Obligations.PortEventsComplete
  intro s n m w killed route moved
  refine ⟨fun h => congrArg Host.Outcome.next (State.cxlTrain_of_new h w), fun h => congrArg Host.Outcome.next (State.cxlTrain_of_trained h w),
    fun h => ?_, fun h => congrArg Host.Outcome.next (State.cxlDown_of_not_up h), fun h hn => ?_,
    fun h => congrArg Host.Outcome.next (State.ullerTrain_of_trained h _), fun h => ?_,
    fun h => congrArg Host.Outcome.next (State.ullerDown_of_not_up h), fun h => ?_,
    fun h => congrArg Host.Outcome.next (State.weftTrain_of_trained h _), fun h => ?_,
    fun h => congrArg Host.Outcome.next (State.weftDown_of_not_up h),
    fun hgood => ?_, fun hbad => congrArg Host.Outcome.next (State.wrouteSet_of_bad hbad)⟩
  · refine ⟨_, congrArg Host.Outcome.next (State.cxlDown_of_up h), ⟨rfl, rfl, rfl⟩, ⟨rfl, rfl⟩, rfl,
      State.killCards_killed rfl rfl fun c => ?_⟩
    simp only [State.reaches_iff, Bool.and_eq_true, beq_iff_eq]
    rfl
  · obtain ⟨hmove, hmod, hown, hother⟩ := State.ullerTrain_spec h hn s.arg.ranges
    exact ⟨_, rfl, hmove, hmod, hown, hother⟩
  · obtain ⟨hmove, hmod, hlive, hdead⟩ := State.ullerDown_spec h
    exact ⟨_, rfl, hmove, hmod, hlive, hdead⟩
  · obtain ⟨hmem, hcores, hweft, hshort, hfull⟩ := State.weftTrain_spec h (s.arg.m == 1)
    exact ⟨_, rfl, hmem, hcores, hweft, fun h1 => hshort (by simpa using h1), fun h1 => hfull (by simpa using h1)⟩
  · refine ⟨_, congrArg Host.Outcome.next (State.weftDown_of_up h), ⟨rfl, rfl, rfl⟩, ⟨rfl, rfl⟩, rfl,
      State.killCards_killed (u := s.weftLost n) rfl rfl fun c => ?_, rfl⟩
    simp only [State.stillReaches_iff, Bool.and_eq_true, beq_iff_eq]
    rfl
  · have hp : (s.routePut n w).performed (s.routePut n w).rerouted := State.performAll_performed ..
    exact ⟨_, congrArg Host.Outcome.next (State.wrouteSet_of_good hgood),
      State.rerouted_moved ⟨rfl, rfl⟩ ⟨rfl, rfl, rfl⟩ rfl, (State.performed_cards hp :), (State.performed_module hp :)⟩

end Sys2Proof.Machine
end

section
/-! Power regions: limits, gates, droop and heat (rules R399 to R404). -/

namespace Sys2Proof.Machine
open Sys2Proof

namespace State

/-- What a power event of a region leaves: the cores, off-wafer memory and every other region. -/
def regionKept (r : Nat) (s t : State) : Prop := s.coresKept t ∧ s.memKept t ∧ ∀ q, q ≠ r → t.region q = s.region q

theorem putRegion_regionKept (s : State) (r : Nat) (x : Region) : s.regionKept r (s.putRegion r x) :=
  ⟨⟨rfl, rfl⟩, ⟨rfl, rfl, rfl⟩, fun _ hq => region_putRegion_ne _ _ _ _ hq.symm⟩

/-- The pair that begins in a region is gated, and counted in a field of RPST or not. -/
def gatedAt (r hi lo : Nat) (counted : Bool) (s t : State) : Prop :=
  s.regionKept r t ∧ (t.region r).gated = true ∧ bits (t.region r).rpst hi lo =
    if counted then min (2 ^ (hi + 1 - lo) - 1) (bits (s.region r).rpst hi lo + 1) else bits (s.region r).rpst hi lo

section
variable {s : State} {r : Nat}

theorem gate_gatedAt (s : State) (hr : r < 16) {hi : Nat} (h : hi < 64) (lo : Nat) (counted : Bool) :
    s.gatedAt r hi lo counted (s.gate r hi lo counted) := by
  unfold gate
  dsimp only
  refine ⟨putRegion_regionKept .., ?_⟩
  rw [region_putRegion _ _ _ hr]
  cases counted with
  | false => exact ⟨rfl, rfl⟩
  | true => exact ⟨rfl, bits_countIn _ lo 1 h⟩

/-! ### Written limits (rules R399, R401, R403, R404) -/

theorem rpctlSet_refused {w : Word} (h : rpFloor w ≤ rpAlarm w) :
    s.rpctlSet r w = s.putRegion r { s.region r with rpst := (s.region r).rpst ||| 0x10 } := if_pos h

theorem rpctlSet_accepted {w : Word} (h : rpAlarm w < rpFloor w) :
    s.rpctlSet r w = s.putRegion r { s.region r with rpnext := some (w &&& 0x00FFFF00FFFFFFFF) } := if_neg (Nat.not_le.mpr h)

theorem rthermSet_refused {w : Word} (h : rtCrit w ≤ rtHot w ∨ 0x78 < rtCrit w) :
    s.rthermSet r w = s.putRegion r { s.region r with rpst := (s.region r).rpst ||| 0x10 } := if_pos (by simpa using h)

theorem rthermSet_accepted {w : Word} (h : rtHot w < rtCrit w) (hmax : rtCrit w ≤ 0x78) :
    s.rthermSet r w = s.putRegion r { s.region r with rthnext := some (w &&& 0x0000FFFF00000000) } :=
  if_neg (by simp only [Bool.or_eq_true, decide_eq_true_eq]; omega)

theorem mstagSet_ignored {w : Word} (h : 52000 < msPlim w ∨ msPlim w < 10000) : s.mstagSet w = s := if_pos (by simpa using h)

theorem mstagSet_accepted {w : Word} (h : 10000 ≤ msPlim w) (hmax : msPlim w ≤ 52000) :
    s.mstagSet w = { s with module := { s.module with mstagNext := some (w &&& 0x0000000FFFF0000F) } } :=
  if_neg (by simp only [Bool.or_eq_true, decide_eq_true_eq]; omega)

/-- The region as its next step begins. -/
def stepped (s : State) (r : Nat) : Region :=
  let x := s.region r
  let n := (s.regionLoom r).toNat / 320
  { x with
    prev := if x.step = some (n - 1) && 0 < n then x.act else 0, act := 0, step := some n
    rpctl := x.rpnext.getD x.rpctl, rpnext := none, rtherm := x.rthnext.getD x.rtherm, rthnext := none }

theorem activityStep_region (hr : r < 16) : (s.activityStep r).region r = s.stepped r := region_putRegion s r (s.stepped r) hr

theorem activityStep_regionKept : s.regionKept r (s.activityStep r) := s.putRegion_regionKept r (s.stepped r)

/-! ### Gates (rules R400, R402) -/

theorem inCompute_of_inExchange (h : s.inExchange r = true) : s.inCompute r = false := by
  unfold inExchange at h
  unfold inCompute
  cases hp : s.partOfRegion r with
  | none => rfl
  | some p =>
    simp only [hp] at h ⊢
    cases hc : (s.part p).ctx with
    | none => rfl
    | some x =>
      simp only [hc] at h ⊢
      rw [← Option.not_isSome, h]
      rfl

theorem byDroop_of_inExchange (h : s.inExchange r = true) : s.byDroop r = false := by
  rw [byDroop, inCompute_of_inExchange h, Bool.false_and, Bool.false_and]

theorem issueGate_of_late (h : s.pairStart r = false) : s.issueGate r = s := by rw [issueGate, h]; rfl
theorem droopAlarm_of_late (h : s.pairStart r = false) : s.droopAlarm r = s := by rw [droopAlarm, h]; rfl
theorem droopFloor_of_late (h : s.pairStart r = false) : s.droopFloor r = s := by rw [droopFloor, h]; rfl
theorem thermalHot_of_late (h : s.pairStart r = false) : s.thermalHot r = s := by rw [thermalHot, h]; rfl
theorem thermalCrit_of_late (h : s.pairStart r = false) : s.thermalCrit r = s := by rw [thermalCrit, h]; rfl
theorem powerGate_of_late (h : s.pairStart r = false) : s.powerGate r = s := by rw [powerGate, h]; rfl

section
variable (hp : s.pairStart r = true)
include hp

theorem issueGate_free (h : s.byStep r = false) : s.issueGate r = s.putRegion r { s.region r with gated := false } := by
  rw [issueGate, hp, h]
  rfl

theorem issueGate_step (h : s.byStep r = true) : s.issueGate r = s.gate r 63 48 (!s.byHeat r && !s.byDroop r) := by
  rw [issueGate, hp, h]
  rfl

theorem droopAlarm_gates (ha : s.alarmNow r = true) (hd : s.byDroop r = true) : s.droopAlarm r = s.gate r 47 32 (!s.byHeat r) := by
  rw [droopAlarm, hp, ha, hd]
  rfl

/-- In an exchange phase the alarm is counted and gates nothing. -/
theorem droopAlarm_counts (ha : s.alarmNow r = true) (hx : s.inExchange r = true) (hf : s.floorNow r = false) :
    s.droopAlarm r = s.putRegion r { s.region r with rpst := countIn (s.region r).rpst 15 8 1 } := by
  rw [droopAlarm, hp, ha, byDroop_of_inExchange hx, hx, hf]
  rfl

theorem droopFloor_loses (hf : s.floorNow r = true) (hx : s.inExchange r = true) {p : Nat} (hpart : s.partOfRegion r = some p) :
    s.droopFloor r = s.addLoss p 0x0C 0xFFFF 0 r := by
  rw [droopFloor, hp, hf, hx, hpart]
  rfl

theorem droopFloor_gates (hf : s.floorNow r = true) (hd : s.byDroop r = true) (hx : s.inExchange r = false)
    (ha : s.alarmNow r = false) : s.droopFloor r = s.gate r 47 32 (!s.byHeat r) := by
  rw [droopFloor, hp, hf, hx, hd, ha]
  rfl

theorem thermalHot_gates (hh : s.byHeat r = true) (hc : s.critNow r = false) : s.thermalHot r = s.gate r 31 16 true := by
  rw [thermalHot, hp, hh, hc]
  rfl

theorem thermalCrit_gates (hh : s.byHeat r = true) (hc : s.critNow r = true) : s.thermalCrit r = s.gate r 31 16 true := by
  rw [thermalCrit, hp, hh, hc]
  rfl

/-- Module power gates the pair and sets PWRG. -/
theorem powerGate_gates (hr : r < 16) (hb : s.byPower r = true) : let t := s.powerGate r
    s.regionKept r t ∧ (t.region r).gated = true ∧ (t.region r).rpst.getLsbD 5 = true := by
  obtain ⟨⟨⟨hcore, hothers⟩, ⟨hmem, hpoison, hret⟩, hregions⟩, hgated, -⟩ := s.gate_gatedAt hr (show 0 < 64 by decide) 0 false
  have hgate : s.powerGate r = (s.gate r 0 0 false).putRegion r
      { (s.gate r 0 0 false).region r with rpst := ((s.gate r 0 0 false).region r).rpst ||| 0x20 } := by
    rw [powerGate, hp, hb]
    rfl
  dsimp only
  rw [hgate]
  obtain ⟨⟨gcore, gothers⟩, ⟨gmem, gpoison, gret⟩, gregions⟩ := (s.gate r 0 0 false).putRegion_regionKept r
    { (s.gate r 0 0 false).region r with rpst := ((s.gate r 0 0 false).region r).rpst ||| 0x20 }
  refine ⟨⟨⟨gcore.trans hcore, gothers.trans hothers⟩, ⟨gmem.trans hmem, gpoison.trans hpoison, gret.trans hret⟩,
    fun q hq => (gregions q hq).trans (hregions q hq)⟩, ?_⟩
  rw [region_putRegion _ _ _ hr]
  refine ⟨hgated, ?_⟩
  rw [BitVec.getLsbD_or, show (0x20 : Word).getLsbD 5 = true by decide, Bool.or_true]

end

/-- A loss joins those that are pending for a partition's context, and no region changes. -/
theorem addLoss_spec (s : State) {p : Nat} (hp : p < 16) {y : Context} (hy : (s.part p).ctx = some y) (r cause k a v : Nat) :
    s.regionKept r (s.addLoss p cause k a v) ∧ ∃ l : Loss, l.cause = cause ∧
      ((s.addLoss p cause k a v).part p).ctx = some { y with losses := y.losses ++ [l] } := by
  refine ⟨⟨⟨rfl, rfl⟩, ⟨rfl, rfl, rfl⟩, fun _ _ => rfl⟩,
    { cause := cause, core := k, cba := a, val := v, loom := s.cycle, step := y.step, inX := y.xphase.isSome }, rfl, ?_⟩
  unfold addLoss onCtx
  dsimp only
  rw [part_putPart _ _ _ hp, hy]
  rfl

end

end State

end Sys2Proof.Machine
end

section
/-! A loss of power: what the writes of cards leave in the persistent ranges (rules R93, R402). -/

namespace Sys2Proof.Machine
open Sys2Proof

/-- A logged write has a byte at an address. -/
def GranuleLog.touches (a : Nat) (e : GranuleLog) : Prop := ∃ b ∈ e.bytes, b.1 = a

/-- An address holds what one of several logged writes left there. -/
def Memory.leftBy (m : Memory) (a : Nat) (es : List GranuleLog) : Prop := ∃ e ∈ es, ∃ b ∈ e.bytes, b.1 = a ∧ m.read a = b.2.2

theorem Memory.leftBy_of_subset {m : Memory} {a : Nat} {es fs : List GranuleLog} (hs : es ⊆ fs) (h : m.leftBy a es) : m.leftBy a fs := by
  obtain ⟨e, he, hb⟩ := h
  exact ⟨e, hs he, hb⟩

namespace State

/-! ### One side of a write -/

section
variable (t : State) {e : GranuleLog} {a : Nat} (side : Nat × Byte × Byte → Byte) (mark : Option Bool)

theorem putSide_frame : t.putSide e side mark = { t with mem := (t.putSide e side mark).mem, poison := (t.putSide e side mark).poison } :=
  rfl

theorem putSide_read_other (h : ¬ e.touches a) : (t.putSide e side mark).mem.read a = t.mem.read a := by
  refine Memory.read_writeAll_of_not_mem fun hmem => h ?_
  obtain ⟨w, hw, rfl⟩ := List.mem_map.mp hmem
  obtain ⟨b, hb, rfl⟩ := List.mem_map.mp hw
  exact ⟨b, hb, rfl⟩

theorem putSide_read_own (hn : (e.bytes.map (·.1)).Nodup) {b : Nat × Byte × Byte} (hb : b ∈ e.bytes) :
    (t.putSide e side mark).mem.read b.1 = side b := by
  have hw : (b.1, side b) ∈ e.bytes.map (fun b => (b.1, side b)) := List.mem_map.mpr ⟨b, hb, rfl⟩
  exact Memory.read_writeAll_of_mem (m := t.mem) (by rwa [List.map_map]) hw

theorem putSide_read_cases (a : Nat) : (t.putSide e side mark).mem.read a = t.mem.read a ∨
    ∃ b ∈ e.bytes, b.1 = a ∧ (t.putSide e side mark).mem.read a = side b := by
  show (t.mem.writeAll _).read a = _ ∨ ∃ b ∈ e.bytes, b.1 = a ∧ (t.mem.writeAll _).read a = _
  rw [Memory.read_writeAll]
  cases hl : ((e.bytes.map (fun b => (b.1, side b))).filter (fun w => w.1 == a)).getLast? with
  | none => exact .inl rfl
  | some w =>
    obtain ⟨hw, ha⟩ := List.mem_filter.mp (List.mem_of_getLast? hl)
    obtain ⟨b, hb, rfl⟩ := List.mem_map.mp hw
    exact .inr ⟨b, hb, by simpa using ha, rfl⟩

end

/-! ### Writes taken back and made again -/

/-- Writes taken back, latest first. -/
def undone (s : State) (es : List GranuleLog) : State := es.foldr (fun e s => s.putSide e (·.2.1) (some e.was)) s

/-- Those of the writes made again that `s` does not lose, oldest first. -/
def redone (s : State) (es : List GranuleLog) (t : State) : State :=
  es.foldl (fun t e => if s.lost e then t else t.putSide e (·.2.2) e.mark) t

theorem tearCards_eq (s : State) : s.tearCards = s.redone s.journal (s.undone s.journal) := rfl

theorem tearCards_frame (s : State) : s.tearCards = { s with mem := s.tearCards.mem, poison := s.tearCards.poison } := by
  have hundo : s.undone s.journal = { s with mem := (s.undone s.journal).mem, poison := (s.undone s.journal).poison } :=
    List.foldrRecOn (motive := fun t : State => t = { s with mem := t.mem, poison := t.poison }) _ _ rfl fun t h e _ => by
      rw [putSide_frame, h]
  exact List.foldlRecOn (motive := fun t : State => t = { s with mem := t.mem, poison := t.poison }) _ _ hundo fun t h e _ => by
    split
    · exact h
    · rw [putSide_frame, h]

section
variable (s t : State) {a : Nat}

theorem undone_append (xs ys : List GranuleLog) : s.undone (xs ++ ys) = (s.undone ys).undone xs := List.foldr_append

theorem redone_append (xs ys : List GranuleLog) : s.redone (xs ++ ys) t = s.redone ys (s.redone xs t) := List.foldl_append

theorem undone_read_other {es : List GranuleLog} (h : ∀ e ∈ es, ¬ e.touches a) : (s.undone es).mem.read a = s.mem.read a :=
  List.foldrRecOn (motive := fun t : State => t.mem.read a = s.mem.read a) _ _ rfl fun t ht e he => by
    rw [putSide_read_other _ _ _ (h e he), ht]

theorem redone_read_other {es : List GranuleLog} (h : ∀ e ∈ es, ¬ e.touches a) : (s.redone es t).mem.read a = t.mem.read a :=
  List.foldlRecOn (motive := fun u : State => u.mem.read a = t.mem.read a) _ _ rfl fun u hu e he => by
    split
    · exact hu
    · rw [putSide_read_other _ _ _ (h e he), hu]

/-- After writes are made again an address holds what it held, or what one of them left. -/
theorem redone_read_cases (es : List GranuleLog) :
    (s.redone es t).mem.read a = t.mem.read a ∨ (s.redone es t).mem.leftBy a es := by
  induction es generalizing t with
  | nil => exact .inl rfl
  | cons e es ih =>
    have hcons : s.redone (e :: es) t = s.redone es (if s.lost e then t else t.putSide e (·.2.2) e.mark) := rfl
    rw [hcons]
    rcases ih (if s.lost e then t else t.putSide e (·.2.2) e.mark) with h | h
    · rw [h]
      split
      · exact .inl rfl
      · next hl =>
        rcases t.putSide_read_cases (e := e) (·.2.2) e.mark a with hc | ⟨b, hb, hba, hc⟩
        · exact .inl hc
        · refine .inr ⟨e, List.mem_cons_self, b, hb, hba, ?_⟩
          rw [if_neg hl] at h
          rw [h, hc]
    · exact .inr (Memory.leftBy_of_subset (List.subset_cons_self e es) h)

end

section
variable {s : State} {xs ys : List GranuleLog} {e : GranuleLog} {b : Nat × Byte × Byte} (hj : s.journal = xs ++ e :: ys)
  (hb : b ∈ e.bytes) (hn : (e.bytes.map (·.1)).Nodup)
include hj hb hn

/-- A byte holds what stood there before the first write that it was in, or what a write left since (rule R93). -/
theorem tearCards_read_old (hx : ∀ x ∈ xs, ¬ x.touches b.1) :
    s.tearCards.mem.read b.1 = b.2.1 ∨ s.tearCards.mem.leftBy b.1 (e :: ys) := by
  have htear : s.tearCards = s.redone (e :: ys) (s.redone xs (s.undone s.journal)) := by rw [← redone_append, ← hj, tearCards_eq]
  have hold : (s.redone xs (s.undone s.journal)).mem.read b.1 = b.2.1 := by
    rw [redone_read_other _ _ hx, hj, undone_append, undone_read_other _ hx]
    exact putSide_read_own _ (·.2.1) (some e.was) hn hb
  rw [htear, ← hold]
  exact redone_read_cases ..

/-- A byte of a write that is not lost holds what that write left, or what a later one did. -/
theorem tearCards_read_new (hc : ∀ c ∈ s.cards, e.card ≠ some c.id) :
    s.tearCards.mem.read b.1 = b.2.2 ∨ s.tearCards.mem.leftBy b.1 ys := by
  have hkept : s.lost e = false := by
    unfold lost
    cases hcard : e.card with
    | none => rfl
    | some id =>
      have : s.cards.any (fun c => c.id == id) = false := by
        rw [List.any_eq_false]
        intro c hm he
        exact hc c hm (by rw [hcard, eq_of_beq he])
      dsimp only
      rw [this, Bool.false_and]
  have htear : s.tearCards = s.redone (e :: ys) (s.redone xs (s.undone s.journal)) := by rw [← redone_append, ← hj, tearCards_eq]
  have hnew : (s.redone [e] (s.redone xs (s.undone s.journal))).mem.read b.1 = b.2.2 := by
    rw [redone, List.foldl_cons, List.foldl_nil, hkept]
    exact putSide_read_own _ (·.2.2) _ hn hb
  rw [htear, ← List.singleton_append, redone_append, ← hnew]
  exact redone_read_cases ..

end

/-! ### The part without power -/

theorem isPersistent_of_module {s t : State} (h : t.module = s.module) (a : Nat) : t.isPersistent a = s.isPersistent a := by
  rw [isPersistent, persistent, h]
  rfl

theorem loseDown_read (s : State) (a : Nat) :
    s.loseDown.mem.read a = if s.isPersistent a then s.tearCards.mem.read a else 0 := by
  have hmod : s.tearCards.module = s.module := by rw [tearCards_frame]
  have h := memory_read_filter s.tearCards.mem (fun a => !s.tearCards.isPersistent a) a
  simp only [Bool.not_not, isPersistent_of_module hmod] at h
  have hmem : s.loseDown.mem.read a = Memory.read { cells := s.tearCards.mem.cells.filter (fun c => s.isPersistent c.1) } a := by
    simp only [← isPersistent_of_module hmod]
    rfl
  rw [hmem, h]
  cases s.isPersistent a <;> rfl

theorem loseDown_ret (s : State) {q : Nat} (h : q < 48) : s.loseDown.ret q =
    { Reticle.reset 0 with fused := (s.ret q).fused, live := (s.ret q).fused } := by
  have hret : s.tearCards.reticles = s.reticles := by rw [tearCards_frame]
  show (s.tearCards.reticles.map _).getD q _ = _
  simp [hret, ret, Vector.getD, h]

end State

/-- Settles O51: a limit is taken or refused by its test, a pair is gated by `gate_gatedAt`, and `tearCards` decides the persistent bytes. -/
theorem powerEventsComplete : Obligations.PowerEventsComplete := by
  unfold Obligations.PowerEventsComplete
  intro s r hr hr16 w x kept gated same refused
  subst hr
  refine ⟨fun h => congrArg Host.Outcome.next (State.rpctlSet_refused h), fun h => congrArg Host.Outcome.next (State.rpctlSet_accepted h),
    fun h => congrArg Host.Outcome.next (State.rthermSet_refused h), fun h hm => congrArg Host.Outcome.next (State.rthermSet_accepted h hm),
    fun h => congrArg Host.Outcome.next (State.mstagSet_ignored h), fun h hm => congrArg Host.Outcome.next (State.mstagSet_accepted h hm),
    ?_, fun hp i hi => ?_, fun hp => ⟨fun h => ?_, fun h => ?_, fun ha hd => ?_, fun ha hx hf => ?_, fun hf hx p y hpart hp16 hy => ?_,
      fun hf hd hx ha => ?_, fun hh hc => ?_, fun hh hc => ?_, fun hb => ?_⟩, fun i hi => ?_⟩
  · refine ⟨_, rfl, State.activityStep_regionKept, ?_⟩
    rw [State.activityStep_region hr16]
    refine ⟨?_, rfl, rfl, rfl, rfl, rfl, rfl, rfl, rfl⟩
    unfold State.stepped
    simp only [Bool.and_eq_true, decide_eq_true_eq]
    rfl
  · rcases hi with rfl | rfl | rfl | rfl | rfl | rfl
    · exact congrArg Host.Outcome.next (State.issueGate_of_late hp)
    · exact congrArg Host.Outcome.next (State.droopAlarm_of_late hp)
    · exact congrArg Host.Outcome.next (State.droopFloor_of_late hp)
    · exact congrArg Host.Outcome.next (State.thermalHot_of_late hp)
    · exact congrArg Host.Outcome.next (State.thermalCrit_of_late hp)
    · exact congrArg Host.Outcome.next (State.powerGate_of_late hp)
  · exact congrArg Host.Outcome.next (State.issueGate_free hp h)
  · exact ⟨_, congrArg Host.Outcome.next (State.issueGate_step hp h), State.gate_gatedAt s hr16 (by decide) ..⟩
  · exact ⟨_, congrArg Host.Outcome.next (State.droopAlarm_gates hp ha hd), State.gate_gatedAt s hr16 (by decide) ..⟩
  · refine ⟨_, congrArg Host.Outcome.next (State.droopAlarm_counts hp ha hx hf), State.putRegion_regionKept .., ?_⟩
    rw [State.region_putRegion _ _ _ hr16]
    exact ⟨bits_countIn _ 8 1 (by decide), rfl⟩
  · obtain ⟨hk, l, hl, hctx⟩ := State.addLoss_spec s hp16 hy s.arg.region 0x0C 0xFFFF 0 s.arg.region
    exact ⟨_, l, congrArg Host.Outcome.next (State.droopFloor_loses hp hf hx hpart), hk, hl, hctx⟩
  · exact ⟨_, congrArg Host.Outcome.next (State.droopFloor_gates hp hf hd hx ha), State.gate_gatedAt s hr16 (by decide) ..⟩
  · exact ⟨_, congrArg Host.Outcome.next (State.thermalHot_gates hp hh hc), State.gate_gatedAt s hr16 (by decide) ..⟩
  · exact ⟨_, congrArg Host.Outcome.next (State.thermalCrit_gates hp hh hc), State.gate_gatedAt s hr16 (by decide) ..⟩
  · exact ⟨_, rfl, State.powerGate_gates hp hr16 hb⟩
  · have hmod : s.tearCards.module = s.module := by rw [State.tearCards_frame]
    refine ⟨s.loseDown, by rcases hi with rfl | rfl <;> rfl, rfl, rfl, State.coreOf_reset, (congrArg Module.instkey hmod :),
      fun q hq => ?_, fun p => ?_, fun a => ⟨fun ha => ?_, fun ha he => ?_, fun xs e ys old new ha hj hb hn => ⟨fun hx => ?_, fun hc => ?_⟩⟩⟩
    · rw [State.loseDown_ret s hq]
      exact ⟨rfl, rfl⟩
    · exact congrArg Part.ctx (State.part_reset p)
    · rw [State.loseDown_read, ha]
      rfl
    · rw [State.loseDown_read, if_pos ha, State.tearCards_eq, State.redone_read_other _ _ he, State.undone_read_other _ he]
    · rw [State.loseDown_read, if_pos ha]
      exact State.tearCards_read_old hj hb hn hx
    · rw [State.loseDown_read, if_pos ha]
      exact State.tearCards_read_new hj hb hn hc

end Sys2Proof.Machine
end

section
/-! What a release's preparation leaves (rules R31, R35, R98, R112, R120). -/

namespace Sys2Proof.Machine
open Sys2Proof

namespace State

/-- Caches, logs and marks of a fetch may have changed: of the acting core its caches and its buffer alone, and beyond it neither
memory nor the cards and writes on their way. -/
def fetched (s t : State) : Prop :=
  t = { s with
    core := { s.core with aux := t.core.aux }, reticles := t.reticles, blocks := t.blocks, module := t.module, parts := t.parts
    nextId := t.nextId }

theorem fetched_trans {s t u : State} (h : s.fetched t) (g : t.fetched u) : s.fetched u := by
  unfold fetched at h g ⊢
  rw [g, h]

theorem logEntry_fetched (s : State) (l w : Word) : s.fetched (s.logEntry l w) := by
  simp only [fetched, logEntry]

theorem markFor_fetched (s : State) (a : Nat) : s.fetched (s.markFor a) := by
  unfold markFor
  split <;> rfl

theorem fetchError_fetched (s : State) (a : Nat) : s.fetched (s.fetchError a) :=
  fetched_trans (logEntry_fetched ..) (markFor_fetched ..)

theorem fillTlb_fetched {s : State} {l : Leaf} {pins : Nat} {t : State × Nat} (h : s.fillTlb l pins = some t) : s.fetched t.1 := by
  obtain ⟨_, -, rfl⟩ := Option.map_eq_some_iff.mp h
  rfl

theorem translateFill_fetched (s : State) (va : Nat) (need : Nat → Nat) (pins : Nat) :
    s.fetched (s.translateFill va need pins).1 := by
  unfold translateFill
  split
  · dsimp only
    split
    · exact fetched_trans (logEntry_fetched ..) (markFor_fetched ..)
    · rfl
  · split
    · rfl
    · extract_lets t
      have ht : s.fetched t := by
        simp only [t]
        split <;> rfl
      split
      · next h => exact fetched_trans ht (fillTlb_fetched h)
      · exact ht

end State

/-- A property of the part that fetches and reads leave true. -/
structure FetchKept (P : State → Prop) : Prop where
  fetched : ∀ {s t : State}, P s → s.fetched t → P t
  read : ∀ {s : State} (core group granule : Nat), P s → P (s.readFrom core group granule)

section
variable {P : State → Prop} (hP : FetchKept P)

/-- What a step of a preparation leaves, in both of its outcomes. -/
theorem Try.Leaves.of_eq {α : Type} {x : Try α} (hx : x.Leaves P) {p q : Prep} (h : P p.s) {r : Except Refuse α}
    (hr : x.upTo p = (r, q)) : P q.s := by
  have := hx p h
  rwa [hr] at this

include hP

theorem deckWord_leaves (va card : Nat) : (deckWord va card).Leaves P := by
  unfold deckWord
  refine Try.leaves_get fun p hp => ?_
  extract_lets s
  split
  · exact Try.leaves_pure _
  · refine Try.leaves_bind (Try.leaves_spend _) fun _ => ?_
    have ht : P (s.translateFetch va).1 := hP.fetched hp (State.translateFill_fetched ..)
    generalize s.translateFetch va = t at ht
    obtain ⟨u, r⟩ := t
    refine Try.leaves_bind (Try.leaves_setState ht) fun _ => ?_
    split
    · exact Try.leaves_throw _
    · extract_lets a v
      split
      · exact Try.leaves_bind (Try.leaves_setState (hP.fetched ht (State.fetchError_fetched ..))) fun _ => Try.leaves_throw _
      · split
        · exact Try.leaves_throw _
        · exact Try.leaves_bind (Try.leaves_setState (hP.fetched (hP.read _ _ _ ht) rfl)) fun _ => Try.leaves_pure _

theorem deckWords_leaves (card : Nat) : ∀ vas : List Nat, (deckWords card vas).Leaves P
  | [] => Try.leaves_pure _
  | _ :: vas => Try.leaves_bind (deckWord_leaves hP _ card) fun _ =>
      Try.leaves_bind (deckWords_leaves card vas) fun _ => Try.leaves_pure _

theorem fetchHead_leaves : fetchHead.Leaves P := by
  unfold fetchHead
  refine Try.leaves_get fun p _ => ?_
  extract_lets s va
  split
  · exact Try.leaves_throw _
  · exact Try.leaves_bind (deckWords_leaves hP _ _) fun _ => Try.leaves_pure _

theorem fetchCards_leaves (h : DeckHead) : ∀ cs : List (Nat × Nat), (fetchCards h cs).Leaves P
  | [] => Try.leaves_pure _
  | (_, _) :: rest => Try.leaves_bind (deckWords_leaves hP _ _) fun _ =>
      Try.leaves_bind (fetchCards_leaves h rest) fun _ => Try.leaves_pure _

theorem fetchStage_leaves : fetchStage.Leaves P := by
  unfold fetchStage
  refine Try.leaves_bind (fetchHead_leaves hP) fun _ => Try.leaves_get fun _ _ => Try.leaves_bind (deckWord_leaves hP _ _) fun _ => ?_
  exact Try.leaves_bind (fetchCards_leaves hP _ _) fun _ => Try.leaves_bind (deckSound_leaves _) fun _ => Try.leaves_pure _

theorem fetchTemplate_leaves (t : Nat) : (fetchTemplate t).Leaves P := by
  unfold fetchTemplate
  refine Try.leaves_bind (fetchHead_leaves hP) fun _ => Try.leaves_bind (fetchCards_leaves hP _ _) fun _ => ?_
  exact Try.leaves_bind (deckSound_leaves _) fun _ => Try.leaves_pure _

theorem fetchRecord_leaves (card h : Nat) : (fetchRecord card h).Leaves P := by
  unfold fetchRecord
  refine Try.leaves_get fun p hp => ?_
  extract_lets s b va
  split
  · exact Try.leaves_bind (Try.leaves_setState (hP.fetched hp rfl)) fun _ => Try.leaves_pure _
  · split
    · exact Try.leaves_throw _
    · refine Try.leaves_bind (Try.leaves_spend _) fun _ => ?_
      have ht : P (s.translateFetch va).1 := hP.fetched hp (State.translateFill_fetched ..)
      generalize s.translateFetch va = t at ht
      obtain ⟨u, r⟩ := t
      refine Try.leaves_bind (Try.leaves_setState ht) fun _ => ?_
      split
      · exact Try.leaves_throw _
      · extract_lets a seen sick
        have herr : P (sick.foldl (fun s i => s.fetchError (a + 64 * i)) u) :=
          List.foldlRecOn (motive := P) _ _ ht fun _ h _ _ => hP.fetched h (State.fetchError_fetched ..)
        have hread : P ((List.range 3).foldl (fun s i => s.readFrom s.core.idx 0 (a / 64 + i)) u) :=
          List.foldlRecOn (motive := P) _ _ ht fun _ h _ _ => hP.read _ _ _ h
        split
        · exact Try.leaves_bind (Try.leaves_setState herr) fun _ => Try.leaves_throw _
        · split
          · exact Try.leaves_throw _
          · exact Try.leaves_bind (Try.leaves_setState (hP.fetched hread rfl)) fun _ => Try.leaves_pure _

theorem fetchRecords_leaves : ∀ xs : List (Nat × CardWords), (fetchRecords xs).Leaves P
  | [] => Try.leaves_pure _
  | (_, _) :: rest => by
    unfold fetchRecords
    refine Try.leaves_bind (fetchRecord_leaves hP _ _) fun r => ?_
    extract_lets go_on
    have hgo (rs) : (go_on rs).Leaves P := Try.leaves_bind (fetchRecords_leaves rest) fun _ => Try.leaves_pure _
    split
    · exact Try.leaves_bind (fetchRecord_leaves hP _ _) fun _ => Try.leaves_bind (Try.leaves_pure _) hgo
    · exact Try.leaves_bind (Try.leaves_pure _) hgo

/-- What fetches and reads leave true, the whole look-up of a release does. -/
theorem planRelease_leaves {v : State} (h : P v) (t : Option (Nat × List Int)) : P (planRelease v t).2.s := by
  unfold planRelease
  extract_lets empty deck
  have hdeck : deck.Leaves P := by
    cases t with
    | none =>
      simp only [deck]
      split
      · exact Try.leaves_throw _
      · exact fetchStage_leaves hP
    | some t => exact fetchTemplate_leaves hP _
  have hpages (xs ps) : (releasePages [] xs ps).Leaves P :=
    releasePages_leaves (fun _ _ _ _ h => hP.fetched h (State.translateFill_fetched ..)) _ _ _
  split
  · next he => exact hdeck.of_eq h he
  · next hx cs p he =>
    have hp : P p.s := hdeck.of_eq h he
    extract_lets plan placed
    split
    · exact hp
    · split
      · next he => exact (fetchRecords_leaves hP _).of_eq hp he
      · next rs q he =>
        have hq : P q.s := (fetchRecords_leaves hP _).of_eq hp he
        extract_lets pulled
        split
        · exact hq
        · split
          · next he => exact (hpages _ _).of_eq hq he
          · next he => exact (hpages _ _).of_eq hq he

end

namespace State

/-- What a release's preparation has left of the part: the core's number, the cards and the cycle; of memory, writes that were on their
way may have reached their homes. -/
def prepared (v u : State) : Prop :=
  u.core.idx = v.core.idx ∧ u.cards = v.cards ∧ u.cycle = v.cycle ∧ v.homed u ∧ (v.late = [] → u.mem = v.mem ∧ u.late = [])

theorem prepared_fetchKept (v : State) : FetchKept v.prepared where
  fetched := fun {s t} hs ht => by
    obtain ⟨hidx, hcards, hcycle, hhome, hnone⟩ := hs
    rw [ht]
    exact ⟨hidx, hcards, hcycle, homed_of hhome (fun x hx => ⟨x, hx, rfl⟩) rfl, hnone⟩
  read := fun {s} core group granule hs => by
    obtain ⟨hidx, hcards, hcycle, hhome, hnone⟩ := hs
    have hp := readFrom_performed s core group granule
    refine ⟨?_, (performed_cards hp).trans hcards, ?_, homed_trans hhome (readFrom_homed ..), fun hv => ?_⟩
    · rw [hp.2.1]
      exact hidx
    · rw [hp.1]
      exact hcycle
    · rw [readFrom_of_late (hnone hv).2]
      exact hnone hv

theorem planRelease_prepared (v : State) (t : Option (Nat × List Int)) : v.prepared (planRelease v t).2.s :=
  planRelease_leaves v.prepared_fetchKept ⟨rfl, rfl, rfl, v.homed_refl, fun h => ⟨rfl, h⟩⟩ t

end State

end Sys2Proof.Machine
end

section
/-! Releases of cards (rules R122, R313 to R315): what one that is made leaves, and what one that is held. -/

namespace Sys2Proof.Machine
open Sys2Proof

/-! ### Tokens -/

theorem Regs.getTok_setToks (ts : List Nat) (x : Tok) {k : Nat} (hk : k < 8) : ∀ r : Regs, k ∈ ts ∨ r.getTok k = x →
    (ts.foldl (fun r t => r.setTok t x) r).getTok k = x := by
  induction ts with
  | nil => exact fun r h => h.resolve_left (List.not_mem_nil)
  | cons t ts ih =>
    refine fun r h => ih _ ?_
    by_cases ht : k = t
    · exact .inr (ht ▸ Regs.getTok_setTok r hk x)
    · rw [Regs.getTok_setTok_ne r ht]
      exact h.imp_left fun hm => (List.mem_cons.mp hm).resolve_left ht

theorem CardWords.pt_lt (c : CardWords) : c.pt < 8 := bits_lt c.w1 34 32

namespace State

theorem watched_keeps (s : State) (slot : Nat) (hit : Option (Nat × Nat)) :
    (s.watched slot hit).core.reg = s.core.reg ∧ (s.watched slot hit).cards = s.cards := by
  unfold watched
  split <;> exact ⟨rfl, rfl⟩

theorem pinBlocks_keeps (s : State) (cards : List Card) (ps : List PageOf) :
    (s.pinBlocks cards ps).core = s.core ∧ (s.pinBlocks cards ps).cards = s.cards := by
  unfold pinBlocks
  extract_lets nm hit
  split
  · exact ⟨rfl, rfl⟩
  · exact List.foldlRecOn (motive := fun t : State => t.core = s.core ∧ t.cards = s.cards) _ _ ⟨rfl, rfl⟩ fun _ h _ _ => h

end State

/-- The cards of a release join those in flight, and their tokens are pending (rules R122, R123). -/
theorem effectRelease_spec (v : State) (p : ReleasePlan) :
    (effectRelease v p).cards = v.cards ++ p.pulls.map (newCard v p.pages) ∧
      (effectRelease v p).core.reg = (p.pulls.map (fun x => x.card.pt)).foldl (fun r t => r.setTok t .pending) v.core.reg := by
  unfold effectRelease
  extract_lets xs cards s1 s2 pts s3 s4 ranges
  obtain ⟨hcore, hcards⟩ : s2.core = s1.core ∧ s2.cards = v.cards ++ cards := State.pinBlocks_keeps _ cards p.pages
  obtain ⟨hreg, hwatch⟩ := s4.watched_keeps 6 (watchHit s4.core 62 57 (ranges.flatMap (·.1)) (ranges.flatMap (·.2)))
  have h4 : s4.core.reg = pts.foldl (fun r t => r.setTok t .pending) v.core.reg ∧ s4.cards = v.cards ++ cards := by
    have h3 : s3.core.reg = pts.foldl (fun r t => r.setTok t .pending) v.core.reg := by
      simp only [s3, State.act_core, hcore]
      rfl
    simp only [s4]
    split
    · refine ⟨?_, hcards⟩
      rw [State.act_core, (Core.emit_frame ..).1]
      exact h3
    · exact ⟨h3, hcards⟩
  exact ⟨hwatch.trans h4.2, hreg.trans h4.1⟩

theorem newCard_fields (v : State) (ps : List PageOf) (x : Pull) :
    (newCard v ps x).core = v.core.idx ∧ (newCard v ps x).released = v.cycle ∧ (newCard v ps x).pt = x.card.pt := ⟨rfl, rfl, rfl⟩

theorem settlePlan_released {v w : State} {p : ReleasePlan} (h : settlePlan v p = .released w) : w = effectRelease v p := by
  unfold settlePlan at h
  extract_lets inFlight at h
  split at h
  · cases h
  · split at h
    · cases h
    · cases h
    · exact (Settled.released.inj h).symm

/-- A release that is made at once, after a preparation that began with `v`. -/
theorem released_cards {v u w : State} {p : ReleasePlan} (hu : v.prepared u) (h : settlePlan u p = .released w) :
    ∃ xs : List Card, w.cards = v.cards ++ xs ∧
      ∀ c ∈ xs, c.core = v.core.idx ∧ c.released = v.cycle ∧ w.core.reg.getTok c.pt = .pending := by
  obtain ⟨hidx, hcards, hcycle, -, -⟩ := hu
  obtain ⟨hjoin, hreg⟩ := effectRelease_spec u p
  rw [settlePlan_released h, hjoin, hreg, hcards]
  refine ⟨_, rfl, fun c hc => ?_⟩
  obtain ⟨x, hx, rfl⟩ := List.mem_map.mp hc
  obtain ⟨hcore, hrel, hpt⟩ := newCard_fields u p.pages x
  refine ⟨hcore.trans hidx, hrel.trans hcycle, ?_⟩
  rw [hpt]
  exact Regs.getTok_setToks _ _ x.card.pt_lt _ (.inl (List.mem_map.mpr ⟨x, hx, rfl⟩))

namespace State

/-! ### An XC instruction alone in its bundle -/

/-- Nothing stands in the way of a bundle of `i` alone: no boundary trap, no exchange phase, no release already made and no precise
cause. -/
def clearFor (s : State) (i : Instr) : Prop :=
  s.arg.bundle = false ∧ s.boundaryCause s.landNow true = none ∧ s.landNow.core.inX = false ∧ s.landNow.core.ctl.passed = false ∧
    s.landNow.preciseCause 0 [slotWordOf i] = none

theorem readyAll_alone {v : State} {i : Instr} (hs : i.slot = some .xc) (hg : v.core.rp (i.word.extractLsb' 28 4) = true) :
    v.readyAll [slotWordOf i] = v.ready i := by
  have hslot : (slotWordOf i).slot = .xc := by
    unfold slotWordOf
    exact congrArg (·.getD .sa) hs
  have hguard : v.core.guard (slotWordOf i) = true := hg
  unfold readyAll
  rw [List.find?_cons_of_pos (by rw [hslot]; rfl)]
  exact if_pos hguard

section
variable {s : State} {i : Instr} (h : s.clearFor i)
include h

theorem vet_alone_go {w : State} (hr : s.landNow.readyAll [slotWordOf i] = .go w) :
    s.vet 0 [slotWordOf i] = .go (if releases [slotWordOf i] then w.latchRd s.landNow [slotWordOf i] else w) [slotWordOf i] := by
  obtain ⟨-, hb, hx, hp, hc⟩ := h
  have htok (k : Nat) : (0 : BitVec 8).getLsbD k = false := BitVec.getLsbD_zero
  simp only [vet, hb, hx, hp, hc, hr, htok, Bool.false_and, List.any_eq_true, Bool.false_eq_true, and_false, exists_false, if_false]

theorem vet_alone_hold {w : State} {k : HoldKind} {n : Nat} (hr : s.landNow.readyAll [slotWordOf i] = .hold k n w) :
    s.vet 0 [slotWordOf i] = .stop ((if releases [slotWordOf i] then (w.carry s).latchRd s.landNow [slotWordOf i]
      else w.carry s).holdBefore k n) := by
  obtain ⟨-, hb, hx, hp, hc⟩ := h
  have htok (k : Nat) : (0 : BitVec 8).getLsbD k = false := BitVec.getLsbD_zero
  simp only [vet, hb, hx, hp, hc, hr, htok, Bool.false_and, List.any_eq_true, Bool.false_eq_true, and_false, exists_false, if_false]

end

theorem readyRelease_now {v w : State} {t : Option (Nat × List Int)} (hp : v.core.ctl.passed = false)
    (hn : holdLength (planRelease v t).2.s .none (planRelease v t).2.cost = 0)
    (hw : settlePlan (planRelease v t).2.s (planRelease v t).1 = .released w) : v.readyRelease t = .go w := by
  unfold readyRelease
  simp [hp, hn, hw]

theorem readyRelease_held {v : State} {t : Option (Nat × List Int)} {n : Nat} (hp : v.core.ctl.passed = false)
    (hn : holdLength (planRelease v t).2.s .none (planRelease v t).2.cost = n) (hpos : 0 < n) :
    v.readyRelease t = .hold (.release { (planRelease v t).1 with odd := n % 2 == 1 }) n (planRelease v t).2.s.drawn := by
  unfold readyRelease
  simp [hp, hn, hpos]

/-! ### An instruction that makes a release -/

/-- `i` is an XC instruction with guard `g` whose readiness in `v` is that of the release of `t`, and which does nothing more as it
issues. -/
structure MakesRelease (i : Instr) (g : BitVec 4) (v : State) (t : Option (Nat × List Int)) : Prop where
  gate : ∀ s, exec i s = issue i g (fun s => s) s
  slot : i.slot = some .xc
  guard : i.word.extractLsb' 28 4 = g
  ready : v.ready i = v.readyRelease t
  releases : State.releases [slotWordOf i] = true
  latch : ∀ u w : State, u.latchRd w [slotWordOf i] = u

theorem cardAdv_makesRelease (z : ZOps) (v : State) : MakesRelease (.cardAdv z) z.g v none :=
  ⟨fun _ => rfl, rfl, ZOps.word_guard .., rfl, rfl, fun _ _ => rfl⟩

theorem cardIssue_makesRelease (o : R2Ops) (v : State) : MakesRelease (.cardIssue o) o.g v (some (v.issueArgs o.a o.b)) :=
  ⟨fun _ => rfl, rfl, R2Ops.word_guard .., rfl, rfl, fun _ _ => rfl⟩

theorem roundEven_eq (n : Nat) : roundEven n = (n + 1) / 2 * 2 := by
  unfold roundEven
  omega

theorem carry_cycle (u s : State) : (u.carry s).cycle = s.cycle := by
  obtain ⟨ht, -⟩ := signTaken_performed u s
  have h : (u.carry s).cycle = (u.signTaken s).cycle := rfl
  rw [h, ht]

section
variable {s : State} {i : Instr} {g : BitVec 4} {t : Option (Nat × List Int)} (hi : MakesRelease i g s.landNow t)
  (hg : s.landNow.core.rp g = true) (h : s.clearFor i)
include hi hg h

/-- A release made without a hold (rules R122, R313 to R315). -/
theorem MakesRelease.release_made {w : State} (hn : holdLength (planRelease s.landNow t).2.s .none (planRelease s.landNow t).2.cost = 0)
    (hw : settlePlan (planRelease s.landNow t).2.s (planRelease s.landNow t).1 = .released w) : exec i s = .next w.finish ∧
    ∃ xs : List Card, w.cards = s.landNow.cards ++ xs ∧
      ∀ c ∈ xs, c.core = s.core.idx ∧ c.released = s.cycle ∧ w.core.reg.getTok c.pt = .pending := by
  have hready := readyAll_alone hi.slot (hi.guard.symm ▸ hg)
  rw [hi.ready, readyRelease_now h.2.2.2.1 hn hw] at hready
  have hvet := vet_alone_go h hready
  rw [if_pos hi.releases, hi.latch] at hvet
  refine ⟨?_, ?_⟩
  · rw [hi.gate, (issue_alone i g _ s h.1).2 _ _ hvet, if_neg (show ¬ [slotWordOf i].isEmpty = true from Bool.false_ne_true)]
    split <;> rfl
  · have hmade := released_cards (planRelease_prepared s.landNow t) hw
    rwa [landNow_idx, landNow_cycle] at hmade

/-- A release that takes time holds its bundle, and nothing of it has happened (rules R34, R35). -/
theorem MakesRelease.release_held {n : Nat} (hn : holdLength (planRelease s.landNow t).2.s .none (planRelease s.landNow t).2.cost = n) (hpos : 0 < n) :
    ∃ (u : State) (k : Hold), exec i s = .next u ∧ u.core.ctl.hold = some k ∧
      k.kind = .release { (planRelease s.landNow t).1 with odd := n % 2 == 1 } ∧ k.since = s.cycle ∧ k.till = s.cycle + (n + 1) / 2 * 2 ∧
      u.cards = s.cards ∧ u.core.reg = s.core.reg ∧ u.core.mem = s.core.mem ∧ u.core.ctl.pc = s.core.ctl.pc ∧
      (s.late = [] → u.mem = s.mem) ∧ ∀ a, s.untouched a → u.mem.read a = s.mem.read a := by
  have hready := readyAll_alone hi.slot (hi.guard.symm ▸ hg)
  rw [hi.ready, readyRelease_held h.2.2.2.1 hn hpos] at hready
  have hvet := vet_alone_hold h hready
  rw [if_pos hi.releases, hi.latch] at hvet
  obtain ⟨-, -, -, ⟨-, hhome⟩, hnone⟩ := planRelease_prepared s.landNow t
  obtain ⟨hmem, hlate⟩ := s.landNow_lateKept
  have hcycle := carry_cycle (planRelease s.landNow t).2.s.drawn s
  refine ⟨_, _, (hi.gate s).trans ((issue_alone i g _ s h.1).1 _ hvet), rfl, rfl, hcycle, ?_, carry_cards .., ?_, ?_, ?_, ?_, ?_⟩
  · rw [← roundEven_eq, ← hcycle]
  · rw [holdBefore, act_core, carry_core]
  · rw [holdBefore, act_core, carry_core]
  · rw [holdBefore, act_core, carry_core]
  · exact fun h0 => (hnone (hlate.trans h0)).1.trans hmem
  · intro a ha
    have hread := hhome a (fun x hx => ha x (hlate ▸ hx))
    rwa [hmem] at hread

end

end State

/-- Settles O20: a release whose look-up costs no cycle is made as its bundle issues; one that costs cycles holds the bundle with what its
fetches have left, and fetches leave all but caches and the writes on their way. -/
theorem cardReleasesComplete : Obligations.CardReleasesComplete := by
  unfold Obligations.CardReleasesComplete
  intro s w z o v adv one clear held made
  refine ⟨issue_bundle (.cardAdv z) z.g (fun s => s) s, issue_bundle (.cardIssue o) o.g (fun s => s) s, ?_, ?_⟩
  · exact fun hg h => ⟨(State.cardAdv_makesRelease z v).release_made hg h, (State.cardAdv_makesRelease z v).release_held hg h rfl⟩
  · exact fun hg h => ⟨(State.cardIssue_makesRelease o v).release_made hg h, (State.cardIssue_makesRelease o v).release_held hg h rfl⟩

end Sys2Proof.Machine
end

section
/-! The region of a checkpoint: its bytes, their addresses and what they are places of (rules R93, R94; log entry 21). -/

namespace Sys2Proof.Machine
open Sys2Proof

/-! ### Bytes of a region and their addresses -/

/-- The bytes of the ranges together. -/
def regionBytes (rs : List (Nat × Nat)) : Nat := (rs.map (·.2)).foldl (· + ·) 0

/-- No range reaches into a later one. -/
def regionSorted (rs : List (Nat × Nat)) : Prop := rs.Pairwise (fun x y => x.1 + x.2 ≤ y.1)

/-- Every range begins and ends at a granule. -/
def regionWhole (rs : List (Nat × Nat)) : Prop := ∀ x ∈ rs, 64 ∣ x.1 ∧ 64 ∣ x.2

/-- The address of byte `i` of the region. -/
def placeIn (rs : List (Nat × Nat)) (i : Nat) : Nat := (regionAt rs i).getD 0

theorem regionBytes_cons (x : Nat × Nat) (rs : List (Nat × Nat)) : regionBytes (x :: rs) = x.2 + regionBytes rs := by
  simp only [regionBytes, ← List.sum_eq_foldl, List.map_cons, List.sum_cons]

theorem regionAt_some {rs : List (Nat × Nat)} : ∀ {i : Nat}, i < regionBytes rs → ∃ d, regionAt rs i = some d := by
  induction rs with
  | nil => exact fun h => absurd h (Nat.not_lt_zero _)
  | cons x rs ih =>
    intro i h
    rw [regionBytes_cons] at h
    unfold regionAt
    split
    · exact ⟨_, rfl⟩
    · exact ih (by omega)

theorem regionAt_in {rs : List (Nat × Nat)} {d : Nat} : ∀ {i : Nat}, regionAt rs i = some d → ∃ x ∈ rs, x.1 ≤ d ∧ d < x.1 + x.2 := by
  induction rs with
  | nil => exact fun h => nomatch h
  | cons x rs ih =>
    intro i h
    unfold regionAt at h
    split at h
    · next hi =>
      cases h
      exact ⟨x, List.mem_cons_self, by omega, by omega⟩
    · obtain ⟨y, hy, hd⟩ := ih h
      exact ⟨y, List.mem_cons_of_mem _ hy, hd⟩

theorem regionAt_of_regionOf {rs : List (Nat × Nat)} {d : Nat} : ∀ {i : Nat}, regionOf_ rs d = some i → regionAt rs i = some d := by
  induction rs with
  | nil => exact fun h => nomatch h
  | cons x rs ih =>
    intro i h
    unfold regionOf_ at h
    unfold regionAt
    split at h
    · next hd =>
      cases h
      simp only [Bool.and_eq_true, decide_eq_true_eq] at hd
      rw [if_pos (by omega), Nat.add_sub_cancel' hd.1]
    · obtain ⟨j, hj, rfl⟩ := Option.map_eq_some_iff.mp h
      rw [if_neg (by omega), Nat.add_sub_cancel, ih hj]

theorem regionOf_of_regionAt {rs : List (Nat × Nat)} (hs : regionSorted rs) {d : Nat} :
    ∀ {i : Nat}, regionAt rs i = some d → regionOf_ rs d = some i := by
  induction rs with
  | nil => exact fun h => nomatch h
  | cons x rs ih =>
    obtain ⟨hx, hrest⟩ := List.pairwise_cons.mp hs
    intro i h
    unfold regionAt at h
    unfold regionOf_
    split at h
    · next hi =>
      cases h
      rw [if_pos (by simpa using hi), Nat.add_sub_cancel_left]
    · obtain ⟨y, hy, hyd, -⟩ := regionAt_in h
      have := hx y hy
      rw [if_neg (by simp; omega), ih hrest h, Option.map_some, Nat.sub_add_cancel (by omega)]

theorem regionAt_placeIn {rs : List (Nat × Nat)} {i : Nat} (h : i < regionBytes rs) : regionAt rs i = some (placeIn rs i) := by
  obtain ⟨d, hd⟩ := regionAt_some h
  rw [placeIn, hd]
  rfl

theorem placeIn_of_regionOf {rs : List (Nat × Nat)} {d i : Nat} (h : regionOf_ rs d = some i) : placeIn rs i = d := by
  rw [placeIn, regionAt_of_regionOf h]
  rfl

theorem placeIn_cons (x : Nat × Nat) (rs : List (Nat × Nat)) (i : Nat) :
    (i < x.2 → placeIn (x :: rs) i = x.1 + i) ∧ (x.2 ≤ i → placeIn (x :: rs) i = placeIn rs (i - x.2)) := by
  exact ⟨fun h => congrArg (Option.getD · 0) (if_pos h), fun h => congrArg (Option.getD · 0) (if_neg (by omega))⟩

section
variable {rs : List (Nat × Nat)} (hs : regionSorted rs)
include hs

theorem regionOf_placeIn {i : Nat} (h : i < regionBytes rs) : regionOf_ rs (placeIn rs i) = some i :=
  regionOf_of_regionAt hs (regionAt_placeIn h)

theorem placeIn_inj {i j : Nat} (hi : i < regionBytes rs) (hj : j < regionBytes rs) (h : placeIn rs i = placeIn rs j) : i = j :=
  Option.some.inj ((regionOf_placeIn hs hi).symm.trans ((congrArg (regionOf_ rs) h).trans (regionOf_placeIn hs hj)))

end

/-- Granules of the region are granules of memory. -/
theorem regionAt_granule {rs : List (Nat × Nat)} (hw : regionWhole rs) {d : Nat} : ∀ {i : Nat}, regionAt rs i = some d →
    i % 64 = d % 64 ∧ regionAt rs (64 * (i / 64)) = some (64 * (d / 64)) := by
  induction rs with
  | nil => exact fun h => nomatch h
  | cons x rs ih =>
    intro i h
    obtain ⟨hx1, hx2⟩ := hw x List.mem_cons_self
    unfold regionAt at h ⊢
    split at h
    · next hi =>
      cases h
      rw [if_pos (by omega)]
      exact ⟨by omega, congrArg some (by omega)⟩
    · next hi =>
      obtain ⟨hmod, hat⟩ := ih (fun y hy => hw y (List.mem_cons_of_mem _ hy)) h
      rw [if_neg (by omega), show 64 * (i / 64) - x.2 = 64 * ((i - x.2) / 64) by omega]
      exact ⟨by omega, hat⟩

theorem placeIn_granule {rs : List (Nat × Nat)} (hw : regionWhole rs) {i : Nat} (h : i < regionBytes rs) :
    placeIn rs i % 64 = i % 64 ∧ placeIn rs (64 * (i / 64)) = 64 * (placeIn rs i / 64) := by
  obtain ⟨hmod, hat⟩ := regionAt_granule hw (regionAt_placeIn h)
  refine ⟨hmod.symm, ?_⟩
  conv_lhs => rw [placeIn, hat]
  rfl

theorem State.persistent_whole (s : State) : regionWhole s.persistent := by
  intro x hx
  obtain ⟨p, -, hp⟩ := List.mem_filterMap.mp hx
  dsimp only at hp
  split at hp
  · cases hp
    dsimp only
    omega
  · cases hp

/-! ### Places of HBM -/

theorem ckptOfDpa_iff {a i : Nat} : ckptOfDpa a = some i ↔
    ∃ st off, st < 24 ∧ off < stackBytes ∧ a = st * 2 ^ 36 + off ∧ i = 4096 + st * stackBytes + off := by
  have hbound : stackBytes < 2 ^ 36 := by decide
  unfold ckptOfDpa
  constructor
  · intro h
    split at h
    · next hc =>
      cases h
      simp only [Bool.and_eq_true, decide_eq_true_eq] at hc
      obtain ⟨⟨⟨hclass, hst⟩, hmid⟩, hoff⟩ := hc
      refine ⟨hbmStack a, hbmOffset a, hst, hoff, ?_, rfl⟩
      have hlow : a / 2 ^ 41 = 0 := by
        unfold dpaClass at hclass
        omega
      unfold hbmStack hbmOffset
      omega
    · cases h
  · rintro ⟨st, off, hst, hoff, rfl, rfl⟩
    have h1 : hbmStack (st * 2 ^ 36 + off) = st := by unfold hbmStack; omega
    have h2 : hbmOffset (st * 2 ^ 36 + off) = off := by unfold hbmOffset; omega
    have h3 : dpaClass (st * 2 ^ 36 + off) = 0 := by unfold dpaClass; omega
    have h4 : (st * 2 ^ 36 + off) / 2 ^ 41 % 2 ^ 11 = 0 := by omega
    rw [if_pos (by simp only [Bool.and_eq_true, decide_eq_true_eq, h1, h2, h3]; exact ⟨⟨⟨trivial, hst⟩, h4⟩, hoff⟩), h1, h2]
    rfl

/-- The byte of HBM whose place in the region is `i`. -/
def ckptDpa (i : Nat) : Nat := (i - 4096) / stackBytes * 2 ^ 36 + (i - 4096) % stackBytes

theorem ckptDpa_of_ckptOfDpa {a i : Nat} (h : ckptOfDpa a = some i) : ckptDpa i = a := by
  obtain ⟨st, off, hst, hoff, rfl, rfl⟩ := ckptOfDpa_iff.mp h
  unfold ckptDpa
  unfold stackBytes at *
  omega

theorem ckptOfDpa_ckptDpa {i : Nat} (h : 4096 ≤ i) (hi : i < ckptCore 0) : ckptOfDpa (ckptDpa i) = some i := by
  refine ckptOfDpa_iff.mpr ⟨(i - 4096) / stackBytes, (i - 4096) % stackBytes, ?_, Nat.mod_lt _ (by decide), rfl, ?_⟩
  · unfold ckptCore ckptStack at hi
    unfold stackBytes at *
    omega
  · unfold stackBytes
    omega

theorem ckptOfDpa_inj {a b i : Nat} (ha : ckptOfDpa a = some i) (hb : ckptOfDpa b = some i) : a = b :=
  (ckptDpa_of_ckptOfDpa ha).symm.trans (ckptDpa_of_ckptOfDpa hb)

theorem ckptOfDpa_range {a i : Nat} (h : ckptOfDpa a = some i) : 4096 ≤ i ∧ i < ckptCore 0 ∧ dpaClass a = 0 := by
  obtain ⟨st, off, hst, hoff, rfl, rfl⟩ := ckptOfDpa_iff.mp h
  unfold ckptCore ckptStack dpaClass
  unfold stackBytes at *
  omega

theorem ckptOfDpa_granule {a i : Nat} (h : ckptOfDpa a = some i) :
    a % 64 = i % 64 ∧ ckptOfDpa (64 * (a / 64)) = some (64 * (i / 64)) := by
  obtain ⟨st, off, hst, hoff, rfl, rfl⟩ := ckptOfDpa_iff.mp h
  refine ⟨by unfold stackBytes at *; omega, ckptOfDpa_iff.mpr ⟨st, 64 * (off / 64), hst, ?_, ?_, ?_⟩⟩ <;>
    (unfold stackBytes at *; omega)

/-! ### Places of the cores -/

theorem ckptCore_range {k x : Nat} (hk : k < 49152) (hx : x < coreBytes) : ckptCore 0 ≤ ckptCore k + x ∧ ckptCore k + x < ckptSize := by
  unfold ckptSize ckptCore coreBytes localBytes at *
  omega

theorem ckptCore_split {k x : Nat} (hx : x < coreBytes) :
    (ckptCore k + x - ckptCore 0) / coreBytes = k ∧ (ckptCore k + x - ckptCore 0) % coreBytes = x := by
  unfold ckptCore coreBytes localBytes at *
  omega

theorem ckptCore_join {i : Nat} (h : ckptCore 0 ≤ i) : ckptCore ((i - ckptCore 0) / coreBytes) + (i - ckptCore 0) % coreBytes = i := by
  unfold ckptCore coreBytes localBytes at *
  omega

theorem ckptCore_inj {k k' x x' : Nat} (hx : x < coreBytes) (hx' : x' < coreBytes) (h : ckptCore k + x = ckptCore k' + x') :
    k = k' ∧ x = x' := by
  obtain ⟨hd, hm⟩ := ckptCore_split (k := k) hx
  rw [h] at hd hm
  exact ⟨hd.symm.trans (ckptCore_split hx').1, hm.symm.trans (ckptCore_split hx').2⟩

theorem ckptSize_whole : ckptSize % 64 = 0 ∧ ckptCore 0 % 64 = 0 ∧ ckptCore 0 < ckptSize := by decide

end Sys2Proof.Machine
end

section
/-! Checkpoint commands, and what a save leaves in the region (rules R93, R94). -/

namespace Sys2Proof.Machine
open Sys2Proof

/-- A memory made of cells, read where all cells of an address hold the same byte. -/
theorem Memory.ofCells_read {ws : List Host.Cell} {x : Nat} {b : Byte} (hall : ∀ c ∈ ws, c.1 = x → c.2 = b)
    (hex : b ≠ 0 → (x, b) ∈ ws) : (Memory.ofCells ws).read x = b := by
  rw [ofCells, Memory.read_writeAll]
  cases hlast : (ws.filter (fun c => c.1 == x)).getLast? with
  | some c =>
    obtain ⟨hc, hx⟩ := List.mem_filter.mp (List.mem_of_getLast? hlast)
    exact hall c hc (eq_of_beq hx)
  | none =>
    have hnil : ws.filter (fun c => c.1 == x) = [] := List.getLast?_eq_none_iff.mp hlast
    by_cases hb : b = 0
    · rw [hb]
      rfl
    · have hmem : (x, b) ∈ ws.filter (fun c => c.1 == x) := by
        rw [List.mem_filter]
        exact ⟨hex hb, beq_self_eq_true x⟩
      rw [hnil] at hmem
      cases hmem

theorem Memory.mem_of_read_ne {m : Memory} (h : m.wf = true) {a : Nat} (hb : m.read a ≠ 0) : (a, m.read a) ∈ m.cells := by
  rcases Memory.read_cases h a with ⟨hm, -⟩ | ⟨-, h0⟩
  · exact hm
  · exact absurd h0 hb

theorem Memory.eq_read_of_mem {m : Memory} (h : m.wf = true) {c : Host.Cell} (hc : c ∈ m.cells) : c.2 = m.read c.1 :=
  (Memory.read_of_mem h hc).symm

namespace State

/-- Granules read beyond correction leave entries in the log, and nothing else (rule R378). -/
theorem foldl_logHome_frame (gs : List Nat) : ∀ s : State, ∃ log n, gs.foldl logHome s =
    { s with module := { s.module with elog := log, elogCount := n } } := by
  induction gs with
  | nil => exact fun s => ⟨_, _, rfl⟩
  | cons g gs ih =>
    intro s
    obtain ⟨log, n, h⟩ := ih (s.logHome g)
    refine ⟨log, n, ?_⟩
    rw [List.foldl_cons, h]
    simp only [logHome, logEntry]

theorem foldl_logHome_count (gs : List Nat) : ∀ s : State,
    (gs.foldl logHome s).module.elogCount = s.module.elogCount + gs.length := by
  induction gs with
  | nil => exact fun s => (BitVec.add_zero _).symm
  | cons g gs ih =>
    intro s
    have hone : (s.logHome g).module.elogCount = s.module.elogCount + 1 := by simp only [logHome, logEntry]
    rw [List.foldl_cons, ih, hone, List.length_cons, Nat.cast_succ, add_comm (gs.length : BitVec 32) 1, ← add_assoc]

/-! ### Commands -/

/-- What CKPTCTL holds of a write, before GO (rule R94). -/
def ckptStored (s : State) (w : Word) : Word := fieldWrite s.module.ckptctl w 0xF0 0x8

theorem ckptStored_op {s : State} {w : Word} : bits (s.ckptStored w) 7 4 = bits w 7 4 :=
  bits_fieldWrite _ _ _ _ fun i h1 h2 => by
    rcases (by omega : i = 4 ∨ i = 5 ∨ i = 6 ∨ i = 7) with rfl | rfl | rfl | rfl <;> decide

theorem ckptStored_go {s : State} {w : Word} : (s.ckptStored w).getLsbD 0 = s.module.ckptctl.getLsbD 0 :=
  getLsbD_fieldWrite_kept _ _ _ _ 0 (by decide) (by decide)

theorem ckptWrite_go {s : State} {w : Word} (hw : w.getLsbD 0 = true) (hgo : s.module.ckptctl.getLsbD 0 = false) :
    s.ckptWrite w =
      if s.ckptRefused (s.ckptStored w) then { s with module := { s.module with ckptctl := s.ckptStored w ||| 8 } }
      else { s.drawn with module := { s.module with
        ckptctl := s.ckptStored w ||| 1, ckptst := setBits s.module.ckptst 7 0 (bits (s.ckptStored w) 7 4)
        ckptEnd := some (s.cycle + 1 + s.free 3199999999) } } := by
  unfold ckptWrite
  dsimp only
  rw [hw, hgo]
  rfl

/-- No context is bound, and the persistent ranges have room for a checkpoint. -/
def ckptFree (s : State) : Prop := (∀ p ∈ s.parts.toList, p.ctx = none) ∧ ckptSize ≤ regionBytes s.persistent

theorem ckptRefused_iff {s : State} {w : Word} (h : bits w 7 4 = 1 ∨ bits w 7 4 = 2) : s.ckptRefused w = true ↔ ¬ s.ckptFree := by
  have hop : (bits w 7 4 == 1 || bits w 7 4 == 2) = true := by simpa using h
  have hctx : s.parts.toList.any (·.ctx.isSome) = true ↔ ¬ ∀ p ∈ s.parts.toList, p.ctx = none := by
    rw [List.any_eq_true, not_forall]
    exact exists_congr fun p => by rw [Classical.not_imp, Option.isSome_iff_ne_none]
  unfold ckptRefused ckptFree
  rw [hop, Bool.not_true, Bool.or_false, Bool.or_eq_true, hctx, decide_eq_true_iff, not_and_or, Nat.not_le]
  rfl

/-- A command with GO and operation 1 or 2 starts, or is refused. -/
theorem ckptWrite_begins (s : State) (x : Word) {op : Nat} (hop : op = 1 ∨ op = 2) (hgo : s.module.ckptctl.getLsbD 0 = false) :
    let t := s.ckptWrite (setBits (x ||| 1) 7 4 op)
    s.coresKept t ∧ s.memKept t ∧
      (s.ckptFree → ∃ u, t.module.ckptEnd = some u ∧ s.cycle < u ∧ t.module.ckptctl.getLsbD 0 = true ∧ bits t.module.ckptst 7 0 = op) ∧
      (¬ s.ckptFree → t.module.ckptEnd = s.module.ckptEnd ∧ t.module.ckptctl.getLsbD 0 = false ∧ t.module.ckptctl.getLsbD 3 = true) := by
  intro t
  have hw : (setBits (x ||| 1) 7 4 op).getLsbD 0 = true := by
    rw [getLsbD_setBits _ _ _ _ _ (by decide), if_neg (by decide), getLsbD_or_one]
  have hstored : bits (s.ckptStored (setBits (x ||| 1) 7 4 op)) 7 4 = op := by
    rw [ckptStored_op, bits_setBits _ _ _ _ (by decide)]
    rcases hop with rfl | rfl <;> rfl
  have hrefused := ckptRefused_iff (s := s) (hstored.symm ▸ hop)
  have ht : t = _ := ckptWrite_go hw hgo
  split at ht
  · next hr =>
    rw [ht]
    refine ⟨⟨rfl, rfl⟩, ⟨rfl, rfl, rfl⟩, fun hf => absurd hf (hrefused.mp hr), fun _ => ⟨rfl, ?_, ?_⟩⟩
    · rw [BitVec.getLsbD_or, ckptStored_go, hgo]
      decide
    · rw [BitVec.getLsbD_or, show (8 : Word).getLsbD 3 = true by decide, Bool.or_true]
  · next hr =>
    rw [ht]
    refine ⟨⟨rfl, rfl⟩, ⟨rfl, rfl, rfl⟩, fun _ => ⟨_, rfl, by omega, getLsbD_or_one _, ?_⟩, fun hf => absurd (hrefused.mpr hf) hr⟩
    rw [bits_setBits _ _ _ _ (by decide), hstored]
    rcases hop with rfl | rfl <;> rfl

/-! ### The end of an operation -/

/-- The operation has ended with this error code. -/
def ckptEnded (s t : State) (err : Nat) : Prop :=
  t.module.ckptEnd = none ∧ t.module.ckptctl = s.module.ckptctl &&& ~~~1 ∧ bits t.module.ckptst 7 4 = err ∧
    bits t.module.ckptst 3 0 = if err = 0 then 0 else 3

theorem bits_nibbles (x : Word) : bits x 7 4 = bits x 7 0 / 16 ∧ bits x 3 0 = bits x 7 0 % 16 := by
  simp only [bits, Nat.shiftRight_eq_div_pow]
  omega

theorem ckptDone_ended (s : State) {err : Nat} (h : err < 4) : s.ckptEnded (s.ckptDone err) err := by
  have hst : bits (s.ckptDone err).module.ckptst 7 0 = err * 16 + if err = 0 then 0 else 3 := by
    refine (bits_setBits _ 7 0 _ (by decide)).trans (Nat.mod_eq_of_lt ?_)
    split <;> omega
  obtain ⟨hhigh, hlow⟩ := bits_nibbles (s.ckptDone err).module.ckptst
  rw [hst] at hhigh hlow
  refine ⟨rfl, rfl, ?_, ?_⟩
  · rw [hhigh]
    split <;> omega
  · rw [hlow]
    split <;> omega

theorem ckptDone_kept (s : State) (err : Nat) : s.coresKept (s.ckptDone err) ∧ s.memKept (s.ckptDone err) := ⟨⟨rfl, rfl⟩, rfl, rfl, rfl⟩

/-- The operation `op` is at its end. -/
def ckptEnds (s : State) (op : Nat) : Prop := s.module.ckptEnd.any (fun t => decide (t ≤ s.cycle)) = true ∧ bits s.module.ckptst 3 0 = op

theorem ckptEnds_due {s : State} {op : Nat} (h : s.ckptEnds op) :
    ¬ (s.module.ckptEnd.all (fun t => decide (s.cycle < t)) || bits s.module.ckptst 3 0 != op) = true := by
  obtain ⟨hany, hop⟩ := h
  cases hend : s.module.ckptEnd with
  | none => simp [hend] at hany
  | some u =>
    rw [hend] at hany
    simpa [hop] using hany

end State

end Sys2Proof.Machine
end

section
/-! What a save leaves in the region, byte by byte and mark by mark (rule R94; log entry 21). -/

namespace Sys2Proof.Machine
open Sys2Proof

/-- The cells of a core that a save writes: those of its local space, and after them those of its IMEM. -/
def Core.image (c : Core) : List Host.Cell := c.mem.loc.cells ++ c.mem.imem.cells.map (fun x => (localBytes + x.1, x.2))

/-- All of a list's cells of an address hold this byte, and one does unless the byte is 0. -/
def holdsAt (ws : List Host.Cell) (x : Nat) (b : Byte) : Prop := (∀ c ∈ ws, c.1 = x → c.2 = b) ∧ (b ≠ 0 → (x, b) ∈ ws)

theorem Memory.holdsAt_cells {m : Memory} (h : m.wf = true) (x : Nat) : holdsAt m.cells x (m.read x) :=
  ⟨fun _ hc hx => hx ▸ Memory.eq_read_of_mem h hc, Memory.mem_of_read_ne h⟩

namespace Core

theorem image_loc {c : Core} (h : c.mem.loc.wf = true) {x : Nat} (hx : x < localBytes) : holdsAt c.image x (c.mem.loc.read x) := by
  obtain ⟨hall, hex⟩ := Memory.holdsAt_cells h x
  refine ⟨fun z hz he => ?_, fun hb => List.mem_append_left _ (hex hb)⟩
  rcases List.mem_append.mp hz with hz | hz
  · exact hall z hz he
  · obtain ⟨y, -, rfl⟩ := List.mem_map.mp hz
    dsimp only at he
    omega

theorem image_imem {c : Core} (h : c.mem.imem.wf = true) (hloc : ∀ z ∈ c.mem.loc.cells, z.1 < localBytes) (x : Nat) :
    holdsAt c.image (localBytes + x) (c.mem.imem.read x) := by
  obtain ⟨hall, hex⟩ := Memory.holdsAt_cells h x
  refine ⟨fun z hz he => ?_, fun hb => List.mem_append_right _ (List.mem_map.mpr ⟨_, hex hb, rfl⟩)⟩
  rcases List.mem_append.mp hz with hz | hz
  · have := hloc z hz
    omega
  · obtain ⟨y, hy, rfl⟩ := List.mem_map.mp hz
    exact hall y hy (Nat.add_left_cancel he)

theorem image_lt {c : Core} (hloc : ∀ z ∈ c.mem.loc.cells, z.1 < localBytes) (himem : ∀ z ∈ c.mem.imem.cells, z.1 < 2 ^ 18) :
    ∀ z ∈ c.image, z.1 < coreBytes := by
  intro z hz
  rcases List.mem_append.mp hz with hz | hz
  · exact Nat.lt_add_right _ (hloc z hz)
  · obtain ⟨y, hy, rfl⟩ := List.mem_map.mp hz
    exact Nat.add_lt_add_left (himem y hy) _

end Core

namespace State

/-! ### The parts of a save -/

/-- A byte of HBM whose channel is not gone. -/
def liveByte (s : State) (a : Nat) : Bool := !s.channelGone (hbmStack a) (hbmChannel a)

theorem liveByte_granule (s : State) (a : Nat) : s.liveByte (64 * (a / 64)) = s.liveByte a := by
  unfold liveByte hbmStack hbmChannel
  rw [show 64 * (a / 64) / 2 ^ 36 = a / 2 ^ 36 by omega, show 64 * (a / 64) / 2 ^ 17 = a / 2 ^ 17 by omega]

/-- A save leaves an address as it was: it is no byte of the checkpoint. -/
def spared (s : State) (d : Nat) : Bool := match regionOf_ s.persistent d with | some i => decide (ckptSize ≤ i) | none => true

def savedKept (s : State) : List Host.Cell := s.mem.cells.filter (fun c => s.spared c.1)

def savedHbm (s : State) : List Host.Cell := s.mem.cells.filterMap (fun c =>
  if s.liveByte c.1 then (ckptOfDpa c.1).map (fun i => (placeIn s.persistent i, c.2)) else none)

def savedCores (s : State) : List Host.Cell := s.allCores.flatMap (fun c =>
  c.image.map (fun x => (placeIn s.persistent (ckptCore c.idx + x.1), x.2)))

def savedSeq (s : State) : Nat := (bits s.module.ckptst 63 32 + 1) % 2 ^ 32

def savedHead (s : State) : List Host.Cell :=
  (List.range 16).zip (headerBytes s.savedSeq) |>.map (fun x => (placeIn s.persistent x.1, x.2))

def savedCells (s : State) : List Host.Cell := s.savedKept ++ s.savedHbm ++ s.savedCores ++ s.savedHead

def savedSick (s : State) : List Nat := s.poison.filter (fun g => s.liveByte (64 * g) && (ckptOfDpa (64 * g)).isSome)

def savedMarks (s : State) : List Nat :=
  s.poison.filter (fun g => s.spared (64 * g)) ++
    s.savedSick.filterMap (fun g => (ckptOfDpa (64 * g)).map (fun i => placeIn s.persistent i / 64))

def savedBad (s : State) : List (Nat × Nat) := s.allCores.flatMap (fun c => c.mem.bad.map (fun w => (c.idx, w))
  ++ c.mem.imemBad.map (fun w => (c.idx, localBytes / 16 + w)))

/-- The part with the checkpoint in the region, before the operation ends. -/
def savedState (s : State) : State :=
  { s.savedSick.foldl logHome s with
    mem := Memory.ofCells s.savedCells, poison := s.savedMarks
    module := { (s.savedSick.foldl logHome s).module with
      ckptBad := s.savedBad, ckptst := setBits s.module.ckptst 63 32 s.savedSeq } }

theorem ckptSaveEnd_down {s : State} (h : s.ckptEnds 1) (hp : s.ckptPortDown = true) : s.ckptSaveEnd = s.ckptDone 2 := by
  rw [ckptSaveEnd, if_neg (ckptEnds_due h), if_pos hp]

theorem ckptSaveEnd_up {s : State} (h : s.ckptEnds 1) (hp : s.ckptPortDown = false) : s.ckptSaveEnd = s.savedState.ckptDone 0 := by
  have hcores : s.savedCores = s.allCores.flatMap (fun c =>
      c.mem.loc.cells.map (fun x => (placeIn s.persistent (ckptCore c.idx + x.1), x.2))
        ++ c.mem.imem.cells.map (fun x => (placeIn s.persistent (ckptCore c.idx + localBytes + x.1), x.2))) := by
    unfold savedCores Core.image
    refine congrArg (List.flatMap · s.allCores) (funext fun c => ?_)
    rw [List.map_append, List.map_map]
    refine congrArg (_ ++ ·) (List.map_congr_left fun x _ => ?_)
    simp only [Function.comp, Nat.add_assoc]
  rw [ckptSaveEnd, if_neg (ckptEnds_due h), if_neg (by rw [hp]; exact Bool.false_ne_true), savedState, savedCells, hcores]
  rfl

theorem mem_savedHbm {s : State} {c : Host.Cell} : c ∈ s.savedHbm ↔
    ∃ a i, (a, c.2) ∈ s.mem.cells ∧ s.liveByte a = true ∧ ckptOfDpa a = some i ∧ c.1 = placeIn s.persistent i := by
  rw [savedHbm, List.mem_filterMap]
  constructor
  · rintro ⟨z, hz, he⟩
    split at he
    · next hlive =>
      obtain ⟨i, hi, rfl⟩ := Option.map_eq_some_iff.mp he
      exact ⟨z.1, i, hz, hlive, hi, rfl⟩
    · cases he
  · rintro ⟨a, i, hm, hlive, hi, hp⟩
    refine ⟨_, hm, ?_⟩
    rw [if_pos hlive, hi, Option.map_some, ← hp]

theorem mem_savedCores {s : State} {c : Host.Cell} : c ∈ s.savedCores ↔
    ∃ k ∈ s.allCores, ∃ z ∈ k.image, c = (placeIn s.persistent (ckptCore k.idx + z.1), z.2) := by
  simp only [savedCores, List.mem_flatMap, List.mem_map, eq_comm]

theorem mem_savedHead {s : State} {c : Host.Cell} (h : c ∈ s.savedHead) : ∃ i, i < 16 ∧ c.1 = placeIn s.persistent i := by
  obtain ⟨z, hz, rfl⟩ := List.mem_map.mp h
  exact ⟨z.1, List.mem_range.mp (List.of_mem_zip hz).1, rfl⟩

/-! ### The saved bytes -/

/-- The region has room for a checkpoint, its ranges lie one after another, and memory is canonical. -/
def ckptLaid (s : State) : Prop := ckptSize ≤ regionBytes s.persistent ∧ regionSorted s.persistent ∧ s.memWf = true

/-- Every core has a place in the region, and its cells lie in its two spaces. -/
def coresLaid (s : State) : Prop := ∀ c ∈ s.allCores, c.idx < 49152 ∧ ∀ z ∈ c.image, z.1 < coreBytes

theorem memWf_mem {s : State} (h : s.memWf = true) : s.mem.wf = true := by
  simp only [memWf, Bool.and_eq_true] at h
  exact h.1.1

section
variable {s : State} (hl : s.ckptLaid)
include hl

theorem place_inj {i j : Nat} (hi : i < ckptSize) (hj : j < ckptSize) (h : placeIn s.persistent i = placeIn s.persistent j) : i = j :=
  placeIn_inj hl.2.1 (by have := hl.1; omega) (by have := hl.1; omega) h

theorem regionOf_place {i : Nat} (hi : i < ckptSize) : regionOf_ s.persistent (placeIn s.persistent i) = some i :=
  regionOf_placeIn hl.2.1 (by have := hl.1; omega)

theorem place_granule {i : Nat} (hi : i < ckptSize) :
    placeIn s.persistent (64 * (i / 64)) = 64 * (placeIn s.persistent i / 64) :=
  (placeIn_granule s.persistent_whole (by have := hl.1; omega)).2

theorem spared_place {i : Nat} (hi : i < ckptSize) : s.spared (placeIn s.persistent i) = false := by
  rw [spared, regionOf_place hl hi]
  exact decide_eq_false (by omega)

theorem savedKept_off {c : Host.Cell} (hc : c ∈ s.savedKept) {i : Nat} (hi : i < ckptSize) : c.1 ≠ placeIn s.persistent i := by
  intro he
  have hs := (List.mem_filter.mp hc).2
  rw [he, spared_place hl hi] at hs
  cases hs

/-- Every cell of a save that stands at a byte of the checkpoint comes from that byte's source. -/
theorem savedCells_at (hcores : s.coresLaid) {c : Host.Cell} (hc : c ∈ s.savedCells) {i : Nat} (hi : i < ckptSize)
    (he : c.1 = placeIn s.persistent i) :
    (∃ a, (a, c.2) ∈ s.mem.cells ∧ ckptOfDpa a = some i) ∨
      (∃ k ∈ s.allCores, ∃ z ∈ k.image, z.1 < coreBytes ∧ i = ckptCore k.idx + z.1 ∧ c.2 = z.2) ∨ i < 16 := by
  have hsize := ckptSize_whole.2.2
  rcases List.mem_append.mp hc with hc | hc
  · rcases List.mem_append.mp hc with hc | hc
    · rcases List.mem_append.mp hc with hc | hc
      · exact absurd he (savedKept_off hl hc hi)
      · obtain ⟨a, j, hm, -, hj, hp⟩ := mem_savedHbm.mp hc
        obtain ⟨-, hlt, -⟩ := ckptOfDpa_range hj
        exact .inl ⟨a, hm, place_inj hl (by omega) hi (hp.symm.trans he) ▸ hj⟩
    · obtain ⟨k, hk, z, hz, rfl⟩ := mem_savedCores.mp hc
      obtain ⟨hidx, hlt⟩ := hcores k hk
      obtain ⟨-, hin⟩ := ckptCore_range hidx (hlt z hz)
      exact .inr (.inl ⟨k, hk, z, hz, hlt z hz, (place_inj hl hin hi he).symm, rfl⟩)
  · obtain ⟨j, hj, hp⟩ := mem_savedHead hc
    have h16 : 16 < ckptCore 0 := by decide
    have hij := place_inj hl (by omega) hi (hp.symm.trans he)
    exact .inr (.inr (by omega))

theorem saved_hbm (hcores : s.coresLaid) {a i : Nat} (ha : s.liveByte a = true) (hi : ckptOfDpa a = some i) :
    (Memory.ofCells s.savedCells).read (placeIn s.persistent i) = s.mem.read a := by
  have hwf := memWf_mem hl.2.2
  obtain ⟨hlow, hhigh, -⟩ := ckptOfDpa_range hi
  have hsize := ckptSize_whole.2.2
  refine Memory.ofCells_read (fun c hc he => ?_) fun hb => ?_
  · rcases savedCells_at hl hcores hc (by omega) he with ⟨b, hm, hj⟩ | ⟨k, hk, z, -, hz, rfl, -⟩ | h16
    · rw [ckptOfDpa_inj hi hj]
      exact (Memory.read_of_mem hwf hm).symm
    · have := (ckptCore_range (hcores k hk).1 hz).1
      omega
    · omega
  · have hm : (placeIn s.persistent i, s.mem.read a) ∈ s.savedHbm :=
      mem_savedHbm.mpr ⟨a, i, Memory.mem_of_read_ne hwf hb, ha, hi, rfl⟩
    exact List.mem_append_left _ (List.mem_append_left _ (List.mem_append_right _ hm))

theorem saved_core (hcores : s.coresLaid) {c : Core} (hc : c ∈ s.allCores) (hone : ∀ d ∈ s.allCores, d.idx = c.idx → d = c)
    {x : Nat} (hx : x < coreBytes) {b : Byte} (hb : holdsAt c.image x b) :
    (Memory.ofCells s.savedCells).read (placeIn s.persistent (ckptCore c.idx + x)) = b := by
  obtain ⟨hall, hex⟩ := hb
  obtain ⟨hlow, hhigh⟩ := ckptCore_range (hcores c hc).1 hx
  have h16 : 16 < ckptCore 0 := by decide
  refine Memory.ofCells_read (fun z hz he => ?_) fun h0 => ?_
  · rcases savedCells_at hl hcores hz hhigh he with ⟨a, -, hj⟩ | ⟨k, hk, y, hy, hlt, hj, h2⟩ | h
    · have := (ckptOfDpa_range hj).2.1
      omega
    · obtain ⟨hidx, hxy⟩ := ckptCore_inj hx hlt hj
      rw [h2]
      exact hall y (hone k hk hidx.symm ▸ hy) hxy.symm
    · omega
  · have hm : (placeIn s.persistent (ckptCore c.idx + x), b) ∈ s.savedCores := mem_savedCores.mpr ⟨c, hc, _, hex h0, rfl⟩
    exact List.mem_append_left _ (List.mem_append_right _ hm)

theorem saved_outside (hcores : s.coresLaid) {d : Nat} (hd : ∀ i, i < ckptSize → placeIn s.persistent i ≠ d) :
    (Memory.ofCells s.savedCells).read d = s.mem.read d := by
  have hwf := memWf_mem hl.2.2
  have hsize := ckptSize_whole.2.2
  have hspared : s.spared d = true := by
    unfold spared
    split
    · next i hi => exact decide_eq_true (Nat.le_of_not_lt fun h => hd i h (placeIn_of_regionOf hi))
    · rfl
  refine Memory.ofCells_read (fun c hc he => ?_) fun h0 => ?_
  · rcases List.mem_append.mp hc with hc | hc
    · rcases List.mem_append.mp hc with hc | hc
      · rcases List.mem_append.mp hc with hc | hc
        · rw [← he]
          exact Memory.eq_read_of_mem hwf (List.mem_filter.mp hc).1
        · obtain ⟨a, i, -, -, hi, hp⟩ := mem_savedHbm.mp hc
          exact absurd (hp.symm.trans he) (hd i (by have := (ckptOfDpa_range hi).2.1; omega))
      · obtain ⟨k, hk, z, hz, rfl⟩ := mem_savedCores.mp hc
        obtain ⟨hidx, hlt⟩ := hcores k hk
        exact absurd he (hd _ (ckptCore_range hidx (hlt z hz)).2)
    · obtain ⟨i, hi, hp⟩ := mem_savedHead hc
      have h16 : 16 < ckptCore 0 := by decide
      exact absurd (hp.symm.trans he) (hd i (by omega))
  · have hm : (d, s.mem.read d) ∈ s.savedKept := List.mem_filter.mpr ⟨Memory.mem_of_read_ne hwf h0, hspared⟩
    exact List.mem_append_left _ (List.mem_append_left _ (List.mem_append_left _ hm))

/-- The mark of a saved granule of HBM is that of its place. -/
theorem saved_mark {a i : Nat} (ha : s.liveByte a = true) (hi : ckptOfDpa a = some i) :
    placeIn s.persistent i / 64 ∈ s.savedMarks ↔ a / 64 ∈ s.poison := by
  obtain ⟨-, hhigh, -⟩ := ckptOfDpa_range hi
  obtain ⟨-, hgran⟩ := ckptOfDpa_granule hi
  have hsize := ckptSize_whole.2.2
  have hplace := place_granule hl (i := i) (by omega)
  rw [savedMarks, List.mem_append]
  constructor
  · rintro (hg | hg)
    · have hs := (List.mem_filter.mp hg).2
      rw [← hplace, spared_place hl (by omega)] at hs
      cases hs
    · obtain ⟨g, hg, he⟩ := List.mem_filterMap.mp hg
      obtain ⟨j, hj, hp⟩ := Option.map_eq_some_iff.mp he
      have hjlt := (ckptOfDpa_range hj).2.1
      have hj64 : 64 * (j / 64) = j := by
        have := (ckptOfDpa_granule hj).1
        omega
      have hpj := place_granule hl (i := j) (by omega)
      rw [hp, ← hplace] at hpj
      have hij := place_inj hl (by omega) (by omega) hpj
      rw [hj64] at hij
      have hga : 64 * g = 64 * (a / 64) := ckptOfDpa_inj (hij ▸ hj) hgran
      rw [← Nat.eq_of_mul_eq_mul_left (by decide) hga]
      exact (List.mem_filter.mp hg).1
  · intro hg
    have hsick : a / 64 ∈ s.savedSick := by
      refine List.mem_filter.mpr ⟨hg, ?_⟩
      rw [liveByte_granule, ha, hgran]
      rfl
    refine .inr (List.mem_filterMap.mpr ⟨_, hsick, ?_⟩)
    rw [hgran, Option.map_some, hplace, Nat.mul_div_cancel_left _ (by decide)]

end

theorem saved_bad {s : State} {c : Core} (hc : c ∈ s.allCores) {x : Nat} (hx : x ∈ c.mem.bad) : (c.idx, x) ∈ s.savedBad :=
  List.mem_flatMap.mpr ⟨c, hc, List.mem_append_left _ (List.mem_map.mpr ⟨x, hx, rfl⟩)⟩

theorem savedState_frame (s : State) : s.coresKept s.savedState ∧ s.savedState.module.ckptctl = s.module.ckptctl ∧
    s.savedState.module.ckptst = setBits s.module.ckptst 63 32 s.savedSeq := by
  obtain ⟨log, n, h⟩ := foldl_logHome_frame s.savedSick s
  rw [savedState, h]
  exact ⟨⟨rfl, rfl⟩, rfl, rfl⟩

theorem saved_seq (s : State) : bits (s.savedState.ckptDone 0).module.ckptst 63 32 = (bits s.module.ckptst 63 32 + 1) % 2 ^ 32 := by
  have hst : (s.savedState.ckptDone 0).module.ckptst = setBits s.savedState.module.ckptst 7 0 (0 * 16 + if 0 = 0 then 0 else 3) := rfl
  rw [hst, bits_setBits_ne _ _ _ _ _ _ (by decide) (.inr (by decide)), s.savedState_frame.2.2, bits_setBits _ _ _ _ (by decide),
    savedSeq]
  omega

end State

end Sys2Proof.Machine
end

section
/-! What a restore brings back, byte by byte and mark by mark (rule R94; log entry 21). -/

namespace Sys2Proof.Machine
open Sys2Proof

namespace State

/-! ### Cores that are held as their own entries -/

/-- The part holds an entry of its own for the core, and does not take it as reset leaves it. -/
def stores (s : State) (k : Nat) : Prop := s.core.idx = k ∨ (s.others.find? (fun c => c.idx == k)).isSome = true

theorem stores_putCore {s : State} {c : Core} {k : Nat} (h : c.idx = k ∨ s.stores k) : (s.putCore c).stores k := by
  unfold putCore stores
  split
  · next he => exact h.elim .inl (Or.imp_left fun hk => he ▸ hk)
  · dsimp only
    rw [find_insertCore]
    split
    · exact .inr rfl
    · next hk => exact h.resolve_left hk

/-- The cores of a list get entries of their own. -/
def entered (s : State) (ids : List Nat) : State := ids.foldl (fun s k => s.onCore k (fun c => c)) s

theorem coreOf_entered (ids : List Nat) (j : Nat) (s : State) : (s.entered ids).coreOf j = s.coreOf j := by
  refine Core.foldl_of_kept (P := fun t : State => t.coreOf j = s.coreOf j) (fun t k _ h => ?_) rfl
  rw [coreOf_onCore _ _ _ fun _ => rfl]
  split
  · next hk => rw [hk, h]
  · exact h

theorem stores_entered {ids : List Nat} {k : Nat} (h : k ∈ ids) (s : State) : (s.entered ids).stores k :=
  Core.foldl_of_made (P := fun t : State => t.stores k) (fun _ _ _ ht => stores_putCore (.inr ht)) h
    (fun t => stores_putCore (.inl (coreOf_idx t k))) s

theorem entered_frame (ids : List Nat) (s : State) :
    s.entered ids = { s with core := (s.entered ids).core, others := (s.entered ids).others } := by
  refine Core.foldl_of_kept (P := fun t : State => t = { s with core := t.core, others := t.others }) (fun t k _ h => ?_) rfl
  unfold onCore putCore
  split <;> rw [h]

/-- An update of all cores reaches a core that is held, and one that it would leave as reset leaves it. -/
theorem coreOf_mapCores_of {s : State} {f : Core → Core} (hf : ∀ c, (f c).idx = c.idx) {k : Nat}
    (h : s.stores k ∨ f (Core.reset k) = Core.reset k) : (s.mapCores f).coreOf k = f (s.coreOf k) := by
  have hp : (fun c : Core => c.idx == k) ∘ f = fun c => c.idx == k := funext fun c => by rw [Function.comp, hf]
  unfold coreOf
  rw [mapCores_core, mapCores_others, hf, List.find?_map, hp]
  split
  · rfl
  · next hk =>
    cases hfind : s.others.find? (fun c => c.idx == k) with
    | some c => rfl
    | none =>
      refine (h.resolve_left fun hs => ?_).symm
      rcases hs with hs | hs
      · exact hk hs
      · rw [hfind] at hs
        cases hs

/-! ### The parts of a restore -/

/-- The bytes of the region, by their places. -/
def regionCells (s : State) : List (Nat × Byte) := s.mem.cells.filterMap (fun c => (regionOf_ s.persistent c.1).map (fun i => (i, c.2)))

/-- A place of the region is that of a byte of HBM whose channel is not gone. -/
def ofHbm (s : State) (i : Nat) : Bool := 4096 ≤ i && i < ckptCore 0 && s.liveByte (ckptDpa i)

def restoredHbm (s : State) : List Host.Cell :=
  s.regionCells.filterMap (fun x => if s.ofHbm x.1 then some (ckptDpa x.1, x.2) else none)

def restoredMem (s : State) : List Host.Cell :=
  s.mem.cells.filter (fun (c : Host.Cell) => dpaClass c.1 != 0 || !s.liveByte c.1) ++ s.restoredHbm

def restoredMarks (s : State) : List Nat :=
  s.poison.filter (fun g => dpaClass (64 * g) != 0) ++ s.poison.filterMap (fun g => (regionOf_ s.persistent (64 * g)).bind (fun i =>
    if s.ofHbm i then some (ckptDpa i / 64) else none))

/-- The bytes of the cores: the core, the byte's number in its image, and the byte. -/
def restoredLocs (s : State) : List (Nat × Nat × Byte) := s.regionCells.filterMap (fun x =>
  if ckptCore 0 ≤ x.1 && x.1 < ckptSize then some ((x.1 - ckptCore 0) / coreBytes, ((x.1 - ckptCore 0) % coreBytes, x.2)) else none)

def restoredIds (s : State) : List Nat := (s.restoredLocs.map (·.1) ++ s.module.ckptBad.map (·.1)).eraseDups

def restoredSick (s : State) : List Nat :=
  s.poison.filter (fun g => match regionOf_ s.persistent (64 * g) with | some i => decide (i < ckptSize) | none => false)

def restoredImage (s : State) (k : Nat) : List (Nat × Byte) :=
  (s.restoredLocs.filter (fun (x : Nat × Nat × Byte) => x.1 == k)).map (·.2)

def restoredBad (s : State) (k : Nat) : List Nat := (s.module.ckptBad.filter (fun (x : Nat × Nat) => x.1 == k)).map (·.2)

/-- A core with the bytes and the marks that were saved of it. -/
def restoredCore (s : State) (c : Core) : Core :=
  { c with aux := { c.aux with fixes := [] }, mem := { c.mem with
    loc := Memory.ofCells ((s.restoredImage c.idx).filter (fun (x : Nat × Byte) => decide (x.1 < localBytes))), soft := []
    imem := Memory.ofCells ((s.restoredImage c.idx).filterMap (fun (x : Nat × Byte) =>
      if localBytes ≤ x.1 then some (x.1 - localBytes, x.2) else none)), imemSoft := []
    bad := (s.restoredBad c.idx).filter (fun (w : Nat) => decide (w < localBytes / 16))
    imemBad := ((s.restoredBad c.idx).filter (fun (w : Nat) => decide (localBytes / 16 ≤ w))).map (fun (w : Nat) => w - localBytes / 16) } }

/-- The part with what was saved outside the cores. -/
def restoredHomes (s : State) : State :=
  { s.restoredSick.foldl logHome s with mem := Memory.ofCells s.restoredMem, poison := s.restoredMarks }

/-- The part with all that was saved, before the operation ends. -/
def restoredState (s : State) : State := (s.restoredHomes.entered s.restoredIds).mapCores s.restoredCore

/-- The header in the region is one that a save has written. -/
def headerSound (s : State) : Prop :=
  s.mem.readN (placeIn s.persistent 0) 16 = headerBytes (s.mem.readNat (placeIn s.persistent 0) 8)

section
variable {s : State} (h : s.ckptEnds 2)
include h

theorem ckptRestoreEnd_down (hp : s.ckptPortDown = true) : s.ckptRestoreEnd = s.ckptDone 2 := by
  rw [ckptRestoreEnd, if_neg (ckptEnds_due h), if_pos hp]

theorem ckptRestoreEnd_up (hp : s.ckptPortDown = false) : s.ckptRestoreEnd =
    if s.poisoned (placeIn s.persistent 0) then (s.logHome (placeIn s.persistent 0 / 64)).ckptDone 1
    else if s.mem.readN (placeIn s.persistent 0) 16 != headerBytes (s.mem.readNat (placeIn s.persistent 0) 8) then s.ckptDone 3
    else s.restoredState.ckptDone 0 := by
  rw [ckptRestoreEnd, if_neg (ckptEnds_due h), if_neg (by rw [hp]; exact Bool.false_ne_true)]
  rfl

end

theorem mem_regionCells {s : State} {i : Nat} {b : Byte} : (i, b) ∈ s.regionCells ↔
    ∃ d, (d, b) ∈ s.mem.cells ∧ regionOf_ s.persistent d = some i := by
  rw [regionCells, List.mem_filterMap]
  constructor
  · rintro ⟨c, hc, he⟩
    obtain ⟨j, hj, he⟩ := Option.map_eq_some_iff.mp he
    cases he
    exact ⟨c.1, hc, hj⟩
  · rintro ⟨d, hd, hi⟩
    exact ⟨_, hd, by rw [hi, Option.map_some]⟩

theorem mem_restoredHbm {s : State} {c : Host.Cell} : c ∈ s.restoredHbm ↔
    ∃ i, (i, c.2) ∈ s.regionCells ∧ s.ofHbm i = true ∧ c.1 = ckptDpa i := by
  rw [restoredHbm, List.mem_filterMap]
  constructor
  · rintro ⟨x, hx, he⟩
    split at he
    · next hi =>
      obtain rfl := Option.some.inj he
      exact ⟨x.1, hx, hi, rfl⟩
    · cases he
  · rintro ⟨i, hm, hi, he⟩
    exact ⟨_, hm, by rw [if_pos hi, ← he]⟩

theorem ofHbm_range {s : State} {i : Nat} (h : s.ofHbm i = true) :
    ckptOfDpa (ckptDpa i) = some i ∧ s.liveByte (ckptDpa i) = true ∧ i < ckptSize := by
  simp only [ofHbm, Bool.and_eq_true, decide_eq_true_eq] at h
  obtain ⟨⟨hlow, hhigh⟩, hlive⟩ := h
  exact ⟨ckptOfDpa_ckptDpa hlow hhigh, hlive, Nat.lt_trans hhigh ckptSize_whole.2.2⟩

theorem ofHbm_of_dpa {s : State} {a i : Nat} (ha : s.liveByte a = true) (hi : ckptOfDpa a = some i) : s.ofHbm i = true := by
  obtain ⟨hlow, hhigh, -⟩ := ckptOfDpa_range hi
  simp only [ofHbm, Bool.and_eq_true, decide_eq_true_eq, ckptDpa_of_ckptOfDpa hi]
  exact ⟨⟨hlow, hhigh⟩, ha⟩

theorem mem_restoredLocs {s : State} {k x : Nat} {b : Byte} : (k, x, b) ∈ s.restoredLocs ↔
    x < coreBytes ∧ ckptCore k + x < ckptSize ∧ (ckptCore k + x, b) ∈ s.regionCells := by
  rw [restoredLocs, List.mem_filterMap]
  constructor
  · rintro ⟨⟨i, b'⟩, hm, he⟩
    split at he
    · next hi =>
      simp only [Bool.and_eq_true, decide_eq_true_eq] at hi
      obtain ⟨rfl, hbyte⟩ := Prod.mk.inj (Option.some.inj he)
      obtain ⟨rfl, rfl⟩ := Prod.mk.inj hbyte
      rw [ckptCore_join hi.1]
      exact ⟨Nat.mod_lt _ (by decide), hi.2, hm⟩
    · cases he
  · rintro ⟨hx, hlt, hm⟩
    obtain ⟨hk, hxk⟩ := ckptCore_split (k := k) hx
    have hlow : ckptCore 0 ≤ ckptCore k + x := by
      unfold ckptCore
      omega
    refine ⟨_, hm, ?_⟩
    dsimp only
    rw [if_pos (by simp only [Bool.and_eq_true, decide_eq_true_eq]; exact ⟨hlow, hlt⟩), hk, hxk]

theorem mem_restoredImage {s : State} {k x : Nat} {b : Byte} : (x, b) ∈ s.restoredImage k ↔ (k, x, b) ∈ s.restoredLocs := by
  rw [restoredImage, List.mem_map]
  constructor
  · rintro ⟨⟨k', x', b'⟩, hm, he⟩
    obtain ⟨hm, hk⟩ := List.mem_filter.mp hm
    cases he
    exact eq_of_beq hk ▸ hm
  · exact fun hm => ⟨_, List.mem_filter.mpr ⟨hm, beq_self_eq_true k⟩, rfl⟩

theorem mem_restoredBad {s : State} {k x : Nat} : x ∈ s.restoredBad k ↔ (k, x) ∈ s.module.ckptBad := by
  rw [restoredBad, List.mem_map]
  constructor
  · rintro ⟨⟨k', x'⟩, hm, he⟩
    obtain ⟨hm, hk⟩ := List.mem_filter.mp hm
    cases he
    exact eq_of_beq hk ▸ hm
  · exact fun hm => ⟨_, List.mem_filter.mpr ⟨hm, beq_self_eq_true k⟩, rfl⟩

theorem restoredCore_reset {s : State} {k : Nat} (h : k ∉ s.restoredIds) : s.restoredCore (Core.reset k) = Core.reset k := by
  have hk (x : Nat × Nat × Byte) (hx : x ∈ s.restoredLocs) : x.1 ≠ k := fun he =>
    h (List.mem_eraseDups.mpr (List.mem_append_left _ (he ▸ List.mem_map_of_mem hx)))
  have hb (x : Nat × Nat) (hx : x ∈ s.module.ckptBad) : x.1 ≠ k := fun he =>
    h (List.mem_eraseDups.mpr (List.mem_append_right _ (he ▸ List.mem_map_of_mem hx)))
  have himage : s.restoredImage k = [] := by
    rw [restoredImage, List.filter_eq_nil_iff.mpr fun x hx => by simpa using hk x hx]
    rfl
  have hbad : s.restoredBad k = [] := by
    rw [restoredBad, List.filter_eq_nil_iff.mpr fun x hx => by simpa using hb x hx]
    rfl
  rw [restoredCore, show (Core.reset k).idx = k from rfl, himage, hbad]
  rfl

/-- Every core after a restore. -/
theorem restoredState_core (s : State) (k : Nat) : s.restoredState.coreOf k = s.restoredCore (s.coreOf k) := by
  have hcores : s.restoredHomes.coreOf k = s.coreOf k := by
    obtain ⟨log, n, h⟩ := foldl_logHome_frame s.restoredSick s
    rw [restoredHomes, h]
    rfl
  rw [restoredState, coreOf_mapCores_of (f := s.restoredCore) (fun _ => rfl), coreOf_entered, hcores]
  by_cases hk : k ∈ s.restoredIds
  · exact .inl (stores_entered hk _)
  · exact .inr (restoredCore_reset hk)

theorem restoredState_frame (s : State) : s.restoredState.mem = Memory.ofCells s.restoredMem ∧ s.restoredState.poison = s.restoredMarks ∧
    s.restoredState.module.ckptctl = s.module.ckptctl := by
  obtain ⟨log, n, h⟩ := foldl_logHome_frame s.restoredSick s
  rw [restoredState, entered_frame]
  refine ⟨rfl, rfl, ?_⟩
  rw [mapCores_module, restoredHomes, h]

/-! ### The restored bytes -/

section
variable {s : State} (hl : s.ckptLaid)
include hl

/-- What the cells of the region hold at a byte of the checkpoint. -/
theorem regionCells_at {i : Nat} (hi : i < ckptSize) :
    (∀ b, (i, b) ∈ s.regionCells → b = s.mem.read (placeIn s.persistent i)) ∧
      (s.mem.read (placeIn s.persistent i) ≠ 0 → (i, s.mem.read (placeIn s.persistent i)) ∈ s.regionCells) := by
  have hwf := memWf_mem hl.2.2
  refine ⟨fun b hb => ?_, fun h0 => mem_regionCells.mpr ⟨_, Memory.mem_of_read_ne hwf h0, regionOf_place hl hi⟩⟩
  obtain ⟨d, hd, hreg⟩ := mem_regionCells.mp hb
  rw [placeIn_of_regionOf hreg]
  exact (Memory.read_of_mem hwf hd).symm

theorem restored_hbm {a i : Nat} (ha : s.liveByte a = true) (hi : ckptOfDpa a = some i) :
    (Memory.ofCells s.restoredMem).read a = s.mem.read (placeIn s.persistent i) := by
  obtain ⟨-, hhigh, hclass⟩ := ckptOfDpa_range hi
  have hsize := ckptSize_whole.2.2
  obtain ⟨hall, hex⟩ := regionCells_at hl (i := i) (by omega)
  refine Memory.ofCells_read (fun c hc he => ?_) fun h0 => ?_
  · rcases List.mem_append.mp hc with hc | hc
    · have hout := (List.mem_filter.mp hc).2
      rw [he, ha, hclass] at hout
      cases hout
    · obtain ⟨j, hm, hj, hd⟩ := mem_restoredHbm.mp hc
      have hij : ckptOfDpa a = some j := by rw [← he, hd, (ofHbm_range hj).1]
      rw [hi] at hij
      cases hij
      exact hall _ hm
  · refine List.mem_append_right _ (mem_restoredHbm.mpr ⟨i, hex h0, ofHbm_of_dpa ha hi, (ckptDpa_of_ckptOfDpa hi).symm⟩)

theorem restored_outside {a : Nat} (ha : dpaClass a ≠ 0) : (Memory.ofCells s.restoredMem).read a = s.mem.read a := by
  have hwf := memWf_mem hl.2.2
  refine Memory.ofCells_read (fun c hc he => ?_) fun h0 => ?_
  · rcases List.mem_append.mp hc with hc | hc
    · rw [← he]
      exact Memory.eq_read_of_mem hwf (List.mem_filter.mp hc).1
    · obtain ⟨j, -, hj, hd⟩ := mem_restoredHbm.mp hc
      rw [← he, hd] at ha
      exact absurd (ckptOfDpa_range (ofHbm_range hj).1).2.2 ha
  · refine List.mem_append_left _ (List.mem_filter.mpr ⟨Memory.mem_of_read_ne hwf h0, ?_⟩)
    simp [ha]

/-- The mark of a restored granule of HBM is that of its place. -/
theorem restored_mark {a i : Nat} (ha : s.liveByte a = true) (hi : ckptOfDpa a = some i) :
    a / 64 ∈ s.restoredMarks ↔ placeIn s.persistent i / 64 ∈ s.poison := by
  obtain ⟨-, hhigh, hclass⟩ := ckptOfDpa_range hi
  obtain ⟨-, hgran⟩ := ckptOfDpa_granule hi
  have hsize := ckptSize_whole.2.2
  have hplace := place_granule hl (i := i) (by omega)
  rw [restoredMarks, List.mem_append]
  constructor
  · rintro (hg | hg)
    · have hout := (List.mem_filter.mp hg).2
      rw [(ckptOfDpa_range hgran).2.2] at hout
      cases hout
    · obtain ⟨g, hg, he⟩ := List.mem_filterMap.mp hg
      obtain ⟨j, hj, he⟩ := Option.bind_eq_some_iff.mp he
      split at he
      · next hof =>
        obtain ⟨hdpa, -, hjlt⟩ := ofHbm_range hof
        have hpj := placeIn_of_regionOf hj
        have hj64 : j % 64 = 0 := by
          have := (placeIn_granule s.persistent_whole (i := j) (by have := hl.1; omega)).1
          omega
        have hda : ckptDpa j = 64 * (a / 64) := by
          have := (ckptOfDpa_granule hdpa).1
          have := Option.some.inj he
          omega
        rw [hda, hgran] at hdpa
        rw [← Option.some.inj hdpa, hplace] at hpj
        rwa [Nat.eq_of_mul_eq_mul_left (by decide) hpj]
      · cases he
  · intro hg
    refine .inr (List.mem_filterMap.mpr ⟨_, hg, Option.bind_eq_some_iff.mpr ⟨64 * (i / 64), ?_, ?_⟩⟩)
    · rw [← hplace, regionOf_place hl (by omega)]
    · rw [if_pos (ofHbm_of_dpa (by rw [liveByte_granule, ha]) hgran), ckptDpa_of_ckptOfDpa hgran,
        Nat.mul_div_cancel_left _ (by decide)]

/-- A core's restored image holds what stands at the image's place. -/
theorem restoredImage_at {k x : Nat} (hk : k < 49152) (hx : x < coreBytes) :
    holdsAt (s.restoredImage k) x (s.mem.read (placeIn s.persistent (ckptCore k + x))) := by
  have hlt := (ckptCore_range hk hx).2
  obtain ⟨hall, hex⟩ := regionCells_at hl hlt
  refine ⟨fun c hc he => ?_, fun h0 => mem_restoredImage.mpr (mem_restoredLocs.mpr ⟨hx, hlt, hex h0⟩)⟩
  obtain ⟨-, -, hm⟩ := mem_restoredLocs.mp (mem_restoredImage.mp hc)
  rw [he] at hm
  exact hall _ hm

theorem restoredCore_loc {c : Core} (hk : c.idx < 49152) {x : Nat} (hx : x < localBytes) :
    (s.restoredCore c).mem.loc.read x = s.mem.read (placeIn s.persistent (ckptCore c.idx + x)) := by
  obtain ⟨hall, hex⟩ := restoredImage_at hl hk (Nat.lt_add_right (2 ^ 18) hx)
  exact Memory.ofCells_read (fun z hz he => hall z (List.mem_filter.mp hz).1 he)
    fun h0 => List.mem_filter.mpr ⟨hex h0, decide_eq_true hx⟩

theorem restoredCore_imem {c : Core} (hk : c.idx < 49152) {x : Nat} (hx : x < 2 ^ 18) :
    (s.restoredCore c).mem.imem.read x = s.mem.read (placeIn s.persistent (ckptCore c.idx + localBytes + x)) := by
  obtain ⟨hall, hex⟩ := restoredImage_at hl hk (Nat.add_lt_add_left hx localBytes)
  rw [← Nat.add_assoc] at hall hex
  refine Memory.ofCells_read (fun z hz he => ?_) fun h0 => List.mem_filterMap.mpr ⟨_, hex h0, ?_⟩
  · obtain ⟨y, hy, hz⟩ := List.mem_filterMap.mp hz
    split at hz
    · next hle =>
      obtain rfl := Option.some.inj hz
      dsimp only at he
      exact hall y hy (by omega)
    · cases hz
  · dsimp only
    rw [if_pos (Nat.le_add_right ..), Nat.add_sub_cancel_left]

end

theorem restoredCore_bad {s : State} {c : Core} {x : Nat} (hx : x < localBytes / 16) :
    x ∈ (s.restoredCore c).mem.bad ↔ (c.idx, x) ∈ s.module.ckptBad := by
  rw [← mem_restoredBad]
  exact List.mem_filter.trans (and_iff_left (decide_eq_true hx))

end State

end Sys2Proof.Machine
end

section
/-! Homes: epochs, moves and MIGCTL.HOME (rules R134, R135). -/

namespace Sys2Proof.Machine
open Sys2Proof

namespace State

/-! ### Epochs -/

/-- Wishes for homes may have changed: cores, memory and counters have not, and a move that has begun stays as it is. -/
def wished (s t : State) : Prop :=
  s.coresKept t ∧ s.memKept t ∧ t.module.counts = s.module.counts ∧ ∀ h ∈ s.module.homes, h.moving.isSome = true → h ∈ t.module.homes

theorem wished_refl (s : State) : s.wished s := ⟨s.coresKept_refl, s.memKept_refl, rfl, fun _ hh _ => hh⟩

theorem wished_trans {s t u : State} (h : s.wished t) (g : t.wished u) : s.wished u := by
  obtain ⟨hc, hm, hn, hh⟩ := h
  obtain ⟨gc, gm, gn, gh⟩ := g
  exact ⟨⟨gc.1.trans hc.1, gc.2.trans hc.2⟩, memKept_trans hm gm, gn.trans hn, fun x hx hmoves => gh x (hh x hx hmoves) hmoves⟩

theorem wantHome_wished (s : State) (b u : Nat) : s.wished (s.wantHome b u) := by
  unfold wantHome
  dsimp only
  split
  · refine ⟨⟨rfl, rfl⟩, ⟨rfl, rfl, rfl⟩, rfl, fun h hh hmoves => List.mem_map.mpr ⟨h, hh, if_neg ?_⟩⟩
    rw [Option.isNone_eq_false_iff.mpr hmoves, Bool.and_false]
    exact Bool.false_ne_true
  · exact ⟨⟨rfl, rfl⟩, ⟨rfl, rfl, rfl⟩, rfl, fun h hh _ => List.mem_append_left _ hh⟩

theorem unwant_wished (s : State) (b : Nat) : s.wished (s.unwant b) := by
  refine ⟨⟨rfl, rfl⟩, ⟨rfl, rfl, rfl⟩, rfl, fun h hh hmoves => List.mem_filter.mpr ⟨hh, ?_⟩⟩
  rw [Option.isNone_eq_false_iff.mpr hmoves, Bool.and_false]
  rfl

theorem epochMove_wished (s : State) (h : HomeCount) : s.wished (s.epochMove h) := by
  unfold epochMove
  extract_lets home
  split
  · split
    · exact s.unwant_wished _
    · exact s.wantHome_wished _ _
  · generalize bestUnit h.counts = best
    obtain ⟨u, n⟩ := best
    dsimp only
    split
    · exact s.wished_refl
    · split
      · exact s.wantHome_wished _ _
      · split
        · exact wished_trans (s.wantHome_wished _ _) (wantHome_wished ..)
        · exact s.wished_refl

/-- The counters at the end of an epoch. -/
def halved (s : State) : List HomeCount := s.module.counts.map (fun h => { h with counts := h.counts.map (· / 2) })

theorem epochEnd_off {s : State} (h : s.module.migctl.getLsbD 0 = false) :
    s.epochEnd = { s with module := { s.module with counts := s.halved } } := by
  rw [epochEnd, h]
  rfl

theorem epochEnd_on (s : State) : s.coresKept s.epochEnd ∧ s.memKept s.epochEnd ∧ s.epochEnd.module.counts = s.halved ∧
    ∀ h ∈ s.module.homes, h.moving.isSome = true → h ∈ s.epochEnd.module.homes := by
  unfold epochEnd
  extract_lets s1
  obtain ⟨hc, hm, hn, hh⟩ : s.wished s1 := by
    simp only [s1]
    split
    · exact Core.foldl_of_kept (P := s.wished) (fun _ _ _ ht => wished_trans ht (epochMove_wished ..)) s.wished_refl
    · exact s.wished_refl
  refine ⟨hc, hm, ?_, hh⟩
  rw [halved, ← hn]

/-! ### Moves -/

/-- The wanted move of a block may begin (rules R134, R135). -/
def moveDue (s : State) (b : Nat) (h : HomeEntry) (u : Nat) : Prop :=
  s.module.homes.find? (fun h => h.block == b) = some h ∧ h.moving = none ∧ h.want = some u ∧ s.blockInUse b = false ∧
    s.moveCarried h.block h.unit u = true ∧ (u = 11 ∨ (s.heldAt u < 32 ∧ ∀ c ∈ s.module.counts, c.block = b → c.pinned = false))

theorem roomFor_iff (s : State) (b u : Nat) :
    (u == 11 || (decide (s.heldAt u < 32) && !s.module.counts.any (fun k => k.block == b && k.pinned))) = true ↔
      u = 11 ∨ (s.heldAt u < 32 ∧ ∀ c ∈ s.module.counts, c.block = b → c.pinned = false) := by
  simp

theorem mayMove_iff {s : State} {b : Nat} {h : HomeEntry} (hfind : s.module.homes.find? (fun h => h.block == b) = some h) :
    s.mayMove h = true ↔ ∃ u, s.moveDue b h u := by
  have hb : h.block = b := by simpa using List.find?_some hfind
  unfold mayMove moveDue
  cases hw : h.want with
  | none => simp
  | some u =>
    rw [Bool.and_eq_true, roomFor_iff, hb]
    simp [hfind, and_assoc]

theorem homeStart_due {s : State} {b u : Nat} {h : HomeEntry} (hd : s.moveDue b h u) : s.homeStart b =
    { s.drawn with module := { s.module with homes := s.module.homes.map (fun h =>
      if h.block == b then { h with moving := some (s.cycle + 1 + s.free (2 ^ 24)) } else h) } } := by
  have hmay := (mayMove_iff hd.1).mpr ⟨u, hd⟩
  rw [homeStart, hd.1]
  dsimp only
  rw [hmay]
  rfl

theorem homeStart_of_not_due {s : State} {b : Nat} (hn : ¬ ∃ h u, s.moveDue b h u) : s.homeStart b = s := by
  rw [homeStart]
  split
  · rfl
  · next h hfind =>
    have hmay : s.mayMove h = false := by
      rw [← Bool.not_eq_true, mayMove_iff hfind]
      exact fun ⟨u, hu⟩ => hn ⟨h, u, hu⟩
    rw [hmay]
    rfl

/-- The homes once a block's move to its wanted unit has ended. -/
def homesAfter (s : State) (b u : Nat) : List HomeEntry :=
  let rest := s.module.homes.filter (fun x => x.block != b)
  if u = 11 then rest else rest ++ [{ block := b, unit := u, want := (if s.module.migctl.getLsbD 1 then some 11 else none), moving := none }]

theorem homeFinish_of_due {s : State} {b : Nat} {h : HomeEntry}
    (hd : s.module.homes.find? (fun h => h.block == b && h.moving.any (fun t => decide (t ≤ s.cycle))) = some h) : s.homeFinish b =
    ({ s with module := { s.module with homes := s.homesAfter b (h.want.getD 11)
                                        migctl := setBits s.module.migctl 63 48 ((bits s.module.migctl 63 48 + 1) % 2 ^ 16) } }).homeSettled := by
  rw [homeFinish, hd]
  rfl

theorem homeSettled_memKept (s : State) : s.memKept s.homeSettled := by
  unfold homeSettled
  split <;> exact ⟨rfl, rfl, rfl⟩

theorem homeSettled_moves (s : State) : bits s.homeSettled.module.migctl 63 48 = bits s.module.migctl 63 48 := by
  unfold homeSettled
  split
  · exact bits_and_of_ones (by decide)
  · rfl

theorem homeSettled_some {s : State} (h : s.module.homes ≠ []) : s.homeSettled = s :=
  if_neg (by simpa using h)

theorem homeSettled_homes (s : State) : s.homeSettled.module.homes = s.module.homes := by
  obtain ⟨-, -, v, h⟩ := s.homeSettled_kept
  rw [h]

/-- A move's end: the block's new home, and MOVES counts it (rule R134). -/
theorem homeFinish_spec {s : State} {b : Nat} {h : HomeEntry}
    (hd : s.module.homes.find? (fun h => h.block == b && h.moving.any (fun t => decide (t ≤ s.cycle))) = some h) :
    let t := s.homeFinish b
    s.coresKept t ∧ s.memKept t ∧ t.module.homes = s.homesAfter b (h.want.getD 11) ∧
      bits t.module.migctl 63 48 = (bits s.module.migctl 63 48 + 1) % 2 ^ 16 ∧
      (s.homesAfter b (h.want.getD 11) = [] → t.module.migctl.getLsbD 1 = false) := by
  intro t
  have ht : t = _ := homeFinish_of_due hd
  rw [ht]
  refine ⟨(homeSettled_kept _).1, homeSettled_memKept _, homeSettled_homes _, ?_, fun h0 => homeSettled_home h0⟩
  rw [homeSettled_moves, bits_setBits _ _ _ _ (by decide)]
  omega

/-! ### MIGCTL.HOME -/

/-- A block among those of `hs` whose move has not begun is wanted at its controller. -/
def wantedBack (hs : List HomeEntry) (x : HomeEntry) : HomeEntry :=
  if hs.any (fun h => h.block == x.block) && x.moving.isNone then { x with want := some 11 } else x

theorem wantedBack_keeps (hs : List HomeEntry) (x : HomeEntry) :
    (wantedBack hs x).block = x.block ∧ (wantedBack hs x).moving = x.moving := by
  unfold wantedBack
  split <;> exact ⟨rfl, rfl⟩

theorem wantedBack_cons (h : HomeEntry) (hs : List HomeEntry) (x : HomeEntry) : wantedBack hs (wantedBack [h] x) = wantedBack (h :: hs) x := by
  obtain ⟨hb, hm⟩ := wantedBack_keeps [h] x
  rw [wantedBack, hb, hm]
  unfold wantedBack
  rw [List.any_cons, List.any_cons, List.any_nil, Bool.or_false]
  cases h.block == x.block <;> cases hs.any (fun h => h.block == x.block) <;> cases x.moving.isNone <;> rfl

theorem wantHome_of_mem {s : State} {h : HomeEntry} (hh : h.block ∈ s.module.homes.map (·.block)) : s.wantHome h.block 11 =
    { s with module := { s.module with homes := s.module.homes.map (wantedBack [h]) } } := by
  obtain ⟨x, hx, he⟩ := List.mem_map.mp hh
  obtain ⟨y, hy⟩ : ∃ y, s.module.homes.find? (fun x => x.block == h.block) = some y :=
    Option.isSome_iff_exists.mp (List.find?_isSome.mpr ⟨x, hx, by simpa using he⟩)
  rw [wantHome, hy]
  dsimp only
  have hmap : s.module.homes.map (fun x => if x.block == h.block && x.moving.isNone then { x with want := some 11 } else x) =
      s.module.homes.map (wantedBack [h]) := List.map_congr_left fun x _ => by
    rw [wantedBack, List.any_cons, List.any_nil, Bool.or_false, Bool.beq_comm]
  rw [hmap]

theorem foldl_wantHome : ∀ (hs : List HomeEntry) (s : State), (∀ h ∈ hs, h.block ∈ s.module.homes.map (·.block)) →
    hs.foldl (fun s h => s.wantHome h.block 11) s =
      { s with module := { s.module with homes := s.module.homes.map (wantedBack hs) } } := by
  intro hs
  induction hs with
  | nil =>
    intro s _
    have hid : s.module.homes.map (wantedBack []) = s.module.homes := List.map_id _
    rw [hid]
    rfl
  | cons h hs ih =>
    intro s hall
    rw [List.foldl_cons, wantHome_of_mem (hall h List.mem_cons_self), ih]
    · have hmap : (s.module.homes.map (wantedBack [h])).map (wantedBack hs) = s.module.homes.map (wantedBack (h :: hs)) := by
        rw [List.map_map]
        exact List.map_congr_left fun x _ => wantedBack_cons h hs x
      rw [← hmap]
    · intro x hx
      rw [List.map_map, show (HomeEntry.block ∘ wantedBack [h]) = HomeEntry.block from funext fun x => (wantedBack_keeps [h] x).1]
      exact hall x (List.mem_cons_of_mem _ hx)

/-- The blocks away from their controllers, or on their way. -/
def away (s : State) : List HomeEntry := s.module.homes.filter (fun h => h.unit != 11 || h.moving.isSome)

/-- The part once every block is wanted at its controller. -/
def sentHome (s : State) (w : Word) : State :=
  { s with module := { s.module with
    migctl := fieldWrite s.module.migctl w 0xFFFF0001 0 ||| 2, homes := s.away.map (wantedBack s.away) } }

theorem migWrite_home {s : State} {w : Word} (he : bits w 23 16 ≠ 0) (hw : w.getLsbD 1 = true) :
    s.migWrite w = (s.sentHome w).homeSettled := by
  rw [migWrite, if_neg he]
  dsimp only
  rw [hw]
  refine congrArg homeSettled ?_
  exact foldl_wantHome _ _ fun h hh => List.mem_map_of_mem hh

/-- MIGCTL.HOME wants every block at its controller (rule R135). -/
theorem migWrite_spec {s : State} {w : Word} (he : bits w 23 16 ≠ 0) (hw : w.getLsbD 1 = true) : let t := s.migWrite w
    s.coresKept t ∧ s.memKept t ∧ t.module.homes.map (·.block) = s.away.map (·.block) ∧
      (∀ h ∈ t.module.homes, h.moving = none → h.want = some 11) ∧ t.module.migctl.getLsbD 1 = !s.away.isEmpty := by
  intro t
  have ht : t = _ := migWrite_home he hw
  rw [ht, homeSettled_homes]
  refine ⟨(homeSettled_kept _).1, homeSettled_memKept _, ?_, fun h hh hm => ?_, ?_⟩
  · exact (List.map_map ..).trans (List.map_congr_left fun x _ => (wantedBack_keeps _ x).1)
  · obtain ⟨x, hx, rfl⟩ := List.mem_map.mp hh
    rw [(wantedBack_keeps ..).2] at hm
    have hany : s.away.any (fun h => h.block == x.block) = true := List.any_eq_true.mpr ⟨x, hx, beq_self_eq_true _⟩
    rw [wantedBack, hany, hm]
    rfl
  · by_cases h0 : s.away = []
    · rw [homeSettled_home (congrArg (List.map _) h0), h0]
      rfl
    · have hne : (s.sentHome w).module.homes ≠ [] := fun h => h0 (List.map_eq_nil_iff.mp h)
      rw [homeSettled_some hne, List.isEmpty_eq_false_iff.mpr h0]
      exact (BitVec.getLsbD_or ..).trans (by simp)

end State

end Sys2Proof.Machine
end

section
/-! Accesses from outside at a block's home (rules R131, R134, R136, R141). -/

namespace Sys2Proof.Machine
open Sys2Proof

theorem mem_map_placed {y : Nat} : ∀ {bs : List Byte} {a : Nat},
    y ∈ (placed a bs).map (·.1 / 64) ↔ ∃ i, i < bs.length ∧ y = (a + i) / 64
  | [], a => by simp [placed]
  | b :: bs, a => by
    rw [placed, List.map_cons, List.mem_cons, mem_map_placed, List.length_cons]
    constructor
    · rintro (rfl | ⟨i, hi, rfl⟩)
      · exact ⟨0, by omega, rfl⟩
      · exact ⟨i + 1, by omega, by rw [Nat.add_assoc, Nat.add_comm 1 i]⟩
    · rintro ⟨i, hi, rfl⟩
      cases i with
      | zero => exact .inl rfl
      | succ i => exact .inr ⟨i, by omega, by rw [Nat.add_assoc, Nat.add_comm 1 i]⟩

namespace State

/-! ### What reads have taken of writes on their way -/

/-- The part once what reads have taken of these granules has reached its home. -/
def seenDone (s : State) (gs : List Nat) : State := gs.foldl performSeen s

theorem performSeen_performed (s : State) (g : Nat) : s.performed (s.performSeen g) := performAll_performed ..

/-- What reads have taken of the granules that meet a condition has reached its home, and beyond that nothing of memory has changed. -/
def taken (s v : State) (meets : Nat → Prop) : Prop :=
  s.dataKept v ∧ (∀ x ∈ v.late, x.link.isSome = true → meets x.granule → x.seenBy = []) ∧
    (∀ d, s.untouched d → v.mem.read d = s.mem.read d) ∧
    ((∀ x ∈ s.late, x.link.isSome = true → meets x.granule → x.seenBy = []) → v = s)

theorem performSeen_of_none {s : State} {g : Nat} (h : ∀ x ∈ s.late, x.link.isSome = true → x.granule = g → x.seenBy = []) :
    s.performSeen g = s := by
  refine performAll_of_none fun x hx => ?_
  rw [Bool.eq_false_iff]
  intro hp
  simp only [Bool.and_eq_true, beq_iff_eq] at hp
  obtain ⟨⟨hlink, hg⟩, hseen⟩ := hp
  rw [h x hx hlink hg] at hseen
  cases hseen

theorem seenDone_taken (s : State) (gs : List Nat) : s.taken (s.seenDone gs) (fun g => g ∈ gs) := by
  refine ⟨performed_dataKept (foldl_performed performSeen_performed ..), fun x hx hlink hg => ?_, ?_, fun h => ?_⟩
  · have hclear : ∀ y ∈ (s.seenDone gs).late, y.link.isSome = true → y.granule = x.granule → y.seenBy.isEmpty = true :=
      Core.foldl_of_made (f := performSeen) (P := fun t : State => ∀ y ∈ t.late, y.link.isSome = true → y.granule = x.granule → y.seenBy.isEmpty = true)
        (fun t g _ ht y hy hl => ht y (performAll_mem t _ hl hy) hl) hg (fun t => performSeen_clears t _) s
    exact List.isEmpty_iff.mp (hclear x hx hlink rfl)
  · exact (Core.foldl_of_kept (P := s.homed) (fun t _ _ ht => homed_trans ht (performAll_homed ..)) s.homed_refl).2
  · refine Core.foldl_of_kept (P := fun t : State => t = s) (fun t g hg ht => ?_) rfl
    rw [ht]
    exact performSeen_of_none fun x hx hl he => h x hx hl (he ▸ hg)

theorem taken_congr {s v : State} {p q : Nat → Prop} (h : s.taken v p) (hpq : ∀ g, p g ↔ q g) : s.taken v q := by
  rwa [show q = p from funext fun g => propext (hpq g).symm]

/-! ### Reads -/

theorem readHomes_frame (s : State) (ranges : List (Nat × Nat)) : ∃ log n, s.readHomes ranges =
    { s with module := { s.module with elog := log, elogCount := n } } := foldl_logHome_frame ..

/-- The granules of a word that are read beyond correction (rule R378). -/
def sickWord (s : State) (a : Nat) : List Nat := s.poison.filter (fun g => decide (64 * g < a + 8) && decide (a < 64 * g + 64))

theorem sickIn_word (s : State) (a : Nat) : s.sickIn [(a, 8)] = (s.sickWord a).mergeSort := by
  unfold sickIn sickWord
  simp only [List.any_cons, List.any_nil, Bool.or_false]

theorem readHomes_word (s : State) (a : Nat) : let v := s.readHomes [(a, 8)]
    s.coresKept v ∧ s.memKept v ∧ v.late = s.late ∧ v.module.elogCount = s.module.elogCount + (s.sickWord a).length ∧
      ((∀ g ∈ s.poison, a + 8 ≤ 64 * g ∨ 64 * g + 64 ≤ a) → v = s) := by
  intro v
  obtain ⟨log, n, hv⟩ : ∃ log n, v = { s with module := { s.module with elog := log, elogCount := n } } := readHomes_frame ..
  refine ⟨hv ▸ ⟨rfl, rfl⟩, hv ▸ ⟨rfl, rfl, rfl⟩, hv ▸ rfl, ?_, fun h => ?_⟩
  · rw [← List.length_mergeSort, ← sickIn_word]
    exact foldl_logHome_count ..
  · have hnil : s.sickWord a = [] := List.filter_eq_nil_iff.mpr fun g hg => by
      simp only [Bool.and_eq_true, decide_eq_true_eq, not_and]
      have := h g hg
      omega
    rw [show v = (s.sickIn [(a, 8)]).foldl logHome s from rfl, sickIn_word, hnil, List.mergeSort_nil]
    rfl

/-- Granules that the companion keeps as copies once it has read a word (rule R139). -/
def mirrorAfter (s : State) (a unit : Nat) : List Nat :=
  if unit = 4 ∧ dpaClass a ≤ 1 ∧ a / 64 ∉ s.mirrored then (a / 64) :: s.mirrored else s.mirrored

theorem farClass_iff (a : Nat) : (!(decide (dpaClass a ≤ 2) || decide (dpaClass a = 4))) = true ↔ ¬ (dpaClass a ≤ 2 ∨ dpaClass a = 4) := by
  rw [Bool.not_eq_true', Bool.eq_false_iff, ne_eq, Bool.or_eq_true, decide_eq_true_eq, decide_eq_true_eq]

theorem homeUse_far {s : State} {a : Nat} (h : ¬ (dpaClass a ≤ 2 ∨ dpaClass a = 4)) (how unit : Nat) (bs : List Byte) :
    s.homeUse a how unit bs = s := if_pos ((farClass_iff a).mpr h)

section
variable {s : State} {a : Nat} (h : dpaClass a ≤ 2 ∨ dpaClass a = 4) (unit : Nat) (bs : List Byte)
include h

theorem homeUse_read : s.homeUse a 0 unit bs =
    { s.readHomes [(a, 8)] with readback := s.readWord a, mirrored := s.mirrorAfter a unit } := by
  have hmirror : s.mirrorAfter a unit =
      if unit = 4 && dpaClass a ≤ 1 && !s.mirrored.contains (a / 64) then (a / 64) :: s.mirrored else s.mirrored := by
    unfold mirrorAfter
    refine if_congr ?_ rfl rfl
    simp [and_assoc]
  rw [homeUse, if_neg (mt (farClass_iff a).mp (not_not_intro h)), hmirror]

/-- The granules that hold a byte of a write. -/
def granulesOf (a : Nat) (bs : List Byte) : List Nat := ((Machine.placed a bs).map (fun c => c.1 / 64)).eraseDups

theorem homeUse_write : let v := s.seenDone (granulesOf a bs)
    s.homeUse a 1 unit bs = { (v.logWrites a bs).writeMem a bs with
      poison := v.poison.filter (fun g => !(decide (a ≤ 64 * g) && decide (64 * g + 64 ≤ a + bs.length))) } := by
  intro v
  rw [homeUse, if_neg (mt (farClass_iff a).mp (not_not_intro h))]
  rfl

theorem homeUse_atomic (atop : Nat) : s.homeUse a (atop + 2) unit bs = s.homeAtomic a atop unit bs := by
  rw [homeUse, if_neg (mt (farClass_iff a).mp (not_not_intro h))]

end

/-! ### Writes -/

theorem logWrites_frame (s : State) (a : Nat) (bs : List Byte) : s.logWrites a bs = { s with journal := (s.logWrites a bs).journal } := by
  refine Core.foldl_of_kept (P := fun t : State => t = { s with journal := t.journal }) (fun t g _ h => ?_) rfl
  dsimp only
  rw [logWrite_frame, h]

theorem writeMem_frame (s : State) (a : Nat) (bs : List Byte) : s.writeMem a bs = { s with mem := (s.writeMem a bs).mem } := by
  unfold writeMem
  split <;> rfl

/-- What a write leaves does not depend on the log of persistent writes, on the counters and on the log of errors. -/
theorem writeMem_mem_congr {s t : State} (hmem : t.mem = s.mem) (hgone : t.module.hbmret = s.module.hbmret) (a : Nat) (bs : List Byte) :
    (t.writeMem a bs).mem = (s.writeMem a bs).mem := by
  unfold writeMem channelDead
  rw [hgone]
  split
  · exact hmem
  · rw [hmem]

/-- A write of consecutive bytes, with its entries in the log of persistent writes. -/
def writesOut (s : State) (a : Nat) (bs : List Byte) : State := (s.logWrites a bs).writeMem a bs

theorem writesOut_spec (s : State) (a : Nat) (bs : List Byte) : let t := s.writesOut a bs
    s.coresKept t ∧ t.poison = s.poison ∧ t.mem = (s.writeMem a bs).mem := by
  intro t
  have hmem : t.mem = (s.writeMem a bs).mem := by
    refine writeMem_mem_congr ?_ ?_ a bs <;> rw [logWrites_frame]
  refine ⟨?_, ?_, hmem⟩
  · rw [show t = (s.logWrites a bs).writeMem a bs from rfl, writeMem_frame, logWrites_frame]
    exact ⟨rfl, rfl⟩
  · rw [show t = (s.logWrites a bs).writeMem a bs from rfl, writeMem_frame, logWrites_frame]

/-- A write from outside at the home (rules R134, R141). -/
theorem homeUse_write_spec {s : State} {a : Nat} (h : dpaClass a ≤ 2 ∨ dpaClass a = 4) (unit : Nat) (bs : List Byte) :
    let v := s.seenDone (granulesOf a bs)
    let t := s.homeUse a 1 unit bs
    s.taken v (fun g => ∃ i, i < bs.length ∧ g = (a + i) / 64) ∧ v.coresKept t ∧ t.mem = (v.writeMem a bs).mem ∧
      ∀ g, g ∈ t.poison ↔ g ∈ v.poison ∧ ¬ (a ≤ 64 * g ∧ 64 * g + 64 ≤ a + bs.length) := by
  intro v t
  obtain ⟨hcores, -, hmem⟩ := v.writesOut_spec a bs
  refine ⟨taken_congr (s.seenDone_taken _) fun g => List.mem_eraseDups.trans mem_map_placed, ?_⟩
  rw [show t = _ from homeUse_write h unit bs]
  refine ⟨hcores, hmem, fun g => List.mem_filter.trans (and_congr_right fun _ => ?_)⟩
  rw [Bool.not_eq_true', Bool.eq_false_iff, ne_eq, Bool.and_eq_true, decide_eq_true_eq, decide_eq_true_eq]

/-! ### Atomic operations -/

/-- The bytes of an atomic operation's operand. -/
def atomWidth (atop : Nat) (bs : List Byte) : Nat := if atop = 9 then bs.length / 2 else bs.length

/-- What an atomic operation makes of the old value. -/
def atomResult (atop old : Nat) (bs : List Byte) : Nat :=
  let n := atomWidth atop bs
  atomNew atop (if n = 2 then 3 else 5) n old (ofBytes (if atop = 9 then bs.drop n else bs)) (ofBytes (bs.take n))

/-- An atomic operation from outside at the home (rules R131, R134, R141). -/
theorem homeAtomic_spec (s : State) (a atop unit : Nat) (bs : List Byte) :
    let v := s.performSeen (a / 64)
    let t := s.homeAtomic a atop unit bs
    let n := atomWidth atop bs
    let old := v.mem.readNat a n
    s.taken v (fun g => g = a / 64) ∧ v.coresKept t ∧ t.poison = v.poison ∧ (v.poisoned a = true → t.mem = v.mem) ∧
      (v.poisoned a = false → t.mem = (v.writeMem a (toBytes n (atomResult atop old bs))).mem) ∧ t.readback = BitVec.ofNat 64 old := by
  intro v t n old
  have htaken : s.taken v (fun g => g = a / 64) := taken_congr (s.seenDone_taken [a / 64]) fun g => List.mem_singleton
  refine ⟨htaken, ?_⟩
  obtain ⟨log, k, hr⟩ := v.readHomes_frame [(a, n)]
  let w := (v.readHomes [(a, n)]).countHome unit a
  obtain ⟨hwcores, hwmem, hwpoison, hwgone⟩ :
      v.coresKept w ∧ w.mem = v.mem ∧ w.poison = v.poison ∧ w.module.hbmret = v.module.hbmret := by
    simp only [w]
    rw [countHome_frame, hr]
    exact ⟨⟨rfl, rfl⟩, rfl, rfl, rfl⟩
  obtain ⟨hcores, hpoison, hmem⟩ := w.writesOut_spec a (toBytes n (atomResult atop old bs))
  rw [writeMem_mem_congr hwmem hwgone] at hmem
  have ht : t = { (if v.poisoned a then w else w.writesOut a (toBytes n (atomResult atop old bs))) with readback := BitVec.ofNat 64 old } := by
    have hmade : t = { (if (v.readHomes [(a, n)]).poisoned a then w
        else w.writesOut a (toBytes n (atomResult atop ((v.readHomes [(a, n)]).mem.readNat a n) bs)))
        with readback := BitVec.ofNat 64 ((v.readHomes [(a, n)]).mem.readNat a n) } := rfl
    have hread : (v.readHomes [(a, n)]).mem = v.mem ∧ (v.readHomes [(a, n)]).poisoned a = v.poisoned a := by
      rw [hr]
      exact ⟨rfl, rfl⟩
    rw [hmade, hread.1, hread.2]
  rw [ht]
  cases hp : v.poisoned a with
  | true => exact ⟨hwcores, hwpoison, fun _ => hwmem, nofun, rfl⟩
  | false =>
    exact ⟨⟨hcores.1.trans hwcores.1, hcores.2.trans hwcores.2⟩, hpoison.trans hwpoison, nofun, fun _ => hmem, rfl⟩

end State

end Sys2Proof.Machine
end

section
/-! Checkpoints, migration and homes, event by event (rules R93, R94, R131, R134 to R136, R141). -/

namespace Sys2Proof.Machine
open Sys2Proof

namespace State

theorem liveByte_iff {s : State} {a : Nat} : s.liveByte a = true ↔ s.channelGone (hbmStack a) (hbmChannel a) = false :=
  Iff.of_eq (Bool.not_eq_true' _)

theorem poisoned_congr {s t : State} {a b : Nat} (h : a / 64 ∈ s.poison ↔ b / 64 ∈ t.poison) : s.poisoned a = t.poisoned b := by
  rw [Bool.eq_iff_iff, poisoned, poisoned, List.contains_iff_mem, List.contains_iff_mem, h]

theorem ckptEnded_of {s v : State} (h : v.module.ckptctl = s.module.ckptctl) {err : Nat} (he : err < 4) : s.ckptEnded (v.ckptDone err) err := by
  have hv := v.ckptDone_ended he
  unfold ckptEnded at hv ⊢
  rwa [h] at hv

section
variable {s : State} (hl : s.ckptLaid)
include hl

/-- A save leaves each byte and each mark of live HBM at its place (rule R94). -/
theorem save_hbm (hcores : s.coresLaid) {a i : Nat} (ha : s.channelGone (hbmStack a) (hbmChannel a) = false) (hi : ckptOfDpa a = some i) :
    (s.savedState.ckptDone 0).mem.read (placeIn s.persistent i) = s.mem.read a ∧
      (s.savedState.ckptDone 0).poisoned (placeIn s.persistent i) = s.poisoned a :=
  ⟨saved_hbm hl hcores (liveByte_iff.mpr ha) hi, poisoned_congr (saved_mark hl (liveByte_iff.mpr ha) hi)⟩

/-- A save leaves each byte of a core's two spaces at its place. -/
theorem save_core (hcores : ∀ c ∈ s.allCores, c.idx < 49152 ∧ (∀ z ∈ c.mem.loc.cells, z.1 < localBytes) ∧ ∀ z ∈ c.mem.imem.cells, z.1 < 2 ^ 18)
    (hlaid : s.coresLaid) {c : Core} (hc : c ∈ s.allCores) (hone : ∀ d ∈ s.allCores, d.idx = c.idx → d = c) (hloc : c.mem.loc.wf = true)
    (himem : c.mem.imem.wf = true) :
    (∀ x, x < localBytes → (s.savedState.ckptDone 0).mem.read (placeIn s.persistent (ckptCore c.idx + x)) = c.mem.loc.read x) ∧
      (∀ x, x < 2 ^ 18 → (s.savedState.ckptDone 0).mem.read (placeIn s.persistent (ckptCore c.idx + localBytes + x)) = c.mem.imem.read x) ∧
      ∀ x ∈ c.mem.bad, (c.idx, x) ∈ (s.savedState.ckptDone 0).module.ckptBad := by
  obtain ⟨-, hlt, -⟩ := hcores c hc
  refine ⟨fun x hx => ?_, fun x hx => ?_, fun x hx => saved_bad hc hx⟩
  · exact saved_core hl hlaid hc hone (Nat.lt_add_right _ hx) (c.image_loc hloc hx)
  · rw [Nat.add_assoc]
    exact saved_core hl hlaid hc hone (Nat.add_lt_add_left hx _) (c.image_imem himem hlt x)

/-- A restore brings back each byte and each mark of live HBM, and of other memory changes no byte. -/
theorem restore_hbm {a i : Nat} (ha : s.channelGone (hbmStack a) (hbmChannel a) = false) (hi : ckptOfDpa a = some i) :
    (s.restoredState.ckptDone 0).mem.read a = s.mem.read (placeIn s.persistent i) ∧
      (s.restoredState.ckptDone 0).poisoned a = s.poisoned (placeIn s.persistent i) := by
  obtain ⟨hmem, hpoison, -⟩ := s.restoredState_frame
  refine ⟨?_, poisoned_congr ?_⟩
  · rw [show (s.restoredState.ckptDone 0).mem = _ from hmem]
    exact restored_hbm hl (liveByte_iff.mpr ha) hi
  · rw [show (s.restoredState.ckptDone 0).poison = _ from hpoison]
    exact restored_mark hl (liveByte_iff.mpr ha) hi

theorem restore_outside {a : Nat} (ha : dpaClass a ≠ 0) : (s.restoredState.ckptDone 0).mem.read a = s.mem.read a := by
  rw [show (s.restoredState.ckptDone 0).mem = _ from s.restoredState_frame.1]
  exact restored_outside hl ha

/-- A restore brings back each byte and each mark of a core's two spaces, and leaves its registers. -/
theorem restore_core {k : Nat} (hk : k < 49152) : let c := (s.restoredState.ckptDone 0).coreOf k
    c.reg = (s.coreOf k).reg ∧ c.aux.fixes = [] ∧
      (∀ x, x < localBytes → c.mem.loc.read x = s.mem.read (placeIn s.persistent (ckptCore k + x))) ∧
      (∀ x, x < 2 ^ 18 → c.mem.imem.read x = s.mem.read (placeIn s.persistent (ckptCore k + localBytes + x))) ∧
      ∀ x, x < localBytes / 16 → (x ∈ c.mem.bad ↔ (k, x) ∈ s.module.ckptBad) := by
  intro c
  have hidx := s.coreOf_idx k
  have hc : c = s.restoredCore (s.coreOf k) := s.restoredState_core k
  rw [hc]
  refine ⟨rfl, rfl, fun x hx => ?_, fun x hx => ?_, fun x hx => ?_⟩
  · rw [restoredCore_loc hl (hidx.symm ▸ hk) hx, hidx]
  · rw [restoredCore_imem hl (hidx.symm ▸ hk) hx, hidx]
  · rw [restoredCore_bad hx, hidx]

end

/-- The three ends of a restore over ports that are up. -/
theorem ckptRestoreEnd_cases {s : State} (h : s.ckptEnds 2) (hp : s.ckptPortDown = false) :
    (s.poisoned (placeIn s.persistent 0) = true →
      s.ckptRestoreEnd = (s.logHome (placeIn s.persistent 0 / 64)).ckptDone 1) ∧
    (s.poisoned (placeIn s.persistent 0) ≠ true → ¬ s.headerSound → s.ckptRestoreEnd = s.ckptDone 3) ∧
    (s.poisoned (placeIn s.persistent 0) ≠ true → s.headerSound → s.ckptRestoreEnd = s.restoredState.ckptDone 0) := by
  rw [ckptRestoreEnd_up h hp]
  refine ⟨fun hs => if_pos hs, fun hs hh => ?_, fun hs hh => ?_⟩
  · rw [if_neg hs, if_pos (bne_iff_ne.mpr hh)]
  · rw [if_neg hs, if_neg (fun hne => bne_iff_ne.mp hne hh)]

theorem logHome_count (s : State) (g : Nat) : (s.logHome g).module.elogCount = s.module.elogCount + 1 := by
  simp only [logHome, logEntry]

theorem ckptDone_count (s : State) (err : Nat) : (s.ckptDone err).module.elogCount = s.module.elogCount := rfl

theorem logHome_ckptctl (s : State) (g : Nat) : (s.logHome g).module.ckptctl = s.module.ckptctl := by
  simp only [logHome, logEntry]

/-- A header that is itself uncorrectable ends a restore with error 1 and an entry in the log (rules R94, R378). -/
theorem restore_sick (s : State) (g : Nat) : let t := (s.logHome g).ckptDone 1
    s.coresKept t ∧ s.memKept t ∧ s.ckptEnded t 1 ∧ t.module.elogCount = s.module.elogCount + 1 := by
  obtain ⟨hmem, ⟨hcore, hothers⟩, -⟩ := s.logHome_kept g
  obtain ⟨⟨hcore', hothers'⟩, hmem'⟩ := (s.logHome g).ckptDone_kept 1
  refine ⟨⟨hcore'.trans hcore, hothers'.trans hothers⟩, memKept_trans hmem hmem', ckptEnded_of (s.logHome_ckptctl g) (by decide), ?_⟩
  rw [← s.logHome_count g, ckptDone_count]

/-- A write of MIGCTL with HOME set: its other fields are the ones written. -/
theorem bits_or_two (w : Word) : bits (w ||| 2) 23 16 = bits w 23 16 := by
  rw [bits_or, show bits (2 : Word) 23 16 = 0 by decide, Nat.or_zero]

theorem getLsbD_or_two (w : Word) : (w ||| 2).getLsbD 1 = true := by simp

theorem exec_homeAccess {s : State} {how : Nat} (h : s.arg.m = how) :
    exec .homeAccess s = .next (s.homeUse s.arg.n how s.arg.sel s.arg.bytes) := h ▸ rfl

end State

open State

/-- Settles O48: a checkpoint is a list of cells at places that differ for different sources, so that each byte and each mark that it holds
is its source's; homes change by the maps that the events name; and an access from outside is what the home does after the writes that
reads have taken. -/
theorem checkpointsAndHomesComplete : Obligations.CheckpointsAndHomesComplete := by
  unfold Obligations.CheckpointsAndHomesComplete
  intro s m w live begins ends done rs place laid
  refine ⟨fun hgo => ?_, fun hgo => ?_, fun x xs hrs i => ?_, fun he hp => ?_, fun he hp hl hc => ?_, fun he hp => ?_, fun he hp hl => ?_, ?_,
    fun hon => ?_, ?_, fun h hfind => ?_, fun he => ?_, ?_, ?_⟩
  · exact ⟨_, rfl, s.ckptWrite_begins _ (.inl rfl) hgo⟩
  · exact ⟨_, rfl, s.ckptWrite_begins _ (.inr rfl) hgo⟩
  · have hplace : place i = placeIn (x :: xs) i := congrArg (placeIn · i) hrs
    rw [hplace]
    exact placeIn_cons x xs i
  · exact ⟨s.ckptDone 2, congrArg Host.Outcome.next (ckptSaveEnd_down he hp), (s.ckptDone_kept 2).1, (s.ckptDone_kept 2).2, s.ckptDone_ended (by decide)⟩
  · have hlaid : s.coresLaid := fun c hm => ⟨(hc c hm).1, Core.image_lt (hc c hm).2.1 (hc c hm).2.2⟩
    obtain ⟨hcores, hctl, -⟩ := s.savedState_frame
    exact ⟨s.savedState.ckptDone 0, congrArg Host.Outcome.next (ckptSaveEnd_up he hp), hcores, ckptEnded_of hctl (by decide), s.saved_seq, fun a i => save_hbm hl hlaid,
      fun c hm => save_core hl hc hlaid hm, fun d => saved_outside hl hlaid⟩
  · exact ⟨s.ckptDone 2, congrArg Host.Outcome.next (ckptRestoreEnd_down he hp), (s.ckptDone_kept 2).1, (s.ckptDone_kept 2).2, s.ckptDone_ended (by decide)⟩
  · obtain ⟨hsick, hbad, hgood⟩ := ckptRestoreEnd_cases he hp
    refine ⟨fun h => ?_, fun h hh => ?_, fun h hh => ?_⟩
    · exact ⟨_, congrArg Host.Outcome.next (hsick h), s.restore_sick _⟩
    · exact ⟨_, congrArg Host.Outcome.next (hbad h hh), (s.ckptDone_kept 3).1, (s.ckptDone_kept 3).2, s.ckptDone_ended (by decide)⟩
    · exact ⟨_, congrArg Host.Outcome.next (hgood h hh), ckptEnded_of s.restoredState_frame.2.2 (by decide), fun a i => restore_hbm hl,
        fun a => restore_outside hl, fun k => restore_core hl⟩
  · exact fun hoff => congrArg Host.Outcome.next (epochEnd_off hoff)
  · exact ⟨_, rfl, s.epochEnd_on⟩
  · refine ⟨fun ⟨h, u, hd⟩ => ?_, fun hn => congrArg Host.Outcome.next (homeStart_of_not_due hn)⟩
    exact ⟨_, _, congrArg Host.Outcome.next (homeStart_due hd), ⟨rfl, rfl⟩, ⟨rfl, rfl, rfl⟩, by omega, rfl⟩
  · obtain ⟨hcores, hmem, hhomes, hmoves, hhome⟩ := homeFinish_spec hfind
    refine ⟨_, rfl, hcores, hmem, hhomes, hmoves, fun hu hrest => hhome ?_⟩
    rw [homesAfter, if_pos hu]
    exact hrest
  · exact congrArg Host.Outcome.next (if_pos ((bits_or_two w).trans he))
  · exact fun he => ⟨_, rfl, migWrite_spec (fun h0 => he ((bits_or_two w).symm.trans h0)) (getLsbD_or_two w)⟩
  · intro a bs known atop n taken
    refine ⟨fun hfar => ?_, fun hk hm => ?_, fun hk hm => ?_, fun hk hm => ?_⟩
    · exact congrArg Host.Outcome.next (homeUse_far hfar _ _ _)
    · exact ⟨_, (exec_homeAccess hm).trans (congrArg Host.Outcome.next (homeUse_read hk _ _)), s.readHomes_word a⟩
    · exact ⟨_, _, exec_homeAccess hm, homeUse_write_spec hk _ _⟩
    · refine ⟨s.performSeen (a / 64), s.homeAtomic a atop s.arg.sel bs, ?_, ?_⟩
      · rw [exec_homeAccess (how := atop + 2) (by omega), homeUse_atomic hk]
      · obtain ⟨htaken, hcores, hpoison, hsick, hsound, hback⟩ := s.homeAtomic_spec a atop s.arg.sel bs
        exact ⟨htaken, hcores, hpoison, hsick, hsound, hback⟩

end Sys2Proof.Machine
end
